-- ==== Sys2Proof/Word.lean ====
section
/-! DEFINITION. The byte and the 64-bit register word of the NFD880-A (00_scope.md R4, R7). -/

namespace Sys2Proof

/-- One byte of any memory the part addresses. -/
abbrev Byte := BitVec 8

/-- A 64-bit register or data word; a 32-bit register holds 0 in its upper half (R7). -/
abbrev Word := BitVec 64

/-- A 32-bit lane of a Chisyn vector register (04_vector_cores.md Table 4.1). -/
abbrev Lane := BitVec 32

end Sys2Proof
end

