-- ==== Sys2Proof/Input.lean ====
section
/-! DEFINITION. What comes from outside with a command, where it is more than a number. -/

namespace Sys2Proof

/-- A function of the host interface: a virtual function by its stand, or the physical function
(20_host_interface.md R409). -/
inductive Fn where
  | vf (s : Nat)
  | pf
  deriving DecidableEq, Repr

/-- The frame in which a memory found an uncorrectable error (07_memory_tiers.md R160, Table 7.4). -/
inductive FrameError where
  /-- The copy's frame; `homeBad` when the home of the unit is in error too. -/
  | copy (homeBad : Bool)
  /-- The home frame. -/
  | home
  deriving DecidableEq, Repr

/-- A configuration write of the host (20_host_interface.md R409, R418, R419). -/
inductive CfgWrite where
  | busMaster (f : Fn) (on : Bool)
  | vfEnable (on : Bool)
  | numVfs (k : Nat)
  | ats (n : Nat) (on : Bool)
  deriving DecidableEq, Repr

/-- What the device read from host memory for itself: bytes, or an error or poison (20_host_interface.md R417-R419). -/
inductive HostRead where
  | data (bs : List Byte)
  | error
  deriving DecidableEq, Repr

/-- The fields of a Chisyn instruction word beside its OPCODE (04_vector_cores.md Table 4.2). -/
structure VWord where
  dst : BitVec 5 := 0
  src1 : BitVec 5 := 0
  src2 : BitVec 5 := 0
  src3 : BitVec 5 := 0
  mask : BitVec 3 := 0
  type : BitVec 2 := 0
  sat : Bool := false
  rtz : Bool := false
  imm : BitVec 27 := 0
  deriving DecidableEq, Repr

/-- The operations of the scalar ALU: the spec names the group only (04_vector_cores.md Table 4.3; log 12). -/
inductive AluOp where
  | add | sub | mul | and | or | xor | shl | shr | sar | lessSigned | lessUnsigned
  deriving DecidableEq, Repr

/-- The IPv6 and UDP headers of a frame (10_fabric_transport.md R223). -/
structure UdpHeader where
  src : Nat
  dst : Nat
  extension : Bool := false
  hopLimit : Nat := 64
  dscp : Nat := 0
  ecn : Nat := 2
  flow : Nat := 0
  srcPort : Nat := 0
  dstPort : Nat := 0
  checksumOk : Bool := true
  deriving DecidableEq, Repr

/-- A frame on a fabric port. `tag` is its IEEE 802.1Q tag, PCP and VID, and `tags` how many it carries; a frame without
`udp` carries the packet straight after EtherType (10_fabric_transport.md R222, R223). -/
structure FabFrame where
  fcsOk : Bool := true
  dst : Nat
  src : Nat
  tags : Nat := 0
  tag : Nat × Nat := (0, 0)
  etherType : Nat
  udp : Option UdpHeader := none
  packet : List Byte
  deriving DecidableEq, Repr

/-- An IEEE 1588 message as a hub die's clock takes it in, with its timestamps in ns (12_shaping_arbitration.md R271). -/
inductive PtpMessage where
  /-- A Sync: the master's time, where the message carries it (one step), and the time of its receipt. -/
  | sync (origin : Option Int) (received : Int)
  /-- The Follow_Up of a two-step Sync. -/
  | followUp (origin : Int)
  /-- A Delay_Resp: when the device sent its Delay_Req, and when the master received it. -/
  | delayResp (sent received : Int)
  deriving DecidableEq, Repr

/-- What the scrub of a search bank finds at a slot (13_associative_search.md R293). -/
inductive ScrubFinding where
  | same
  /-- The bank differs and the shadow word reads with correct or corrected ECC. -/
  | bankWrong
  /-- The shadow word is uncorrectable and the bank entry passes. -/
  | shadowWrong
  | bothWrong
  deriving DecidableEq, Repr

/-- A composition record: the runs of its generation and cache members. -/
structure CompRecord where
  genFirst : Nat
  genCount : Nat
  cacheFirst : Nat
  cacheCount : Nat
  deriving DecidableEq, Repr

/-- A member entry: its connection (65,536 × hub die + number), stand, STATE (0 ACTIVE, 1 REMOVED, 2 UNREACHABLE), and
the control inbox region with its generation and slots. -/
structure Member where
  conn : Nat
  peerStand : Nat
  state : Nat
  key : Nat
  gen : Nat
  slots : Nat
  deriving DecidableEq, Repr

/-- What the device half-stack holds for a package command: composition records and member entries by index
(09_state_movement.md R194; the spec does not say how they are written). -/
structure CompContent where
  records : List (Nat × CompRecord) := []
  members : List (Nat × Member) := []
  deriving DecidableEq, Repr

/-- What Sapway fetched from a remote holder: a stored bundle, or the result where there is none to use. -/
inductive Fetched where
  | bundle (bs : List Byte)
  | status (result : Nat)
  deriving DecidableEq, Repr

end Sys2Proof
end

