-- ==== Sys2Proof/Syntax.lean ====
section
/-! DEFINITION. The commands of the block: one constructor for each row of spec/opcode_table.json; those without operands
stand last. The operands of a constructor name the unit the command acts on and hold what comes with it from outside. -/

namespace Sys2Proof

/-- A command (95_what_each_step_holds.md: each is whole and indivisible). -/
inductive Instr where
  /-- REGISTER_WRITE (R446). A write to a register field that has no row of its own sets the field, or leaves the register unchanged when the value is out of range or reserved. -/
  | registerWrite (f : Fn) (off bytes v : Nat)
  /-- RC_REGISTER_READ (R5). A read of an RC field returns its value and clears it to 0. -/
  | rcRegisterRead (f : Fn) (off bytes : Nat)
  /-- RING_REGISTER_WRITE (R445). A write that gives a ring a new ADDR or SIZE_LOG2 restarts the ring: HEAD and TAIL go to 0, untaken entries are dropped and pending output restarts at slot 0 with PHASE 1. -/
  | ringRegisterWrite (f : Fn) (off v : Nat)
  /-- DLINK_LANE_FAULT (R14). A lane fault on a die-link module retrains the module at x32, or disables it; in-flight flits are retried and LINK_NARROWED is recorded. -/
  | dlinkLaneFault (link module : Nat) (upper : Bool)
  /-- MATMUL (R69). A MATMUL operation starts once its ordering and wait conditions hold and streams a weight tensor over the stand's rows in groups and rounds. -/
  | opMatmul (n : Nat) (actError : Option Nat)
  /-- VTASKS (R94). A VTASKS operation starts and places its tasks in table order on the lowest-numbered free cores. -/
  | opVtasks (n : Nat)
  /-- REDUCE_SCATTER (R71). A REDUCE_SCATTER operation sums partial sums around the die ring and leaves each die its column slice. -/
  | opReduceScatter (n : Nat)
  /-- ALL_GATHER (R71). An ALL_GATHER operation gives every die all column slices. -/
  | opAllGather (n : Nat)
  /-- LAYER_MARK (R67). A LAYER_MARK completes once every earlier operation has completed, and runs the mid-step deadline checkpoint when CHECKPOINT is set. -/
  | opLayerMark (n : Nat)
  /-- WAIT (R67). A WAIT operation completes when its counter condition holds. -/
  | opWait (n : Nat)
  /-- OP_END (R67). The END operation completes once every earlier operation has completed, and ends the layer-program phase of the step. -/
  | opEnd (n : Nat)
  /-- OPERATION_COMPLETE (R67). A layer-program operation completes, increments its SIGNAL_CTR and releases the operations that wait on it. -/
  | operationComplete (n i : Nat)
  /-- CORE_FAILURE (R78). An array or accumulator fault in a matrix core abandons the step and stops the stand (CORE_FAILED). -/
  | coreFailure (c : Nat)
  /-- FMA (R84). Chisyn fused multiply-add. -/
  | vFma (v : Nat) (i : VWord)
  /-- ADD (R84). Chisyn floating add. -/
  | vAdd (v : Nat) (i : VWord)
  /-- SUB (R84). Chisyn floating subtract. -/
  | vSub (v : Nat) (i : VWord)
  /-- MUL (R84). Chisyn floating multiply. -/
  | vMul (v : Nat) (i : VWord)
  /-- MIN (R84). Chisyn floating minimum. -/
  | vMin (v : Nat) (i : VWord)
  /-- MAX (R84). Chisyn floating maximum. -/
  | vMax (v : Nat) (i : VWord)
  /-- ABS (R84). Chisyn absolute value. -/
  | vAbs (v : Nat) (i : VWord)
  /-- NEG (R84). Chisyn negate. -/
  | vNeg (v : Nat) (i : VWord)
  /-- CPYSGN (R84). Chisyn copy sign. -/
  | vCpysgn (v : Nat) (i : VWord)
  /-- IADD (R84). Chisyn integer add. -/
  | vIadd (v : Nat) (i : VWord)
  /-- ISUB (R84). Chisyn integer subtract. -/
  | vIsub (v : Nat) (i : VWord)
  /-- IMUL (R84). Chisyn integer multiply, low 32 bits. -/
  | vImul (v : Nat) (i : VWord)
  /-- AND (R84). Chisyn bitwise and. -/
  | vAnd (v : Nat) (i : VWord)
  /-- OR (R84). Chisyn bitwise or. -/
  | vOr (v : Nat) (i : VWord)
  /-- XOR (R84). Chisyn bitwise exclusive or. -/
  | vXor (v : Nat) (i : VWord)
  /-- SHL (R84). Chisyn shift left. -/
  | vShl (v : Nat) (i : VWord)
  /-- SHR (R84). Chisyn logical shift right. -/
  | vShr (v : Nat) (i : VWord)
  /-- SAR (R84). Chisyn arithmetic shift right. -/
  | vSar (v : Nat) (i : VWord)
  /-- POPC (R84). Chisyn population count. -/
  | vPopc (v : Nat) (i : VWord)
  /-- FCMP (R84). Chisyn floating compare, with the result written to a mask. -/
  | vFcmp (v : Nat) (i : VWord)
  /-- ICMP (R84). Chisyn integer compare, with the result written to a mask. -/
  | vIcmp (v : Nat) (i : VWord)
  /-- SEL (R84). Chisyn select. -/
  | vSel (v : Nat) (i : VWord)
  /-- MAND (R84). Chisyn mask and. -/
  | vMand (v : Nat) (i : VWord)
  /-- MOR (R84). Chisyn mask or. -/
  | vMor (v : Nat) (i : VWord)
  /-- MNOT (R84). Chisyn mask not. -/
  | vMnot (v : Nat) (i : VWord)
  /-- EXP (R88). Chisyn special-function exponential. -/
  | vExp (v : Nat) (i : VWord)
  /-- LOG (R88). Chisyn special-function natural logarithm. -/
  | vLog (v : Nat) (i : VWord)
  /-- RCP (R88). Chisyn special-function reciprocal. -/
  | vRcp (v : Nat) (i : VWord)
  /-- RSQRT (R88). Chisyn special-function reciprocal square root. -/
  | vRsqrt (v : Nat) (i : VWord)
  /-- TANH (R88). Chisyn special-function hyperbolic tangent. -/
  | vTanh (v : Nat) (i : VWord)
  /-- CVT (R39). Chisyn format conversion with the RTZ and SAT choices, setting flags under R451. -/
  | vCvt (v : Nat) (i : VWord)
  /-- QMX (R43). Chisyn quantise of a block into an MX format. -/
  | vQmx (v : Nat) (i : VWord)
  /-- QF16S (R44). Chisyn quantise of a block into an F16S format. -/
  | vQf16s (v : Nat) (i : VWord)
  /-- DQ (R84). Chisyn dequantise. -/
  | vDq (v : Nat) (i : VWord)
  /-- SHUF (R84). Chisyn cross-lane shuffle. -/
  | vShuf (v : Nat) (i : VWord)
  /-- BCAST (R84). Chisyn broadcast. -/
  | vBcast (v : Nat) (i : VWord)
  /-- RSUM (R84). Chisyn sum reduction. -/
  | vRsum (v : Nat) (i : VWord)
  /-- RMAX (R84). Chisyn maximum reduction. -/
  | vRmax (v : Nat) (i : VWord)
  /-- RMIN (R84). Chisyn minimum reduction. -/
  | vRmin (v : Nat) (i : VWord)
  /-- PSCAN (R84). Chisyn prefix sum. -/
  | vPscan (v : Nat) (i : VWord)
  /-- LD (R85). Chisyn local store load. -/
  | vLd (v : Nat) (i : VWord)
  /-- ST (R85). Chisyn local store store. -/
  | vSt (v : Nat) (i : VWord)
  /-- LDS (R85). Chisyn strided local store load. -/
  | vLds (v : Nat) (i : VWord)
  /-- GLD (R85). Chisyn gather load. -/
  | vGld (v : Nat) (i : VWord)
  /-- SST (R85). Chisyn scatter store. -/
  | vSst (v : Nat) (i : VWord)
  /-- XIN (R86). Chisyn transfer issue into the local store from the activation store or the stand address space. -/
  | vXin (v : Nat) (i : VWord)
  /-- XOUT (R86). Chisyn transfer issue out of the local store. -/
  | vXout (v : Nat) (i : VWord)
  /-- XWAIT (R86). Chisyn wait until every transfer on a tag has completed. -/
  | vXwait (v : Nat) (i : VWord)
  /-- TRANSFER_COMPLETE (R86). An asynchronous transfer completes, which frees its tag slot and can release an XWAIT. -/
  | transferComplete (v k : Nat)
  /-- AADD (R87). Chisyn atomic add issue. -/
  | vAadd (v : Nat) (i : VWord)
  /-- AMAX (R87). Chisyn atomic maximum issue. -/
  | vAmax (v : Nat) (i : VWord)
  /-- VECTOR_ATOMIC_APPLY (R87). A vector atomic is applied indivisibly at the word that holds it. -/
  | vectorAtomicApply (v k : Nat)
  /-- FLD (R257). Chisyn fabric load. -/
  | vFld (v : Nat) (i : VWord)
  /-- FST (R257). Chisyn fabric store. -/
  | vFst (v : Nat) (i : VWord)
  /-- FATOM (R257). Chisyn fabric atomic, including ARRIVE. -/
  | vFatom (v : Nat) (i : VWord)
  /-- FENCE (R256). Chisyn fabric fence, which writes and clears the fabric status word. -/
  | vFence (v : Nat) (i : VWord)
  /-- RNG (R84). Chisyn random number. -/
  | vRng (v : Nat) (i : VWord)
  /-- SCALAR_ALU (R84). Chisyn scalar ALU instruction on X registers. -/
  | scalarAlu (v : Nat) (op : AluOp) (useImm : Bool) (i : VWord)
  /-- BR (R84). Chisyn branch. -/
  | vBr (v : Nat) (i : VWord)
  /-- BRZ (R84). Chisyn branch if zero. -/
  | vBrz (v : Nat) (i : VWord)
  /-- LOOP (R84). Chisyn loop. -/
  | vLoop (v : Nat) (i : VWord)
  /-- SYSRD (R82). Chisyn read of a system value. -/
  | vSysrd (v : Nat) (i : VWord)
  /-- FLGRD (R52). Chisyn read of the exception flags. -/
  | vFlgrd (v : Nat) (i : VWord)
  /-- FLGCLR (R52). Chisyn clear of the exception flags. -/
  | vFlgclr (v : Nat) (i : VWord)
  /-- CHISYN_END (R96). Chisyn END: waits for outstanding transfers and atomics, then ends the task with its status. -/
  | chisynEnd (v : Nat) (i : VWord)
  /-- TASK_PLACE (R94). A waiting task is placed on the lowest-numbered free core in its scope and started, after a kernel copy if one is needed. -/
  | taskPlace (n : Nat)
  /-- TASK_TIMEOUT (R98). A task reaches its CYCLE_LIMIT, ends, and the step is abandoned. -/
  | taskTimeout (v : Nat)
  /-- LS_UNCORRECTABLE (R98). An uncorrectable local store error ends the task and abandons the step. -/
  | lsUncorrectable (v : Nat)
  /-- VCORE_FAULT (R99). A vector core logic fault takes the core out of service and abandons the step. -/
  | vcoreFault (v : Nat)
  /-- MASK_READ (R101). A grammar-mask read completes, and the mask is applied if its POSITION matches. -/
  | maskRead (n id : Nat) (data : HostRead)
  /-- MASK_WAIT_EXPIRY (R101). The mask wait ends with POSITION unmatched, so the request gets no token this step (MASK_LATE). -/
  | maskWaitExpiry (n id : Nat)
  /-- POOL_ENABLE (R104). Writing KVM_POOL.ENABLE from 0 to 1 checks the pool descriptor and either schedules the enable or sets POOL_INVALID. -/
  | poolEnable (f : Fn) (n v : Nat)
  /-- POOL_DISABLE (R105). Writing KVM_POOL.ENABLE 0 stops the KV manager at the next step boundary and revokes the response-buffer region. -/
  | poolDisable (f : Fn) (n v : Nat)
  /-- POOL_REBUILD_DONE (R105). The rebuild of the pool's allocation from records and headers ends, and the response buffers are registered. -/
  | poolRebuildDone (n : Nat)
  /-- APPEND_RECORD (R111). An append record arrives at the append window and its keys and values are written into pages, allocating, reopening or copying pages as needed. -/
  | appendRecord (v k : Nat)
  /-- KV_CREATE (R118). KV command CREATE makes a sequence record VALID and zeroes its page tables. -/
  | kvCreate (n : Nat)
  /-- KV_GRAFT (R118). KV command GRAFT takes leading pages from a set list or a source sequence into a sequence. -/
  | kvGraft (n : Nat)
  /-- KV_RELEASE (R118). KV command RELEASE drops every reference of a sequence and clears VALID. -/
  | kvRelease (n : Nat)
  /-- KV_TRUNCATE (R118). KV command TRUNCATE lowers LENGTH and drops pages wholly beyond it. -/
  | kvTruncate (n : Nat)
  /-- REMOTE_REQUEST_SEND (R120). An XOUT to the request window is sent as an RMA write to the holder's inbox. -/
  | remoteRequestSend (v k : Nat)
  /-- REMOTE_REQUEST_ARRIVE (R121). A remote-attention request lands in the holder's inbox and is copied out, and a service task is placed for it. -/
  | remoteRequestArrive (n a len conn : Nat)
  /-- REMOTE_RESPONSE (R123). A response arrives in a response buffer and is applied if its fields match the pending request, or else discarded. -/
  | remoteResponse (n : Nat)
  /-- REMOTE_BUDGET_EXPIRY (R123). REMOTE_BUDGET passes without a response, so MISSING is written and the waiting XIN completes. -/
  | remoteBudgetExpiry (n b : Nat)
  /-- TIER_CREATE (R152). Tier command CREATE creates an object from a descriptor. -/
  | tierCreate (n : Nat)
  /-- TIER_DELETE (R161). Tier command DELETE removes an object at the next step boundary, discarding its copies. -/
  | tierDelete (n : Nat)
  /-- TIER_FLUSH (R154). Tier command FLUSH writes back dirty units of a range. -/
  | tierFlush (n : Nat)
  /-- SET_HINT (R153). Tier command SET_HINT changes an object's hint at the next step boundary. -/
  | tierSetHint (n : Nat)
  /-- PREFETCH (R161). Tier command PREFETCH promotes a range into the copy tier. -/
  | tierPrefetch (n : Nat)
  /-- EVICT (R161). Tier command EVICT evicts a range's copies, except HELD ones. -/
  | tierEvict (n : Nat)
  /-- TIER_LOAD (R133). Tier command LOAD copies a range and converts encrypted blocks to clear form. -/
  | tierLoad (n : Nat)
  /-- REPAIR (R161). Tier command REPAIR gives each LOST page of a range a fresh home frame. -/
  | tierRepair (n : Nat)
  /-- PROMOTION (R153). An ordinary access to a page without a copy starts a promotion into the copy tier, evicting a copy if needed. -/
  | promotion (n p : Nat) (streaming : Bool)
  /-- PAGE_MOVE_DONE (R157). A promotion or eviction ends with one update of the page's entry. -/
  | pageMoveDone (n p : Nat)
  /-- AGE_SWEEP (R156). Each SWEEP_MS, the background sweep ages or refreshes every copy. -/
  | ageSweep (n : Nat)
  /-- MEMORY_UNCORRECTABLE (R160). An uncorrectable memory error in a frame drops or refreshes the copy, or makes the page LOST. -/
  | memoryUncorrectable (n p u : Nat) (err : FrameError)
  /-- NEW (R169). Intake takes a NEW submission entry, checks it, runs the canopy lookup, and queues or refuses it. -/
  | sqNew (n : Nat)
  /-- CANCEL (R180). Intake takes a CANCEL entry, which sets the cancel mark or is answered at once. -/
  | sqCancel (n : Nat)
  /-- STEP_COMPOSE (R171). After the previous commit, the sequencer chooses the model, refills buckets, gives rows, admits requests, writes the manifest and starts the program. -/
  | stepCompose (n : Nat)
  /-- COMMIT_PHASE (R180). After END or an abandonment, requests are committed in row order, cancels are applied and deadlines are settled. -/
  | commitPhase (n : Nat)
  /-- DONE_RECORD_EXPIRY (R180). A done record older than RETAIN_MS is dropped. -/
  | doneRecordExpiry (n id : Nat)
  /-- ACCT_SNAP (R184). Writing SCH_ACCT_SNAP.SNAP copies every accounting counter into its snapshot. -/
  | acctSnap (f : Fn) (n v : Nat)
  /-- ENERGY_TICK (R185). Every 1 ms, activity increments times coefficients are added to ENERGY_UJ. -/
  | energyTick (n : Nat)
  /-- SUSPEND (R207). Sapway command SUSPEND bundles a sequence as dormant state at the named target. -/
  | swySuspend (n : Nat) (back : HostRead)
  /-- RESUME (R209). Sapway command RESUME installs a dormant bundle into a sequence. -/
  | swyResume (n : Nat) (fetched : Fetched)
  /-- DISCARD (R218). Sapway command DISCARD frees a dormant bundle. -/
  | swyDiscard (n status : Nat)
  /-- HOLD (R210). Sapway command HOLD moves sealed pages of REMOTE groups to a holder. -/
  | swyHold (n : Nat)
  /-- CANOPY_INSERT (R215). Sapway command CANOPY_INSERT adds canopy nodes for an anchor, evicting old leaves if needed. -/
  | canopyInsert (n : Nat)
  /-- CANOPY_DROP (R215). Sapway command CANOPY_DROP removes an anchor's nodes once they are unpinned. -/
  | canopyDrop (n : Nat)
  /-- JOB_REGIONS (R201). Sapway command JOB_REGIONS writes the keys, generations and sizes of a key's inbox and staging regions. -/
  | jobRegions (n : Nat)
  /-- MAP_SET (R196). Package command MAP_SET installs a new ACTIVE epoch for a composition key. -/
  | mapSet (cmd : List Byte) (key : HostRead) (content : CompContent)
  /-- MEMBER_STATE (R195). Package command MEMBER_STATE sets a member ACTIVE, REMOVED or UNREACHABLE. -/
  | memberState (cmd : List Byte) (content : CompContent)
  /-- MAP_DELETE (R218). Package command MAP_DELETE removes a composition key. -/
  | mapDelete (cmd : List Byte) (key : HostRead)
  /-- OFFER (R204). A received OFFER is checked against the geometry, and the receiver sends ACCEPT or REFUSE, or delays. -/
  | swyOffer (n : Nat)
  /-- ACCEPT (R202). A received ACCEPT lets the sender send its sections into staging. -/
  | swyAccept (n : Nat)
  /-- REFUSE (R205). A received REFUSE fails the attempt, and the next attempt starts. -/
  | swyRefuse (n : Nat)
  /-- DONE (R204). A received DONE completes the bundle check and install, after which COMMITTED is sent. -/
  | swyDone (n : Nat)
  /-- COMMITTED (R203). A received COMMITTED lets the source release its state and report the move committed. -/
  | swyCommitted (n : Nat)
  /-- ABORT (R205). A received ABORT ends a transfer without effect at the receiver, or leads to a re-offer under R215. -/
  | swyAbort (n : Nat)
  /-- HANDOFF_TIMEOUT (R205). No ACCEPT or COMMITTED arrives within HANDOFF_TIMEOUT_MS, so the attempt fails. -/
  | handoffTimeout (n bid : Nat)
  /-- RECEIVER_TIMEOUT (R205). A receiver that has heard nothing for HANDOFF_TIMEOUT_MS discards the partial bundle. -/
  | receiverTimeout (n conn bid : Nat)
  /-- BUNDLE_EXPIRY (R208). A dormant bundle or holder record reaches TTL 0 and is freed (EXPIRED). -/
  | bundleExpiry (n : Nat) (hold : Bool) (id : Nat)
  /-- SWY_EVT_HEAD_WRITE (R450). Advancing SWY_EVT_HEAD frees slots into which waiting Sapway events are written. -/
  | swyEvtHeadWrite (f : Fn) (v index : Nat)
  /-- PORT_LINK_UP (R221). A fabric port completes training and its link comes up. -/
  | portLinkUp (p : Nat)
  /-- PORT_LINK_DOWN (R233). A port link goes down, and its outstanding packets are retransmitted on the remaining ports. -/
  | portLinkDown (p : Nat)
  /-- OPEN (R227). Fabric command OPEN binds a connection with a new incarnation. -/
  | fabOpen (n : Nat)
  /-- CONNECT (R228). Fabric command CONNECT moves a BOUND connection to OPEN with the peer's incarnation. -/
  | fabConnect (n : Nat)
  /-- CLOSE (R228). Fabric command CLOSE moves a connection to CLOSING or FREE. -/
  | fabClose (n : Nat)
  /-- REGISTER (R238). Fabric command REGISTER creates or reuses a region. -/
  | fabRegister (n : Nat)
  /-- REVOKE (R239). Fabric command REVOKE sets a region REVOKING and completes when its drain ends. -/
  | fabRevoke (n : Nat)
  /-- REVOKE_DRAIN_END (R239). The last admitted operation of a REVOKING region completes, so the region becomes FREE. -/
  | revokeDrainEnd (idx : Nat)
  /-- PACKET_SEND (R230). A queued sequenced packet is sent once the window has room. -/
  | packetSend (k : Nat)
  /-- WRITE (R237). A received WRITE packet passes the receive order and is applied wholly, or acknowledged with an outcome. -/
  | pktWrite (p : Nat) (f : FabFrame)
  /-- READ_REQ (R235). A received READ_REQ is admitted, and the bytes are returned as READ_RESP packets. -/
  | pktReadReq (p : Nat) (f : FabFrame)
  /-- READ_RESP (R235). A received READ_RESP is written to its destination, and the read completes when all bytes have arrived. -/
  | pktReadResp (p : Nat) (f : FabFrame)
  /-- ACK (R231). A received ACK completes the PSNs that it names with their status. -/
  | pktAck (p : Nat) (f : FabFrame)
  /-- MEM_REQ (R251). A received MEM_REQ applies its operations, including barrier arrivals, and is acknowledged and answered. -/
  | pktMemReq (p : Nat) (f : FabFrame)
  /-- MEM_RESP (R253). A received MEM_RESP completes its LOAD, ATOMIC and ARRIVE operations. -/
  | pktMemResp (p : Nat) (f : FabFrame)
  /-- ACK_DELAY_EXPIRY (R231). DELAY_US passes after an accepted packet, so an ACK is sent. -/
  | ackDelayExpiry (k : Nat)
  /-- RETRANSMIT_TIMEOUT (R232). The retransmission timer expires, so uncompleted PSNs are retransmitted or the connection fails. -/
  | retransmitTimeout (k : Nat)
  /-- FRAME_TRANSMIT (R269). When the port is free, the head frame of the highest eligible class is sent. -/
  | frameTransmit (p : Nat)
  /-- FRAME_UNCLASSIFIED (R285). A received frame that belongs to no connection is classified, then dropped or received into a class. -/
  | frameUnclassified (p : Nat) (f : FabFrame)
  /-- COALESCE_EXPIRY (R254). COALESCE_NS passes after a packet's first operation, so the MEM_REQ is sent. -/
  | coalesceExpiry (i : Nat)
  /-- FMM_LOAD (R250). Queue command LOAD issues a remote load. -/
  | fmmLoad (n : Nat)
  /-- FMM_STORE (R250). Queue command STORE issues a remote store. -/
  | fmmStore (n : Nat)
  /-- FMM_ATOMIC (R250). Queue command ATOMIC issues a remote atomic or an ARRIVE. -/
  | fmmAtomic (n : Nat)
  /-- FMM_FENCE (R256). Queue command FENCE completes when the context's earlier operations have completed. -/
  | fmmFence (n : Nat)
  /-- MAP (R248). Queue command MAP installs or replaces a remote map entry. -/
  | fmmMap (n : Nat)
  /-- UNMAP (R248). Queue command UNMAP removes a remote map entry. -/
  | fmmUnmap (n : Nat)
  /-- GROUP_CREATE (R261). Queue command GROUP_CREATE creates a collective group in the barrier unit. -/
  | fmmGroupCreate (n : Nat)
  /-- GROUP_DELETE (R266). Queue command GROUP_DELETE deletes a group and completes its waiting arrivals. -/
  | fmmGroupDelete (n : Nat)
  /-- BARRIER_TIMEOUT (R263). TIMEOUT_US passes after a barrier's first arrival, so the barrier is released with BARRIER_TIMEOUT. -/
  | barrierTimeout (gk : Nat)
  /-- PTP_MESSAGE (R271). A received IEEE 1588 message updates the copy of network time and the time state. -/
  | ptpMessage (p : Nat) (udp : Bool) (m : PtpMessage)
  /-- SYNC_LOSS_TIMEOUT (R271). No Sync message arrives for 1 s while LOCKED, so the time state enters HOLDOVER. -/
  | syncLossTimeout (h : Nat)
  /-- HOLDOVER_EXPIRY (R271). HOLDOVER lasts HOLDOVER_S, so the time state becomes UNLOCKED. -/
  | holdoverExpiry (h : Nat)
  /-- GATE_CYCLE_START (R272). A port gate-list cycle starts at entry 0, and a pending list takes over. -/
  | gateCycleStart (p : Nat)
  /-- GATE_ENTRY_EXPIRY (R272). A port gate entry's duration ends, and the next entry's gates apply. -/
  | gateEntryExpiry (p : Nat)
  /-- GCL_CONFIG_CHANGE (R273). Writing CONFIG_CHANGE checks the admin list and makes it pending or sets CONFIG_ERROR. -/
  | gclConfigChange (f : Fn) (p v : Nat)
  /-- HUB_ENTRY_EXPIRY (R275). A hub gate entry ends and the next entry begins, which changes eligibility on the gated arbiters. -/
  | hubEntryExpiry (h : Nat)
  /-- QUEUE_SAMPLE (R277). Each PERIOD_US, sample records of the selected class queues are written. -/
  | queueSample (h : Nat)
  /-- ARBITER_GRANT (R278). With no grant held, the next raised, unmasked and eligible requester is granted. -/
  | arbiterGrant (n raised : Nat)
  /-- BURST_LIMIT_EXPIRY (R278). BURST_LIMIT cycles pass, so the grant ends at the next transaction boundary. -/
  | burstLimitExpiry (n : Nat)
  /-- REQUESTER_MASK_RISE (R279). A requester's mask rises and its grant ends, with its transactions completing ABORTED. -/
  | requesterMaskRise (n r : Nat)
  /-- FREEZE (R280). Writing FREEZE 1 stops new grants. -/
  | arbFreeze (f : Fn) (n v : Nat)
  /-- FREEZE_CLEAR (R280). Writing FREEZE 0 clears DRAINED and resumes grants. -/
  | arbFreezeClear (f : Fn) (n v : Nat)
  /-- DRAIN_TIMEOUT (R280). DRAIN_TIMEOUT_US passes, so the grant is withdrawn and the owner's transactions complete ABORTED. -/
  | drainTimeout (n incomplete : Nat)
  /-- SEARCH (R287). A granted burst of searches returns results, repairing and reissuing entries that fail their checks. -/
  | asrSearch (hub r : Nat) (l : List (Nat × Nat × Nat × Bool))
  /-- CLASSIFIER_INSERT (R288). Classifier command INSERT inserts an entry, using holes. -/
  | classifierInsert (hub : Nat) (cmd : List Byte) (record : HostRead)
  /-- CLASSIFIER_DELETE (R289). Classifier command DELETE invalidates an entry, leaving a hole. -/
  | classifierDelete (hub : Nat) (cmd : List Byte) (record : HostRead)
  /-- CLASSIFIER_READ (R295). Classifier command READ returns the record of a matching entry. -/
  | classifierRead (hub : Nat) (cmd : List Byte) (record : HostRead)
  /-- RESPREAD (R290). A run short of holes is re-spread by moving entries. -/
  | asrRespread (hub kind stand run : Nat)
  /-- SCRUB_ENTRY (R293). The scrub compares an entry with its shadow and repairs it or loses it. -/
  | asrScrubEntry (b slot : Nat) (found : ScrubFinding)
  /-- SEARCH_THROTTLE (R291). The hub die's hottest sensor moves the search throttle step up or down. -/
  | searchThrottle (hub : Nat) (celsius : Int)
  /-- BANK_FAILURE (R294). A failing bank is drained, taken out of service, and its entries are reloaded into other banks. -/
  | bankFailure (b : Nat)
  /-- GET_QUOTE (R310). Mailbox command GET_QUOTE returns a signed quote. -/
  | getQuote (f : Fn) (m v fails : Nat)
  /-- GET_LOG (R308). Mailbox command GET_LOG returns measurement log entries. -/
  | getLog (f : Fn) (m v : Nat)
  /-- GET_CERT (R311). Mailbox command GET_CERT returns the device certificate. -/
  | getCert (f : Fn) (m v : Nat)
  /-- GET_KEM_KEY (R312). Mailbox command GET_KEM_KEY returns the stand's ML-KEM encapsulation key. -/
  | getKemKey (f : Fn) (m v : Nat)
  /-- INSTALL_WEIGHT_KEY (R313). Mailbox command INSTALL_WEIGHT_KEY checks a key-release blob and installs the weight key. -/
  | installWeightKey (f : Fn) (m v : Nat)
  /-- REMOVE_WEIGHT_KEY (R314). Mailbox command REMOVE_WEIGHT_KEY erases a weight key once its LOADs have completed. -/
  | removeWeightKey (f : Fn) (m v : Nat)
  /-- JOB_TICKET (R315). Mailbox command JOB_TICKET installs a job ticket, and an originator also draws the job key. -/
  | jobTicket (f : Fn) (m v : Nat)
  /-- JOB_JOIN (R316). Mailbox command JOB_JOIN sends a JOIN_REQUEST to the originator. -/
  | jobJoin (f : Fn) (m v : Nat)
  /-- JOB_REMOVE (R317). Mailbox command JOB_REMOVE revokes the key's regions and erases a job key or ticket. -/
  | jobRemove (f : Fn) (m v : Nat)
  /-- RANDOM (R296). Mailbox command RANDOM returns DRBG bytes. -/
  | hwdRandom (f : Fn) (m v : Nat)
  /-- ENROL_OWNER (R299). Mailbox command ENROL_OWNER burns an owner key hash into the lowest free slot. -/
  | enrolOwner (f : Fn) (m v : Nat)
  /-- RELEASE_OWNER (R301). Mailbox command RELEASE_OWNER resets every stand, burns the revoke bit and stops the outputs. -/
  | releaseOwner (f : Fn) (m v : Nat)
  /-- STAGE_FW (R318). Mailbox command STAGE_FW verifies a firmware package and writes it to the inactive slot. -/
  | stageFw (f : Fn) (m v : Nat)
  /-- APPLY_FW (R319). Mailbox command APPLY_FW starts putting the staged Heartwood firmware into service. -/
  | applyFw (f : Fn) (m v : Nat)
  /-- FW_RESTART (R319). Once in-flight commands end, the active mark moves, Heartwood restarts from ROM, and the new firmware is measured. -/
  | fwRestart (fails : Nat)
  /-- COMMIT_SVN (R320). Mailbox command COMMIT_SVN burns SVN fuse bits up to the running SVN. -/
  | commitSvn (f : Fn) (m v : Nat)
  /-- JOIN_REQUEST (R316). The originator receives a JOIN_REQUEST and answers with a JOIN_RESPONSE, or discards it. -/
  | joinRequest (p : Nat) (f : FabFrame)
  /-- JOIN_RESPONSE (R316). The joiner receives a JOIN_RESPONSE and installs the job key if every check passes. -/
  | joinResponse (p : Nat) (f : FabFrame)
  /-- JOIN_RETRY (R316). 100 ms pass without a valid response, so the request is resent or the join completes JOIN_FAILED. -/
  | joinRetry (n : Nat)
  /-- RELAY_CONFIRM (R322). The relay's confirmation of a key erasure lets a stand reset continue. -/
  | relayConfirm (n : Nat)
  /-- IMAGE_ERASE (R357). Configuration command IMAGE_ERASE erases a slot or cell, commit sector first. -/
  | imageErase (f : Fn) (v : Nat) (failed : Bool)
  /-- IMAGE_WRITE (R357). Configuration command IMAGE_WRITE programs bytes into a slot or cell. -/
  | imageWrite (f : Fn) (v : Nat) (failed : Bool)
  /-- IMAGE_COMMIT (R358). Configuration command IMAGE_COMMIT validates a target, writes its commit record, and starts a replacement for a cell. -/
  | imageCommit (f : Fn) (v : Nat) (failed : Bool)
  /-- REPLACE_DRAIN_END (R359). The replaced stand has no active request, or DRAIN_MS elapses, so remaining requests end STATE_LOST and the stand is reset. -/
  | replaceDrainEnd (n : Nat)
  /-- ZEROING_DONE (R147). Zeroing of a stand's frames, or of the staging half-stack, ends, and installation continues. -/
  | zeroingDone (n : Nat)
  /-- PWROK_RISE (R364). PWROK rises and the power-up sequence starts. -/
  | pwrokRise (fails : Nat)
  /-- RESET_RELEASE (R438). RST_N and PERST_N are both high again, so the device restarts the power-up sequence. -/
  | resetRelease (fails : Nat)
  /-- PKG_RESET (R368). Writing RST_CTRL.PKG_RESET with KEY 0xA5 performs a package reset. -/
  | pkgReset (f : Fn) (v fails : Nat)
  /-- PWR_VID_APPLIED (R381). Setting PWR_VID.APPLIED lets the governor grant matrix starts. -/
  | pwrVidApplied (f : Fn) (v : Nat)
  /-- POWER_UP_GROVE_TEST (R366). Once APPLIED is set after 160 ms, LOGIC and SRAM run on every grove and failing units leave service. -/
  | powerUpGroveTest (cores groves : List Nat)
  /-- STAND_RESET (R369). RST_STAND_CMD GO starts a stand reset. -/
  | standReset (f : Fn) (v : Nat)
  /-- STAND_DRAIN_END (R369). A resetting stand's drain ends, so its step is abandoned and its requests complete STATE_LOST. -/
  | standDrainEnd (n : Nat)
  /-- SELF_TEST (R372). RST_TEST_CTRL GO submits a test request, which groves are admitted to or refused from. -/
  | selfTest (f : Fn) (v : Nat)
  /-- SELF_TEST_DONE (R373). A grove test ends with OK or GROVE_FAILED, and the grove returns to service or stays out. -/
  | selfTestDone (g : Nat) (cores clusters channels : List Nat)
  /-- CALIBRATION_DUE (R376). A periodic calibration falls due and runs at the next fitting CAL window. -/
  | calibrationDue (kind u : Nat) (failing : List Nat)
  /-- BALLAST_TIMEOUT (R383). A core has been in ballast or idle for 1 µs, so it requests a stop. -/
  | ballastTimeout (matrix : Bool) (k : Nat)
  /-- SEALED_CLUSTER_START (R384). At each stagger interval, the next cluster of a sealed stand is started or stopped. -/
  | sealedClusterStart (n : Nat)
  /-- THERMAL_SAMPLE (R386). Every 100 µs, the junction sensors are sampled. -/
  | thermalSample (readings : List (List Nat)) (fails : Nat)
  /-- THROTTLE_EVAL (R388). Every 1 ms, the throttle state is raised or lowered from temperature and power. -/
  | throttleEval (rails : List (Nat × Nat)) (settled : Bool)
  /-- STEWARD_FAILURE (R394). A steward core fails and is masked, and its handlers restart on another core. -/
  | stewardFailure (core handlers : Nat)
  /-- SEQUENCER_FAILURE (R397). A stand sequencer fault stops the stand. -/
  | sequencerFailure (q : Nat)
  /-- PACKAGE_FAULT (R398). A fault of a package-critical block causes a fault stop, erases keys and holds the package. -/
  | packageFault (block : Nat)
  /-- RETURN_TO_SERVICE (R399). EVR_RETURN_CMD GO starts the masked return checks of a unit. -/
  | returnToService (f : Fn) (v : Nat)
  /-- RETURN_CHECK_DONE (R399). A unit's return checks end, and it joins at its cycle start or stays out. -/
  | returnCheckDone (ok : Bool)
  /-- CXL_LINK_UP (R408). The CXL link trains to the widest width and fastest rate it can. -/
  | cxlLinkUp (width rate : Nat)
  /-- VF_FLR (R369). A function-level reset of a virtual function resets its stand with DRAIN_MS 0. -/
  | vfFlr (n : Nat)
  /-- QW_DOORBELL_WRITE (R414). A doorbell write through a queue window takes effect after earlier aperture writes, or counts as a bad doorbell. -/
  | qwDoorbellWrite (n off v : Nat)
  /-- APERTURE_WRITE (R415). A host write to the aperture is applied as an ordinary stand access. -/
  | apertureWrite (n off : Nat) (bs : List Byte)
  /-- APERTURE_READ (R415). A host read of the aperture returns stand data, 0, poison, or all ones on timeout. -/
  | apertureRead (n off len : Nat) (late : Bool)
  /-- COPY_IN (R417). Copy command COPY_IN moves data from host memory into the stand. -/
  | copyIn (n : Nat) (e : List Byte) (units : List HostRead)
  /-- COPY_OUT (R417). Copy command COPY_OUT moves data from the stand to host memory. -/
  | copyOut (n : Nat) (e : List Byte)
  /-- HDM_ACCESS (R411). A host access to the HDM staging window is served from the staging half-stack, or poisoned or discarded. -/
  | hdmAccess (off len : Nat) (bs : List Byte) (write : Bool)
  /-- MCTP_GET_QUOTE (R429). MCTP command GET_QUOTE, ordered with the Heartwood mailbox commands. -/
  | mctpGetQuote (args : List Byte) (fails : Nat)
  /-- MCTP_GET_LOG (R429). MCTP command GET_LOG. -/
  | mctpGetLog (args : List Byte)
  /-- MCTP_GET_KEM_KEY (R429). MCTP command GET_KEM_KEY. -/
  | mctpGetKemKey (args : List Byte)
  /-- SET_ENDPOINT_ID (R428). MCTP control command Set Endpoint ID. -/
  | setEndpointId (op eid : Nat)
  /-- STATE_LOST_ENTRY_WINDOW_END (R369). The 100 ms after a drain ends for writing STATE_LOST completion entries runs out, so the unwritten entries are counted in UNREPORTED and the reset or replacement moves on to erase the keys. -/
  | stateLostEntryWindowEnd (n : Nat)
  /-- BUS_MASTER_ENABLE_WRITE (R419). A host configuration write changes a function's Bus Master Enable, or the physical function's VF Enable or NumVFs, so the affected stands' host-memory work stops or resumes. -/
  | busMasterEnableWrite (w : CfgWrite)
  /-- PRIORITY_FLOW_CONTROL_FRAME (R222). A received IEEE 802.1Qbb priority flow control frame pauses the enabled traffic classes of the port for the time it gives, which removes them from eligibility under R269. -/
  | priorityFlowControlFrame (p enable : Nat) (quanta : List Nat)
  /-- RELAY_MESSAGE (R297). The heartwood relay receives a protected message, checks its counter, and acknowledges it. -/
  | relayMessage (counter : Nat) (intact : Bool)
  /-- PLL_UNLOCK (R363). The root PLL loses lock, for instance when REFCLK is lost, which is a package reset. -/
  | pllUnlock (refclkLost : Bool) (fails : Nat)
  /-- REFCLK_RETURN (R441). REFCLK returns, and the boot ROM restarts the power-up sequence. -/
  | refclkReturn (fails : Nat)
  /-- IDE_KM (R422). An IDE_KM message in the SPDM session sets IDE keys. -/
  | ideKm (keys : List Byte) (io cm : Bool)
  /-- GET_MCTP_VERSION_SUPPORT (R428). MCTP control command Get MCTP Version Support. -/
  | getMctpVersionSupport (type : Nat)
  /-- GET_VENDOR_MESSAGE_SUPPORT (R428). MCTP control command Get Vendor Defined Message Support. -/
  | getVendorMessageSupport (selector : Nat)
  /-- ENTDAA (R427). The I3C target takes a dynamic address through ENTDAA. -/
  | entdaa (addr : Nat)
  /-- SETDASA (R427). The I3C target takes a dynamic address through SETDASA at static address 0x3A. -/
  | setdasa (static addr : Nat)
  /-- SAMPLE_PRELOAD (R430). TAP instruction SAMPLE/PRELOAD. -/
  | samplePreload (sampled preload : Nat)
  /-- TEST_LOGIC_RESET (R431). The TAP enters Test-Logic-Reset, which selects IDCODE and releases a package held by a test-mode instruction. -/
  | testLogicReset (fails : Nat)
  /-- HOST_LINK_DEGRADED (R408). Lane errors on the CXL link force a retrain to x8 or x4, which replays unacknowledged TLPs and records LINK_NARROWED for the host port without resetting any function. -/
  | hostLinkDegraded (width : Nat)
  /-- IDE_INTEGRITY_FAILURE (R422). A received TLP or flit fails its IDE integrity check, which is handled under the IDE rules and records a LINK_DOWN event for the host port. -/
  | ideIntegrityFailure (io : Bool)
  /-- PSK_EXCHANGE (R422). A secured SPDM session is opened over the physical function's DOE mailbox with PSK_EXCHANGE, using the pre-shared key in GLB_IDE_PSK, after which GLB_IDE_PSK writes are refused. -/
  | pskExchange (accepted : Bool)
  /-- DDR_ALERT_N (R436). A DIMM drives DDRk_ALERT_N low to signal a command parity or CRC error on its channel. -/
  | ddrAlertN (k : Nat) (low : Bool)
  /-- LMS_TREE_BUILT (R305). An LMS tree build ends, and signing commands stop answering TRY_LATER. -/
  | lmsTreeBuilt
  /-- PWROK_FALL (R380). PWROK falls, which is a package reset with a fault stop. -/
  | pwrokFall
  /-- RST_N_LOW (R438). RST_N held low for at least 1 µs resets the package and floats the xSPI lands. -/
  | rstNLow
  /-- PERST_N_LOW (R438). PERST_N held low for at least 1 µs resets the package. -/
  | perstNLow
  /-- GOVERNOR_GRANT (R382). A waiting start or stop is granted when both the package window and the rail window admit it. -/
  | governorGrant
  /-- FLOOD_WINDOW_END (R403). At each millisecond window end, EVENT_SUPPRESSED records are written for the suppressed keys. -/
  | floodWindowEnd
  /-- CXL_LINK_DOWN (R423). The link goes down or receives a hot reset, so every function's configuration state is reset. -/
  | cxlLinkDown
  /-- PF_FLR (R423). A function-level reset of the physical function resets its state and clears VF Enable. -/
  | pfFlr
  /-- HEALTH (R428). MCTP command HEALTH returns the 56 health values. -/
  | health
  /-- VID_APPLIED (R428). MCTP command VID_APPLIED sets PWR_VID.APPLIED. -/
  | vidApplied
  /-- MCTP_GET_CERT (R429). MCTP command GET_CERT. -/
  | mctpGetCert
  /-- GET_ENDPOINT_ID (R428). MCTP control command Get Endpoint ID. -/
  | getEndpointId
  /-- GET_MESSAGE_TYPE_SUPPORT (R428). MCTP control command Get Message Type Support. -/
  | getMessageTypeSupport
  /-- IDCODE (R430). TAP instruction IDCODE selects the identification register. -/
  | idcode
  /-- EXTEST (R431). TAP test-mode instruction EXTEST, in effect only while RST_N is low. -/
  | extest
  /-- EXTEST_PULSE (R431). TAP test-mode instruction EXTEST_PULSE under IEEE 1149.6. -/
  | extestPulse
  /-- EXTEST_TRAIN (R431). TAP test-mode instruction EXTEST_TRAIN under IEEE 1149.6. -/
  | extestTrain
  /-- CLAMP (R431). TAP test-mode instruction CLAMP. -/
  | clamp
  /-- HIGHZ (R431). TAP test-mode instruction HIGHZ. -/
  | highz
  /-- BYPASS (R430). TAP instruction BYPASS, also taken for unlisted codes. -/
  | bypass
  deriving DecidableEq, Repr

end Sys2Proof
end

