-- ==== Sys2Proof/Machine/Bits.lean ====
section
/-! DEFINITION. Bit fields, byte strings and the sparse tables the state is made of. -/

namespace Sys2Proof.Machine

open Sys2Proof

/-- Bits [lo+w-1 : lo] of a number. -/
def bits (x lo w : Nat) : Nat := x / 2 ^ lo % 2 ^ w

/-- `x` with bits [lo+w-1 : lo] replaced by the low `w` bits of `v`. -/
def setBits (x lo w v : Nat) : Nat :=
  x - bits x lo w * 2 ^ lo + v % 2 ^ w * 2 ^ lo

/-- Bit `n` of a number. -/
def bit (x n : Nat) : Bool := x.testBit n

/-- A Bool as the value of a one-bit field. -/
def b01 (b : Bool) : Nat := if b then 1 else 0

/-- The signed value of the low `w` bits of `x` (two's complement). -/
def signed (w x : Nat) : Int :=
  let v := x % 2 ^ w
  if v < 2 ^ (w - 1) then (v : Int) else (v : Int) - (2 ^ w : Nat)

/-- The `w`-bit two's complement pattern of an integer. -/
def wrapInt (w : Nat) (x : Int) : Nat := (x % (2 ^ w : Nat)).toNat

/-- The signed value of `w` bits, clamped on a sum outside the range. -/
def clampInt (lo hi x : Int) : Int := max lo (min hi x)

/-- Little-endian bytes of a number (R4). -/
def toBytes : Nat → Nat → List Byte
  | 0, _ => []
  | n + 1, x => BitVec.ofNat 8 x :: toBytes n (x / 256)

/-- The number that little-endian bytes spell (R4). -/
def ofBytes : List Byte → Nat
  | [] => 0
  | b :: bs => b.toNat + 256 * ofBytes bs

/-- Big-endian bytes of a number: the byte order of headers on the fabric (R4). -/
def toBytesBE (n x : Nat) : List Byte := (toBytes n x).reverse

/-- `n` bytes of a string from offset `off`; bytes beyond its end read 0. -/
def sub (bs : List Byte) (off n : Nat) : List Byte :=
  ((bs.drop off).take n) ++ List.replicate (n - (bs.drop off).length) 0

/-- The little-endian number of `n` bytes at offset `off`. -/
def le (bs : List Byte) (off n : Nat) : Nat := ofBytes (sub bs off n)

/-- A big-endian number of `n` bytes at an offset. -/
def be (bs : List Byte) (off n : Nat) : Nat := ofBytes (sub bs off n).reverse

/-- `bs` with the bytes `v` laid over it from offset `off`, as far as `bs` reaches. -/
def patch (bs : List Byte) (off : Nat) (v : List Byte) : List Byte :=
  bs.take off ++ (v.take (bs.length - off)) ++ bs.drop (off + v.length)

/-- `bs` with the `n`-byte little-endian number `v` at offset `off`. -/
def patchLe (bs : List Byte) (off n v : Nat) : List Byte := patch bs off (toBytes n v)

/-- `n` zero bytes. -/
def zeros (n : Nat) : List Byte := List.replicate n 0

/-- The number, in 0 to `n`-1, of the set bits of the low `n` bits of a mask, in rising order. -/
def bitsOf (n mask : Nat) : List Nat := (List.range n).filter (mask.testBit ·)

/-- How many of the low `n` bits are set. -/
def popcount (n mask : Nat) : Nat := (bitsOf n mask).length

/-- The mask whose set bits are the listed numbers. -/
def maskOf (l : List Nat) : Nat := l.foldl (fun m i => m ||| 2 ^ i) 0

/-- `x` rounded up to a multiple of `n`. -/
def alignUp (x n : Nat) : Nat := (x + n - 1) / n * n

/-- The ranges [a, b) and [c, d) meet. -/
def meets (a b c d : Nat) : Bool := a < d && c < b

/-- Quotient rounded up. -/
def ceilDiv (x n : Nat) : Nat := (x + n - 1) / n

/-- One entry of a sparse table. -/
abbrev SMap (α : Type) := List (Nat × α)

/-- The entry at a key. -/
def SMap.get? {α : Type} : SMap α → Nat → Option α
  | [], _ => none
  | (k, v) :: t, i => if k = i then some v else SMap.get? t i

/-- A table with the entry at `i` set; keys stay in rising order. -/
def SMap.set {α : Type} : SMap α → Nat → α → SMap α
  | [], i, x => [(i, x)]
  | (k, v) :: t, i, x =>
    if i < k then (i, x) :: (k, v) :: t
    else if i = k then (i, x) :: t
    else (k, v) :: SMap.set t i x

/-- A table without the entry at `i`. -/
def SMap.del {α : Type} (m : SMap α) (i : Nat) : SMap α := m.filter (fun e => e.1 != i)

/-- The keys of a table. -/
def SMap.keys {α : Type} (m : SMap α) : List Nat := m.map (·.1)

/-- The lowest number below `n` that is no key of a table. -/
def SMap.firstFree {α : Type} (m : SMap α) (n : Nat) : Option Nat :=
  (List.range n).find? (fun i => (m.get? i).isNone)

/-- `l` with the element at `i` changed by `f`. -/
def listModify {α : Type} : List α → Nat → (α → α) → List α
  | [], _, _ => []
  | x :: xs, 0, f => f x :: xs
  | x :: xs, i + 1, f => x :: listModify xs i f

/-- `l` without the element at `i`. -/
def listRemove {α : Type} : List α → Nat → List α
  | [], _ => []
  | _ :: xs, 0 => xs
  | x :: xs, i + 1 => x :: listRemove xs i

/-- An element put before the first element with a larger key. -/
def insertBy {α : Type} (key : α → Nat) (x : α) : List α → List α
  | [] => [x]
  | y :: ys => if key x < key y then x :: y :: ys else y :: insertBy key x ys

/-- A list in rising order of a key; elements with equal keys keep their order. -/
def sortBy {α : Type} (key : α → Nat) (l : List α) : List α := l.foldl (fun acc x => insertBy key x acc) []

/-- The elements of a list, each once, in order of their first appearance. -/
def distinct (l : List Nat) : List Nat := l.foldl (fun acc x => if acc.contains x then acc else acc ++ [x]) []

/-- One table step of the reflected CRC with polynomial 0x1EDC6F41 (06_block_compression.md R131). -/
def crcBit (c : Nat) : Nat := if c % 2 = 1 then (c / 2) ^^^ 0x82F63B78 else c / 2

/-- CRC-32C of a byte string, initial value and final exclusive-or all ones. -/
def crc32c (bs : List Byte) : Nat :=
  (bs.foldl (fun c b => crcBit (crcBit (crcBit (crcBit (crcBit (crcBit (crcBit (crcBit (c ^^^ b.toNat)))))))))
    0xFFFFFFFF) ^^^ 0xFFFFFFFF

end Sys2Proof.Machine
end

