-- ==== Sys2Proof/Machine/Codec.lean ====
section
/-! DEFINITION. The block format and its two codecs (06_block_compression.md R127-R140). -/

namespace Sys2Proof.Machine

open Sys2Proof

/-- The bits of a byte, most significant first. -/
def byteBits (b : Byte) : List Bool := [7, 6, 5, 4, 3, 2, 1, 0].map (fun i => b.toNat.testBit i)

/-- The code area as one bit stream (R131). -/
def streamOf (bs : List Byte) : List Bool := bs.flatMap byteBits

/-- The number whose bits, most significant first, are given. -/
def bitsNum (l : List Bool) : Nat := l.foldl (fun v b => 2 * v + b01 b) 0

/-- `w` bits of a number, most significant first. -/
def numBits (w x : Nat) : List Bool := (List.range w).map (fun i => x.testBit (w - 1 - i))

/-- Bits packed into bytes, most significant first, the last byte padded with zeros. -/
def packBits : Nat → List Bool → List Byte
  | 0, _ => []
  | n + 1, l => BitVec.ofNat 8 (bitsNum (l.take 8 ++ List.replicate (8 - (l.take 8).length) false)) ::
      packBits n (l.drop 8)

/-- What decoding a sub-block ends in. -/
inductive Decoded where
  | ok (bs : List Byte)
  /-- No code matches (CHECK_KIND 4). -/
  | noCode
  /-- The span ended too early (CHECK_KIND 6). -/
  | short
  deriving DecidableEq, Repr

/-- A canonical code table (R135): coded symbols as (length, code, symbol), in order of length and symbol. -/
def canonicalCodes (lens : List Nat) : List (Nat × Nat × Nat) :=
  let coded := (List.range 13).flatMap (fun l => if l = 0 then [] else
    ((List.range 256).filter (fun y => lens.getD y 0 = l)).map (fun y => (l, y)))
  (coded.foldl (fun acc e =>
    match acc with
    | [] => [(e.1, 0, e.2)]
    | (l, c, y) :: rest => (e.1, (c + 1) * 2 ^ (e.1 - l), e.2) :: (l, c, y) :: rest) []).reverse

/-- The sum condition of R135, scaled by 2^12. -/
def codeTableValid (lens : List Nat) : Bool :=
  lens.all (· ≤ 12) && (lens.foldl (fun a l => if l = 0 then a else a + 2 ^ (12 - l)) 0) ≤ 2 ^ 12

/-- No symbol outside the range has a length (R135). -/
def codeTableServes (lens : List Nat) (range : Nat) : Bool := (lens.drop range).all (· == 0)

/-- One symbol read from a stream: bits are taken until a code matches. -/
def readSymbol (codes : List (Nat × Nat × Nat)) : Nat → Nat → Nat → List Bool → Option (Nat × List Bool) ⊕ Unit
  | 0, _, _, _ => .inl none
  | _ + 1, _, _, [] => .inr ()
  | fuel + 1, len, acc, b :: bs =>
    let l := len + 1
    let v := 2 * acc + b01 b
    match codes.find? (fun e => e.1 = l && e.2.1 = v) with
    | some e => .inl (some (e.2.2, bs))
    | none => readSymbol codes fuel l v bs

/-- The W-codec modes of R134. -/
structure WMode where
  /-- Bits of the symbol. -/
  symBits : Nat
  /-- Bits of the remainder. -/
  remBits : Nat
  /-- Whether the remainder's first bit is the sign above the symbol. -/
  signed : Bool
  deriving DecidableEq, Repr

/-- The exponent and fraction widths of the formats that EXP codes (R134, Table 2.2). -/
def expFormat (fmt : Nat) : Option (Nat × Nat) :=
  if [0x02, 0x0A, 0x12].contains fmt then some (4, 3)
  else if [0x03, 0x0B].contains fmt then some (5, 2)
  else if [0x06, 0x0E, 0x16].contains fmt then some (2, 1)
  else if fmt = 0x01 then some (8, 7)
  else none

/-- The unit layout of a mode for a format; none where the mode is invalid for it. -/
def wMode (mode fmt : Nat) : Option WMode :=
  match mode with
  | 0 => (expFormat fmt).map (fun p => ⟨p.1, p.2 + 1, true⟩)
  | 1 => some ⟨4, 4, false⟩
  | 2 => some ⟨8, 0, false⟩
  | _ => none

/-- `n` units of a W-codec span, each as a number of symBits + remBits bits. -/
def readUnits (m : WMode) (codes : List (Nat × Nat × Nat)) : Nat → List Bool → List Nat → Decoded ⊕ List Nat
  | 0, _, acc => .inr acc.reverse
  | n + 1, l, acc =>
    match readSymbol codes 12 0 0 l with
    | .inl none => .inl .noCode
    | .inr () => .inl .short
    | .inl (some (y, rest)) =>
      if rest.length < m.remBits then .inl .short
      else
        let r := bitsNum (rest.take m.remBits)
        let fb := m.remBits - 1
        let u := if m.signed then (r / 2 ^ fb) * 2 ^ (m.symBits + fb) + y * 2 ^ fb + r % 2 ^ fb
                 else y * 2 ^ m.remBits + r
        readUnits m codes n (rest.drop m.remBits) (u :: acc)

/-- Units of `w` bits, lowest first, joined to bytes (R35). -/
def unitsToBytes (w : Nat) (us : List Nat) : List Byte :=
  toBytes (us.length * w / 8) ((us.reverse).foldl (fun v u => v * 2 ^ w + u) 0)

/-- A W-codec sub-block decoded from its span. -/
def decodeWSub (m : WMode) (codes : List (Nat × Nat × Nat)) (span : List Bool) : Decoded :=
  let w := m.symBits + m.remBits
  match readUnits m codes (2048 / w) span [] with
  | .inl d => d
  | .inr us => .ok (unitsToBytes w us)

/-- The rows of a K-codec column after row 0 (R136). -/
def readColumn (k : Nat) : Nat → Nat → List Bool → List Nat → Option (List Nat × List Bool)
  | 0, _, l, acc => some (acc.reverse, l)
  | _ + 1, _, [], _ => none
  | n + 1, prev, false :: l, acc =>
    if l.length < k then none
    else
      let z := bitsNum (l.take k)
      let x := if z % 2 = 0 then (prev + z / 2) % 256 else (prev + 256 - (z + 1) / 2) % 256
      readColumn k n x (l.drop k) (x :: acc)
  | n + 1, _, true :: l, acc =>
    if l.length < 8 then none
    else
      let x := bitsNum (l.take 8)
      readColumn k n x (l.drop 8) (x :: acc)

/-- `n` columns of `rows` bytes each. -/
def readColumns (rows : Nat) : Nat → List Bool → Option (List (List Nat))
  | 0, _ => some []
  | n + 1, l =>
    if l.length < 11 then none
    else
      let k := bitsNum (l.take 3)
      let x := bitsNum ((l.drop 3).take 8)
      match readColumn k (rows - 1) x (l.drop 11) [x] with
      | none => none
      | some (col, rest) => (readColumns rows n rest).map (col :: ·)

/-- The zigzag value of a difference (R136). -/
def zigzag (prev x : Nat) : Nat :=
  let d := (x + 256 - prev) % 256
  if d < 128 then 2 * d else 2 * (256 - d) - 1

/-- The code of one byte after `prev` with parameter `k`. -/
def kCode (k prev x : Nat) : List Bool :=
  if zigzag prev x < 2 ^ k then false :: numBits k (zigzag prev x) else true :: numBits 8 x

/-- The codes of the rows after the first. -/
def kCodes (k : Nat) : Nat → List Nat → List Bool
  | _, [] => []
  | prev, x :: xs => kCode k prev x ++ kCodes k x xs

/-- A column coded with parameter `k`. -/
def kColumn (k : Nat) : List Nat → List Bool
  | [] => []
  | x :: xs => numBits 3 k ++ numBits 8 x ++ kCodes k x xs

/-- A column coded with the parameter that makes it shortest, the lowest on ties (R136). -/
def kColumnBest (col : List Nat) : List Bool :=
  (List.range 8).foldl (fun best k =>
    let c := kColumn k col
    if c.length < best.length then c else best) (kColumn 0 col)

/-- Column `j` of a block of rows of `c` bytes. -/
def column (bs : List Byte) (c j : Nat) : List Nat :=
  (List.range (4096 / c)).map (fun r => (bs.getD (r * c + j) 0).toNat)

/-- The channel width that the KV manager chooses (R136). -/
def channelOf (headDim : Nat) : Nat := if headDim ≠ 0 ∧ 4096 % headDim = 0 then headDim else 16

/-- A block header of 48 bytes (Table 6.1). -/
def blockHeader (cls codec mode fmt codeBytes table channel check keyId : Nat) (encrypted : Bool)
    (offs : List Nat) : List Byte :=
  toBytes 8 (1 + cls * 2 ^ 4 + codec * 2 ^ 8 + mode * 2 ^ 10 + b01 encrypted * 2 ^ 12 + fmt * 2 ^ 16 +
    codeBytes * 2 ^ 24 + table * 2 ^ 36 + channel * 2 ^ 40) ++
  toBytes 8 (check + keyId * 2 ^ 32) ++ offs.flatMap (toBytes 2)

/-- The stored bytes with the CHECK field taken as zero (R131). -/
def blockCheck (bs : List Byte) : Nat := crc32c (patchLe bs 8 4 0)

/-- A 4,096 B block encoded by the K-codec: its class and stored bytes, or none when it would be raw (R128, R129). -/
def kEncode (fmt c : Nat) (bs : List Byte) : Option (Nat × List Byte) :=
  let subs := (List.range 16).map (fun k =>
    ((List.range (c / 16)).map (fun j => kColumnBest (column bs c (k * (c / 16) + j)))).flatten)
  let offs := (List.range 16).map (fun k => ((subs.take k).map List.length).foldl (· + ·) 0)
  let stream := subs.flatten
  let codeBytes := ceilDiv stream.length 8
  if 48 + codeBytes > 4096 then none
  else
    let cls := ceilDiv (48 + codeBytes) 256 - 1
    let body := packBits codeBytes stream ++ zeros ((cls + 1) * 256 - 48 - codeBytes)
    let raw := blockHeader cls 2 0 fmt codeBytes 0 c 0 0 false offs ++ body
    some (cls, patchLe raw 8 4 (blockCheck raw))

/-- What a failed block check records (Table 6.3): the cause (0 CORRUPT, 1 SHORT), CHECK_KIND, the codec of the header
and the sub-block. -/
structure BlockError where
  cause : Nat
  kind : Nat
  codec : Nat
  sub : Nat
  deriving DecidableEq, Repr

/-- The span of sub-block `k` (R131). -/
def spanOf (stream : List Bool) (offs : List Nat) (codeBits k : Nat) : List Bool :=
  let o := offs.getD k 0
  let next := (offs.filter (o < ·)).foldl min codeBits
  (stream.take next).drop o

/-- A K-codec sub-block as columns. -/
def decodeKSub (c : Nat) (span : List Bool) : Option (List (List Nat)) := readColumns (4096 / c) (c / 16) span

/-- The bytes of a block from its columns. -/
def bytesOfColumns (c : Nat) (cols : List (List Nat)) : List Byte :=
  (List.range 4096).map (fun i => BitVec.ofNat 8 ((cols.getD (i % c) []).getD (i / c) 0))

/-- The CHECK_KIND of the first of the checks of Table 6.3 that need no decode and that the header of a block fails: the
class overrun, the fields and CHECK. `tableOk` says whether a mode is served by the table that the header names. -/
def headerFault (codecOk fmtOk : Nat → Bool) (tableOk : WMode → Nat → Bool) (cls : Nat) (bs : List Byte) : Option Nat :=
  let h := le bs 0 8
  let codeBytes := bits h 24 12
  let codec := bits h 8 2
  let offs := (List.range 16).map (fun k => le bs (16 + 2 * k) 2)
  let chan := bits h 40 10
  let reserved := bits h 13 3 + bits h 21 3 + bits h 50 14 + bits (le bs 8 8) 48 16
  if 48 + codeBytes > (cls + 1) * 256 then some 0
  else if bits h 4 4 ≠ cls ∨ bits h 0 4 ≠ 1 ∨ !codecOk codec ∨ codeBytes = 0 ∨ reserved ≠ 0 ∨ ¬ fmtOk (bits h 16 5) ∨
      offs.any (fun o => 8 * codeBytes < o) then some 1
  else if codec = 2 ∧ (bits h 10 2 ≠ 0 ∨ bits h 36 4 ≠ 0 ∨ chan = 0 ∨ chan % 16 ≠ 0 ∨ 4096 % chan ≠ 0) then some 1
  else if codec = 1 ∧ (chan ≠ 0 ∨ ¬ (wMode (bits h 10 2) (bits h 16 5)).any (fun m => tableOk m (bits h 36 4))) then some 1
  else if blockCheck bs ≠ bits (le bs 8 8) 0 32 then some 3
  else none

/-- A block decoded after its entry was found in range: the checks of Table 6.3 from the class overrun on, in order.
`codec` is the consumer's codec, `tables` the code tables of the index table (R135). -/
def decodeBlock (codec : Nat) (fmtOk : Nat → Bool) (tables : List (List Nat)) (cls : Nat) (bs : List Byte) :
    Except BlockError (List Byte) :=
  let h := le bs 0 8
  let fmt := bits h 16 5
  let codeBytes := bits h 24 12
  let cc := bits h 8 2
  let offs := (List.range 16).map (fun k => le bs (16 + 2 * k) 2)
  let chan := bits h 40 10
  let table := tables[bits h 36 4]?
  let wm := wMode (bits h 10 2) fmt
  let fail := fun cause kind sub => BlockError.mk cause kind cc sub
  let served := fun (m : WMode) (k : Nat) => (tables[k]?).any (fun t => codeTableServes t (2 ^ m.symBits))
  if let some kind := headerFault (· == codec) fmtOk served cls bs then .error (fail 0 kind 0)
  else if bits h 12 1 = 1 then .error (fail 0 5 0)
  else
    let stream := streamOf ((bs.drop 48).take codeBytes)
    let spans := (List.range 16).map (spanOf stream offs (8 * codeBytes))
    if codec = 2 then
      let cols := spans.map (decodeKSub chan)
      match (List.range 16).find? (fun k => (cols.getD k none).isNone) with
      | some k => .error (fail 1 6 k)
      | none => .ok (bytesOfColumns chan (cols.filterMap id).flatten)
    else
      let m := wm.getD ⟨8, 0, false⟩
      let codes := canonicalCodes (table.getD [])
      let subs := spans.map (decodeWSub m codes)
      match (List.range 16).find? (fun k => subs.getD k .short == .noCode) with
      | some k => .error (fail 0 4 k)
      | none =>
        match (List.range 16).find? (fun k => subs.getD k .short == .short) with
        | some k => .error (fail 1 6 k)
        | none => .ok (subs.flatMap (fun d => match d with | .ok b => b | _ => []))

/-- An entry of an index table (Table 6.2). -/
structure IndexEntry where
  offset : Nat
  cls : Nat
  raw : Bool
  poisoned : Bool
  cause : Nat
  rawEncrypted : Bool
  rawCheck : Nat
  rawKeyId : Nat
  deriving DecidableEq, Repr

/-- An index entry read from its 16 bytes. -/
def IndexEntry.ofBytes (bs : List Byte) : IndexEntry :=
  let w0 := le bs 0 8
  let w1 := le bs 8 8
  ⟨bits w0 0 36, bits w0 36 4, bit w0 40, bit w0 41, bits w0 42 1, bit w0 43, bits w1 0 32, bits w1 32 16⟩

/-- The stored bytes of the block of an entry. -/
def IndexEntry.size (e : IndexEntry) : Nat := (e.cls + 1) * 256

/-- The entry reaches beyond STORED_BYTES, or RAW is 1 with CLASS not 15 (Table 6.3). -/
def IndexEntry.badRange (e : IndexEntry) (stored : Nat) : Bool :=
  e.offset * 256 + e.size > stored || (e.raw && e.cls != 15)

/-- The 256 code lengths of a 128 B code table (R135). -/
def codeLengths (bs : List Byte) : List Nat :=
  (List.range 256).map (fun y => bits (bs.getD (y / 2) 0).toNat (4 * (y % 2)) 4)

end Sys2Proof.Machine
end

