-- ==== Sys2Proof/Machine/Crypto.lean ====
section
/-! DEFINITION. The published algorithms of Heartwood's engines and of the storage and fabric paths (14_trust_attestation.md
R296): SHA-256 (FIPS 180-4), HMAC (FIPS 198-1), HKDF (RFC 5869), AES-256 (FIPS 197) in GCM (NIST SP 800-38D) and XTS
(IEEE 1619), and HSS/LMS verification (RFC 8554). The spec names them and does not define them (log 8). -/

namespace Sys2Proof.Machine

open Sys2Proof

/-! SHA-256 -/

/-- The round constants. -/
def shaK : List (BitVec 32) :=
  [0x428a2f98, 0x71374491, 0xb5c0fbcf, 0xe9b5dba5, 0x3956c25b, 0x59f111f1, 0x923f82a4, 0xab1c5ed5,
   0xd807aa98, 0x12835b01, 0x243185be, 0x550c7dc3, 0x72be5d74, 0x80deb1fe, 0x9bdc06a7, 0xc19bf174,
   0xe49b69c1, 0xefbe4786, 0x0fc19dc6, 0x240ca1cc, 0x2de92c6f, 0x4a7484aa, 0x5cb0a9dc, 0x76f988da,
   0x983e5152, 0xa831c66d, 0xb00327c8, 0xbf597fc7, 0xc6e00bf3, 0xd5a79147, 0x06ca6351, 0x14292967] ++
  [0x27b70a85, 0x2e1b2138, 0x4d2c6dfc, 0x53380d13, 0x650a7354, 0x766a0abb, 0x81c2c92e, 0x92722c85,
   0xa2bfe8a1, 0xa81a664b, 0xc24b8b70, 0xc76c51a3, 0xd192e819, 0xd6990624, 0xf40e3585, 0x106aa070,
   0x19a4c116, 0x1e376c08, 0x2748774c, 0x34b0bcb5, 0x391c0cb3, 0x4ed8aa4a, 0x5b9cca4f, 0x682e6ff3,
   0x748f82ee, 0x78a5636f, 0x84c87814, 0x8cc70208, 0x90befffa, 0xa4506ceb, 0xbef9a3f7, 0xc67178f2]

/-- The eight words of the hash state. -/
structure ShaState where
  a : BitVec 32
  b : BitVec 32
  c : BitVec 32
  d : BitVec 32
  e : BitVec 32
  f : BitVec 32
  g : BitVec 32
  h : BitVec 32
  deriving DecidableEq, Repr

/-- The initial hash value. -/
def shaInit : ShaState :=
  ⟨0x6a09e667, 0xbb67ae85, 0x3c6ef372, 0xa54ff53a, 0x510e527f, 0x9b05688c, 0x1f83d9ab, 0x5be0cd19⟩

/-- One more word of the message schedule, newest first. -/
def shaExtend (w : List (BitVec 32)) : List (BitVec 32) :=
  let x := w.getD 1 0
  let y := w.getD 14 0
  let s1 := x.rotateRight 17 ^^^ x.rotateRight 19 ^^^ (x >>> 10)
  let s0 := y.rotateRight 7 ^^^ y.rotateRight 18 ^^^ (y >>> 3)
  (s1 + w.getD 6 0 + s0 + w.getD 15 0) :: w

/-- One round. -/
def shaRound (s : ShaState) (kw : BitVec 32) : ShaState :=
  let s1 := s.e.rotateRight 6 ^^^ s.e.rotateRight 11 ^^^ s.e.rotateRight 25
  let ch := (s.e &&& s.f) ^^^ (~~~s.e &&& s.g)
  let t1 := s.h + s1 + ch + kw
  let s0 := s.a.rotateRight 2 ^^^ s.a.rotateRight 13 ^^^ s.a.rotateRight 22
  let maj := (s.a &&& s.b) ^^^ (s.a &&& s.c) ^^^ (s.b &&& s.c)
  ⟨t1 + (s0 + maj), s.a, s.b, s.c, s.d + t1, s.e, s.f, s.g⟩

/-- Bytes as big-endian 32-bit words. -/
def wordsBE : List Byte → List (BitVec 32)
  | a :: b :: c :: d :: t => (a ++ b ++ c ++ d : BitVec 32) :: wordsBE t
  | _ => []

/-- A 64 B block taken in. -/
def shaBlock (s : ShaState) (block : List Byte) : ShaState :=
  let w := ((List.range 48).foldl (fun w _ => shaExtend w) (wordsBE block).reverse).reverse
  let t := (shaK.zip w).foldl (fun s x => shaRound s (x.1 + x.2)) s
  ⟨s.a + t.a, s.b + t.b, s.c + t.c, s.d + t.d, s.e + t.e, s.f + t.f, s.g + t.g, s.h + t.h⟩

/-- The first `k` pieces of length `n` of a list. -/
def cutPieces {α : Type} (n : Nat) : Nat → List α → List (List α)
  | 0, _ => []
  | k + 1, l => l.take n :: cutPieces n k (l.drop n)

/-- A list cut into pieces of `n`, the last one shorter. -/
def cutInto {α : Type} (n : Nat) (l : List α) : List (List α) := cutPieces n (ceilDiv l.length n) l

/-- 64 B blocks, consumed one after the other. -/
def shaBlocks : Nat → ShaState → List Byte → ShaState
  | 0, s, _ => s
  | k + 1, s, l => shaBlocks k (shaBlock s (l.take 64)) (l.drop 64)

/-- SHA-256: 32 bytes. -/
def sha256 (text : List Byte) : List Byte :=
  let n := text.length
  let m := text ++ [0x80] ++ zeros ((119 - n % 64) % 64) ++ toBytesBE 8 (8 * n)
  let s := shaBlocks (m.length / 64) shaInit m
  [s.a, s.b, s.c, s.d, s.e, s.f, s.g, s.h].flatMap (fun w => toBytesBE 4 w.toNat)

/-- HMAC-SHA-256. -/
def hmac (key text : List Byte) : List Byte :=
  let k := if 64 < key.length then sha256 key else key
  let k := k ++ zeros (64 - k.length)
  sha256 (k.map (· ^^^ 0x5C) ++ sha256 (k.map (· ^^^ 0x36) ++ text))

/-- HKDF-SHA-256 with an output of 32 B, which one block gives. -/
def hkdf (ikm salt info : List Byte) : List Byte :=
  hmac (hmac (if salt.isEmpty then zeros 32 else salt) ikm) (info ++ [1])

/-! AES-256 -/

/-- Multiplication in GF(2^8) modulo x^8 + x^4 + x^3 + x + 1. -/
def gfMul (a b : Nat) : Nat :=
  ((List.range 8).foldl (fun (acc : Nat × Nat) i =>
    let r := if b.testBit i then acc.1 ^^^ acc.2 else acc.1
    (r, if acc.2.testBit 7 then (2 * acc.2) ^^^ 0x11B else 2 * acc.2)) (0, a)).1

/-- `a` to the power 254: its inverse, and 0 for 0. -/
def gfInv (a : Nat) : Nat :=
  let a2 := gfMul a a
  let a4 := gfMul a2 a2
  let a8 := gfMul a4 a4
  let a16 := gfMul a8 a8
  let a32 := gfMul a16 a16
  let a64 := gfMul a32 a32
  let a128 := gfMul a64 a64
  gfMul a2 (gfMul a4 (gfMul a8 (gfMul a16 (gfMul a32 (gfMul a64 a128)))))

/-- A byte turned left by `k`. -/
def rotl8 (x k : Nat) : Nat := (x * 2 ^ k) % 256 + x / 2 ^ (8 - k)

/-- The S-box of a byte. -/
def sboxOf (x : Nat) : Nat :=
  let i := gfInv x
  i ^^^ rotl8 i 1 ^^^ rotl8 i 2 ^^^ rotl8 i 3 ^^^ rotl8 i 4 ^^^ 0x63

/-- The S-box and its inverse as tables. -/
def sboxTable : Array Nat := ((List.range 256).map sboxOf).toArray
def invSboxTable : Array Nat :=
  ((List.range 256).foldl (fun (t : Array Nat) x => t.setIfInBounds (sboxOf x) x) (Array.replicate 256 0))
def sbox (x : Nat) : Nat := sboxTable.getD x 0
def invSbox (x : Nat) : Nat := invSboxTable.getD x 0

/-- Two lists of bytes added. -/
def xorBytes (a b : List Nat) : List Nat := List.zipWith (· ^^^ ·) a b

/-- The four-byte words of the key schedule, newest first. -/
def aesExtend (w : List (List Nat)) (i : Nat) : List (List Nat) :=
  let t := w.headD []
  let t := if i % 8 = 0 then
      let r := (t.drop 1 ++ t.take 1).map sbox
      xorBytes r [2 ^ (i / 8 - 1), 0, 0, 0]
    else if i % 8 = 4 then t.map sbox else t
  xorBytes (w.getD 7 []) t :: w

/-- The 15 round keys of a 32 B key. -/
def aesKeys (key : List Byte) : List (List Nat) :=
  let first := (cutInto 4 ((key ++ zeros 32).take 32 |>.map (·.toNat))).reverse
  let w := ((List.range 52).foldl (fun w i => aesExtend w (i + 8)) first).reverse
  (List.range 15).map (fun r => ((w.drop (4 * r)).take 4).flatten)

/-- Rows shifted left, in column order; and right. -/
def shiftRows (s : List Nat) : List Nat := (List.range 16).map (fun i => s.getD ((i + 4 * (i % 4)) % 16) 0)
def invShiftRows (s : List Nat) : List Nat := (List.range 16).map (fun i => s.getD ((i + 16 - 4 * (i % 4)) % 16) 0)

/-- Each column multiplied by the circulant matrix with first row `m`. -/
def mixWith (m s : List Nat) : List Nat :=
  (List.range 16).map (fun i =>
    (List.range 4).foldl (fun acc j => acc ^^^ gfMul (s.getD (i / 4 * 4 + j) 0) (m.getD ((j + 4 - i % 4) % 4) 0)) 0)

/-- AES-256 of a 16 B block under the round keys. -/
def aesEncrypt (ks : List (List Nat)) (block : List Byte) : List Byte :=
  let s := xorBytes (block.map (·.toNat)) (ks.getD 0 [])
  let s := (List.range 13).foldl (fun s r =>
    xorBytes (mixWith [2, 3, 1, 1] (shiftRows (s.map sbox))) (ks.getD (r + 1) [])) s
  (xorBytes (shiftRows (s.map sbox)) (ks.getD 14 [])).map (BitVec.ofNat 8)

/-- Its inverse. -/
def aesDecrypt (ks : List (List Nat)) (block : List Byte) : List Byte :=
  let s := (invShiftRows (xorBytes (block.map (·.toNat)) (ks.getD 14 []))).map invSbox
  let s := (List.range 13).foldl (fun s r =>
    (invShiftRows (mixWith [14, 11, 13, 9] (xorBytes s (ks.getD (13 - r) [])))).map invSbox) s
  (xorBytes s (ks.getD 0 [])).map (BitVec.ofNat 8)

/-! GCM -/

/-- Multiplication in GF(2^128) with GCM's order of bits. -/
def ghashMul (x y : Nat) : Nat :=
  ((List.range 128).foldl (fun (acc : Nat × Nat) i =>
    let z := if x.testBit (127 - i) then acc.1 ^^^ acc.2 else acc.1
    (z, if acc.2.testBit 0 then (acc.2 / 2) ^^^ (0xE1 * 2 ^ 120) else acc.2 / 2)) (0, y)).1

/-- A text filled with zeros to whole 16 B blocks. -/
def padded16 (l : List Byte) : List Byte := l ++ zeros ((16 - l.length % 16) % 16)

/-- GHASH of additional data and ciphertext. -/
def ghash (h : Nat) (aad text : List Byte) : Nat :=
  let all := padded16 aad ++ padded16 text ++ toBytesBE 8 (8 * aad.length) ++ toBytesBE 8 (8 * text.length)
  (cutInto 16 all).foldl (fun acc b => ghashMul (acc ^^^ ofBytes b.reverse) h) 0

/-- Counter mode from a counter on. -/
def gcmStream (ks : List (List Nat)) (iv text : List Byte) : List Byte :=
  ((cutInto 16 text).zipIdx.map (fun e =>
    List.zipWith (· ^^^ ·) e.1 (aesEncrypt ks (iv ++ toBytesBE 4 (e.2 + 2))))).flatten

/-- The tag of a ciphertext, for an IV of 12 B. -/
def gcmTag (ks : List (List Nat)) (iv aad text : List Byte) : List Byte :=
  let h := ofBytes (aesEncrypt ks (zeros 16)).reverse
  List.zipWith (· ^^^ ·) (toBytesBE 16 (ghash h aad text)) (aesEncrypt ks (iv ++ toBytesBE 4 1))

/-- AES-256-GCM: ciphertext and 16 B tag. -/
def gcmSeal (key iv aad text : List Byte) : List Byte :=
  let ks := aesKeys key
  let c := gcmStream ks iv text
  c ++ gcmTag ks iv aad c

/-- The text of a ciphertext with its tag; none where the tag fails. -/
def gcmOpen (key iv aad box : List Byte) : Option (List Byte) :=
  let ks := aesKeys key
  let c := box.take (box.length - 16)
  if 16 ≤ box.length ∧ gcmTag ks iv aad c = box.drop (box.length - 16) then some (gcmStream ks iv c) else none

/-! XTS -/

/-- The tweak of the next block: multiplied by x in GF(2^128). -/
def xtsNext (t : Nat) : Nat := if t.testBit 127 then (2 * t) % 2 ^ 128 ^^^ 0x87 else 2 * t

/-- AES-256-XTS decryption of a data unit of whole blocks under a 64 B key; `tweak` is the data unit's number. -/
def xtsDecrypt (key : List Byte) (tweak : Nat) (data : List Byte) : List Byte :=
  let k1 := aesKeys (key.take 32)
  let t0 := ofBytes (aesEncrypt (aesKeys (key.drop 32)) (toBytes 16 tweak))
  ((cutInto 16 data).foldl (fun (acc : Nat × List (List Byte)) b =>
    let t := toBytes 16 acc.1
    (xtsNext acc.1, List.zipWith (· ^^^ ·) (aesDecrypt k1 (List.zipWith (· ^^^ ·) b t)) t :: acc.2)) (t0, [])).2.reverse.flatten

/-! HSS/LMS verification with LMS_SHA256_M32 and LMOTS_SHA256_N32 -/

/-- The Winternitz width of an LM-OTS typecode 1 to 4, and the count of its chains. -/
def otsWidth (typ : Nat) : Nat := 2 ^ (typ - 1)
def otsChains (typ : Nat) : Nat := [265, 133, 67, 34].getD (typ - 1) 0

/-- The tree height of an LMS typecode 5 to 9. -/
def lmsHeight (typ : Nat) : Nat := 5 * (typ - 4)

/-- Digit `i` of width `w` of a byte string. -/
def otsDigit (s : List Byte) (i w : Nat) : Nat := bits (s.getD (i * w / 8) 0).toNat (8 - w - i * w % 8) w

/-- The checksum that follows the digest. -/
def otsChecksum (q : List Byte) (w : Nat) : Nat :=
  let sum := (List.range (256 / w)).foldl (fun acc i => acc + (2 ^ w - 1 - otsDigit q i w)) 0
  sum * 2 ^ ([7, 6, 4, 0].getD (Nat.log2 w) 0)

/-- A chain followed from step `lo` to the last. -/
def otsChain (id : List Byte) (leaf i lo : Nat) (w : Nat) (x : List Byte) : List Byte :=
  (List.range (2 ^ w - 1 - lo)).foldl (fun t j =>
    sha256 (id ++ toBytesBE 4 leaf ++ toBytesBE 2 i ++ toBytesBE 1 (lo + j) ++ t)) x

/-- The LM-OTS key that a signature of a text gives: RFC 8554, algorithm 4b. -/
def otsCandidate (id : List Byte) (leaf : Nat) (typ : Nat) (text sig : List Byte) : List Byte :=
  let w := otsWidth typ
  let c := sub sig 4 32
  let q := sha256 (id ++ toBytesBE 4 leaf ++ [0x81, 0x81] ++ c ++ text)
  let digits := q ++ toBytesBE 2 (otsChecksum q w)
  sha256 (id ++ toBytesBE 4 leaf ++ [0x80, 0x80] ++ (List.range (otsChains typ)).flatMap (fun i =>
    otsChain id leaf i (otsDigit digits i w) w (sub sig (36 + 32 * i) 32)))

/-- The length of an LMS signature with these typecodes. -/
def lmsSigLen (ots lms : Nat) : Nat := 12 + 32 * (otsChains ots + 1) + 32 * lmsHeight lms

/-- An LMS signature of a text verifies under a 56 B public key (RFC 8554, algorithm 6a). -/
def lmsVerify (key text sig : List Byte) : Bool :=
  let lms := be key 0 4
  let ots := be key 4 4
  let id := sub key 8 16
  let leaf := be sig 0 4
  let h := lmsHeight lms
  let at_ := 4 + 4 + 32 * (otsChains ots + 1)
  if be sig 4 4 = ots ∧ be sig at_ 4 = lms ∧ leaf < 2 ^ h ∧ sig.length = lmsSigLen ots lms then
    let node := 2 ^ h + leaf
    let k := otsCandidate id leaf ots text (sig.drop 4)
    let root := (List.range h).foldl (fun (acc : Nat × List Byte) i =>
      let p := sub sig (at_ + 4 + 32 * i) 32
      let up := acc.1 / 2
      (up, sha256 (id ++ toBytesBE 4 up ++ [0x83, 0x83] ++ (if acc.1 % 2 = 1 then p ++ acc.2 else acc.2 ++ p))))
      (node, sha256 (id ++ toBytesBE 4 node ++ [0x82, 0x82] ++ k))
    root.2 == sub key 24 32
  else false

/-- The levels of an HSS signature after its count of signed keys. -/
def hssLevels : Nat → List Byte → List Byte → List Byte → Bool
  | 0, key, text, sig => lmsVerify key text sig
  | k + 1, key, text, sig =>
      let n := lmsSigLen (be key 4 4) (be key 0 4)
    let next := sub sig n 56
    lmsVerify key next (sig.take n) && hssLevels k next text (sig.drop (n + 56))

/-- An HSS signature of a text verifies under a 60 B public key (RFC 8554, section 6.3). -/
def hssVerify (key text sig : List Byte) : Bool :=
  let levels := be key 0 4
  levels != 0 && be sig 0 4 == levels - 1 && hssLevels (levels - 1) (key.drop 4) text (sig.drop 4)

end Sys2Proof.Machine
end

