-- ==== Sys2Proof/Machine/Flags.lean ====
section
/-! DEFINITION. The five sticky exception flags of a vector core (02_number_formats.md R52, R451; 04_vector_cores.md
Table 4.1). -/

namespace Sys2Proof.Machine

/-- Flags raised by one operation. -/
structure Flags where
  invalid : Bool := false
  divZero : Bool := false
  overflow : Bool := false
  underflow : Bool := false
  inexact : Bool := false
  deriving DecidableEq, Repr

/-- No flag. -/
def Flags.none : Flags := {}

/-- Flags that stay set together (R52). -/
def Flags.or (a b : Flags) : Flags :=
  ⟨a.invalid || b.invalid, a.divZero || b.divZero, a.overflow || b.overflow, a.underflow || b.underflow,
   a.inexact || b.inexact⟩

/-- FLAGS as Table 4.1 numbers its bits. -/
def Flags.toNat (f : Flags) : Nat :=
  b01 f.invalid + 2 * b01 f.divZero + 4 * b01 f.overflow + 8 * b01 f.underflow + 16 * b01 f.inexact

/-- The flags of a list of operations. -/
def Flags.all (l : List Flags) : Flags := l.foldl Flags.or Flags.none

/-- Flags of the lanes that a mask leaves out are not raised (R83). -/
def Flags.when (c : Bool) (f : Flags) : Flags := if c then f else Flags.none

end Sys2Proof.Machine
end

