-- ==== Sys2Proof/Config.lean ====
section
/-! DEFINITION. What an implementation fixes and the values the spec leaves open: opaque constants, so that nothing can
be proved about a particular one. -/

namespace Sys2Proof.Config

open Sys2Proof

/-- A byte whose content the spec leaves undefined, by the epoch at which it became so and its key (log 5). -/
opaque freeByte (epoch key : Nat) : Byte

/-- The `n`-th value the spec leaves open in a run, of 64 bits (log 6). -/
opaque freeWord (n : Nat) : Word

/-- Nymdun's JEP106 code (21_address_map.md R430). -/
opaque jep106 : BitVec 11

/-- Nymdun's MIPI manufacturer identifier (21_address_map.md R427). -/
opaque mipiId : BitVec 15

/-- The vendor identifier that the physical function reports in configuration space (21_address_map.md R428). -/
opaque vendorId : BitVec 16

/-- Whether 0 × ∞ + quiet NaN raises invalid operation: IEEE 754-2019 leaves it to the implementation. -/
opaque fmaNanInvalid : Bool

/-- Whether an ordering compare of a quiet NaN raises invalid operation (02_number_formats.md R51 names no form). -/
opaque orderingSignals : Bool

/-- A lane whose value the spec leaves open: by draw and lane. -/
opaque freeLane (draw lane : Nat) : BitVec 32

/-- A choice among `n` outcomes that the spec leaves open, by draw. -/
opaque pick (draw n : Nat) : Nat

/-- The pair of summands that step `k` of a sum of `n` terms adds: the order of a cross-lane sum is not given
(04_vector_cores.md R84). -/
opaque sumPair (n k : Nat) : Nat × Nat

/-- The error of a special function's FP32 result in units in the last place, within the bound of Table 4.5, and
whether it raises the inexact flag (04_vector_cores.md R88). -/
opaque sfuUlp (fn x : Nat) : Int
opaque sfuInexact (fn x : Nat) : Bool

/-- The FP32 pass sum of the products of one pass, where the internal precision is not given (02_number_formats.md
R46): a function of the element products, each a mantissa and an exponent. -/
opaque passSum (products : List (Int × Int)) : BitVec 32

/-- The number of the kernel "Attention, remote service" in a stand's kernel table (05_attention_state.md R121). -/
opaque serviceKernel : Nat

/-- The order in which the two FP32 scales of an output are multiplied in (02_number_formats.md R46). -/
opaque scaleOrder : Nat

/-! What the part holds from manufacture, and the engines of Heartwood (14_trust_attestation.md Table 14.2, R296, R302,
R311, R312, R318). -/

/-- The fused serial number. -/
opaque serial : Word

/-- The device certificate: a 128 B body and Nymdun's signature over it. -/
opaque certificate : List Byte

/-- HSS verification of a text and a signature under the owner key whose SHA-256 lies in a fuse slot: RELEASE_OWNER carries
no public key (14_trust_attestation.md R301). -/
opaque ownerVerify (hash text signature : List Byte) : Bool

/-- The identity key's HSS signature of a text with a leaf. -/
opaque hssSign (leaf : Nat) (text : List Byte) : List Byte

/-- ML-KEM-1024 (FIPS 203): the encapsulation key of the pair that comes from a draw; the shared secret of a ciphertext
under that pair; and a ciphertext with its shared secret for an encapsulation key, by draw. -/
opaque kemKey (draw : Nat) : List Byte
opaque kemOpen (draw : Nat) (ciphertext : List Byte) : List Byte
opaque kemSeal (key : List Byte) (draw : Nat) : List Byte × List Byte

/-- A firmware package: whether its signature verifies under NYMDUN_ROOT, its SVN, and its parts: 0 Heartwood, 1 steward
core, 2 sequencer firmware. -/
opaque fwSigned (package : List Byte) : Bool
opaque fwSvn (package : List Byte) : Nat
opaque fwPart (package : List Byte) (part : Nat) : List Byte

/-- The fused VDD_A set point in mV, and the fused energy coefficients in 1/256 pJ (18_power_thermal.md R381, R390). -/
opaque vidMv : Nat
opaque energyCoefficient (i : Nat) : Nat

end Sys2Proof.Config
end

