-- ==== Sys2Proof/Machine/Mem.lean ====
section
/-! DEFINITION. The one byte map: stand homes and copies, host memory, flash, stores and data areas share it, each in
a space of its own (`Space`). Its canonical form is `Memory.wf`. -/

namespace Sys2Proof.Machine

open Sys2Proof

/-- A run of bytes whose content the spec leaves open: they read as `Config.freeByte epoch`. -/
structure UndefRange where
  lo : Nat
  hi : Nat
  epoch : Nat
  deriving DecidableEq, Repr

/-- The byte map: listed bytes, none of them 0, and runs of open content. Any other byte reads 0 (log 4). -/
structure Mem where
  cells : List Host.Cell
  undef : List UndefRange
  deriving DecidableEq, Repr

/-- The memories of the part and of its surroundings. -/
inductive Space where
  /-- Host memory of the server. -/
  | host
  /-- The configuration flash (16_configuration_image.md R351). -/
  | flash
  /-- The T0 frames of a grove (07_memory_tiers.md R145; 01_organisation.md R19). -/
  | t0 (grove : Nat)
  /-- A hub half-stack; HM0 is the device half-stack (01_organisation.md R22). -/
  | hm (half : Nat)
  /-- A DDR5 channel, as its controller reads it in clear (07_memory_tiers.md R146). -/
  | ddr (channel : Nat)
  /-- The activation store of a cluster (03_matrix_cores.md R54). -/
  | act (cluster : Nat)
  /-- The local store of a vector core (04_vector_cores.md R85). -/
  | ls (core : Nat)
  /-- The peer of a Ramuha connection of a hub die: registered regions of another node (R145, tier T3). -/
  | peer (die conn : Nat)
  deriving DecidableEq, Repr

/-- The number of a space. -/
def Space.code : Space → Nat
  | .host => 0
  | .flash => 1
  | .hm h => 8 + h
  | .ddr k => 16 + k
  | .t0 g => 32 + g
  | .act c => 64 + c
  | .ls v => 1024 + v
  | .peer d n => 131072 + 65536 * d + n

/-- The bytes between the first keys of two spaces. -/
def spaceSize : Nat := 2 ^ 128

/-- The key of a byte of a space. -/
def Space.key (sp : Space) (a : Nat) : Nat := sp.code * spaceSize + a % spaceSize

/-- The listed byte at a key. -/
def cellAt : List Host.Cell → Nat → Option Byte
  | [], _ => none
  | (k, v) :: t, i => if k = i then some v else cellAt t i

/-- The byte map read at a key: ONE definition of what an unlisted byte reads as. -/
def Mem.byte (m : Mem) (k : Nat) : Byte :=
  match cellAt m.cells k with
  | some v => v
  | none =>
    match m.undef.find? (fun r => r.lo ≤ k && k < r.hi) with
    | some r => Config.freeByte r.epoch k
    | none => 0

/-- The part of a run of open content outside [lo, hi); an empty interval cuts nothing. -/
def UndefRange.cut (lo hi : Nat) (r : UndefRange) : List UndefRange :=
  if r.hi ≤ lo ∨ hi ≤ r.lo ∨ hi ≤ lo then [r]
  else (if r.lo < lo then [⟨r.lo, lo, r.epoch⟩] else []) ++ (if hi < r.hi then [⟨hi, r.hi, r.epoch⟩] else [])

/-- A cell set in a rising list; a 0 byte is not listed. -/
def putCell : List Host.Cell → Nat → Byte → List Host.Cell
  | [], i, x => if x = 0 then [] else [(i, x)]
  | (k, v) :: t, i, x =>
    if i < k then (if x = 0 then (k, v) :: t else (i, x) :: (k, v) :: t)
    else if i = k then (if x = 0 then t else (i, x) :: t)
    else (k, v) :: putCell t i x

/-- One byte written. -/
def Mem.put (m : Mem) (k : Nat) (x : Byte) : Mem :=
  ⟨putCell m.cells k x, m.undef.flatMap (UndefRange.cut k (k + 1))⟩

/-- Bytes written from a key on. -/
def Mem.putList : Mem → Nat → List Byte → Mem
  | m, _, [] => m
  | m, k, b :: bs => (m.put k b).putList (k + 1) bs

/-- Every byte of [lo, hi) set to 0. -/
def Mem.zero (m : Mem) (lo hi : Nat) : Mem :=
  ⟨m.cells.filter (fun c => c.1 < lo || hi ≤ c.1), m.undef.flatMap (UndefRange.cut lo hi)⟩

/-- A run of open content put in its place in a rising list. -/
def putRange : List UndefRange → UndefRange → List UndefRange
  | [], r => [r]
  | q :: t, r => if r.lo < q.lo then r :: q :: t else q :: putRange t r

/-- Every byte of [lo, hi) left with open content, under a new epoch. -/
def Mem.forget (m : Mem) (lo hi epoch : Nat) : Mem :=
  if lo < hi then
    let z := m.zero lo hi
    ⟨z.cells, putRange z.undef ⟨lo, hi, epoch⟩⟩
  else m

/-- `n` bytes read from a key on. -/
def Mem.bytes (m : Mem) (k n : Nat) : List Byte := (List.range n).map (fun i => m.byte (k + i))

/-- `n` bytes of `src` copied to `dst`, all read before any is written. -/
def Mem.copy (m : Mem) (dst src n : Nat) : Mem := m.putList dst (m.bytes src n)

/-- The listed cells rise strictly and hold no 0. -/
def cellsWf : List Host.Cell → Bool
  | [] => true
  | [(_, v)] => v != 0
  | (k, v) :: (k', v') :: t => v != 0 && k < k' && cellsWf ((k', v') :: t)

/-- The runs rise, none is empty and none meets the next. -/
def rangesWf : List UndefRange → Bool
  | [] => true
  | [r] => r.lo < r.hi
  | r :: q :: t => r.lo < r.hi && r.hi ≤ q.lo && rangesWf (q :: t)

/-- The canonical form of the byte map: cells rising and non-zero, runs of open content rising and disjoint, and no
cell inside a run. -/
def Memory.wf (m : Mem) : Bool :=
  cellsWf m.cells && rangesWf m.undef && m.cells.all (fun c => m.undef.all (fun r => c.1 < r.lo || r.hi ≤ c.1))

end Sys2Proof.Machine
end

