-- ==== Sys2Proof/Machine/Regs.lean ====
section
/-! DEFINITION. Every register the spec gives an offset: its place, its width and its fields with access type,
reset value and stated range, written from the register tables of the chapters (00_scope.md R5-R7, R446;
21_address_map.md R425). A reset value the spec does not give is 0 (log 3). The registers of the queue windows
(20_host_interface.md R424) stand from 0x2000_0000 on, beyond BAR0, 0x1_0000 for each stand. -/

namespace Sys2Proof.Machine

/-- The access types of R5. -/
inductive Access where
  | rw | ro | wo | w1c | w1s | rc
  deriving DecidableEq, Repr

/-- The values that a write may set a field to (R446): every value, a stated range, a value whose low `n` bits are
0, or the steps that HOLE_INTERVAL allows. -/
inductive Limit where
  | any
  | range (lo hi : Nat)
  | aligned (n : Nat)
  | holes
  deriving DecidableEq, Repr

/-- The registers, by the names the spec gives them. -/
inductive Reg where
  | GLB_ID
  | GLB_STAND
  | GLB_DLINK_STATUS
  | CFG_STATUS
  | CFG_SLOT_A
  | CFG_SLOT_B
  | CFG_REPLACE
  | CFG_MB_CTRL
  | CFG_MB_DATA
  | CLK_STATUS
  | RST_CTRL
  | RST_CAUSE
  | RST_STAND_CMD
  | RST_TEST_CTRL
  | RST_TEST_STATUS
  | RST_GROVE_STATUS
  | GLB_LINK_STATUS
  | GLB_HDM_STATUS
  | GLB_IDE_PSK
  | PWR_STATUS
  | PWR_VID
  | PWR_RAIL
  | PWR_PACKAGE_UJ
  | PWR_BALLAST_UJ
  | PWR_GOV_STATUS
  | PWR_COEF
  | THM_STATUS
  | THM_CTRL
  | THM_DIE
  | HWD_STATUS
  | HWD_SERIAL
  | HWD_SVN
  | HWD_LMS
  | HWD_ERROR
  | HWD_ERROR_INFO
  | HWD_MB_CTRL
  | HWD_MB_DATA
  | EVR_CTRL
  | EVR_RING
  | EVR_HEAD
  | EVR_TAIL
  | EVR_DROPPED
  | EVR_STATUS
  | EVR_STEWARD_OUT
  | EVR_DDR_OUT
  | EVR_HBM_OUT
  | EVR_RETURN_CMD
  | EVR_SNAP_SEL
  | EVR_SNAP_TRIG
  | EVR_STAND_RING
  | EVR_STAND_HEAD
  | EVR_STAND_TAIL
  | EVR_STAND_DROPPED
  | SCH_STATUS
  | SCH_STEP
  | SCH_NOW
  | SCH_SQ_BASE
  | SCH_SQ_TAILWORD
  | SCH_SQ_TAIL
  | SCH_SQ_HEAD
  | SCH_CQ_BASE
  | SCH_CQ_HEAD
  | SCH_CQ_TAIL
  | SCH_CUSTOMERS
  | SCH_ACCT_SNAP
  | SCH_ACCT
  | SCH_SNAP
  | SCH_ERROR
  | SCH_ERROR_INFO
  | SWY_CMD_RING
  | SWY_CMD_TAIL
  | SWY_CMD_HEAD
  | SWY_EVT_RING
  | SWY_EVT_HEAD
  | SWY_EVT_TAIL
  | SWY_CONFIG
  | SWY_SEQ_RANGE
  | SWY_HISTORY_POOL
  | SWY_HISTORY_POOL_1
  | SWY_STORE
  | SWY_STORE_1
  | SWY_CANOPY
  | SWY_BUNDLES_SENT
  | SWY_BUNDLES_RECEIVED
  | SWY_BYTES_SENT
  | SWY_BYTES_RECEIVED
  | SWY_ORPHANED
  | SWY_LOOKUP_BLOCKS
  | SWY_MATCHED_BLOCKS
  | SWY_ERROR
  | SWY_ERROR_INFO
  | SWY_INBOX
  | SWY_INBOX_1
  | SWY_STAGING
  | SWY_STAGING_1
  | SWY_EVT_DROPPED
  | SWYP_CMD_RING
  | SWYP_CMD_TAIL
  | SWYP_CMD_HEAD
  | SWYP_EVT_RING
  | SWYP_EVT_HEAD
  | SWYP_EVT_TAIL
  | SWYP_EVT_DROPPED
  | TIER_CMD_RING
  | TIER_CMD_TAIL
  | TIER_CMD_HEAD
  | TIER_CONFIG
  | TIER_T0_FRAMES
  | TIER_T1_FRAMES
  | TIER_MAP_LEAVES
  | TIER_PROMOTED
  | TIER_EVICTED
  | TIER_WRITEBACK_BYTES
  | TIER_MOVING
  | TIER_ERROR
  | TIER_ERROR_INFO
  | TIER_ERROR_ADDR
  | CMP_BLOCKS_DECODED
  | CMP_RAW_DECODED
  | CMP_KV_UNSEALED
  | CMP_ERROR
  | CMP_ERROR_INFO
  | KVM_POOL
  | KVM_CMD_RING
  | KVM_CMD_TAIL
  | KVM_CMD_HEAD
  | KVM_FRAMES
  | KVM_PARTIAL_KEY
  | KVM_COW_COPIES
  | KVM_PRUNED
  | KVM_REMOTE_SENT
  | KVM_REMOTE_LATE
  | KVM_DEGRADED
  | KVM_REMOTE_WAIT_NS
  | KVM_ERROR
  | KVM_ERROR_INFO
  | FAB_PORT_CTRL
  | FAB_PORT_STATUS
  | FAB_PORT_MAC
  | FAB_PORT_IPV6_HI
  | FAB_PORT_IPV6_LO
  | FAB_PORT_TX_FRAMES
  | FAB_PORT_RX_FRAMES
  | FAB_PORT_RX_DROPPED
  | FAB_PORT_FEC_CORRECTED
  | FAB_PORT_FEC_UNCORRECTED
  | FAB_ENCAP
  | FAB_CLASS_MAP
  | FAB_ACK
  | FAB_NO_CONNECTION
  | FAB_AUTH_FAIL
  | FAB_OUT_OF_WINDOW
  | FAB_WRONG_DIE
  | FAB_ECN_CE
  | FAB_CMD_RING
  | FAB_CMD_TAIL
  | FAB_CMD_HEAD
  | FAB_ALLOT
  | FAB_REGIONS
  | FAB_PACKETS_SENT
  | FAB_RETRANSMITS
  | FAB_DUPLICATES
  | FAB_STALE
  | FAB_REVOKED
  | FAB_CONN_FAILED
  | FAB_ERROR
  | FAB_ERROR_INFO
  | SHP_CBS
  | SHP_CREDIT
  | SHP_CLASS_OWNER
  | GCL_CTRL
  | GCL_ADMIN_BASE_TIME
  | GCL_ADMIN_CYCLE
  | GCL_OPER_BASE_TIME
  | GCL_OPER_CYCLE
  | GCL_ADMIN_ENTRY
  | GCL_OPER_ENTRY
  | GCL_HUB_CTRL
  | GCL_HUB_ENTRY
  | SHP_TIME_CTRL
  | SHP_TIME_STATUS
  | SHP_SAMPLE_RING
  | SHP_SAMPLE_CTRL
  | SHP_SAMPLE_MASK_LO
  | SHP_SAMPLE_HEAD
  | SHP_SAMPLE_STATUS
  | ARB_CTRL
  | ARB_STATUS
  | ARB_ABORTED
  | ASR_CTRL
  | ASR_STATUS
  | ASR_SEARCHES
  | ASR_REPAIRED
  | ASR_LOST
  | ASR_CLASSIFIER_DROPS
  | ASR_CMD_RING
  | ASR_CMD_TAIL
  | ASR_CMD_HEAD
  | ASR_ERROR
  | ASR_ERROR_INFO
  | ASR_BANK_CFG
  | FMM_CMD_RING
  | FMM_CMD_TAIL
  | FMM_CMD_HEAD
  | FMM_CTRL
  | FMM_STATUS
  | FMM_OPS_ISSUED
  | FMM_OPS_SERVED
  | FMM_FENCES
  | FMM_BARRIERS
  | FMM_ERROR
  | FMM_ERROR_INFO
  | DDR_CHAN
  | DDR_ECC
  | HBM_STACK
  | HBM_ECC
  | MXC_STATUS
  | MXC_BUSY_CYCLES
  | MXC_STALL_CYCLES
  | MXC_PASSES
  | MXC_ERROR
  | MXC_ERROR_INFO
  | VEC_STATUS
  | VEC_BUSY_CYCLES
  | VEC_TASKS
  | VEC_KERNEL_LOADS
  | VEC_LS_CORRECTED
  | VEC_ERROR
  | VEC_ERROR_INFO
  | VEC_CORE_MASK
  | QW_APERTURE_BASE
  | QW_COPY_RING
  | QW_COPY_TAIL
  | QW_COPY_HEAD
  | QW_STATUS
  deriving DecidableEq, Repr

/-- Where a register stands: its offset for instance `i` and sub-instance `j` is base + stride * i + sub * j. -/
structure RegInfo where
  base : Nat
  stride : Nat
  count : Nat
  sub : Nat
  subCount : Nat
  width : Nat
  deriving DecidableEq, Repr

/-- A field of a register. -/
structure Field where
  reg : Reg
  lo : Nat
  w : Nat
  acc : Access
  reset : Nat
  lim : Limit
  deriving DecidableEq, Repr

/-- The place and width of each register. -/
def Reg.info : Reg → RegInfo
  | .GLB_ID => ⟨0x0, 0x0, 1, 0, 1, 32⟩
  | .GLB_STAND => ⟨0x200, 0x0, 1, 8, 24, 64⟩
  | .GLB_DLINK_STATUS => ⟨0x300, 0x0, 1, 4, 11, 32⟩
  | .CFG_STATUS => ⟨0x1000, 0x0, 1, 0, 1, 32⟩
  | .CFG_SLOT_A => ⟨0x1008, 0x0, 1, 0, 1, 64⟩
  | .CFG_SLOT_B => ⟨0x1010, 0x0, 1, 0, 1, 64⟩
  | .CFG_REPLACE => ⟨0x1018, 0x0, 1, 0, 1, 64⟩
  | .CFG_MB_CTRL => ⟨0x1100, 0x0, 1, 0, 1, 32⟩
  | .CFG_MB_DATA => ⟨0x2000, 0x0, 1, 8, 1024, 64⟩
  | .CLK_STATUS => ⟨0x4000, 0x0, 1, 0, 1, 32⟩
  | .RST_CTRL => ⟨0x5000, 0x0, 1, 0, 1, 32⟩
  | .RST_CAUSE => ⟨0x5008, 0x0, 1, 0, 1, 32⟩
  | .RST_STAND_CMD => ⟨0x5010, 0x0, 1, 0, 1, 64⟩
  | .RST_TEST_CTRL => ⟨0x5020, 0x0, 1, 0, 1, 64⟩
  | .RST_TEST_STATUS => ⟨0x5028, 0x0, 1, 0, 1, 64⟩
  | .RST_GROVE_STATUS => ⟨0x5030, 0x0, 1, 0, 1, 64⟩
  | .GLB_LINK_STATUS => ⟨0x6000, 0x0, 1, 0, 1, 32⟩
  | .GLB_HDM_STATUS => ⟨0x6008, 0x0, 1, 0, 1, 32⟩
  | .GLB_IDE_PSK => ⟨0x6010, 0x0, 1, 8, 4, 64⟩
  | .PWR_STATUS => ⟨0x100000, 0x0, 1, 0, 1, 32⟩
  | .PWR_VID => ⟨0x100008, 0x0, 1, 0, 1, 32⟩
  | .PWR_RAIL => ⟨0x100100, 0x0, 1, 8, 13, 64⟩
  | .PWR_PACKAGE_UJ => ⟨0x100200, 0x0, 1, 0, 1, 64⟩
  | .PWR_BALLAST_UJ => ⟨0x100208, 0x0, 1, 0, 1, 64⟩
  | .PWR_GOV_STATUS => ⟨0x100210, 0x0, 1, 0, 1, 64⟩
  | .PWR_COEF => ⟨0x100300, 0x0, 1, 8, 8, 64⟩
  | .THM_STATUS => ⟨0x108000, 0x0, 1, 0, 1, 64⟩
  | .THM_CTRL => ⟨0x108010, 0x0, 1, 0, 1, 32⟩
  | .THM_DIE => ⟨0x108100, 0x0, 1, 8, 8, 64⟩
  | .HWD_STATUS => ⟨0x200000, 0x0, 1, 0, 1, 32⟩
  | .HWD_SERIAL => ⟨0x200008, 0x0, 1, 0, 1, 64⟩
  | .HWD_SVN => ⟨0x200010, 0x0, 1, 0, 1, 64⟩
  | .HWD_LMS => ⟨0x200018, 0x0, 1, 0, 1, 64⟩
  | .HWD_ERROR => ⟨0x200020, 0x0, 1, 0, 1, 32⟩
  | .HWD_ERROR_INFO => ⟨0x200028, 0x0, 1, 0, 1, 64⟩
  | .HWD_MB_CTRL => ⟨0x204000, 0x4000, 25, 0, 1, 32⟩
  | .HWD_MB_DATA => ⟨0x205000, 0x4000, 25, 8, 1024, 64⟩
  | .EVR_CTRL => ⟨0x300000, 0x0, 1, 0, 1, 32⟩
  | .EVR_RING => ⟨0x300008, 0x0, 1, 0, 1, 64⟩
  | .EVR_HEAD => ⟨0x300010, 0x0, 1, 0, 1, 32⟩
  | .EVR_TAIL => ⟨0x300014, 0x0, 1, 0, 1, 32⟩
  | .EVR_DROPPED => ⟨0x300018, 0x0, 1, 0, 1, 64⟩
  | .EVR_STATUS => ⟨0x300020, 0x0, 1, 0, 1, 64⟩
  | .EVR_STEWARD_OUT => ⟨0x300028, 0x0, 1, 0, 1, 64⟩
  | .EVR_DDR_OUT => ⟨0x300030, 0x0, 1, 0, 1, 32⟩
  | .EVR_HBM_OUT => ⟨0x300040, 0x0, 1, 8, 8, 64⟩
  | .EVR_RETURN_CMD => ⟨0x300080, 0x0, 1, 0, 1, 64⟩
  | .EVR_SNAP_SEL => ⟨0x304000, 0x200, 8, 8, 32, 32⟩
  | .EVR_SNAP_TRIG => ⟨0x304100, 0x200, 8, 8, 8, 32⟩
  | .EVR_STAND_RING => ⟨0x310000, 0x1000, 24, 0, 1, 64⟩
  | .EVR_STAND_HEAD => ⟨0x310008, 0x1000, 24, 0, 1, 32⟩
  | .EVR_STAND_TAIL => ⟨0x31000C, 0x1000, 24, 0, 1, 32⟩
  | .EVR_STAND_DROPPED => ⟨0x310010, 0x1000, 24, 0, 1, 64⟩
  | .SCH_STATUS => ⟨0x400000, 0x1000, 24, 0, 1, 32⟩
  | .SCH_STEP => ⟨0x400008, 0x1000, 24, 0, 1, 64⟩
  | .SCH_NOW => ⟨0x400010, 0x1000, 24, 0, 1, 64⟩
  | .SCH_SQ_BASE => ⟨0x400100, 0x1000, 24, 32, 16, 64⟩
  | .SCH_SQ_TAILWORD => ⟨0x400108, 0x1000, 24, 32, 16, 64⟩
  | .SCH_SQ_TAIL => ⟨0x400110, 0x1000, 24, 32, 16, 32⟩
  | .SCH_SQ_HEAD => ⟨0x400114, 0x1000, 24, 32, 16, 32⟩
  | .SCH_CQ_BASE => ⟨0x400300, 0x1000, 24, 16, 16, 64⟩
  | .SCH_CQ_HEAD => ⟨0x400308, 0x1000, 24, 16, 16, 32⟩
  | .SCH_CQ_TAIL => ⟨0x40030C, 0x1000, 24, 16, 16, 32⟩
  | .SCH_CUSTOMERS => ⟨0x400400, 0x1000, 24, 0, 1, 64⟩
  | .SCH_ACCT_SNAP => ⟨0x400408, 0x1000, 24, 0, 1, 32⟩
  | .SCH_ACCT => ⟨0x400500, 0x1000, 24, 8, 17, 64⟩
  | .SCH_SNAP => ⟨0x400600, 0x1000, 24, 8, 17, 64⟩
  | .SCH_ERROR => ⟨0x400700, 0x1000, 24, 0, 1, 32⟩
  | .SCH_ERROR_INFO => ⟨0x400708, 0x1000, 24, 0, 1, 64⟩
  | .SWY_CMD_RING => ⟨0x500000, 0x1000, 24, 0, 1, 64⟩
  | .SWY_CMD_TAIL => ⟨0x500008, 0x1000, 24, 0, 1, 32⟩
  | .SWY_CMD_HEAD => ⟨0x50000C, 0x1000, 24, 0, 1, 32⟩
  | .SWY_EVT_RING => ⟨0x500010, 0x1000, 24, 0, 1, 64⟩
  | .SWY_EVT_HEAD => ⟨0x500018, 0x1000, 24, 0, 1, 32⟩
  | .SWY_EVT_TAIL => ⟨0x50001C, 0x1000, 24, 0, 1, 32⟩
  | .SWY_CONFIG => ⟨0x500020, 0x1000, 24, 0, 1, 64⟩
  | .SWY_SEQ_RANGE => ⟨0x500028, 0x1000, 24, 0, 1, 64⟩
  | .SWY_HISTORY_POOL => ⟨0x500030, 0x1000, 24, 0, 1, 64⟩
  | .SWY_HISTORY_POOL_1 => ⟨0x500038, 0x1000, 24, 0, 1, 64⟩
  | .SWY_STORE => ⟨0x500040, 0x1000, 24, 0, 1, 64⟩
  | .SWY_STORE_1 => ⟨0x500048, 0x1000, 24, 0, 1, 64⟩
  | .SWY_CANOPY => ⟨0x500050, 0x1000, 24, 0, 1, 64⟩
  | .SWY_BUNDLES_SENT => ⟨0x500058, 0x1000, 24, 0, 1, 64⟩
  | .SWY_BUNDLES_RECEIVED => ⟨0x500060, 0x1000, 24, 0, 1, 64⟩
  | .SWY_BYTES_SENT => ⟨0x500068, 0x1000, 24, 0, 1, 64⟩
  | .SWY_BYTES_RECEIVED => ⟨0x500070, 0x1000, 24, 0, 1, 64⟩
  | .SWY_ORPHANED => ⟨0x500078, 0x1000, 24, 0, 1, 64⟩
  | .SWY_LOOKUP_BLOCKS => ⟨0x500080, 0x1000, 24, 0, 1, 64⟩
  | .SWY_MATCHED_BLOCKS => ⟨0x500088, 0x1000, 24, 0, 1, 64⟩
  | .SWY_ERROR => ⟨0x500090, 0x1000, 24, 0, 1, 32⟩
  | .SWY_ERROR_INFO => ⟨0x500098, 0x1000, 24, 0, 1, 64⟩
  | .SWY_INBOX => ⟨0x5000A0, 0x1000, 24, 0, 1, 64⟩
  | .SWY_INBOX_1 => ⟨0x5000A8, 0x1000, 24, 0, 1, 64⟩
  | .SWY_STAGING => ⟨0x5000B0, 0x1000, 24, 0, 1, 64⟩
  | .SWY_STAGING_1 => ⟨0x5000B8, 0x1000, 24, 0, 1, 64⟩
  | .SWY_EVT_DROPPED => ⟨0x5000C0, 0x1000, 24, 0, 1, 64⟩
  | .SWYP_CMD_RING => ⟨0x520000, 0x0, 1, 0, 1, 64⟩
  | .SWYP_CMD_TAIL => ⟨0x520008, 0x0, 1, 0, 1, 32⟩
  | .SWYP_CMD_HEAD => ⟨0x52000C, 0x0, 1, 0, 1, 32⟩
  | .SWYP_EVT_RING => ⟨0x520010, 0x0, 1, 0, 1, 64⟩
  | .SWYP_EVT_HEAD => ⟨0x520018, 0x0, 1, 0, 1, 32⟩
  | .SWYP_EVT_TAIL => ⟨0x52001C, 0x0, 1, 0, 1, 32⟩
  | .SWYP_EVT_DROPPED => ⟨0x520020, 0x0, 1, 0, 1, 64⟩
  | .TIER_CMD_RING => ⟨0x600000, 0x1000, 24, 0, 1, 64⟩
  | .TIER_CMD_TAIL => ⟨0x600008, 0x1000, 24, 0, 1, 32⟩
  | .TIER_CMD_HEAD => ⟨0x60000C, 0x1000, 24, 0, 1, 32⟩
  | .TIER_CONFIG => ⟨0x600010, 0x1000, 24, 0, 1, 32⟩
  | .TIER_T0_FRAMES => ⟨0x600018, 0x1000, 24, 0, 1, 64⟩
  | .TIER_T1_FRAMES => ⟨0x600020, 0x1000, 24, 0, 1, 64⟩
  | .TIER_MAP_LEAVES => ⟨0x600028, 0x1000, 24, 0, 1, 64⟩
  | .TIER_PROMOTED => ⟨0x600030, 0x1000, 24, 0, 1, 64⟩
  | .TIER_EVICTED => ⟨0x600038, 0x1000, 24, 0, 1, 64⟩
  | .TIER_WRITEBACK_BYTES => ⟨0x600040, 0x1000, 24, 0, 1, 64⟩
  | .TIER_MOVING => ⟨0x600048, 0x1000, 24, 0, 1, 32⟩
  | .TIER_ERROR => ⟨0x600050, 0x1000, 24, 0, 1, 32⟩
  | .TIER_ERROR_INFO => ⟨0x600058, 0x1000, 24, 0, 1, 64⟩
  | .TIER_ERROR_ADDR => ⟨0x600060, 0x1000, 24, 0, 1, 64⟩
  | .CMP_BLOCKS_DECODED => ⟨0x680000, 0x1000, 24, 0, 1, 64⟩
  | .CMP_RAW_DECODED => ⟨0x680008, 0x1000, 24, 0, 1, 64⟩
  | .CMP_KV_UNSEALED => ⟨0x680010, 0x1000, 24, 0, 1, 64⟩
  | .CMP_ERROR => ⟨0x680018, 0x1000, 24, 0, 1, 32⟩
  | .CMP_ERROR_INFO => ⟨0x680020, 0x1000, 24, 0, 1, 64⟩
  | .KVM_POOL => ⟨0x700000, 0x1000, 24, 0, 1, 64⟩
  | .KVM_CMD_RING => ⟨0x700008, 0x1000, 24, 0, 1, 64⟩
  | .KVM_CMD_TAIL => ⟨0x700010, 0x1000, 24, 0, 1, 32⟩
  | .KVM_CMD_HEAD => ⟨0x700014, 0x1000, 24, 0, 1, 32⟩
  | .KVM_FRAMES => ⟨0x700018, 0x1000, 24, 0, 1, 64⟩
  | .KVM_PARTIAL_KEY => ⟨0x700020, 0x1000, 24, 0, 1, 64⟩
  | .KVM_COW_COPIES => ⟨0x700028, 0x1000, 24, 0, 1, 64⟩
  | .KVM_PRUNED => ⟨0x700030, 0x1000, 24, 0, 1, 64⟩
  | .KVM_REMOTE_SENT => ⟨0x700038, 0x1000, 24, 0, 1, 64⟩
  | .KVM_REMOTE_LATE => ⟨0x700040, 0x1000, 24, 0, 1, 64⟩
  | .KVM_DEGRADED => ⟨0x700048, 0x1000, 24, 0, 1, 64⟩
  | .KVM_REMOTE_WAIT_NS => ⟨0x700050, 0x1000, 24, 0, 1, 64⟩
  | .KVM_ERROR => ⟨0x700058, 0x1000, 24, 0, 1, 32⟩
  | .KVM_ERROR_INFO => ⟨0x700060, 0x1000, 24, 0, 1, 64⟩
  | .FAB_PORT_CTRL => ⟨0x800000, 0x80000, 16, 0, 1, 32⟩
  | .FAB_PORT_STATUS => ⟨0x800008, 0x80000, 16, 0, 1, 32⟩
  | .FAB_PORT_MAC => ⟨0x800010, 0x80000, 16, 0, 1, 64⟩
  | .FAB_PORT_IPV6_HI => ⟨0x800018, 0x80000, 16, 0, 1, 64⟩
  | .FAB_PORT_IPV6_LO => ⟨0x800020, 0x80000, 16, 0, 1, 64⟩
  | .FAB_PORT_TX_FRAMES => ⟨0x800028, 0x80000, 16, 0, 1, 64⟩
  | .FAB_PORT_RX_FRAMES => ⟨0x800030, 0x80000, 16, 0, 1, 64⟩
  | .FAB_PORT_RX_DROPPED => ⟨0x800038, 0x80000, 16, 0, 1, 64⟩
  | .FAB_PORT_FEC_CORRECTED => ⟨0x800040, 0x80000, 16, 0, 1, 64⟩
  | .FAB_PORT_FEC_UNCORRECTED => ⟨0x800048, 0x80000, 16, 0, 1, 64⟩
  | .FAB_ENCAP => ⟨0x860000, 0x400000, 2, 0, 1, 32⟩
  | .FAB_CLASS_MAP => ⟨0x860008, 0x400000, 2, 4, 8, 32⟩
  | .FAB_ACK => ⟨0x860028, 0x400000, 2, 0, 1, 32⟩
  | .FAB_NO_CONNECTION => ⟨0x860030, 0x400000, 2, 0, 1, 64⟩
  | .FAB_AUTH_FAIL => ⟨0x860038, 0x400000, 2, 0, 1, 64⟩
  | .FAB_OUT_OF_WINDOW => ⟨0x860040, 0x400000, 2, 0, 1, 64⟩
  | .FAB_WRONG_DIE => ⟨0x860048, 0x400000, 2, 0, 1, 64⟩
  | .FAB_ECN_CE => ⟨0x860050, 0x400000, 2, 0, 1, 64⟩
  | .FAB_CMD_RING => ⟨0x840000, 0x1000, 24, 0, 1, 64⟩
  | .FAB_CMD_TAIL => ⟨0x840008, 0x1000, 24, 0, 1, 32⟩
  | .FAB_CMD_HEAD => ⟨0x84000C, 0x1000, 24, 0, 1, 32⟩
  | .FAB_ALLOT => ⟨0x840010, 0x1000, 24, 0, 1, 64⟩
  | .FAB_REGIONS => ⟨0x840018, 0x1000, 24, 0, 1, 64⟩
  | .FAB_PACKETS_SENT => ⟨0x840020, 0x1000, 24, 0, 1, 64⟩
  | .FAB_RETRANSMITS => ⟨0x840028, 0x1000, 24, 0, 1, 64⟩
  | .FAB_DUPLICATES => ⟨0x840030, 0x1000, 24, 0, 1, 64⟩
  | .FAB_STALE => ⟨0x840038, 0x1000, 24, 0, 1, 64⟩
  | .FAB_REVOKED => ⟨0x840040, 0x1000, 24, 0, 1, 64⟩
  | .FAB_CONN_FAILED => ⟨0x840048, 0x1000, 24, 0, 1, 64⟩
  | .FAB_ERROR => ⟨0x840050, 0x1000, 24, 0, 1, 32⟩
  | .FAB_ERROR_INFO => ⟨0x840058, 0x1000, 24, 0, 1, 64⟩
  | .SHP_CBS => ⟨0x1000000, 0x4000, 16, 16, 8, 64⟩
  | .SHP_CREDIT => ⟨0x1000008, 0x4000, 16, 16, 8, 32⟩
  | .SHP_CLASS_OWNER => ⟨0x1000080, 0x4000, 16, 0, 1, 64⟩
  | .GCL_CTRL => ⟨0x1000100, 0x4000, 16, 0, 1, 32⟩
  | .GCL_ADMIN_BASE_TIME => ⟨0x1000108, 0x4000, 16, 0, 1, 64⟩
  | .GCL_ADMIN_CYCLE => ⟨0x1000110, 0x4000, 16, 0, 1, 32⟩
  | .GCL_OPER_BASE_TIME => ⟨0x1000118, 0x4000, 16, 0, 1, 64⟩
  | .GCL_OPER_CYCLE => ⟨0x1000120, 0x4000, 16, 0, 1, 32⟩
  | .GCL_ADMIN_ENTRY => ⟨0x1001000, 0x4000, 16, 8, 512, 64⟩
  | .GCL_OPER_ENTRY => ⟨0x1002000, 0x4000, 16, 8, 512, 64⟩
  | .GCL_HUB_CTRL => ⟨0x1040000, 0x2000, 2, 0, 1, 64⟩
  | .GCL_HUB_ENTRY => ⟨0x1041000, 0x2000, 2, 8, 512, 64⟩
  | .SHP_TIME_CTRL => ⟨0x1050000, 0x100, 2, 0, 1, 32⟩
  | .SHP_TIME_STATUS => ⟨0x1050008, 0x100, 2, 0, 1, 64⟩
  | .SHP_SAMPLE_RING => ⟨0x1060000, 0x100, 2, 0, 1, 64⟩
  | .SHP_SAMPLE_CTRL => ⟨0x1060008, 0x100, 2, 0, 1, 64⟩
  | .SHP_SAMPLE_MASK_LO => ⟨0x1060010, 0x100, 2, 0, 1, 32⟩
  | .SHP_SAMPLE_HEAD => ⟨0x1060018, 0x100, 2, 0, 1, 32⟩
  | .SHP_SAMPLE_STATUS => ⟨0x106001C, 0x100, 2, 0, 1, 32⟩
  | .ARB_CTRL => ⟨0x1100000, 0x40, 37, 0, 1, 32⟩
  | .ARB_STATUS => ⟨0x1100008, 0x40, 37, 0, 1, 32⟩
  | .ARB_ABORTED => ⟨0x1100010, 0x40, 37, 0, 1, 64⟩
  | .ASR_CTRL => ⟨0x1200000, 0x100000, 2, 0, 1, 32⟩
  | .ASR_STATUS => ⟨0x1200008, 0x100000, 2, 0, 1, 32⟩
  | .ASR_SEARCHES => ⟨0x1200010, 0x100000, 2, 0, 1, 64⟩
  | .ASR_REPAIRED => ⟨0x1200018, 0x100000, 2, 0, 1, 64⟩
  | .ASR_LOST => ⟨0x1200020, 0x100000, 2, 0, 1, 64⟩
  | .ASR_CLASSIFIER_DROPS => ⟨0x1200028, 0x100000, 2, 0, 1, 64⟩
  | .ASR_CMD_RING => ⟨0x1200040, 0x100000, 2, 0, 1, 64⟩
  | .ASR_CMD_TAIL => ⟨0x1200048, 0x100000, 2, 0, 1, 32⟩
  | .ASR_CMD_HEAD => ⟨0x120004C, 0x100000, 2, 0, 1, 32⟩
  | .ASR_ERROR => ⟨0x1200050, 0x100000, 2, 0, 1, 32⟩
  | .ASR_ERROR_INFO => ⟨0x1200058, 0x100000, 2, 0, 1, 64⟩
  | .ASR_BANK_CFG => ⟨0x1201000, 0x100000, 2, 8, 32, 64⟩
  | .FMM_CMD_RING => ⟨0x1400000, 0x1000, 24, 0, 1, 64⟩
  | .FMM_CMD_TAIL => ⟨0x1400008, 0x1000, 24, 0, 1, 32⟩
  | .FMM_CMD_HEAD => ⟨0x140000C, 0x1000, 24, 0, 1, 32⟩
  | .FMM_CTRL => ⟨0x1400010, 0x1000, 24, 0, 1, 32⟩
  | .FMM_STATUS => ⟨0x1400018, 0x1000, 24, 0, 1, 64⟩
  | .FMM_OPS_ISSUED => ⟨0x1400020, 0x1000, 24, 0, 1, 64⟩
  | .FMM_OPS_SERVED => ⟨0x1400028, 0x1000, 24, 0, 1, 64⟩
  | .FMM_FENCES => ⟨0x1400030, 0x1000, 24, 0, 1, 64⟩
  | .FMM_BARRIERS => ⟨0x1400038, 0x1000, 24, 0, 1, 64⟩
  | .FMM_ERROR => ⟨0x1400040, 0x1000, 24, 0, 1, 32⟩
  | .FMM_ERROR_INFO => ⟨0x1400048, 0x1000, 24, 0, 1, 64⟩
  | .DDR_CHAN => ⟨0x1500000, 0x100, 16, 0, 1, 64⟩
  | .DDR_ECC => ⟨0x1500008, 0x100, 16, 0, 1, 64⟩
  | .HBM_STACK => ⟨0x1600000, 0x1000, 16, 0, 1, 64⟩
  | .HBM_ECC => ⟨0x1600008, 0x1000, 16, 0, 1, 64⟩
  | .MXC_STATUS => ⟨0x2000000, 0x100000, 96, 0, 1, 32⟩
  | .MXC_BUSY_CYCLES => ⟨0x2000008, 0x100000, 96, 0, 1, 64⟩
  | .MXC_STALL_CYCLES => ⟨0x2000010, 0x100000, 96, 0, 1, 64⟩
  | .MXC_PASSES => ⟨0x2000018, 0x100000, 96, 0, 1, 64⟩
  | .MXC_ERROR => ⟨0x2000020, 0x100000, 96, 0, 1, 32⟩
  | .MXC_ERROR_INFO => ⟨0x2000028, 0x100000, 96, 0, 1, 64⟩
  | .VEC_STATUS => ⟨0x2001000, 0x100000, 96, 0, 1, 32⟩
  | .VEC_BUSY_CYCLES => ⟨0x2001008, 0x100000, 96, 0, 1, 64⟩
  | .VEC_TASKS => ⟨0x2001010, 0x100000, 96, 0, 1, 64⟩
  | .VEC_KERNEL_LOADS => ⟨0x2001018, 0x100000, 96, 0, 1, 64⟩
  | .VEC_LS_CORRECTED => ⟨0x2001020, 0x100000, 96, 0, 1, 32⟩
  | .VEC_ERROR => ⟨0x2001028, 0x100000, 96, 0, 1, 32⟩
  | .VEC_ERROR_INFO => ⟨0x2001030, 0x100000, 96, 0, 1, 64⟩
  | .VEC_CORE_MASK => ⟨0x2001100, 0x100000, 96, 8, 14, 64⟩
  | .QW_APERTURE_BASE => ⟨0x20000000, 0x10000, 24, 0, 1, 64⟩
  | .QW_COPY_RING => ⟨0x20000008, 0x10000, 24, 0, 1, 64⟩
  | .QW_COPY_TAIL => ⟨0x20000010, 0x10000, 24, 0, 1, 32⟩
  | .QW_COPY_HEAD => ⟨0x20000014, 0x10000, 24, 0, 1, 32⟩
  | .QW_STATUS => ⟨0x20000018, 0x10000, 24, 0, 1, 32⟩

/-! GLB_ID: 01_organisation.md R26 -/
def Fld.GLB_ID_PART : Field := ⟨.GLB_ID, 0, 16, .ro, 0x880, .any⟩
def Fld.GLB_ID_STEP_MAJOR : Field := ⟨.GLB_ID, 16, 4, .ro, 0, .any⟩
def Fld.GLB_ID_STEP_MINOR : Field := ⟨.GLB_ID, 20, 4, .ro, 0, .any⟩
/-! GLB_STAND: 01_organisation.md R26 -/
def Fld.GLB_STAND_GROVES : Field := ⟨.GLB_STAND, 0, 24, .ro, 0, .any⟩
def Fld.GLB_STAND_VALID : Field := ⟨.GLB_STAND, 24, 1, .ro, 0, .any⟩
def Fld.GLB_STAND_ROLE : Field := ⟨.GLB_STAND, 25, 2, .ro, 0, .any⟩
def Fld.GLB_STAND_SEALED : Field := ⟨.GLB_STAND, 27, 1, .ro, 0, .any⟩
def Fld.GLB_STAND_SEQUENCER : Field := ⟨.GLB_STAND, 28, 5, .ro, 0, .any⟩
def Fld.GLB_STAND_HUB_HALF_STACKS : Field := ⟨.GLB_STAND, 33, 8, .ro, 0, .any⟩
def Fld.GLB_STAND_DDR_CHANNELS : Field := ⟨.GLB_STAND, 41, 16, .ro, 0, .any⟩
/-! GLB_DLINK_STATUS: 01_organisation.md R26 -/
def Fld.GLB_DLINK_STATUS_MODULES : Field := ⟨.GLB_DLINK_STATUS, 0, 4, .ro, 0, .any⟩
def Fld.GLB_DLINK_STATUS_FULL : Field := ⟨.GLB_DLINK_STATUS, 4, 4, .ro, 0, .any⟩
def Fld.GLB_DLINK_STATUS_HALF : Field := ⟨.GLB_DLINK_STATUS, 8, 4, .ro, 0, .any⟩
def Fld.GLB_DLINK_STATUS_TRAINED : Field := ⟨.GLB_DLINK_STATUS, 16, 1, .ro, 0, .any⟩
def Fld.GLB_DLINK_STATUS_NARROWED : Field := ⟨.GLB_DLINK_STATUS, 17, 1, .ro, 0, .any⟩
def Fld.GLB_DLINK_STATUS_DOWN : Field := ⟨.GLB_DLINK_STATUS, 18, 1, .ro, 0, .any⟩
/-! CFG_STATUS: 16_configuration_image.md R361 -/
def Fld.CFG_STATUS_STATE : Field := ⟨.CFG_STATUS, 0, 2, .ro, 0, .any⟩
def Fld.CFG_STATUS_ACTIVE_SLOT : Field := ⟨.CFG_STATUS, 2, 1, .ro, 0, .any⟩
def Fld.CFG_STATUS_FALLBACK : Field := ⟨.CFG_STATUS, 3, 1, .ro, 0, .any⟩
/-! CFG_SLOT_A: 16_configuration_image.md R361 -/
def Fld.CFG_SLOT_A_RESULT : Field := ⟨.CFG_SLOT_A, 0, 8, .ro, 0, .any⟩
def Fld.CFG_SLOT_A_COMMITTED : Field := ⟨.CFG_SLOT_A, 8, 1, .ro, 0, .any⟩
def Fld.CFG_SLOT_A_IMAGE_SEQ : Field := ⟨.CFG_SLOT_A, 32, 32, .ro, 0, .any⟩
/-! CFG_SLOT_B: 16_configuration_image.md R361 -/
def Fld.CFG_SLOT_B_RESULT : Field := ⟨.CFG_SLOT_B, 0, 8, .ro, 0, .any⟩
def Fld.CFG_SLOT_B_COMMITTED : Field := ⟨.CFG_SLOT_B, 8, 1, .ro, 0, .any⟩
def Fld.CFG_SLOT_B_IMAGE_SEQ : Field := ⟨.CFG_SLOT_B, 32, 32, .ro, 0, .any⟩
/-! CFG_REPLACE: 16_configuration_image.md R361 -/
def Fld.CFG_REPLACE_STAND : Field := ⟨.CFG_REPLACE, 0, 5, .ro, 0, .any⟩
def Fld.CFG_REPLACE_PHASE : Field := ⟨.CFG_REPLACE, 5, 3, .ro, 0, .any⟩
def Fld.CFG_REPLACE_UNREPORTED : Field := ⟨.CFG_REPLACE, 8, 16, .ro, 0, .any⟩
def Fld.CFG_REPLACE_REMAINING : Field := ⟨.CFG_REPLACE, 32, 32, .ro, 0, .any⟩
/-! CFG_MB_CTRL: 16_configuration_image.md R361 -/
def Fld.CFG_MB_CTRL_GO : Field := ⟨.CFG_MB_CTRL, 0, 1, .w1s, 0, .any⟩
def Fld.CFG_MB_CTRL_BUSY : Field := ⟨.CFG_MB_CTRL, 1, 1, .ro, 0, .any⟩
def Fld.CFG_MB_CTRL_DONE : Field := ⟨.CFG_MB_CTRL, 2, 1, .w1c, 0, .any⟩
def Fld.CFG_MB_CTRL_INTERRUPT : Field := ⟨.CFG_MB_CTRL, 3, 1, .rw, 0, .any⟩
def Fld.CFG_MB_CTRL_OVERRUN : Field := ⟨.CFG_MB_CTRL, 4, 1, .w1c, 0, .any⟩
def Fld.CFG_MB_CTRL_RETRY_MS : Field := ⟨.CFG_MB_CTRL, 16, 16, .ro, 0, .any⟩
/-! CFG_MB_DATA: 16_configuration_image.md R361 -/
def Fld.CFG_MB_DATA_DATA : Field := ⟨.CFG_MB_DATA, 0, 64, .rw, 0, .any⟩
/-! CLK_STATUS: 17_startup_reset_test.md R378 -/
def Fld.CLK_STATUS_LOCKED : Field := ⟨.CLK_STATUS, 0, 1, .ro, 0, .any⟩
def Fld.CLK_STATUS_ROOT_MHZ : Field := ⟨.CLK_STATUS, 1, 13, .ro, 0x1DB0, .any⟩
/-! RST_CTRL: 17_startup_reset_test.md R378 -/
def Fld.RST_CTRL_KEY : Field := ⟨.RST_CTRL, 0, 8, .wo, 0, .any⟩
def Fld.RST_CTRL_PKG_RESET : Field := ⟨.RST_CTRL, 8, 1, .wo, 0, .any⟩
/-! RST_CAUSE: 17_startup_reset_test.md R378 -/
def Fld.RST_CAUSE_CAUSE : Field := ⟨.RST_CAUSE, 0, 3, .ro, 0, .any⟩
/-! RST_STAND_CMD: 17_startup_reset_test.md R378 -/
def Fld.RST_STAND_CMD_STAND : Field := ⟨.RST_STAND_CMD, 0, 5, .rw, 0, .any⟩
def Fld.RST_STAND_CMD_GO : Field := ⟨.RST_STAND_CMD, 5, 1, .w1s, 0, .any⟩
def Fld.RST_STAND_CMD_BUSY : Field := ⟨.RST_STAND_CMD, 6, 1, .ro, 0, .any⟩
def Fld.RST_STAND_CMD_DONE : Field := ⟨.RST_STAND_CMD, 7, 1, .w1c, 0, .any⟩
def Fld.RST_STAND_CMD_DRAIN_MS : Field := ⟨.RST_STAND_CMD, 8, 16, .rw, 0, (.range 0 60000)⟩
def Fld.RST_STAND_CMD_RESULT : Field := ⟨.RST_STAND_CMD, 24, 8, .ro, 0, .any⟩
def Fld.RST_STAND_CMD_UNREPORTED : Field := ⟨.RST_STAND_CMD, 32, 16, .ro, 0, .any⟩
/-! RST_TEST_CTRL: 17_startup_reset_test.md R378 -/
def Fld.RST_TEST_CTRL_GROVES : Field := ⟨.RST_TEST_CTRL, 0, 24, .rw, 0, .any⟩
def Fld.RST_TEST_CTRL_LOGIC : Field := ⟨.RST_TEST_CTRL, 24, 1, .rw, 0, .any⟩
def Fld.RST_TEST_CTRL_SRAM : Field := ⟨.RST_TEST_CTRL, 25, 1, .rw, 0, .any⟩
def Fld.RST_TEST_CTRL_HBM : Field := ⟨.RST_TEST_CTRL, 26, 1, .rw, 0, .any⟩
def Fld.RST_TEST_CTRL_DRAIN : Field := ⟨.RST_TEST_CTRL, 27, 1, .rw, 0, .any⟩
def Fld.RST_TEST_CTRL_GO : Field := ⟨.RST_TEST_CTRL, 28, 1, .w1s, 0, .any⟩
/-! RST_TEST_STATUS: 17_startup_reset_test.md R378 -/
def Fld.RST_TEST_STATUS_STATE : Field := ⟨.RST_TEST_STATUS, 0, 2, .ro, 0, .any⟩
def Fld.RST_TEST_STATUS_OVERRUN : Field := ⟨.RST_TEST_STATUS, 7, 1, .w1c, 0, .any⟩
def Fld.RST_TEST_STATUS_RESULT : Field := ⟨.RST_TEST_STATUS, 8, 8, .ro, 0, .any⟩
def Fld.RST_TEST_STATUS_FAILED : Field := ⟨.RST_TEST_STATUS, 16, 24, .ro, 0, .any⟩
/-! RST_GROVE_STATUS: 17_startup_reset_test.md R378 -/
def Fld.RST_GROVE_STATUS_OUT_OF_SERVICE : Field := ⟨.RST_GROVE_STATUS, 0, 24, .ro, 0, .any⟩
def Fld.RST_GROVE_STATUS_UNDER_TEST : Field := ⟨.RST_GROVE_STATUS, 24, 24, .ro, 0, .any⟩
/-! GLB_LINK_STATUS: 20_host_interface.md R424 -/
def Fld.GLB_LINK_STATUS_WIDTH : Field := ⟨.GLB_LINK_STATUS, 0, 5, .ro, 0, .any⟩
def Fld.GLB_LINK_STATUS_RATE_GTS : Field := ⟨.GLB_LINK_STATUS, 5, 6, .ro, 0, .any⟩
def Fld.GLB_LINK_STATUS_LINK_UP : Field := ⟨.GLB_LINK_STATUS, 11, 1, .ro, 0, .any⟩
def Fld.GLB_LINK_STATUS_DOWN_EVENT : Field := ⟨.GLB_LINK_STATUS, 12, 1, .w1c, 0, .any⟩
def Fld.GLB_LINK_STATUS_IDE_IO : Field := ⟨.GLB_LINK_STATUS, 13, 1, .ro, 0, .any⟩
def Fld.GLB_LINK_STATUS_IDE_CM : Field := ⟨.GLB_LINK_STATUS, 14, 1, .ro, 0, .any⟩
/-! GLB_HDM_STATUS: 20_host_interface.md R424 -/
def Fld.GLB_HDM_STATUS_BACKED : Field := ⟨.GLB_HDM_STATUS, 0, 1, .ro, 0, .any⟩
def Fld.GLB_HDM_STATUS_HALF_STACK : Field := ⟨.GLB_HDM_STATUS, 1, 3, .ro, 0, .any⟩
def Fld.GLB_HDM_STATUS_ZEROING : Field := ⟨.GLB_HDM_STATUS, 4, 1, .ro, 0, .any⟩
def Fld.GLB_HDM_STATUS_WITHDRAWN : Field := ⟨.GLB_HDM_STATUS, 5, 1, .w1c, 0, .any⟩
/-! GLB_IDE_PSK: 20_host_interface.md R424 -/
def Fld.GLB_IDE_PSK_KEY : Field := ⟨.GLB_IDE_PSK, 0, 64, .wo, 0, .any⟩
/-! PWR_STATUS: 18_power_thermal.md R391 -/
def Fld.PWR_STATUS_STATE : Field := ⟨.PWR_STATUS, 0, 3, .ro, 0, .any⟩
def Fld.PWR_STATUS_LEVEL : Field := ⟨.PWR_STATUS, 3, 2, .ro, 0, .any⟩
def Fld.PWR_STATUS_POWER_CAUSE : Field := ⟨.PWR_STATUS, 5, 1, .ro, 0, .any⟩
def Fld.PWR_STATUS_THERMAL_CAUSE : Field := ⟨.PWR_STATUS, 6, 1, .ro, 0, .any⟩
/-! PWR_VID: 18_power_thermal.md R391 -/
def Fld.PWR_VID_VID_MV : Field := ⟨.PWR_VID, 0, 10, .ro, 0, .any⟩
def Fld.PWR_VID_APPLIED : Field := ⟨.PWR_VID, 10, 1, .rw, 0, .any⟩
/-! PWR_RAIL: 18_power_thermal.md R391 -/
def Fld.PWR_RAIL_MV : Field := ⟨.PWR_RAIL, 0, 16, .ro, 0, .any⟩
def Fld.PWR_RAIL_DECIAMPS : Field := ⟨.PWR_RAIL, 16, 16, .ro, 0, .any⟩
def Fld.PWR_RAIL_PEAK_DECIAMPS : Field := ⟨.PWR_RAIL, 32, 16, .rc, 0, .any⟩
/-! PWR_PACKAGE_UJ: 18_power_thermal.md R391 -/
def Fld.PWR_PACKAGE_UJ_COUNT : Field := ⟨.PWR_PACKAGE_UJ, 0, 64, .ro, 0, .any⟩
/-! PWR_BALLAST_UJ: 18_power_thermal.md R391 -/
def Fld.PWR_BALLAST_UJ_COUNT : Field := ⟨.PWR_BALLAST_UJ, 0, 64, .ro, 0, .any⟩
/-! PWR_GOV_STATUS: 18_power_thermal.md R391 -/
def Fld.PWR_GOV_STATUS_WINDOW_W : Field := ⟨.PWR_GOV_STATUS, 0, 16, .ro, 0, .any⟩
def Fld.PWR_GOV_STATUS_STOP_WINDOW_W : Field := ⟨.PWR_GOV_STATUS, 16, 16, .ro, 0, .any⟩
def Fld.PWR_GOV_STATUS_BALLAST_CORES : Field := ⟨.PWR_GOV_STATUS, 32, 7, .ro, 0, .any⟩
def Fld.PWR_GOV_STATUS_WAITING : Field := ⟨.PWR_GOV_STATUS, 39, 8, .ro, 0, .any⟩
/-! PWR_COEF: 18_power_thermal.md R391 -/
def Fld.PWR_COEF_COEF : Field := ⟨.PWR_COEF, 0, 32, .ro, 0, .any⟩
/-! THM_STATUS: 18_power_thermal.md R391 -/
def Fld.THM_STATUS_MAX_COMPUTE_C : Field := ⟨.THM_STATUS, 0, 8, .ro, 0, .any⟩
def Fld.THM_STATUS_MAX_HUB_C : Field := ⟨.THM_STATUS, 8, 8, .ro, 0, .any⟩
def Fld.THM_STATUS_HOTTEST_DIE : Field := ⟨.THM_STATUS, 16, 3, .ro, 0, .any⟩
def Fld.THM_STATUS_TRIPS : Field := ⟨.THM_STATUS, 32, 16, .ro, 0, .any⟩
/-! THM_CTRL: 18_power_thermal.md R391 -/
def Fld.THM_CTRL_THROTTLE_C : Field := ⟨.THM_CTRL, 0, 8, .rw, 0x64, (.range 85 105)⟩
/-! THM_DIE: 18_power_thermal.md R391 -/
def Fld.THM_DIE_MAX_C : Field := ⟨.THM_DIE, 0, 8, .ro, 0, .any⟩
def Fld.THM_DIE_PEAK_C : Field := ⟨.THM_DIE, 8, 8, .rc, 0, .any⟩
/-! HWD_STATUS: 14_trust_attestation.md R324 -/
def Fld.HWD_STATUS_STATE : Field := ⟨.HWD_STATUS, 0, 2, .ro, 0, .any⟩
def Fld.HWD_STATUS_OWNED : Field := ⟨.HWD_STATUS, 2, 1, .ro, 0, .any⟩
def Fld.HWD_STATUS_OWNER_SLOT : Field := ⟨.HWD_STATUS, 3, 3, .ro, 0, .any⟩
def Fld.HWD_STATUS_STAGED : Field := ⟨.HWD_STATUS, 6, 1, .ro, 0, .any⟩
def Fld.HWD_STATUS_FW_FALLBACK : Field := ⟨.HWD_STATUS, 7, 1, .ro, 0, .any⟩
def Fld.HWD_STATUS_RELAY_READY : Field := ⟨.HWD_STATUS, 8, 1, .ro, 0, .any⟩
def Fld.HWD_STATUS_RETRY_MS : Field := ⟨.HWD_STATUS, 16, 16, .ro, 0, .any⟩
/-! HWD_SERIAL: 14_trust_attestation.md R324 -/
def Fld.HWD_SERIAL_SERIAL : Field := ⟨.HWD_SERIAL, 0, 64, .ro, 0, .any⟩
/-! HWD_SVN: 14_trust_attestation.md R324 -/
def Fld.HWD_SVN_RUNNING_SVN : Field := ⟨.HWD_SVN, 0, 32, .ro, 0, .any⟩
def Fld.HWD_SVN_FUSED_SVN : Field := ⟨.HWD_SVN, 32, 7, .ro, 0, .any⟩
/-! HWD_LMS: 14_trust_attestation.md R324 -/
def Fld.HWD_LMS_BLOCKS_USED : Field := ⟨.HWD_LMS, 0, 22, .ro, 0, .any⟩
def Fld.HWD_LMS_SIGNED : Field := ⟨.HWD_LMS, 22, 17, .ro, 0, .any⟩
def Fld.HWD_LMS_INDEX_LOW : Field := ⟨.HWD_LMS, 39, 1, .ro, 0, .any⟩
def Fld.HWD_LMS_EXHAUSTED : Field := ⟨.HWD_LMS, 40, 1, .ro, 0, .any⟩
def Fld.HWD_LMS_MIRROR_REPAIRED : Field := ⟨.HWD_LMS, 41, 1, .w1c, 0, .any⟩
/-! HWD_ERROR: 14_trust_attestation.md R324 -/
def Fld.HWD_ERROR_SIGNATURE_INVALID : Field := ⟨.HWD_ERROR, 0, 1, .w1c, 0, .any⟩
def Fld.HWD_ERROR_KEY_REFUSED : Field := ⟨.HWD_ERROR, 1, 1, .w1c, 0, .any⟩
def Fld.HWD_ERROR_LMS_FUSE_FAILED : Field := ⟨.HWD_ERROR, 2, 1, .w1c, 0, .any⟩
def Fld.HWD_ERROR_JOIN_FAILED : Field := ⟨.HWD_ERROR, 3, 1, .w1c, 0, .any⟩
def Fld.HWD_ERROR_LOG_FULL : Field := ⟨.HWD_ERROR, 4, 1, .w1c, 0, .any⟩
/-! HWD_ERROR_INFO: 14_trust_attestation.md R324 -/
def Fld.HWD_ERROR_INFO_OP : Field := ⟨.HWD_ERROR_INFO, 0, 8, .ro, 0, .any⟩
def Fld.HWD_ERROR_INFO_MAILBOX : Field := ⟨.HWD_ERROR_INFO, 8, 5, .ro, 0, .any⟩
def Fld.HWD_ERROR_INFO_KEY_ID : Field := ⟨.HWD_ERROR_INFO, 16, 16, .ro, 0, .any⟩
def Fld.HWD_ERROR_INFO_STATUS : Field := ⟨.HWD_ERROR_INFO, 32, 8, .ro, 0, .any⟩
/-! HWD_MB_CTRL: 14_trust_attestation.md R323 -/
def Fld.HWD_MB_CTRL_GO : Field := ⟨.HWD_MB_CTRL, 0, 1, .w1s, 0, .any⟩
def Fld.HWD_MB_CTRL_BUSY : Field := ⟨.HWD_MB_CTRL, 1, 1, .ro, 0, .any⟩
def Fld.HWD_MB_CTRL_DONE : Field := ⟨.HWD_MB_CTRL, 2, 1, .w1c, 0, .any⟩
def Fld.HWD_MB_CTRL_INTERRUPT : Field := ⟨.HWD_MB_CTRL, 3, 1, .rw, 0, .any⟩
def Fld.HWD_MB_CTRL_OVERRUN : Field := ⟨.HWD_MB_CTRL, 4, 1, .w1c, 0, .any⟩
def Fld.HWD_MB_CTRL_RETRY_MS : Field := ⟨.HWD_MB_CTRL, 16, 16, .ro, 0, .any⟩
/-! HWD_MB_DATA: 14_trust_attestation.md R323 -/
def Fld.HWD_MB_DATA_DATA : Field := ⟨.HWD_MB_DATA, 0, 64, .rw, 0, .any⟩
/-! EVR_CTRL: 19_faults_events.md R406 -/
def Fld.EVR_CTRL_FLOOD_LIMIT : Field := ⟨.EVR_CTRL, 0, 8, .rw, 0x10, (.range 1 255)⟩
/-! EVR_RING: 19_faults_events.md R406 -/
def Fld.EVR_RING_ADDR : Field := ⟨.EVR_RING, 0, 48, .rw, 0, (.aligned 6)⟩
def Fld.EVR_RING_SIZE_LOG2 : Field := ⟨.EVR_RING, 48, 5, .rw, 4, (.range 4 20)⟩
def Fld.EVR_RING_ENABLE : Field := ⟨.EVR_RING, 53, 1, .rw, 0, .any⟩
def Fld.EVR_RING_INTERRUPT : Field := ⟨.EVR_RING, 54, 1, .rw, 0, .any⟩
/-! EVR_HEAD: 19_faults_events.md R406 -/
def Fld.EVR_HEAD_INDEX : Field := ⟨.EVR_HEAD, 0, 20, .rw, 0, .any⟩
/-! EVR_TAIL: 19_faults_events.md R406 -/
def Fld.EVR_TAIL_INDEX : Field := ⟨.EVR_TAIL, 0, 20, .ro, 0, .any⟩
/-! EVR_DROPPED: 19_faults_events.md R406 -/
def Fld.EVR_DROPPED_COUNT : Field := ⟨.EVR_DROPPED, 0, 64, .ro, 0, .any⟩
/-! EVR_STATUS: 19_faults_events.md R406 -/
def Fld.EVR_STATUS_PACKAGE_FAULT : Field := ⟨.EVR_STATUS, 0, 1, .ro, 0, .any⟩
def Fld.EVR_STATUS_FAULT_BLOCK : Field := ⟨.EVR_STATUS, 4, 4, .ro, 0, .any⟩
def Fld.EVR_STATUS_SNAPS_SKIPPED : Field := ⟨.EVR_STATUS, 16, 16, .rc, 0, .any⟩
/-! EVR_STEWARD_OUT: 19_faults_events.md R406 -/
def Fld.EVR_STEWARD_OUT_OUT : Field := ⟨.EVR_STEWARD_OUT, 0, 64, .ro, 0, .any⟩
/-! EVR_DDR_OUT: 19_faults_events.md R406 -/
def Fld.EVR_DDR_OUT_OUT : Field := ⟨.EVR_DDR_OUT, 0, 16, .ro, 0, .any⟩
/-! EVR_HBM_OUT: 19_faults_events.md R406 -/
def Fld.EVR_HBM_OUT_OUT : Field := ⟨.EVR_HBM_OUT, 0, 64, .ro, 0, .any⟩
/-! EVR_RETURN_CMD: 19_faults_events.md R406 -/
def Fld.EVR_RETURN_CMD_KIND : Field := ⟨.EVR_RETURN_CMD, 0, 4, .rw, 0, .any⟩
def Fld.EVR_RETURN_CMD_INDEX : Field := ⟨.EVR_RETURN_CMD, 4, 12, .rw, 0, .any⟩
def Fld.EVR_RETURN_CMD_GO : Field := ⟨.EVR_RETURN_CMD, 16, 1, .w1s, 0, .any⟩
def Fld.EVR_RETURN_CMD_BUSY : Field := ⟨.EVR_RETURN_CMD, 17, 1, .ro, 0, .any⟩
def Fld.EVR_RETURN_CMD_DONE : Field := ⟨.EVR_RETURN_CMD, 18, 1, .w1c, 0, .any⟩
def Fld.EVR_RETURN_CMD_RESULT : Field := ⟨.EVR_RETURN_CMD, 20, 4, .ro, 0, .any⟩
/-! EVR_SNAP_SEL: 19_faults_events.md R406 -/
def Fld.EVR_SNAP_SEL_OFFSET : Field := ⟨.EVR_SNAP_SEL, 0, 29, .rw, 0, .any⟩
def Fld.EVR_SNAP_SEL_WIDE : Field := ⟨.EVR_SNAP_SEL, 29, 1, .rw, 0, .any⟩
def Fld.EVR_SNAP_SEL_ENABLE : Field := ⟨.EVR_SNAP_SEL, 31, 1, .rw, 0, .any⟩
/-! EVR_SNAP_TRIG: 19_faults_events.md R406 -/
def Fld.EVR_SNAP_TRIG_CODE : Field := ⟨.EVR_SNAP_TRIG, 0, 16, .rw, 0, .any⟩
def Fld.EVR_SNAP_TRIG_ENABLE : Field := ⟨.EVR_SNAP_TRIG, 16, 1, .rw, 0, .any⟩
/-! EVR_STAND_RING: 19_faults_events.md R406 -/
def Fld.EVR_STAND_RING_ADDR : Field := ⟨.EVR_STAND_RING, 0, 48, .rw, 0, (.aligned 6)⟩
def Fld.EVR_STAND_RING_SIZE_LOG2 : Field := ⟨.EVR_STAND_RING, 48, 5, .rw, 4, (.range 4 20)⟩
def Fld.EVR_STAND_RING_ENABLE : Field := ⟨.EVR_STAND_RING, 53, 1, .rw, 0, .any⟩
def Fld.EVR_STAND_RING_TARGET : Field := ⟨.EVR_STAND_RING, 54, 1, .rw, 0, .any⟩
def Fld.EVR_STAND_RING_INTERRUPT : Field := ⟨.EVR_STAND_RING, 55, 1, .rw, 0, .any⟩
/-! EVR_STAND_HEAD: 19_faults_events.md R406 -/
def Fld.EVR_STAND_HEAD_INDEX : Field := ⟨.EVR_STAND_HEAD, 0, 20, .rw, 0, .any⟩
/-! EVR_STAND_TAIL: 19_faults_events.md R406 -/
def Fld.EVR_STAND_TAIL_INDEX : Field := ⟨.EVR_STAND_TAIL, 0, 20, .ro, 0, .any⟩
/-! EVR_STAND_DROPPED: 19_faults_events.md R406 -/
def Fld.EVR_STAND_DROPPED_COUNT : Field := ⟨.EVR_STAND_DROPPED, 0, 64, .ro, 0, .any⟩
/-! SCH_STATUS: 08_serving_scheduler.md R186 -/
def Fld.SCH_STATUS_STATE : Field := ⟨.SCH_STATUS, 0, 2, .ro, 0, .any⟩
def Fld.SCH_STATUS_MODEL : Field := ⟨.SCH_STATUS, 2, 3, .ro, 0, .any⟩
def Fld.SCH_STATUS_DRAFT : Field := ⟨.SCH_STATUS, 5, 1, .ro, 0, .any⟩
def Fld.SCH_STATUS_ROWS : Field := ⟨.SCH_STATUS, 6, 16, .ro, 0, .any⟩
/-! SCH_STEP: 08_serving_scheduler.md R186 -/
def Fld.SCH_STEP_COUNT : Field := ⟨.SCH_STEP, 0, 64, .ro, 0, .any⟩
/-! SCH_NOW: 08_serving_scheduler.md R186 -/
def Fld.SCH_NOW_COUNT : Field := ⟨.SCH_NOW, 0, 64, .ro, 0, .any⟩
/-! SCH_SQ_BASE: 08_serving_scheduler.md R186 -/
def Fld.SCH_SQ_BASE_ADDR : Field := ⟨.SCH_SQ_BASE, 0, 48, .rw, 0, (.aligned 7)⟩
def Fld.SCH_SQ_BASE_SIZE_LOG2 : Field := ⟨.SCH_SQ_BASE, 48, 5, .rw, 4, (.range 4 16)⟩
def Fld.SCH_SQ_BASE_ENABLE : Field := ⟨.SCH_SQ_BASE, 53, 1, .rw, 0, .any⟩
def Fld.SCH_SQ_BASE_TAIL_SOURCE : Field := ⟨.SCH_SQ_BASE, 54, 1, .rw, 0, .any⟩
def Fld.SCH_SQ_BASE_DEFAULT_CQ : Field := ⟨.SCH_SQ_BASE, 55, 4, .rw, 0, .any⟩
/-! SCH_SQ_TAILWORD: 08_serving_scheduler.md R186 -/
def Fld.SCH_SQ_TAILWORD_TAIL_ADDR : Field := ⟨.SCH_SQ_TAILWORD, 0, 48, .rw, 0, (.aligned 2)⟩
/-! SCH_SQ_TAIL: 08_serving_scheduler.md R186 -/
def Fld.SCH_SQ_TAIL_INDEX : Field := ⟨.SCH_SQ_TAIL, 0, 16, .rw, 0, .any⟩
/-! SCH_SQ_HEAD: 08_serving_scheduler.md R186 -/
def Fld.SCH_SQ_HEAD_INDEX : Field := ⟨.SCH_SQ_HEAD, 0, 16, .ro, 0, .any⟩
/-! SCH_CQ_BASE: 08_serving_scheduler.md R186 -/
def Fld.SCH_CQ_BASE_ADDR : Field := ⟨.SCH_CQ_BASE, 0, 48, .rw, 0, (.aligned 5)⟩
def Fld.SCH_CQ_BASE_SIZE_LOG2 : Field := ⟨.SCH_CQ_BASE, 48, 5, .rw, 4, (.range 4 20)⟩
def Fld.SCH_CQ_BASE_ENABLE : Field := ⟨.SCH_CQ_BASE, 53, 1, .rw, 0, .any⟩
def Fld.SCH_CQ_BASE_TARGET : Field := ⟨.SCH_CQ_BASE, 54, 1, .rw, 0, .any⟩
def Fld.SCH_CQ_BASE_INTERRUPT : Field := ⟨.SCH_CQ_BASE, 55, 1, .rw, 0, .any⟩
/-! SCH_CQ_HEAD: 08_serving_scheduler.md R186 -/
def Fld.SCH_CQ_HEAD_INDEX : Field := ⟨.SCH_CQ_HEAD, 0, 20, .rw, 0, .any⟩
/-! SCH_CQ_TAIL: 08_serving_scheduler.md R186 -/
def Fld.SCH_CQ_TAIL_INDEX : Field := ⟨.SCH_CQ_TAIL, 0, 20, .ro, 0, .any⟩
/-! SCH_CUSTOMERS: 08_serving_scheduler.md R186 -/
def Fld.SCH_CUSTOMERS_ADDR : Field := ⟨.SCH_CUSTOMERS, 0, 48, .rw, 0, (.aligned 6)⟩
def Fld.SCH_CUSTOMERS_LOG2 : Field := ⟨.SCH_CUSTOMERS, 48, 5, .rw, 0, (.range 0 18)⟩
/-! SCH_ACCT_SNAP: 08_serving_scheduler.md R186 -/
def Fld.SCH_ACCT_SNAP_SNAP : Field := ⟨.SCH_ACCT_SNAP, 0, 1, .wo, 0, .any⟩
/-! SCH_ACCT: 08_serving_scheduler.md R186 -/
def Fld.SCH_ACCT_COUNT : Field := ⟨.SCH_ACCT, 0, 64, .ro, 0, .any⟩
/-! SCH_SNAP: 08_serving_scheduler.md R186 -/
def Fld.SCH_SNAP_COUNT : Field := ⟨.SCH_SNAP, 0, 64, .ro, 0, .any⟩
/-! SCH_ERROR: 08_serving_scheduler.md R186 -/
def Fld.SCH_ERROR_REQUEST_INVALID : Field := ⟨.SCH_ERROR, 0, 1, .w1c, 0, .any⟩
def Fld.SCH_ERROR_INTAKE_PAUSED : Field := ⟨.SCH_ERROR, 1, 1, .w1c, 0, .any⟩
def Fld.SCH_ERROR_CQ_HELD : Field := ⟨.SCH_ERROR, 2, 1, .w1c, 0, .any⟩
def Fld.SCH_ERROR_DEADLINE_MISS : Field := ⟨.SCH_ERROR, 3, 1, .w1c, 0, .any⟩
/-! SCH_ERROR_INFO: 08_serving_scheduler.md R186 -/
def Fld.SCH_ERROR_INFO_SEQ : Field := ⟨.SCH_ERROR_INFO, 0, 32, .ro, 0, .any⟩
def Fld.SCH_ERROR_INFO_QUEUE : Field := ⟨.SCH_ERROR_INFO, 32, 4, .ro, 0, .any⟩
def Fld.SCH_ERROR_INFO_STATUS : Field := ⟨.SCH_ERROR_INFO, 36, 8, .ro, 0, .any⟩
/-! SWY_CMD_RING: 09_state_movement.md R220 -/
def Fld.SWY_CMD_RING_ADDR : Field := ⟨.SWY_CMD_RING, 0, 48, .rw, 0, (.aligned 5)⟩
def Fld.SWY_CMD_RING_SIZE_LOG2 : Field := ⟨.SWY_CMD_RING, 48, 5, .rw, 4, (.range 4 16)⟩
def Fld.SWY_CMD_RING_INTERRUPT : Field := ⟨.SWY_CMD_RING, 53, 1, .rw, 0, .any⟩
/-! SWY_CMD_TAIL: 09_state_movement.md R220 -/
def Fld.SWY_CMD_TAIL_INDEX : Field := ⟨.SWY_CMD_TAIL, 0, 16, .rw, 0, .any⟩
/-! SWY_CMD_HEAD: 09_state_movement.md R220 -/
def Fld.SWY_CMD_HEAD_INDEX : Field := ⟨.SWY_CMD_HEAD, 0, 16, .ro, 0, .any⟩
/-! SWY_EVT_RING: 09_state_movement.md R220 -/
def Fld.SWY_EVT_RING_ADDR : Field := ⟨.SWY_EVT_RING, 0, 48, .rw, 0, (.aligned 5)⟩
def Fld.SWY_EVT_RING_SIZE_LOG2 : Field := ⟨.SWY_EVT_RING, 48, 5, .rw, 4, (.range 4 16)⟩
def Fld.SWY_EVT_RING_INTERRUPT : Field := ⟨.SWY_EVT_RING, 53, 1, .rw, 0, .any⟩
/-! SWY_EVT_HEAD: 09_state_movement.md R220 -/
def Fld.SWY_EVT_HEAD_INDEX : Field := ⟨.SWY_EVT_HEAD, 0, 16, .rw, 0, .any⟩
/-! SWY_EVT_TAIL: 09_state_movement.md R220 -/
def Fld.SWY_EVT_TAIL_INDEX : Field := ⟨.SWY_EVT_TAIL, 0, 16, .ro, 0, .any⟩
/-! SWY_CONFIG: 09_state_movement.md R220 -/
def Fld.SWY_CONFIG_ARRIVAL_CQ : Field := ⟨.SWY_CONFIG, 0, 4, .rw, 0, .any⟩
def Fld.SWY_CONFIG_HANDOFF_TIMEOUT_MS : Field := ⟨.SWY_CONFIG, 4, 10, .rw, 0xA, (.range 1 1000)⟩
def Fld.SWY_CONFIG_ORPHAN_TIER : Field := ⟨.SWY_CONFIG, 14, 1, .rw, 0, .any⟩
def Fld.SWY_CONFIG_ORPHAN_TTL_S : Field := ⟨.SWY_CONFIG, 15, 22, .rw, 0xE10, (.range 1 2592000)⟩
def Fld.SWY_CONFIG_SEAL_KEY_ID : Field := ⟨.SWY_CONFIG, 37, 16, .rw, 0, .any⟩
/-! SWY_SEQ_RANGE: 09_state_movement.md R220 -/
def Fld.SWY_SEQ_RANGE_FIRST : Field := ⟨.SWY_SEQ_RANGE, 0, 32, .rw, 0, .any⟩
def Fld.SWY_SEQ_RANGE_COUNT : Field := ⟨.SWY_SEQ_RANGE, 32, 32, .rw, 0, .any⟩
/-! SWY_HISTORY_POOL: 09_state_movement.md R220 -/
def Fld.SWY_HISTORY_POOL_ADDR : Field := ⟨.SWY_HISTORY_POOL, 0, 48, .rw, 0, (.aligned 6)⟩
/-! SWY_HISTORY_POOL_1: 09_state_movement.md R220 -/
def Fld.SWY_HISTORY_POOL_1_SIZE : Field := ⟨.SWY_HISTORY_POOL_1, 0, 32, .rw, 0, .any⟩
def Fld.SWY_HISTORY_POOL_1_COUNT : Field := ⟨.SWY_HISTORY_POOL_1, 32, 32, .rw, 0, .any⟩
/-! SWY_STORE: 09_state_movement.md R220 -/
def Fld.SWY_STORE_ADDR : Field := ⟨.SWY_STORE, 0, 48, .rw, 0, .any⟩
/-! SWY_STORE_1: 09_state_movement.md R220 -/
def Fld.SWY_STORE_1_SIZE : Field := ⟨.SWY_STORE_1, 0, 32, .rw, 0, .any⟩
def Fld.SWY_STORE_1_COUNT : Field := ⟨.SWY_STORE_1, 32, 32, .rw, 0, (.range 0 0)⟩
/-! SWY_CANOPY: 09_state_movement.md R220 -/
def Fld.SWY_CANOPY_ALLOTTED : Field := ⟨.SWY_CANOPY, 0, 32, .ro, 0, .any⟩
def Fld.SWY_CANOPY_USED : Field := ⟨.SWY_CANOPY, 32, 32, .ro, 0, .any⟩
/-! SWY_BUNDLES_SENT: 09_state_movement.md R220 -/
def Fld.SWY_BUNDLES_SENT_COUNT : Field := ⟨.SWY_BUNDLES_SENT, 0, 64, .ro, 0, .any⟩
/-! SWY_BUNDLES_RECEIVED: 09_state_movement.md R220 -/
def Fld.SWY_BUNDLES_RECEIVED_COUNT : Field := ⟨.SWY_BUNDLES_RECEIVED, 0, 64, .ro, 0, .any⟩
/-! SWY_BYTES_SENT: 09_state_movement.md R220 -/
def Fld.SWY_BYTES_SENT_COUNT : Field := ⟨.SWY_BYTES_SENT, 0, 64, .ro, 0, .any⟩
/-! SWY_BYTES_RECEIVED: 09_state_movement.md R220 -/
def Fld.SWY_BYTES_RECEIVED_COUNT : Field := ⟨.SWY_BYTES_RECEIVED, 0, 64, .ro, 0, .any⟩
/-! SWY_ORPHANED: 09_state_movement.md R220 -/
def Fld.SWY_ORPHANED_COUNT : Field := ⟨.SWY_ORPHANED, 0, 64, .ro, 0, .any⟩
/-! SWY_LOOKUP_BLOCKS: 09_state_movement.md R220 -/
def Fld.SWY_LOOKUP_BLOCKS_COUNT : Field := ⟨.SWY_LOOKUP_BLOCKS, 0, 64, .ro, 0, .any⟩
/-! SWY_MATCHED_BLOCKS: 09_state_movement.md R220 -/
def Fld.SWY_MATCHED_BLOCKS_COUNT : Field := ⟨.SWY_MATCHED_BLOCKS, 0, 64, .ro, 0, .any⟩
/-! SWY_ERROR: 09_state_movement.md R220 -/
def Fld.SWY_ERROR_BUNDLE_INVALID : Field := ⟨.SWY_ERROR, 0, 1, .w1c, 0, .any⟩
def Fld.SWY_ERROR_GEOMETRY_MISMATCH : Field := ⟨.SWY_ERROR, 1, 1, .w1c, 0, .any⟩
def Fld.SWY_ERROR_STATE_LOST : Field := ⟨.SWY_ERROR, 2, 1, .w1c, 0, .any⟩
def Fld.SWY_ERROR_ORPHANED : Field := ⟨.SWY_ERROR, 3, 1, .w1c, 0, .any⟩
def Fld.SWY_ERROR_BAD_COMMAND : Field := ⟨.SWY_ERROR, 4, 1, .w1c, 0, .any⟩
/-! SWY_ERROR_INFO: 09_state_movement.md R220 -/
def Fld.SWY_ERROR_INFO_BUNDLE_ID : Field := ⟨.SWY_ERROR_INFO, 0, 64, .ro, 0, .any⟩
/-! SWY_INBOX: 09_state_movement.md R220 -/
def Fld.SWY_INBOX_ADDR : Field := ⟨.SWY_INBOX, 0, 48, .rw, 0, (.aligned 16)⟩
/-! SWY_INBOX_1: 09_state_movement.md R220 -/
def Fld.SWY_INBOX_1_SIZE : Field := ⟨.SWY_INBOX_1, 0, 32, .rw, 0, .any⟩
/-! SWY_STAGING: 09_state_movement.md R220 -/
def Fld.SWY_STAGING_ADDR : Field := ⟨.SWY_STAGING, 0, 48, .rw, 0, (.aligned 16)⟩
/-! SWY_STAGING_1: 09_state_movement.md R220 -/
def Fld.SWY_STAGING_1_SIZE : Field := ⟨.SWY_STAGING_1, 0, 32, .rw, 0, .any⟩
/-! SWY_EVT_DROPPED: 09_state_movement.md R220 -/
def Fld.SWY_EVT_DROPPED_COUNT : Field := ⟨.SWY_EVT_DROPPED, 0, 64, .ro, 0, .any⟩
/-! SWYP_CMD_RING: 09_state_movement.md R219 -/
def Fld.SWYP_CMD_RING_ADDR : Field := ⟨.SWYP_CMD_RING, 0, 48, .rw, 0, (.aligned 5)⟩
def Fld.SWYP_CMD_RING_SIZE_LOG2 : Field := ⟨.SWYP_CMD_RING, 48, 5, .rw, 4, (.range 4 16)⟩
def Fld.SWYP_CMD_RING_INTERRUPT : Field := ⟨.SWYP_CMD_RING, 53, 1, .rw, 0, .any⟩
/-! SWYP_CMD_TAIL: 09_state_movement.md R219 -/
def Fld.SWYP_CMD_TAIL_INDEX : Field := ⟨.SWYP_CMD_TAIL, 0, 16, .rw, 0, .any⟩
/-! SWYP_CMD_HEAD: 09_state_movement.md R219 -/
def Fld.SWYP_CMD_HEAD_INDEX : Field := ⟨.SWYP_CMD_HEAD, 0, 16, .ro, 0, .any⟩
/-! SWYP_EVT_RING: 09_state_movement.md R219 -/
def Fld.SWYP_EVT_RING_ADDR : Field := ⟨.SWYP_EVT_RING, 0, 48, .rw, 0, (.aligned 5)⟩
def Fld.SWYP_EVT_RING_SIZE_LOG2 : Field := ⟨.SWYP_EVT_RING, 48, 5, .rw, 4, (.range 4 16)⟩
def Fld.SWYP_EVT_RING_INTERRUPT : Field := ⟨.SWYP_EVT_RING, 53, 1, .rw, 0, .any⟩
/-! SWYP_EVT_HEAD: 09_state_movement.md R219 -/
def Fld.SWYP_EVT_HEAD_INDEX : Field := ⟨.SWYP_EVT_HEAD, 0, 16, .rw, 0, .any⟩
/-! SWYP_EVT_TAIL: 09_state_movement.md R219 -/
def Fld.SWYP_EVT_TAIL_INDEX : Field := ⟨.SWYP_EVT_TAIL, 0, 16, .ro, 0, .any⟩
/-! SWYP_EVT_DROPPED: 09_state_movement.md R219 -/
def Fld.SWYP_EVT_DROPPED_COUNT : Field := ⟨.SWYP_EVT_DROPPED, 0, 64, .ro, 0, .any⟩
/-! TIER_CMD_RING: 07_memory_tiers.md R163 -/
def Fld.TIER_CMD_RING_ADDR : Field := ⟨.TIER_CMD_RING, 0, 48, .rw, 0, (.aligned 5)⟩
def Fld.TIER_CMD_RING_SIZE_LOG2 : Field := ⟨.TIER_CMD_RING, 48, 5, .rw, 4, (.range 4 16)⟩
/-! TIER_CMD_TAIL: 07_memory_tiers.md R163 -/
def Fld.TIER_CMD_TAIL_TAIL : Field := ⟨.TIER_CMD_TAIL, 0, 16, .rw, 0, .any⟩
/-! TIER_CMD_HEAD: 07_memory_tiers.md R163 -/
def Fld.TIER_CMD_HEAD_HEAD : Field := ⟨.TIER_CMD_HEAD, 0, 16, .ro, 0, .any⟩
/-! TIER_CONFIG: 07_memory_tiers.md R163 -/
def Fld.TIER_CONFIG_EVICT_AGE : Field := ⟨.TIER_CONFIG, 0, 8, .rw, 4, (.range 1 255)⟩
def Fld.TIER_CONFIG_SWEEP_MS : Field := ⟨.TIER_CONFIG, 8, 8, .rw, 0xA, (.range 1 255)⟩
/-! TIER_T0_FRAMES: 07_memory_tiers.md R163 -/
def Fld.TIER_T0_FRAMES_TOTAL : Field := ⟨.TIER_T0_FRAMES, 0, 32, .ro, 0, .any⟩
def Fld.TIER_T0_FRAMES_FREE : Field := ⟨.TIER_T0_FRAMES, 32, 32, .ro, 0, .any⟩
/-! TIER_T1_FRAMES: 07_memory_tiers.md R163 -/
def Fld.TIER_T1_FRAMES_TOTAL : Field := ⟨.TIER_T1_FRAMES, 0, 32, .ro, 0, .any⟩
def Fld.TIER_T1_FRAMES_FREE : Field := ⟨.TIER_T1_FRAMES, 32, 32, .ro, 0, .any⟩
/-! TIER_MAP_LEAVES: 07_memory_tiers.md R163 -/
def Fld.TIER_MAP_LEAVES_TOTAL : Field := ⟨.TIER_MAP_LEAVES, 0, 32, .ro, 0, .any⟩
def Fld.TIER_MAP_LEAVES_FREE : Field := ⟨.TIER_MAP_LEAVES, 32, 32, .ro, 0, .any⟩
/-! TIER_PROMOTED: 07_memory_tiers.md R163 -/
def Fld.TIER_PROMOTED_COUNT : Field := ⟨.TIER_PROMOTED, 0, 64, .ro, 0, .any⟩
/-! TIER_EVICTED: 07_memory_tiers.md R163 -/
def Fld.TIER_EVICTED_COUNT : Field := ⟨.TIER_EVICTED, 0, 64, .ro, 0, .any⟩
/-! TIER_WRITEBACK_BYTES: 07_memory_tiers.md R163 -/
def Fld.TIER_WRITEBACK_BYTES_COUNT : Field := ⟨.TIER_WRITEBACK_BYTES, 0, 64, .ro, 0, .any⟩
/-! TIER_MOVING: 07_memory_tiers.md R163 -/
def Fld.TIER_MOVING_MOVES : Field := ⟨.TIER_MOVING, 0, 7, .ro, 0, .any⟩
/-! TIER_ERROR: 07_memory_tiers.md R163 -/
def Fld.TIER_ERROR_UNMAPPED : Field := ⟨.TIER_ERROR, 0, 1, .w1c, 0, .any⟩
def Fld.TIER_ERROR_OBJECT_LOST : Field := ⟨.TIER_ERROR, 1, 1, .w1c, 0, .any⟩
def Fld.TIER_ERROR_WRITEBACK_FAILED : Field := ⟨.TIER_ERROR, 2, 1, .w1c, 0, .any⟩
def Fld.TIER_ERROR_REMOTE_FAILED : Field := ⟨.TIER_ERROR, 3, 1, .w1c, 0, .any⟩
def Fld.TIER_ERROR_BAD_COMMAND : Field := ⟨.TIER_ERROR, 4, 1, .w1c, 0, .any⟩
/-! TIER_ERROR_INFO: 07_memory_tiers.md R163 -/
def Fld.TIER_ERROR_INFO_OBJECT : Field := ⟨.TIER_ERROR_INFO, 0, 16, .ro, 0, .any⟩
def Fld.TIER_ERROR_INFO_TIER : Field := ⟨.TIER_ERROR_INFO, 16, 2, .ro, 0, .any⟩
def Fld.TIER_ERROR_INFO_TAG : Field := ⟨.TIER_ERROR_INFO, 18, 32, .ro, 0, .any⟩
/-! TIER_ERROR_ADDR: 07_memory_tiers.md R163 -/
def Fld.TIER_ERROR_ADDR_ADDR : Field := ⟨.TIER_ERROR_ADDR, 0, 48, .ro, 0, .any⟩
/-! CMP_BLOCKS_DECODED: 06_block_compression.md R142 -/
def Fld.CMP_BLOCKS_DECODED_COUNT : Field := ⟨.CMP_BLOCKS_DECODED, 0, 64, .ro, 0, .any⟩
/-! CMP_RAW_DECODED: 06_block_compression.md R142 -/
def Fld.CMP_RAW_DECODED_COUNT : Field := ⟨.CMP_RAW_DECODED, 0, 64, .ro, 0, .any⟩
/-! CMP_KV_UNSEALED: 06_block_compression.md R142 -/
def Fld.CMP_KV_UNSEALED_COUNT : Field := ⟨.CMP_KV_UNSEALED, 0, 64, .ro, 0, .any⟩
/-! CMP_ERROR: 06_block_compression.md R142 -/
def Fld.CMP_ERROR_CORRUPT : Field := ⟨.CMP_ERROR, 0, 1, .w1c, 0, .any⟩
def Fld.CMP_ERROR_SHORT : Field := ⟨.CMP_ERROR, 1, 1, .w1c, 0, .any⟩
/-! CMP_ERROR_INFO: 06_block_compression.md R142 -/
def Fld.CMP_ERROR_INFO_ADDR : Field := ⟨.CMP_ERROR_INFO, 0, 48, .ro, 0, .any⟩
def Fld.CMP_ERROR_INFO_CODEC : Field := ⟨.CMP_ERROR_INFO, 48, 2, .ro, 0, .any⟩
def Fld.CMP_ERROR_INFO_CHECK_KIND : Field := ⟨.CMP_ERROR_INFO, 50, 4, .ro, 0, .any⟩
def Fld.CMP_ERROR_INFO_SUB_BLOCK : Field := ⟨.CMP_ERROR_INFO, 54, 4, .ro, 0, .any⟩
/-! KVM_POOL: 05_attention_state.md R126 -/
def Fld.KVM_POOL_ADDR : Field := ⟨.KVM_POOL, 0, 48, .rw, 0, .any⟩
def Fld.KVM_POOL_ENABLE : Field := ⟨.KVM_POOL, 48, 1, .rw, 0, .any⟩
/-! KVM_CMD_RING: 05_attention_state.md R126 -/
def Fld.KVM_CMD_RING_ADDR : Field := ⟨.KVM_CMD_RING, 0, 48, .rw, 0, (.aligned 5)⟩
def Fld.KVM_CMD_RING_SIZE_LOG2 : Field := ⟨.KVM_CMD_RING, 48, 5, .rw, 4, (.range 4 16)⟩
/-! KVM_CMD_TAIL: 05_attention_state.md R126 -/
def Fld.KVM_CMD_TAIL_TAIL : Field := ⟨.KVM_CMD_TAIL, 0, 16, .rw, 0, .any⟩
/-! KVM_CMD_HEAD: 05_attention_state.md R126 -/
def Fld.KVM_CMD_HEAD_HEAD : Field := ⟨.KVM_CMD_HEAD, 0, 16, .ro, 0, .any⟩
/-! KVM_FRAMES: 05_attention_state.md R126 -/
def Fld.KVM_FRAMES_FREE : Field := ⟨.KVM_FRAMES, 0, 32, .ro, 0, .any⟩
def Fld.KVM_FRAMES_GRANULES_FREE : Field := ⟨.KVM_FRAMES, 32, 32, .ro, 0, .any⟩
/-! KVM_PARTIAL_KEY: 05_attention_state.md R126 -/
def Fld.KVM_PARTIAL_KEY_KEY : Field := ⟨.KVM_PARTIAL_KEY, 0, 64, .ro, 0, .any⟩
/-! KVM_COW_COPIES: 05_attention_state.md R126 -/
def Fld.KVM_COW_COPIES_COUNT : Field := ⟨.KVM_COW_COPIES, 0, 64, .ro, 0, .any⟩
/-! KVM_PRUNED: 05_attention_state.md R126 -/
def Fld.KVM_PRUNED_COUNT : Field := ⟨.KVM_PRUNED, 0, 64, .ro, 0, .any⟩
/-! KVM_REMOTE_SENT: 05_attention_state.md R126 -/
def Fld.KVM_REMOTE_SENT_COUNT : Field := ⟨.KVM_REMOTE_SENT, 0, 64, .ro, 0, .any⟩
/-! KVM_REMOTE_LATE: 05_attention_state.md R126 -/
def Fld.KVM_REMOTE_LATE_COUNT : Field := ⟨.KVM_REMOTE_LATE, 0, 64, .ro, 0, .any⟩
/-! KVM_DEGRADED: 05_attention_state.md R126 -/
def Fld.KVM_DEGRADED_COUNT : Field := ⟨.KVM_DEGRADED, 0, 64, .ro, 0, .any⟩
/-! KVM_REMOTE_WAIT_NS: 05_attention_state.md R126 -/
def Fld.KVM_REMOTE_WAIT_NS_COUNT : Field := ⟨.KVM_REMOTE_WAIT_NS, 0, 64, .ro, 0, .any⟩
/-! KVM_ERROR: 05_attention_state.md R126 -/
def Fld.KVM_ERROR_KV_FULL : Field := ⟨.KVM_ERROR, 0, 1, .w1c, 0, .any⟩
def Fld.KVM_ERROR_SEGMENT_INVALID : Field := ⟨.KVM_ERROR, 1, 1, .w1c, 0, .any⟩
def Fld.KVM_ERROR_STATE_LOST : Field := ⟨.KVM_ERROR, 2, 1, .w1c, 0, .any⟩
def Fld.KVM_ERROR_BAD_COMMAND : Field := ⟨.KVM_ERROR, 3, 1, .w1c, 0, .any⟩
def Fld.KVM_ERROR_POOL_INVALID : Field := ⟨.KVM_ERROR, 4, 1, .w1c, 0, .any⟩
/-! KVM_ERROR_INFO: 05_attention_state.md R126 -/
def Fld.KVM_ERROR_INFO_SEQ : Field := ⟨.KVM_ERROR_INFO, 0, 32, .ro, 0, .any⟩
def Fld.KVM_ERROR_INFO_LAYER : Field := ⟨.KVM_ERROR_INFO, 32, 6, .ro, 0, .any⟩
def Fld.KVM_ERROR_INFO_GROUP : Field := ⟨.KVM_ERROR_INFO, 38, 2, .ro, 0, .any⟩
def Fld.KVM_ERROR_INFO_MODEL : Field := ⟨.KVM_ERROR_INFO, 40, 3, .ro, 0, .any⟩
/-! FAB_PORT_CTRL: 10_fabric_transport.md R246 -/
def Fld.FAB_PORT_CTRL_MODE : Field := ⟨.FAB_PORT_CTRL, 0, 3, .rw, 0, (.range 0 5)⟩
def Fld.FAB_PORT_CTRL_ENABLE : Field := ⟨.FAB_PORT_CTRL, 3, 1, .rw, 0, .any⟩
def Fld.FAB_PORT_CTRL_AN_DISABLE : Field := ⟨.FAB_PORT_CTRL, 4, 1, .rw, 0, .any⟩
def Fld.FAB_PORT_CTRL_PFC_CLASSES : Field := ⟨.FAB_PORT_CTRL, 5, 8, .rw, 0, .any⟩
def Fld.FAB_PORT_CTRL_MAX_FRAME : Field := ⟨.FAB_PORT_CTRL, 13, 14, .rw, 0x2400, (.range 1518 9216)⟩
/-! FAB_PORT_STATUS: 10_fabric_transport.md R246 -/
def Fld.FAB_PORT_STATUS_LINK_UP : Field := ⟨.FAB_PORT_STATUS, 0, 1, .ro, 0, .any⟩
def Fld.FAB_PORT_STATUS_MODE : Field := ⟨.FAB_PORT_STATUS, 1, 3, .ro, 0, .any⟩
def Fld.FAB_PORT_STATUS_FEC_LOCK : Field := ⟨.FAB_PORT_STATUS, 4, 1, .ro, 0, .any⟩
def Fld.FAB_PORT_STATUS_DOWN_EVENT : Field := ⟨.FAB_PORT_STATUS, 5, 1, .w1c, 0, .any⟩
/-! FAB_PORT_MAC: 10_fabric_transport.md R246 -/
def Fld.FAB_PORT_MAC_ADDR : Field := ⟨.FAB_PORT_MAC, 0, 48, .rw, 0, .any⟩
/-! FAB_PORT_IPV6_HI: 10_fabric_transport.md R246 -/
def Fld.FAB_PORT_IPV6_HI_ADDR : Field := ⟨.FAB_PORT_IPV6_HI, 0, 64, .rw, 0, .any⟩
/-! FAB_PORT_IPV6_LO: 10_fabric_transport.md R246 -/
def Fld.FAB_PORT_IPV6_LO_ADDR : Field := ⟨.FAB_PORT_IPV6_LO, 0, 64, .rw, 0, .any⟩
/-! FAB_PORT_TX_FRAMES: 10_fabric_transport.md R246 -/
def Fld.FAB_PORT_TX_FRAMES_COUNT : Field := ⟨.FAB_PORT_TX_FRAMES, 0, 64, .ro, 0, .any⟩
/-! FAB_PORT_RX_FRAMES: 10_fabric_transport.md R246 -/
def Fld.FAB_PORT_RX_FRAMES_COUNT : Field := ⟨.FAB_PORT_RX_FRAMES, 0, 64, .ro, 0, .any⟩
/-! FAB_PORT_RX_DROPPED: 10_fabric_transport.md R246 -/
def Fld.FAB_PORT_RX_DROPPED_COUNT : Field := ⟨.FAB_PORT_RX_DROPPED, 0, 64, .ro, 0, .any⟩
/-! FAB_PORT_FEC_CORRECTED: 10_fabric_transport.md R246 -/
def Fld.FAB_PORT_FEC_CORRECTED_COUNT : Field := ⟨.FAB_PORT_FEC_CORRECTED, 0, 64, .ro, 0, .any⟩
/-! FAB_PORT_FEC_UNCORRECTED: 10_fabric_transport.md R246 -/
def Fld.FAB_PORT_FEC_UNCORRECTED_COUNT : Field := ⟨.FAB_PORT_FEC_UNCORRECTED, 0, 64, .ro, 0, .any⟩
/-! FAB_ENCAP: 10_fabric_transport.md R246 -/
def Fld.FAB_ENCAP_ETHERTYPE : Field := ⟨.FAB_ENCAP, 0, 16, .rw, 0x88B5, .any⟩
def Fld.FAB_ENCAP_UDP_PORT : Field := ⟨.FAB_ENCAP, 16, 16, .rw, 0x5190, .any⟩
/-! FAB_CLASS_MAP: 10_fabric_transport.md R246 -/
def Fld.FAB_CLASS_MAP_PCP : Field := ⟨.FAB_CLASS_MAP, 0, 3, .rw, 0, .any⟩
def Fld.FAB_CLASS_MAP_DSCP : Field := ⟨.FAB_CLASS_MAP, 3, 6, .rw, 0, .any⟩
/-! FAB_ACK: 10_fabric_transport.md R246 -/
def Fld.FAB_ACK_DELAY_US : Field := ⟨.FAB_ACK, 0, 4, .rw, 1, .any⟩
/-! FAB_NO_CONNECTION: 10_fabric_transport.md R246 -/
def Fld.FAB_NO_CONNECTION_COUNT : Field := ⟨.FAB_NO_CONNECTION, 0, 64, .ro, 0, .any⟩
/-! FAB_AUTH_FAIL: 10_fabric_transport.md R246 -/
def Fld.FAB_AUTH_FAIL_COUNT : Field := ⟨.FAB_AUTH_FAIL, 0, 64, .ro, 0, .any⟩
/-! FAB_OUT_OF_WINDOW: 10_fabric_transport.md R246 -/
def Fld.FAB_OUT_OF_WINDOW_COUNT : Field := ⟨.FAB_OUT_OF_WINDOW, 0, 64, .ro, 0, .any⟩
/-! FAB_WRONG_DIE: 10_fabric_transport.md R246 -/
def Fld.FAB_WRONG_DIE_COUNT : Field := ⟨.FAB_WRONG_DIE, 0, 64, .ro, 0, .any⟩
/-! FAB_ECN_CE: 10_fabric_transport.md R246 -/
def Fld.FAB_ECN_CE_COUNT : Field := ⟨.FAB_ECN_CE, 0, 64, .ro, 0, .any⟩
/-! FAB_CMD_RING: 10_fabric_transport.md R246 -/
def Fld.FAB_CMD_RING_ADDR : Field := ⟨.FAB_CMD_RING, 0, 48, .rw, 0, (.aligned 5)⟩
def Fld.FAB_CMD_RING_SIZE_LOG2 : Field := ⟨.FAB_CMD_RING, 48, 5, .rw, 4, (.range 4 16)⟩
/-! FAB_CMD_TAIL: 10_fabric_transport.md R246 -/
def Fld.FAB_CMD_TAIL_INDEX : Field := ⟨.FAB_CMD_TAIL, 0, 16, .rw, 0, .any⟩
/-! FAB_CMD_HEAD: 10_fabric_transport.md R246 -/
def Fld.FAB_CMD_HEAD_INDEX : Field := ⟨.FAB_CMD_HEAD, 0, 16, .ro, 0, .any⟩
/-! FAB_ALLOT: 10_fabric_transport.md R246 -/
def Fld.FAB_ALLOT_CONN_FIRST_HD0 : Field := ⟨.FAB_ALLOT, 0, 16, .ro, 0, .any⟩
def Fld.FAB_ALLOT_CONN_COUNT_HD0 : Field := ⟨.FAB_ALLOT, 16, 16, .ro, 0, .any⟩
def Fld.FAB_ALLOT_CONN_FIRST_HD1 : Field := ⟨.FAB_ALLOT, 32, 16, .ro, 0, .any⟩
def Fld.FAB_ALLOT_CONN_COUNT_HD1 : Field := ⟨.FAB_ALLOT, 48, 16, .ro, 0, .any⟩
/-! FAB_REGIONS: 10_fabric_transport.md R246 -/
def Fld.FAB_REGIONS_QUOTA : Field := ⟨.FAB_REGIONS, 0, 21, .ro, 0, .any⟩
def Fld.FAB_REGIONS_USED : Field := ⟨.FAB_REGIONS, 32, 21, .ro, 0, .any⟩
/-! FAB_PACKETS_SENT: 10_fabric_transport.md R246 -/
def Fld.FAB_PACKETS_SENT_COUNT : Field := ⟨.FAB_PACKETS_SENT, 0, 64, .ro, 0, .any⟩
/-! FAB_RETRANSMITS: 10_fabric_transport.md R246 -/
def Fld.FAB_RETRANSMITS_COUNT : Field := ⟨.FAB_RETRANSMITS, 0, 64, .ro, 0, .any⟩
/-! FAB_DUPLICATES: 10_fabric_transport.md R246 -/
def Fld.FAB_DUPLICATES_COUNT : Field := ⟨.FAB_DUPLICATES, 0, 64, .ro, 0, .any⟩
/-! FAB_STALE: 10_fabric_transport.md R246 -/
def Fld.FAB_STALE_COUNT : Field := ⟨.FAB_STALE, 0, 64, .ro, 0, .any⟩
/-! FAB_REVOKED: 10_fabric_transport.md R246 -/
def Fld.FAB_REVOKED_COUNT : Field := ⟨.FAB_REVOKED, 0, 64, .ro, 0, .any⟩
/-! FAB_CONN_FAILED: 10_fabric_transport.md R246 -/
def Fld.FAB_CONN_FAILED_COUNT : Field := ⟨.FAB_CONN_FAILED, 0, 64, .ro, 0, .any⟩
/-! FAB_ERROR: 10_fabric_transport.md R246 -/
def Fld.FAB_ERROR_RETRY_EXCEEDED : Field := ⟨.FAB_ERROR, 0, 1, .w1c, 0, .any⟩
def Fld.FAB_ERROR_BAD_COMMAND : Field := ⟨.FAB_ERROR, 1, 1, .w1c, 0, .any⟩
def Fld.FAB_ERROR_KEY_ABSENT : Field := ⟨.FAB_ERROR, 2, 1, .w1c, 0, .any⟩
def Fld.FAB_ERROR_REKEY_NEEDED : Field := ⟨.FAB_ERROR, 3, 1, .w1c, 0, .any⟩
/-! FAB_ERROR_INFO: 10_fabric_transport.md R246 -/
def Fld.FAB_ERROR_INFO_CONN : Field := ⟨.FAB_ERROR_INFO, 0, 16, .ro, 0, .any⟩
def Fld.FAB_ERROR_INFO_DIE : Field := ⟨.FAB_ERROR_INFO, 16, 1, .ro, 0, .any⟩
def Fld.FAB_ERROR_INFO_OP : Field := ⟨.FAB_ERROR_INFO, 24, 8, .ro, 0, .any⟩
def Fld.FAB_ERROR_INFO_PSN : Field := ⟨.FAB_ERROR_INFO, 32, 32, .ro, 0, .any⟩
/-! SHP_CBS: 12_shaping_arbitration.md R282 -/
def Fld.SHP_CBS_IDLE_SLOPE : Field := ⟨.SHP_CBS, 0, 20, .rw, 0, (.range 0 800000)⟩
def Fld.SHP_CBS_ENABLE : Field := ⟨.SHP_CBS, 20, 1, .rw, 0, .any⟩
def Fld.SHP_CBS_HI_CREDIT : Field := ⟨.SHP_CBS, 32, 32, .rw, 0, .any⟩
/-! SHP_CREDIT: 12_shaping_arbitration.md R282 -/
def Fld.SHP_CREDIT_CREDIT : Field := ⟨.SHP_CREDIT, 0, 32, .ro, 0, .any⟩
/-! SHP_CLASS_OWNER: 12_shaping_arbitration.md R282 -/
def Fld.SHP_CLASS_OWNER_OWNERS : Field := ⟨.SHP_CLASS_OWNER, 0, 64, .ro, 0, .any⟩
/-! GCL_CTRL: 12_shaping_arbitration.md R282 -/
def Fld.GCL_CTRL_ENABLE : Field := ⟨.GCL_CTRL, 0, 1, .rw, 0, .any⟩
def Fld.GCL_CTRL_CONFIG_CHANGE : Field := ⟨.GCL_CTRL, 1, 1, .w1s, 0, .any⟩
def Fld.GCL_CTRL_PENDING : Field := ⟨.GCL_CTRL, 2, 1, .ro, 0, .any⟩
def Fld.GCL_CTRL_CONFIG_ERROR : Field := ⟨.GCL_CTRL, 3, 1, .w1c, 0, .any⟩
def Fld.GCL_CTRL_ADMIN_LENGTH : Field := ⟨.GCL_CTRL, 4, 10, .rw, 1, .any⟩
def Fld.GCL_CTRL_OPER_LENGTH : Field := ⟨.GCL_CTRL, 14, 10, .ro, 1, .any⟩
/-! GCL_ADMIN_BASE_TIME: 12_shaping_arbitration.md R282 -/
def Fld.GCL_ADMIN_BASE_TIME_TIME_NS : Field := ⟨.GCL_ADMIN_BASE_TIME, 0, 64, .rw, 0, .any⟩
/-! GCL_ADMIN_CYCLE: 12_shaping_arbitration.md R282 -/
def Fld.GCL_ADMIN_CYCLE_CYCLE_NS : Field := ⟨.GCL_ADMIN_CYCLE, 0, 32, .rw, 0xF4240, .any⟩
/-! GCL_OPER_BASE_TIME: 12_shaping_arbitration.md R282 -/
def Fld.GCL_OPER_BASE_TIME_TIME_NS : Field := ⟨.GCL_OPER_BASE_TIME, 0, 64, .ro, 0, .any⟩
/-! GCL_OPER_CYCLE: 12_shaping_arbitration.md R282 -/
def Fld.GCL_OPER_CYCLE_CYCLE_NS : Field := ⟨.GCL_OPER_CYCLE, 0, 32, .ro, 0xF4240, .any⟩
/-! GCL_ADMIN_ENTRY: 12_shaping_arbitration.md R282 -/
def Fld.GCL_ADMIN_ENTRY_GATES : Field := ⟨.GCL_ADMIN_ENTRY, 0, 8, .rw, 0xFF, .any⟩
def Fld.GCL_ADMIN_ENTRY_CAL : Field := ⟨.GCL_ADMIN_ENTRY, 8, 1, .rw, 0, .any⟩
def Fld.GCL_ADMIN_ENTRY_DURATION_NS : Field := ⟨.GCL_ADMIN_ENTRY, 32, 32, .rw, 0xF4240, .any⟩
/-! GCL_OPER_ENTRY: 12_shaping_arbitration.md R282 -/
def Fld.GCL_OPER_ENTRY_GATES : Field := ⟨.GCL_OPER_ENTRY, 0, 8, .ro, 0xFF, .any⟩
def Fld.GCL_OPER_ENTRY_CAL : Field := ⟨.GCL_OPER_ENTRY, 8, 1, .ro, 0, .any⟩
def Fld.GCL_OPER_ENTRY_DURATION_NS : Field := ⟨.GCL_OPER_ENTRY, 32, 32, .ro, 0xF4240, .any⟩
/-! GCL_HUB_CTRL: 12_shaping_arbitration.md R282 -/
def Fld.GCL_HUB_CTRL_LENGTH : Field := ⟨.GCL_HUB_CTRL, 0, 10, .ro, 0, .any⟩
def Fld.GCL_HUB_CTRL_ENTRY : Field := ⟨.GCL_HUB_CTRL, 10, 9, .ro, 0, .any⟩
def Fld.GCL_HUB_CTRL_CYCLE_NS : Field := ⟨.GCL_HUB_CTRL, 32, 32, .ro, 0, .any⟩
/-! GCL_HUB_ENTRY: 12_shaping_arbitration.md R282 -/
def Fld.GCL_HUB_ENTRY_STAND : Field := ⟨.GCL_HUB_ENTRY, 16, 5, .ro, 0, .any⟩
def Fld.GCL_HUB_ENTRY_KIND : Field := ⟨.GCL_HUB_ENTRY, 21, 2, .ro, 0, .any⟩
def Fld.GCL_HUB_ENTRY_DURATION_NS : Field := ⟨.GCL_HUB_ENTRY, 32, 32, .ro, 0, .any⟩
/-! SHP_TIME_CTRL: 12_shaping_arbitration.md R282 -/
def Fld.SHP_TIME_CTRL_TIME_PORT : Field := ⟨.SHP_TIME_CTRL, 0, 3, .rw, 0, .any⟩
def Fld.SHP_TIME_CTRL_TRANSPORT : Field := ⟨.SHP_TIME_CTRL, 3, 1, .rw, 0, .any⟩
def Fld.SHP_TIME_CTRL_HOLDOVER_S : Field := ⟨.SHP_TIME_CTRL, 4, 8, .rw, 0xA, (.range 1 255)⟩
/-! SHP_TIME_STATUS: 12_shaping_arbitration.md R282 -/
def Fld.SHP_TIME_STATUS_STATE : Field := ⟨.SHP_TIME_STATUS, 0, 2, .ro, 0, .any⟩
def Fld.SHP_TIME_STATUS_OFFSET_NS : Field := ⟨.SHP_TIME_STATUS, 32, 32, .ro, 0, .any⟩
/-! SHP_SAMPLE_RING: 12_shaping_arbitration.md R282 -/
def Fld.SHP_SAMPLE_RING_ADDR : Field := ⟨.SHP_SAMPLE_RING, 0, 48, .rw, 0, (.aligned 5)⟩
def Fld.SHP_SAMPLE_RING_SIZE_LOG2 : Field := ⟨.SHP_SAMPLE_RING, 48, 5, .rw, 4, (.range 4 20)⟩
def Fld.SHP_SAMPLE_RING_ENABLE : Field := ⟨.SHP_SAMPLE_RING, 53, 1, .rw, 0, .any⟩
/-! SHP_SAMPLE_CTRL: 12_shaping_arbitration.md R282 -/
def Fld.SHP_SAMPLE_CTRL_PERIOD_US : Field := ⟨.SHP_SAMPLE_CTRL, 0, 16, .rw, 0x3E8, (.range 1 65535)⟩
def Fld.SHP_SAMPLE_CTRL_QUEUE_MASK : Field := ⟨.SHP_SAMPLE_CTRL, 32, 32, .rw, 0, .any⟩
/-! SHP_SAMPLE_MASK_LO: 12_shaping_arbitration.md R282 -/
def Fld.SHP_SAMPLE_MASK_LO_MASK : Field := ⟨.SHP_SAMPLE_MASK_LO, 0, 32, .rw, 0, .any⟩
/-! SHP_SAMPLE_HEAD: 12_shaping_arbitration.md R282 -/
def Fld.SHP_SAMPLE_HEAD_INDEX : Field := ⟨.SHP_SAMPLE_HEAD, 0, 20, .rw, 0, .any⟩
/-! SHP_SAMPLE_STATUS: 12_shaping_arbitration.md R282 -/
def Fld.SHP_SAMPLE_STATUS_TAIL : Field := ⟨.SHP_SAMPLE_STATUS, 0, 20, .ro, 0, .any⟩
def Fld.SHP_SAMPLE_STATUS_DROPPED : Field := ⟨.SHP_SAMPLE_STATUS, 20, 12, .rc, 0, .any⟩
/-! ARB_CTRL: 12_shaping_arbitration.md R282 -/
def Fld.ARB_CTRL_FREEZE : Field := ⟨.ARB_CTRL, 0, 1, .rw, 0, .any⟩
def Fld.ARB_CTRL_BURST_LIMIT : Field := ⟨.ARB_CTRL, 1, 16, .rw, 0x40, .any⟩
def Fld.ARB_CTRL_DRAIN_TIMEOUT_US : Field := ⟨.ARB_CTRL, 17, 15, .rw, 0x64, (.range 1 32767)⟩
/-! ARB_STATUS: 12_shaping_arbitration.md R282 -/
def Fld.ARB_STATUS_OWNER : Field := ⟨.ARB_STATUS, 0, 5, .ro, 0, .any⟩
def Fld.ARB_STATUS_GRANTED : Field := ⟨.ARB_STATUS, 5, 1, .ro, 0, .any⟩
def Fld.ARB_STATUS_FROZEN : Field := ⟨.ARB_STATUS, 6, 1, .ro, 0, .any⟩
def Fld.ARB_STATUS_DRAINED : Field := ⟨.ARB_STATUS, 7, 1, .ro, 0, .any⟩
/-! ARB_ABORTED: 12_shaping_arbitration.md R282 -/
def Fld.ARB_ABORTED_COUNT : Field := ⟨.ARB_ABORTED, 0, 64, .ro, 0, .any⟩
/-! ASR_CTRL: 13_associative_search.md R295 -/
def Fld.ASR_CTRL_HOLE_INTERVAL : Field := ⟨.ASR_CTRL, 0, 6, .rw, 0x10, .holes⟩
def Fld.ASR_CTRL_SCRUB_MS : Field := ⟨.ASR_CTRL, 6, 8, .rw, 0xA, (.range 10 255)⟩
/-! ASR_STATUS: 13_associative_search.md R295 -/
def Fld.ASR_STATUS_THROTTLE : Field := ⟨.ASR_STATUS, 0, 2, .ro, 0, .any⟩
def Fld.ASR_STATUS_SCRUB_BANK : Field := ⟨.ASR_STATUS, 2, 5, .ro, 0, .any⟩
/-! ASR_SEARCHES: 13_associative_search.md R295 -/
def Fld.ASR_SEARCHES_COUNT : Field := ⟨.ASR_SEARCHES, 0, 64, .ro, 0, .any⟩
/-! ASR_REPAIRED: 13_associative_search.md R295 -/
def Fld.ASR_REPAIRED_COUNT : Field := ⟨.ASR_REPAIRED, 0, 64, .ro, 0, .any⟩
/-! ASR_LOST: 13_associative_search.md R295 -/
def Fld.ASR_LOST_COUNT : Field := ⟨.ASR_LOST, 0, 64, .ro, 0, .any⟩
/-! ASR_CLASSIFIER_DROPS: 13_associative_search.md R295 -/
def Fld.ASR_CLASSIFIER_DROPS_COUNT : Field := ⟨.ASR_CLASSIFIER_DROPS, 0, 64, .ro, 0, .any⟩
/-! ASR_CMD_RING: 13_associative_search.md R295 -/
def Fld.ASR_CMD_RING_ADDR : Field := ⟨.ASR_CMD_RING, 0, 48, .rw, 0, (.aligned 5)⟩
def Fld.ASR_CMD_RING_SIZE_LOG2 : Field := ⟨.ASR_CMD_RING, 48, 5, .rw, 4, (.range 4 16)⟩
/-! ASR_CMD_TAIL: 13_associative_search.md R295 -/
def Fld.ASR_CMD_TAIL_INDEX : Field := ⟨.ASR_CMD_TAIL, 0, 16, .rw, 0, .any⟩
/-! ASR_CMD_HEAD: 13_associative_search.md R295 -/
def Fld.ASR_CMD_HEAD_INDEX : Field := ⟨.ASR_CMD_HEAD, 0, 16, .ro, 0, .any⟩
/-! ASR_ERROR: 13_associative_search.md R295 -/
def Fld.ASR_ERROR_ENTRY_LOST : Field := ⟨.ASR_ERROR, 0, 1, .w1c, 0, .any⟩
def Fld.ASR_ERROR_TABLE_FULL : Field := ⟨.ASR_ERROR, 1, 1, .w1c, 0, .any⟩
def Fld.ASR_ERROR_BANK_FAILED : Field := ⟨.ASR_ERROR, 2, 1, .w1c, 0, .any⟩
/-! ASR_ERROR_INFO: 13_associative_search.md R295 -/
def Fld.ASR_ERROR_INFO_BANK : Field := ⟨.ASR_ERROR_INFO, 0, 6, .ro, 0, .any⟩
def Fld.ASR_ERROR_INFO_SLOT : Field := ⟨.ASR_ERROR_INFO, 6, 12, .ro, 0, .any⟩
def Fld.ASR_ERROR_INFO_KIND : Field := ⟨.ASR_ERROR_INFO, 18, 2, .ro, 0, .any⟩
def Fld.ASR_ERROR_INFO_STAND : Field := ⟨.ASR_ERROR_INFO, 20, 5, .ro, 0, .any⟩
/-! ASR_BANK_CFG: 13_associative_search.md R295 -/
def Fld.ASR_BANK_CFG_KIND : Field := ⟨.ASR_BANK_CFG, 0, 2, .ro, 0, .any⟩
def Fld.ASR_BANK_CFG_STAND : Field := ⟨.ASR_BANK_CFG, 2, 5, .ro, 0, .any⟩
def Fld.ASR_BANK_CFG_WIDTH : Field := ⟨.ASR_BANK_CFG, 7, 2, .ro, 0, .any⟩
def Fld.ASR_BANK_CFG_MODE : Field := ⟨.ASR_BANK_CFG, 9, 1, .ro, 1, .any⟩
def Fld.ASR_BANK_CFG_IN_SERVICE : Field := ⟨.ASR_BANK_CFG, 10, 1, .ro, 1, .any⟩
def Fld.ASR_BANK_CFG_USED : Field := ⟨.ASR_BANK_CFG, 12, 13, .ro, 0, .any⟩
/-! FMM_CMD_RING: 11_fabric_memory.md R267 -/
def Fld.FMM_CMD_RING_ADDR : Field := ⟨.FMM_CMD_RING, 0, 48, .rw, 0, (.aligned 5)⟩
def Fld.FMM_CMD_RING_SIZE_LOG2 : Field := ⟨.FMM_CMD_RING, 48, 5, .rw, 4, (.range 4 16)⟩
/-! FMM_CMD_TAIL: 11_fabric_memory.md R267 -/
def Fld.FMM_CMD_TAIL_INDEX : Field := ⟨.FMM_CMD_TAIL, 0, 16, .rw, 0, .any⟩
/-! FMM_CMD_HEAD: 11_fabric_memory.md R267 -/
def Fld.FMM_CMD_HEAD_INDEX : Field := ⟨.FMM_CMD_HEAD, 0, 16, .ro, 0, .any⟩
/-! FMM_CTRL: 11_fabric_memory.md R267 -/
def Fld.FMM_CTRL_COALESCE_NS : Field := ⟨.FMM_CTRL, 0, 10, .rw, 0x64, (.range 0 1000)⟩
def Fld.FMM_CTRL_SHED : Field := ⟨.FMM_CTRL, 10, 3, .rw, 1, .any⟩
def Fld.FMM_CTRL_SUSPECT_INT : Field := ⟨.FMM_CTRL, 13, 1, .rw, 0, .any⟩
/-! FMM_STATUS: 11_fabric_memory.md R267 -/
def Fld.FMM_STATUS_SUSPECT : Field := ⟨.FMM_STATUS, 0, 1, .ro, 0, .any⟩
def Fld.FMM_STATUS_MAP_ALLOTTED : Field := ⟨.FMM_STATUS, 1, 20, .ro, 0, .any⟩
def Fld.FMM_STATUS_MAP_USED : Field := ⟨.FMM_STATUS, 21, 20, .ro, 0, .any⟩
def Fld.FMM_STATUS_GROUPS : Field := ⟨.FMM_STATUS, 41, 11, .ro, 0, .any⟩
/-! FMM_OPS_ISSUED: 11_fabric_memory.md R267 -/
def Fld.FMM_OPS_ISSUED_COUNT : Field := ⟨.FMM_OPS_ISSUED, 0, 64, .ro, 0, .any⟩
/-! FMM_OPS_SERVED: 11_fabric_memory.md R267 -/
def Fld.FMM_OPS_SERVED_COUNT : Field := ⟨.FMM_OPS_SERVED, 0, 64, .ro, 0, .any⟩
/-! FMM_FENCES: 11_fabric_memory.md R267 -/
def Fld.FMM_FENCES_COUNT : Field := ⟨.FMM_FENCES, 0, 64, .ro, 0, .any⟩
/-! FMM_BARRIERS: 11_fabric_memory.md R267 -/
def Fld.FMM_BARRIERS_COUNT : Field := ⟨.FMM_BARRIERS, 0, 64, .ro, 0, .any⟩
/-! FMM_ERROR: 11_fabric_memory.md R267 -/
def Fld.FMM_ERROR_NO_MAPPING : Field := ⟨.FMM_ERROR, 0, 1, .w1c, 0, .any⟩
def Fld.FMM_ERROR_BAD_REGION : Field := ⟨.FMM_ERROR, 1, 1, .w1c, 0, .any⟩
def Fld.FMM_ERROR_RETRY_EXCEEDED : Field := ⟨.FMM_ERROR, 2, 1, .w1c, 0, .any⟩
def Fld.FMM_ERROR_BARRIER_TIMEOUT : Field := ⟨.FMM_ERROR, 3, 1, .w1c, 0, .any⟩
def Fld.FMM_ERROR_BAD_COMMAND : Field := ⟨.FMM_ERROR, 4, 1, .w1c, 0, .any⟩
/-! FMM_ERROR_INFO: 11_fabric_memory.md R267 -/
def Fld.FMM_ERROR_INFO_FADDR : Field := ⟨.FMM_ERROR_INFO, 0, 64, .ro, 0, .any⟩
/-! DDR_CHAN: 21_address_map.md R426 -/
def Fld.DDR_CHAN_TYPE : Field := ⟨.DDR_CHAN, 0, 2, .ro, 0, .any⟩
def Fld.DDR_CHAN_DIMMS : Field := ⟨.DDR_CHAN, 2, 2, .ro, 0, .any⟩
def Fld.DDR_CHAN_TRAINED : Field := ⟨.DDR_CHAN, 4, 1, .ro, 0, .any⟩
def Fld.DDR_CHAN_IN_SERVICE : Field := ⟨.DDR_CHAN, 5, 1, .ro, 0, .any⟩
def Fld.DDR_CHAN_STAND : Field := ⟨.DDR_CHAN, 6, 5, .ro, 0, .any⟩
def Fld.DDR_CHAN_ALLOTTED : Field := ⟨.DDR_CHAN, 11, 1, .ro, 0, .any⟩
def Fld.DDR_CHAN_MTS : Field := ⟨.DDR_CHAN, 16, 16, .ro, 0, .any⟩
def Fld.DDR_CHAN_CAPACITY_GIB : Field := ⟨.DDR_CHAN, 32, 16, .ro, 0, .any⟩
/-! DDR_ECC: 21_address_map.md R426 -/
def Fld.DDR_ECC_CORRECTED : Field := ⟨.DDR_ECC, 0, 32, .rc, 0, .any⟩
def Fld.DDR_ECC_UNCORRECTED : Field := ⟨.DDR_ECC, 32, 16, .rc, 0, .any⟩
/-! HBM_STACK: 21_address_map.md R426 -/
def Fld.HBM_STACK_TRAINED : Field := ⟨.HBM_STACK, 0, 1, .ro, 0, .any⟩
def Fld.HBM_STACK_TEMP_C : Field := ⟨.HBM_STACK, 8, 8, .ro, 0, .any⟩
def Fld.HBM_STACK_CAL_FAILS : Field := ⟨.HBM_STACK, 16, 8, .rc, 0, .any⟩
/-! HBM_ECC: 21_address_map.md R426 -/
def Fld.HBM_ECC_CORRECTED : Field := ⟨.HBM_ECC, 0, 32, .rc, 0, .any⟩
def Fld.HBM_ECC_UNCORRECTED : Field := ⟨.HBM_ECC, 32, 16, .rc, 0, .any⟩
/-! MXC_STATUS: 03_matrix_cores.md R80 -/
def Fld.MXC_STATUS_STATE : Field := ⟨.MXC_STATUS, 0, 2, .ro, 0, .any⟩
def Fld.MXC_STATUS_GROUP_LOG2 : Field := ⟨.MXC_STATUS, 2, 3, .ro, 0, .any⟩
def Fld.MXC_STATUS_POSITION : Field := ⟨.MXC_STATUS, 5, 4, .ro, 0, .any⟩
def Fld.MXC_STATUS_GROUP : Field := ⟨.MXC_STATUS, 9, 4, .ro, 0, .any⟩
def Fld.MXC_STATUS_STAND : Field := ⟨.MXC_STATUS, 13, 5, .ro, 0, .any⟩
def Fld.MXC_STATUS_STAND_VALID : Field := ⟨.MXC_STATUS, 18, 1, .ro, 0, .any⟩
/-! MXC_BUSY_CYCLES: 03_matrix_cores.md R80 -/
def Fld.MXC_BUSY_CYCLES_CYCLES : Field := ⟨.MXC_BUSY_CYCLES, 0, 64, .ro, 0, .any⟩
/-! MXC_STALL_CYCLES: 03_matrix_cores.md R80 -/
def Fld.MXC_STALL_CYCLES_CYCLES : Field := ⟨.MXC_STALL_CYCLES, 0, 64, .ro, 0, .any⟩
/-! MXC_PASSES: 03_matrix_cores.md R80 -/
def Fld.MXC_PASSES_COUNT : Field := ⟨.MXC_PASSES, 0, 64, .ro, 0, .any⟩
/-! MXC_ERROR: 03_matrix_cores.md R80 -/
def Fld.MXC_ERROR_BAD_ENCODING : Field := ⟨.MXC_ERROR, 0, 1, .w1c, 0, .any⟩
def Fld.MXC_ERROR_WEIGHT_POISONED : Field := ⟨.MXC_ERROR, 1, 1, .w1c, 0, .any⟩
def Fld.MXC_ERROR_ACT_POISONED : Field := ⟨.MXC_ERROR, 2, 1, .w1c, 0, .any⟩
def Fld.MXC_ERROR_CORE_FAILED : Field := ⟨.MXC_ERROR, 3, 1, .w1c, 0, .any⟩
/-! MXC_ERROR_INFO: 03_matrix_cores.md R80 -/
def Fld.MXC_ERROR_INFO_OP_INDEX : Field := ⟨.MXC_ERROR_INFO, 0, 16, .ro, 0, .any⟩
def Fld.MXC_ERROR_INFO_WSD_INDEX : Field := ⟨.MXC_ERROR_INFO, 16, 16, .ro, 0, .any⟩
def Fld.MXC_ERROR_INFO_MODEL : Field := ⟨.MXC_ERROR_INFO, 32, 3, .ro, 0, .any⟩
def Fld.MXC_ERROR_INFO_LAYER : Field := ⟨.MXC_ERROR_INFO, 35, 8, .ro, 0, .any⟩
/-! VEC_STATUS: 04_vector_cores.md R102 -/
def Fld.VEC_STATUS_IN_SERVICE : Field := ⟨.VEC_STATUS, 0, 10, .ro, 0x360, .any⟩
def Fld.VEC_STATUS_BUSY : Field := ⟨.VEC_STATUS, 10, 10, .ro, 0, .any⟩
def Fld.VEC_STATUS_STAND : Field := ⟨.VEC_STATUS, 20, 5, .ro, 0, .any⟩
def Fld.VEC_STATUS_STAND_VALID : Field := ⟨.VEC_STATUS, 25, 1, .ro, 0, .any⟩
/-! VEC_BUSY_CYCLES: 04_vector_cores.md R102 -/
def Fld.VEC_BUSY_CYCLES_CYCLES : Field := ⟨.VEC_BUSY_CYCLES, 0, 64, .ro, 0, .any⟩
/-! VEC_TASKS: 04_vector_cores.md R102 -/
def Fld.VEC_TASKS_COUNT : Field := ⟨.VEC_TASKS, 0, 64, .ro, 0, .any⟩
/-! VEC_KERNEL_LOADS: 04_vector_cores.md R102 -/
def Fld.VEC_KERNEL_LOADS_COUNT : Field := ⟨.VEC_KERNEL_LOADS, 0, 64, .ro, 0, .any⟩
/-! VEC_LS_CORRECTED: 04_vector_cores.md R102 -/
def Fld.VEC_LS_CORRECTED_COUNT : Field := ⟨.VEC_LS_CORRECTED, 0, 32, .rc, 0, .any⟩
/-! VEC_ERROR: 04_vector_cores.md R102 -/
def Fld.VEC_ERROR_TASK_FAULT : Field := ⟨.VEC_ERROR, 0, 1, .w1c, 0, .any⟩
def Fld.VEC_ERROR_DATA_POISONED : Field := ⟨.VEC_ERROR, 1, 1, .w1c, 0, .any⟩
def Fld.VEC_ERROR_TASK_TIMEOUT : Field := ⟨.VEC_ERROR, 2, 1, .w1c, 0, .any⟩
def Fld.VEC_ERROR_LS_POISONED : Field := ⟨.VEC_ERROR, 3, 1, .w1c, 0, .any⟩
def Fld.VEC_ERROR_VCORE_FAILED : Field := ⟨.VEC_ERROR, 4, 1, .w1c, 0, .any⟩
/-! VEC_ERROR_INFO: 04_vector_cores.md R102 -/
def Fld.VEC_ERROR_INFO_CORE : Field := ⟨.VEC_ERROR_INFO, 0, 10, .ro, 0, .any⟩
def Fld.VEC_ERROR_INFO_TASK : Field := ⟨.VEC_ERROR_INFO, 10, 20, .ro, 0, .any⟩
def Fld.VEC_ERROR_INFO_KERNEL : Field := ⟨.VEC_ERROR_INFO, 30, 12, .ro, 0, .any⟩
def Fld.VEC_ERROR_INFO_PC : Field := ⟨.VEC_ERROR_INFO, 42, 12, .ro, 0, .any⟩
/-! VEC_CORE_MASK: 04_vector_cores.md R102 -/
def Fld.VEC_CORE_MASK_OUT : Field := ⟨.VEC_CORE_MASK, 0, 64, .ro, 0, .any⟩
/-! QW_APERTURE_BASE: 20_host_interface.md R424 -/
def Fld.QW_APERTURE_BASE_ADDR : Field := ⟨.QW_APERTURE_BASE, 0, 48, .rw, 0, (.aligned 15)⟩
/-! QW_COPY_RING: 20_host_interface.md R424 -/
def Fld.QW_COPY_RING_ADDR : Field := ⟨.QW_COPY_RING, 0, 48, .rw, 0, (.aligned 5)⟩
def Fld.QW_COPY_RING_SIZE_LOG2 : Field := ⟨.QW_COPY_RING, 48, 5, .rw, 4, (.range 4 16)⟩
def Fld.QW_COPY_RING_ENABLE : Field := ⟨.QW_COPY_RING, 53, 1, .rw, 0, .any⟩
def Fld.QW_COPY_RING_INTERRUPT : Field := ⟨.QW_COPY_RING, 54, 1, .rw, 0, .any⟩
/-! QW_COPY_TAIL: 20_host_interface.md R424 -/
def Fld.QW_COPY_TAIL_INDEX : Field := ⟨.QW_COPY_TAIL, 0, 16, .rw, 0, .any⟩
/-! QW_COPY_HEAD: 20_host_interface.md R424 -/
def Fld.QW_COPY_HEAD_INDEX : Field := ⟨.QW_COPY_HEAD, 0, 16, .ro, 0, .any⟩
/-! QW_STATUS: 20_host_interface.md R424 -/
def Fld.QW_STATUS_BAD_DOORBELLS : Field := ⟨.QW_STATUS, 0, 16, .rc, 0, .any⟩

/-- The fields of each register, low bits first; bits in no field are reserved and read 0. -/
def Reg.fields : Reg → List Field
  | .GLB_ID => [Fld.GLB_ID_PART, Fld.GLB_ID_STEP_MAJOR, Fld.GLB_ID_STEP_MINOR]
  | .GLB_STAND => [Fld.GLB_STAND_GROVES, Fld.GLB_STAND_VALID, Fld.GLB_STAND_ROLE, Fld.GLB_STAND_SEALED, Fld.GLB_STAND_SEQUENCER, Fld.GLB_STAND_HUB_HALF_STACKS, Fld.GLB_STAND_DDR_CHANNELS]
  | .GLB_DLINK_STATUS => [Fld.GLB_DLINK_STATUS_MODULES, Fld.GLB_DLINK_STATUS_FULL, Fld.GLB_DLINK_STATUS_HALF, Fld.GLB_DLINK_STATUS_TRAINED, Fld.GLB_DLINK_STATUS_NARROWED, Fld.GLB_DLINK_STATUS_DOWN]
  | .CFG_STATUS => [Fld.CFG_STATUS_STATE, Fld.CFG_STATUS_ACTIVE_SLOT, Fld.CFG_STATUS_FALLBACK]
  | .CFG_SLOT_A => [Fld.CFG_SLOT_A_RESULT, Fld.CFG_SLOT_A_COMMITTED, Fld.CFG_SLOT_A_IMAGE_SEQ]
  | .CFG_SLOT_B => [Fld.CFG_SLOT_B_RESULT, Fld.CFG_SLOT_B_COMMITTED, Fld.CFG_SLOT_B_IMAGE_SEQ]
  | .CFG_REPLACE => [Fld.CFG_REPLACE_STAND, Fld.CFG_REPLACE_PHASE, Fld.CFG_REPLACE_UNREPORTED, Fld.CFG_REPLACE_REMAINING]
  | .CFG_MB_CTRL => [Fld.CFG_MB_CTRL_GO, Fld.CFG_MB_CTRL_BUSY, Fld.CFG_MB_CTRL_DONE, Fld.CFG_MB_CTRL_INTERRUPT, Fld.CFG_MB_CTRL_OVERRUN, Fld.CFG_MB_CTRL_RETRY_MS]
  | .CFG_MB_DATA => [Fld.CFG_MB_DATA_DATA]
  | .CLK_STATUS => [Fld.CLK_STATUS_LOCKED, Fld.CLK_STATUS_ROOT_MHZ]
  | .RST_CTRL => [Fld.RST_CTRL_KEY, Fld.RST_CTRL_PKG_RESET]
  | .RST_CAUSE => [Fld.RST_CAUSE_CAUSE]
  | .RST_STAND_CMD => [Fld.RST_STAND_CMD_STAND, Fld.RST_STAND_CMD_GO, Fld.RST_STAND_CMD_BUSY, Fld.RST_STAND_CMD_DONE, Fld.RST_STAND_CMD_DRAIN_MS, Fld.RST_STAND_CMD_RESULT, Fld.RST_STAND_CMD_UNREPORTED]
  | .RST_TEST_CTRL => [Fld.RST_TEST_CTRL_GROVES, Fld.RST_TEST_CTRL_LOGIC, Fld.RST_TEST_CTRL_SRAM, Fld.RST_TEST_CTRL_HBM, Fld.RST_TEST_CTRL_DRAIN, Fld.RST_TEST_CTRL_GO]
  | .RST_TEST_STATUS => [Fld.RST_TEST_STATUS_STATE, Fld.RST_TEST_STATUS_OVERRUN, Fld.RST_TEST_STATUS_RESULT, Fld.RST_TEST_STATUS_FAILED]
  | .RST_GROVE_STATUS => [Fld.RST_GROVE_STATUS_OUT_OF_SERVICE, Fld.RST_GROVE_STATUS_UNDER_TEST]
  | .GLB_LINK_STATUS => [Fld.GLB_LINK_STATUS_WIDTH, Fld.GLB_LINK_STATUS_RATE_GTS, Fld.GLB_LINK_STATUS_LINK_UP, Fld.GLB_LINK_STATUS_DOWN_EVENT, Fld.GLB_LINK_STATUS_IDE_IO, Fld.GLB_LINK_STATUS_IDE_CM]
  | .GLB_HDM_STATUS => [Fld.GLB_HDM_STATUS_BACKED, Fld.GLB_HDM_STATUS_HALF_STACK, Fld.GLB_HDM_STATUS_ZEROING, Fld.GLB_HDM_STATUS_WITHDRAWN]
  | .GLB_IDE_PSK => [Fld.GLB_IDE_PSK_KEY]
  | .PWR_STATUS => [Fld.PWR_STATUS_STATE, Fld.PWR_STATUS_LEVEL, Fld.PWR_STATUS_POWER_CAUSE, Fld.PWR_STATUS_THERMAL_CAUSE]
  | .PWR_VID => [Fld.PWR_VID_VID_MV, Fld.PWR_VID_APPLIED]
  | .PWR_RAIL => [Fld.PWR_RAIL_MV, Fld.PWR_RAIL_DECIAMPS, Fld.PWR_RAIL_PEAK_DECIAMPS]
  | .PWR_PACKAGE_UJ => [Fld.PWR_PACKAGE_UJ_COUNT]
  | .PWR_BALLAST_UJ => [Fld.PWR_BALLAST_UJ_COUNT]
  | .PWR_GOV_STATUS => [Fld.PWR_GOV_STATUS_WINDOW_W, Fld.PWR_GOV_STATUS_STOP_WINDOW_W, Fld.PWR_GOV_STATUS_BALLAST_CORES, Fld.PWR_GOV_STATUS_WAITING]
  | .PWR_COEF => [Fld.PWR_COEF_COEF]
  | .THM_STATUS => [Fld.THM_STATUS_MAX_COMPUTE_C, Fld.THM_STATUS_MAX_HUB_C, Fld.THM_STATUS_HOTTEST_DIE, Fld.THM_STATUS_TRIPS]
  | .THM_CTRL => [Fld.THM_CTRL_THROTTLE_C]
  | .THM_DIE => [Fld.THM_DIE_MAX_C, Fld.THM_DIE_PEAK_C]
  | .HWD_STATUS => [Fld.HWD_STATUS_STATE, Fld.HWD_STATUS_OWNED, Fld.HWD_STATUS_OWNER_SLOT, Fld.HWD_STATUS_STAGED, Fld.HWD_STATUS_FW_FALLBACK, Fld.HWD_STATUS_RELAY_READY, Fld.HWD_STATUS_RETRY_MS]
  | .HWD_SERIAL => [Fld.HWD_SERIAL_SERIAL]
  | .HWD_SVN => [Fld.HWD_SVN_RUNNING_SVN, Fld.HWD_SVN_FUSED_SVN]
  | .HWD_LMS => [Fld.HWD_LMS_BLOCKS_USED, Fld.HWD_LMS_SIGNED, Fld.HWD_LMS_INDEX_LOW, Fld.HWD_LMS_EXHAUSTED, Fld.HWD_LMS_MIRROR_REPAIRED]
  | .HWD_ERROR => [Fld.HWD_ERROR_SIGNATURE_INVALID, Fld.HWD_ERROR_KEY_REFUSED, Fld.HWD_ERROR_LMS_FUSE_FAILED, Fld.HWD_ERROR_JOIN_FAILED, Fld.HWD_ERROR_LOG_FULL]
  | .HWD_ERROR_INFO => [Fld.HWD_ERROR_INFO_OP, Fld.HWD_ERROR_INFO_MAILBOX, Fld.HWD_ERROR_INFO_KEY_ID, Fld.HWD_ERROR_INFO_STATUS]
  | .HWD_MB_CTRL => [Fld.HWD_MB_CTRL_GO, Fld.HWD_MB_CTRL_BUSY, Fld.HWD_MB_CTRL_DONE, Fld.HWD_MB_CTRL_INTERRUPT, Fld.HWD_MB_CTRL_OVERRUN, Fld.HWD_MB_CTRL_RETRY_MS]
  | .HWD_MB_DATA => [Fld.HWD_MB_DATA_DATA]
  | .EVR_CTRL => [Fld.EVR_CTRL_FLOOD_LIMIT]
  | .EVR_RING => [Fld.EVR_RING_ADDR, Fld.EVR_RING_SIZE_LOG2, Fld.EVR_RING_ENABLE, Fld.EVR_RING_INTERRUPT]
  | .EVR_HEAD => [Fld.EVR_HEAD_INDEX]
  | .EVR_TAIL => [Fld.EVR_TAIL_INDEX]
  | .EVR_DROPPED => [Fld.EVR_DROPPED_COUNT]
  | .EVR_STATUS => [Fld.EVR_STATUS_PACKAGE_FAULT, Fld.EVR_STATUS_FAULT_BLOCK, Fld.EVR_STATUS_SNAPS_SKIPPED]
  | .EVR_STEWARD_OUT => [Fld.EVR_STEWARD_OUT_OUT]
  | .EVR_DDR_OUT => [Fld.EVR_DDR_OUT_OUT]
  | .EVR_HBM_OUT => [Fld.EVR_HBM_OUT_OUT]
  | .EVR_RETURN_CMD => [Fld.EVR_RETURN_CMD_KIND, Fld.EVR_RETURN_CMD_INDEX, Fld.EVR_RETURN_CMD_GO, Fld.EVR_RETURN_CMD_BUSY, Fld.EVR_RETURN_CMD_DONE, Fld.EVR_RETURN_CMD_RESULT]
  | .EVR_SNAP_SEL => [Fld.EVR_SNAP_SEL_OFFSET, Fld.EVR_SNAP_SEL_WIDE, Fld.EVR_SNAP_SEL_ENABLE]
  | .EVR_SNAP_TRIG => [Fld.EVR_SNAP_TRIG_CODE, Fld.EVR_SNAP_TRIG_ENABLE]
  | .EVR_STAND_RING => [Fld.EVR_STAND_RING_ADDR, Fld.EVR_STAND_RING_SIZE_LOG2, Fld.EVR_STAND_RING_ENABLE, Fld.EVR_STAND_RING_TARGET, Fld.EVR_STAND_RING_INTERRUPT]
  | .EVR_STAND_HEAD => [Fld.EVR_STAND_HEAD_INDEX]
  | .EVR_STAND_TAIL => [Fld.EVR_STAND_TAIL_INDEX]
  | .EVR_STAND_DROPPED => [Fld.EVR_STAND_DROPPED_COUNT]
  | .SCH_STATUS => [Fld.SCH_STATUS_STATE, Fld.SCH_STATUS_MODEL, Fld.SCH_STATUS_DRAFT, Fld.SCH_STATUS_ROWS]
  | .SCH_STEP => [Fld.SCH_STEP_COUNT]
  | .SCH_NOW => [Fld.SCH_NOW_COUNT]
  | .SCH_SQ_BASE => [Fld.SCH_SQ_BASE_ADDR, Fld.SCH_SQ_BASE_SIZE_LOG2, Fld.SCH_SQ_BASE_ENABLE, Fld.SCH_SQ_BASE_TAIL_SOURCE, Fld.SCH_SQ_BASE_DEFAULT_CQ]
  | .SCH_SQ_TAILWORD => [Fld.SCH_SQ_TAILWORD_TAIL_ADDR]
  | .SCH_SQ_TAIL => [Fld.SCH_SQ_TAIL_INDEX]
  | .SCH_SQ_HEAD => [Fld.SCH_SQ_HEAD_INDEX]
  | .SCH_CQ_BASE => [Fld.SCH_CQ_BASE_ADDR, Fld.SCH_CQ_BASE_SIZE_LOG2, Fld.SCH_CQ_BASE_ENABLE, Fld.SCH_CQ_BASE_TARGET, Fld.SCH_CQ_BASE_INTERRUPT]
  | .SCH_CQ_HEAD => [Fld.SCH_CQ_HEAD_INDEX]
  | .SCH_CQ_TAIL => [Fld.SCH_CQ_TAIL_INDEX]
  | .SCH_CUSTOMERS => [Fld.SCH_CUSTOMERS_ADDR, Fld.SCH_CUSTOMERS_LOG2]
  | .SCH_ACCT_SNAP => [Fld.SCH_ACCT_SNAP_SNAP]
  | .SCH_ACCT => [Fld.SCH_ACCT_COUNT]
  | .SCH_SNAP => [Fld.SCH_SNAP_COUNT]
  | .SCH_ERROR => [Fld.SCH_ERROR_REQUEST_INVALID, Fld.SCH_ERROR_INTAKE_PAUSED, Fld.SCH_ERROR_CQ_HELD, Fld.SCH_ERROR_DEADLINE_MISS]
  | .SCH_ERROR_INFO => [Fld.SCH_ERROR_INFO_SEQ, Fld.SCH_ERROR_INFO_QUEUE, Fld.SCH_ERROR_INFO_STATUS]
  | .SWY_CMD_RING => [Fld.SWY_CMD_RING_ADDR, Fld.SWY_CMD_RING_SIZE_LOG2, Fld.SWY_CMD_RING_INTERRUPT]
  | .SWY_CMD_TAIL => [Fld.SWY_CMD_TAIL_INDEX]
  | .SWY_CMD_HEAD => [Fld.SWY_CMD_HEAD_INDEX]
  | .SWY_EVT_RING => [Fld.SWY_EVT_RING_ADDR, Fld.SWY_EVT_RING_SIZE_LOG2, Fld.SWY_EVT_RING_INTERRUPT]
  | .SWY_EVT_HEAD => [Fld.SWY_EVT_HEAD_INDEX]
  | .SWY_EVT_TAIL => [Fld.SWY_EVT_TAIL_INDEX]
  | .SWY_CONFIG => [Fld.SWY_CONFIG_ARRIVAL_CQ, Fld.SWY_CONFIG_HANDOFF_TIMEOUT_MS, Fld.SWY_CONFIG_ORPHAN_TIER, Fld.SWY_CONFIG_ORPHAN_TTL_S, Fld.SWY_CONFIG_SEAL_KEY_ID]
  | .SWY_SEQ_RANGE => [Fld.SWY_SEQ_RANGE_FIRST, Fld.SWY_SEQ_RANGE_COUNT]
  | .SWY_HISTORY_POOL => [Fld.SWY_HISTORY_POOL_ADDR]
  | .SWY_HISTORY_POOL_1 => [Fld.SWY_HISTORY_POOL_1_SIZE, Fld.SWY_HISTORY_POOL_1_COUNT]
  | .SWY_STORE => [Fld.SWY_STORE_ADDR]
  | .SWY_STORE_1 => [Fld.SWY_STORE_1_SIZE, Fld.SWY_STORE_1_COUNT]
  | .SWY_CANOPY => [Fld.SWY_CANOPY_ALLOTTED, Fld.SWY_CANOPY_USED]
  | .SWY_BUNDLES_SENT => [Fld.SWY_BUNDLES_SENT_COUNT]
  | .SWY_BUNDLES_RECEIVED => [Fld.SWY_BUNDLES_RECEIVED_COUNT]
  | .SWY_BYTES_SENT => [Fld.SWY_BYTES_SENT_COUNT]
  | .SWY_BYTES_RECEIVED => [Fld.SWY_BYTES_RECEIVED_COUNT]
  | .SWY_ORPHANED => [Fld.SWY_ORPHANED_COUNT]
  | .SWY_LOOKUP_BLOCKS => [Fld.SWY_LOOKUP_BLOCKS_COUNT]
  | .SWY_MATCHED_BLOCKS => [Fld.SWY_MATCHED_BLOCKS_COUNT]
  | .SWY_ERROR => [Fld.SWY_ERROR_BUNDLE_INVALID, Fld.SWY_ERROR_GEOMETRY_MISMATCH, Fld.SWY_ERROR_STATE_LOST, Fld.SWY_ERROR_ORPHANED, Fld.SWY_ERROR_BAD_COMMAND]
  | .SWY_ERROR_INFO => [Fld.SWY_ERROR_INFO_BUNDLE_ID]
  | .SWY_INBOX => [Fld.SWY_INBOX_ADDR]
  | .SWY_INBOX_1 => [Fld.SWY_INBOX_1_SIZE]
  | .SWY_STAGING => [Fld.SWY_STAGING_ADDR]
  | .SWY_STAGING_1 => [Fld.SWY_STAGING_1_SIZE]
  | .SWY_EVT_DROPPED => [Fld.SWY_EVT_DROPPED_COUNT]
  | .SWYP_CMD_RING => [Fld.SWYP_CMD_RING_ADDR, Fld.SWYP_CMD_RING_SIZE_LOG2, Fld.SWYP_CMD_RING_INTERRUPT]
  | .SWYP_CMD_TAIL => [Fld.SWYP_CMD_TAIL_INDEX]
  | .SWYP_CMD_HEAD => [Fld.SWYP_CMD_HEAD_INDEX]
  | .SWYP_EVT_RING => [Fld.SWYP_EVT_RING_ADDR, Fld.SWYP_EVT_RING_SIZE_LOG2, Fld.SWYP_EVT_RING_INTERRUPT]
  | .SWYP_EVT_HEAD => [Fld.SWYP_EVT_HEAD_INDEX]
  | .SWYP_EVT_TAIL => [Fld.SWYP_EVT_TAIL_INDEX]
  | .SWYP_EVT_DROPPED => [Fld.SWYP_EVT_DROPPED_COUNT]
  | .TIER_CMD_RING => [Fld.TIER_CMD_RING_ADDR, Fld.TIER_CMD_RING_SIZE_LOG2]
  | .TIER_CMD_TAIL => [Fld.TIER_CMD_TAIL_TAIL]
  | .TIER_CMD_HEAD => [Fld.TIER_CMD_HEAD_HEAD]
  | .TIER_CONFIG => [Fld.TIER_CONFIG_EVICT_AGE, Fld.TIER_CONFIG_SWEEP_MS]
  | .TIER_T0_FRAMES => [Fld.TIER_T0_FRAMES_TOTAL, Fld.TIER_T0_FRAMES_FREE]
  | .TIER_T1_FRAMES => [Fld.TIER_T1_FRAMES_TOTAL, Fld.TIER_T1_FRAMES_FREE]
  | .TIER_MAP_LEAVES => [Fld.TIER_MAP_LEAVES_TOTAL, Fld.TIER_MAP_LEAVES_FREE]
  | .TIER_PROMOTED => [Fld.TIER_PROMOTED_COUNT]
  | .TIER_EVICTED => [Fld.TIER_EVICTED_COUNT]
  | .TIER_WRITEBACK_BYTES => [Fld.TIER_WRITEBACK_BYTES_COUNT]
  | .TIER_MOVING => [Fld.TIER_MOVING_MOVES]
  | .TIER_ERROR => [Fld.TIER_ERROR_UNMAPPED, Fld.TIER_ERROR_OBJECT_LOST, Fld.TIER_ERROR_WRITEBACK_FAILED, Fld.TIER_ERROR_REMOTE_FAILED, Fld.TIER_ERROR_BAD_COMMAND]
  | .TIER_ERROR_INFO => [Fld.TIER_ERROR_INFO_OBJECT, Fld.TIER_ERROR_INFO_TIER, Fld.TIER_ERROR_INFO_TAG]
  | .TIER_ERROR_ADDR => [Fld.TIER_ERROR_ADDR_ADDR]
  | .CMP_BLOCKS_DECODED => [Fld.CMP_BLOCKS_DECODED_COUNT]
  | .CMP_RAW_DECODED => [Fld.CMP_RAW_DECODED_COUNT]
  | .CMP_KV_UNSEALED => [Fld.CMP_KV_UNSEALED_COUNT]
  | .CMP_ERROR => [Fld.CMP_ERROR_CORRUPT, Fld.CMP_ERROR_SHORT]
  | .CMP_ERROR_INFO => [Fld.CMP_ERROR_INFO_ADDR, Fld.CMP_ERROR_INFO_CODEC, Fld.CMP_ERROR_INFO_CHECK_KIND, Fld.CMP_ERROR_INFO_SUB_BLOCK]
  | .KVM_POOL => [Fld.KVM_POOL_ADDR, Fld.KVM_POOL_ENABLE]
  | .KVM_CMD_RING => [Fld.KVM_CMD_RING_ADDR, Fld.KVM_CMD_RING_SIZE_LOG2]
  | .KVM_CMD_TAIL => [Fld.KVM_CMD_TAIL_TAIL]
  | .KVM_CMD_HEAD => [Fld.KVM_CMD_HEAD_HEAD]
  | .KVM_FRAMES => [Fld.KVM_FRAMES_FREE, Fld.KVM_FRAMES_GRANULES_FREE]
  | .KVM_PARTIAL_KEY => [Fld.KVM_PARTIAL_KEY_KEY]
  | .KVM_COW_COPIES => [Fld.KVM_COW_COPIES_COUNT]
  | .KVM_PRUNED => [Fld.KVM_PRUNED_COUNT]
  | .KVM_REMOTE_SENT => [Fld.KVM_REMOTE_SENT_COUNT]
  | .KVM_REMOTE_LATE => [Fld.KVM_REMOTE_LATE_COUNT]
  | .KVM_DEGRADED => [Fld.KVM_DEGRADED_COUNT]
  | .KVM_REMOTE_WAIT_NS => [Fld.KVM_REMOTE_WAIT_NS_COUNT]
  | .KVM_ERROR => [Fld.KVM_ERROR_KV_FULL, Fld.KVM_ERROR_SEGMENT_INVALID, Fld.KVM_ERROR_STATE_LOST, Fld.KVM_ERROR_BAD_COMMAND, Fld.KVM_ERROR_POOL_INVALID]
  | .KVM_ERROR_INFO => [Fld.KVM_ERROR_INFO_SEQ, Fld.KVM_ERROR_INFO_LAYER, Fld.KVM_ERROR_INFO_GROUP, Fld.KVM_ERROR_INFO_MODEL]
  | .FAB_PORT_CTRL => [Fld.FAB_PORT_CTRL_MODE, Fld.FAB_PORT_CTRL_ENABLE, Fld.FAB_PORT_CTRL_AN_DISABLE, Fld.FAB_PORT_CTRL_PFC_CLASSES, Fld.FAB_PORT_CTRL_MAX_FRAME]
  | .FAB_PORT_STATUS => [Fld.FAB_PORT_STATUS_LINK_UP, Fld.FAB_PORT_STATUS_MODE, Fld.FAB_PORT_STATUS_FEC_LOCK, Fld.FAB_PORT_STATUS_DOWN_EVENT]
  | .FAB_PORT_MAC => [Fld.FAB_PORT_MAC_ADDR]
  | .FAB_PORT_IPV6_HI => [Fld.FAB_PORT_IPV6_HI_ADDR]
  | .FAB_PORT_IPV6_LO => [Fld.FAB_PORT_IPV6_LO_ADDR]
  | .FAB_PORT_TX_FRAMES => [Fld.FAB_PORT_TX_FRAMES_COUNT]
  | .FAB_PORT_RX_FRAMES => [Fld.FAB_PORT_RX_FRAMES_COUNT]
  | .FAB_PORT_RX_DROPPED => [Fld.FAB_PORT_RX_DROPPED_COUNT]
  | .FAB_PORT_FEC_CORRECTED => [Fld.FAB_PORT_FEC_CORRECTED_COUNT]
  | .FAB_PORT_FEC_UNCORRECTED => [Fld.FAB_PORT_FEC_UNCORRECTED_COUNT]
  | .FAB_ENCAP => [Fld.FAB_ENCAP_ETHERTYPE, Fld.FAB_ENCAP_UDP_PORT]
  | .FAB_CLASS_MAP => [Fld.FAB_CLASS_MAP_PCP, Fld.FAB_CLASS_MAP_DSCP]
  | .FAB_ACK => [Fld.FAB_ACK_DELAY_US]
  | .FAB_NO_CONNECTION => [Fld.FAB_NO_CONNECTION_COUNT]
  | .FAB_AUTH_FAIL => [Fld.FAB_AUTH_FAIL_COUNT]
  | .FAB_OUT_OF_WINDOW => [Fld.FAB_OUT_OF_WINDOW_COUNT]
  | .FAB_WRONG_DIE => [Fld.FAB_WRONG_DIE_COUNT]
  | .FAB_ECN_CE => [Fld.FAB_ECN_CE_COUNT]
  | .FAB_CMD_RING => [Fld.FAB_CMD_RING_ADDR, Fld.FAB_CMD_RING_SIZE_LOG2]
  | .FAB_CMD_TAIL => [Fld.FAB_CMD_TAIL_INDEX]
  | .FAB_CMD_HEAD => [Fld.FAB_CMD_HEAD_INDEX]
  | .FAB_ALLOT => [Fld.FAB_ALLOT_CONN_FIRST_HD0, Fld.FAB_ALLOT_CONN_COUNT_HD0, Fld.FAB_ALLOT_CONN_FIRST_HD1, Fld.FAB_ALLOT_CONN_COUNT_HD1]
  | .FAB_REGIONS => [Fld.FAB_REGIONS_QUOTA, Fld.FAB_REGIONS_USED]
  | .FAB_PACKETS_SENT => [Fld.FAB_PACKETS_SENT_COUNT]
  | .FAB_RETRANSMITS => [Fld.FAB_RETRANSMITS_COUNT]
  | .FAB_DUPLICATES => [Fld.FAB_DUPLICATES_COUNT]
  | .FAB_STALE => [Fld.FAB_STALE_COUNT]
  | .FAB_REVOKED => [Fld.FAB_REVOKED_COUNT]
  | .FAB_CONN_FAILED => [Fld.FAB_CONN_FAILED_COUNT]
  | .FAB_ERROR => [Fld.FAB_ERROR_RETRY_EXCEEDED, Fld.FAB_ERROR_BAD_COMMAND, Fld.FAB_ERROR_KEY_ABSENT, Fld.FAB_ERROR_REKEY_NEEDED]
  | .FAB_ERROR_INFO => [Fld.FAB_ERROR_INFO_CONN, Fld.FAB_ERROR_INFO_DIE, Fld.FAB_ERROR_INFO_OP, Fld.FAB_ERROR_INFO_PSN]
  | .SHP_CBS => [Fld.SHP_CBS_IDLE_SLOPE, Fld.SHP_CBS_ENABLE, Fld.SHP_CBS_HI_CREDIT]
  | .SHP_CREDIT => [Fld.SHP_CREDIT_CREDIT]
  | .SHP_CLASS_OWNER => [Fld.SHP_CLASS_OWNER_OWNERS]
  | .GCL_CTRL => [Fld.GCL_CTRL_ENABLE, Fld.GCL_CTRL_CONFIG_CHANGE, Fld.GCL_CTRL_PENDING, Fld.GCL_CTRL_CONFIG_ERROR, Fld.GCL_CTRL_ADMIN_LENGTH, Fld.GCL_CTRL_OPER_LENGTH]
  | .GCL_ADMIN_BASE_TIME => [Fld.GCL_ADMIN_BASE_TIME_TIME_NS]
  | .GCL_ADMIN_CYCLE => [Fld.GCL_ADMIN_CYCLE_CYCLE_NS]
  | .GCL_OPER_BASE_TIME => [Fld.GCL_OPER_BASE_TIME_TIME_NS]
  | .GCL_OPER_CYCLE => [Fld.GCL_OPER_CYCLE_CYCLE_NS]
  | .GCL_ADMIN_ENTRY => [Fld.GCL_ADMIN_ENTRY_GATES, Fld.GCL_ADMIN_ENTRY_CAL, Fld.GCL_ADMIN_ENTRY_DURATION_NS]
  | .GCL_OPER_ENTRY => [Fld.GCL_OPER_ENTRY_GATES, Fld.GCL_OPER_ENTRY_CAL, Fld.GCL_OPER_ENTRY_DURATION_NS]
  | .GCL_HUB_CTRL => [Fld.GCL_HUB_CTRL_LENGTH, Fld.GCL_HUB_CTRL_ENTRY, Fld.GCL_HUB_CTRL_CYCLE_NS]
  | .GCL_HUB_ENTRY => [Fld.GCL_HUB_ENTRY_STAND, Fld.GCL_HUB_ENTRY_KIND, Fld.GCL_HUB_ENTRY_DURATION_NS]
  | .SHP_TIME_CTRL => [Fld.SHP_TIME_CTRL_TIME_PORT, Fld.SHP_TIME_CTRL_TRANSPORT, Fld.SHP_TIME_CTRL_HOLDOVER_S]
  | .SHP_TIME_STATUS => [Fld.SHP_TIME_STATUS_STATE, Fld.SHP_TIME_STATUS_OFFSET_NS]
  | .SHP_SAMPLE_RING => [Fld.SHP_SAMPLE_RING_ADDR, Fld.SHP_SAMPLE_RING_SIZE_LOG2, Fld.SHP_SAMPLE_RING_ENABLE]
  | .SHP_SAMPLE_CTRL => [Fld.SHP_SAMPLE_CTRL_PERIOD_US, Fld.SHP_SAMPLE_CTRL_QUEUE_MASK]
  | .SHP_SAMPLE_MASK_LO => [Fld.SHP_SAMPLE_MASK_LO_MASK]
  | .SHP_SAMPLE_HEAD => [Fld.SHP_SAMPLE_HEAD_INDEX]
  | .SHP_SAMPLE_STATUS => [Fld.SHP_SAMPLE_STATUS_TAIL, Fld.SHP_SAMPLE_STATUS_DROPPED]
  | .ARB_CTRL => [Fld.ARB_CTRL_FREEZE, Fld.ARB_CTRL_BURST_LIMIT, Fld.ARB_CTRL_DRAIN_TIMEOUT_US]
  | .ARB_STATUS => [Fld.ARB_STATUS_OWNER, Fld.ARB_STATUS_GRANTED, Fld.ARB_STATUS_FROZEN, Fld.ARB_STATUS_DRAINED]
  | .ARB_ABORTED => [Fld.ARB_ABORTED_COUNT]
  | .ASR_CTRL => [Fld.ASR_CTRL_HOLE_INTERVAL, Fld.ASR_CTRL_SCRUB_MS]
  | .ASR_STATUS => [Fld.ASR_STATUS_THROTTLE, Fld.ASR_STATUS_SCRUB_BANK]
  | .ASR_SEARCHES => [Fld.ASR_SEARCHES_COUNT]
  | .ASR_REPAIRED => [Fld.ASR_REPAIRED_COUNT]
  | .ASR_LOST => [Fld.ASR_LOST_COUNT]
  | .ASR_CLASSIFIER_DROPS => [Fld.ASR_CLASSIFIER_DROPS_COUNT]
  | .ASR_CMD_RING => [Fld.ASR_CMD_RING_ADDR, Fld.ASR_CMD_RING_SIZE_LOG2]
  | .ASR_CMD_TAIL => [Fld.ASR_CMD_TAIL_INDEX]
  | .ASR_CMD_HEAD => [Fld.ASR_CMD_HEAD_INDEX]
  | .ASR_ERROR => [Fld.ASR_ERROR_ENTRY_LOST, Fld.ASR_ERROR_TABLE_FULL, Fld.ASR_ERROR_BANK_FAILED]
  | .ASR_ERROR_INFO => [Fld.ASR_ERROR_INFO_BANK, Fld.ASR_ERROR_INFO_SLOT, Fld.ASR_ERROR_INFO_KIND, Fld.ASR_ERROR_INFO_STAND]
  | .ASR_BANK_CFG => [Fld.ASR_BANK_CFG_KIND, Fld.ASR_BANK_CFG_STAND, Fld.ASR_BANK_CFG_WIDTH, Fld.ASR_BANK_CFG_MODE, Fld.ASR_BANK_CFG_IN_SERVICE, Fld.ASR_BANK_CFG_USED]
  | .FMM_CMD_RING => [Fld.FMM_CMD_RING_ADDR, Fld.FMM_CMD_RING_SIZE_LOG2]
  | .FMM_CMD_TAIL => [Fld.FMM_CMD_TAIL_INDEX]
  | .FMM_CMD_HEAD => [Fld.FMM_CMD_HEAD_INDEX]
  | .FMM_CTRL => [Fld.FMM_CTRL_COALESCE_NS, Fld.FMM_CTRL_SHED, Fld.FMM_CTRL_SUSPECT_INT]
  | .FMM_STATUS => [Fld.FMM_STATUS_SUSPECT, Fld.FMM_STATUS_MAP_ALLOTTED, Fld.FMM_STATUS_MAP_USED, Fld.FMM_STATUS_GROUPS]
  | .FMM_OPS_ISSUED => [Fld.FMM_OPS_ISSUED_COUNT]
  | .FMM_OPS_SERVED => [Fld.FMM_OPS_SERVED_COUNT]
  | .FMM_FENCES => [Fld.FMM_FENCES_COUNT]
  | .FMM_BARRIERS => [Fld.FMM_BARRIERS_COUNT]
  | .FMM_ERROR => [Fld.FMM_ERROR_NO_MAPPING, Fld.FMM_ERROR_BAD_REGION, Fld.FMM_ERROR_RETRY_EXCEEDED, Fld.FMM_ERROR_BARRIER_TIMEOUT, Fld.FMM_ERROR_BAD_COMMAND]
  | .FMM_ERROR_INFO => [Fld.FMM_ERROR_INFO_FADDR]
  | .DDR_CHAN => [Fld.DDR_CHAN_TYPE, Fld.DDR_CHAN_DIMMS, Fld.DDR_CHAN_TRAINED, Fld.DDR_CHAN_IN_SERVICE, Fld.DDR_CHAN_STAND, Fld.DDR_CHAN_ALLOTTED, Fld.DDR_CHAN_MTS, Fld.DDR_CHAN_CAPACITY_GIB]
  | .DDR_ECC => [Fld.DDR_ECC_CORRECTED, Fld.DDR_ECC_UNCORRECTED]
  | .HBM_STACK => [Fld.HBM_STACK_TRAINED, Fld.HBM_STACK_TEMP_C, Fld.HBM_STACK_CAL_FAILS]
  | .HBM_ECC => [Fld.HBM_ECC_CORRECTED, Fld.HBM_ECC_UNCORRECTED]
  | .MXC_STATUS => [Fld.MXC_STATUS_STATE, Fld.MXC_STATUS_GROUP_LOG2, Fld.MXC_STATUS_POSITION, Fld.MXC_STATUS_GROUP, Fld.MXC_STATUS_STAND, Fld.MXC_STATUS_STAND_VALID]
  | .MXC_BUSY_CYCLES => [Fld.MXC_BUSY_CYCLES_CYCLES]
  | .MXC_STALL_CYCLES => [Fld.MXC_STALL_CYCLES_CYCLES]
  | .MXC_PASSES => [Fld.MXC_PASSES_COUNT]
  | .MXC_ERROR => [Fld.MXC_ERROR_BAD_ENCODING, Fld.MXC_ERROR_WEIGHT_POISONED, Fld.MXC_ERROR_ACT_POISONED, Fld.MXC_ERROR_CORE_FAILED]
  | .MXC_ERROR_INFO => [Fld.MXC_ERROR_INFO_OP_INDEX, Fld.MXC_ERROR_INFO_WSD_INDEX, Fld.MXC_ERROR_INFO_MODEL, Fld.MXC_ERROR_INFO_LAYER]
  | .VEC_STATUS => [Fld.VEC_STATUS_IN_SERVICE, Fld.VEC_STATUS_BUSY, Fld.VEC_STATUS_STAND, Fld.VEC_STATUS_STAND_VALID]
  | .VEC_BUSY_CYCLES => [Fld.VEC_BUSY_CYCLES_CYCLES]
  | .VEC_TASKS => [Fld.VEC_TASKS_COUNT]
  | .VEC_KERNEL_LOADS => [Fld.VEC_KERNEL_LOADS_COUNT]
  | .VEC_LS_CORRECTED => [Fld.VEC_LS_CORRECTED_COUNT]
  | .VEC_ERROR => [Fld.VEC_ERROR_TASK_FAULT, Fld.VEC_ERROR_DATA_POISONED, Fld.VEC_ERROR_TASK_TIMEOUT, Fld.VEC_ERROR_LS_POISONED, Fld.VEC_ERROR_VCORE_FAILED]
  | .VEC_ERROR_INFO => [Fld.VEC_ERROR_INFO_CORE, Fld.VEC_ERROR_INFO_TASK, Fld.VEC_ERROR_INFO_KERNEL, Fld.VEC_ERROR_INFO_PC]
  | .VEC_CORE_MASK => [Fld.VEC_CORE_MASK_OUT]
  | .QW_APERTURE_BASE => [Fld.QW_APERTURE_BASE_ADDR]
  | .QW_COPY_RING => [Fld.QW_COPY_RING_ADDR, Fld.QW_COPY_RING_SIZE_LOG2, Fld.QW_COPY_RING_ENABLE, Fld.QW_COPY_RING_INTERRUPT]
  | .QW_COPY_TAIL => [Fld.QW_COPY_TAIL_INDEX]
  | .QW_COPY_HEAD => [Fld.QW_COPY_HEAD_INDEX]
  | .QW_STATUS => [Fld.QW_STATUS_BAD_DOORBELLS]

/-- Registers in address order, part 0. -/
def Reg.all0 : List Reg :=
  [.GLB_ID, .GLB_STAND, .GLB_DLINK_STATUS, .CFG_STATUS, .CFG_SLOT_A, .CFG_SLOT_B, .CFG_REPLACE, .CFG_MB_CTRL, .CFG_MB_DATA, .CLK_STATUS, .RST_CTRL, .RST_CAUSE, .RST_STAND_CMD, .RST_TEST_CTRL, .RST_TEST_STATUS, .RST_GROVE_STATUS, .GLB_LINK_STATUS, .GLB_HDM_STATUS, .GLB_IDE_PSK, .PWR_STATUS, .PWR_VID, .PWR_RAIL, .PWR_PACKAGE_UJ, .PWR_BALLAST_UJ, .PWR_GOV_STATUS, .PWR_COEF, .THM_STATUS, .THM_CTRL, .THM_DIE, .HWD_STATUS, .HWD_SERIAL, .HWD_SVN, .HWD_LMS, .HWD_ERROR, .HWD_ERROR_INFO, .HWD_MB_CTRL, .HWD_MB_DATA, .EVR_CTRL, .EVR_RING, .EVR_HEAD]
/-- Registers in address order, part 1. -/
def Reg.all1 : List Reg :=
  [.EVR_TAIL, .EVR_DROPPED, .EVR_STATUS, .EVR_STEWARD_OUT, .EVR_DDR_OUT, .EVR_HBM_OUT, .EVR_RETURN_CMD, .EVR_SNAP_SEL, .EVR_SNAP_TRIG, .EVR_STAND_RING, .EVR_STAND_HEAD, .EVR_STAND_TAIL, .EVR_STAND_DROPPED, .SCH_STATUS, .SCH_STEP, .SCH_NOW, .SCH_SQ_BASE, .SCH_SQ_TAILWORD, .SCH_SQ_TAIL, .SCH_SQ_HEAD, .SCH_CQ_BASE, .SCH_CQ_HEAD, .SCH_CQ_TAIL, .SCH_CUSTOMERS, .SCH_ACCT_SNAP, .SCH_ACCT, .SCH_SNAP, .SCH_ERROR, .SCH_ERROR_INFO, .SWY_CMD_RING, .SWY_CMD_TAIL, .SWY_CMD_HEAD, .SWY_EVT_RING, .SWY_EVT_HEAD, .SWY_EVT_TAIL, .SWY_CONFIG, .SWY_SEQ_RANGE, .SWY_HISTORY_POOL, .SWY_HISTORY_POOL_1, .SWY_STORE]
/-- Registers in address order, part 2. -/
def Reg.all2 : List Reg :=
  [.SWY_STORE_1, .SWY_CANOPY, .SWY_BUNDLES_SENT, .SWY_BUNDLES_RECEIVED, .SWY_BYTES_SENT, .SWY_BYTES_RECEIVED, .SWY_ORPHANED, .SWY_LOOKUP_BLOCKS, .SWY_MATCHED_BLOCKS, .SWY_ERROR, .SWY_ERROR_INFO, .SWY_INBOX, .SWY_INBOX_1, .SWY_STAGING, .SWY_STAGING_1, .SWY_EVT_DROPPED, .SWYP_CMD_RING, .SWYP_CMD_TAIL, .SWYP_CMD_HEAD, .SWYP_EVT_RING, .SWYP_EVT_HEAD, .SWYP_EVT_TAIL, .SWYP_EVT_DROPPED, .TIER_CMD_RING, .TIER_CMD_TAIL, .TIER_CMD_HEAD, .TIER_CONFIG, .TIER_T0_FRAMES, .TIER_T1_FRAMES, .TIER_MAP_LEAVES, .TIER_PROMOTED, .TIER_EVICTED, .TIER_WRITEBACK_BYTES, .TIER_MOVING, .TIER_ERROR, .TIER_ERROR_INFO, .TIER_ERROR_ADDR, .CMP_BLOCKS_DECODED, .CMP_RAW_DECODED, .CMP_KV_UNSEALED]
/-- Registers in address order, part 3. -/
def Reg.all3 : List Reg :=
  [.CMP_ERROR, .CMP_ERROR_INFO, .KVM_POOL, .KVM_CMD_RING, .KVM_CMD_TAIL, .KVM_CMD_HEAD, .KVM_FRAMES, .KVM_PARTIAL_KEY, .KVM_COW_COPIES, .KVM_PRUNED, .KVM_REMOTE_SENT, .KVM_REMOTE_LATE, .KVM_DEGRADED, .KVM_REMOTE_WAIT_NS, .KVM_ERROR, .KVM_ERROR_INFO, .FAB_PORT_CTRL, .FAB_PORT_STATUS, .FAB_PORT_MAC, .FAB_PORT_IPV6_HI, .FAB_PORT_IPV6_LO, .FAB_PORT_TX_FRAMES, .FAB_PORT_RX_FRAMES, .FAB_PORT_RX_DROPPED, .FAB_PORT_FEC_CORRECTED, .FAB_PORT_FEC_UNCORRECTED, .FAB_ENCAP, .FAB_CLASS_MAP, .FAB_ACK, .FAB_NO_CONNECTION, .FAB_AUTH_FAIL, .FAB_OUT_OF_WINDOW, .FAB_WRONG_DIE, .FAB_ECN_CE, .FAB_CMD_RING, .FAB_CMD_TAIL, .FAB_CMD_HEAD, .FAB_ALLOT, .FAB_REGIONS, .FAB_PACKETS_SENT]
/-- Registers in address order, part 4. -/
def Reg.all4 : List Reg :=
  [.FAB_RETRANSMITS, .FAB_DUPLICATES, .FAB_STALE, .FAB_REVOKED, .FAB_CONN_FAILED, .FAB_ERROR, .FAB_ERROR_INFO, .SHP_CBS, .SHP_CREDIT, .SHP_CLASS_OWNER, .GCL_CTRL, .GCL_ADMIN_BASE_TIME, .GCL_ADMIN_CYCLE, .GCL_OPER_BASE_TIME, .GCL_OPER_CYCLE, .GCL_ADMIN_ENTRY, .GCL_OPER_ENTRY, .GCL_HUB_CTRL, .GCL_HUB_ENTRY, .SHP_TIME_CTRL, .SHP_TIME_STATUS, .SHP_SAMPLE_RING, .SHP_SAMPLE_CTRL, .SHP_SAMPLE_MASK_LO, .SHP_SAMPLE_HEAD, .SHP_SAMPLE_STATUS, .ARB_CTRL, .ARB_STATUS, .ARB_ABORTED, .ASR_CTRL, .ASR_STATUS, .ASR_SEARCHES, .ASR_REPAIRED, .ASR_LOST, .ASR_CLASSIFIER_DROPS, .ASR_CMD_RING, .ASR_CMD_TAIL, .ASR_CMD_HEAD, .ASR_ERROR, .ASR_ERROR_INFO]
/-- Registers in address order, part 5. -/
def Reg.all5 : List Reg :=
  [.ASR_BANK_CFG, .FMM_CMD_RING, .FMM_CMD_TAIL, .FMM_CMD_HEAD, .FMM_CTRL, .FMM_STATUS, .FMM_OPS_ISSUED, .FMM_OPS_SERVED, .FMM_FENCES, .FMM_BARRIERS, .FMM_ERROR, .FMM_ERROR_INFO, .DDR_CHAN, .DDR_ECC, .HBM_STACK, .HBM_ECC, .MXC_STATUS, .MXC_BUSY_CYCLES, .MXC_STALL_CYCLES, .MXC_PASSES, .MXC_ERROR, .MXC_ERROR_INFO, .VEC_STATUS, .VEC_BUSY_CYCLES, .VEC_TASKS, .VEC_KERNEL_LOADS, .VEC_LS_CORRECTED, .VEC_ERROR, .VEC_ERROR_INFO, .VEC_CORE_MASK, .QW_APERTURE_BASE, .QW_COPY_RING, .QW_COPY_TAIL, .QW_COPY_HEAD, .QW_STATUS]

/-- Every register. -/
def Reg.all : List Reg := Reg.all0 ++ Reg.all1 ++ Reg.all2 ++ Reg.all3 ++ Reg.all4 ++ Reg.all5

/-- The reset value of a field of instance `i`, sub-instance `j`: MODULES of GLB_DLINK_STATUS and PCP of FAB_CLASS_MAP
are stated per instance (01_organisation.md Table 1.2, 10_fabric_transport.md R246). -/
def Field.resetAt (f : Field) (_i j : Nat) : Nat :=
  if f = Fld.GLB_DLINK_STATUS_MODULES then (if j ≤ 3 ∨ j = 10 then 8 else 4)
  else if f = Fld.FAB_CLASS_MAP_PCP then j
  else f.reset

/-- The reset value of a whole register. -/
def Reg.resetValue (r : Reg) (i j : Nat) : Nat :=
  r.fields.foldl (fun v f => v + f.resetAt i j * 2 ^ f.lo) 0

/-- The offset of a register instance. -/
def Reg.addr (r : Reg) (i j : Nat) : Nat := r.info.base + r.info.stride * i + r.info.sub * j

/-- The instance and sub-instance of `r` at an offset. -/
def Reg.at? (r : Reg) (a : Nat) : Option (Nat × Nat) :=
  let q := r.info
  if a < q.base then none
  else
    let d := a - q.base
    let i := if q.stride = 0 then 0 else d / q.stride
    let e := d - q.stride * i
    let j := if q.sub = 0 then 0 else e / q.sub
    if i < q.count ∧ j < q.subCount ∧ q.stride * i + q.sub * j = d then some (i, j) else none

/-- The register at an offset (R425). -/
def Reg.find (a : Nat) : Option (Reg × Nat × Nat) :=
  Reg.all.findSome? (fun r => (r.at? a).map (fun p => (r, p.1, p.2)))

/-- The width in bytes of the register that stands at an offset, if any. -/
def Reg.bytes (r : Reg) : Nat := r.info.width / 8

/-- The values that R446 admits for a field. HOLE_INTERVAL takes 0 or 2 to 32
(13_associative_search.md R295). -/
def Limit.admits : Limit → Nat → Bool
  | .any, _ => true
  | .range lo hi, v => lo ≤ v && v ≤ hi
  | .aligned n, v => v % 2 ^ n == 0
  | .holes, v => v == 0 || (2 ≤ v && v ≤ 32)

end Sys2Proof.Machine
end

