-- ==== Sys2Proof/Machine/State.lean ====
section
/-! DEFINITION. The state of the package as plain data, and the state after reset. -/

namespace Sys2Proof.Machine

open Sys2Proof

/-! Pins and the package (17_startup_reset_test.md, 22_package_pins.md) -/

/-- The lands that carry a level the package reads or drives (22_package_pins.md Table 22.4). -/
structure Pins where
  pwrok : Bool := false
  rstN : Bool := true
  perstN : Bool := true
  refclk : Bool := true
  /-- THERMTRIP_N is released (R440). -/
  thermtripReleased : Bool := true
  /-- Bit k: DDRk_ALERT_N is low (R436). -/
  ddrAlert : Nat := 0
  deriving DecidableEq, Repr

/-- The states of the package (17_startup_reset_test.md Table 17.2; 16_configuration_image.md R355;
19_faults_events.md R398; 21_address_map.md R431). -/
inductive Phase where
  /-- PWROK is low. -/
  | off
  /-- RST_N or PERST_N is low. -/
  | held
  /-- RST_N rose with a test-mode instruction in effect: reset until Test-Logic-Reset. -/
  | tapHeld
  /-- The boot ROM waits for REFCLK. -/
  | noClock
  /-- Both firmware slots failed (R365). -/
  | rom
  /-- Table 17.2 has been taken through this step. -/
  | starting (step : Nat)
  | waiting
  | running
  /-- A package fault holds the package (R398). -/
  | packageFault
  deriving DecidableEq, Repr

/-! The event recorder (19_faults_events.md) -/

/-- One flood-limit count of a view in the present window (R403): the operator view is 24. -/
structure Flood where
  view : Nat
  code : Nat
  about : Option Nat
  written : Nat
  suppressed : Nat
  deriving DecidableEq, Repr

structure Recorder where
  flood : List Flood := []
  windowStart : Nat := 0
  /-- Die d is reading a snapshot until this time in ns (R404). -/
  snapUntil : SMap Nat := []
  /-- The unit whose return checks run (R399). -/
  returning : Option (Nat × Nat) := none
  /-- Returned units that have not yet joined. -/
  returnPassed : Bool := false
  deriving DecidableEq, Repr

/-! The host interface (20_host_interface.md) -/

structure HostIf where
  /-- Bus Master Enable: bit s of virtual function s, bit 24 of the physical function. -/
  busMaster : Nat := 0
  vfEnable : Bool := false
  numVfs : Nat := 0
  /-- Virtual functions whose ATS is enabled. -/
  ats : Nat := 0
  /-- Messages sent, by 32 * function + vector (Table 20.4). -/
  msixSent : SMap Nat := []
  /-- Pending bits, by 32 * function + vector. -/
  msixPending : List Nat := []
  /-- A secured SPDM session is open (R422). -/
  session : Bool := false
  /-- The IDE key set, once IDE_KM set it. -/
  ideKeys : Option (List Byte) := none
  /-- The HDM decoder is committed. -/
  hdmDecoder : Bool := false
  /-- Data of the last read completion, and whether it was poisoned (00_scope.md R5, R7; 20_host_interface.md R415). -/
  readData : Nat := 0
  readPoisoned : Bool := false
  /-- ns at which the copy ring of a stand last sent vector 16. -/
  copyMsgAt : SMap Nat := []
  deriving DecidableEq, Repr

/-! Management: I3C, MCTP and boundary scan (21_address_map.md) -/

/-- What the lands are driven from (R430, R431). -/
inductive LandDrive where
  | functional | boundary | highZ
  deriving DecidableEq, Repr

structure Mgmt where
  /-- The dynamic address of the I3C target (R427). -/
  i3cAddr : Option Nat := none
  /-- The MCTP endpoint ID. -/
  eid : Nat := 0
  /-- The last MCTP response. -/
  response : List Byte := []
  /-- The TAP instruction in force (Table 21.4). -/
  tapInstr : Nat := 1
  /-- Bit 7 of the next instruction capture: a test-mode instruction was updated with RST_N high (R431). -/
  tapRefused : Bool := false
  /-- The last instruction capture and the data register it selected. -/
  tapCapture : Nat := 1
  tapData : Nat := 0
  /-- The provisional ID that the target last sent for ENTDAA (R427). -/
  sentId : Nat := 0
  /-- What PRELOAD left in the boundary chain. -/
  boundary : Nat := 0
  lands : LandDrive := .functional
  deriving DecidableEq, Repr

/-! Memory tiers (07_memory_tiers.md) -/

/-- An object descriptor in the object table (Table 7.2). -/
structure TierObject where
  base : Nat
  home : Nat
  hint : Nat
  place : Nat
  die : Nat
  pages : Nat
  homeOffset : Nat
  regionKey : Nat
  regionGen : Nat
  conn : Nat
  remoteOffset : Nat
  indexAddr : Nat
  tag : Nat
  /-- OBJECT_LOST has been reported for the object (R160). -/
  lostReported : Bool := false
  deriving DecidableEq, Repr

/-- A frame of the copy tier or of T0: tier 0 names a grove and its frame, tier 1 a frame of the stand's T1 space. -/
structure Frame where
  tier : Nat
  grove : Nat
  num : Nat
  deriving DecidableEq, Repr

/-- The one copy of a page (R153-R156). -/
structure PageCopy where
  frame : Frame
  age : Nat := 0
  ref : Bool := true
  /-- Bit u: 4 KiB unit u is dirty. -/
  dirty : Nat := 0
  /-- Bit u: dirty unit u is on its way to a T3 home and has not been written since. -/
  sent : Nat := 0
  held : Bool := false
  deriving DecidableEq, Repr

/-- The fabric operations of a page of T3 home: its fetch by a READ_REQ while it has no copy, or the WRITEs of its dirty
units (10_fabric_transport.md R234, R235). -/
inductive Traffic where
  | none
  | busy (left : Nat) (failed : Bool)
  | done (ok : Bool)
  deriving DecidableEq, Repr

/-- A page that is moving (R157). -/
inductive Move where
  | still
  | promoting (dst : Frame)
  | evicting
  deriving DecidableEq, Repr

/-- The entry of a page in the tier map (R150). A page of T1, T2 or T3 home without an entry is at home. -/
structure PageEntry where
  home : Option Frame := none
  copy : Option PageCopy := none
  lost : Bool := false
  move : Move := .still
  traffic : Traffic := .none
  deriving DecidableEq, Repr

structure Tiers where
  objects : SMap TierObject := []
  /-- Entries by stand address ÷ 64 KiB. -/
  pages : SMap PageEntry := []
  /-- Eviction hands: by grove, and 24 for the T1 space (R156). -/
  hands : SMap Nat := []
  /-- Uncorrectable errors by channel: HBM4 index, or 512 + DDR5 channel; the time in ns and the frame (R395). -/
  errors : SMap (List (Nat × Nat)) := []
  /-- While a command or a move is tried: the pages of T3 home whose fabric operations it needs first. -/
  needs : List (Nat × TierObject) := []
  deriving DecidableEq, Repr

/-! A stand -/

/-- STAND_STATE of a quote (14_trust_attestation.md R321). -/
inductive StandCond where
  | absent | installing | running | resetting
  deriving DecidableEq, Repr

/-! The KV manager of a stand (05_attention_state.md) -/

/-- A pool descriptor in use (Table 5.1). -/
structure Pool where
  frameAddr : Nat
  frames : Nat
  seqMax : Nat
  seqTable : Nat
  groupTable : Nat
  aperture : Nat
  partialAddr : Nat
  holderTable : Nat
  holders : Nat
  remoteKey : Nat
  deriving DecidableEq, Repr

/-- A remote attention request whose response buffer is pending (R123). -/
structure RemotePending where
  step : Nat
  slot : Nat
  layer : Nat
  group : Nat
  head : Nat
  sentNs : Nat
  budgetUs : Nat
  /-- Words 0 to 2 of the request, which a response echoes. -/
  words : List Byte := []
  /-- The status that the buffer was given: of the response, or 1, MISSING. -/
  resolved : Option Nat := none
  /-- ns at which it was given. -/
  resolvedAt : Nat := 0
  deriving DecidableEq, Repr

/-- A remote attention request that a holder serves (R121): the connection it came on, where its response goes, and
words 0 to 2, which the response echoes. -/
structure Service where
  conn : Nat
  key : Nat
  gen : Nat
  offset : Nat
  words : List Byte
  deriving DecidableEq, Repr

/-- A KV command that the device issued (R449): the fields of R118, and the sets of a HOLD. -/
structure DeviceCommand where
  op : Nat
  seq : Nat
  src : Nat := 0
  count : Nat := 0
  addr : Nat := 0
  /-- For a GRAFT from canopy nodes: the sets of each group, by group. -/
  sets : SMap (List Nat) := []
  /-- For a CREATE: words 1 to 4 of the record. -/
  tables : List Nat := []
  /-- Who is told the result. -/
  issuer : Nat := 0
  deriving DecidableEq, Repr

structure Kv where
  pool : Option Pool := none
  /-- An enable or disable that waits for the step boundary (R104, R105). -/
  enabling : Option Pool := none
  disabling : Bool := false
  rebuilding : Bool := false
  /-- The device command queue (R449), and how many device and ring commands have been applied. -/
  device : List DeviceCommand := []
  deviceDone : Nat := 0
  ringDone : Nat := 0
  /-- Pending remote requests by response buffer: 64 × slot + head. -/
  remotes : SMap RemotePending := []
  /-- The region of the response buffers, by its number on its hub die. -/
  partialRegion : Option Nat := none
  /-- Responses that have arrived and wait to be applied or discarded: buffer offset and bytes. -/
  arrived : List (Nat × List Byte) := []
  /-- Requests of other stands that wait for a core, and those whose task runs, by the task's serial number (R121). -/
  waiting : List Service := []
  serving : SMap Service := []
  /-- OPEN pages whose sealing found no run of granules: group descriptor and page number (R113). -/
  unsealed : List (Nat × Nat) := []
  deriving DecidableEq, Repr

/-! The canopy index (09_state_movement.md R211-R215) -/

/-- A node of the canopy: a 64-token block of a prefix (R212). -/
structure CanopyNode where
  model : Nat
  hash : List Byte
  parent : Option Nat
  depth : Nat
  anchor : Nat
  lastUse : Nat
  children : Nat := 0
  pins : Nat := 0
  deriving DecidableEq, Repr

/-- The base of the aperture while the pool is enabled (R104). -/
def Kv.aperture (k : Kv) : Option Nat := k.pool.map (·.aperture)

/-! Associative search (13_associative_search.md) -/

/-- A valid entry of a search bank and its shadow: match data, mask bits, order key and result word (R283, R286). -/
structure SearchEntry where
  data : Nat
  mask : Nat
  priority : Nat
  result : Nat
  deriving DecidableEq, Repr

/-- A remote map descriptor in use (11_fabric_memory.md Table 11.2). -/
structure RemoteEntry where
  base : Nat
  len : Nat
  isLocal : Bool
  read : Bool
  write : Bool
  atomic : Bool
  conn : Nat
  die : Nat
  key : Nat
  gen : Nat
  offset : Nat
  deriving DecidableEq, Repr

/-! Fabric ports, hub dies and arbiters (10_fabric_transport.md, 12_shaping_arbitration.md) -/

/-- A frame in an egress queue: its connection, and the time in ns at which it entered. -/
structure Queued where
  die : Nat
  conn : Nat
  frame : FabFrame
  since : Nat
  deriving DecidableEq, Repr

/-- A gate list with its timing (R272). -/
structure GateList where
  base : Nat
  cycle : Nat
  entries : List Nat
  deriving DecidableEq, Repr

structure Port where
  /-- Egress queues by class, oldest first. -/
  queues : SMap (List Queued) := []
  /-- The port sends a frame until this time in ns. -/
  freeAt : Nat := 0
  /-- The class of that frame. -/
  sending : Option Nat := none
  /-- Shaper credits in thousandths of a bit, and the time in ns up to which they are brought. -/
  credits : SMap Int := []
  creditAt : Nat := 0
  /-- Classes paused by priority flow control, until a time in ns (R222). -/
  paused : SMap Nat := []
  /-- The gate list runs; the start of its cycle in ns, and the entry in force. -/
  running : Bool := false
  cycleStart : Nat := 0
  entry : Nat := 0
  /-- The list that CONFIG_CHANGE made pending (R273). -/
  pending : Option GateList := none
  /-- The last frame sent. -/
  sent : Option FabFrame := none
  /-- The largest head sojourn since the last sample, by class (R277). -/
  sojourn : SMap Nat := []
  deriving DecidableEq, Repr

structure Hub where
  /-- Network time less device time, in ns (R271). -/
  timeOffset : Int := 0
  /-- Sync messages in a row within ±50 ns. -/
  good : Nat := 0
  /-- The receipt of a two-step Sync that waits for its Follow_Up. -/
  syncAt : Option Int := none
  /-- The last Sync: the master's time and its receipt; the path delay. -/
  lastSync : Option (Int × Int) := none
  pathDelay : Int := 0
  /-- A lock has been lost since reset. -/
  wasLocked : Bool := false
  /-- ns at which the running entry of the hub list began. -/
  entryFrom : Nat := 0
  /-- The hub list that a stand image left to take over at the next cycle start (R275). -/
  nextList : Option (List Nat) := none
  /-- The class reservations of the die's ports that take effect with it (16_configuration_image.md Table 16.9, step 7). -/
  nextOwners : Option Nat := none
  deriving DecidableEq, Repr

structure Arb where
  /-- The last owner. -/
  last : Option Nat := none
  /-- Masked requesters, and those unmasked since the last hub cycle start (R279). -/
  masked : Nat := 0
  unmasked : Nat := 0
  deriving DecidableEq, Repr

/-! Connections and regions (10_fabric_transport.md) -/

/-- The issuing context of a fabric memory operation (11_fabric_memory.md R255): a task by its core, its serial number
and the register that the result goes to (X by number, V by 32 + number, 64 for none); or the queue of a stand, by the
index of its entry. -/
inductive FabCtx where
  | task (core serial dst : Nat)
  | queue (stand index : Nat)
  deriving DecidableEq, Repr

/-- A fabric memory operation (Table 11.3). -/
structure MemOp where
  ctx : FabCtx
  opc : Nat
  size : Nat
  aop : Nat
  off : Nat
  operand : Nat := 0
  compare : Nat := 0
  data : List Byte := []
  faddr : Nat := 0
  deriving DecidableEq, Repr

/-- Where a remote write reads its bytes, again at each transmission (R236). -/
inductive WriteSource where
  | bytes (bs : List Byte)
  | stand (addr len : Nat)
  deriving DecidableEq, Repr

/-- Who issued a remote write or read (R244). -/
inductive Issuer where
  | nobody
  /-- Sapway of a stand: the transfer's BUNDLE_ID, and above bit 64 which attempt it is. -/
  | sapway (stand bundle : Nat)
  /-- The tier engine of a stand, for a page of T3 home. -/
  | tier (stand page : Nat)
  deriving DecidableEq, Repr

/-- What a sequenced packet carries (Table 10.4). -/
inductive FabOp where
  | write (key gen off : Nat) (src : WriteSource) (by_ : Issuer)
  | readReq (key gen off len dest : Nat) (by_ : Issuer)
  /-- Bytes of an admitted read: PSN of the request, offset within the read, the region and the offset in it. -/
  | readResp (req off region regOff len : Nat)
  | memReq (key gen : Nat) (ops : List MemOp)
  | memResp (req : Nat) (body : List Byte)
  deriving DecidableEq, Repr

/-- A sequenced packet whose outcome has not arrived. -/
structure OutPacket where
  psn : Nat
  op : FabOp
  attempt : Nat := 0
  /-- The port that its last transmission left on. -/
  port : Option Nat := none
  deriving DecidableEq, Repr

/-- A read that waits for its bytes (R235): the ranges that have arrived. -/
structure ReadWait where
  psn : Nat
  len : Nat
  dest : Nat
  got : List (Nat × Nat) := []
  by_ : Issuer
  deriving DecidableEq, Repr

/-- An outcome that its issuer has not taken yet; every command that makes one delivers it before it ends. -/
inductive FabDone where
  /-- A remote write or read (R244). -/
  | rma (by_ : Issuer) (status : Nat)
  /-- A fabric memory operation, with its result value or its 64 B. -/
  | mem (op : MemOp) (status value : Nat) (data : List Byte)
  /-- A connection entered FAILED. -/
  | connFailed (die conn : Nat)
  deriving DecidableEq, Repr

/-- A peer entry (R227). -/
structure Peer where
  mac : Nat
  vid : Nat
  tagged : Bool
  ip : Nat
  deriving DecidableEq, Repr

/-- The states of Table 10.6; a FREE connection has no entry. -/
inductive ConnState where
  | bound | open_ | closing | failed
  deriving DecidableEq, Repr

structure Conn where
  stand : Nat
  state : ConnState := .bound
  udp : Bool
  jumbo : Bool
  tclass : Nat
  ports : Nat
  peers : List Peer
  peerConn : Nat
  window : Nat
  rto : Nat
  retry : Nat
  keyId : Nat
  peerSender : Nat
  inc : Nat
  peerInc : Nat := 0
  /-- Transmissions so far (R229). -/
  sent : Nat := 0
  nextPsn : Nat := 0
  out : List OutPacket := []
  /-- Operations that wait for room in the window (R230). -/
  waiting : List FabOp := []
  reads : List ReadWait := []
  /-- MEM_REQs that wait for their MEM_RESP, by PSN. -/
  asked : SMap (List MemOp) := []
  /-- The running timeout in µs, while the timer runs (R232). -/
  timer : Option Nat := none
  /-- The lowest PSN not accepted, and the outcomes of accepted PSNs (R237). -/
  e : Nat := 0
  accepted : SMap Nat := []
  /-- Accepted PSNs that no ACK has named. -/
  owed : List (Nat × Nat) := []
  ackSeq : Nat := 0
  /-- A CLOSE command that waits, by its ring index. -/
  closer : Option Nat := none
  deriving DecidableEq, Repr

/-- What a connection number keeps while it is FREE (R243): its incarnation, the KEY_ID of its last OPEN, and the
incarnation at which it was first opened under it. -/
structure ConnPast where
  inc : Nat
  keyId : Nat
  first : Nat
  deriving DecidableEq, Repr

/-- The states of Table 10.8. -/
inductive RegionState where
  | free | active | revoking
  deriving DecidableEq, Repr

/-- A region table entry (11_fabric_memory.md Table 11.1). -/
structure Region where
  base : Nat
  len : Nat
  state : RegionState
  read : Bool
  write : Bool
  atomic : Bool
  stand : Nat
  gen : Nat
  keyHigh : Nat
  keyId : Nat
  /-- The REVOKE command that waits for the drain, by its ring index. -/
  revoker : Option Nat := none
  deriving DecidableEq, Repr

/-- Operations that wait to travel in one MEM_REQ (11_fabric_memory.md R254). -/
structure Pack where
  stand : Nat
  die : Nat
  conn : Nat
  key : Nat
  gen : Nat
  ops : List MemOp
  deriving DecidableEq, Repr

/-! The composition map (09_state_movement.md R194-R198) -/

/-- An epoch of a composition key: its record, and whether it is ACTIVE or DRAINING; bit d: the Sapway engine of hub die d
still holds it. -/
structure Epoch where
  num : Nat
  record : Nat
  active : Bool
  held : Nat := 3
  deriving DecidableEq, Repr

/-- A composition key and its epochs, newest first. -/
structure Composition where
  tenant : Nat
  model : Nat
  cls : Nat
  epochs : List Epoch
  deriving DecidableEq, Repr

/-! Barriers (11_fabric_memory.md R261-R264) -/

/-- Who waits for the release of a barrier. -/
inductive Waiter where
  | issuer (op : MemOp)
  | packet (die conn psn : Nat)
  deriving DecidableEq, Repr

structure Group where
  stand : Nat
  /-- Connection, hub die and LOCAL of each member. -/
  members : List (Nat × Nat × Bool)
  threshold : Nat
  timeoutUs : Nat
  block : Nat
  seq : Nat := 0
  completed : Nat := 0
  timeouts : Nat := 0
  suspect : Nat := 0
  /-- Members that have arrived at the current barrier, first first. -/
  arrived : List (Nat × Waiter) := []
  /-- Last arrivers of the last 256 barriers, newest first. -/
  ring : List Nat := []
  deriving DecidableEq, Repr

/-- A command ring whose commands complete in any order (R218, R246, R259): the next entry to take, and the entries in
progress. HEAD is the first of them. -/
structure Run where
  next : Nat := 0
  busy : List Nat := []
  deriving DecidableEq, Repr

/-- The issuing context of a stand's fabric memory queue (R256): STOREs, ATOMICs and ARRIVEs not completed, the first
status that was not OK since the last FENCE, and a FENCE that waits. -/
structure FmmQueue where
  run : Run := {}
  stores : Nat := 0
  bad : Nat := 0
  fence : Option Nat := none
  deriving DecidableEq, Repr

/-! The section of a stand in the image (16_configuration_image.md Table 16.4) -/

structure ModelCfg where
  canopy : Bool := false
  canopyTpp : Nat := 0
  modelId : Nat := 0
  vocab : Nat := 0
  steps : Nat := 1
  /-- Stand address of the model's PROGRAM blob in the program object (R349). -/
  program : Nat := 0
  deriving DecidableEq, Repr

structure ClassCfg where
  fallback : Bool := false
  tolerance : Nat := 0
  fallbackClass : Nat := 0
  deriving DecidableEq, Repr

structure PairCfg where
  verifier : Nat
  draft : Nat
  specK : Nat
  draftAddr : Nat
  deriving DecidableEq, Repr

structure StandCfg where
  tenant : Nat := 0
  connections : Nat := 0
  regions : Nat := 0
  mapEntries : Nat := 0
  bundleQuota : Nat := 0
  mapLeaves : Nat := 0
  canopyNodes : Nat := 0
  searchBanks : Nat := 0
  programBase : Nat := 0
  /-- Stand address of the KERNELS blob in the program object (R349). -/
  kernels : Nat := 0
  models : SMap ModelCfg := []
  rowBudget : Nat := 0
  slotMax : Nat := 0
  prefillChunk : Nat := 0
  maskWaitUs : Nat := 0
  reqMax : Nat := 0
  retainMs : Nat := 0
  manifest : Nat := 0
  classes : SMap ClassCfg := []
  pair : Option PairCfg := none
  deriving DecidableEq, Repr

/-! Vector cores (04_vector_cores.md) -/

/-- An outstanding transfer of a task (R86). -/
structure Transfer where
  tag : Nat
  out : Bool
  ls : Nat
  addr : Nat
  len : Nat
  /-- The outside is the stand address space; otherwise the activation store. -/
  inStand : Bool
  /-- ns at which it was issued. -/
  since : Nat := 0
  /-- For an XOUT, the local store bytes at issue. -/
  held : List Byte := []
  deriving DecidableEq, Repr

/-- An outstanding atomic of a task (R87). -/
structure VAtomic where
  isMax : Bool
  int : Bool
  addr : Nat
  inStand : Bool
  operand : Nat
  deriving DecidableEq, Repr

/-- What a core waits for before it goes on. -/
inductive VWait where
  | none
  /-- XWAIT on a tag. -/
  | tag (t : Nat)
  /-- An XIN or XOUT whose tag carries 16 transfers. -/
  | slot (x : Transfer)
  /-- END, with its status. -/
  | ending (status : Nat)
  /-- FENCE, with its DST (11_fabric_memory.md R256). -/
  | fence (dst : Nat)
  deriving DecidableEq, Repr

/-- A task on a vector core, with the registers of Table 4.1. -/
structure VTask where
  stand : Nat
  /-- Index within its VTASKS operation. -/
  index : Nat
  kernel : Nat
  seqValid : Bool
  seq : Nat
  /-- The task serves a remote attention request (05_attention_state.md R121). -/
  service : Bool := false
  pc : BitVec 12 := 0
  x : SMap Word := []
  v : SMap (BitVec 512) := []
  m : SMap (BitVec 16) := []
  flags : Flags := {}
  transfers : List Transfer := []
  /-- Bytes of completed XINs, defined for the task once XWAIT returns: tag, local store address, bytes. -/
  landed : List (Nat × Nat × List Byte) := []
  atomics : List VAtomic := []
  /-- Registers that an outstanding FLD or FATOM will write: X registers by number, V registers by 32 + number. -/
  locked : List Nat := []
  /-- The fabric status word, and how many fabric operations are outstanding (11_fabric_memory.md R257, R258). -/
  fabStatus : Nat := 0
  fabOut : Nat := 0
  /-- Those of them that are no LOAD, and the first status that was not OK since the last FENCE (R256). -/
  fabStores : Nat := 0
  /-- Which task of the machine this is. -/
  serial : Nat := 0
  wait : VWait := .none
  deriving DecidableEq, Repr

/-- A vector core: the kernel whose code it holds, by stand and number, and its task. -/
structure VCore where
  kernel : Option (Nat × Nat) := none
  task : Option VTask := none
  deriving DecidableEq, Repr

/-! Steps (03_matrix_cores.md, 08_serving_scheduler.md) -/

/-- A running VTASKS operation (Table 4.7). -/
structure VOp where
  index : Nat
  table : Nat
  statusAddr : Nat
  count : Nat
  limit : Nat
  next : Nat := 0
  ended : Nat := 0
  /-- A completed write of the operation that others may not see yet (R86): the task, the key and the old 64 B. -/
  writes : List (Nat × Nat × List Byte) := []
  deriving DecidableEq, Repr

inductive RowKind where
  | decode | prefill | verify | padding
  deriving DecidableEq, Repr

/-- A row of a step (08_serving_scheduler.md R173). -/
structure Row where
  /-- The request, by REQUEST_ID. -/
  req : Nat
  seq : Nat
  position : Nat
  token : Nat
  segment : Nat
  kind : RowKind
  sample : Bool
  deriving DecidableEq, Repr

/-- Why a request of a step gets no token (Table 8.9). -/
inductive NoToken where
  | maskLate | kvFull | poisoned | stateLost | segmentInvalid | maskInvalid | grammarEmpty
  deriving DecidableEq, Repr

/-- The device's words of a customer's record between the refill of a step and its commit (08_serving_scheduler.md R176,
R177). -/
structure Levels where
  tc : Int
  tp : Int
  last : Nat
  prompt : Nat
  gen : Nat
  deriving DecidableEq, Repr

/-- A step of a stand. -/
structure Step where
  model : Nat
  /-- A draft step, or the verify step, of a speculative turn (R182). -/
  draft : Bool := false
  verify : Bool := false
  rows : List Row := []
  /-- CT1 to CT15 (R67). -/
  ctr : SMap Nat := []
  /-- Operations that have started, and those that have completed, by index. -/
  started : List Nat := []
  done : List Nat := []
  vop : Option VOp := none
  layers : Nat := 0
  /-- END has completed. -/
  ended : Bool := false
  /-- The cause for which the step was abandoned. -/
  abandoned : Option Nat := none
  /-- Requests that get no token, by REQUEST_ID. -/
  noToken : SMap NoToken := []
  /-- Requests computed without remote pages (05_attention_state.md R124). -/
  degraded : List Nat := []
  /-- Ends of the positions appended in the step, by sequence, group, layer and head (05_attention_state.md R115). -/
  appendEnd : SMap Nat := []
  /-- Sequences that met KV_FULL: nothing more is written for them (05_attention_state.md R112). -/
  kvFull : List Nat := []
  /-- Grammar masks as they were applied, by REQUEST_ID: the allowed tokens' bytes. -/
  masks : SMap (List Byte) := []
  /-- Customers whose buckets were refilled, by number. -/
  levels : SMap Levels := []
  deriving DecidableEq, Repr

/-- A job ticket, and the job key once it is installed (14_trust_attestation.md R315-R317). -/
structure JobKey where
  jobId : Nat
  originator : Bool
  admission : List Byte
  key : Option (List Byte) := none
  /-- Sender identifiers of HD0 and HD1. -/
  senders : Nat × Nat := (0, 0)
  /-- At the originator: the pair given to each SERIAL, by its first identifier. -/
  pairs : SMap Nat := []
  /-- The Sapway regions under the key, by their index on the sequencer's hub die (09_state_movement.md R201). -/
  inbox : Option Nat := none
  staging : Option Nat := none
  deriving DecidableEq, Repr

/-- A JOB_JOIN in progress (14_trust_attestation.md R316). -/
structure Join where
  keyId : Nat
  port : Nat
  /-- The peer entry of the originator (Table 10.5). -/
  peer : List Byte
  nonce : List Byte
  /-- The draw that its ML-KEM key pair came from. -/
  kem : Nat
  tries : Nat := 1
  deriving DecidableEq, Repr

/-! State movement (09_state_movement.md) -/

/-- What a move is for: the KIND of its bundle, and who waits for it. -/
inductive Purpose where
  | handoff
  | fallback
  /-- SUSPEND to a cache member, by its ring index. -/
  | suspend (index : Nat)
  /-- HOLD, by its ring index: the holder table entry, and the logical pages FIRST and COUNT. -/
  | hold (index entry first count : Nat)
  /-- A bundle delivered ORPHANED (R199). -/
  | orphan
  deriving DecidableEq, Repr

/-- Where a move stands. -/
inductive MovePhase where
  | offered | accepted
  /-- DONE has been sent. -/
  | done
  deriving DecidableEq, Repr

/-- The fields of a bundle header (Table 9.1), but for those that the sections decide. -/
structure BundleHeader where
  kind : Nat
  orphaned : Bool := false
  pipelined : Bool := false
  bundle : Nat
  request : Nat
  tenant : Nat
  modelId : Nat
  cls : Nat
  customer : Nat
  epoch : Nat
  keyId : Nat
  length : Nat
  history : Nat
  promptLen : Nat
  maxNew : Nat
  ttl : Nat
  prefixTokens : Nat := 0
  geometry : List Nat
  historyCap : Nat
  nonce : List Byte
  deriving DecidableEq, Repr

/-- A section of a bundle: its type, group and layer, and its clear bytes. -/
structure Section where
  type : Nat
  group : Nat := 0
  layer : Nat := 0
  clear : List Byte
  deriving DecidableEq, Repr

/-- A move that a stand's Sapway sends. -/
structure Sending where
  purpose : Purpose
  header : BundleHeader
  seq : Nat
  /-- The token history and the sampler state, where the request has them. -/
  tokens : List Byte := []
  sampler : List Byte := []
  /-- Pages read back from a holder, by (64 × group + layer) × 2³² + logical page. -/
  back : SMap (List Byte) := []
  /-- The composition record whose members it uses, and the run of members. -/
  record : Option Nat := none
  first : Nat := 0
  count : Nat := 0
  attempt : Nat := 0
  reoffered : Bool := false
  probe : Option (Nat × List Byte) := none
  /-- The present attempt: the member, its connection, and its inbox as key, generation and slots. -/
  member : Option Nat := none
  conn : Option Nat := none
  inbox : Nat × Nat × Nat := (0, 0, 0)
  phase : MovePhase := .offered
  /-- The staging place that ACCEPT gave: region key, generation and offset. -/
  stage : Nat × Nat × Nat := (0, 0, 0)
  /-- Layers whose sections are ready, of a PIPELINED move; everything is, once `final` holds. -/
  layers : Nat := 0
  final : Bool := true
  /-- Sections sent: entry words of the section table. -/
  sent : List (Nat × Nat) := []
  /-- The offset at which the next section goes. -/
  bytes : Nat := 0
  /-- Writes without an outcome, and whether the header and table are among those sent. -/
  writes : Nat := 0
  tabled : Bool := false
  deriving DecidableEq, Repr

/-- A bundle that a stand's Sapway receives. -/
structure Arrival where
  conn : Nat
  bundle : Nat
  attempt : Nat
  /-- Header words 0 to 13 of the OFFER. -/
  words : List Byte
  probe : List Byte
  depth : Nat
  /-- The sender's inbox: key, generation and slots. -/
  inbox : Nat × Nat × Nat
  /-- ACCEPT has been sent. -/
  accepted : Bool := false
  prefixTokens : Nat := 0
  /-- The model, the sequence record and the history slot that it takes. -/
  model : Nat := 0
  seq : Option Nat := none
  slot : Option Nat := none
  /-- Its run of the staging area: offset and length. -/
  stage : Nat × Nat := (0, 0)
  /-- The canopy node that the ACCEPT pinned. -/
  pinned : Option Nat := none
  /-- Device commands that must have been applied before it is installed. -/
  mark : Nat := 0
  /-- A section has been received, and a CANCEL has been seen. -/
  begun : Bool := false
  cancel : Bool := false
  deriving DecidableEq, Repr

/-- A dormant bundle in a stand's bundle store (R207): its place in the store, its bytes, and the ns at which it
expires. -/
structure Dormant where
  offset : Nat
  bytes : Nat
  tokens : Nat
  expires : Nat
  deriving DecidableEq, Repr

/-- The Sapway state of a stand. -/
structure Sapway where
  /-- Control messages that have arrived: connection and bytes. -/
  mail : List (Nat × List Byte) := []
  sending : List Sending := []
  arrivals : List Arrival := []
  /-- Bundles held, by BUNDLE_ID. -/
  store : SMap Dormant := []
  /-- The random half and the counter of BUNDLE_ID, and every value drawn (R193). -/
  random : Nat := 0
  counter : Nat := 0
  drawn : List Nat := []
  /-- Token histories by sequence: stand address and tokens. -/
  histories : SMap (Nat × Nat) := []
  /-- Slots of the history pool, by sequence. -/
  slots : SMap Nat := []
  /-- CANOPY_DROP commands that wait for pins: ring index and anchor. -/
  drops : List (Nat × Nat) := []
  /-- Holder records: the ns at which each expires, by sequence (R210). -/
  holds : SMap Nat := []
  deriving DecidableEq, Repr

inductive ReqState where
  | queued | prefill | generating
  deriving DecidableEq, Repr

/-- An active request of a stand (08_serving_scheduler.md). -/
structure Request where
  id : Nat
  /-- The submission entry as intake copied it (Table 8.3). -/
  entry : List Byte
  state : ReqState := .queued
  cancel : Bool := false
  /-- It came by handoff, or by fallback. -/
  arrived : Bool := false
  fellBack : Bool := false
  /-- Generated tokens committed. -/
  generated : Nat := 0
  /-- The pending deadline in µs, and whether it has been counted. -/
  deadline : Option Nat := none
  counted : Bool := false
  misses : Nat := 0
  /-- KV commands that were in the ring, and that the device had issued, at intake (R170). -/
  ringMark : Nat := 0
  deviceMark : Nat := 0
  /-- Draft tokens sampled in the present speculative turn. -/
  drafts : List Nat := []
  /-- The composition epoch that it is bound to, and the prefix that its lookup matched: depth and hash
  (09_state_movement.md R197, R214). -/
  bound : Option Nat := none
  probe : Option (Nat × List Byte) := none
  deriving DecidableEq, Repr

/-- A done record (R180). -/
structure DoneRecord where
  id : Nat
  status : Nat
  atUs : Nat
  deriving DecidableEq, Repr

/-- The model turn of a stand (R172). -/
structure Turn where
  model : Nat := 0
  /-- Steps taken in the turn. -/
  taken : Nat := 0
  /-- Draft steps taken in the present speculative turn. -/
  drafts : Nat := 0
  deriving DecidableEq, Repr

/-- Where the reset or replacement of a stand is (17_startup_reset_test.md Table 17.4; 16_configuration_image.md
Table 16.9). -/
inductive LifeStage where
  | steady
  /-- Intake has stopped; steps go on. -/
  | draining
  /-- The drain has ended; completion entries are being written for at most 100 ms. -/
  | reporting
  /-- Keys are erased; the relay has not confirmed it. -/
  | erasing
  /-- Frames are zeroed for an installation. -/
  | zeroing
  deriving DecidableEq, Repr

/-- What started a reset of a stand; `start` is its creation at the start of the package. -/
inductive LifeCause where
  | command | flr | replacement | release | stop | start
  deriving DecidableEq, Repr

structure Life where
  stage : LifeStage := .steady
  cause : LifeCause := .command
  /-- DRAIN_MS of the drain. -/
  drainMs : Nat := 0
  deriving DecidableEq, Repr

structure Stand where
  cond : StandCond := .absent
  life : Life := {}
  /-- The stand has stopped for a fault (19_faults_events.md R397). -/
  stopped : Bool := false
  cfg : StandCfg := {}
  tiers : Tiers := {}
  kv : Kv := {}
  step : Option Step := none
  requests : List Request := []
  done : List DoneRecord := []
  /-- Models that passed their load checks (16_configuration_image.md R350). -/
  loaded : List Nat := []
  /-- Models whose program does not run until software rewrites a poisoned weight object (Table 3.8): the stand address
  of the poisoned index entry (true), or of the poisoned plane (false). -/
  blocked : SMap (Bool × Nat) := []
  turn : Turn := {}
  /-- The submission queue that intake serves next. -/
  intakeTurn : Nat := 0
  /-- Energy below 1 µJ, in 1/256 pJ (R185), and the activity counters at the last millisecond. -/
  energyRest : Nat := 0
  activity : SMap Nat := []
  /-- Weight keys by KEY_ID (14_trust_attestation.md R313). -/
  weightKeys : SMap (List Byte) := []
  jobKeys : SMap JobKey := []
  /-- SMR0 to SMR3 and the stand's measurement log (R307, R308). -/
  smr : List (List Byte) := List.replicate 4 (List.replicate 32 0)
  log : List (List Byte) := []
  /-- The draw that the stand's ML-KEM key pair came from; none while it has none. -/
  kem : Option Nat := none
  join : Option Join := none
  fabRun : Run := {}
  swyRun : Run := {}
  fmm : FmmQueue := {}
  /-- The remote map's entries, by index (11_fabric_memory.md R248). -/
  remoteMap : SMap RemoteEntry := []
  /-- Canopy nodes by index. -/
  canopy : SMap CanopyNode := []
  sapway : Sapway := {}
  /-- Completion entries that wait for room in their queue, by queue: the entry's bytes without PHASE. -/
  cqWaiting : SMap (List (List Byte)) := []
  /-- Completion queues written to since their last interrupt. -/
  cqWritten : List Nat := []
  deriving DecidableEq, Repr

/-! Trust (14_trust_attestation.md) -/

/-- What outlives a package reset beside the flash: fuses, the mirror of the LMS reservation, and the marks of the
firmware slots (R299, R303, R318). The secret fuses and the serial number never change: they are constants of Config. -/
structure Fuses where
  /-- OWNER_SLOT0 on: the hashes written. -/
  owners : List (List Byte) := []
  revoked : Nat := 0
  svn : Nat := 0
  /-- Bits of LMS_BLOCKS that are burnt, or counted as reserved. -/
  blocks : Nat := 0
  /-- The last mirror record: its block and its commit flag. -/
  mirror : Option (Nat × Bool) := none
  /-- The firmware slot that the active mark names, and one that holds a staged package. -/
  active : Nat := 0
  staged : Option Nat := none
  deriving DecidableEq, Repr

structure Heartwood where
  /-- PMR0 to PMR3 and the package log. -/
  pmr : List (List Byte) := List.replicate 4 (List.replicate 32 0)
  log : List (List Byte) := []
  /-- The leaf block in use. -/
  block : Nat := 0
  /-- The LMS trees are built (R305). -/
  trees : Bool := false
  /-- Three burns in a row failed (R304). -/
  fuseFailed : Bool := false
  /-- Counters of relay messages: the last that Heartwood sent, and the last that the relay accepted (R297). -/
  relaySent : Nat := 0
  relayLast : Nat := 0
  deriving DecidableEq, Repr

/-! The image (16_configuration_image.md) -/

/-- A replacement, creation or deletion of a stand in progress (R358): its cell, its IMAGE_SEQ, and its section; none for
a deletion. -/
structure Replace where
  stand : Nat
  cell : Nat
  seq : Nat
  sec : Option (List Byte)
  deriving DecidableEq, Repr

structure ImageState where
  /-- The active slot, and its IMAGE_SEQ. -/
  active : Option Nat := none
  seq : Nat := 0
  /-- Its PACKAGE section. -/
  package : List Byte := []
  /-- The section of each stand and the target it came from: 0 slot A, 1 slot B, or 16 + cell. -/
  sections : SMap (Nat × List Byte) := []
  replace : Option Replace := none
  deriving DecidableEq, Repr

/-- The self-tests in progress (17_startup_reset_test.md R371-R374): their kinds, and the groves that wait for the end of
their stand's step, as a mask. The groves under test are those of RST_GROVE_STATUS. -/
structure TestRun where
  logic : Bool := false
  sram : Bool := false
  hbm : Bool := false
  waiting : Nat := 0
  deriving DecidableEq, Repr

/-! Power and calibration (18_power_thermal.md; 17_startup_reset_test.md R375-R377) -/

/-- What the governor starts and stops. -/
inductive PowerUnit where
  | matrix (cluster : Nat)
  | vector (core : Nat)
  deriving DecidableEq, Repr

/-- A start or stop that was granted: when, in ns, its package power in mW, its rail and its current in mA (R382). -/
structure Grant where
  at_ : Nat
  mw : Nat
  rail : Nat
  ma : Nat
  deriving DecidableEq, Repr

/-- A start or stop that waits, and the ns of its request. -/
structure PowerReq where
  stop : Bool
  unit : PowerUnit
  since : Nat
  deriving DecidableEq, Repr

/-- A clocked core at work, or in ballast (R383); a core without an entry is not clocked. -/
inductive Clock where
  | work | ballast
  deriving DecidableEq, Repr

/-- The stagger pattern of a sealed stand (R384): the clusters still to stop, in their order, and those to start. -/
structure Pattern where
  stopping : List Nat := []
  starting : List Nat := []
  /-- ns at which the next one is due. -/
  due : Nat := 0
  deriving DecidableEq, Repr

structure Power where
  /-- RAMP_W_PER_MS, SLEW_A_PER_US and POWER_LIMIT_W of the package section. -/
  rampW : Nat := 0
  slewA : Nat := 0
  limitW : Nat := 0
  starts : List Grant := []
  stops : List Grant := []
  waiting : List PowerReq := []
  /-- Clocked matrix cores by cluster, and clocked vector cores by number. -/
  matrix : SMap Clock := []
  vector : SMap Clock := []
  sealed : SMap Pattern := []
  /-- Tenths of a µJ below a count of PWR_PACKAGE_UJ. -/
  energyRest : Nat := 0
  /-- Evaluations in a row with a cool package, and with a low power (R388). -/
  cool : Nat := 0
  low : Nat := 0
  /-- ns since which the underlying level has been below the reported one (15_isolation.md R339). -/
  levelLow : Option Nat := none
  /-- Sensors that read 112 °C or above at the last sample, by 32 × die + sensor (R389). -/
  hot : List Nat := []
  deriving DecidableEq, Repr

/-- A periodic calibration that is due: the intervals it has waited, whether CAL_OVERDUE has been reported, and the
channels that it will find failing. -/
structure CalDue where
  waited : Nat := 0
  reported : Bool := false
  failing : List Nat := []
  deriving DecidableEq, Repr

/-! The machine -/

structure State where
  /-- Commands that wait, first in first out. -/
  pending : List Instr := []
  /-- How many free values have been drawn: the model's own counter (log 6). -/
  freeCtr : Nat := 0
  /-- Nanoseconds since package reset, counted from REFCLK (19_faults_events.md R400). -/
  timeNs : Nat := 0
  phase : Phase := .off
  pins : Pins := {}
  /-- Registers by offset; a register not listed holds its reset value. -/
  regs : SMap Word := []
  mem : Mem
  /-- Index wraps, modulo 2, of the rings that the device writes, by the offset of the ring register (R445). -/
  laps : SMap Nat := []
  recorder : Recorder := {}
  /-- Sapway events that wait for a slot, oldest first: by stand, and 24 for the package ring (R450). -/
  swyWaiting : SMap (List (List Byte)) := []
  host : HostIf := {}
  mgmt : Mgmt := {}
  /-- Faulty halves of the die-link modules, by 16 * link + module: low half, high half (01_organisation.md R14). -/
  modules : SMap (Bool × Bool) := []
  /-- Vector cores by package-wide number. -/
  cores : SMap VCore := []
  /-- Tasks started so far: the model's own counter, by which an operation knows its task. -/
  taskCount : Nat := 0
  /-- Search entries by 4096 × bank + slot. -/
  search : SMap SearchEntry := []
  /-- Results of the last burst of searches. -/
  searchResults : List (Option Nat) := []
  ports : SMap Port := []
  hubs : SMap Hub := []
  arbs : SMap Arb := []
  /-- Connections by 65,536 × hub die + number, and what FREE ones keep. -/
  conns : SMap Conn := []
  connPast : SMap ConnPast := []
  /-- Regions by 1,048,576 × hub die + index. -/
  regions : SMap Region := []
  packs : List Pack := []
  /-- Outcomes on their way to their issuers: empty between commands. -/
  fabDone : List FabDone := []
  /-- Composition records, member entries and the composition map's keys. -/
  records : SMap CompRecord := []
  members : SMap Member := []
  comps : List Composition := []
  /-- Groups by 1,024 × hub die + number. -/
  groups : SMap Group := []
  fuses : Fuses := {}
  heart : Heartwood := {}
  image : ImageState := {}
  tests : TestRun := {}
  power : Power := {}
  /-- Calibrations that are due, by 32 × calibration + port or hub die (Table 17.7). -/
  calDue : SMap CalDue := []
  /-- Memory channels whose last calibration failed: HBM4 index, or 512 + DDR5 channel. -/
  calFailed : List Nat := []
  /-- Gate lists, 0-15, and hub lists, 16 and 17, for which CAL_WINDOW_MISSING has been recorded. -/
  calMissing : List Nat := []
  /-- Bit q: stand sequencer SQq is out of service. -/
  sequencersOut : Nat := 0
  stands : SMap Stand := []
  deriving DecidableEq, Repr

/-- Why a command stops the machine. No command of this part does: its faults are events with effects of their own. -/
inductive Fault where
  /-- Raised by nobody: kept so that the type has a name to give. Safe. -/
  | none
  deriving DecidableEq, Repr

/-- Why a command has no meaning. -/
inductive Refusal where
  /-- Raised by the dispatcher for a command that has no meaning yet. Safe. -/
  | notModelled (mnemonic : String)
  deriving DecidableEq, Repr

/-- Host memory, the flash and the memories of peers hold what the world outside put there: open content until the
device writes it (log 5). -/
def Mem.atReset : Mem :=
  ⟨[], [⟨0, 2 * spaceSize, 0⟩,
        ⟨131072 * spaceSize, (131072 + 131072) * spaceSize, 0⟩]⟩

/-- The machine before power is good: PWROK low, every register at its reset value, nothing listed in memory. -/
def State.reset : State := { mem := Mem.atReset }

end Sys2Proof.Machine
end

