-- ==== Sys2Proof/Machine/Ops.lean ====
section
/-! DEFINITION. The named operations over registers, functions of the host port and stands. -/

namespace Sys2Proof.Machine

open Sys2Proof

/-! Registers (00_scope.md R5, R7) -/

/-- A register as the state holds it. -/
def State.reg (s : State) (r : Reg) (i j : Nat) : Nat :=
  match s.regs.get? (r.addr i j) with
  | some w => w.toNat
  | none => r.resetValue i j

/-- A register set whole. -/
def State.setReg (s : State) (r : Reg) (i j v : Nat) : State :=
  { s with regs := s.regs.set (r.addr i j) (BitVec.ofNat 64 v) }

/-- A field of a register of instance `i`, sub-instance `j`. -/
def State.fld (s : State) (f : Field) (i : Nat := 0) (j : Nat := 0) : Nat :=
  bits (s.reg f.reg i j) f.lo f.w

/-- A field set by the device; the value is cut to the field's width. -/
def State.setFld (s : State) (f : Field) (i j v : Nat) : State :=
  s.setReg f.reg i j (setBits (s.reg f.reg i j) f.lo f.w v)

/-- A counter field raised by `n`, wrapping at its width. -/
def State.addFld (s : State) (f : Field) (i j n : Nat) : State := s.setFld f i j (s.fld f i j + n)

/-- A counter field raised by `n`, saturating at its width. -/
def State.satFld (s : State) (f : Field) (i j n : Nat) : State :=
  s.setFld f i j (min (s.fld f i j + n) (2 ^ f.w - 1))

/-- A one-bit field as a Bool. -/
def State.flag (s : State) (f : Field) (i : Nat := 0) (j : Nat := 0) : Bool := s.fld f i j == 1

/-- A register put back to its reset value. -/
def State.resetReg (s : State) (r : Reg) (i j : Nat) : State := { s with regs := s.regs.del (r.addr i j) }

/-- Every instance and sub-instance of the registers `rs` of unit `i` put back to its reset value. -/
def State.resetRegs (s : State) (rs : List Reg) (i : Nat) : State :=
  rs.foldl (fun s r => (List.range r.info.subCount).foldl (fun s j => s.resetReg r i j) s) s

/-- A sticky error bit set; the context is written only while the error register reads all zeros
(03_matrix_cores.md R81, followed by R103, R142, R163 and their like). -/
def State.flagError (s : State) (f : Field) (i : Nat) (context : State → State) : State :=
  let t := if s.reg f.reg i 0 = 0 then context s else s
  t.setFld f i 0 1

/-- SCH_NOW: microseconds counted from REFCLK (08_serving_scheduler.md R178). -/
def State.nowUs (s : State) : Nat := s.timeNs / 1000

/-- A clock period of REFCLK with no command: time goes on while power is good and REFCLK runs (log 1). -/
def State.idle (s : State) : State := if s.pins.pwrok && s.pins.refclk then { s with timeNs := s.timeNs + 10 } else s

/-! Stands -/

/-- The state of stand `n`; a stand that was never touched is absent. -/
def State.stand (s : State) (n : Nat) : Stand := (s.stands.get? n).getD {}

/-- Stand `n` set. -/
def State.setStand (s : State) (n : Nat) (x : Stand) : State := { s with stands := s.stands.set n x }

/-- Stand `n` changed by `f`. -/
def State.updStand (s : State) (n : Nat) (f : Stand → Stand) : State := s.setStand n (f (s.stand n))

/-- A field of GLB_STAND_n, the installed layout (01_organisation.md R26). -/
def State.layout (s : State) (f : Field) (n : Nat) : Nat := s.fld f 0 n

/-- The groves of stand `n` in rising order. -/
def State.groves (s : State) (n : Nat) : List Nat := bitsOf 24 (s.layout Fld.GLB_STAND_GROVES n)

/-- The hub half-stacks of stand `n` in rising order (07_memory_tiers.md R148). -/
def State.halfStacks (s : State) (n : Nat) : List Nat := bitsOf 8 (s.layout Fld.GLB_STAND_HUB_HALF_STACKS n)

/-- The DDR5 channels of stand `n` in rising order. -/
def State.channels (s : State) (n : Nat) : List Nat := bitsOf 16 (s.layout Fld.GLB_STAND_DDR_CHANNELS n)

/-- The clusters of stand `n`: grove g holds clusters 4g to 4g + 3 (R17). -/
def State.clusters (s : State) (n : Nat) : List Nat :=
  (s.groves n).flatMap (fun g => [4 * g, 4 * g + 1, 4 * g + 2, 4 * g + 3])

/-- The stand exists. -/
def State.standValid (s : State) (n : Nat) : Bool := n < 24 && s.layout Fld.GLB_STAND_VALID n == 1

/-- The stand is sealed. -/
def State.sealedStand (s : State) (n : Nat) : Bool := s.layout Fld.GLB_STAND_SEALED n == 1

/-- The hub die of the stand's sequencer: SQ0-SQ11 on HD0 (R17). -/
def State.hubOf (s : State) (n : Nat) : Nat := if s.layout Fld.GLB_STAND_SEQUENCER n < 12 then 0 else 1

/-- The stand that holds a grove, if any. -/
def State.groveStand (s : State) (g : Nat) : Option Nat :=
  (List.range 24).find? (fun n => s.standValid n && (s.groves n).contains g)

/-- The home hub die of a compute die (R10). -/
def homeHub (die : Nat) : Nat := if [0, 1, 3].contains die then 0 else 1

/-- An installed job key of stand `n` (14_trust_attestation.md R315, R316). -/
def State.jobKey (s : State) (n keyId : Nat) : Option (List Byte) :=
  ((s.stand n).jobKeys.get? keyId).bind (·.key)

/-! Regions (10_fabric_transport.md R238) -/

/-- Regions of stand `n` that are not FREE. -/
def State.regionsUsed (s : State) (n : Nat) : Nat :=
  (s.regions.filter (fun r => r.2.stand == n && r.2.state != .free)).length

/-- The key of a region. -/
def State.regionKey (s : State) (idx : Nat) : Nat :=
  match s.regions.get? idx with
  | some r => r.keyHigh * 2 ^ 20 + idx % 1048576
  | none => 0

/-! The host port (20_host_interface.md) -/

/-- The number of a function in the masks of the host port. -/
def fnNum : Fn → Nat
  | .vf n => n
  | .pf => 24

/-- The function exists (R409). -/
def State.fnExists (s : State) : Fn → Bool
  | .pf => true
  | .vf n => n < 24 && s.host.vfEnable && n < s.host.numVfs

/-- The device may reach host memory for a function (R419). -/
def State.hostReach (s : State) (f : Fn) : Bool :=
  s.fnExists f && s.host.busMaster.testBit (fnNum f) && s.flag Fld.GLB_LINK_STATUS_LINK_UP

/-- An MSI-X message of a function is sent, or its pending bit is set while the function cannot send (R419, R420). -/
def State.msix (s : State) (f : Fn) (vec : Nat) : State :=
  let k := 32 * fnNum f + vec
  if s.hostReach f then
    { s with host := { s.host with msixSent := s.host.msixSent.set k ((s.host.msixSent.get? k).getD 0 + 1) } }
  else if s.host.msixPending.contains k then s
  else { s with host := { s.host with msixPending := k :: s.host.msixPending } }

/-- Pending messages of functions that can send again are sent (R419: work resumes). -/
def State.msixFlush (s : State) : State :=
  let fnOf := fun k : Nat => if k / 32 = 24 then Fn.pf else Fn.vf (k / 32)
  let go := s.host.msixPending.filter (fun k => s.hostReach (fnOf k))
  let t := { s with host := { s.host with msixPending := s.host.msixPending.filter (fun k => !s.hostReach (fnOf k)) } }
  go.foldl (fun t k => t.msix (fnOf k) (k % 32)) t

/-- Bytes written to host memory for a function; nothing is written while the function cannot reach it (R419). -/
def State.hostWrite (s : State) (f : Fn) (a : Nat) (bs : List Byte) : State :=
  if s.hostReach f then { s with mem := s.mem.putList (Space.host.key a) bs } else s

end Sys2Proof.Machine
end

