-- ==== Sys2Proof/Machine/StandMem.lean ====
section
/-! DEFINITION. The stand address space: where a stand address lies, and the ordinary accesses to it
(07_memory_tiers.md R143, R148, R153, R154, R157, R160). -/

namespace Sys2Proof.Machine

open Sys2Proof

/-- 64 KiB. -/
def pageSize : Nat := 65536

/-- 36 GiB: a half-stack, and the HBM of a grove. -/
def halfStackSize : Nat := 36 * 2 ^ 30

/-- Frames of 64 KiB in a grove or a half-stack. -/
def framesPerGrove : Nat := halfStackSize / pageSize

/-- The number of the program object (16_configuration_image.md R349). -/
def programObject : Nat := 65535

/-- The object whose range holds a stand address. -/
def Tiers.objectAt (t : Tiers) (a : Nat) : Option (Nat × TierObject) :=
  t.objects.find? (fun e => e.2.base ≤ a && a < e.2.base + e.2.pages * pageSize)

/-- The map entry of a page. -/
def Tiers.page (t : Tiers) (p : Nat) : PageEntry := (t.pages.get? p).getD {}

/-- The map entry of a page set. -/
def Tiers.setPage (t : Tiers) (p : Nat) (e : PageEntry) : Tiers := { t with pages := t.pages.set p e }

/-- The byte map key of a byte of a stand's T1 space (R148). -/
def State.t1Key (s : State) (n off : Nat) : Nat :=
  (Space.hm ((s.halfStacks n).getD (off / halfStackSize) 0)).key (off % halfStackSize)

/-- The DDR5 channel of a byte of a stand's T2 space (R148). -/
def State.t2Channel (s : State) (n off : Nat) : Nat :=
  let ch := s.channels n
  ch.getD (off / 4096 % ch.length) 0

/-- The key of a byte of a stand's T2 space (R148). -/
def State.t2Key (s : State) (n off : Nat) : Nat :=
  (Space.ddr (s.t2Channel n off)).key (off / 4096 / (s.channels n).length * 4096 + off % 4096)

/-- The key of byte `off` of a frame of T0 or of the T1 space. -/
def State.frameKey (s : State) (n : Nat) (f : Frame) (off : Nat) : Nat :=
  if f.tier = 0 then (Space.t0 f.grove).key (f.num * pageSize + off) else s.t1Key n (f.num * pageSize + off)

/-- The key of byte `off` of page `idx` of an object, at its home. -/
def State.homeKey (s : State) (n : Nat) (o : TierObject) (idx off : Nat) (e : PageEntry) : Nat :=
  match o.home with
  | 0 => s.frameKey n (e.home.getD ⟨0, 0, 0⟩) off
  | 1 => s.t1Key n (o.homeOffset + idx * pageSize + off)
  | 2 => s.t2Key n (o.homeOffset + idx * pageSize + off)
  | _ => (Space.peer (o.conn / 65536) (o.conn % 65536)).key
           (o.regionKey * 2 ^ 64 + o.remoteOffset + idx * pageSize + off)

/-- Where a stand address is served. -/
structure Loc where
  obj : Nat
  page : Nat
  key : Nat
  lost : Bool
  /-- A page of T3 home without a copy whose connection carries nothing: no access reaches its home (R155, R160). -/
  gone : Bool
  deriving DecidableEq, Repr

/-- The stand's enabled KV aperture holds the address (R144): the KV manager decodes it, never the tier map. -/
def Stand.inAperture (st : Stand) (a : Nat) : Bool :=
  match st.kv.aperture with
  | some b => b ≤ a && a < b + 64 * 2 ^ 30
  | none => false

/-- The place that serves an address: the copy if there is one, the home otherwise (R153, R157); none when the
address is unmapped or lies in the KV aperture. -/
def State.loc (s : State) (n a : Nat) : Option Loc :=
  let st := s.stand n
  if st.inAperture a then none
  else
    match st.tiers.objectAt a with
    | none => none
    | some (k, o) =>
      let p := a / pageSize
      let e := st.tiers.page p
      let key := match e.copy with
        | some c => s.frameKey n c.frame (a % pageSize)
        | none => s.homeKey n o ((a - o.base) / pageSize) (a % pageSize) e
      let carried := (s.conns.get? o.conn).any (fun c => c.state == .open_ && c.stand == n)
      some ⟨k, p, key, e.lost, o.home == 3 && e.copy.isNone && !carried⟩

/-- What an access to stand memory returns. -/
inductive Got where
  | ok (bs : List Byte)
  | unmapped
  | poisoned
  deriving DecidableEq, Repr

/-- `n` addresses from `a`. -/
def addrs (a n : Nat) : List Nat := (List.range n).map (a + ·)

/-- The reference bit of the copies of the pages an access touches is set (R156). -/
def State.touch (s : State) (n a len : Nat) : State :=
  let pages := (List.range ((a + len - 1) / pageSize - a / pageSize + 1)).map (a / pageSize + ·)
  s.updStand n (fun st =>
    { st with tiers := pages.foldl (fun t p =>
        match (t.page p).copy with
        | some c => t.setPage p { t.page p with copy := some { c with ref := true } }
        | none => t) st.tiers })

/-- Bytes at stand addresses, without any effect of the access. -/
def State.peek (s : State) (n a len : Nat) : Got :=
  let ls := (addrs a len).map (s.loc n)
  if ls.any Option.isNone then .unmapped
  else if ls.any (fun l => l.any (fun q => q.lost || q.gone)) then .poisoned
  else .ok (ls.filterMap (fun l => l.map (fun q => s.mem.byte q.key)))

/-- The number spelled by `len` bytes at a stand address; 0 where they cannot be read. -/
def State.peekLe (s : State) (n a len : Nat) : Nat :=
  match s.peek n a len with
  | .ok bs => ofBytes bs
  | _ => 0

/-- UNMAPPED recorded in TIER_ERROR (R143); OBJECT and TAG read 0. -/
def State.flagUnmapped (s : State) (n a : Nat) : State :=
  s.flagError Fld.TIER_ERROR_UNMAPPED n (fun s =>
    (s.setReg .TIER_ERROR_INFO n 0 0).setReg .TIER_ERROR_ADDR n 0 (a % 2 ^ 48))

/-- What the device reads at an address that a command gives: an unmapped address is recorded (R143). -/
def State.noted (s : State) (n a len : Nat) : State :=
  match s.peek n a len with
  | .unmapped => s.flagUnmapped n a
  | _ => s

/-- REMOTE_FAILED recorded in TIER_ERROR where an access touched a T3 home that the fabric does not reach, with the
context of the first such page's object (R160). -/
def State.flagRemote (s : State) (n a len : Nat) : State :=
  match (addrs a len).find? (fun x => (s.loc n x).any (·.gone)) with
  | none => s
  | some x =>
    match (s.stand n).tiers.objectAt x with
    | none => s
    | some (k, o) =>
      s.flagError Fld.TIER_ERROR_REMOTE_FAILED n (fun s =>
        (s.setReg .TIER_ERROR_INFO n 0 (k + 3 * 2 ^ 16 + o.tag * 2 ^ 18)).setReg .TIER_ERROR_ADDR n 0
          (x / pageSize * pageSize))

/-- A read of stand memory: it sets reference bits, and an unmapped address is recorded (R143, R156); one of a T3 home
that the fabric does not reach is poisoned (R160). -/
def State.standRead (s : State) (n a len : Nat) : Got × State :=
  match s.peek n a len with
  | .ok bs => (.ok bs, s.touch n a len)
  | .poisoned => (.poisoned, (s.flagRemote n a len).touch n a len)
  | .unmapped => (.unmapped, s.flagUnmapped n a)

/-- The address may be written: mapped, and not in the program object (16_configuration_image.md R349). -/
def State.writable (s : State) (n a : Nat) : Bool := (s.loc n a).any (fun l => l.obj != programObject)

/-- One byte written at a mapped stand address: at the copy, whose unit becomes dirty, or at the home; a LOST page, or a
T3 home that the fabric does not reach, takes no byte (R154, R160). -/
def State.putByte (s : State) (n a : Nat) (b : Byte) : State :=
  match s.loc n a with
  | none => s
  | some l =>
    if l.lost ∨ l.gone then s
    else
      let t := { s with mem := s.mem.put l.key b }
      let unit := 2 ^ (a % pageSize / 4096)
      match ((s.stand n).tiers.page l.page).copy with
      | none => t
      | some c =>
        t.updStand n (fun st => { st with tiers :=
          (st.tiers.setPage l.page { st.tiers.page l.page with
            copy := some { c with dirty := c.dirty ||| unit, sent := c.sent ^^^ (c.sent &&& unit), ref := true } }) })

/-- Bytes written from a mapped stand address on. -/
def State.putBytes (s : State) (n : Nat) : Nat → List Byte → State
  | _, [] => s
  | a, b :: bs => (s.putByte n a b).putBytes n (a + 1) bs

/-- Every byte of a range may be written. -/
def State.writableRange (s : State) (n a len : Nat) : Bool := (addrs a len).all (s.writable n)

/-- A write of stand memory. An unmapped address, or one in the program object, moves no byte and is recorded
(R143, R349); bytes of a T3 home that the fabric does not reach are not applied (R160). -/
def State.standWrite (s : State) (n a : Nat) (bs : List Byte) : State :=
  if s.writableRange n a bs.length then (s.putBytes n a bs).flagRemote n a bs.length else s.flagUnmapped n a

/-- A little-endian number written to stand memory. -/
def State.pokeLe (s : State) (n a len v : Nat) : State := s.standWrite n a (toBytes len v)

end Sys2Proof.Machine
end

