-- ==== Sys2Proof/Machine/Frames.lean ====
section
/-! DEFINITION. Frames of T0 and of the T1 space: which are free, where a page's frame lies, and tier-map leaves
(07_memory_tiers.md R148-R150, R156; 19_faults_events.md R395). -/

namespace Sys2Proof.Machine

open Sys2Proof

/-- The HBM4 channel index (32 × stack + channel) is out of service (19_faults_events.md R406). -/
def State.hbmOut (s : State) (i : Nat) : Bool := (s.fld Fld.EVR_HBM_OUT_OUT 0 (i / 64)).testBit (i % 64)

/-- The sixteen channels of a grove (R19). -/
def groveChannels (g : Nat) : List Nat :=
  (List.range 16).map (fun c => 32 * (2 * (g / 4) + g % 4 / 2) + 16 * (g % 2) + c)

/-- The sixteen channels of a hub half-stack (Table 1.4). -/
def halfStackChannels (h : Nat) : List Nat := (List.range 16).map (fun c => 32 * (12 + h / 2) + 16 * (h % 2) + c)

/-- A channel of the grove is out of service: its T0 frames are withdrawn (R395). -/
def State.groveWithdrawn (s : State) (g : Nat) : Bool := (groveChannels g).any s.hbmOut

/-- A channel of the half-stack is out of service: its T1 frames are withdrawn (R395). -/
def State.halfWithdrawn (s : State) (h : Nat) : Bool := (halfStackChannels h).any s.hbmOut

/-- The frames that the entries of a stand hold: homes, copies and the destinations of promotions. -/
def Tiers.framesHeld (t : Tiers) : List Frame :=
  t.pages.flatMap (fun e => e.2.home.toList ++ (e.2.copy.map (·.frame)).toList ++
    (match e.2.move with | .promoting f => [f] | _ => []))

/-- The T0 frames of a grove that are in use. -/
def Tiers.t0Used (t : Tiers) (g : Nat) : List Nat :=
  (t.framesHeld.filter (fun f => f.tier == 0 && f.grove == g)).map (·.num)

/-- The lowest number not in a list, below `n`. -/
def lowestFree (used : List Nat) (n : Nat) : Option Nat :=
  (List.range (min n (used.length + 1))).find? (fun i => !used.contains i)

/-- The lowest free T0 frame of a grove of stand `n`. -/
def State.freeT0 (s : State) (n g : Nat) : Option Frame :=
  if s.groveWithdrawn g then none
  else (lowestFree ((s.stand n).tiers.t0Used g) framesPerGrove).map (fun i => ⟨0, g, i⟩)

/-- The home range of a T1 object, in frames of the T1 space. -/
def TierObject.t1Range (o : TierObject) : Nat × Nat := (o.homeOffset / pageSize, o.homeOffset / pageSize + o.pages)

/-- A frame of the T1 space is in use: in an object's home range, or holding a copy (R149). -/
def Tiers.t1Used (t : Tiers) (i : Nat) : Bool :=
  t.objects.any (fun e => e.2.home == 1 && e.2.t1Range.1 ≤ i && i < e.2.t1Range.2) ||
  t.framesHeld.any (fun f => f.tier == 1 && f.num == i)

/-- Frames in the T1 space of stand `n`. -/
def State.t1Frames (s : State) (n : Nat) : Nat := (s.halfStacks n).length * framesPerGrove

/-- A frame of the T1 space may take a copy. -/
def State.t1FrameFree (s : State) (n i : Nat) : Bool :=
  i < s.t1Frames n && !s.halfWithdrawn ((s.halfStacks n).getD (i / framesPerGrove) 0) && !(s.stand n).tiers.t1Used i

/-- The lowest free frame of the T1 space: it is frame 0, the first of a half-stack or the successor of one in use. -/
def State.freeT1 (s : State) (n : Nat) : Option Frame :=
  let t := (s.stand n).tiers
  let cand := [0] ++ (List.range (s.halfStacks n).length).map (· * framesPerGrove) ++
    (t.objects.filter (fun e => e.2.home == 1)).map (fun e => e.2.t1Range.2) ++
    (t.framesHeld.filter (·.tier == 1)).map (·.num + 1)
  let free := cand.filter (s.t1FrameFree n)
  match free with
  | [] => none
  | x :: xs => some ⟨1, 0, xs.foldl min x⟩

/-- The stand die order (03_matrix_cores.md R70). -/
def State.dieOrder (s : State) (n : Nat) : List Nat :=
  [0, 1, 2, 5, 4, 3].filter (fun d => (s.groves n).any (fun g => g / 4 == d))

/-- The grove that takes the T0 frame of page `idx` of an object (R149). -/
def State.placeGrove (s : State) (n : Nat) (o : TierObject) (idx : Nat) : Nat :=
  let gs := s.groves n
  let l := if o.place = 1 then gs.filter (fun g => g / 4 == (s.dieOrder n).getD o.die 0) else gs
  l.getD (idx % l.length) 0

/-- The copy tier of an object: T1 for hint NEAR, T0 otherwise. -/
def TierObject.copyTier (o : TierObject) : Nat := if o.hint = 1 then 1 else 0

/-- The free frame that a copy of page `idx` would take (R149). -/
def State.freeCopyFrame (s : State) (n : Nat) (o : TierObject) (idx : Nat) : Option Frame :=
  if o.copyTier = 1 then s.freeT1 n else s.freeT0 n (s.placeGrove n o idx)

/-- The 256 MiB ranges that the objects touch: their leaves (R150). -/
def Tiers.leaves (t : Tiers) : List Nat :=
  distinct (t.objects.flatMap (fun e =>
    (List.range ((e.2.base + e.2.pages * pageSize - 1) / 2 ^ 28 - e.2.base / 2 ^ 28 + 1)).map
      (e.2.base / 2 ^ 28 + ·)))

/-- T0 frames of stand `n` in service. -/
def State.t0Total (s : State) (n : Nat) : Nat :=
  ((s.groves n).filter (fun g => !s.groveWithdrawn g)).length * framesPerGrove

/-- Free T0 frames of stand `n`. -/
def State.t0FreeCount (s : State) (n : Nat) : Nat :=
  s.t0Total n - (((s.groves n).filter (fun g => !s.groveWithdrawn g)).map
    (fun g => ((s.stand n).tiers.t0Used g).length)).foldl (· + ·) 0

/-- T1 frames of stand `n` in service. -/
def State.t1Total (s : State) (n : Nat) : Nat :=
  ((s.halfStacks n).filter (fun h => !s.halfWithdrawn h)).length * framesPerGrove

/-- Free T1 frames of stand `n`: neither in a home range nor holding a copy, in half-stacks in service. -/
def State.t1FreeCount (s : State) (n : Nat) : Nat :=
  let t := (s.stand n).tiers
  let hs := s.halfStacks n
  ((List.range hs.length).map (fun k =>
    if s.halfWithdrawn (hs.getD k 0) then 0
    else
      let lo := k * framesPerGrove
      let hi := lo + framesPerGrove
      let homes := (t.objects.filter (fun e => e.2.home == 1)).map
        (fun e => min e.2.t1Range.2 hi - max e.2.t1Range.1 lo)
      let copies := (t.framesHeld.filter (fun f => f.tier == 1 && lo ≤ f.num && f.num < hi)).length
      framesPerGrove - (homes.foldl (· + ·) 0 + copies))).foldl (· + ·) 0

/-- Fabric operations of the page are under way. -/
def PageEntry.busy (e : PageEntry) : Bool :=
  match e.traffic with
  | .busy _ _ => true
  | _ => false

/-- The page is moving, or its fabric operations are under way. -/
def PageEntry.moving (e : PageEntry) : Bool := e.move != .still || e.busy

/-- The moves of a stand under way (R159). -/
def Tiers.moves (t : Tiers) : Nat := (t.pages.filter (fun e => e.2.moving)).length

end Sys2Proof.Machine
end

