-- ==== Sys2Proof/Machine/KvPages.lean ====
section
/-! DEFINITION. The formats of the KV pool: layer groups, sequence records, page tables, page headers, and the storage
that pages claim (05_attention_state.md R104-R114). -/

namespace Sys2Proof.Machine

open Sys2Proof

/-- 32 KiB and 256 B. -/
def kvFrame : Nat := 32768
def kvGranule : Nat := 256

/-- A layer group descriptor (Table 5.3). -/
structure KvGroup where
  num : Nat
  fmt : Nat
  enable : Bool
  ring : Bool
  prune : Bool
  remote : Bool
  heads : Nat
  layers : Nat
  dim : Nat
  window : Nat
  specDepth : Nat
  headerAddr : Nat
  sets : Nat
  kScale : Nat
  vScale : Nat
  sinkPages : Nat
  recentPages : Nat
  pruneBudget : Nat
  remoteBudget : Nat
  layerMaskAddr : Nat
  deriving DecidableEq, Repr

/-- A descriptor from its 64 bytes. -/
def KvGroup.ofBytes (num : Nat) (b : List Byte) : KvGroup :=
  let w := fun i => le b (8 * i) 8
  { num := num, fmt := bits (w 0) 0 5, enable := bit (w 0) 5, ring := bit (w 0) 6, prune := bit (w 0) 7,
    remote := bit (w 0) 8, heads := bits (w 0) 16 8, layers := bits (w 0) 24 8, dim := bits (w 0) 32 16,
    window := bits (w 1) 0 32, specDepth := bits (w 1) 32 8, headerAddr := bits (w 2) 0 48, sets := bits (w 3) 0 32,
    kScale := bits (w 4) 0 32, vScale := bits (w 4) 32 32, sinkPages := bits (w 5) 0 16, recentPages := bits (w 5) 16 16,
    pruneBudget := bits (w 5) 32 32, remoteBudget := bits (w 6) 0 12, layerMaskAddr := bits (w 7) 0 48 }

/-- Bytes at a stand address; zeros where they cannot be read. -/
def State.peekBytes (s : State) (n a len : Nat) : List Byte :=
  match s.peek n a len with
  | .ok bs => bs
  | _ => zeros len

/-- Descriptor `d` = 4m + g of a pool. -/
def State.kvGroup (s : State) (n : Nat) (p : Pool) (d : Nat) : KvGroup :=
  KvGroup.ofBytes d (s.peekBytes n (p.groupTable + 64 * d) 64)

/-- The enabled groups of model `m`. -/
def State.kvGroups (s : State) (n : Nat) (p : Pool) (m : Nat) : List KvGroup :=
  ((List.range 4).map (fun g => s.kvGroup n p (4 * m + g))).filter (·.enable)

/-- The format is MXFP8. -/
def KvGroup.mx (g : KvGroup) : Bool := g.fmt == 0x0A || g.fmt == 0x0B

/-- Bytes of a token (R106). -/
def KvGroup.tokenBytes (g : KvGroup) : Nat := 2 * g.heads * g.dim + if g.mx then 2 * g.heads * g.dim / 32 else 0

/-- Token slots of a page (R106). -/
def KvGroup.tpp (g : KvGroup) : Nat := kvFrame / g.tokenBytes

/-- Ring pages of a sequence (R114). -/
def KvGroup.ringPages (g : KvGroup) : Nat := ceilDiv (g.window + g.specDepth) g.tpp

/-- The logical page and the slot of a position (R110, R114). -/
def KvGroup.place (g : KvGroup) (pos : Nat) : Nat × Nat :=
  let q := if g.ring then pos % (g.ringPages * g.tpp) else pos
  (q / g.tpp, q % g.tpp)

/-! Page headers (Table 5.4) -/

structure PageHeader where
  /-- 0 FREE, 1 OPEN, 2 SEALED, 3 POISONED. -/
  state : Nat := 0
  tokens : Nat := 0
  refs : Nat := 0
  score : Nat := 0
  firstStep : Nat := 0
  location : Nat := 0
  classes : Nat := 0
  deriving DecidableEq, Repr

/-- A header from its 32 bytes. -/
def PageHeader.ofBytes (b : List Byte) : PageHeader :=
  { state := bits (le b 0 8) 0 2, tokens := le b 2 2, refs := le b 4 4, score := le b 8 4, firstStep := le b 12 4,
    location := le b 16 6, classes := le b 24 4 }

/-- The bytes of a header. -/
def PageHeader.bytes (h : PageHeader) : List Byte :=
  toBytes 2 h.state ++ toBytes 2 h.tokens ++ toBytes 4 h.refs ++ toBytes 4 h.score ++ toBytes 4 h.firstStep ++
  toBytes 8 (h.location % 2 ^ 48) ++ toBytes 8 (h.classes % 2 ^ 32)

/-- The address of the header of layer `i` of set `t`. -/
def KvGroup.headerAt (g : KvGroup) (t i : Nat) : Nat := g.headerAddr + 32 * (t * g.layers + i)

/-- The header of layer `i` of set `t`. -/
def State.pageHeader (s : State) (n : Nat) (g : KvGroup) (t i : Nat) : PageHeader :=
  PageHeader.ofBytes (s.peekBytes n (g.headerAt t i) 32)

/-- A header written. -/
def State.setHeader (s : State) (n : Nat) (g : KvGroup) (t i : Nat) (h : PageHeader) : State :=
  s.standWrite n (g.headerAt t i) h.bytes

/-- The stored size of block `j` of a sealed page. -/
def PageHeader.blockSize (h : PageHeader) (j : Nat) : Nat := (bits h.classes (4 * j) 4 + 1) * kvGranule

/-- The granules of a sealed page. -/
def PageHeader.granules (h : PageHeader) : Nat :=
  ((List.range 8).map (fun j => bits h.classes (4 * j) 4 + 1)).foldl (· + ·) 0

/-- The granules that a page claims, from FRAME_ADDR: none for a FREE or POISONED page (R105). -/
def PageHeader.claim (p : Pool) (h : PageHeader) : Option (Nat × Nat) :=
  let g := (h.location - p.frameAddr) / kvGranule
  match h.state with
  | 1 => some (g, g + 128)
  | 2 => some (g, g + h.granules)
  | _ => none

/-- The place of a page in the pool: inside the frame area, aligned, and a run within one frame (R105, R113). -/
def PageHeader.placed (p : Pool) (h : PageHeader) : Bool :=
  let off := h.location - p.frameAddr
  match h.state with
  | 1 => p.frameAddr ≤ h.location && off % kvFrame == 0 && off / kvFrame < p.frames
  | 2 => p.frameAddr ≤ h.location && off % kvGranule == 0 && off / kvFrame < p.frames &&
      off % kvFrame / kvGranule + h.granules ≤ 128
  | _ => true

/-- Every page of the pool: its group, set, layer and header. -/
def State.kvPages (s : State) (n : Nat) (p : Pool) : List (KvGroup × Nat × Nat × PageHeader) :=
  (((List.range 32).map (s.kvGroup n p)).filter (·.enable)).flatMap (fun g =>
    (List.range g.sets).flatMap (fun t => (List.range g.layers).map (fun i => (g, t, i, s.pageHeader n g t i))))

/-- The granules in use, as runs. -/
def State.kvClaims (s : State) (n : Nat) (p : Pool) : List (Nat × Nat) :=
  (s.kvPages n p).filterMap (fun x => x.2.2.2.claim p)

/-- The granules [lo, hi) are free. -/
def granulesFree (claims : List (Nat × Nat)) (lo hi : Nat) : Bool := claims.all (fun c => !meets c.1 c.2 lo hi)

/-- The lowest-numbered frame whose granules are all free (R112). -/
def State.kvFreeFrame (s : State) (n : Nat) (p : Pool) : Option Nat :=
  let c := s.kvClaims n p
  (List.range (min p.frames (c.length + 1))).find? (fun f => granulesFree c (128 * f) (128 * f + 128))

/-- The lowest run of `k` free granules within one frame (R113). -/
def State.kvFreeRun (s : State) (n : Nat) (p : Pool) (k : Nat) : Option Nat :=
  let c := s.kvClaims n p
  (List.range (min p.frames (c.length + 1))).findSome? (fun f =>
    ((List.range (129 - k)).find? (fun i => granulesFree c (128 * f + i) (128 * f + i + k))).map (128 * f + ·))

/-- A set is free when every page of it has REFCOUNT 0 (R108). -/
def State.setFree (s : State) (n : Nat) (g : KvGroup) (t : Nat) : Bool :=
  (List.range g.layers).all (fun i => (s.pageHeader n g t i).refs == 0)

/-- The lowest-numbered free set (R108). -/
def State.kvFreeSet (s : State) (n : Nat) (g : KvGroup) : Option Nat := (List.range g.sets).find? (s.setFree n g)

/-- Frames with all granules free, and free granules in partly used frames (KVM_FRAMES). -/
def State.kvOccupancy (s : State) (n : Nat) (p : Pool) : Nat × Nat :=
  let c := s.kvClaims n p
  let used := distinct (c.map (fun x => x.1 / 128))
  let partly := (used.filter (· < p.frames)).map (fun f =>
    ((List.range 128).filter (fun i => granulesFree c (128 * f + i) (128 * f + i + 1))).length)
  (p.frames - (used.filter (· < p.frames)).length, min (partly.foldl (· + ·) 0) (2 ^ 32 - 1))

/-! Sequence records and page tables (Tables 5.5 and 5.6) -/

/-- The address of a sequence record. -/
def Pool.record (p : Pool) (seq : Nat) : Nat := p.seqTable + 64 * seq

structure SeqRecord where
  length : Nat
  valid : Bool
  model : Nat
  holder : Nat
  /-- PT_ADDR and the number of entries, of groups 0 to 3. -/
  tables : List (Nat × Nat)
  hold : Nat
  deriving DecidableEq, Repr

/-- A sequence record. -/
def State.seqRecord (s : State) (n : Nat) (p : Pool) (seq : Nat) : SeqRecord :=
  let b := s.peekBytes n (p.record seq) 64
  { length := le b 0 4, valid := bit (le b 0 8) 32, model := bits (le b 0 8) 33 3, holder := le b 6 2,
    tables := (List.range 4).map (fun g =>
      let size := le b (14 + 8 * g) 2
      (le b (8 + 8 * g) 6, if size = 0 then 1048576 else 16 * size)),
    hold := le b 40 4 }

/-- A record in use. -/
def State.seqValid (s : State) (n : Nat) (p : Pool) (seq : Nat) : Bool := seq < p.seqMax && (s.seqRecord n p seq).valid

/-- The page table of a group of a record: its address and entries. -/
def SeqRecord.table (r : SeqRecord) (g : KvGroup) : Nat × Nat := r.tables.getD (g.num % 4) (0, 0)

structure PtEntry where
  set : Nat := 0
  valid : Bool := false
  remote : Bool := false
  mask : Nat := 0
  deriving DecidableEq, Repr

/-- An entry from its 16 bytes. -/
def PtEntry.ofBytes (b : List Byte) : PtEntry :=
  { set := le b 0 4, valid := bit (le b 0 8) 32, remote := bit (le b 0 8) 33, mask := le b 8 8 }

/-- The bytes of an entry. -/
def PtEntry.bytes (e : PtEntry) : List Byte :=
  toBytes 8 (e.set + b01 e.valid * 2 ^ 32 + b01 e.remote * 2 ^ 33) ++ toBytes 8 e.mask

/-- Entry `k` of a group's table. -/
def State.ptEntry (s : State) (n : Nat) (r : SeqRecord) (g : KvGroup) (k : Nat) : PtEntry :=
  PtEntry.ofBytes (s.peekBytes n ((r.table g).1 + 16 * k) 16)

/-- Entry `k` written. -/
def State.setPt (s : State) (n : Nat) (r : SeqRecord) (g : KvGroup) (k : Nat) (e : PtEntry) : State :=
  s.standWrite n ((r.table g).1 + 16 * k) e.bytes

/-- LENGTH of a record written. -/
def State.setLength (s : State) (n : Nat) (p : Pool) (seq len : Nat) : State :=
  s.standWrite n (p.record seq) (toBytes 4 len)

/-- The sequence references the page of layer `i` under an entry. -/
def PtEntry.references (e : PtEntry) (i : Nat) : Bool := e.valid && !e.remote && !e.mask.testBit i

/-- The logical pages of a group that a record can hold: a ring's pages, or its whole table. -/
def SeqRecord.pages (r : SeqRecord) (g : KvGroup) : Nat :=
  if g.ring then min g.ringPages (r.table g).2 else (r.table g).2

/-- A page set that the sequence reads is POISONED: a page it references is (Table 5.11). -/
def State.seqPoisoned (s : State) (n : Nat) (p : Pool) (seq : Nat) : Bool :=
  let r := s.seqRecord n p seq
  (s.kvGroups n p r.model).any (fun g => (List.range (r.pages g)).any (fun k =>
    let e := s.ptEntry n r g k
    e.valid && !e.remote && (List.range g.layers).any (fun i =>
      e.references i && (s.pageHeader n g e.set i).state == 3)))

/-! Canopy nodes (09_state_movement.md R212, R215) -/

/-- A KV command that the device issues put in the stand's queue (R449). -/
def State.deviceCommand (s : State) (n : Nat) (c : DeviceCommand) : State :=
  s.updStand n (fun st => { st with kv := { st.kv with device := st.kv.device ++ [c] } })

/-- Canopy nodes removed: their parents lose a child, and an anchor without a node left is released. -/
def State.dropNodes (s : State) (n : Nat) (gone : List Nat) : State :=
  let old := (s.stand n).canopy
  let kept := old.filter (fun e => !gone.contains e.1)
  let lost := fun i => ((old.filter (fun e => gone.contains e.1 && e.2.parent == some i))).length
  let kept := kept.map (fun e => (e.1, { e.2 with
    children := e.2.children - lost e.1,
    parent := if e.2.parent.any gone.contains then none else e.2.parent }))
  let anchors := distinct ((old.filter (fun e => gone.contains e.1)).map (·.2.anchor))
  let free := anchors.filter (fun a => kept.all (fun e => e.2.anchor != a))
  free.foldl (fun s a => s.deviceCommand n { op := 3, seq := a }) (s.updStand n (fun st => { st with canopy := kept }))

/-- SWY_CONFIG.SEAL_KEY_ID of stand `n` names an installed job key: the canopy may hold nodes (R211). -/
def State.sealKey (s : State) (n : Nat) : Option (List Byte) :=
  if s.fld Fld.SWY_CONFIG_SEAL_KEY_ID n = 0 then none else s.jobKey n (s.fld Fld.SWY_CONFIG_SEAL_KEY_ID n)

/-- Without a sealing key the stand's canopy holds no nodes (R211). -/
def State.canopyCheck (s : State) (n : Nat) : State :=
  if (s.sealKey n).isSome ∨ (s.stand n).canopy.isEmpty then s
  else s.dropNodes n ((s.stand n).canopy.map (·.1))

end Sys2Proof.Machine
end

