-- ==== Sys2Proof/Machine/RegAccess.lean ====
section
/-! DEFINITION. What a function reads from a register and may write to it (00_scope.md R5-R7, R446;
15_isolation.md R329, R330, Tables 15.3 and 15.4; 16_configuration_image.md R355). -/

namespace Sys2Proof.Machine

open Sys2Proof

/-- What a function may do with a register. -/
inductive Right where
  /-- As a reserved address (R329). -/
  | none
  | read
  /-- Read only, and the read returns 0 (Table 15.4). -/
  | readZero
  /-- Read only, with every field but LEVEL read as 0 (18_power_thermal.md). -/
  | readLevel
  /-- As the register is defined. -/
  | full
  /-- The W1C fields only; every field read (Table 15.3, MXC_ERROR and VEC_ERROR). -/
  | clear
  deriving DecidableEq, Repr

/-- The registers that read 0 through the physical function (Table 15.4). -/
def hiddenRegs : List Reg :=
  [.MXC_ERROR_INFO, .VEC_ERROR_INFO, .KVM_ERROR_INFO, .CMP_ERROR_INFO, .TIER_ERROR_INFO, .TIER_ERROR_ADDR,
   .SCH_ERROR_INFO, .SWY_ERROR_INFO, .FAB_ERROR_INFO, .FMM_ERROR_INFO, .KVM_PARTIAL_KEY, .SCH_CUSTOMERS]

/-- The offset ranges of the stand blocks of SCH_, SWY_, TIER_, CMP_, KVM_, FAB_ and FMM_ (Table 21.1). -/
def standBlock (a : Nat) : Bool :=
  (0x400000 ≤ a && a < 0x418000) || (0x500000 ≤ a && a < 0x518000) || (0x600000 ≤ a && a < 0x618000) ||
  (0x680000 ≤ a && a < 0x698000) || (0x700000 ≤ a && a < 0x718000) || (0x840000 ≤ a && a < 0x858000) ||
  (0x1400000 ≤ a && a < 0x1418000)

/-- The right of the physical function to a register at offset `a` (Table 15.3). -/
def rightPf (r : Reg) (i a : Nat) : Right :=
  if hiddenRegs.contains r then .readZero
  else if standBlock a then (if r = .SCH_ACCT_SNAP then .full else .read)
  else if 0x204000 ≤ a ∧ a < 0x300000 then (if i = 24 then .full else .none)
  else if 0x310000 ≤ a ∧ a < 0x400000 then .none
  else if 0x2000000 ≤ a ∧ a < 0x20000000 then .read
  else if 0x20000000 ≤ a then .none
  else .full

/-- The right of the virtual function of stand `n` (Table 15.3); a stand that does not exist leaves GLB_ID and
GLB_STAND_n (20_host_interface.md R410). -/
def State.rightVf (s : State) (n : Nat) (r : Reg) (i j a : Nat) : Right :=
  if r = .GLB_ID ∨ (r = .GLB_STAND ∧ j = n) then .read
  else if !s.standValid n then .none
  else if r = .PWR_STATUS then .readLevel
  else if [Reg.HWD_STATUS, .HWD_SERIAL, .HWD_SVN, .HWD_LMS].contains r then .read
  else if 0x204000 ≤ a ∧ a < 0x300000 then (if i = n then .full else .none)
  else if 0x310000 ≤ a ∧ a < 0x400000 then (if i = n then .full else .none)
  else if standBlock a then (if i = n then .full else .none)
  else if 0x2000000 ≤ a ∧ a < 0x20000000 then
    (if (s.clusters n).contains i then (if r = .MXC_ERROR ∨ r = .VEC_ERROR then .clear else .read) else .none)
  else if 0x20000000 ≤ a then (if i = n then .full else .none)
  else .none

/-- BAR0 decodes the offset in the present package state (R355, 19_faults_events.md R398). -/
def State.decodes (s : State) (r : Reg) (i a : Nat) : Bool :=
  let inWaiting := r == .GLB_ID || (0x1000 ≤ a && a < 0x4000) || (0x200000 ≤ a && a < 0x204000) ||
    (0x204000 ≤ a && a < 0x300000 && i == 24)
  match s.phase with
  | .running => true
  | .starting _ => true
  | .waiting => inWaiting
  | .packageFault => inWaiting || (0x300000 ≤ a && a < 0x304000)
  | _ => false

/-- The right of a function to a register now. The link must be up for any access to arrive. -/
def State.right (s : State) (f : Fn) (r : Reg) (i j : Nat) : Right :=
  let a := r.addr i j
  if !s.flag Fld.GLB_LINK_STATUS_LINK_UP || !s.fnExists f || !s.decodes r i a then .none
  else
    match f with
    | .pf => rightPf r i a
    | .vf n => if s.phase = .running then s.rightVf n r i j a else .none

/-- STAND and STAND_VALID of a cluster's status registers, from bit `lo` on. -/
def State.clusterStand (s : State) (c lo : Nat) : Nat :=
  match s.groveStand (c / 4) with
  | some n => (n + 32) * 2 ^ lo
  | none => 0

/-- VEC_STATUS of a cluster: cores in service, and cores that hold a task (04_vector_cores.md R93). -/
def State.vecStatus (s : State) (c : Nat) : Nat :=
  let out := ((List.range 14).map (fun j => popcount 64 (s.fld Fld.VEC_CORE_MASK_OUT c j))).foldl (· + ·) 0
  let busy := (s.cores.filter (fun e => e.1 / 864 == c && e.2.task.isSome)).length
  (864 - out) % 1024 + busy % 1024 * 2 ^ 10 + s.clusterStand c 20

/-- The nominal energy coefficients in 1/256 pJ (18_power_thermal.md Table 18.3). -/
def nominalCoef (i : Nat) : Nat := [2969600, 1690, 6144, 20480, 1024, 10240, 10240, 1536000000].getD i 0

/-- A fused energy coefficient: within 15 % of the nominal one (18_power_thermal.md R390). -/
def energyCoef (i : Nat) : Nat :=
  let n := nominalCoef i
  n * 85 / 100 + Config.energyCoefficient i % (n * 30 / 100 + 1)

/-- PWR_GOV_STATUS: the power granted in the past 1 ms, matrix cores in ballast, matrix starts that wait. -/
def State.govStatus (s : State) : Nat :=
  let sum := fun (l : List Grant) => ((l.filter (fun g => s.timeNs < g.at_ + 1000000)).map (·.mw)).foldl (· + ·) 0 / 1000
  let waits := (s.power.waiting.filter (fun r => !r.stop && (match r.unit with | .matrix _ => true | .vector _ => false))).length
  sum s.power.starts % 2 ^ 16 + sum s.power.stops % 2 ^ 16 * 2 ^ 16 +
    (s.power.matrix.filter (fun e => e.2 == .ballast)).length % 2 ^ 7 * 2 ^ 32 + min waits 255 * 2 ^ 39

/-- What a register reads, before the access types are applied: some registers show state that lies elsewhere. -/
def State.regRead (s : State) (r : Reg) (i j : Nat) : Nat :=
  match r with
  | .SCH_NOW => s.nowUs
  | .HWD_SERIAL => Config.serial.toNat
  | .PWR_VID => setBits (s.reg r i j) 0 10 (600 + Config.vidMv % 251)
  | .PWR_COEF => energyCoef j
  | .PWR_GOV_STATUS => s.govStatus
  | .CFG_REPLACE =>
    (match s.image.replace with
     | some x => setBits (s.reg r i j) 32 32 (s.stand x.stand).requests.length
     | none => s.reg r i j)
  | .TIER_T0_FRAMES => s.t0Total i % 2 ^ 32 + s.t0FreeCount i * 2 ^ 32
  | .TIER_T1_FRAMES => s.t1Total i % 2 ^ 32 + s.t1FreeCount i * 2 ^ 32
  | .TIER_MAP_LEAVES =>
    let total := s.fld Fld.TIER_MAP_LEAVES_TOTAL i
    total + (total - (s.stand i).tiers.leaves.length) * 2 ^ 32
  | .TIER_MOVING => (s.stand i).tiers.moves
  | .MXC_STATUS =>
    (if (s.fld Fld.RST_GROVE_STATUS_OUT_OF_SERVICE).testBit (i / 4) then setBits (s.reg r i j % 2 ^ 13) 0 2 3
     else s.reg r i j % 2 ^ 13) + s.clusterStand i 13
  | .VEC_STATUS => s.vecStatus i
  | .DDR_CHAN =>
    (match (List.range 24).find? (fun n => s.standValid n && (s.channels n).contains i) with
     | some n => setBits (setBits (s.reg r i j) 6 5 n) 11 1 1
     | none => s.reg r i j)
  | .KVM_FRAMES =>
    (match (s.stand i).kv.pool with
     | some p => (s.kvOccupancy i p).1 % 2 ^ 32 + (s.kvOccupancy i p).2 * 2 ^ 32
     | none => 0)
  | .KVM_PARTIAL_KEY =>
    (match (s.stand i).kv.partialRegion with
     | some idx => s.regionKey idx
     | none => 0)
  | .SWY_CANOPY => (s.stand i).cfg.canopyNodes % 2 ^ 32 + (s.stand i).canopy.length * 2 ^ 32
  | .FAB_REGIONS => s.fld Fld.FAB_REGIONS_QUOTA i + s.regionsUsed i % 2 ^ 21 * 2 ^ 32
  | .SHP_CREDIT => wrapInt 32 ((((s.ports.get? i).getD {}).credits.get? j).getD 0 / 1000)
  | _ => s.reg r i j

/-- A register as a software read returns it: WO fields read 0 (R5). -/
def State.readValue (s : State) (r : Reg) (i j : Nat) : Nat :=
  r.fields.foldl (fun v f => if f.acc = .wo then v else v + bits (s.regRead r i j) f.lo f.w * 2 ^ f.lo) 0

/-- A register as a function reads it (R329). -/
def State.readBy (s : State) (f : Fn) (r : Reg) (i j : Nat) : Nat :=
  match s.right f r i j with
  | .none => 0
  | .readZero => 0
  | .readLevel => bits (s.readValue r i j) 3 2 * 2 ^ 3
  | _ => s.readValue r i j

/-- The RC fields of a register cleared, as a read leaves them (R5). -/
def State.clearRc (s : State) (r : Reg) (i j : Nat) : State :=
  (r.fields.filter (·.acc = .rc)).foldl (fun s f => s.setFld f i j 0) s

/-- The fields whose write has a row of its own: a plain register write leaves them (95_what_each_step_holds.md). -/
def rowFields : List Field :=
  [Fld.KVM_POOL_ENABLE, Fld.SWY_EVT_HEAD_INDEX, Fld.SWYP_EVT_HEAD_INDEX, Fld.GCL_CTRL_CONFIG_CHANGE,
   Fld.ARB_CTRL_FREEZE, Fld.RST_CTRL_KEY, Fld.RST_CTRL_PKG_RESET, Fld.RST_STAND_CMD_GO, Fld.RST_TEST_CTRL_GO,
   Fld.EVR_RETURN_CMD_GO, Fld.SCH_ACCT_SNAP_SNAP, Fld.HWD_MB_CTRL_GO, Fld.CFG_MB_CTRL_GO]

/-- The ring registers of R445. -/
def ringRegs : List Reg :=
  [.EVR_RING, .EVR_STAND_RING, .SCH_SQ_BASE, .SCH_CQ_BASE, .SWY_CMD_RING, .SWY_EVT_RING, .SWYP_CMD_RING,
   .SWYP_EVT_RING, .TIER_CMD_RING, .KVM_CMD_RING, .FAB_CMD_RING, .SHP_SAMPLE_RING, .ASR_CMD_RING, .FMM_CMD_RING,
   .QW_COPY_RING]

/-- The fields of the registers that a write checks against their stated values (R446): the RW fields. -/
def Reg.writeAdmits (r : Reg) (v : Nat) : Bool :=
  r.fields.all (fun f => f.acc != .rw || f.lim.admits (bits v f.lo f.w))

/-- The value of field `f` after a write of `v` to a register that holds `old` (R5). -/
def Field.written (f : Field) (old v : Nat) : Nat :=
  let o := bits old f.lo f.w
  let x := bits v f.lo f.w
  match f.acc with
  | .rw => x
  | .w1c => o &&& (x ^^^ (2 ^ f.w - 1))
  | .w1s => o ||| x
  | _ => o

/-- The register after a write of `v`, its fields of `keep` left as they are. -/
def Reg.written (r : Reg) (keep : List Field) (old v : Nat) : Nat :=
  r.fields.foldl (fun w f => setBits w f.lo f.w (if keep.contains f then bits old f.lo f.w else f.written old v)) old

/-- Only the W1C fields written. -/
def Reg.cleared (r : Reg) (old v : Nat) : Nat :=
  r.fields.foldl (fun w f => if f.acc = .w1c then setBits w f.lo f.w (f.written old v) else w) old

end Sys2Proof.Machine
end

