-- ==== Sys2Proof/Machine/Events.lean ====
section
/-! DEFINITION. The event recorder: records, views, flood limits and snapshots (19_faults_events.md R400-R404, R448;
15_isolation.md R332, R333). -/

namespace Sys2Proof.Machine

open Sys2Proof

/-- An event: its code, the stand it is about, its source die and unit, and its payload items (R448). -/
structure Event where
  code : Nat
  about : Option Nat
  die : Nat
  unit : Nat
  items : List Nat
  deriving DecidableEq, Repr

/-- Records of codes 0x3000 to 0x3FFF are security records (R400). -/
def securityCode (c : Nat) : Bool := 0x3000 ≤ c && c < 0x4000

/-- The bytes of a record with PHASE `ph` (Table 19.4, R400). -/
def recordBytes (code : Nat) (sec : Bool) (about : Option Nat) (die unit time ph : Nat) (payload : List Byte) :
    List Byte :=
  let len := 16 + payload.length + (if sec then 8 else 0)
  let w0 := code + len * 2 ^ 16 + b01 sec * 2 ^ 25 + about.getD 0 * 2 ^ 26 + b01 about.isSome * 2 ^ 31 +
    die * 2 ^ 32 + unit * 2 ^ 35 + ph * 2 ^ 63
  let body := toBytes 8 w0 ++ toBytes 8 time ++ payload
  if sec then body ++ toBytes 8 (crc32c (body ++ zeros 8)) else body

/-- The registers of a view: the operator view is 24, the view of stand n is n. -/
structure View where
  addr : Nat
  size : Nat
  enable : Bool
  toStand : Bool
  interrupt : Bool
  head : Nat
  tail : Nat
  deriving DecidableEq, Repr

/-- The ring of a view. -/
def State.view (s : State) (v : Nat) : View :=
  if v = 24 then
    ⟨s.fld Fld.EVR_RING_ADDR, 2 ^ s.fld Fld.EVR_RING_SIZE_LOG2, s.flag Fld.EVR_RING_ENABLE, false,
     s.flag Fld.EVR_RING_INTERRUPT, s.fld Fld.EVR_HEAD_INDEX, s.fld Fld.EVR_TAIL_INDEX⟩
  else
    ⟨s.fld Fld.EVR_STAND_RING_ADDR v, 2 ^ s.fld Fld.EVR_STAND_RING_SIZE_LOG2 v, s.flag Fld.EVR_STAND_RING_ENABLE v,
     s.flag Fld.EVR_STAND_RING_TARGET v, s.flag Fld.EVR_STAND_RING_INTERRUPT v,
     s.fld Fld.EVR_STAND_HEAD_INDEX v, s.fld Fld.EVR_STAND_TAIL_INDEX v⟩

/-- The function of a view. -/
def viewFn (v : Nat) : Fn := if v = 24 then .pf else .vf v

/-- A record counted as not written (R401). -/
def State.viewDrop (s : State) (v : Nat) : State :=
  if v = 24 then s.addFld Fld.EVR_DROPPED_COUNT 0 0 1 else s.addFld Fld.EVR_STAND_DROPPED_COUNT v 0 1

/-- The offset of a view's ring register, the key of its lap. -/
def viewRing (v : Nat) : Nat := if v = 24 then Reg.EVR_RING.addr 0 0 else Reg.EVR_STAND_RING.addr v 0

/-- PHASE of the present lap of a ring (R445). -/
def State.ringPhase (s : State) (ring : Nat) : Nat := if (s.laps.get? ring).getD 0 = 0 then 1 else 0

/-- The lap of a ring advances over a wrap. -/
def State.wrapRing (s : State) (ring : Nat) : State :=
  { s with laps := s.laps.set ring (1 - (s.laps.get? ring).getD 0) }

/-- Bytes of a record written to the memory of a view: words 1 onward first, word 0 last (R401). -/
def State.viewPut (s : State) (v : Nat) (w : View) (unit : Nat) (bs : List Byte) : State :=
  let a := w.addr + 64 * unit
  if w.toStand then (s.standWrite v (a + 8) (bs.drop 8)).standWrite v a (bs.take 8)
  else (s.hostWrite (viewFn v) (a + 8) (bs.drop 8)).hostWrite (viewFn v) a (bs.take 8)

/-- A record written to a view's ring, or counted as dropped; the Bool says whether it was written (R401). -/
def State.viewWrite (s : State) (v : Nat) (mk : Nat → List Byte) : State × Bool :=
  let w := s.view v
  let len := (mk 0).length
  let units := ceilDiv len 64
  let head := w.head % w.size
  let tail := w.tail % w.size
  let pad := if tail + units > w.size then w.size - tail else 0
  let free := w.size - 1 - (tail + w.size - head) % w.size
  let pos := if pad = 0 then tail else 0
  let mapped := fun (i : Nat) => s.writableRange v (w.addr + 64 * (pos + i)) 64
  let outside := ((List.range units).takeWhile mapped).length
  let unmapped := w.toStand && decide (outside < units)
  if !w.enable || free < pad + units then (s.viewDrop v, false)
  else if unmapped then ((s.viewDrop v).flagUnmapped v (w.addr + 64 * (pos + outside)), false)
  else if !w.toStand && !s.hostReach (viewFn v) then (s.viewDrop v, false)
  else
    let ring := viewRing v
    let s1 := if pad = 0 then s
      else (s.viewPut v w tail (recordBytes 0 false none 0 42 s.timeNs (s.ringPhase ring) (zeros (64 * pad - 16)))).wrapRing ring
    let s2 := s1.viewPut v w pos (mk (s1.ringPhase ring))
    let next := (pos + units) % w.size
    let s3 := if next = 0 then s2.wrapRing ring else s2
    let s4 := if v = 24 then s3.setFld Fld.EVR_TAIL_INDEX 0 0 next else s3.setFld Fld.EVR_STAND_TAIL_INDEX v 0 next
    ((if w.interrupt then s4.msix (viewFn v) (if v = 24 then 2 else 19) else s4), true)

/-- The flood count of a key in the present window. -/
def State.flood (s : State) (v code : Nat) (about : Option Nat) : Flood :=
  (s.recorder.flood.find? (fun f => f.view == v && f.code == code && f.about == about)).getD ⟨v, code, about, 0, 0⟩

/-- The flood count of a key set. -/
def State.setFlood (s : State) (x : Flood) : State :=
  let others := s.recorder.flood.filter (fun f => f.view != x.view || f.code != x.code || f.about != x.about)
  { s with recorder := { s.recorder with flood := x :: others } }

/-- A record offered to a view under its flood limit (R403). -/
def State.viewRecord (s : State) (v : Nat) (e : Event) (payload : List Byte) : State :=
  let f := s.flood v e.code e.about
  if s.fld Fld.EVR_CTRL_FLOOD_LIMIT ≤ f.written then s.setFlood { f with suppressed := f.suppressed + 1 }
  else
    let (t, ok) := s.viewWrite v (fun ph =>
      recordBytes e.code (securityCode e.code) e.about e.die e.unit s.timeNs ph payload)
    if ok then t.setFlood { f with written := f.written + 1 } else t

/-- A register offset read as the physical function reads it, RC fields not cleared (R404). -/
def State.snapRead (s : State) (off : Nat) (wide : Bool) : Nat :=
  let bytes := if wide then 8 else 4
  match Reg.find (off / 8 * 8), Reg.find off with
  | _, some (r, i, j) =>
    if r.bytes ≠ bytes then 2 ^ (8 * bytes) - 1
    else
      match rightPf r i off with
      | .none => 0
      | .readZero => 0
      | _ => s.readValue r i j
  | some (r, _, _), none => if r.bytes = 8 ∧ off % 8 ≠ 0 then 2 ^ (8 * bytes) - 1 else 0
  | none, none => if off % bytes ≠ 0 then 2 ^ (8 * bytes) - 1 else 0

/-- The two SNAPSHOT records of a die after a triggering record (R404). -/
def State.snapshot (s : State) (e : Event) : State :=
  let d := e.die
  let hit := (List.range 8).any (fun j =>
    s.flag Fld.EVR_SNAP_TRIG_ENABLE d j && s.fld Fld.EVR_SNAP_TRIG_CODE d j == e.code)
  if !hit then s
  else if s.timeNs < (s.recorder.snapUntil.get? d).getD 0 then s.satFld Fld.EVR_STATUS_SNAPS_SKIPPED 0 0 1
  else
    let val := fun i => if s.flag Fld.EVR_SNAP_SEL_ENABLE d i then
      s.snapRead (s.fld Fld.EVR_SNAP_SEL_OFFSET d i) (s.flag Fld.EVR_SNAP_SEL_WIDE d i) else 0
    let part := fun p : Nat => toBytes 8 (e.code + p * 2 ^ 16) ++ toBytes 8 s.timeNs ++
      (List.range 16).flatMap (fun i => toBytes 8 (val (16 * p + i)))
    let t := { s with recorder := { s.recorder with snapUntil := s.recorder.snapUntil.set d (s.timeNs + 2000) } }
    (t.viewRecord 24 ⟨2, none, d, 42, []⟩ (part 0)).viewRecord 24 ⟨2, none, d, 42, []⟩ (part 1)

/-- An event recorded: routed to its views (Table 15.5) and offered to the snapshot triggers of its die. -/
def State.event (s : State) (e : Event) : State :=
  let full := e.items.flatMap (toBytes 8)
  let t := match e.about with
    | none => s.viewRecord 24 e full
    | some n => (s.viewRecord 24 e (zeros full.length)).viewRecord n e full
  t.snapshot e

/-- A record for the view of one stand alone: SHARED_FAULT, and the stands' copies of THROTTLE_LEVEL (R402). -/
def State.standEvent (s : State) (n : Nat) (e : Event) : State :=
  (s.viewRecord n { e with about := some n } (e.items.flatMap (toBytes 8))).snapshot { e with about := some n }

/-- A shared unit's fault told to the open stands whose service it changes (R332): code SHARED_FAULT. -/
def State.sharedFault (s : State) (stands : List Nat) (die unit kind number : Nat) : State :=
  stands.foldl (fun s n =>
    if s.standValid n && !s.sealedStand n then s.standEvent n ⟨0x0506, none, die, unit, [kind, number]⟩ else s) s

/-- An event about a stand, made by its sequencer or another hub block of its sequencer's die. -/
def State.eventOf (s : State) (n code unit : Nat) (items : List Nat) : State :=
  s.event ⟨code, some n, 6 + s.hubOf n, unit, items⟩

/-- A connection as an item of a KEY_ABSENT record (Table 19.7): CONN, hub die, and 1 in bit 31. -/
def connItem (k : Nat) : Nat := 2 ^ 31 + k % 2 ^ 17

/-- The stands that exist. -/
def State.allStands (s : State) : List Nat := (List.range 24).filter s.standValid

/-- The records of the keys that were suppressed in the window that ends (R403). -/
def State.closeWindow (s : State) : State :=
  let t := (s.recorder.flood.filter (fun f => f.suppressed != 0)).foldl (fun s f =>
    (s.viewWrite f.view (fun ph =>
      recordBytes 1 (securityCode f.code) f.about (6 + 0) 42 s.timeNs ph
        (toBytes 8 (f.code + f.suppressed % 2 ^ 32 * 2 ^ 32) ++ toBytes 8 s.recorder.windowStart))).1) s
  { t with recorder := { t.recorder with flood := [], windowStart := t.timeNs / 1000000 * 1000000 } }

end Sys2Proof.Machine
end

