-- ==== Sys2Proof/Machine/TierOps.lean ====
section
/-! DEFINITION. The tier engine: copies and their eviction, LOST pages, index marking and the command rings in stand
memory (07_memory_tiers.md R153-R161; 06_block_compression.md R141; 00_scope.md R444). -/

namespace Sys2Proof.Machine

open Sys2Proof

/-! Rings that the device reads from stand memory -/

/-- A command ring of a stand: its registers. -/
structure Ring where
  addr : Field
  size : Field
  tail : Field
  head : Field

def kvRing : Ring :=
  ⟨Fld.KVM_CMD_RING_ADDR, Fld.KVM_CMD_RING_SIZE_LOG2, Fld.KVM_CMD_TAIL_TAIL, Fld.KVM_CMD_HEAD_HEAD⟩
def tierRing : Ring :=
  ⟨Fld.TIER_CMD_RING_ADDR, Fld.TIER_CMD_RING_SIZE_LOG2, Fld.TIER_CMD_TAIL_TAIL, Fld.TIER_CMD_HEAD_HEAD⟩
def swyRing : Ring :=
  ⟨Fld.SWY_CMD_RING_ADDR, Fld.SWY_CMD_RING_SIZE_LOG2, Fld.SWY_CMD_TAIL_INDEX, Fld.SWY_CMD_HEAD_INDEX⟩
def fabRing : Ring :=
  ⟨Fld.FAB_CMD_RING_ADDR, Fld.FAB_CMD_RING_SIZE_LOG2, Fld.FAB_CMD_TAIL_INDEX, Fld.FAB_CMD_HEAD_INDEX⟩
def fmmRing : Ring :=
  ⟨Fld.FMM_CMD_RING_ADDR, Fld.FMM_CMD_RING_SIZE_LOG2, Fld.FMM_CMD_TAIL_INDEX, Fld.FMM_CMD_HEAD_INDEX⟩

/-- The address of the entry at HEAD of stand `n`'s ring; none while the ring is empty (R444). -/
def State.ringEntry (s : State) (r : Ring) (n bytes : Nat) : Option Nat :=
  let size := 2 ^ s.fld r.size n
  let h := s.fld r.head n % size
  if h = s.fld r.tail n % size then none else some (s.fld r.addr n + bytes * h)

/-- HEAD moves past its entry. -/
def State.ringAdvance (s : State) (r : Ring) (n : Nat) : State :=
  s.setFld r.head n 0 ((s.fld r.head n + 1) % 2 ^ s.fld r.size n)

/-- The bytes of the entry at HEAD, where they can be read. -/
def State.ringFront (s : State) (r : Ring) (n bytes : Nat) : Option (List Byte) :=
  match s.ringEntry r n bytes with
  | none => none
  | some a =>
    match s.peek n a bytes with
    | .ok bs => some bs
    | _ => none

/-- The result byte written in bits [15:8] of the entry at HEAD, which HEAD then passes. -/
def State.ringResult (s : State) (r : Ring) (n bytes result : Nat) : State :=
  match s.ringEntry r n bytes with
  | none => s
  | some a => (s.standWrite n (a + 1) [BitVec.ofNat 8 result]).ringAdvance r n

/-- One command of a ring, run when the entry at HEAD names its OP. An OP that the ring does not know completes
BAD_COMMAND through `bad`. -/
def State.ringCommand (s : State) (r : Ring) (n bytes op : Nat) (known : List Nat)
    (bad : State → State) (run : List Byte → State → State × Nat) : State :=
  match s.ringFront r n bytes with
  | none => s
  | some e =>
    let o := le e 0 1
    if o = op then
      let (t, res) := run e s
      t.ringResult r n bytes res
    else if known.contains o then s
    else (bad s).ringResult r n bytes 0x10

/-! Copies -/

/-- The object that a page of stand `n` belongs to. -/
def State.pageObject (s : State) (n p : Nat) : Option (Nat × TierObject) := (s.stand n).tiers.objectAt (p * pageSize)

/-- The entry of a page changed. -/
def State.updPage (s : State) (n p : Nat) (f : PageEntry → PageEntry) : State :=
  s.updStand n (fun st => { st with tiers := st.tiers.setPage p (f (st.tiers.page p)) })

/-- Bytes copied inside the byte map. -/
def State.copyMem (s : State) (dst src len : Nat) : State := { s with mem := s.mem.copy dst src len }

/-- Unit `u` of a page's copy written to its home. -/
def State.writeUnit (s : State) (n p u : Nat) (o : TierObject) (c : PageCopy) : State :=
  let e := (s.stand n).tiers.page p
  s.copyMem (s.homeKey n o (p - o.base / pageSize) (4096 * u) e) (s.frameKey n c.frame (4096 * u)) 4096

/-- TIER_ERROR context of an object (TIER_ERROR_INFO, TIER_ERROR_ADDR). -/
def tierContext (n obj tier tag addr : Nat) (s : State) : State :=
  (s.setReg .TIER_ERROR_INFO n 0 (obj + tier * 2 ^ 16 + tag * 2 ^ 18)).setReg .TIER_ERROR_ADDR n 0 addr

/-- A page of T3 home whose fabric operations a command or a move needs before it goes on. -/
def State.need (s : State) (n p : Nat) (o : TierObject) : State :=
  s.updStand n (fun st => { st with tiers := { st.tiers with needs := st.tiers.needs ++ [(p, o)] } })

/-- The dirty units of a page's copy written back in ascending order (R154); the Bool says whether the write-back
succeeded. Those of a T3 home go by the fabric first; where that failed the copy is HELD (R155). -/
def State.writeBack (s : State) (n p : Nat) : State × Bool :=
  let e := (s.stand n).tiers.page p
  match s.pageObject n p, e.copy with
  | some (k, o), some c =>
    let us := bitsOf 16 c.dirty
    let settle := fun s : State => s.updPage n p (fun e => { e with copy := some { c with dirty := 0, sent := 0 }, traffic := .none })
    if us.isEmpty then (s, true)
    else if o.home = 3 ∧ e.traffic = .done false then
      let t := s.updPage n p (fun e => { e with copy := some { c with held := true, sent := 0 }, traffic := .none })
      (t.flagError Fld.TIER_ERROR_WRITEBACK_FAILED n (tierContext n k 3 o.tag (p * pageSize)), false)
    else if o.home = 3 ∧ ¬ (e.traffic = .done true ∧ c.dirty = c.sent) then (s.need n p o, false)
    else
      let t := us.foldl (fun s u => s.writeUnit n p u o c) s
      (settle (t.addFld Fld.TIER_WRITEBACK_BYTES_COUNT n 0 (4096 * us.length)), true)
  | _, _ => (s, true)

/-- A page's copy dropped: the page is served from its home (R154). -/
def State.dropCopy (s : State) (n p : Nat) : State :=
  s.updPage n p (fun e => { e with copy := none, move := .still })

/-- A copy evicted: dirty units written back, then the frame freed. A HELD copy, or one whose write-back fails, stays. -/
def State.evictCopy (s : State) (n p : Nat) : State × Bool :=
  match ((s.stand n).tiers.page p).copy with
  | none => (s, true)
  | some c =>
    if c.held then (s, false)
    else
      let (t, ok) := s.writeBack n p
      if ok then ((t.dropCopy n p).addFld Fld.TIER_EVICTED_COUNT n 0 1, true) else (t, false)

/-- The copies that an eviction hand may take in a place: grove `g` of T0, or the T1 space for `g` = 24 (R156). -/
def State.victims (s : State) (n g : Nat) : List (Nat × PageCopy) :=
  ((s.stand n).tiers.pages.filterMap (fun e =>
    match e.2.copy with
    | none => none
    | some c =>
      let here := if g = 24 then c.frame.tier == 1 else c.frame.tier == 0 && c.frame.grove == g
      let pinned := (s.pageObject n e.1).any (fun o => o.2.hint == 2)
      if here && !c.held && !pinned && e.2.move == .still then some (e.1, c) else none))

/-- Victims in the order in which the hand visits them: from the frame after its rest, wrapping. -/
def handOrder (hand : Nat) (l : List (Nat × PageCopy)) : List (Nat × PageCopy) :=
  let sorted := sortBy (fun a => a.2.frame.num) l
  sorted.filter (fun a => hand ≤ a.2.frame.num) ++ sorted.filter (fun a => a.2.frame.num < hand)

/-- The page whose copy the hand of a place evicts next (R156). -/
def State.handPick (s : State) (n g : Nat) : Option (Nat × PageCopy) :=
  let l := handOrder (((s.stand n).tiers.hands.get? g).getD 0) (s.victims n g)
  match l.find? (fun a => s.fld Fld.TIER_CONFIG_EVICT_AGE n ≤ a.2.age) with
  | some a => some a
  | none => l.foldl (fun best a =>
      match best with
      | none => some a
      | some b => if b.2.age < a.2.age ∨ (b.2.age = a.2.age ∧ a.2.frame.num < b.2.frame.num) then some a else best) none

/-- The hand of a place rests on a frame. -/
def State.restHand (s : State) (n g num : Nat) : State :=
  s.updStand n (fun st => { st with tiers := { st.tiers with hands := st.tiers.hands.set g (num + 1) } })

/-- The place of a copy frame of page `idx`: its grove, or 24 for the T1 space. -/
def State.copyPlace (s : State) (n : Nat) (o : TierObject) (idx : Nat) : Nat :=
  if o.copyTier = 1 then 24 else s.placeGrove n o idx

/-- A free frame in a place, made by evicting with its hand where none is free; a copy that cannot be written back
becomes HELD and is passed over. -/
def State.takeFrame (s : State) (n place : Nat) : Nat → State × Option Frame
  | 0 => (s, if place = 24 then s.freeT1 n else s.freeT0 n place)
  | fuel + 1 =>
    match (if place = 24 then s.freeT1 n else s.freeT0 n place) with
    | some f => (s, some f)
    | none =>
      match s.handPick n place with
      | none => (s, none)
      | some (p, c) =>
        let (t, _) := s.evictCopy n p
        if !(t.stand n).tiers.needs.isEmpty then (t, none) else
        (t.restHand n place c.frame.num).takeFrame n place fuel

/-- A page copied from its home into a frame (R157). -/
def State.installCopy (s : State) (n p : Nat) (o : TierObject) (f : Frame) : State :=
  let e := (s.stand n).tiers.page p
  let idx := p - o.base / pageSize
  let t := (List.range 16).foldl (fun s u =>
    s.copyMem (s.frameKey n f (4096 * u)) (s.homeKey n o idx (4096 * u) e) 4096) s
  (t.updPage n p (fun e => { e with copy := some { frame := f }, move := .still, traffic := .none })).addFld
    Fld.TIER_PROMOTED_COUNT n 0 1

/-- What the fetch of a page of T3 home answered; none while it has not ended. Any other home answers at once. -/
def State.fetched (s : State) (n p : Nat) (o : TierObject) : Option Bool :=
  if o.home ≠ 3 then some true
  else match ((s.stand n).tiers.page p).traffic with
    | .done ok => some ok
    | _ => none

/-- The fetch of a page failed: REMOTE_FAILED (R160). -/
def State.fetchFailed (s : State) (n p : Nat) : State :=
  let t := s.updPage n p (fun e => { e with traffic := .none })
  match s.pageObject n p with
  | some (k, o) => t.flagError Fld.TIER_ERROR_REMOTE_FAILED n (tierContext n k 3 o.tag (p * pageSize))
  | none => t

/-- A page promoted at once into the copy tier, evicting under R156: APPLIED where it has a copy, REMOTE_FAILED where its
fetch failed, NO_SPACE otherwise. -/
def State.promoteNow (s : State) (n p : Nat) (o : TierObject) : State × Nat :=
  if ((s.stand n).tiers.page p).copy.isSome then (s, 0)
  else
    match s.fetched n p o with
    | none => (s.need n p o, 0x0B)
    | some false => (s.fetchFailed n p, 0x0B)
    | some true =>
      let idx := p - o.base / pageSize
      let place := s.copyPlace n o idx
      match s.takeFrame n place (s.victims n place).length with
      | (t, none) => (t, 0x13)
      | (t, some f) => (t.installCopy n p o f, 0)

/-! Index tables and poison (06_block_compression.md R138, R141) -/

/-- The header of an index table: TABLES, BLOCKS and STORED_BYTES; none where it is not valid. -/
def State.indexHeader (s : State) (n a : Nat) : Option (Nat × Nat × Nat) :=
  match s.peek n a 64 with
  | .ok h =>
    let w0 := le h 0 8
    let w1 := le h 8 8
    let w2 := le h 16 8
    if a % 64 = 0 ∧ bits w0 0 8 = 1 ∧ bits w0 8 5 ≤ 16 ∧ w0 / 2 ^ 13 = 0 ∧ w1 / 2 ^ 40 = 0 ∧ w2 / 2 ^ 48 = 0 ∧
        (h.drop 24).all (· == 0)
    then some (bits w0 8 5, bits w1 0 40, bits w2 0 48) else none
  | _ => none

/-- The stand address of entry `b` of an index table with `tables` code tables. -/
def indexEntryAddr (a tables b : Nat) : Nat := a + 64 + 128 * tables + 16 * b

/-- The code tables of an index table, as code lengths. -/
def State.indexTables (s : State) (n a tables : Nat) : List (List Nat) :=
  (List.range tables).filterMap (fun t =>
    match s.peek n (a + 64 + 128 * t) 128 with
    | .ok bs => some (codeLengths bs)
    | _ => none)

/-- CMP_ERROR and its context for a poisoned block (R141, R142). -/
def State.flagBlock (s : State) (n addr : Nat) (e : BlockError) : State :=
  s.flagError (if e.cause = 0 then Fld.CMP_ERROR_CORRUPT else Fld.CMP_ERROR_SHORT) n (fun s =>
    s.setReg .CMP_ERROR_INFO n 0 (addr % 2 ^ 48 + e.codec * 2 ^ 48 + e.kind * 2 ^ 50 + e.sub * 2 ^ 54))

/-- POISONED and CAUSE set in the index entry at `ea`, and the block at `addr` recorded (R141). -/
def State.poisonEntry (s : State) (n ea addr : Nat) (e : BlockError) : State :=
  match s.peek n (ea + 5) 1 with
  | .ok [b] => (s.putBytes n (ea + 5) [(b ||| 2) &&& 0xFB ||| BitVec.ofNat 8 (4 * e.cause)]).flagBlock n addr e
  | _ => s.flagBlock n addr e

/-- The codec named by the header of a stored block, or 0 where it cannot be read. -/
def State.headerCodec (s : State) (n a : Nat) (raw : Bool) : Nat :=
  if raw then 0 else bits (s.peekLe n a 8) 8 2

/-- The entries of the blocks stored in a page of an indexed object marked CORRUPT with CHECK_KIND 7 (R160). -/
def State.markPageBlocks (s : State) (n p : Nat) (o : TierObject) : State :=
  if o.indexAddr = 0 then s
  else
    match s.indexHeader n o.indexAddr with
    | none => s
    | some (tables, blocks, _) =>
      (List.range blocks).foldl (fun s b =>
        let ea := indexEntryAddr o.indexAddr tables b
        match s.peek n ea 16 with
        | .ok bs =>
          let e := IndexEntry.ofBytes bs
          let a := o.base + e.offset * 256
          if !e.poisoned && a < (p + 1) * pageSize && p * pageSize < a + e.size then
            s.poisonEntry n ea a ⟨0, 7, s.headerCodec n a e.raw, 0⟩
          else s
        | _ => s) s

/-- The die and the unit whose memory failed under a page of tier `tier` (19_faults_events.md Table 19.4): the channel of
its first unit where the page spans several. -/
def State.lossSource (s : State) (n p : Nat) (o : TierObject) (tier : Nat) : Nat × Nat :=
  let e := (s.stand n).tiers.page p
  let at0 := o.homeOffset + (p - o.base / pageSize) * pageSize
  let frame := match e.copy with
    | some c => if c.frame.tier = tier then some c.frame else e.home
    | none => e.home
  match tier with
  | 0 => (((frame.map (·.grove)).getD 0) / 4, 36)
  | 1 =>
    let half := match frame with
      | some f => if f.tier = 1 then (s.halfStacks n).getD (f.num / framesPerGrove) 0
        else (s.halfStacks n).getD (at0 / halfStackSize) 0
      | none => (s.halfStacks n).getD (at0 / halfStackSize) 0
    (6 + half / 4, 36)
  | 2 => (6 + s.t2Channel n at0 / 8, 35)
  | _ => (6 + s.hubOf n, 36)

/-- A page becomes LOST: OBJECT_LOST is reported once for its object, and an indexed object's blocks are marked
(R160). -/
def State.losePage (s : State) (n p tier : Nat) : State :=
  match s.pageObject n p with
  | none => s
  | some (k, o) =>
    if ((s.stand n).tiers.page p).lost then s
    else
      let t := s.updPage n p (fun e => { e with lost := true, copy := none, move := .still })
      let t := if o.lostReported then t
        else
          let t := t.updStand n (fun st => { st with tiers :=
            { st.tiers with objects := st.tiers.objects.set k { o with lostReported := true } } })
          let (die, unit) := s.lossSource n p o tier
          (t.flagError Fld.TIER_ERROR_OBJECT_LOST n (tierContext n k tier o.tag (p * pageSize))).event
            ⟨0x0201, some n, die, unit, [k, o.tag, tier]⟩
      t.markPageBlocks n p o

/-! Channels out of service (19_faults_events.md R395; Table 7.4) -/

/-- Pages of an object of T2 home with a 4 KiB unit on DDR5 channel `k`. -/
def State.t2OnChannel (s : State) (n : Nat) (o : TierObject) (idx k : Nat) : Bool :=
  (List.range 16).any (fun u => s.t2Channel n (o.homeOffset + idx * pageSize + 4096 * u) == k)

/-- The home of page `idx` of an object lies on the failed place. -/
def State.homeOn (s : State) (n : Nat) (o : TierObject) (idx : Nat) (e : PageEntry)
    (grove half ddr : Option Nat) : Bool :=
  match o.home with
  | 0 => grove.any (fun g => e.home.any (fun f => f.grove == g))
  | 1 => half.any (fun h => (s.halfStacks n).getD ((o.homeOffset + idx * pageSize) / halfStackSize) 0 == h)
  | 2 => ddr.any (s.t2OnChannel n o idx)
  | _ => false

/-- The frame lies on the failed place. -/
def State.frameOn (s : State) (n : Nat) (f : Frame) (grove half : Option Nat) : Bool :=
  if f.tier = 0 then grove == some f.grove
  else half.any (fun h => (s.halfStacks n).getD (f.num / framesPerGrove) 0 == h)

/-- The pages of stand `n` after a channel left service: homes on it LOST, clean copies dropped, dirty copies LOST. -/
def State.loseChannelPages (s : State) (n : Nat) (grove half ddr : Option Nat) : State :=
  (s.stand n).tiers.objects.foldl (fun s e =>
    (List.range e.2.pages).foldl (fun s idx =>
      let p := e.2.base / pageSize + idx
      let pe := (s.stand n).tiers.page p
      match pe.copy with
      | some c =>
        if s.frameOn n c.frame grove half then
          (if c.dirty = 0 then (if s.homeOn n e.2 idx pe grove half ddr then s.losePage n p e.2.home else s.dropCopy n p)
           else s.losePage n p c.frame.tier)
        else if s.homeOn n e.2 idx pe grove half ddr then s.losePage n p e.2.home else s
      | none => if s.homeOn n e.2 idx pe grove half ddr then s.losePage n p e.2.home else s) s) s

/-- An HBM4 channel (index 32 × stack + channel) leaves service (R395). -/
def State.failHbm (s : State) (i : Nat) : State :=
  let t := s.setFld Fld.EVR_HBM_OUT_OUT 0 (i / 64) (s.fld Fld.EVR_HBM_OUT_OUT 0 (i / 64) ||| 2 ^ (i % 64))
  let die := if i / 32 < 12 then i / 64 else 6 + (i / 32 - 12) / 2
  let t := t.event ⟨0x0202, none, die, 36, [0, i]⟩
  if i / 32 < 12 then
    let g := 4 * (i / 64) + 2 * (i / 32 % 2) + i % 32 / 16
    match t.groveStand g with
    | none => t
    | some n => t.loseChannelPages n (some g) none none
  else
    let h := 2 * (i / 32 - 12) + i % 32 / 16
    t.allStands.foldl (fun t n => if (t.halfStacks n).contains h then t.loseChannelPages n none (some h) none else t) t

/-- A DDR5 channel leaves service (R395). -/
def State.failDdr (s : State) (k : Nat) : State :=
  let t := s.setFld Fld.EVR_DDR_OUT_OUT 0 0 (s.fld Fld.EVR_DDR_OUT_OUT ||| 2 ^ k)
  let t := t.setFld Fld.DDR_CHAN_IN_SERVICE k 0 0
  let t := t.event ⟨0x0202, none, 6 + k / 8, 35, [1, k]⟩
  t.allStands.foldl (fun t n => if (t.channels n).contains k then t.loseChannelPages n none none (some k) else t) t

end Sys2Proof.Machine
end

