-- ==== Sys2Proof/Machine/Runs.lean ====
section
/-! DEFINITION. The command rings whose commands complete in any order (09_state_movement.md R218;
10_fabric_transport.md R246; 11_fabric_memory.md R259). -/

namespace Sys2Proof.Machine

open Sys2Proof

/-- The three rings. -/
inductive RunKind where
  | fab | swy | fmm
  deriving DecidableEq, Repr

/-- The registers of a ring. -/
def RunKind.ring : RunKind → Ring
  | .fab => fabRing
  | .swy => swyRing
  | .fmm => fmmRing

/-- The run of a stand's ring. -/
def Stand.getRun (st : Stand) : RunKind → Run
  | .fab => st.fabRun
  | .swy => st.swyRun
  | .fmm => st.fmm.run

/-- The run of a stand's ring set. -/
def Stand.setRun (st : Stand) (k : RunKind) (r : Run) : Stand :=
  match k with
  | .fab => { st with fabRun := r }
  | .swy => { st with swyRun := r }
  | .fmm => { st with fmm := { st.fmm with run := r } }

/-- The stand address of entry `i` of a ring. -/
def State.runEntry (s : State) (k : RunKind) (n i : Nat) : Nat := s.fld k.ring.addr n + 32 * i

/-- The next entry to take: its index and its bytes. -/
def State.runFront (s : State) (k : RunKind) (n : Nat) : Option (Nat × List Byte) :=
  let i := ((s.stand n).getRun k).next
  if i = s.fld k.ring.tail n % 2 ^ s.fld k.ring.size n then none
  else
    match s.peek n (s.runEntry k n i) 32 with
    | .ok bs => some (i, bs)
    | _ => none

/-- The entry at `i` is taken and in progress. -/
def State.runTake (s : State) (k : RunKind) (n i : Nat) : State :=
  s.updStand n (fun st =>
    let r := st.getRun k
    st.setRun k { next := (i + 1) % 2 ^ s.fld k.ring.size n, busy := r.busy ++ [i] })

/-- The command at `i` completes: its result is written, and HEAD passes every entry whose results are written up to
the first that is in progress. -/
def State.runDone (s : State) (k : RunKind) (n i result : Nat) : State :=
  if !((s.stand n).getRun k).busy.contains i then s
  else
    let s := s.standWrite n (s.runEntry k n i + 1) [BitVec.ofNat 8 result]
    let s := s.updStand n (fun st =>
      let r := st.getRun k
      st.setRun k { r with busy := r.busy.filter (· != i) })
    let r := (s.stand n).getRun k
    s.setFld k.ring.head n 0 (r.busy.head?.getD r.next)

/-- The next command of a ring taken when it names the OP: `run` has the entry and its index, and answers a result or
leaves the command in progress. An OP that the ring does not know completes through `bad`. -/
def State.runCommand (s : State) (k : RunKind) (n op : Nat) (known : List Nat) (bad : State → State × Nat)
    (run : List Byte → Nat → State → State × Option Nat) : State :=
  match s.runFront k n with
  | none => s
  | some (i, e) =>
    let o := le e 0 1
    if o = op then
      let (t, res) := run e i (s.runTake k n i)
      match res with
      | some x => t.runDone k n i x
      | none => t
    else if known.contains o then s
    else
      let (t, x) := bad (s.runTake k n i)
      t.runDone k n i x

end Sys2Proof.Machine
end

