-- ==== Sys2Proof/Machine/Search.lean ====
section
/-! DEFINITION. The associative search unit: tables over banks, searches, insertion with holes, repair and bank failure
(13_associative_search.md R283-R295). -/

namespace Sys2Proof.Machine

open Sys2Proof

/-- Units of a bank. -/
def bankUnits : Nat := 4096

/-- Table kinds of ASR_BANK_CFG. -/
def kindRemote : Nat := 1
def kindComposition : Nat := 2
def kindClassifier : Nat := 3

/-- A field of ASR_BANK_CFG of bank `b`, 0 to 63. -/
def State.bank (s : State) (f : Field) (b : Nat) : Nat := s.fld f (b / 32) (b % 32)

/-- Entry slots of a bank. -/
def State.bankSlots (s : State) (b : Nat) : Nat := bankUnits / 2 ^ s.bank Fld.ASR_BANK_CFG_WIDTH b

/-- A table: its hub die, its kind and, for a remote map, its stand (R284). -/
structure Table where
  hub : Nat
  kind : Nat
  stand : Nat
  deriving DecidableEq, Repr

/-- The banks of a table in service, in rising order. -/
def State.banksOf (s : State) (t : Table) : List Nat :=
  ((List.range 32).map (32 * t.hub + ·)).filter (fun b =>
    s.bank Fld.ASR_BANK_CFG_KIND b == t.kind && s.bank Fld.ASR_BANK_CFG_IN_SERVICE b == 1 &&
    (t.kind != kindRemote || s.bank Fld.ASR_BANK_CFG_STAND b == t.stand))

/-- The table that a bank belongs to. -/
def State.tableOf (s : State) (b : Nat) : Table :=
  let k := s.bank Fld.ASR_BANK_CFG_KIND b
  ⟨b / 32, k, if k = kindRemote then s.bank Fld.ASR_BANK_CFG_STAND b else 0⟩

/-- Slots of a table. -/
def State.tableSize (s : State) (t : Table) : Nat := ((s.banksOf t).map s.bankSlots).foldl (· + ·) 0

/-- The key of the slot at a position of a list of banks. -/
def State.slotAt (s : State) : List Nat → Nat → Option Nat
  | [], _ => none
  | b :: bs, p => if p < s.bankSlots b then some (4096 * b + p) else s.slotAt bs (p - s.bankSlots b)

/-- The entries of a bank, by slot. -/
def State.bankEntries (s : State) (b : Nat) : SMap SearchEntry :=
  (s.search.filter (fun e => e.1 / 4096 == b)).map (fun e => (e.1 % 4096, e.2))

/-- The entries of the listed banks by position. -/
def State.entriesFrom (s : State) : Nat → List Nat → SMap SearchEntry
  | _, [] => []
  | base, b :: bs =>
    (s.bankEntries b).map (fun e => (base + e.1, e.2)) ++ s.entriesFrom (base + s.bankSlots b) bs

/-- The valid entries of a table by position. -/
def State.tableEntries (s : State) (t : Table) : SMap SearchEntry := s.entriesFrom 0 (s.banksOf t)

/-- USED of a bank brought up to date. -/
def State.countBank (s : State) (b : Nat) : State :=
  s.setFld Fld.ASR_BANK_CFG_USED (b / 32) (b % 32) (s.bankEntries b).length

/-- The entries of a table set whole. -/
def State.setTable (s : State) (t : Table) (l : SMap SearchEntry) : State :=
  let bs := s.banksOf t
  let kept := s.search.filter (fun e => !bs.contains (e.1 / 4096))
  let m := l.foldl (fun (m : SMap SearchEntry) e => match s.slotAt bs e.1 with
    | some k => m.set k e.2
    | none => m) kept
  bs.foldl State.countBank { s with search := m }

/-- An entry matches a key: every compared bit is equal (R283). -/
def SearchEntry.hits (e : SearchEntry) (key : Nat) : Bool := (e.data ^^^ key) &&& e.mask == 0

/-- The winner among matching entries: the lowest position, or in explicit priority the highest order key and then the
lowest position (R286). -/
def winner (explicit : Bool) (key : Nat) (l : SMap SearchEntry) : Option (Nat × SearchEntry) :=
  (l.filter (fun e => e.2.hits key)).foldl (fun best e => match best with
    | none => some e
    | some b =>
      if explicit then (if b.2.priority < e.2.priority ∨ (b.2.priority = e.2.priority ∧ e.1 < b.1) then some e else best)
      else if e.1 < b.1 then some e else best) none

/-- The table runs in explicit priority. -/
def State.explicitMode (s : State) (t : Table) : Bool := (s.banksOf t).any (fun b => s.bank Fld.ASR_BANK_CFG_MODE b == 1)

/-- The entry that a search of a table returns. -/
def State.lookup (s : State) (t : Table) (key : Nat) : Option (Nat × SearchEntry) :=
  winner (s.explicitMode t) key (s.tableEntries t)

/-- A search made: it is counted (R295). -/
def State.searched (s : State) (hub : Nat) : State := s.addFld Fld.ASR_SEARCHES_COUNT hub 0 1

/-! Insertion (R286, R288, R289) -/

/-- The nearest free position below `p`. -/
def holeBelow (l : SMap SearchEntry) : Nat → Option Nat
  | 0 => none
  | p + 1 => if (l.get? p).isSome then holeBelow l p else some p

/-- The nearest free position at or above `p`, of `n` positions looked at. -/
def holeAbove (l : SMap SearchEntry) (p : Nat) : Nat → Option Nat
  | 0 => none
  | n + 1 => if (l.get? p).isSome then holeAbove l (p + 1) n else some p

/-- An entry inserted in a table of `cap` positions with the moves of R288; none when the table has no hole. -/
def insertEntry (cap : Nat) (l : SMap SearchEntry) (x : SearchEntry) : Option (SMap SearchEntry) :=
  let p := match l.find? (fun e => e.2.priority < x.priority) with
    | some e => e.1
    | none => cap
  let shift := fun (f : Nat → Nat) (at_ : Nat) =>
    some (SMap.set (l.map (fun e => (f e.1, e.2))) at_ x)
  match holeBelow l p, holeAbove l p (cap - p) with
  | none, none => none
  | some lo, none => shift (fun i => if lo < i ∧ i < p then i - 1 else i) (p - 1)
  | none, some hi => shift (fun i => if p ≤ i ∧ i < hi then i + 1 else i) p
  | some lo, some hi =>
    if p - lo ≤ hi - p then shift (fun i => if lo < i ∧ i < p then i - 1 else i) (p - 1)
    else shift (fun i => if p ≤ i ∧ i < hi then i + 1 else i) p

/-- Set bits among the low `n`. -/
def maskBits (n m : Nat) : Nat := popcount n m

/-- An entry written to a table: the result word of a valid entry with an equal value and mask is replaced in one write;
otherwise it is inserted. None when the table is full. -/
def State.tableInsert (s : State) (t : Table) (x : SearchEntry) : Option State :=
  let l := s.tableEntries t
  if l.any (fun e => e.2.data == x.data && e.2.mask == x.mask) then
    some (s.setTable t (l.map (fun e =>
      if e.2.data = x.data ∧ e.2.mask = x.mask then (e.1, { e.2 with result := x.result }) else e)))
  else (insertEntry (s.tableSize t) l x).map (s.setTable t)

/-- The entry with a value and mask removed: a hole is left (R289). The Bool says whether there was one. -/
def State.tableDelete (s : State) (t : Table) (data mask : Nat) : State × Bool :=
  let l := s.tableEntries t
  if l.any (fun e => e.2.data == data && e.2.mask == mask) then
    (s.setTable t (l.filter (fun e => e.2.data != data || e.2.mask != mask)), true)
  else (s, false)

/-- ASR_ERROR with its context (R81, R295). -/
def State.flagAsr (s : State) (f : Field) (b slot : Nat) : State :=
  let t := s.tableOf b
  s.flagError f (b / 32) (fun s => s.setReg .ASR_ERROR_INFO (b / 32) 0
    (b + slot * 2 ^ 6 + t.kind * 2 ^ 18 + t.stand * 2 ^ 20))

/-- TABLE_FULL in ASR_ERROR, with the table's first bank. -/
def State.tableFull (s : State) (t : Table) : State :=
  s.flagAsr Fld.ASR_ERROR_TABLE_FULL (((s.banksOf t).head?).getD (32 * t.hub)) 0

/-! Searches (R287) -/

/-- The stand that a record about a bank names: the owner of a remote-map bank. -/
def State.bankStand (s : State) (b : Nat) : Option Nat :=
  if (s.tableOf b).kind = kindRemote then some (s.tableOf b).stand else none

/-- An entry of bank `b` repaired from its shadow, or the shadow from it: counted and recorded (R293). -/
def State.repaired (s : State) (b slot : Nat) : State :=
  (s.addFld Fld.ASR_REPAIRED_COUNT (b / 32) 0 1).event ⟨0x0501, s.bankStand b, 6 + b / 32, 34, [b, slot]⟩

/-- An entry lost: counted, recorded and flagged (R293, R294). -/
def State.entryLost (s : State) (b slot : Nat) : State :=
  let s := (s.addFld Fld.ASR_LOST_COUNT (b / 32) 0 1).flagAsr Fld.ASR_ERROR_ENTRY_LOST b slot
  s.event ⟨0x0502, s.bankStand b, 6 + b / 32, 34, [b, slot, (s.tableOf b).kind]⟩

/-- A burst of searches of a hub die: for each a table, its key, and whether the winning entry fails its checks at
first. A failing entry is repaired and the search issued again, at most eight times in the burst; from the ninth on the
searches are returned unissued (R287). -/
def State.burst (s : State) (hub : Nat) : List (Table × Nat × Bool) → Nat → List (Option Nat) → State
  | [], _, acc => { s with searchResults := acc }
  | (t, key, bad) :: rest, again, acc =>
    match s.lookup t key with
    | none => (s.searched hub).burst hub rest again (acc ++ [none])
    | some (p, e) =>
      if bad then
        (if 8 ≤ again then { s with searchResults := acc }
         else
          let s := match s.slotAt (s.banksOf t) p with
            | some k => s.repaired (k / 4096) (k % 4096)
            | none => s
          (s.searched hub).burst hub rest (again + 1) (acc ++ [some e.result]))
      else (s.searched hub).burst hub rest again (acc ++ [some e.result])

/-- SEARCH: a burst of up to 64 searches by requester `r`, which holds the search port of the hub die (R287). Each search
is the kind and stand of its table, its key, and whether its winning entry fails its checks at first. -/
def execAsrSearch (hub r : Nat) (l : List (Nat × Nat × Nat × Bool)) (s : State) : Host.Outcome State Fault Refusal :=
  .next (
    let a := 11 + hub
    if hub < 2 ∧ s.flag Fld.ARB_STATUS_GRANTED a ∧ s.fld Fld.ARB_STATUS_OWNER a = r then
      s.burst hub ((l.take 64).map (fun q => (⟨hub, q.1, q.2.1⟩, q.2.2.1, q.2.2.2))) 0 []
    else s)

/-! Classifier commands (R295) -/

/-- A classifier command of hub die `hub`, whose entry in host memory reads `cmd`: run when the entry at HEAD names the
OP; an OP that the ring does not know, and an entry record that is misaligned or cannot be read, complete BAD_COMMAND
(R447). `run` has the 64 B record where the host's memory returned it. -/
def State.asrCommand (s : State) (hub op : Nat) (cmd : List Byte) (record : HostRead)
    (run : List Byte → State → State × Nat) : State :=
  let size := 2 ^ s.fld Fld.ASR_CMD_RING_SIZE_LOG2 hub
  let h := s.fld Fld.ASR_CMD_HEAD_INDEX hub % size
  let a := s.fld Fld.ASR_CMD_RING_ADDR hub + 32 * h
  let o := le cmd 0 1
  if 2 ≤ hub ∨ h = s.fld Fld.ASR_CMD_TAIL_INDEX hub % size ∨ !s.hostReach .pf ∨ (o ≠ op ∧ [1, 2, 3].contains o) then s
  else
    let (t, res) := if o ≠ op ∨ le cmd 8 6 % 64 ≠ 0 then (s, 0x10)
      else match record with
        | .data r => run (sub r 0 64) s
        | .error => (s, 0x10)
    (t.hostWrite .pf (a + 1) [BitVec.ofNat 8 res]).setFld Fld.ASR_CMD_HEAD_INDEX hub 0 ((h + 1) % size)

/-- The classifier of a hub die. -/
def classifier (hub : Nat) : Table := ⟨hub, kindClassifier, 0⟩

/-- Value and mask of an entry record: bits 159:137 are reserved and masked (Table 13.1). -/
def recordKey (r : List Byte) : Nat × Nat :=
  let m := le r 20 20 % 2 ^ 137
  (le r 0 20 % 2 ^ 137 &&& m, m)

/-- CLASSIFIER_INSERT. -/
def execClassifierInsert (hub : Nat) (cmd : List Byte) (record : HostRead) (s : State) :
    Host.Outcome State Fault Refusal :=
  .next (s.asrCommand hub 1 cmd record (fun r s =>
    let (v, m) := recordKey r
    if 128 ≤ le r 40 1 then (s, 0x10)
    else
      match s.tableInsert (classifier hub) ⟨v, m, 128 * maskBits 160 m + le r 40 1, le r 48 8 % 16⟩ with
      | some t => (t, 0)
      | none => (s.tableFull (classifier hub), 0x22)))

/-- CLASSIFIER_DELETE. -/
def execClassifierDelete (hub : Nat) (cmd : List Byte) (record : HostRead) (s : State) :
    Host.Outcome State Fault Refusal :=
  .next (s.asrCommand hub 2 cmd record (fun r s =>
    let (v, m) := recordKey r
    let (t, found) := s.tableDelete (classifier hub) v m
    (t, if found then 0 else 0x1A)))

/-- CLASSIFIER_READ: the record of the entry with an equal value and mask is written over the record in host memory. -/
def execClassifierRead (hub : Nat) (cmd : List Byte) (record : HostRead) (s : State) :
    Host.Outcome State Fault Refusal :=
  .next (s.asrCommand hub 3 cmd record (fun r s =>
    let (v, m) := recordKey r
    match (s.tableEntries (classifier hub)).find? (fun e => e.2.data == v && e.2.mask == m) with
    | some e =>
      let rec_ := toBytes 20 v ++ toBytes 20 m ++ toBytes 8 (e.2.priority % 128) ++ toBytes 8 e.2.result ++ zeros 8
      (s.hostWrite .pf (le cmd 8 6) rec_, 0)
    | none => (s, 0x1A)))

/-! Re-spreading (R290) -/

/-- ASR_RESPREAD: the run of 256 positions from 256 × `run` of a table, when it is short of holes, is spread out again.
The entries keep their order; where the run is too full for its holes they end at its last position. -/
def execAsrRespread (hub kind stand run : Nat) (s : State) : Host.Outcome State Fault Refusal :=
  .next (
    let t : Table := ⟨hub, kind, stand⟩
    let k := s.fld Fld.ASR_CTRL_HOLE_INTERVAL t.hub
    let lo := 256 * run
    let l := s.tableEntries t
    let here := l.filter (fun e => lo ≤ e.1 && e.1 < lo + 256)
    let n := here.length
    if t.hub < 2 ∧ 2 ≤ k ∧ lo + 256 ≤ s.tableSize t ∧ 256 - n < 256 / k / 2 then
      let placed := (here.map (·.2)).zipIdx.map (fun e =>
        (lo + min (e.2 + e.2 / (k - 1)) (256 - n + e.2), e.1))
      s.setTable t (l.filter (fun e => e.1 < lo) ++ placed ++ l.filter (fun e => lo + 256 ≤ e.1))
    else s)

/-! Scrub and bank failure (R292-R294) -/

/-- ASR_SCRUB_ENTRY: the scrub compares slot `slot` of bank `b` with its shadow. -/
def execAsrScrubEntry (b slot : Nat) (found : ScrubFinding) (s : State) : Host.Outcome State Fault Refusal :=
  .next (
    if 64 ≤ b ∨ s.bankSlots b ≤ slot then s
    else
      let s := s.setFld Fld.ASR_STATUS_SCRUB_BANK (b / 32) 0 (b % 32)
      match s.search.get? (4096 * b + slot), found with
      | none, _ => s
      | some _, .same => s
      | some _, .bankWrong => s.repaired b slot
      | some _, .shadowWrong => s.repaired b slot
      | some _, .bothWrong => ({ s with search := s.search.del (4096 * b + slot) }.countBank b).entryLost b slot)

/-- The limit of Table 13.2 that a temperature enters. -/
def searchStep (celsius : Int) : Nat :=
  if celsius < 95 then 0 else if celsius < 102 then 1 else if celsius < 106 then 2 else 3

/-! The throttle level (15_isolation.md R339; 18_power_thermal.md R387) -/

/-- The level of a throttle state. -/
def stateLevel (k : Nat) : Nat := if k = 0 then 0 else if k ≤ 2 then 1 else if k ≤ 4 then 2 else 3

/-- The level below which the reported one does not lie. -/
def State.underlyingLevel (s : State) : Nat :=
  max (stateLevel (s.fld Fld.PWR_STATUS_STATE)) (max (s.fld Fld.ASR_STATUS_THROTTLE 0) (s.fld Fld.ASR_STATUS_THROTTLE 1))

/-- A new level reported to every stand, and recorded for the package and in every stand's view. -/
def State.reportLevel (s : State) (l : Nat) : State :=
  let e : Event := ⟨0x0507, none, 6, 41, [l]⟩
  let s := (s.setFld Fld.PWR_STATUS_LEVEL 0 0 l).event e
  s.allStands.foldl (fun s n => s.standEvent n e) s

/-- The reported level rises at once, and falls after the underlying one has been lower for 100 ms. -/
def State.settleLevel (s : State) : State :=
  let new := s.underlyingLevel
  let old := s.fld Fld.PWR_STATUS_LEVEL
  let since := fun (s : State) x => { s with power := { s.power with levelLow := x } }
  if old < new then since (s.reportLevel new) none
  else if old = new then since s none
  else
    match s.power.levelLow with
    | none => since s (some s.timeNs)
    | some t => if t + 100000000 ≤ s.timeNs then since (s.reportLevel new) none else s

/-- SEARCH_THROTTLE: the hottest sensor of hub die `hub` reads `celsius`; a step is left 3 °C below its threshold (R291). -/
def execSearchThrottle (hub : Nat) (celsius : Int) (s : State) : Host.Outcome State Fault Refusal :=
  .next (
    if hub < 2 then
      let old := s.fld Fld.ASR_STATUS_THROTTLE hub
      (s.setFld Fld.ASR_STATUS_THROTTLE hub 0 (max (searchStep celsius) (min old (searchStep (celsius + 3))))).settleLevel
    else s)

/-- Entries put into the holes of a table, highest order key first; those that find no hole are lost, named by their old
slot. -/
def State.reload (s : State) (t : Table) (b : Nat) : List (Nat × SearchEntry) → State
  | [] => s
  | (slot, x) :: rest =>
    match insertEntry (s.tableSize t) (s.tableEntries t) x with
    | some l => (s.setTable t l).reload t b rest
    | none => (s.entryLost b slot).reload t b rest

end Sys2Proof.Machine
end

