-- ==== Sys2Proof/Machine/Ports.lean ====
section
/-! DEFINITION. Fabric ports: frames and their lengths, egress queues, gates, shaper credit and transmission selection
(12_shaping_arbitration.md R268-R274; 10_fabric_transport.md R221, R222). -/

namespace Sys2Proof.Machine

open Sys2Proof

/-- Port `p`. -/
def State.port (s : State) (p : Nat) : Port := (s.ports.get? p).getD {}

/-- Port `p` changed by `f`. -/
def State.updPort (s : State) (p : Nat) (f : Port → Port) : State := { s with ports := s.ports.set p (f (s.port p)) }

/-- Hub die `h`'s clock and list. -/
def State.hub (s : State) (h : Nat) : Hub := (s.hubs.get? h).getD {}

/-- Hub die `h` changed by `f`. -/
def State.updHub (s : State) (h : Nat) (f : Hub → Hub) : State := { s with hubs := s.hubs.set h (f (s.hub h)) }

/-- The rate of a port mode in bits per ns, which is Gb/s (Table 10.1). -/
def modeRate (m : Nat) : Nat := if m ≤ 1 then 800 else 400

/-- The trained rate of a port. -/
def State.portRate (s : State) (p : Nat) : Nat := modeRate (s.fld Fld.FAB_PORT_STATUS_MODE p)

/-- The length of a frame from destination address through FCS (R222). -/
def frameBytes (f : FabFrame) : Nat := 14 + 4 * f.tags + (if f.udp.isSome then 48 else 0) + f.packet.length + 4

/-- The bits that a frame takes on the wire, preamble and gap included (R269). -/
def wireBits (f : FabFrame) : Nat := 8 * (frameBytes f + 20)

/-- The queue of a class. -/
def Port.queue (q : Port) (c : Nat) : List Queued := (q.queues.get? c).getD []

/-! Gates (R272) -/

/-- The entries of the operational gate list: gates and duration. -/
def State.operList (s : State) (p : Nat) : List (Nat × Nat) :=
  (List.range (s.fld Fld.GCL_CTRL_OPER_LENGTH p)).map (fun i =>
    (s.fld Fld.GCL_OPER_ENTRY_GATES p i, s.fld Fld.GCL_OPER_ENTRY_DURATION_NS p i))

/-- A gate list runs on the port. -/
def State.gated (s : State) (p : Nat) : Bool := s.flag Fld.GCL_CTRL_ENABLE p && (s.port p).running

/-- The gates that are open now. A list that has not started yet leaves every gate open. -/
def State.gates (s : State) (p : Nat) : Nat :=
  if s.gated p then ((s.operList p).getD (s.port p).entry (0, 0)).1 else 0xFF

/-- The spans of a cycle: the start of each entry within it and its gates; entries beyond the cycle are cut, and the last
one holds until it ends. -/
def spans (cycle : Nat) : Nat → List (Nat × Nat) → List (Nat × Nat)
  | _, [] => []
  | at_, (g, d) :: rest => if cycle ≤ at_ then [] else (at_, g) :: spans cycle (at_ + d) rest

/-- When the gate of class `c`, open now, closes next, in ns; none when no entry closes it. -/
def State.gateCloses (s : State) (p c : Nat) : Option Nat :=
  if !s.gated p then none
  else
    let q := s.port p
    let cycle := s.fld Fld.GCL_OPER_CYCLE_CYCLE_NS p
    let l := spans cycle 0 (s.operList p)
    let after := (l.drop (q.entry + 1)).map (fun e => (q.cycleStart + e.1, e.2)) ++
      l.map (fun e => (q.cycleStart + cycle + e.1, e.2))
    (after.find? (fun e => !e.2.testBit c)).map (·.1)

/-! Shaper credit (R270) -/

/-- The credit of class `c` after `dt` ns, `own` of them spent sending a frame of the class (the fall of that frame is
taken when it starts). In thousandths of a bit: IDLE_SLOPE in Mb/s is thousandths of a bit per ns. -/
def creditAfter (slope cap : Nat) (openGate waiting : Bool) (credit : Int) (dt own : Nat) : Int :=
  let t := dt - own
  if waiting then (if openGate then min (cap * 1000 : Nat) (credit + (slope * t : Nat)) else credit)
  else if t = 0 then credit
  else if 0 < credit then 0
  else min 0 (credit + (slope * t : Nat))

/-- The credits of a port brought up to now. -/
def State.portTick (s : State) (p : Nat) : State :=
  let q := s.port p
  let dt := s.timeNs - q.creditAt
  let upd := fun (m : SMap Int) c =>
    if s.flag Fld.SHP_CBS_ENABLE p c then
      let own := if q.sending = some c then min dt (q.freeAt - q.creditAt) else 0
      m.set c (creditAfter (s.fld Fld.SHP_CBS_IDLE_SLOPE p c) (s.fld Fld.SHP_CBS_HI_CREDIT p c)
        ((s.gates p).testBit c) (!(q.queue c).isEmpty) ((m.get? c).getD 0) dt own)
    else m
  s.updPort p (fun q => { q with credits := (List.range 8).foldl upd q.credits, creditAt := s.timeNs })

/-- A frame of `bits` bits costs this much credit (R270). -/
def frameCost (bits rate slope : Nat) : Int := ((bits * (1000 * rate - slope) / rate : Nat) : Int)

/-! Queues -/

/-- The stand for which class `c` of a port is reserved (R274). -/
def State.classOwner (s : State) (p c : Nat) : Option Nat :=
  let v := s.reg .SHP_CLASS_OWNER p 0
  if v.testBit (8 * c + 7) then some (bits v (8 * c) 5) else none

/-- The class of the packets of stand `n` on a port whose connection has TCLASS `c` (R274). -/
def State.egressClass (s : State) (p n c : Nat) : Nat :=
  match (List.range 8).find? (fun k => s.classOwner p k == some n) with
  | some k => k
  | none => if (s.classOwner p c).isSome then 0 else c

/-- A frame enters the queue of a class, at its end. -/
def State.enqueue (s : State) (p c die conn : Nat) (f : FabFrame) : State :=
  (s.portTick p).updPort p (fun q =>
    { q with queues := q.queues.set c (q.queue c ++ [⟨die, conn, f, s.timeNs⟩]) })

/-- The frames of a connection leave every queue. -/
def State.dropQueued (s : State) (die conn : Nat) : State :=
  (List.range 16).foldl (fun s p =>
    if (s.port p).queues.any (fun e => e.2.any (fun x => x.die == die && x.conn == conn)) then
      (s.portTick p).updPort p (fun q =>
        { q with queues := q.queues.map (fun e => (e.1, e.2.filter (fun x => x.die != die || x.conn != conn))) })
    else s) s

/-- A class of a port is eligible (R269). -/
def State.classEligible (s : State) (p c : Nat) : Bool :=
  let q := s.port p
  match q.queue c with
  | [] => false
  | x :: _ =>
    let done := s.timeNs + ceilDiv (wireBits x.frame) (s.portRate p)
    (s.gates p).testBit c && (s.gateCloses p c).all (fun t => done ≤ t) &&
    (!s.flag Fld.SHP_CBS_ENABLE p c || decide (0 ≤ (q.credits.get? c).getD 0)) &&
    !((s.fld Fld.FAB_PORT_CTRL_PFC_CLASSES p).testBit c && decide (s.timeNs < (q.paused.get? c).getD 0))

/-- The head frame of the eligible class with the highest number is sent, if the port is free (R269). -/
def State.transmit (s : State) (p : Nat) : State :=
  let s := s.portTick p
  let q := s.port p
  if !s.flag Fld.FAB_PORT_STATUS_LINK_UP p || s.timeNs < q.freeAt then s
  else
    match ((List.range 8).reverse).find? (s.classEligible p) with
    | none => s
    | some c =>
      match q.queue c with
      | [] => s
      | x :: rest =>
        let b := wireBits x.frame
        let credit := (q.credits.get? c).getD 0
        let credits := if s.flag Fld.SHP_CBS_ENABLE p c then
          q.credits.set c (credit - frameCost b (s.portRate p) (s.fld Fld.SHP_CBS_IDLE_SLOPE p c)) else q.credits
        (s.updPort p (fun q => { q with
          queues := q.queues.set c rest, sending := some c, freeAt := s.timeNs + ceilDiv b (s.portRate p),
          credits := credits, sent := some x.frame,
          sojourn := q.sojourn.set c (max ((q.sojourn.get? c).getD 0) (s.timeNs - x.since)) })).addFld
            Fld.FAB_PORT_TX_FRAMES_COUNT p 0 1

/-! Effects of register writes on ports -/

/-- What a plain write of a register does beside setting it: a shaper enabled has credit 0 (R270); a gate list that is
disabled stops (R272). -/
def State.afterWrite (s old : State) (r : Reg) (i j : Nat) : State :=
  match r with
  | .SHP_CBS =>
    if !old.flag Fld.SHP_CBS_ENABLE i j && s.flag Fld.SHP_CBS_ENABLE i j then
      s.updPort i (fun q => { q with credits := q.credits.set j 0 })
    else s
  | .GCL_CTRL =>
    if s.flag Fld.GCL_CTRL_ENABLE i then s else s.updPort i (fun q => { q with running := false })
  | _ => s

end Sys2Proof.Machine
end

