-- ==== Sys2Proof/Machine/Queues.lean ====
section
/-! DEFINITION. Completion queues (08_serving_scheduler.md R167, R168, Table 8.4; 00_scope.md R444, R445). -/

namespace Sys2Proof.Machine

open Sys2Proof

/-- A completion entry, without PHASE. -/
structure Completion where
  req : Nat
  token : Nat := 0xFFFFFFFF
  position : Nat := 0
  status : Nat
  first : Bool := false
  final : Bool := false
  late : Bool := false
  degraded : Bool := false
  cancelReply : Bool := false
  speculative : Bool := false
  step : Nat
  us : Nat
  seq : Nat
  deriving DecidableEq, Repr

/-- The bytes of an entry with PHASE 0. -/
def Completion.bytes (c : Completion) : List Byte :=
  toBytes 8 c.req ++ toBytes 4 c.token ++ toBytes 4 c.position ++
  toBytes 4 (c.status % 2 ^ 8 + b01 c.first * 2 ^ 8 + b01 c.final * 2 ^ 9 + b01 c.late * 2 ^ 10 + b01 c.degraded * 2 ^ 11 +
    b01 c.cancelReply * 2 ^ 12 + b01 c.speculative * 2 ^ 13) ++
  toBytes 4 c.step ++ toBytes 4 c.us ++ toBytes 4 c.seq

/-- Entries of completion queue `q` of stand `n`. -/
def State.cqSize (s : State) (n q : Nat) : Nat := 2 ^ s.fld Fld.SCH_CQ_BASE_SIZE_LOG2 n q

/-- Entries that fit into the queue now (R444), less those that wait for it. -/
def State.cqRoom (s : State) (n q : Nat) : Nat :=
  let size := s.cqSize n q
  size - 1 - (s.fld Fld.SCH_CQ_TAIL_INDEX n q % size + size - s.fld Fld.SCH_CQ_HEAD_INDEX n q % size) % size -
    (((s.stand n).cqWaiting.get? q).getD []).length

/-- The next slot of the queue is free and can be written. -/
def State.cqCanWrite (s : State) (n q : Nat) : Bool :=
  let size := s.cqSize n q
  let t := s.fld Fld.SCH_CQ_TAIL_INDEX n q % size
  (t + 1) % size != s.fld Fld.SCH_CQ_HEAD_INDEX n q % size && s.flag Fld.SCH_CQ_BASE_ENABLE n q &&
  (if s.flag Fld.SCH_CQ_BASE_TARGET n q then s.writableRange n (s.fld Fld.SCH_CQ_BASE_ADDR n q + 32 * t) 32
   else s.hostReach (.vf n))

/-- An entry written at TAIL: words 0, 1 and 3 first, and word 2 with PHASE last (R167). -/
def State.cqPut (s : State) (n q : Nat) (e : List Byte) : State :=
  let t := s.fld Fld.SCH_CQ_TAIL_INDEX n q % s.cqSize n q
  let a := s.fld Fld.SCH_CQ_BASE_ADDR n q + 32 * t
  let ring := Reg.SCH_CQ_BASE.addr n q
  let e := patchLe e 16 4 (le e 16 4 + s.ringPhase ring * 2 ^ 15)
  let put := fun (s : State) (off len : Nat) =>
    if s.flag Fld.SCH_CQ_BASE_TARGET n q then s.standWrite n (a + off) (sub e off len)
    else s.hostWrite (.vf n) (a + off) (sub e off len)
  let s := put (put (put s 0 16) 24 8) 16 8
  let next := (t + 1) % s.cqSize n q
  let s := s.setFld Fld.SCH_CQ_TAIL_INDEX n q next
  let s := if next = 0 then s.wrapRing ring else s
  s.updStand n (fun st => { st with cqWritten := if st.cqWritten.contains q then st.cqWritten else q :: st.cqWritten })

/-- Entries that wait written in order while there is room. -/
def State.cqDrain (s : State) (n q : Nat) : List (List Byte) → State
  | [] => s.updStand n (fun st => { st with cqWaiting := st.cqWaiting.del q })
  | e :: es =>
    if s.cqCanWrite n q then (s.cqPut n q e).cqDrain n q es
    else s.updStand n (fun st => { st with cqWaiting := st.cqWaiting.set q (e :: es) })

/-- The entries that wait for a queue offered to it again. -/
def State.cqFlush (s : State) (n q : Nat) : State :=
  match (s.stand n).cqWaiting.get? q with
  | some l => s.cqDrain n q l
  | none => s

/-- An entry of a queue: written, or put to wait behind the others. -/
def State.cqEntry (s : State) (n q : Nat) (c : Completion) : State :=
  s.cqDrain n q ((((s.stand n).cqWaiting.get? q).getD []) ++ [c.bytes])

/-- The messages after a commit phase: one for each queue that it wrote and that asks for one. -/
def State.cqInterrupts (s : State) (n : Nat) : State :=
  let l := sortBy id (s.stand n).cqWritten
  (l.filter (fun q => s.flag Fld.SCH_CQ_BASE_INTERRUPT n q)).foldl (fun s q => s.msix (.vf n) q)
    (s.updStand n (fun st => { st with cqWritten := [] }))

end Sys2Proof.Machine
end

