-- ==== Sys2Proof/Machine/SwyEvents.lean ====
section
/-! DEFINITION. The Sapway event rings and the events that wait for them (09_state_movement.md R219, R450). -/

namespace Sys2Proof.Machine

open Sys2Proof

/-- The ring of a Sapway view: address, size, head, tail, interrupt; stand n, or 24 for the package. -/
structure SwyRing where
  addr : Nat
  size : Nat
  head : Nat
  tail : Nat
  interrupt : Bool
  deriving DecidableEq, Repr

/-- The event ring of stand `v`, or of the package for 24. -/
def State.swyEvtRing (s : State) (v : Nat) : SwyRing :=
  if v = 24 then
    ⟨s.fld Fld.SWYP_EVT_RING_ADDR, 2 ^ s.fld Fld.SWYP_EVT_RING_SIZE_LOG2, s.fld Fld.SWYP_EVT_HEAD_INDEX,
     s.fld Fld.SWYP_EVT_TAIL_INDEX, s.flag Fld.SWYP_EVT_RING_INTERRUPT⟩
  else
    ⟨s.fld Fld.SWY_EVT_RING_ADDR v, 2 ^ s.fld Fld.SWY_EVT_RING_SIZE_LOG2 v, s.fld Fld.SWY_EVT_HEAD_INDEX v,
     s.fld Fld.SWY_EVT_TAIL_INDEX v, s.flag Fld.SWY_EVT_RING_INTERRUPT v⟩

/-- The key of a Sapway event ring's lap. -/
def swyRingKey (v : Nat) : Nat := if v = 24 then Reg.SWYP_EVT_RING.addr 0 0 else Reg.SWY_EVT_RING.addr v 0

/-- A slot of the ring is free and lies where it can be written. The package ring lies in host memory. -/
def State.swyCanWrite (s : State) (v : Nat) : Bool :=
  let r := s.swyEvtRing v
  let h := r.head % r.size
  let t := r.tail % r.size
  (t + 1) % r.size != h && (if v = 24 then s.hostReach .pf else s.writableRange v (r.addr + 32 * t) 32)

/-- An event written at TAIL: bytes 8 to 31 first, then bytes 0 to 7 with PHASE. -/
def State.swyPut (s : State) (v : Nat) (e : List Byte) : State :=
  let r := s.swyEvtRing v
  let t := r.tail % r.size
  let a := r.addr + 32 * t
  let ph := s.ringPhase (swyRingKey v)
  let e := patch e 1 [BitVec.ofNat 8 ph]
  let s1 := if v = 24 then (s.hostWrite .pf (a + 8) (e.drop 8)).hostWrite .pf a (e.take 8)
    else (s.standWrite v (a + 8) (e.drop 8)).standWrite v a (e.take 8)
  let next := (t + 1) % r.size
  let s2 := if v = 24 then s1.setFld Fld.SWYP_EVT_TAIL_INDEX 0 0 next else s1.setFld Fld.SWY_EVT_TAIL_INDEX v 0 next
  let s3 := if next = 0 then s2.wrapRing (swyRingKey v) else s2
  if r.interrupt then s3.msix (if v = 24 then .pf else .vf v) (if v = 24 then 3 else 17) else s3

/-- Waiting events written in order while slots are free. -/
def State.swyDrain (s : State) (v : Nat) : List (List Byte) → State
  | [] => { s with swyWaiting := s.swyWaiting.del v }
  | e :: es =>
    if s.swyCanWrite v then (s.swyPut v e).swyDrain v es
    else { s with swyWaiting := s.swyWaiting.set v (e :: es) }

/-- The waiting events of a ring offered to it again. -/
def State.swyFlush (s : State) (v : Nat) : State := s.swyDrain v ((s.swyWaiting.get? v).getD [])

/-- An event of a ring: written, put to wait behind the others, or counted as dropped when 4,096 wait (R450). -/
def State.swyEvent (s : State) (v kind requestId bundleId epoch arg : Nat) : State :=
  let e := toBytes 8 kind ++ toBytes 8 requestId ++ toBytes 8 bundleId ++ toBytes 4 epoch ++ toBytes 4 arg
  let w := (s.swyWaiting.get? v).getD []
  if w.isEmpty && s.swyCanWrite v then s.swyPut v e
  else if w.length < 4096 then { s with swyWaiting := s.swyWaiting.set v (w ++ [e]) }
  else if v = 24 then s.addFld Fld.SWYP_EVT_DROPPED_COUNT 0 0 1
  else s.addFld Fld.SWY_EVT_DROPPED_COUNT v 0 1

/-- SWY_EVT_HEAD advanced: the slots it frees take waiting events. -/
def State.swyEvtHead (s : State) (v index : Nat) : State :=
  (if v = 24 then s.setFld Fld.SWYP_EVT_HEAD_INDEX 0 0 index else s.setFld Fld.SWY_EVT_HEAD_INDEX v 0 index).swyFlush v

/-- SWY_EVT_HEAD_WRITE: function `f` writes SWY_EVT_HEAD of stand `v`, or of the package ring for 24. -/
def execSwyEvtHeadWrite (f : Fn) (v index : Nat) (s : State) : Host.Outcome State Fault Refusal :=
  .next (
    let r := if v = 24 then Reg.SWYP_EVT_HEAD else .SWY_EVT_HEAD
    if (v < 24 ∨ v = 24) ∧ s.right f r (if v = 24 then 0 else v) 0 = .full then s.swyEvtHead v (index % 2 ^ 16) else s)

end Sys2Proof.Machine
end

