-- ==== Sys2Proof/Machine/RegWrite.lean ====
section
/-! DEFINITION. Register accesses by the functions of the host (00_scope.md R5, R7, R445, R446). -/

namespace Sys2Proof.Machine

open Sys2Proof

/-- The register that an access of `bytes` bytes at an offset reaches: naturally aligned and of its width (R7). -/
def regAt (off bytes : Nat) : Option (Reg × Nat × Nat) :=
  match Reg.find off with
  | some (r, i, j) => if r.bytes = bytes then some (r, i, j) else none
  | none => none

/-- An access that R7 turns away: misaligned, or not of the width of the register it falls on. -/
def badAccess (off bytes : Nat) : Bool :=
  off % bytes != 0 || (bytes != 4 && bytes != 8) ||
  (match Reg.find off with
   | some (r, _, _) => r.bytes != bytes
   | none => (match Reg.find (off / 8 * 8) with | some (r, _, _) => r.bytes == 8 && bytes == 4 | none => false))

/-- The mailbox of a data area is BUSY: its data is out of reach (14_trust_attestation.md R323). -/
def State.areaBusy (s : State) (r : Reg) (i : Nat) : Bool :=
  (r == .HWD_MB_DATA && s.flag Fld.HWD_MB_CTRL_BUSY i) || (r == .CFG_MB_DATA && s.flag Fld.CFG_MB_CTRL_BUSY)

/-- The fields that a plain write of a register leaves as they are: those with a row of their own; APPLIED when it
would be set (R381); ADDR and SIZE_LOG2 of a ring (R445). -/
def keptFields (r : Reg) (v : Nat) : List Field :=
  rowFields ++ (if bits v 10 1 = 1 then [Fld.PWR_VID_APPLIED] else []) ++
  (if ringRegs.contains r then r.fields.filter (fun f => f.lo == 0 || f.lo == 48) else [])

/-- A write through a function: nothing where it has no right to the register or where a value is refused (R446). -/
def State.writeBy (s : State) (f : Fn) (r : Reg) (i j : Nat) (keep : List Field) (v : Nat) : State :=
  match s.right f r i j with
  | .full =>
    if s.areaBusy r i || !r.writeAdmits v then s
    else if r = .GLB_IDE_PSK then (if s.host.session then s else s.setReg r i j v)
    else s.setReg r i j (r.written keep (s.reg r i j) v)
  | .clear => s.setReg r i j (r.cleared (s.reg r i j) v)
  | _ => s

/-- A write whose field `own` is the row's own: the function has its full right, every value is admitted and the field
holds `v`'s bit; none otherwise. -/
def State.writeRow (s : State) (f : Fn) (r : Reg) (i j : Nat) (own : List Field) (v : Nat) : Option State :=
  if s.right f r i j = .full ∧ r.writeAdmits v then
    some (s.writeBy f r i j (rowFields.filter (fun x => !own.contains x)) v)
  else none

/-- The completion of a read. -/
def State.complete (s : State) (data : Nat) (poisoned : Bool) : State :=
  { s with host := { s.host with readData := data, readPoisoned := poisoned } }

/-- HEAD and TAIL of a ring register. -/
def ringIndices : Reg → List Reg
  | .EVR_RING => [.EVR_HEAD, .EVR_TAIL]
  | .EVR_STAND_RING => [.EVR_STAND_HEAD, .EVR_STAND_TAIL]
  | .SCH_SQ_BASE => [.SCH_SQ_HEAD, .SCH_SQ_TAIL]
  | .SCH_CQ_BASE => [.SCH_CQ_HEAD, .SCH_CQ_TAIL]
  | .SWY_CMD_RING => [.SWY_CMD_HEAD, .SWY_CMD_TAIL]
  | .SWY_EVT_RING => [.SWY_EVT_HEAD, .SWY_EVT_TAIL]
  | .SWYP_CMD_RING => [.SWYP_CMD_HEAD, .SWYP_CMD_TAIL]
  | .SWYP_EVT_RING => [.SWYP_EVT_HEAD, .SWYP_EVT_TAIL]
  | .TIER_CMD_RING => [.TIER_CMD_HEAD, .TIER_CMD_TAIL]
  | .KVM_CMD_RING => [.KVM_CMD_HEAD, .KVM_CMD_TAIL]
  | .FAB_CMD_RING => [.FAB_CMD_HEAD, .FAB_CMD_TAIL]
  | .SHP_SAMPLE_RING => [.SHP_SAMPLE_HEAD]
  | .ASR_CMD_RING => [.ASR_CMD_HEAD, .ASR_CMD_TAIL]
  | .FMM_CMD_RING => [.FMM_CMD_HEAD, .FMM_CMD_TAIL]
  | .QW_COPY_RING => [.QW_COPY_HEAD, .QW_COPY_TAIL]
  | _ => []

/-- A ring starts afresh: HEAD and TAIL are 0 and the next slot written has PHASE 1 (R445). -/
def State.restartRing (s : State) (r : Reg) (i j : Nat) : State :=
  let t := (ringIndices r).foldl (fun s x => s.setReg x i j 0) s
  let t := if r = .SHP_SAMPLE_RING then t.setFld Fld.SHP_SAMPLE_STATUS_TAIL i 0 0 else t
  let t := match r with
    | .FAB_CMD_RING => t.updStand i (fun st => { st with fabRun := {} })
    | .SWY_CMD_RING => t.updStand i (fun st => { st with swyRun := {} })
    | .FMM_CMD_RING => t.updStand i (fun st => { st with fmm := { st.fmm with run := {} } })
    | _ => t
  { t with laps := t.laps.del (r.addr i j) }

/-- What else a register write brings about: room in a completion queue takes entries that wait; without a sealing key the
canopy holds nothing (09_state_movement.md R211); a Sapway event ring that moved takes the events that wait (R450). -/
def State.settleWrite (s : State) (r : Reg) (i j : Nat) : State :=
  match r with
  | .SCH_CQ_HEAD => s.cqFlush i j
  | .SCH_CQ_BASE => s.cqFlush i j
  | .SWY_CONFIG => s.canopyCheck i
  | .SWY_EVT_RING => s.swyFlush i
  | .SWYP_EVT_RING => s.swyFlush 24
  | _ => s

/-- REGISTER_WRITE: function `f` writes `bytes` bytes at an offset. -/
def execRegisterWrite (f : Fn) (off bytes v : Nat) (s : State) : Host.Outcome State Fault Refusal :=
  .next (
    if badAccess off bytes then s
    else
      match regAt off bytes with
      | none => s
      | some (r, i, j) =>
        let s := if r = .SHP_CBS then s.portTick i else s
        ((s.writeBy f r i j (keptFields r v) v).afterWrite s r i j).settleWrite r i j)

/-- RC_REGISTER_READ: function `f` reads `bytes` bytes at an offset; the RC fields of the register it reads are cleared.
An access that R7 turns away reads all ones. -/
def execRcRegisterRead (f : Fn) (off bytes : Nat) (s : State) : Host.Outcome State Fault Refusal :=
  .next (
    if badAccess off bytes then s.complete (2 ^ (8 * bytes) - 1) false
    else
      match regAt off bytes with
      | none => s.complete 0 false
      | some (r, i, j) =>
        let v := if s.areaBusy r i then 0 else s.readBy f r i j
        let t := match s.right f r i j with
          | .none => s
          | .readZero => s
          | _ => s.clearRc r i j
        t.complete v false)

/-- RING_REGISTER_WRITE: function `f` writes a ring register whole; a new ADDR or SIZE_LOG2 restarts the ring (R445). -/
def execRingRegisterWrite (f : Fn) (off v : Nat) (s : State) : Host.Outcome State Fault Refusal :=
  .next (
    match regAt off 8 with
    | none => s
    | some (r, i, j) =>
      if !ringRegs.contains r then s
      else
        let t := s.writeBy f r i j rowFields v
        (if bits (t.reg r i j) 0 53 = bits (s.reg r i j) 0 53 then t else t.restartRing r i j).settleWrite r i j)

end Sys2Proof.Machine
end

