-- ==== Sys2Proof/Machine/Service.lean ====
section
/-! DEFINITION. Die links, periodic calibration and the return of units to service, with what the gate lists do for them
(01_organisation.md R10-R15; 17_startup_reset_test.md R375-R377; 19_faults_events.md R395, R399). -/

namespace Sys2Proof.Machine

open Sys2Proof

/-! Die links (Table 1.2) -/

/-- The dies that link `i` joins: 0-5 compute dies, 6 and 7 the hub dies. -/
def linkEnds (i : Nat) : Nat × Nat :=
  [(6, 0), (6, 3), (7, 2), (7, 5), (0, 1), (1, 2), (3, 4), (4, 5), (0, 3), (2, 5), (1, 4)].getD i (0, 0)

/-- Modules of a link. -/
def linkModules (i : Nat) : Nat := if i < 4 ∨ i = 10 then 8 else 4

/-- The hub die whose list governs a link (R375): the hub die that it ends on, or the home of its lower-numbered die. -/
def linkHub (i : Nat) : Nat := if i < 4 then (linkEnds i).1 - 6 else homeHub (linkEnds i).1

/-- The faulty halves of a module. -/
def State.moduleFaults (s : State) (link m : Nat) : Bool × Bool := (s.modules.get? (16 * link + m)).getD (false, false)

/-- A link has a working module. -/
def State.linkWorks (s : State) (i : Nat) : Bool :=
  (List.range (linkModules i)).any (fun m => let f := s.moduleFaults i m; !(f.1 && f.2))

/-- GLB_DLINK_STATUS of a trained link brought up to date. -/
def State.showLink (s : State) (i : Nat) : State :=
  let faults := (List.range (linkModules i)).map (s.moduleFaults i)
  let full := (faults.filter (fun f => !f.1 && !f.2)).length
  let half := (faults.filter (fun f => f.1 != f.2)).length
  let s := (s.setFld Fld.GLB_DLINK_STATUS_FULL 0 i full).setFld Fld.GLB_DLINK_STATUS_HALF 0 i half
  ((s.setFld Fld.GLB_DLINK_STATUS_TRAINED 0 i 1).setFld Fld.GLB_DLINK_STATUS_NARROWED 0 i
    (b01 (full < linkModules i ∧ 0 < full + half))).setFld Fld.GLB_DLINK_STATUS_DOWN 0 i (b01 (full + half = 0))

/-- Dies within `k` hops of the listed ones. -/
def State.reached (s : State) : Nat → List Nat → List Nat
  | 0, l => l
  | k + 1, l =>
    let near := (List.range 11).flatMap (fun i =>
      let e := linkEnds i
      if s.linkWorks i then (if l.contains e.1 then [e.2] else []) ++ (if l.contains e.2 then [e.1] else []) else [])
    s.reached k (distinct (l ++ near))

/-- A path is left from a hub die to a die. -/
def State.reachable (s : State) (hub die : Nat) : Bool := (s.reached 7 [6 + hub]).contains die

/-! Periodic calibration (R375-R377) -/

/-- The length in ns of a calibration: 0 fabric port, 1 HBM4, 2 die links, 3 DDR5 ZQ. -/
def calLength (kind : Nat) : Nat := [1000, 4000, 6000, 2000].getD kind 0

/-- The number of the list that governs a calibration: a port's, or 16 and 17 the hub lists. -/
def calList (kind unit : Nat) : Nat := if kind = 0 then unit else 16 + unit

/-- The running port list of `p` has a calibration entry of the needed length, or the hub list of `u` has. -/
def State.calFits (s : State) (kind u : Nat) : Bool :=
  if kind = 0 then
    s.gated u && (List.range (s.fld Fld.GCL_CTRL_OPER_LENGTH u)).any (fun i =>
      let e := s.reg .GCL_OPER_ENTRY u i
      bit e 8 && decide (calLength 0 ≤ bits e 32 32))
  else
    (List.range (s.fld Fld.GCL_HUB_CTRL_LENGTH u)).any (fun i =>
      let e := s.reg .GCL_HUB_ENTRY u i
      bits e 21 2 == 2 && decide (calLength kind ≤ bits e 32 32))

/-- The hub die whose list governs an HBM4 channel (R375): that of the compute die's home, or the stack's own. -/
def hbmHub (i : Nat) : Nat := if i / 32 < 12 then homeHub (i / 64) else (i / 32 - 12) / 2

/-- The memory channels under a calibration fail it, or pass: a channel that fails twice in a row leaves service (R395). -/
def State.calOutcome (s : State) (kind u : Nat) (failing : List Nat) : State :=
  let governed := fun i : Nat => if kind = 1 then decide (i < 512) && hbmHub i == u
    else decide (512 ≤ i) && decide (i < 528) && (i - 512) / 8 == u
  let bad := (distinct failing).filter governed
  let twice := bad.filter (s.calFailed.contains ·)
  let s := { s with calFailed := s.calFailed.filter (fun i => !governed i) ++ bad }
  let s := if kind = 1 then bad.foldl (fun s i => s.satFld Fld.HBM_STACK_CAL_FAILS (i / 32) 0 1) s else s
  twice.foldl (fun s i =>
    if i < 512 then (if s.hbmOut i then s else s.failHbm i)
    else if (s.fld Fld.EVR_DDR_OUT_OUT).testBit (i - 512) then s else s.failDdr (i - 512)) s

/-- A calibration that is due runs. -/
def State.runCal (s : State) (kind u : Nat) : State :=
  match s.calDue.get? (32 * kind + u) with
  | none => s
  | some d =>
    let s := { s with calDue := s.calDue.del (32 * kind + u) }
    if kind = 1 ∨ kind = 3 then s.calOutcome kind u d.failing else s

/-- The calibrations of hub die `h` that an entry of its list runs as it begins: in a CAL entry those that it holds whole,
in an OPEN entry those for which the list has no window. -/
def State.calEntry (s : State) (h : Nat) : State :=
  let e := s.reg .GCL_HUB_ENTRY h (s.fld Fld.GCL_HUB_CTRL_ENTRY h)
  [1, 2, 3].foldl (fun s k =>
    let now := (bits e 21 2 == 2 && decide (calLength k ≤ bits e 32 32)) || (bits e 21 2 == 0 && !s.calFits k h)
    if now then s.runCal k h else s) s

/-- A calibration entry of a port's list begins. -/
def State.calPort (s : State) (p : Nat) : State :=
  let e := s.reg .GCL_OPER_ENTRY p (s.port p).entry
  if bit e 8 ∧ calLength 0 ≤ bits e 32 32 then s.runCal 0 p else s

/-- CALIBRATION_DUE: calibration `kind` of port or hub die `u` falls due; `failing` are the channels that it will find
failing. One that has waited four intervals is reported once; a list without a fitting entry is reported once, and a port
under such a list is calibrated at once (R376, R377). -/
def execCalibrationDue (kind u : Nat) (failing : List Nat) (s : State) : Host.Outcome State Fault Refusal :=
  .next (
    if s.phase ≠ .running ∨ 3 < kind ∨ (if kind = 0 then 16 else 2) ≤ u then s
    else
      let key := 32 * kind + u
      let list := calList kind u
      let die := 6 + (if kind = 0 then u / 8 else u)
      let unit := [33, 36, 43, 35].getD kind 0
      let d : CalDue := match s.calDue.get? key with
        | some d => { d with waited := d.waited + 1, failing := d.failing ++ failing }
        | none => { failing := failing }
      let late := 4 ≤ d.waited && !d.reported
      let s := { s with calDue := s.calDue.set key { d with reported := d.reported || late } }
      let s := if late then s.event ⟨0x0508, none, die, unit, [kind, u]⟩ else s
      if s.calFits kind u then s
      else
        let s := if s.calMissing.contains list then s
          else ({ s with calMissing := list :: s.calMissing }).event ⟨0x0509, none, die, unit, [list]⟩
        if kind = 0 then s.runCal 0 u else s)

/-! Return to service (R399) -/

/-- The source die and unit of a returned unit. -/
def returnSource (kind idx : Nat) : Nat × Nat :=
  match kind with
  | 1 => (6 + linkHub (idx / 16), 43)
  | 2 => (6 + idx / 32, 37)
  | 3 => (6 + idx / 32, 34)
  | 4 => (if idx / 32 < 12 then idx / 64 else 6 + (idx / 32 - 12) / 2, 36)
  | 5 => (6 + idx / 8, 35)
  | _ => (6 + idx / 12, 38)

/-- The return in progress ends with a RESULT. -/
def State.returnEnd (s : State) (result : Nat) : State :=
  match s.recorder.returning with
  | none => s
  | some (kind, idx) =>
    let s := { s with recorder := { s.recorder with returning := none, returnPassed := false } }
    let s := ((s.setFld Fld.EVR_RETURN_CMD_BUSY 0 0 0).setFld Fld.EVR_RETURN_CMD_DONE 0 0 1).setFld
      Fld.EVR_RETURN_CMD_RESULT 0 0 result
    s.event ⟨0x0505, none, (returnSource kind idx).1, (returnSource kind idx).2, [kind, idx, result]⟩

/-- A returned unit in service again. -/
def State.bringBack (s : State) (kind idx : Nat) : State :=
  match kind with
  | 1 => ({ s with modules := s.modules.del idx }).showLink (idx / 16)
  | 2 => s.setFld Fld.EVR_STEWARD_OUT_OUT 0 0 (s.fld Fld.EVR_STEWARD_OUT_OUT &&& (2 ^ 64 - 1 - 2 ^ idx))
  | 3 =>
    let s := (s.setFld Fld.ASR_BANK_CFG_IN_SERVICE (idx / 32) (idx % 32) 1).setFld Fld.ASR_BANK_CFG_MODE (idx / 32) (idx % 32) 1
    s.countBank idx
  | 4 =>
    let old := s.fld Fld.EVR_HBM_OUT_OUT 0 (idx / 64)
    { s with calFailed := s.calFailed.filter (· != idx) }.setFld Fld.EVR_HBM_OUT_OUT 0 (idx / 64)
      (old &&& (2 ^ 64 - 1 - 2 ^ (idx % 64)))
  | 5 =>
    ({ s with calFailed := s.calFailed.filter (· != 512 + idx) }.setFld Fld.EVR_DDR_OUT_OUT 0 0
      (s.fld Fld.EVR_DDR_OUT_OUT &&& (2 ^ 16 - 1 - 2 ^ idx))).setFld Fld.DDR_CHAN_IN_SERVICE idx 0 1
  | 6 => { s with sequencersOut := s.sequencersOut &&& (2 ^ 24 - 1 - 2 ^ idx) }
  | _ => s

/-- The returned unit joins. -/
def State.joinUnit (s : State) : State :=
  match s.recorder.returning with
  | some (kind, idx) => (s.bringBack kind idx).returnEnd 0
  | none => s

/-- A unit that passed its checks waits for a moment of hub die `h`: `mapSet` for the next MAP_SET, which a bank of the
composition map waits for; otherwise the next cycle start of the hub list (Table 19.3). -/
def State.joinAt (s : State) (h : Nat) (mapSet : Bool) : State :=
  match s.recorder.returning with
  | some (kind, idx) =>
    let comp := kind == 3 && (s.tableOf idx).kind == kindComposition
    let hub := match kind with
      | 1 => linkHub (idx / 16)
      | 2 => idx / 32
      | 3 => idx / 32
      | 4 => hbmHub idx
      | _ => idx / 8
    if s.recorder.returnPassed ∧ hub = h ∧ comp = mapSet then s.joinUnit else s
  | none => s

/-- A unit that faults during its return checks stays out (Table 19.6). -/
def State.returnFault (s : State) (kind idx : Nat) : State :=
  if s.recorder.returning = some (kind, idx) then s.returnEnd 3 else s

/-- The unit is known and out of service. -/
def State.unitOut (s : State) (kind idx : Nat) : Bool :=
  match kind with
  | 1 => decide (idx / 16 < 11) && decide (idx % 16 < linkModules (idx / 16)) && (s.modules.get? idx).isSome
  | 2 => decide (idx < 64) && (s.fld Fld.EVR_STEWARD_OUT_OUT).testBit idx
  | 3 => decide (idx < 64) && s.bank Fld.ASR_BANK_CFG_IN_SERVICE idx == 0 && s.bank Fld.ASR_BANK_CFG_KIND idx != 0
  | 4 => decide (idx < 512) && s.hbmOut idx
  | 5 => decide (idx < 16) && (s.fld Fld.EVR_DDR_OUT_OUT).testBit idx
  | 6 => decide (idx < 24) && s.sequencersOut.testBit idx
  | _ => false

/-- RETURN_TO_SERVICE: function `f` writes `v` to EVR_RETURN_CMD; with GO the return checks of a unit start. -/
def execReturnToService (f : Fn) (v : Nat) (s : State) : Host.Outcome State Fault Refusal :=
  .next (
    match s.writeRow f .EVR_RETURN_CMD 0 0 [] v with
    | none => s
    | some t =>
      let kind := bits v 0 4
      let idx := bits v 4 12
      if !bit v 16 then t
      else if t.recorder.returning.isSome then t.setFld Fld.EVR_RETURN_CMD_RESULT 0 0 1
      else if !t.unitOut kind idx then
        (t.setFld Fld.EVR_RETURN_CMD_RESULT 0 0 2).setFld Fld.EVR_RETURN_CMD_DONE 0 0 1
      else
        { t with recorder := { t.recorder with returning := some (kind, idx), returnPassed := false } }.setFld
          Fld.EVR_RETURN_CMD_BUSY 0 0 1)

/-- RETURN_CHECK_DONE: the checks of the returning unit end. One that passed joins at its moment, a sequencer at once. -/
def execReturnCheckDone (ok : Bool) (s : State) : Host.Outcome State Fault Refusal :=
  .next (
    match s.recorder.returning with
    | none => s
    | some (kind, _) =>
      if s.recorder.returnPassed then s
      else if !ok then s.returnEnd 3
      else if kind = 6 then s.joinUnit
      else { s with recorder := { s.recorder with returnPassed := true } })

/-! Bank failure -/

/-- BANK_FAILURE: bank `b` leaves service and its entries go to the table's other banks. Freeze, drain, explicit priority
and the sort that follow one another here leave arbiter and mode as they were (13_associative_search.md R294). A bank in its return checks stays
out. -/
def execBankFailure (b : Nat) (s : State) : Host.Outcome State Fault Refusal :=
  .next (
    if s.recorder.returning = some (3, b) then s.returnEnd 3
    else if 64 ≤ b ∨ s.bank Fld.ASR_BANK_CFG_IN_SERVICE b ≠ 1 then s
    else
      let t := s.tableOf b
      let mine := s.bankEntries b
      let s := s.setFld Fld.ASR_BANK_CFG_IN_SERVICE (b / 32) (b % 32) 0
      let s := s.flagAsr Fld.ASR_ERROR_BANK_FAILED b 0
      let s := { s with search := s.search.filter (fun e => e.1 / 4096 != b) }.countBank b
      let s := s.event ⟨0x0503, none, 6 + b / 32, 34, [b]⟩
      let s := if t.kind = kindComposition ∨ t.kind = kindClassifier then
        s.sharedFault (List.range 24) (6 + b / 32) 34 3 b else s
      s.reload t b (mine.foldl (fun acc e => insertBy (fun x => 2 ^ 16 - x.2.priority) e acc) []))

end Sys2Proof.Machine
end

