-- ==== Sys2Proof/Machine/Shaping.lean ====
section
/-! DEFINITION. Network time, gate lists, queue sampling and arbiters (12_shaping_arbitration.md R269-R281;
10_fabric_transport.md R222). -/

namespace Sys2Proof.Machine

open Sys2Proof

/-! Transmission and pause -/

/-- FRAME_TRANSMIT: port `p` is free to start a frame (R269). -/
def execFrameTransmit (p : Nat) (s : State) : Host.Outcome State Fault Refusal :=
  .next (if p < 16 then s.transmit p else s)

/-- PRIORITY_FLOW_CONTROL_FRAME: for each class of `enable`, a pause of `quanta` times 512 bit times (R222). -/
def execPriorityFlowControlFrame (p enable : Nat) (quanta : List Nat) (s : State) :
    Host.Outcome State Fault Refusal :=
  .next (
    if p < 16 ∧ s.flag Fld.FAB_PORT_STATUS_LINK_UP p then
      let on := (bitsOf 8 enable).filter (fun c => (s.fld Fld.FAB_PORT_CTRL_PFC_CLASSES p).testBit c)
      (s.updPort p (fun q => { q with paused := on.foldl (fun (m : SMap Nat) c =>
        m.set c (s.timeNs + ceilDiv (quanta.getD c 0 % 2 ^ 16 * 512) (s.portRate p))) q.paused })).addFld
          Fld.FAB_PORT_RX_FRAMES_COUNT p 0 1
    else s)

/-! Network time (R271) -/

/-- Time states of SHP_TIME_STATUS. -/
def State.timeState (s : State) (h : Nat) : Nat := s.fld Fld.SHP_TIME_STATUS_STATE h

/-- Network time as hub die `h` holds it, in ns. -/
def State.networkTime (s : State) (h : Nat) : Int := (s.timeNs : Int) + (s.hub h).timeOffset

/-- The clock takes in one Sync: the master's time and its receipt by the device's own count. The offset is measured and
taken out of the copy; eight in a row within ±50 ns lock it. -/
def State.takeSync (s : State) (h : Nat) (origin received : Int) : State :=
  let u := s.hub h
  let off := received + u.timeOffset - origin - u.pathDelay
  let good := if -50 ≤ off ∧ off ≤ 50 then u.good + 1 else 0
  let s := (s.updHub h (fun u => { u with
    timeOffset := u.timeOffset - off, good := good, syncAt := none, lastSync := some (origin, received) })).setFld
      Fld.SHP_TIME_STATUS_OFFSET_NS h 0 (wrapInt 32 off)
  if good < 8 ∨ s.timeState h = 1 then s
  else
    let regained := s.timeState h == 0 && u.wasLocked
    let s := (s.setFld Fld.SHP_TIME_STATUS_STATE h 0 1).updHub h (fun u => { u with wasLocked := true })
    if regained then s.event ⟨0x0407, none, 6 + h, 37, [h]⟩ else s

/-- PTP_MESSAGE: hub die `h` receives an IEEE 1588 message on port `p`, in UDP when `udp`; it is taken in on TIME_PORT
under the configured transport. -/
def execPtpMessage (p : Nat) (udp : Bool) (m : PtpMessage) (s : State) : Host.Outcome State Fault Refusal :=
  .next (
    let h := p / 8
    if 16 ≤ p ∨ !s.flag Fld.FAB_PORT_STATUS_LINK_UP p then s
    else
      let s := s.addFld Fld.FAB_PORT_RX_FRAMES_COUNT p 0 1
      if s.fld Fld.SHP_TIME_CTRL_TIME_PORT h ≠ p % 8 ∨ s.flag Fld.SHP_TIME_CTRL_TRANSPORT h ≠ udp then s
      else
        match m with
        | .sync (some t) r => s.takeSync h t r
        | .sync none r => s.updHub h (fun u => { u with syncAt := some r })
        | .followUp t =>
          (match (s.hub h).syncAt with
           | some r => s.takeSync h t r
           | none => s)
        | .delayResp sent received =>
          (match (s.hub h).lastSync with
           | some (t1, t2) => s.updHub h (fun u => { u with pathDelay := ((t2 - t1) + (received - sent)) / 2 })
           | none => s))

/-- SYNC_LOSS_TIMEOUT: 1 s without a Sync while LOCKED. -/
def execSyncLossTimeout (h : Nat) (s : State) : Host.Outcome State Fault Refusal :=
  .next (
    if h < 2 ∧ s.timeState h = 1 then
      (s.setFld Fld.SHP_TIME_STATUS_STATE h 0 2).updHub h (fun u => { u with good := 0 })
    else s)

/-- HOLDOVER_EXPIRY: HOLDOVER has lasted HOLDOVER_S. Gate lists run on free, and TIME_LOST is recorded (R272). -/
def execHoldoverExpiry (h : Nat) (s : State) : Host.Outcome State Fault Refusal :=
  .next (
    if h < 2 ∧ s.timeState h = 2 then
      (s.setFld Fld.SHP_TIME_STATUS_STATE h 0 0).event ⟨0x0406, none, 6 + h, 37, [h]⟩
    else s)

/-! Port gate lists (R272-R274) -/

/-- The admin list of a port. -/
def State.adminList (s : State) (p : Nat) : GateList :=
  ⟨s.fld Fld.GCL_ADMIN_BASE_TIME_TIME_NS p, s.fld Fld.GCL_ADMIN_CYCLE_CYCLE_NS p,
   (List.range (s.fld Fld.GCL_CTRL_ADMIN_LENGTH p)).map (fun i => s.reg .GCL_ADMIN_ENTRY p i)⟩

/-- The checks of R273 on a list for port `p`. -/
def State.gateListOk (s : State) (p : Nat) (l : GateList) : Bool :=
  decide (1 ≤ l.entries.length ∧ l.entries.length ≤ 512 ∧ 1000 ≤ l.cycle ∧ l.cycle ≤ 1000000000) &&
  l.entries.all (fun e =>
    let g := bits e 0 8
    decide (32 ≤ bits e 32 32) && !(e.testBit 8 && g != 0) &&
    (List.range 8).all (fun c => !((s.classOwner p c).isSome && g.testBit c) || g == 2 ^ c))

/-- A list put into the operational registers of a port. -/
def State.operate (s : State) (p : Nat) (l : GateList) : State :=
  let s := l.entries.zipIdx.foldl (fun s e => s.setReg .GCL_OPER_ENTRY p e.2 e.1) s
  ((((s.setFld Fld.GCL_CTRL_OPER_LENGTH p 0 l.entries.length).setFld Fld.GCL_OPER_CYCLE_CYCLE_NS p 0 l.cycle).setFld
    Fld.GCL_OPER_BASE_TIME_TIME_NS p 0 l.base).setFld Fld.GCL_CTRL_PENDING p 0 0).updPort p
      (fun q => { q with pending := none })

/-- GCL_CONFIG_CHANGE: function `f` writes CONFIG_CHANGE of port `p` in the value `v` of GCL_CTRL (R273). -/
def execGclConfigChange (f : Fn) (p v : Nat) (s : State) : Host.Outcome State Fault Refusal :=
  .next (
    if 16 ≤ p ∨ !bit v 1 then s
    else
      match s.writeRow f .GCL_CTRL p 0 [] v with
      | none => s
      | some t =>
        let t := t.afterWrite s .GCL_CTRL p 0
        let l := t.adminList p
        if t.gateListOk p l then
          (t.updPort p (fun q => { q with pending := some l })).setFld Fld.GCL_CTRL_PENDING p 0 1
        else t.setFld Fld.GCL_CTRL_CONFIG_ERROR p 0 1)

/-- GATE_CYCLE_START: a cycle of port `p`'s gate list starts at entry 0, and a pending list takes over. The list itself
starts when its ENABLE is 1 and network time is LOCKED. -/
def execGateCycleStart (p : Nat) (s : State) : Host.Outcome State Fault Refusal :=
  .next (
    if p < 16 ∧ s.flag Fld.GCL_CTRL_ENABLE p ∧ ((s.port p).running ∨ s.timeState (p / 8) = 1) then
      let s := s.portTick p
      let s := match (s.port p).pending with
        | some l => s.operate p l
        | none => s
      (s.updPort p (fun q => { q with running := true, cycleStart := s.timeNs, entry := 0 })).calPort p
    else s)

/-- GATE_ENTRY_EXPIRY: the running entry of port `p` ends; the last one holds until the cycle ends. -/
def execGateEntryExpiry (p : Nat) (s : State) : Host.Outcome State Fault Refusal :=
  .next (
    if p < 16 ∧ s.gated p ∧ (s.port p).entry + 1 < s.fld Fld.GCL_CTRL_OPER_LENGTH p then
      ((s.portTick p).updPort p (fun q => { q with entry := q.entry + 1 })).calPort p
    else s)

/-! Hub gate lists (R275, R276) -/

/-- A hub gate list put in force at entry 0. -/
def State.installHubList (s : State) (h : Nat) (l : List Nat) : State :=
  let s := l.zipIdx.foldl (fun s e => s.setReg .GCL_HUB_ENTRY h e.2 e.1) s
  ((s.setReg .GCL_HUB_CTRL h 0
    (l.length + ((l.map (fun e => bits e 32 32)).foldl (· + ·) 0) % 2 ^ 32 * 2 ^ 32)).updHub h
      (fun u => { u with entryFrom := s.timeNs, nextList := none }))

/-- Class reservations that wait for the cycle start take effect on the ports of hub die `h`. -/
def State.takeOwners (s : State) (h : Nat) : State :=
  match (s.hub h).nextOwners with
  | some w =>
    ((List.range 8).foldl (fun s p => s.setReg .SHP_CLASS_OWNER (8 * h + p) 0 w) s).updHub h
      (fun u => { u with nextOwners := none })
  | none => s

/-- The hub die of an arbiter, or of the compute die that it serves (Table 12.2, R10). -/
def arbHub (n : Nat) : Nat :=
  if n = 1 ∨ n = 12 ∨ n = 20 ∨ (6 ≤ n ∧ n ≤ 9) ∨ 29 ≤ n then 1
  else if 13 ≤ n ∧ n ≤ 18 then homeHub (n - 13)
  else 0

/-- The arbiter is gated. -/
def arbGated (n : Nat) : Bool := n ≤ 2 || (10 ≤ n && n ≤ 20)

/-- The longest transaction of an arbiter in ns (Table 12.2). -/
def arbLongest (n : Nat) : Nat :=
  if n ≤ 1 then 500 else if n ≤ 9 then 100 else if n ≤ 12 then 1000 else if n ≤ 20 then 100 else 200

/-- HUB_ENTRY_EXPIRY: the running entry of hub die `h`'s list ends. At a cycle start a waiting list takes over,
requesters whose mask fell become eligible and a returned unit joins (R275, R279; 19_faults_events.md R399). The new entry
runs calibrations that are due. -/
def execHubEntryExpiry (h : Nat) (s : State) : Host.Outcome State Fault Refusal :=
  .next (
    let len := s.fld Fld.GCL_HUB_CTRL_LENGTH h
    if 2 ≤ h ∨ len = 0 then s
    else
      let e := s.fld Fld.GCL_HUB_CTRL_ENTRY h + 1
      if e < len then
        ((s.setFld Fld.GCL_HUB_CTRL_ENTRY h 0 e).updHub h (fun u => { u with entryFrom := s.timeNs })).calEntry h
      else
        let s := s.takeOwners h
        let s := match (s.hub h).nextList with
          | some l => s.installHubList h l
          | none => (s.setFld Fld.GCL_HUB_CTRL_ENTRY h 0 0).updHub h (fun u => { u with entryFrom := s.timeNs })
        let s := { s with arbs := s.arbs.map (fun (a : Nat × Arb) =>
          if arbHub a.1 = h then (a.1, { a.2 with unmasked := 0 }) else a) }
        (s.joinAt h false).calEntry h)

/-! Arbiters (R278-R280) -/

/-- Arbiter `n`. -/
def State.arb (s : State) (n : Nat) : Arb := (s.arbs.get? n).getD {}

/-- Arbiter `n` changed by `f`. -/
def State.updArb (s : State) (n : Nat) (f : Arb → Arb) : State := { s with arbs := s.arbs.set n (f (s.arb n)) }

/-- A requester is eligible on an arbiter now (R276). A hub die without a list gates nothing. -/
def State.requesterEligible (s : State) (n r : Nat) : Bool :=
  let h := arbHub n
  if !arbGated n || s.fld Fld.GCL_HUB_CTRL_LENGTH h == 0 then true
  else
    let e := s.fld Fld.GCL_HUB_CTRL_ENTRY h
    let fits := s.timeNs + arbLongest n ≤ (s.hub h).entryFrom + s.fld Fld.GCL_HUB_ENTRY_DURATION_NS h e
    decide fits &&
    (match s.fld Fld.GCL_HUB_ENTRY_KIND h e with
     | 0 => decide (24 ≤ r) || !s.sealedStand r
     | 1 => r == s.fld Fld.GCL_HUB_ENTRY_STAND h e
     | _ => r == 26)

/-- The grant of arbiter `n` ends; a frozen arbiter is then drained. -/
def State.endGrant (s : State) (n : Nat) : State :=
  let s := (s.updArb n (fun a => { a with last := some (s.fld Fld.ARB_STATUS_OWNER n) })).setFld
    Fld.ARB_STATUS_GRANTED n 0 0
  if s.flag Fld.ARB_STATUS_FROZEN n then s.setFld Fld.ARB_STATUS_DRAINED n 0 1 else s

/-- The next grant: the first raised, unmasked and eligible requester after the last owner, with wrap-around. -/
def State.nextGrant (s : State) (n raised : Nat) : Option Nat :=
  let a := s.arb n
  let from_ := match a.last with
    | some k => k + 1
    | none => 0
  ((List.range 32).map (fun i => (from_ + i) % 32)).find? (fun r =>
    raised.testBit r && !a.masked.testBit r && !a.unmasked.testBit r && s.requesterEligible n r)

/-- ARBITER_GRANT: the requesters of `raised` request arbiter `n`; an owner that is not among them has dropped its
request, and its grant ends (R278). -/
def execArbiterGrant (n raised : Nat) (s : State) : Host.Outcome State Fault Refusal :=
  .next (
    if 37 ≤ n then s
    else
      let held := s.flag Fld.ARB_STATUS_GRANTED n
      if held && raised.testBit (s.fld Fld.ARB_STATUS_OWNER n) then s
      else
        let s := if held then s.endGrant n else s
        if s.flag Fld.ARB_STATUS_FROZEN n then s
        else
          match s.nextGrant n raised with
          | some r => (s.setFld Fld.ARB_STATUS_OWNER n 0 r).setFld Fld.ARB_STATUS_GRANTED n 0 1
          | none => s)

/-- BURST_LIMIT_EXPIRY: the limit of arbiter `n`'s grant has passed and the owner is at a transaction boundary. -/
def execBurstLimitExpiry (n : Nat) (s : State) : Host.Outcome State Fault Refusal :=
  .next (
    if n < 37 ∧ s.flag Fld.ARB_STATUS_GRANTED n ∧ s.fld Fld.ARB_CTRL_BURST_LIMIT n ≠ 0 then s.endGrant n else s)

/-- REQUESTER_MASK_RISE: requester `r` of arbiter `n` is masked; its grant ends and its transactions complete ABORTED to
its own reset domain, which discards them (R279). -/
def execRequesterMaskRise (n r : Nat) (s : State) : Host.Outcome State Fault Refusal :=
  .next (
    if 37 ≤ n ∨ 32 ≤ r then s
    else
      let s := s.updArb n (fun a => { a with masked := a.masked ||| 2 ^ r })
      if s.flag Fld.ARB_STATUS_GRANTED n ∧ s.fld Fld.ARB_STATUS_OWNER n = r then s.endGrant n else s)

/-- A requester's mask falls: it is eligible from the next hub cycle start (R279). -/
def State.unmask (s : State) (n r : Nat) : State :=
  s.updArb n (fun a => { a with masked := a.masked &&& (2 ^ 32 - 1 - 2 ^ r), unmasked := a.unmasked ||| 2 ^ r })

/-- FREEZE: function `f` writes ARB_CTRL of arbiter `n` with FREEZE 1 (R280). -/
def execFreeze (f : Fn) (n v : Nat) (s : State) : Host.Outcome State Fault Refusal :=
  .next (
    if 37 ≤ n ∨ !bit v 0 then s
    else
      match s.writeRow f .ARB_CTRL n 0 [Fld.ARB_CTRL_FREEZE] v with
      | none => s
      | some t =>
        let t := t.setFld Fld.ARB_STATUS_FROZEN n 0 1
        if t.flag Fld.ARB_STATUS_GRANTED n then t else t.setFld Fld.ARB_STATUS_DRAINED n 0 1)

/-- FREEZE_CLEAR: function `f` writes ARB_CTRL of arbiter `n` with FREEZE 0. -/
def execFreezeClear (f : Fn) (n v : Nat) (s : State) : Host.Outcome State Fault Refusal :=
  .next (
    if 37 ≤ n ∨ bit v 0 then s
    else
      match s.writeRow f .ARB_CTRL n 0 [Fld.ARB_CTRL_FREEZE] v with
      | none => s
      | some t => (t.setFld Fld.ARB_STATUS_FROZEN n 0 0).setFld Fld.ARB_STATUS_DRAINED n 0 0)

/-- DRAIN_TIMEOUT: DRAIN_TIMEOUT_US after the write of FREEZE arbiter `n` is not drained: the grant is withdrawn and the
owner's `incomplete` transactions complete ABORTED (R280). -/
def execDrainTimeout (n incomplete : Nat) (s : State) : Host.Outcome State Fault Refusal :=
  .next (
    if n < 37 ∧ s.flag Fld.ARB_STATUS_FROZEN n ∧ !s.flag Fld.ARB_STATUS_DRAINED n then
      ((s.endGrant n).setFld Fld.ARB_STATUS_DRAINED n 0 1).addFld Fld.ARB_ABORTED_COUNT n 0 incomplete
    else s)

/-! Queue sampling (R277) -/

/-- A sample record of class `c` of port `i` of hub die `h`. -/
def State.sampleRecord (s : State) (h i c ph : Nat) : List Byte :=
  let p := 8 * h + i
  let q := s.port p
  let l := q.queue c
  let net := s.timeState h != 0
  let soj := match l with
    | x :: _ => s.timeNs - x.since
    | [] => 0
  let depth := (l.map (fun x => frameBytes x.frame)).foldl (· + ·) 0
  let credit := if s.flag Fld.SHP_CBS_ENABLE p c then (q.credits.get? c).getD 0 / 1000 else 0
  toBytes 8 (if net then wrapInt 64 (s.networkTime h) else s.timeNs) ++
  toBytes 8 (i + c * 2 ^ 3 + b01 ((s.gates p).testBit c) * 2 ^ 6 + b01 net * 2 ^ 7 + ph * 2 ^ 8 +
    min l.length 0xFFFF * 2 ^ 16 + min depth (2 ^ 32 - 1) * 2 ^ 32) ++
  toBytes 8 (min soj (2 ^ 32 - 1) + min (max soj ((q.sojourn.get? c).getD 0)) (2 ^ 32 - 1) * 2 ^ 32) ++
  toBytes 8 (wrapInt 32 credit)

/-- One record written to the operator's ring, words 1 to 3 before word 0, or counted as dropped. -/
def State.putSample (s : State) (h i c : Nat) : State :=
  let size := 2 ^ s.fld Fld.SHP_SAMPLE_RING_SIZE_LOG2 h
  let t := s.fld Fld.SHP_SAMPLE_STATUS_TAIL h % size
  let next := (t + 1) % size
  let ring := Reg.SHP_SAMPLE_RING.addr h 0
  if next = s.fld Fld.SHP_SAMPLE_HEAD_INDEX h % size ∨ !s.hostReach .pf then
    s.satFld Fld.SHP_SAMPLE_STATUS_DROPPED h 0 1
  else
    let r := s.sampleRecord h i c (s.ringPhase ring)
    let a := s.fld Fld.SHP_SAMPLE_RING_ADDR h + 32 * t
    let s := ((s.hostWrite .pf (a + 8) (r.drop 8)).hostWrite .pf a (r.take 8)).setFld Fld.SHP_SAMPLE_STATUS_TAIL h 0 next
    if next = 0 then s.wrapRing ring else s

/-- QUEUE_SAMPLE: PERIOD_US has passed on hub die `h`. -/
def execQueueSample (h : Nat) (s : State) : Host.Outcome State Fault Refusal :=
  .next (
    if 2 ≤ h ∨ !s.flag Fld.SHP_SAMPLE_RING_ENABLE h then s
    else
      let mask := s.reg .SHP_SAMPLE_MASK_LO h 0 + s.fld Fld.SHP_SAMPLE_CTRL_QUEUE_MASK h * 2 ^ 32
      (bitsOf 64 mask).foldl (fun s k =>
        let p := 8 * h + k / 8
        let s := s.portTick p
        (s.putSample h (k / 8) (k % 8)).updPort p (fun q => { q with sojourn := q.sojourn.del (k % 8) })) s)

end Sys2Proof.Machine
end

