-- ==== Sys2Proof/Machine/FabOps.lean ====
section
/-! DEFINITION. The transport: packets, transmission, acknowledgement, failure of a connection, and regions
(10_fabric_transport.md R223-R244). -/

namespace Sys2Proof.Machine

open Sys2Proof

/-- An open value drawn, with the state that has drawn it (log 6). -/
def State.draw (s : State) : Word × State := (Config.freeWord s.freeCtr, { s with freeCtr := s.freeCtr + 1 })

/-! Connections -/

/-- The connection at a key, 65,536 × hub die + number. -/
def State.conn (s : State) (k : Nat) : Option Conn := s.conns.get? k

/-- A connection changed. -/
def State.updConn (s : State) (k : Nat) (f : Conn → Conn) : State :=
  match s.conns.get? k with
  | some c => { s with conns := s.conns.set k (f c) }
  | none => s

/-- Fabric commands of Table 10.5's ring. -/
def fabOps : List Nat := [1, 2, 3, 4, 5]

/-- FAB_ERROR with its context (R246). -/
def State.flagFab (s : State) (f : Field) (n k op psn : Nat) : State :=
  s.flagError f n (fun s => s.setReg .FAB_ERROR_INFO n 0 (k % 2 ^ 17 + op * 2 ^ 24 + psn % 2 ^ 32 * 2 ^ 32))

/-- The largest payload of a connection (R224). -/
def Conn.limit (c : Conn) : Nat := if c.jumbo then 8192 else 4096

/-! Packets (R225, R241) -/

/-- The 40 B header of a packet (Table 10.3), in network byte order. -/
structure Header where
  version : Nat := 1
  type : Nat
  attempt : Nat := 0
  dstConn : Nat
  dstInc : Nat
  srcConn : Nat
  srcInc : Nat
  keyId : Nat
  psn : Nat
  /-- Bytes 16 to 23, 24 to 25 and 26 to 31. -/
  region : Nat := 0
  gen : Nat := 0
  offset : Nat := 0
  len : Nat := 0
  status : Nat := 0
  request : Nat := 0
  /-- Every reserved bit is 0. -/
  clean : Bool := true
  deriving DecidableEq, Repr

/-- The bytes of a header. -/
def Header.bytes (h : Header) : List Byte :=
  toBytesBE 1 (h.version * 16 + h.type) ++ toBytesBE 1 (h.attempt * 16) ++ toBytesBE 2 h.dstConn ++
  toBytesBE 2 h.dstInc ++ toBytesBE 2 h.srcConn ++ toBytesBE 2 h.srcInc ++ toBytesBE 2 h.keyId ++
  toBytesBE 4 (h.psn % 2 ^ 32) ++ toBytesBE 8 h.region ++ toBytesBE 2 h.gen ++ toBytesBE 6 (h.offset % 2 ^ 48) ++
  toBytesBE 2 h.len ++ toBytesBE 1 h.status ++ [0] ++ toBytesBE 4 h.request

/-- The header of a packet. -/
def Header.parse (b : List Byte) : Header :=
  { version := be b 0 1 / 16, type := be b 0 1 % 16, attempt := be b 1 1 / 16, dstConn := be b 2 2,
    dstInc := be b 4 2 % 2 ^ 11, srcConn := be b 6 2, srcInc := be b 8 2 % 2 ^ 11, keyId := be b 10 2, psn := be b 12 4,
    region := be b 16 8, gen := be b 24 2, offset := be b 26 6, len := be b 32 2, status := be b 34 1,
    request := be b 36 4,
    clean := be b 1 1 % 16 == 0 && be b 4 2 / 2 ^ 11 == 0 && be b 8 2 / 2 ^ 11 == 0 && be b 35 1 == 0 }

/-- The fields that a type does not use are 0 (R225). -/
def Header.unusedZero (h : Header) : Bool :=
  let reg := h.region == 0
  let gen := h.gen == 0
  let off := h.offset == 0
  let st := h.status == 0
  let rq := h.request == 0
  match h.type with
  | 1 => st && rq
  | 2 => st && h.len == 0
  | 3 => h.region % 2 ^ 32 == 0 && gen && rq
  | 4 => h.attempt == 0 && reg && gen && st && rq
  | 5 => off && st && rq
  | 6 => h.region % 2 ^ 32 == 0 && gen && off && st && rq
  | _ => true

/-- The 96-bit IV of a packet (R241). -/
def packetIv (sender srcConn : Nat) (ack : Bool) (srcInc attempt seq : Nat) : List Byte :=
  toBytesBE 12 (sender * 2 ^ 80 + srcConn * 2 ^ 64 + b01 ack * 2 ^ 63 + srcInc * 2 ^ 52 + attempt * 2 ^ 48 + seq % 2 ^ 48)

/-- An ASCII string as bytes. -/
def ascii (x : String) : List Byte := x.toList.map (fun c => BitVec.ofNat 8 c.toNat)

/-- The traffic key of a job key (R241). -/
def trafficKey (key : List Byte) : List Byte := hkdf key [] (ascii "ramuha packet")

/-- The sender identifier of the package's hub die `d` under a job key of stand `n`. -/
def State.senderId (s : State) (n keyId d : Nat) : Nat :=
  match (s.stand n).jobKeys.get? keyId with
  | some j => if d = 0 then j.senders.1 else j.senders.2
  | none => 0

/-! Transmission (R223, R229) -/

/-- The ports of a connection in rising order. -/
def connPorts (k : Nat) (c : Conn) : List Nat := (bitsOf 8 c.ports).map (8 * (k / 65536) + ·)

/-- The port of the `n`-th transmission: the `n`-th of the rotation, ports whose link is down skipped. -/
def State.rotate (s : State) (k : Nat) (c : Conn) : Option Nat :=
  let l := connPorts k c
  ((List.range l.length).map (fun i => l.getD ((c.sent + i) % l.length) 0)).find?
    (fun p => s.flag Fld.FAB_PORT_STATUS_LINK_UP p)

/-- The 128-bit IPv6 address of a port. -/
def State.portIp (s : State) (p : Nat) : Nat :=
  s.fld Fld.FAB_PORT_IPV6_HI_ADDR p * 2 ^ 64 + s.fld Fld.FAB_PORT_IPV6_LO_ADDR p

/-- The frame that carries a packet of a connection out of a port to a peer entry (R223). -/
def State.frame (s : State) (k p : Nat) (c : Conn) (peer : Peer) (seq attempt : Nat) (packet : List Byte) : FabFrame :=
  let h := k / 65536
  let cls := s.egressClass p c.stand c.tclass
  let tag := if peer.tagged then (s.fld Fld.FAB_CLASS_MAP_PCP h cls, peer.vid) else (0, 0)
  let port := 0xC000 + (k % 65536 + seq + attempt) % 16384
  { dst := peer.mac, src := s.fld Fld.FAB_PORT_MAC_ADDR p % 2 ^ 48, tags := b01 peer.tagged, tag := tag,
    etherType := if c.udp then 0x86DD else s.fld Fld.FAB_ENCAP_ETHERTYPE h,
    udp := if c.udp then some { src := s.portIp p, dst := peer.ip, dscp := s.fld Fld.FAB_CLASS_MAP_DSCP h cls,
                                flow := port, srcPort := port, dstPort := s.fld Fld.FAB_ENCAP_UDP_PORT h } else none,
    packet := packet }

/-- A packet of a connection sealed and put in the queue of the port whose turn it is, its payload counted in FABRIC_BYTES
(08_serving_scheduler.md Table 8.10); the port, where one is up. -/
def State.sendPacket (s : State) (k : Nat) (c : Conn) (h : Header) (seq : Nat) (text : List Byte) :
    State × Option Nat :=
  match s.rotate k c, s.jobKey c.stand c.keyId with
  | some p, some key =>
    let hd := { h with len := text.length }.bytes
    let iv := packetIv (s.senderId c.stand c.keyId (k / 65536)) (k % 65536) (h.type == 4) c.inc h.attempt seq
    let peer := c.peers.getD (c.sent % c.peers.length) ⟨0, 0, false, 0⟩
    let f := s.frame k p c peer seq h.attempt (hd ++ gcmSeal (trafficKey key) iv hd text)
    (((s.addFld Fld.SCH_ACCT_COUNT c.stand 5 text.length).enqueue p (s.egressClass p c.stand c.tclass) (k / 65536) (k % 65536) f).updConn k
      (fun c => { c with sent := c.sent + 1 }), some p)
  | _, _ => (s, none)

/-- The part of a header that every packet of a connection shares. -/
def Conn.header (c : Conn) (k type psn attempt : Nat) : Header :=
  { type := type, attempt := attempt, dstConn := c.peerConn, dstInc := c.peerInc, srcConn := k % 65536, srcInc := c.inc,
    keyId := c.keyId, psn := psn }

/-- An operation entry of a MEM_REQ, in network byte order, and the data of a 64 B STORE (11_fabric_memory.md R251). -/
def MemOp.entry (o : MemOp) : List Byte :=
  toBytesBE 8 (o.opc + o.size * 2 ^ 4 + o.aop * 2 ^ 8 + o.off % 2 ^ 48 * 2 ^ 16) ++ toBytesBE 8 (o.operand % 2 ^ 64) ++
  toBytesBE 8 (o.compare % 2 ^ 64) ++ zeros 8 ++ (if o.opc = 1 ∧ o.size = 2 then o.data else [])

/-- Header and text of a sequenced packet, its sources read now (R236); none where a write's source cannot be read. -/
def State.packetOf (s : State) (k : Nat) (c : Conn) (o : OutPacket) : Option (Header × List Byte) :=
  let h := fun t => c.header k t o.psn o.attempt
  match o.op with
  | .write key gen off src _ =>
    (match (match src with | .bytes bs => Got.ok bs | .stand a len => s.peek c.stand a len) with
     | .ok bs => some ({ h 1 with region := key, gen := gen, offset := off }, bs)
     | _ => none)
  | .readReq key gen off len _ _ => some ({ h 2 with region := key, gen := gen, offset := off, request := len }, [])
  | .readResp req off r roff len =>
    let base := match s.regions.get? r with
      | some x => x.base
      | none => 0
    (match s.peek c.stand (base + roff) len with
     | .ok bs => some ({ h 3 with region := req % 2 ^ 32 * 2 ^ 32, offset := off }, bs)
     | _ => some ({ h 3 with region := req % 2 ^ 32 * 2 ^ 32, offset := off, status := 4 }, []))
  | .memReq key gen ops => some ({ h 5 with region := key, gen := gen }, ops.flatMap MemOp.entry)
  | .memResp req body => some ({ h 6 with region := req % 2 ^ 32 * 2 ^ 32 }, body)

/-- One transmission of a sequenced packet; its record keeps the port that it left on. -/
def State.transmitOut (s : State) (k : Nat) (o : OutPacket) : State :=
  match s.conn k with
  | none => s
  | some c =>
    match s.packetOf k c o with
    | none => s
    | some (h, text) =>
      let (s, p) := s.sendPacket k c h o.psn text
      s.updConn k (fun c => { c with out := c.out.map (fun x => if x.psn = o.psn then { o with port := p } else x) })

/-! Outcomes (R231, R244) -/

/-- Outcomes handed to their issuers. -/
def State.outcomes (s : State) (l : List FabDone) : State := { s with fabDone := s.fabDone ++ l }

/-- What the issuers of an operation are told when it ends with a status and no answer. -/
def FabOp.failed (status : Nat) : FabOp → List FabDone
  | .write _ _ _ _ b => [.rma b status]
  | .readReq _ _ _ _ _ b => [.rma b status]
  | .memReq _ _ ops => ops.map (fun o => .mem o status 0 [])
  | _ => []

/-- An operation handed to a connection: it waits for its PSN, or completes at once where the connection cannot carry
it (Table 10.6; 11_fabric_memory.md R249). -/
def State.fabIssue (s : State) (k : Nat) (op : FabOp) : State :=
  match s.conn k with
  | some c =>
    (match c.state with
     | .open_ => s.updConn k (fun c => { c with waiting := c.waiting ++ [op] })
     | .closing => s.outcomes (op.failed 9)
     | _ => s.outcomes (op.failed 8))
  | none => s.outcomes (op.failed 8)

/-- The lowest PSN sent whose outcome has not arrived (R230). -/
def Conn.u (c : Conn) : Nat := (c.out.map (·.psn)).foldl min c.nextPsn

/-- The first waiting operation gets the next PSN and is sent, if the window has room (R230). A direction whose PSN
would reach 2⁴⁸ fails with REKEY_NEEDED (R243). -/
def State.sendNext (s : State) (k : Nat) : State :=
  match s.conn k with
  | none => s
  | some c =>
    match c.waiting with
    | [] => s
    | op :: rest =>
      if c.state ≠ .open_ ∨ c.u + c.window ≤ c.nextPsn then s
      else if 2 ^ 48 ≤ c.nextPsn then
        ((s.updConn k (fun c => { c with waiting := rest })).flagFab Fld.FAB_ERROR_REKEY_NEEDED c.stand k 0
          c.nextPsn).outcomes (op.failed 0x16)
      else
        let o : OutPacket := { psn := c.nextPsn, op := op }
        let s := s.updConn k (fun c => { c with
          waiting := rest, nextPsn := c.nextPsn + 1, out := c.out ++ [o],
          timer := some (c.timer.getD c.rto),
          reads := match op with
            | .readReq _ _ _ len dest b => c.reads ++ [{ psn := o.psn, len := len, dest := dest, by_ := b }]
            | _ => c.reads,
          asked := match op with
            | .memReq _ _ ops => if ops.all (·.opc == 1) then c.asked else c.asked.set o.psn ops
            | _ => c.asked })
        (s.transmitOut k o).addFld Fld.FAB_PACKETS_SENT_COUNT c.stand 0 1

/-- The connection number becomes FREE and keeps its incarnation (Table 10.6, R243). -/
def State.freeConn (s : State) (k : Nat) : State :=
  match s.conn k with
  | none => s
  | some c =>
    let s := { s with conns := s.conns.del k }.dropQueued (k / 65536) (k % 65536)
    let s := s.outcomes (c.reads.map (fun r => .rma r.by_ 9) ++
      c.asked.flatMap (fun a => (a.2.filter (·.opc != 1)).map (fun o => .mem o 9 0 [])))
    match c.closer with
    | some i => s.runDone .fab c.stand i 0
    | none => s

/-- A connection enters FAILED: every operation on it completes RETRY_EXCEEDED (R228, R232). -/
def State.failConn (s : State) (k psn : Nat) : State :=
  match s.conn k with
  | none => s
  | some c =>
    let d := c.out.flatMap (fun o => match o.op with
        | .write _ _ _ _ b => [FabDone.rma b 8]
        | .memReq _ _ ops => (ops.filter (·.opc == 1)).map (fun o => FabDone.mem o 8 0 [])
        | _ => []) ++
      c.waiting.flatMap (FabOp.failed 8) ++ c.reads.map (fun r => .rma r.by_ 8) ++
      c.asked.flatMap (fun a => (a.2.filter (·.opc != 1)).map (fun o => .mem o 8 0 [])) ++
      [.connFailed (k / 65536) (k % 65536)]
    let s := (s.updConn k (fun c => { c with
      state := .failed, out := [], waiting := [], reads := [], asked := [], timer := none, owed := [] })).dropQueued
        (k / 65536) (k % 65536)
    let s := (s.addFld Fld.FAB_CONN_FAILED_COUNT c.stand 0 1).flagFab Fld.FAB_ERROR_RETRY_EXCEEDED c.stand k 0 psn
    (s.outcomes d).event ⟨0x0403, some c.stand, 6 + k / 65536, 33, [k % 65536, k / 65536, psn]⟩

/-- The listed outstanding packets are sent again, each with its next ATTEMPT; one that has reached the limit fails the
connection (R232, R233). -/
def State.retransmit (s : State) (k : Nat) : List Nat → State
  | [] => s
  | p :: ps =>
    match s.conn k with
    | none => s
    | some c =>
      match c.out.find? (·.psn == p) with
      | none => s.retransmit k ps
      | some o =>
        if c.retry ≤ o.attempt then s.failConn k p
        else ((s.transmitOut k { o with attempt := o.attempt + 1 }).addFld Fld.FAB_RETRANSMITS_COUNT c.stand 0 1).retransmit
          k ps

/-! Acknowledgement (R231) -/

/-- Entries of an ACK: runs of PSNs with one status. -/
def ackRuns : List (Nat × Nat) → List (Nat × Nat × Nat)
  | [] => []
  | (p, st) :: rest =>
    match ackRuns rest with
    | (q, n, st') :: t => if q = p + 1 ∧ st' = st ∧ n < 1024 then (p, n + 1, st) :: t else (p, 1, st) :: (q, n, st') :: t
    | [] => [(p, 1, st)]

/-- One ACK with up to 64 entries. -/
def State.sendOneAck (s : State) (k : Nat) (l : List (Nat × Nat × Nat)) : State :=
  match s.conn k with
  | none => s
  | some c =>
    let text := toBytesBE 2 l.length ++ zeros 6 ++
      l.flatMap (fun e => toBytesBE 4 (e.1 % 2 ^ 32) ++ toBytesBE 2 e.2.1 ++ toBytesBE 1 e.2.2 ++ [0])
    ((s.sendPacket k c { c.header k 4 c.ackSeq 0 with offset := c.ackSeq } c.ackSeq text).1).updConn k
      (fun c => { c with ackSeq := c.ackSeq + 1 })

/-- ACKs that name the listed PSNs. -/
def State.sendAcks (s : State) (k : Nat) : Nat → List (Nat × Nat × Nat) → State
  | 0, _ => s
  | n + 1, l => if l.isEmpty then s else (s.sendOneAck k (l.take 64)).sendAcks k n (l.drop 64)

/-- Everything that is owed, and `more`, is acknowledged. -/
def State.ackNow (s : State) (k : Nat) (more : List (Nat × Nat)) : State :=
  match s.conn k with
  | none => s
  | some c =>
    let l := ackRuns (sortBy (·.1) (c.owed ++ more))
    (s.updConn k (fun c => { c with owed := [] })).sendAcks k l.length l

/-- A PSN accepted with an outcome: E moves past every accepted PSN, records below E − W go, and an ACK is owed, or sent
at once for an outcome other than OK and when 16 are owed (R231, R237). -/
def Conn.accept (c : Conn) (psn status : Nat) : Conn :=
  let a := c.accepted.set psn status
  let e := (List.range (a.length + 1)).foldl (fun e _ => if (a.get? e).isSome then e + 1 else e) c.e
  { c with accepted := a.filter (fun x => e ≤ x.1 + c.window), e := e, owed := c.owed ++ [(psn, status)] }

/-- The acceptance of a PSN with its acknowledgement. -/
def State.acceptPsn (s : State) (k psn status : Nat) : State :=
  let s := s.updConn k (fun c => c.accept psn status)
  let s := match s.conn k with
    | some c =>
      if status = 1 then s.addFld Fld.FAB_STALE_COUNT c.stand 0 1
      else if status = 2 then s.addFld Fld.FAB_REVOKED_COUNT c.stand 0 1 else s
    | none => s
  match s.conn k with
  | some c => if status ≠ 0 ∨ 16 ≤ c.owed.length then s.ackNow k [] else s
  | none => s

/-- The PSNs that an ACK entry names. -/
def acked (first run : Nat) (o : OutPacket) : Bool := (o.psn + 2 ^ 48 - first % 2 ^ 32) % 2 ^ 32 < run

/-- What a completed PSN tells its issuer: a write its status; a read or a memory request a status other than OK, and
STOREs their OK. -/
def ackedDone (o : OutPacket) (status : Nat) : List FabDone :=
  match o.op with
  | .write _ _ _ _ b => [.rma b status]
  | .readReq _ _ _ _ _ b => if status = 0 then [] else [.rma b status]
  | .memReq _ _ ops =>
    if status = 0 then (ops.filter (·.opc == 1)).map (fun o => .mem o 0 0 []) else ops.map (fun o => .mem o status 0 [])
  | _ => []

/-- An ACK entry applied. -/
def State.applyAck (s : State) (k first run status : Nat) : State :=
  match s.conn k with
  | none => s
  | some c =>
    let hit := c.out.filter (acked first run)
    if hit.isEmpty then s
    else
      let left := c.out.filter (fun o => !acked first run o)
      let bad := if status = 0 then [] else hit.map (·.psn)
      let s := s.updConn k (fun c => { c with
        out := left, timer := if left.isEmpty then none else some c.rto,
        reads := c.reads.filter (fun r => !bad.contains r.psn),
        asked := c.asked.filter (fun a => !bad.contains a.1) })
      let s := s.outcomes (hit.flatMap (fun o => ackedDone o status))
      if c.state = .closing ∧ left.isEmpty then s.freeConn k else s

/-! Receiving (Table 10.7) -/

/-- The frame reaches the port's MAC: link up, FCS, at most one tag, its MAC address and, in UDP, its IPv6 address
(R222). -/
def State.macAccepts (s : State) (p : Nat) (f : FabFrame) : Bool :=
  f.fcsOk && decide (f.tags ≤ 1) && decide (frameBytes f ≤ s.fld Fld.FAB_PORT_CTRL_MAX_FRAME p) &&
  f.dst == s.fld Fld.FAB_PORT_MAC_ADDR p % 2 ^ 48 && f.udp.all (fun u => u.dst == s.portIp p)

/-- A frame dropped at a port (R222, Table 10.7 step 1). -/
def State.rxDrop (s : State) (p : Nat) : State := s.addFld Fld.FAB_PORT_RX_DROPPED_COUNT p 0 1

/-- The encapsulation of a packet of connection `c` on port `p` is the connection's (R223). -/
def State.encapOk (s : State) (p : Nat) (c : Conn) (f : FabFrame) : Bool :=
  let h := p / 8
  let cls := s.egressClass p c.stand c.tclass
  (f.tags == 0 || f.tag.1 == s.fld Fld.FAB_CLASS_MAP_PCP h cls) &&
  (match f.udp with
   | some u => c.udp && !u.extension && u.checksumOk && u.dscp == s.fld Fld.FAB_CLASS_MAP_DSCP h cls &&
       u.dstPort == s.fld Fld.FAB_ENCAP_UDP_PORT h
   | none => !c.udp && f.etherType == s.fld Fld.FAB_ENCAP_ETHERTYPE h)

/-- The connection of hub die `h` that a header is for (Table 10.7 step 2). -/
def State.connFor (s : State) (h : Nat) (hd : Header) : Option (Nat × Conn) :=
  let k := 65536 * h + hd.dstConn
  match s.conn k with
  | some c =>
    if (c.state = .open_ ∨ c.state = .closing) ∧ hd.dstInc = c.inc ∧ hd.srcInc = c.peerInc ∧ hd.keyId = c.keyId then
      some (k, c) else none
  | none => none

/-- The key by which the flow classifier is searched (13_associative_search.md Table 13.1). -/
def classifierKey (p : Nat) (f : FabFrame) : Nat :=
  let hd := Header.parse f.packet
  p % 8 + b01 f.udp.isSome * 2 ^ 3 + f.etherType % 2 ^ 16 * 2 ^ 4 + f.tag.1 % 8 * 2 ^ 20 + f.tag.2 % 4096 * 2 ^ 23 +
  ((f.udp.map (·.dscp)).getD 0 % 64) * 2 ^ 35 + ((f.udp.map (·.dstPort)).getD 0 % 2 ^ 16) * 2 ^ 41 +
  (if hd.version = 1 ∧ 56 ≤ f.packet.length then hd.keyId else 0) * 2 ^ 57 +
  ((f.udp.map (·.src)).getD 0 / 2 ^ 64 % 2 ^ 64) * 2 ^ 73

/-- A received frame that belongs to no connection is classified, and discarded where its entry says DROP
(13_associative_search.md R285). -/
def State.classify (s : State) (p : Nat) (f : FabFrame) : State :=
  let h := p / 8
  match s.lookup ⟨h, kindClassifier, 0⟩ (classifierKey p f) with
  | some (_, e) =>
    if e.result.testBit 3 then (s.searched h).addFld Fld.ASR_CLASSIFIER_DROPS_COUNT h 0 1 else s.searched h
  | none => s.searched h

/-- The 48-bit number nearest to `e` with the given low 32 bits. -/
def nearest (e low : Nat) : Nat :=
  let a := e / 2 ^ 32 * 2 ^ 32 + low
  if a + 2 ^ 31 < e then a + 2 ^ 32
  else if e + 2 ^ 31 < a ∧ 2 ^ 32 ≤ a then a - 2 ^ 32
  else a

/-- Steps 1 to 3 of Table 10.7 for a frame whose row is for packets of type `type`: the connection, the header and the
clear text, where the packet passes. A frame of another type, or under KEY_ID 0, is not this row's. -/
def State.receive (s : State) (p type : Nat) (f : FabFrame) : State × Option (Nat × Conn × Header × List Byte) :=
  let hd := Header.parse f.packet
  let h := p / 8
  if 16 ≤ p ∨ !s.flag Fld.FAB_PORT_STATUS_LINK_UP p ∨ hd.type ≠ type ∨ hd.keyId = 0 then (s, none)
  else
    let s := s.addFld Fld.FAB_PORT_RX_FRAMES_COUNT p 0 1
    let s := if f.udp.any (fun u => u.ecn == 3) then s.addFld Fld.FAB_ECN_CE_COUNT h 0 1 else s
    if !s.macAccepts p f ∨ hd.version ≠ 1 ∨ !hd.clean ∨ !hd.unusedZero ∨ f.packet.length ≠ 56 + hd.len then
      (s.rxDrop p, none)
    else
      match s.connFor h hd with
      | none =>
        if (s.connFor (1 - h) hd).isSome then (s.addFld Fld.FAB_WRONG_DIE_COUNT h 0 1, none)
        else ((s.addFld Fld.FAB_NO_CONNECTION_COUNT h 0 1).classify p f, none)
      | some (k, c) =>
        if !s.encapOk p c f ∨ c.limit < hd.len then (s.rxDrop p, none)
        else
          let seq := if hd.type = 4 then hd.offset else nearest c.e hd.psn
          let iv := packetIv c.peerSender hd.srcConn (hd.type == 4) hd.srcInc hd.attempt seq
          match gcmOpen (trafficKey ((s.jobKey c.stand c.keyId).getD [])) iv (f.packet.take 40) (f.packet.drop 40) with
          | some text => (s.addFld Fld.SCH_ACCT_COUNT c.stand 5 text.length, some (k, c, hd, text))
          | none => (s.addFld Fld.FAB_AUTH_FAIL_COUNT h 0 1, none)

/-- Steps 5 and 6 for a sequenced packet: `run` takes one that is accepted for the first time, with its PSN. -/
def State.sequenced (s : State) (p type : Nat) (f : FabFrame)
    (run : Nat → Conn → Header → Nat → List Byte → State → State) : State :=
  match s.receive p type f with
  | (s, none) => s
  | (s, some (k, c, hd, text)) =>
    let psn := nearest c.e hd.psn
    if psn + c.window < c.e ∨ c.e + c.window ≤ psn then s.addFld Fld.FAB_OUT_OF_WINDOW_COUNT (p / 8) 0 1
    else
      let seen := match c.accepted.get? psn with
        | some st => some st
        | none => if psn < c.e then some 0 else none
      match seen with
      | some st => (s.addFld Fld.FAB_DUPLICATES_COUNT c.stand 0 1).ackNow k [(psn, st)]
      | none => run k c hd psn text s

/-! Regions (R238-R240; 11_fabric_memory.md R247) -/

/-- Every byte of a range of stand memory is mapped; for a write, outside the program object too. -/
def State.mappedRange (s : State) (n : Nat) (write : Bool) (a len : Nat) : Bool :=
  (addrs (a / pageSize) ((a + len - 1) / pageSize - a / pageSize + 1)).all (fun p =>
    if write then s.writable n (p * pageSize) else (s.loc n (p * pageSize)).isSome)

/-- Steps 7 to 9 of Table 10.7 for an access to a region of hub die `h`. -/
def State.regionCheck (s : State) (h stand keyId key gen off len : Nat) (read write atomic : Bool) : Nat :=
  match s.regions.get? (1048576 * h + key % 2 ^ 20) with
  | none => 3
  | some r =>
    if r.keyHigh ≠ key / 2 ^ 20 ∨ r.state = .free ∨ r.stand ≠ stand ∨ r.keyId ≠ keyId ∨ (read ∧ !r.read) ∨
        (write ∧ !r.write) ∨ (atomic ∧ !r.atomic) ∨ r.len < off + len ∨
        !s.mappedRange stand (write || atomic) (r.base + off) len then 3
    else if r.gen ≠ gen then 1
    else if r.state = .revoking then 2
    else 0

/-- Nothing that was admitted to a region is left: no READ_RESP of it waits or is outstanding, and no barrier arrival
waits at a group block inside it (R239). -/
def State.regionDrained (s : State) (idx : Nat) : Bool :=
  let uses := fun op => match op with
    | FabOp.readResp _ _ r _ _ => r == idx
    | _ => false
  s.conns.all (fun c => c.2.waiting.all (fun o => !uses o) && c.2.out.all (fun o => !uses o.op)) &&
  (match s.regions.get? idx with
   | some r => s.groups.all (fun g => g.2.arrived.isEmpty || g.2.stand != r.stand || g.2.block < r.base ||
       r.base + r.len ≤ g.2.block)
   | none => true)

/-- A REVOKING region whose drain has ended becomes FREE, and its REVOKE command completes APPLIED. -/
def State.endDrain (s : State) (idx : Nat) : State :=
  match s.regions.get? idx with
  | some r =>
    if r.state = .revoking ∧ s.regionDrained idx then
      let s := { s with regions := s.regions.set idx { r with state := .free, revoker := none } }
      let s := s.updStand r.stand (fun st =>
        if st.kv.partialRegion = some idx then { st with kv := { st.kv with partialRegion := none } } else st)
      match r.revoker with
      | some i => s.runDone .fab r.stand i 0
      | none => s
    else s
  | none => s

/-- An ACTIVE region set REVOKING; it is FREE at once where nothing is left to drain. -/
def State.revoke (s : State) (idx : Nat) (by_ : Option Nat) : State :=
  match s.regions.get? idx with
  | some r =>
    if r.state = .active then
      { s with regions := s.regions.set idx { r with state := .revoking, revoker := by_ } }.endDrain idx
    else s
  | none => s

/-- A free region index of a hub die: the spec does not say which; an index without an entry before one whose region is
FREE. The search starts at an open index. -/
def State.freeRegion (s : State) (h draw : Nat) : Option Nat :=
  let used := s.regions.filter (fun r => r.1 / 1048576 == h)
  let cand := (List.range (used.length + 1)).map (fun i => 1048576 * h + (draw + i) % 1048576)
  match cand.find? (fun i => (s.regions.get? i).isNone) with
  | some i => if used.length < 1048576 then some i else (used.find? (fun r => r.2.state == .free)).map (·.1)
  | none => (used.find? (fun r => r.2.state == .free)).map (·.1)

/-- A region registered: its index, or none where the quota or the table is full. KEY takes 44 random bits. -/
def State.register (s : State) (n h : Nat) (r : Region) : State × Option Nat :=
  if s.fld Fld.FAB_REGIONS_QUOTA n ≤ s.regionsUsed n then (s, none)
  else
    let (rnd, s) := s.draw
    let (at_, s) := s.draw
    match s.freeRegion h (at_.toNat % 1048576) with
    | some i => ({ s with regions := s.regions.set i { r with keyHigh := rnd.toNat % 2 ^ 44 } }, some i)
    | none => (s, none)

/-- The largest frame of Table 10.2. -/
def largestFrame (udp jumbo : Bool) : Nat :=
  if udp then (if jumbo then 8318 else 4222) else (if jumbo then 8270 else 4174)

end Sys2Proof.Machine
end

