-- ==== Sys2Proof/Machine/Float.lean ====
section
/-! DEFINITION. The number formats, their exact values, and the one rounding that every conversion and every arithmetic
result goes through (02_number_formats.md R27-R44, R51, R451). -/

namespace Sys2Proof.Machine

open Sys2Proof

/-- What an element format has beside finite numbers (Table 2.2). -/
inductive Specials where
  /-- Exponent of all ones: infinity and NaN. -/
  | ieee
  /-- The one NaN of E4M3, all bits below the sign set. -/
  | nanOnly
  | none
  deriving DecidableEq, Repr

/-- A floating-point element format (Table 2.2). -/
structure Fmt where
  ebits : Nat
  fbits : Nat
  bias : Nat
  specials : Specials
  deriving DecidableEq, Repr

def Fmt.fp32 : Fmt := ⟨8, 23, 127, .ieee⟩
def Fmt.bf16 : Fmt := ⟨8, 7, 127, .ieee⟩
def Fmt.e4m3 : Fmt := ⟨4, 3, 7, .nanOnly⟩
def Fmt.e5m2 : Fmt := ⟨5, 2, 15, .ieee⟩
def Fmt.e2m3 : Fmt := ⟨2, 3, 1, .none⟩
def Fmt.e3m2 : Fmt := ⟨3, 2, 3, .none⟩
def Fmt.e2m1 : Fmt := ⟨2, 1, 1, .none⟩

/-- Bits of an element. -/
def Fmt.width (f : Fmt) : Nat := 1 + f.ebits + f.fbits

/-- The sign bit's place. -/
def Fmt.magBits (f : Fmt) : Nat := f.ebits + f.fbits

/-- The encoding of the largest finite magnitude. -/
def Fmt.maxCode (f : Fmt) : Nat :=
  match f.specials with
  | .ieee => (2 ^ f.ebits - 1) * 2 ^ f.fbits - 1
  | .nanOnly => 2 ^ f.magBits - 2
  | .none => 2 ^ f.magBits - 1

/-- The encoding of infinity, for a format that has it. -/
def Fmt.infCode (f : Fmt) : Nat := (2 ^ f.ebits - 1) * 2 ^ f.fbits

/-- The canonical NaN of a format that has one (R30). -/
def Fmt.nanCode (f : Fmt) : Nat :=
  match f.specials with
  | .ieee => if f.ebits = 5 then 0x7E else f.infCode + 2 ^ (f.fbits - 1)
  | .nanOnly => 2 ^ f.magBits - 1
  | .none => 0

/-- The exact value that an encoding stands for: NaN, quiet or signalling, an infinity, or (−1)^neg × m × 2^e. -/
inductive Num where
  | nan (signalling : Bool)
  | inf (neg : Bool)
  | fin (neg : Bool) (m : Nat) (e : Int)
  deriving DecidableEq, Repr

/-- The value is NaN. -/
def Num.isNan : Num → Bool
  | .nan _ => true
  | _ => false

/-- The value is a signalling NaN (IEEE 754-2019). -/
def Num.isSnan : Num → Bool
  | .nan s => s
  | _ => false

/-- The sign of a value; NaN has none. -/
def Num.neg : Num → Bool
  | .nan _ => false
  | .inf n => n
  | .fin n _ _ => n

/-- The value with another sign. -/
def Num.withSign (b : Bool) : Num → Num
  | .nan s => .nan s
  | .inf _ => .inf b
  | .fin _ m e => .fin b m e

/-- The value is a zero. -/
def Num.isZero : Num → Bool
  | .fin _ 0 _ => true
  | _ => false

/-- The exact value of an encoding (R28, R29). -/
def Fmt.decode (f : Fmt) (x : Nat) : Num :=
  let neg := x.testBit f.magBits
  let mag := x % 2 ^ f.magBits
  let ex := mag / 2 ^ f.fbits
  let fr := mag % 2 ^ f.fbits
  let special : Bool := match f.specials with
    | .ieee => decide (f.infCode ≤ mag)
    | .nanOnly => mag == 2 ^ f.magBits - 1
    | .none => false
  if special then
    (if f.specials = .ieee ∧ mag = f.infCode then .inf neg else .nan (f.specials = .ieee && !fr.testBit (f.fbits - 1)))
  else if ex = 0 then .fin neg fr (1 - f.bias - f.fbits : Int)
  else .fin neg (2 ^ f.fbits + fr) (ex - f.bias - f.fbits : Int)

/-- floor(log2 (m × 2^e)) of a positive m. -/
def ilog2 (m : Nat) (e : Int) : Int := (Nat.log2 m : Int) + e

/-- m × 2^e as a count of quanta 2^q, cut to an integer, and whether the rest is below, at or above a half: the
remainder and the half quantum. -/
def quanta (m : Nat) (e q : Int) : Nat × Nat × Nat :=
  if q ≤ e then (m * 2 ^ (e - q).toNat, 0, 1)
  else
    let k := (q - e).toNat
    (m / 2 ^ k, m % 2 ^ k, 2 ^ (k - 1))

/-- Rounding to nearest even, or toward zero (R39): the integer number of quanta, and whether it is inexact. -/
def roundQuanta (rtz : Bool) (m : Nat) (e q : Int) : Nat × Bool :=
  let (r, rem, half) := quanta m e q
  if rem = 0 then (r, false)
  else if rtz then (r, true)
  else if rem < half ∨ (rem = half ∧ r % 2 = 0) then (r, true) else (r + 1, true)

/-- The magnitude code of m × 2^e rounded with an unbounded exponent range, and whether it is inexact. A code above
`maxCode` says that the value rounds beyond the largest finite (R40). -/
def Fmt.code (f : Fmt) (rtz : Bool) (m : Nat) (e : Int) : Nat × Bool :=
  if m = 0 then (0, false)
  else
    let ex := max (ilog2 m e) (1 - f.bias : Int)
    let (r, ix) := roundQuanta rtz m e (ex - f.fbits)
    (((ex + f.bias - 1).toNat) * 2 ^ f.fbits + r, ix)

/-- m × 2^e lies below the smallest normal. -/
def Fmt.tiny (f : Fmt) (m : Nat) (e : Int) : Bool := m != 0 && decide (ilog2 m e < (1 - f.bias : Int))

/-- An encoding from its sign and magnitude. -/
def Fmt.pack (f : Fmt) (neg : Bool) (mag : Nat) : Nat := b01 neg * 2 ^ f.magBits + mag

/-! Conversion (R39-R41, R451) -/

/-- A value converted to a floating-point format. -/
def Fmt.convert (f : Fmt) (rtz sat : Bool) : Num → Nat × Flags
  | .nan _ => if f.specials = .none then (0, { invalid := true }) else (f.nanCode, {})
  | .inf neg =>
    if f.specials = .none ∨ sat then (f.pack neg f.maxCode, { invalid := true })
    else if f.specials = .nanOnly then (f.nanCode, { invalid := true })
    else (f.pack neg f.infCode, {})
  | .fin neg m e =>
    let (c, ix) := f.code rtz m e
    if f.maxCode < c then
      let x := if rtz ∨ sat ∨ f.specials = .none then f.pack neg f.maxCode
        else if f.specials = .nanOnly then f.nanCode
        else f.pack neg f.infCode
      (x, { overflow := true, inexact := true })
    else
      -- A finite value above the largest finite that RTZ cuts to it has the overflow flag too.
      let cut := rtz && ix && c == f.maxCode
      (f.pack neg c, { overflow := cut, inexact := ix, underflow := ix && f.tiny m e })

/-- A value converted to a signed integer of `w` bits, scaled by 2^`sc` first (R40; R32 for MXINT8). -/
def convertInt (w : Nat) (sc : Int) (rtz : Bool) : Num → Nat × Flags
  | .nan _ => (0, { invalid := true })
  | .inf neg => (if neg then 2 ^ (w - 1) else 2 ^ (w - 1) - 1, { invalid := true })
  | .fin neg m e =>
    let (r, ix) := roundQuanta rtz m (e + sc) 0
    let v : Int := if neg then -(r : Int) else r
    if v < -(2 ^ (w - 1) : Nat) then (2 ^ (w - 1), { invalid := true })
    else if (2 ^ (w - 1) : Nat) ≤ v then (2 ^ (w - 1) - 1, { invalid := true })
    else (wrapInt w v, { inexact := ix })

/-- The exact value of a signed integer of `w` bits with a factor 2^`sc`. -/
def decodeInt (w : Nat) (sc : Int) (x : Nat) : Num :=
  let v := signed w x
  .fin (decide (v < 0)) v.natAbs sc

/-! Arithmetic in FP32 and BF16 (R51) -/

/-- A finite result rounded to nearest even, with its flags. -/
def Fmt.result (f : Fmt) (neg : Bool) (m : Nat) (e : Int) : Nat × Flags :=
  let (c, ix) := f.code false m e
  if f.maxCode < c then (f.pack neg f.infCode, { overflow := true, inexact := true })
  else (f.pack neg c, { inexact := ix, underflow := ix && f.tiny m e })

/-- A NaN result. -/
def Fmt.nanResult (f : Fmt) (invalid : Bool) : Nat × Flags := (f.nanCode, { invalid := invalid })

/-- The exact sum of two finite values, as a signed mantissa and an exponent. -/
def exactSum (n1 : Bool) (m1 : Nat) (e1 : Int) (n2 : Bool) (m2 : Nat) (e2 : Int) : Int × Int :=
  let e := min e1 e2
  let a : Int := m1 * 2 ^ (e1 - e).toNat
  let b : Int := m2 * 2 ^ (e2 - e).toNat
  ((if n1 then -a else a) + (if n2 then -b else b), e)

/-- Addition (IEEE 754-2019). -/
def Fmt.add (f : Fmt) (a b : Num) : Nat × Flags :=
  match a, b with
  | .fin n1 m1 e1, .fin n2 m2 e2 =>
    let (v, e) := exactSum n1 m1 e1 n2 m2 e2
    if v = 0 then (f.pack (n1 && n2) 0, {}) else f.result (decide (v < 0)) v.natAbs e
  | .inf n1, .inf n2 => if n1 = n2 then (f.pack n1 f.infCode, {}) else f.nanResult true
  | .inf n, .fin _ _ _ => (f.pack n f.infCode, {})
  | .fin _ _ _, .inf n => (f.pack n f.infCode, {})
  | x, y => f.nanResult (x.isSnan || y.isSnan)

/-- The value with its sign turned; NaN as it is. -/
def Num.flip (x : Num) : Num := x.withSign (!x.neg)

/-- Subtraction. -/
def Fmt.sub (f : Fmt) (a b : Num) : Nat × Flags := f.add a b.flip

/-- The exact product; none where it is NaN. -/
def exactMul : Num → Num → Option Num
  | .fin n1 m1 e1, .fin n2 m2 e2 => some (.fin (n1 != n2) (m1 * m2) (e1 + e2))
  | .inf n1, .inf n2 => some (.inf (n1 != n2))
  | .inf n1, .fin n2 m _ => if m = 0 then none else some (.inf (n1 != n2))
  | .fin n1 m _, .inf n2 => if m = 0 then none else some (.inf (n1 != n2))
  | _, _ => none

/-- Multiplication. -/
def Fmt.mul (f : Fmt) (a b : Num) : Nat × Flags :=
  if a.isNan ∨ b.isNan then f.nanResult (a.isSnan || b.isSnan)
  else
    match exactMul a b with
    | none => f.nanResult true
    | some (.fin n m e) => f.result n m e
    | some (.inf n) => (f.pack n f.infCode, {})
    | some (.nan _) => f.nanResult false

/-- Fused multiply-add a × b + c, rounded once. IEEE 754-2019 leaves open whether 0 × ∞ + quiet NaN is invalid. -/
def Fmt.fma (f : Fmt) (a b c : Num) : Nat × Flags :=
  if a.isNan ∨ b.isNan then f.nanResult (a.isSnan || b.isSnan || c.isSnan)
  else
    match exactMul a b with
    | none => f.nanResult (if c.isNan then c.isSnan || Config.fmaNanInvalid else true)
    | some p => f.add p c

/-- Order of two values that are not NaN: −1, 0 or 1; −0 equals +0 (R30). -/
def Num.cmp : Num → Num → Int
  | .inf n1, .inf n2 => if n1 = n2 then 0 else if n1 then -1 else 1
  | .inf n, _ => if n then -1 else 1
  | _, .inf n => if n then 1 else -1
  | .fin n1 m1 e1, .fin n2 m2 e2 => (exactSum n1 m1 e1 (!n2) m2 e2).1.sign
  | _, _ => 0

/-- The value in the format it was read from. -/
def Fmt.encode (f : Fmt) (x : Num) : Nat := (f.convert false false x).1

/-- IEEE 754-2019 minimum and maximum: NaN if either is, and −0 below +0. -/
def Fmt.minMax (f : Fmt) (wantMax : Bool) (a b : Num) : Nat × Flags :=
  if a.isNan ∨ b.isNan then f.nanResult (a.isSnan || b.isSnan)
  else
    let c := a.cmp b
    let aFirst := if c = 0 then a.neg != wantMax else decide (c < 0) != wantMax
    (f.encode (if aFirst then a else b), {})

/-- A sign operation: the magnitude of `a` under a sign; NaN becomes the canonical NaN (R30). -/
def Fmt.signed (f : Fmt) (a : Num) (neg : Bool) : Nat × Flags :=
  if a.isNan then f.nanResult false else (f.encode (a.withSign neg), {})

/-! Block formats (R31, R36, R37, R41, R43, R44) -/

/-- The element format of a format code: a floating-point format, or a signed integer of a width with a factor. -/
inductive Elem where
  | flt (f : Fmt)
  | int (w : Nat) (sc : Int)
  deriving DecidableEq, Repr

/-- The scaling of a format code. -/
inductive Scaling where
  | plain | mx | f16s
  deriving DecidableEq, Repr

/-- The element and scaling of a format code (Table 2.1); TERN is packed by itself, and codes not in the table are
reserved. -/
def formatOf : Nat → Option (Elem × Scaling)
  | 0x00 => some (.flt .fp32, .plain)
  | 0x01 => some (.flt .bf16, .plain)
  | 0x02 => some (.flt .e4m3, .plain)
  | 0x03 => some (.flt .e5m2, .plain)
  | 0x04 => some (.flt .e2m3, .plain)
  | 0x05 => some (.flt .e3m2, .plain)
  | 0x06 => some (.flt .e2m1, .plain)
  | 0x07 => some (.int 8 0, .plain)
  | 0x0A => some (.flt .e4m3, .mx)
  | 0x0B => some (.flt .e5m2, .mx)
  | 0x0C => some (.flt .e2m3, .mx)
  | 0x0D => some (.flt .e3m2, .mx)
  | 0x0E => some (.flt .e2m1, .mx)
  | 0x0F => some (.int 8 (-6), .mx)
  | 0x10 => some (.int 32 0, .plain)
  | 0x12 => some (.flt .e4m3, .f16s)
  | 0x14 => some (.flt .e2m3, .f16s)
  | 0x15 => some (.flt .e3m2, .f16s)
  | 0x16 => some (.flt .e2m1, .f16s)
  | _ => none

/-- TERN's format code. -/
def ternCode : Nat := 0x08

/-- Bits of an element. -/
def Elem.width : Elem → Nat
  | .flt f => f.width
  | .int w _ => w

/-- The exact value of an element. -/
def Elem.decode : Elem → Nat → Num
  | .flt f, x => f.decode x
  | .int w sc, x => decodeInt w sc x

/-- A value converted to an element. -/
def Elem.convert (el : Elem) (rtz sat : Bool) (x : Num) : Nat × Flags :=
  match el with
  | .flt f => f.convert rtz sat x
  | .int w sc => convertInt w (-sc) rtz x

/-- The largest element magnitude as an exponent: emax of R43. -/
def Elem.emax : Elem → Int
  | .flt f => ilog2 (f.maxCode % 2 ^ f.fbits + 2 ^ f.fbits) ((f.maxCode / 2 ^ f.fbits : Nat) - f.bias - f.fbits : Int)
  | .int _ _ => 0

/-- A value times 2^k. -/
def Num.scale (k : Int) : Num → Num
  | .fin n m e => .fin n m (e + k)
  | x => x

/-- The magnitudes m × 2^e compared: the first is the smaller. -/
def magLt (m1 : Nat) (e1 : Int) (m2 : Nat) (e2 : Int) : Bool := decide ((exactSum false m1 e1 true m2 e2).1 < 0)

/-- The largest magnitude among the finite values of a block (R43). -/
def amax (l : List Num) : Nat × Int :=
  l.foldl (fun b x =>
    match x with
    | .fin _ m e => if magLt b.1 b.2 m e then (m, e) else b
    | _ => b) (0, 0)

/-- A block: its scale byte, its elements and the flags of each. -/
structure Quantised where
  scale : Nat
  elems : List Nat
  flags : List Flags
  deriving DecidableEq, Repr

/-- A block in an MX format (R43). -/
def quantiseMx (el : Elem) (l : List Num) : Quantised :=
  if l.any Num.isNan then ⟨0xFF, l.map (fun _ => 0), l.map (fun _ => {})⟩
  else
    let (m, e) := amax l
    let hasInf := l.any (fun x => match x with | .inf _ => true | _ => false)
    if m = 0 ∧ !hasInf then ⟨0x00, l.map (fun _ => 0), l.map (fun _ => {})⟩
    else
      let x : Int := if m = 0 then 127 else max (-127) (min 127 (ilog2 m e - el.emax))
      let r := l.map (fun v => el.convert false true (v.scale (-x)))
      ⟨(x + 127).toNat, r.map (·.1), r.map (·.2)⟩

/-- The value of an E8M0 scale as an exponent; none for NaN (R31). -/
def e8m0 (x : Nat) : Option Int := if x % 256 = 255 then none else some ((x % 256 : Nat) - 127 : Int)

/-- The quotient of two positive dyadic numbers to 64 bits below the divisor's last, with a sticky last bit. -/
def divDyadic (m1 : Nat) (e1 : Int) (m2 : Nat) (e2 : Int) : Nat × Int :=
  let k := 256 + Nat.log2 m2
  let n := m1 * 2 ^ k
  (2 * (n / m2) + (if n % m2 = 0 then 0 else 1), e1 - e2 - k - 1)

/-- The smallest E4M3 magnitude not below m × 2^e, saturating at 448, with the flags of the conversion (R44, R451). -/
def e4m3Up (m : Nat) (e : Int) : Nat × Flags :=
  let (c, ix) := Fmt.e4m3.code true m e
  let c := if ix then c + 1 else c
  if Fmt.e4m3.maxCode < c then (Fmt.e4m3.maxCode, { overflow := true, inexact := true })
  else (c, { inexact := ix, underflow := ix && Fmt.e4m3.tiny m e })

/-- A block in an F16S format under a positive finite tensor scale t (R44): the flags of the scale come last. -/
def quantiseF16s (f : Fmt) (tm : Nat) (te : Int) (l : List Num) : Quantised :=
  if l.any Num.isNan then ⟨0x7F, l.map (fun _ => 0), l.map (fun _ => {})⟩
  else
    let (m, e) := amax l
    let isInf : Num → Bool := fun x => match x with | .inf _ => true | _ => false
    if m = 0 then ⟨0, l.map (fun _ => 0), l.map (fun x => { invalid := isInf x })⟩
    else
      match f.decode f.maxCode with
      | .fin _ xm xe =>
        let (qm, qe) := divDyadic m e (tm * xm) (te + xe)
        let (b, bf) := e4m3Up qm qe
        let conv : Num → Nat × Flags := fun v =>
          match v, Fmt.e4m3.decode b with
          | .fin n vm ve, .fin _ bm be =>
            if bm = 0 then (f.pack n 0, {})
            else if vm = 0 then (f.pack n 0, {})
            else
              let (dm, de) := divDyadic vm ve (tm * bm) (te + be)
              f.convert false true (.fin n dm de)
          | v, _ => f.convert false true v
        let r := l.map conv
        ⟨b, r.map (·.1), r.map (·.2) ++ [bf]⟩
      | _ => ⟨0, l.map (fun _ => 0), []⟩

/-- The exact value of an element of an F16S block: B × P, the sign bit of the scale ignored (R31, R37). -/
def f16sElem (b : Nat) (p : Num) : Num :=
  match Fmt.e4m3.decode (b % 128) with
  | .fin _ 0 _ => .fin p.neg 0 0
  | .fin _ m e => (match p with | .fin n pm pe => .fin n (pm * m) (pe + e) | x => x)
  | _ => .nan false

/-- The exact value of an element of an MX block (R36). -/
def mxElem (x : Nat) (p : Num) : Num :=
  match e8m0 x with
  | none => .nan false
  | some k => p.scale k

/-- Division (IEEE 754-2019). -/
def Fmt.div (f : Fmt) (a b : Num) : Nat × Flags :=
  if a.isNan ∨ b.isNan then f.nanResult (a.isSnan || b.isSnan)
  else
    match a, b with
    | .inf _, .inf _ => f.nanResult true
    | .inf n1, .fin n2 _ _ => (f.pack (n1 != n2) f.infCode, {})
    | .fin n1 _ _, .inf n2 => (f.pack (n1 != n2) 0, {})
    | .fin n1 m1 e1, .fin n2 m2 e2 =>
      if m2 = 0 then (if m1 = 0 then f.nanResult true else (f.pack (n1 != n2) f.infCode, { divZero := true }))
      else if m1 = 0 then (f.pack (n1 != n2) 0, {})
      else
        let (m, e) := divDyadic m1 e1 m2 e2
        f.result (n1 != n2) m e
    | _, _ => f.nanResult false

end Sys2Proof.Machine
end

