-- ==== Sys2Proof/Machine/Special.lean ====
section
/-! DEFINITION. The special functions of the vector cores: exp, ln, reciprocal, reciprocal square root and tanh
(04_vector_cores.md R88, R89, Tables 4.5 and 4.6). A real value is held in fixed point, 512 bits below the point. -/

namespace Sys2Proof.Machine

open Sys2Proof

inductive Sfu where
  | exp | log | rcp | rsqrt | tanh
  deriving DecidableEq, Repr

/-- The number of a function, for the open part of its error. -/
def Sfu.num : Sfu → Nat
  | .exp => 0 | .log => 1 | .rcp => 2 | .rsqrt => 3 | .tanh => 4

/-- The FP32 error bound in units in the last place (Table 4.5). -/
def Sfu.bound : Sfu → Int
  | .exp => 2 | .log => 2 | .rcp => 1 | .rsqrt => 2 | .tanh => 3

/-- Bits below the point. -/
def fixBits : Nat := 512

/-- 1 in fixed point. -/
def fixOne : Nat := 2 ^ fixBits

/-- m × 2^e in fixed point. -/
def toFix (m : Nat) (e : Int) : Nat :=
  let k := e + fixBits
  if 0 ≤ k then m * 2 ^ k.toNat else m / 2 ^ (-k).toNat

/-- Terms y^k ÷ k! of the exponential series, `fuel` of them from term `k` on. -/
def expSeries (y : Nat) : Nat → Nat → Nat → Nat
  | 0, _, _ => 0
  | fuel + 1, k, t => t + expSeries y fuel (k + 1) (t * y / fixOne / k)

/-- A value squared `n` times. -/
def squareFix : Nat → Nat → Nat
  | 0, s => s
  | n + 1, s => squareFix n (s * s / fixOne)

/-- e^x for a fixed-point x from 0 to 256. -/
def expFix (x : Nat) : Nat := squareFix 12 (expSeries (x / 4096) 100 1 fixOne)

/-- Terms t^(2k+1) ÷ (2k+1) of the inverse hyperbolic tangent. -/
def atanhSeries (t2 : Nat) : Nat → Nat → Nat → Nat
  | 0, _, _ => 0
  | fuel + 1, k, p => p / (2 * k + 1) + atanhSeries t2 fuel (k + 1) (p * t2 / fixOne)

/-- ln z for a fixed-point z from 1 to 2. -/
def lnFix (z : Nat) : Nat :=
  let t := (z - fixOne) * fixOne / (z + fixOne)
  2 * atanhSeries (t * t / fixOne) 200 0 t

/-- ln 2 in fixed point. -/
def ln2Fix : Nat := lnFix (2 * fixOne)

/-- ln of m × 2^e: sign and magnitude in fixed point. -/
def lnSigned (m : Nat) (e : Int) : Bool × Nat :=
  let k := ilog2 m e
  let v : Int := k * ln2Fix + (lnFix (toFix m (e - k)) : Int)
  (decide (v < 0), v.natAbs)

/-- tanh of a fixed-point magnitude, cut off at 64, where it differs from 1 by less than any rounding sees. -/
def tanhFix (x : Nat) : Nat :=
  let ex := expFix (2 * min x (64 * fixOne))
  (ex - fixOne) * fixOne / (ex + fixOne)

/-- floor of the square root, one bit of the result at a time. -/
def isqrt : Nat → Nat → Nat → Nat
  | 0, _, r => r
  | k + 1, n, r => let c := r + 2 ^ k; isqrt k n (if c * c ≤ n then c else r)

/-- An approximation with a sticky last bit: the true value lies above m and below m + 1 in the last place. -/
def sticky (m : Nat) (e : Int) : Nat × Int := (2 * m + 1, e - 1)

/-- 1 ÷ √(m × 2^e), to 400 bits. -/
def rsqrtDyadic (m : Nat) (e : Int) : Nat × Int :=
  let (m, e) := if e % 2 = 0 then (m, e) else (2 * m, e - 1)
  let k := 400 + Nat.log2 m
  let n := 2 ^ (2 * k) / m
  let r := isqrt (k + 2) n 0
  let exact := r * r * m = 2 ^ (2 * k)
  (2 * r + (if exact then 0 else 1), -(e / 2) - k - 1)

/-- Sign, mantissa and exponent of a special function at a finite input of its domain (Table 4.5). -/
def Sfu.exact (fn : Sfu) (neg : Bool) (m : Nat) (e : Int) : Bool × Nat × Int :=
  let a := toFix m e
  let capped := min a (128 * fixOne)
  match fn with
  | .exp =>
    if m = 0 then (false, 1, 0)
    else
      let x := expFix capped
      (false, if neg then sticky (fixOne * fixOne / x) (-fixBits) else sticky x (-fixBits))
  | .log =>
    let (n, v) := lnSigned m e
    if v = 0 then (false, 0, 0) else (n, sticky v (-fixBits))
  | .rcp => (neg, divDyadic 1 0 m e)
  | .rsqrt => (false, rsqrtDyadic m e)
  | .tanh => if m = 0 then (neg, 0, 0) else (neg, sticky (tanhFix a) (-fixBits))

/-- The magnitude of an FP32 result: the correctly rounded one moved by an open number of units, as long as the result
stays finite and within the bound of Table 4.5. -/
def Sfu.open (fn : Sfu) (x m : Nat) (e : Int) : Nat :=
  let f := Fmt.fp32
  let c0 := (f.code false m e).1
  let off := max (-fn.bound) (min fn.bound (Config.sfuUlp fn.num x))
  let c := (c0 : Int) + off
  if f.maxCode < c0 ∨ c < 0 ∨ (f.maxCode : Int) < c then c0
  else
    match f.decode c.toNat with
    | .fin _ cm ce =>
      let ulp := max (ilog2 m e) (1 - f.bias : Int) - f.fbits
      let (d, de) := exactSum false cm ce true m e
      if magLt fn.bound.toNat ulp d.natAbs de then c0 else c.toNat
    | _ => c0

/-- |x| < 2^-12, where TANH in FP32 is exactly x. -/
def tanhSmall (m : Nat) (e : Int) : Bool := m = 0 || decide (ilog2 m e < -12)

/-- A special function in FP32 or BF16 (R88, R89). The inexact flag of a finite result is left open. -/
def Sfu.apply (fn : Sfu) (f : Fmt) (x : Nat) : Nat × Flags :=
  let one := f.pack false ((f.code false 1 0).1)
  match fn, f.decode x with
  | _, .nan _ => (f.nanCode, {})
  | .exp, .inf n => (if n then 0 else f.infCode, {})
  | .log, .inf n => if n then f.nanResult true else (f.infCode, {})
  | .rcp, .inf n => (f.pack n 0, {})
  | .rsqrt, .inf n => if n then f.nanResult true else (0, {})
  | .tanh, .inf n => (f.pack n one, {})
  | .log, .fin _ 0 _ => (f.pack true f.infCode, { divZero := true })
  | .rcp, .fin n 0 _ => (f.pack n f.infCode, { divZero := true })
  | .rsqrt, .fin n 0 _ => (f.pack n f.infCode, { divZero := true })
  | .log, .fin true _ _ => f.nanResult true
  | .rsqrt, .fin true _ _ => f.nanResult true
  | fn, .fin n m e =>
    if fn = .tanh ∧ f = .fp32 ∧ tanhSmall m e then (x, { inexact := Config.sfuInexact fn.num x })
    else
      let (neg, rm, re) := fn.exact n m e
      let (c0, ix) := f.code false rm re
      let c := if f = .fp32 then fn.open x rm re else c0
      if f.maxCode < c0 then (f.pack neg f.infCode, { overflow := true, inexact := Config.sfuInexact fn.num x })
      else (f.pack neg c, { inexact := Config.sfuInexact fn.num x, underflow := ix && f.tiny rm re })

end Sys2Proof.Machine
end

