-- ==== Sys2Proof/Machine/Operands.lean ====
section
/-! DEFINITION. The operand forms of Chisyn: the registers of a task, elements and lanes of a vector register, masks
and immediates (04_vector_cores.md Tables 4.1 and 4.2). Which field of the word holds which operand, where the spec
leaves it to the opcode, is the model's choice (log 12). -/

namespace Sys2Proof.Machine

open Sys2Proof

/-! Registers of a task -/

/-- X register `r`; X0 reads as 0. -/
def VTask.xreg (t : VTask) (r : BitVec 5) : Word := if r = 0 then 0 else (t.x.get? r.toNat).getD 0

/-- X register `r` written; X0 ignores writes. -/
def VTask.setX (t : VTask) (r : BitVec 5) (w : Word) : VTask := if r = 0 then t else { t with x := t.x.set r.toNat w }

/-- Vector register `r`. -/
def VTask.vreg (t : VTask) (r : BitVec 5) : BitVec 512 := (t.v.get? r.toNat).getD 0

/-- Vector register `r` written. -/
def VTask.setV (t : VTask) (r : BitVec 5) (w : BitVec 512) : VTask := { t with v := t.v.set r.toNat w }

/-- The mask register that the low three bits of a register field name. -/
def maskNum (r : BitVec 5) : BitVec 3 := r.truncate 3

/-- Lane mask `r`; M0 reads as all ones. -/
def VTask.mreg (t : VTask) (r : BitVec 3) : BitVec 16 := if r = 0 then 0xFFFF else (t.m.get? r.toNat).getD 0

/-- Lane mask `r` written; M0 ignores writes. -/
def VTask.setM (t : VTask) (r : BitVec 3) (w : BitVec 16) : VTask := if r = 0 then t else { t with m := t.m.set r.toNat w }

/-- Flags raised: they stay set (R52). -/
def VTask.raise (t : VTask) (f : Flags) : VTask := { t with flags := t.flags.or f }

/-- The next instruction. -/
def VTask.next (t : VTask) : VTask := { t with pc := t.pc + 1 }

/-! Elements -/

/-- Element `k` of `w` bits of a vector register. -/
def element (x : BitVec 512) (w k : Nat) : Nat := bits x.toNat (w * k) w

/-- Element `k` of `w` bits of a vector register set. -/
def setElement (x : BitVec 512) (w k v : Nat) : BitVec 512 := BitVec.ofNat 512 (setBits x.toNat (w * k) w v)

/-- The bytes of a vector register. -/
def vecBytes (x : BitVec 512) : List Byte := toBytes 64 x.toNat

/-- A vector register from its bytes. -/
def vecOf (bs : List Byte) : BitVec 512 := BitVec.ofNat 512 (ofBytes bs)

/-- The lane of element `k` of `w` bits. -/
def laneOf (w k : Nat) : Nat := w * k / 32

/-- The mask of an instruction lets a lane through. -/
def VTask.lane (t : VTask) (i : VWord) (k : Nat) : Bool := (t.mreg i.mask).getLsbD k

/-- The destination after every element of `w` bits in an unmasked lane became what `f` gives; masked-off lanes stay
and raise no flag (R83). -/
def VTask.elementwise (t : VTask) (i : VWord) (w : Nat) (f : Nat → Nat × Flags) : VTask :=
  let old := t.vreg i.dst
  let ks := (List.range (512 / w)).filter (fun k => t.lane i (laneOf w k))
  let rs := ks.map (fun k => (k, f k))
  (t.setV i.dst (rs.foldl (fun x r => setElement x w r.1 r.2.1) old)).raise (Flags.all (rs.map (·.2.2)))

/-- The mask register that DST names after each unmasked lane's bit became what `f` gives. -/
def VTask.maskwise (t : VTask) (i : VWord) (f : Nat → Bool × Flags) : VTask :=
  let old := (t.mreg (maskNum i.dst)).toNat
  let rs := ((List.range 16).filter (t.lane i)).map (fun k => (k, f k))
  (t.setM (maskNum i.dst) (BitVec.ofNat 16 (rs.foldl (fun x r => setBits x r.1 1 (b01 r.2.1)) old))).raise
    (Flags.all (rs.map (·.2.2)))

/-! Types (Table 4.2) -/

/-- The floating-point format of TYPE 0 and 1. -/
def floatType (ty : BitVec 2) : Option Fmt := if ty = 0 then some .fp32 else if ty = 1 then some .bf16 else none

/-- The immediate, sign-extended to 64 bits. -/
def immX (i : VWord) : Word := i.imm.signExtend 64

/-- Bits of the immediate. -/
def immBits (i : VWord) (lo w : Nat) : Nat := bits i.imm.toNat lo w

/-- A floating operation of two sources on every element. -/
def VTask.floatOp2 (t : VTask) (i : VWord) (f : Fmt) (op : Num → Num → Nat × Flags) : VTask :=
  t.elementwise i f.width (fun k =>
    op (f.decode (element (t.vreg i.src1) f.width k)) (f.decode (element (t.vreg i.src2) f.width k)))

/-- A floating operation of one source on every element. -/
def VTask.floatOp1 (t : VTask) (i : VWord) (f : Fmt) (op : Nat → Nat × Flags) : VTask :=
  t.elementwise i f.width (fun k => op (element (t.vreg i.src1) f.width k))

/-- An INT32 operation of two sources on every lane. -/
def VTask.intOp2 (t : VTask) (i : VWord) (op : Nat → BitVec 32 → BitVec 32 → BitVec 32) : VTask :=
  t.elementwise i 32 (fun k =>
    ((op k (BitVec.ofNat 32 (element (t.vreg i.src1) 32 k)) (BitVec.ofNat 32 (element (t.vreg i.src2) 32 k))).toNat, {}))

/-- A shift: an amount of 32 or more leaves a result that the spec does not give (log 13). -/
def VTask.shiftOp (t : VTask) (i : VWord) (draw : Nat) (op : BitVec 32 → Nat → BitVec 32) : VTask :=
  t.intOp2 i (fun k a b => if b.toNat < 32 then op a b.toNat else Config.freeLane draw k)

/-- The unmasked elements of SRC1, in order. -/
def VTask.activeElements (t : VTask) (i : VWord) (w : Nat) : List Nat :=
  ((List.range (512 / w)).filter (fun k => t.lane i (laneOf w k))).map (fun k => element (t.vreg i.src1) w k)

/-! Sums across lanes, in an order that the spec does not give (log 14) -/

/-- A sum of terms, two of them at a time, in the implementation's order. -/
def sumTree {α : Type} (add : α → α → α) : Nat → List α → List α
  | 0, l => l
  | fuel + 1, l =>
    if l.length < 2 then l
    else
      let p := Config.sumPair l.length fuel
      let i := p.1 % l.length
      match l[i]? with
      | none => l
      | some a =>
        let rest := listRemove l i
        let j := p.2 % rest.length
        match rest[j]? with
        | none => l
        | some b => sumTree add fuel (add a b :: listRemove rest j)

/-- The sum of floating-point elements, with its flags; the sum of none is +0. -/
def floatSum (f : Fmt) (l : List Nat) : Nat × Flags :=
  match sumTree (fun a b : Nat × Flags =>
      let r := f.add (f.decode a.1) (f.decode b.1)
      (r.1, (a.2.or b.2).or r.2)) l.length (l.map (fun x => (x, {}))) with
  | r :: _ => r
  | [] => (0, {})

/-- The sum of INT32 lanes, wrapping. -/
def intSum (l : List Nat) : Nat := l.foldl (· + ·) 0 % 2 ^ 32

/-- The largest or smallest of floating-point elements. -/
def floatExtreme (f : Fmt) (wantMax : Bool) : List Nat → Nat × Flags
  | [] => (0, {})
  | x :: xs => xs.foldl (fun a y =>
      let r := f.minMax wantMax (f.decode a.1) (f.decode y)
      (r.1, a.2.or r.2)) (x, { invalid := (f.decode x).isSnan })

/-- The largest or smallest of INT32 lanes. -/
def intExtreme (wantMax : Bool) : List Nat → Nat
  | [] => 0
  | x :: xs => xs.foldl (fun a y =>
      if wantMax then (if signed 32 a < signed 32 y then y else a) else (if signed 32 y < signed 32 a then y else a)) x

/-- A reduction of the unmasked elements of SRC1, written to every unmasked element of DST. -/
def VTask.reduceInto (t : VTask) (i : VWord) (w : Nat) (r : Nat × Flags) : VTask :=
  if (t.activeElements i w).isEmpty then t else (t.elementwise i w (fun _ => (r.1, {}))).raise r.2

/-! Local store (R85) -/

/-- Bytes of a local store. -/
def lsSize : Nat := 0xC000

/-- The access is aligned to its width and lies within the local store. -/
def lsOk (a width : Nat) : Bool := a % width == 0 && a + width ≤ lsSize

/-- A local store address: an X register plus the immediate, in 64 bits. -/
def VTask.lsAddr (t : VTask) (i : VWord) : Nat := (t.xreg i.src1 + immX i).toNat

/-- Bytes of the local store of core `v`. -/
def State.lsBytes (s : State) (v a n : Nat) : List Byte := s.mem.bytes ((Space.ls v).key a) n

/-- Bytes written to the local store of core `v`. -/
def State.lsPut (s : State) (v a : Nat) (bs : List Byte) : State :=
  { s with mem := s.mem.putList ((Space.ls v).key a) bs }

/-- A run of the local store of core `v` left with open content. -/
def State.lsForget (s : State) (v lo n : Nat) : State :=
  { s with mem := s.mem.forget ((Space.ls v).key lo) ((Space.ls v).key lo + n) s.freeCtr, freeCtr := s.freeCtr + 1 }

end Sys2Proof.Machine
end

