-- ==== Sys2Proof/Machine/Power.lean ====
section
/-! DEFINITION. The power step governor's account of the cores (18_power_thermal.md R382-R384; 03_matrix_cores.md R77):
which are clocked, and which starts and stops wait. -/

namespace Sys2Proof.Machine

open Sys2Proof

/-- The governor's state changed. -/
def State.updPower (s : State) (f : Power → Power) : State := { s with power := f s.power }

/-- The compute die, and so the VDD_A rail, of a unit. -/
def PowerUnit.rail : PowerUnit → Nat
  | .matrix c => c / 16
  | .vector v => v / 864 / 16

/-- The power in mW and the rail current in mA of one start or stop (Table of R382). -/
def PowerUnit.draw : PowerUnit → Nat × Nat
  | .matrix _ => (25000, 32000)
  | .vector _ => (15, 20)

/-- The order of units on a tie: by their number. -/
def PowerUnit.number : PowerUnit → Nat
  | .matrix c => c
  | .vector v => v

/-- A unit is clocked. -/
def Power.clocked (p : Power) : PowerUnit → Bool
  | .matrix c => (p.matrix.get? c).isSome
  | .vector v => (p.vector.get? v).isSome

/-- A unit's clock set, or taken away. -/
def Power.setClock (p : Power) : PowerUnit → Option Clock → Power
  | .matrix c, some k => { p with matrix := p.matrix.set c k }
  | .matrix c, none => { p with matrix := p.matrix.del c }
  | .vector v, some k => { p with vector := p.vector.set v k }
  | .vector v, none => { p with vector := p.vector.del v }

/-- A start or stop requested, unless it waits already. -/
def Power.request (p : Power) (stop : Bool) (u : PowerUnit) (now : Nat) : Power :=
  if p.waiting.any (fun r => r.stop == stop && r.unit == u) then p
  else { p with waiting := p.waiting ++ [⟨stop, u, now⟩] }

/-- Requests of a unit withdrawn. -/
def Power.withdraw (p : Power) (u : PowerUnit) : Power := { p with waiting := p.waiting.filter (fun r => r.unit != u) }

/-- Work reaches a clocked unit: it costs nothing, and a stop request is withdrawn (R383). -/
def State.work (s : State) (u : PowerUnit) : State := s.updPower (fun p => (p.withdraw u).setClock u (some .work))

/-- Work on a unit ends: it stays clocked, in ballast. -/
def State.rest (s : State) (u : PowerUnit) : State :=
  if s.power.clocked u then s.updPower (fun p => p.setClock u (some .ballast)) else s

/-- The matrix cores of stand `n` are all clocked (R77). -/
def State.matrixReady (s : State) (n : Nat) : Bool := (s.clusters n).all (fun c => s.power.clocked (.matrix c))

/-- A start requested for each matrix core of stand `n` that is not clocked. -/
def State.matrixRequests (s : State) (n : Nat) : State :=
  (s.clusters n).foldl (fun s c =>
    if s.power.clocked (.matrix c) then s else s.updPower (fun p => p.request false (.matrix c) s.timeNs)) s

/-- The matrix cores of stand `n` at rest. -/
def State.matrixRest (s : State) (n : Nat) : State := (s.clusters n).foldl (fun s c => s.rest (.matrix c)) s

/-- The stand waits for a self-test of one of its groves, or for its end (17_startup_reset_test.md Table 17.6). -/
def State.testHeld (s : State) (n : Nat) : Bool :=
  (s.groves n).any (fun g => s.tests.waiting.testBit g || (s.fld Fld.RST_GROVE_STATUS_UNDER_TEST).testBit g)

/-- What the tests in force on grove `g` destroy (Table 17.5): SRAM the activation stores and local stores, HBM the T0
content. -/
def State.testWipe (s : State) (g : Nat) : State :=
  let forget := fun (s : State) (lo hi : Nat) => { s with mem := s.mem.forget lo hi s.freeCtr, freeCtr := s.freeCtr + 1 }
  let s := if s.tests.sram then
      let s := forget s ((Space.act (4 * g)).key 0) ((Space.act (4 * g + 4)).key 0)
      let s := forget s ((Space.ls (3456 * g)).key 0) ((Space.ls (3456 * g + 3456)).key 0)
      { s with cores := s.cores.map (fun (e : Nat × VCore) => if e.1 / 3456 = g then (e.1, { e.2 with kernel := none }) else e) }
    else s
  if s.tests.hbm then forget s ((Space.t0 g).key 0) ((Space.t0 (g + 1)).key 0) else s

/-- The groves of stand `n` that wait for its boundary go under test (17_startup_reset_test.md Table 17.6). -/
def State.testBoundary (s : State) (n : Nat) : State :=
  let g := maskOf (s.groves n) &&& s.tests.waiting
  if g = 0 then s
  else
    let s := { s with tests := { s.tests with waiting := s.tests.waiting ^^^ g } }
    let s := (s.setFld Fld.RST_GROVE_STATUS_UNDER_TEST 0 0 (s.fld Fld.RST_GROVE_STATUS_UNDER_TEST ||| g)).setFld
      Fld.RST_TEST_STATUS_STATE 0 0 2
    (bitsOf 24 g).foldl State.testWipe s

/-- A sealed stand's stagger pattern has run to its end (R384). -/
def State.patternDone (s : State) (n : Nat) : Bool := (s.power.sealed.get? n).all (fun p => p.stopping.isEmpty && p.starting.isEmpty)

end Sys2Proof.Machine
end

