-- ==== Sys2Proof/Machine/Tasks.lean ====
section
/-! DEFINITION. Tasks of the vector cores: start, end, faults, the outside that their transfers and atomics reach, and
the abandonment of a step (04_vector_cores.md R82-R99; 03_matrix_cores.md R78). -/

namespace Sys2Proof.Machine

open Sys2Proof


/-! Cores -/

/-- The vector core `v`. -/
def State.core (s : State) (v : Nat) : VCore := (s.cores.get? v).getD {}

/-- The task on core `v`. -/
def State.task (s : State) (v : Nat) : Option VTask := (s.core v).task

/-- The task on core `v` set. -/
def State.setTask (s : State) (v : Nat) (t : Option VTask) : State :=
  { s with cores := s.cores.set v { s.core v with task := t } }

/-- A core in service: its bit in VEC_CORE_MASK is 0 (R93). -/
def State.coreInService (s : State) (v : Nat) : Bool :=
  !(s.fld Fld.VEC_CORE_MASK_OUT (v / 864) (v % 864 / 64)).testBit (v % 864 % 64)

/-- The lowest-numbered free core of stand `n`, on die `die` if one is named (R93, R94, R18). -/
def State.lowestFreeCore (s : State) (n : Nat) (die : Option Nat) : Option Nat :=
  ((s.clusters n).filter (fun c => die.all (· == c / 16))).findSome? (fun c =>
    ((List.range 864).map (864 * c + ·)).find? (fun v => s.coreInService v && (s.task v).isNone))

/-! The program of a stand's step -/

/-- The number of `len` bytes in the program of model `m` of stand `n`, from a byte of its header (Table 3.4). -/
def State.header (s : State) (n m off len : Nat) : Nat :=
  match (s.stand n).cfg.models.get? m with
  | some c => s.peekLe n (c.program + off) len
  | none => 0

/-- ACT_BYTES of the program that stand `n` runs; a stand that runs no program has the whole store (R86, R121). -/
def State.actBytes (s : State) (n : Nat) : Nat :=
  match (s.stand n).step with
  | some st => s.header n st.model 24 4
  | none => 25165824

/-! Step counters and errors -/

/-- An accounting counter of stand `n` raised (Table 8.10). -/
def State.account (s : State) (n i k : Nat) : State := s.addFld Fld.SCH_ACCT_COUNT n i k

/-- An error of a vector core: its sticky flag and context (R103). -/
def State.flagVec (s : State) (f : Field) (v : Nat) (t : VTask) : State :=
  s.flagError f (v / 864) (fun s => s.setReg .VEC_ERROR_INFO (v / 864) 0
    (v % 864 + t.index % 2 ^ 20 * 2 ^ 10 + t.kernel % 4096 * 2 ^ 30 + t.pc.toNat * 2 ^ 42))

/-- The step of stand `n` changed. -/
def State.updStep (s : State) (n : Nat) (f : Step → Step) : State :=
  s.updStand n (fun st => { st with step := st.step.map f })

/-- The VTASKS operation of stand `n` changed. -/
def State.updOp (s : State) (n : Nat) (f : VOp → VOp) : State :=
  s.updStep n (fun st => { st with vop := st.vop.map f })

/-- The running VTASKS operation of stand `n`. -/
def State.vop (s : State) (n : Nat) : Option VOp := (s.stand n).step.bind (·.vop)

/-! The outside: the activation store of the cluster and the stand address space (R86) -/

/-- The offset of a stand address in the enabled KV aperture. -/
def State.apertureOffset (s : State) (n a : Nat) : Option Nat :=
  match (s.stand n).kv.aperture with
  | some b => if b ≤ a ∧ a < b + 64 * 2 ^ 30 then some (a - b) else none
  | none => none

/-- The range lies within the activation store's used bytes or the stand address space; a write may not reach the
program object (16_configuration_image.md R349). -/
def State.outsideOk (s : State) (n : Nat) (inStand write : Bool) (a len : Nat) : Bool :=
  if inStand then
    (match s.apertureOffset n a with
     | some o => o + len ≤ 64 * 2 ^ 30
     | none => (addrs (a / pageSize) ((a + len - 1) / pageSize - a / pageSize + 1)).all (fun p =>
         if write then s.writable n (p * pageSize) else (s.loc n (p * pageSize)).isSome))
  else a + len ≤ s.actBytes n

/-- The number by which the log of unsettled writes knows a 64 B unit of the outside. -/
def unitId (v : Nat) (inStand : Bool) (a : Nat) : Nat :=
  if inStand then 2 ^ 64 + a / 64 else (v / 864) * 2 ^ 48 + a / 64

/-- Bytes of the outside as they stand. -/
def State.peekOutside (s : State) (n v : Nat) (inStand : Bool) (a len : Nat) : Got :=
  if inStand then s.peek n a len else .ok (s.mem.bytes ((Space.act (v / 864)).key a) len)

/-- Bytes written to the outside. -/
def State.pokeOutside (s : State) (n v : Nat) (inStand : Bool) (a : Nat) (bs : List Byte) : State :=
  if inStand then s.standWrite n a bs else { s with mem := s.mem.putList ((Space.act (v / 864)).key a) bs }

/-- A 64 B unit as task `t` may see it: a unit that another task of the operation wrote reads as it was or as it is
(R86). -/
def State.readUnit (s : State) (n v : Nat) (t : VTask) (inStand : Bool) (a : Nat) : Got × State :=
  match s.peekOutside n v inStand a 64 with
  | .ok bs =>
    let olds : List (Nat × Nat × List Byte) := match s.vop n with
      | some op => op.writes.filter (fun w => w.2.1 == unitId v inStand a && w.1 != t.index)
      | none => []
    if olds.isEmpty then (.ok bs, if inStand then s.touch n a 64 else s)
    else
      let k := Config.pick s.freeCtr (olds.length + 1) % (olds.length + 1)
      (.ok (match olds[k]? with | some w => w.2.2 | none => bs), { s with freeCtr := s.freeCtr + 1 })
  | g => (g, s)

/-- `k` units read from an address on; the first that cannot be read decides. -/
def State.readUnits (s : State) (n v : Nat) (t : VTask) (inStand : Bool) : Nat → Nat → Got × State
  | 0, _ => (.ok [], s)
  | k + 1, a =>
    match s.readUnit n v t inStand a with
    | (.ok bs, s) =>
      (match s.readUnits n v t inStand k (a + 64) with
       | (.ok rest, s) => (.ok (bs ++ rest), s)
       | r => r)
    | r => r

/-- A write of units by a task: what stood there is kept for the readers that may still see it (R86). -/
def State.writeUnits (s : State) (n v : Nat) (t : VTask) (inStand : Bool) (a : Nat) (bs : List Byte) : State :=
  let olds := (List.range (bs.length / 64)).filterMap (fun k =>
    match s.peekOutside n v inStand (a + 64 * k) 64 with
    | .ok b => some (t.index, unitId v inStand (a + 64 * k), b)
    | _ => none)
  (s.pokeOutside n v inStand a bs).updOp n (fun op => { op with writes := op.writes ++ olds })

/-- An atomic's result word: the old word with the operand applied (R87). -/
def VAtomic.apply (x : VAtomic) (old : Nat) : Nat :=
  if x.int then
    (if x.isMax then (if signed 32 old < signed 32 x.operand then x.operand else old) else (old + x.operand) % 2 ^ 32)
  else
    let f := Fmt.fp32
    (if x.isMax then f.minMax true (f.decode old) (f.decode x.operand) else f.add (f.decode old) (f.decode x.operand)).1

/-- An atomic applied to its word; the Bool says that the word could be read. -/
def State.applyAtomic (s : State) (n v : Nat) (x : VAtomic) : State × Bool :=
  match s.peekOutside n v x.inStand x.addr 4 with
  | .ok bs => (s.pokeOutside n v x.inStand x.addr (toBytes 4 (x.apply (ofBytes bs))), true)
  | _ => (s, false)

/-- The bytes that an XOUT moves: where the local store changed after the issue, either content may be moved (R86). -/
def State.xoutBytes (s : State) (v : Nat) (x : Transfer) : List Byte :=
  (x.held.zip (s.lsBytes v x.ls x.len)).zipIdx.map (fun p =>
    if p.1.1 = p.1.2 then p.1.1 else Config.freeByte s.freeCtr p.2)

/-- What a task that ends without END leaves outstanding: each 64 B unit of an XOUT, and each atomic, takes effect or
not; the spec does not say which (log 17). Transfers to the KV aperture do not take effect. -/
def State.leftovers (s : State) (v : Nat) (t : VTask) : State :=
  let units := (t.transfers.filter (fun x => x.out && !(x.inStand && (s.apertureOffset t.stand x.addr).isSome))).flatMap
    (fun x => let bs := s.xoutBytes v x
      (List.range (x.len / 64)).map (fun k => (x.inStand, x.addr + 64 * k, sub bs (64 * k) 64)))
  let s := units.foldl (fun s u =>
    let s' := { s with freeCtr := s.freeCtr + 1 }
    if Config.pick s.freeCtr 2 % 2 = 0 then s' else s'.writeUnits t.stand v t u.1 u.2.1 u.2.2) s
  t.atomics.foldl (fun s x =>
    let s' := { s with freeCtr := s.freeCtr + 1 }
    if Config.pick s.freeCtr 2 % 2 = 0 then s' else (s'.applyAtomic t.stand v x).1) s

/-! Remote attention at a holder (05_attention_state.md R121) -/

/-- A response record sent to the buffer that its request named. -/
def State.respond (s : State) (sv : Service) (bs : List Byte) : State :=
  s.fabIssue sv.conn (.write sv.key sv.gen sv.offset (.bytes bs) .nobody)

/-- A response header with a status and no partial. -/
def statusRecord (words : List Byte) (status : Nat) : List Byte := sub words 0 24 ++ toBytes 8 status ++ zeros 32

/-- The request that a service task serves is taken from it. -/
def State.takeService (s : State) (n serial : Nat) : State × Option Service :=
  (s.updStand n (fun st => { st with kv := { st.kv with serving := st.kv.serving.del serial } }),
   (s.stand n).kv.serving.get? serial)

/-! The end of a task -/

/-- The final status of task `i` of the running operation of stand `n` written to its status array (R96). -/
def State.writeStatus (s : State) (n : Nat) (op : VOp) (i status : Nat) : State :=
  if op.statusAddr = 0 then s else s.standWrite n (op.statusAddr + 2 * i) (toBytes 2 status)

/-- A test that waits for stand `n` starts where the stand runs no step and no task (17_startup_reset_test.md Table
17.6). -/
def State.testIdle (s : State) (n : Nat) : State :=
  if (s.stand n).step.isNone ∧ s.cores.all (fun e => e.2.task.all (·.stand != n)) then s.testBoundary n else s

/-- A task ends with a status: the core is free and keeps its kernel's code, and the counters advance. The core-cycles
that it held the task are an open value (log 15). -/
def State.endTask (s : State) (v : Nat) (t : VTask) (status : Nat) : State :=
  let (cycles, s) := (s.leftovers v t).draw
  let s := (((s.setTask v none).rest (.vector v)).addFld Fld.VEC_TASKS_COUNT (v / 864) 0 1).addFld Fld.VEC_BUSY_CYCLES_CYCLES (v / 864) 0
    cycles.toNat
  let s := s.account t.stand 1 cycles.toNat
  if t.service then (s.takeService t.stand t.serial).1.testIdle t.stand
  else
    match s.vop t.stand with
    | none => s
    | some op => (s.writeStatus t.stand op t.index status).updOp t.stand (fun op => { op with ended := op.ended + 1 })

/-- The cores that hold tasks of a step of stand `n`. -/
def State.stepCores (s : State) (n : Nat) : List (Nat × VTask) :=
  s.cores.filterMap (fun e => match e.2.task with
    | some t => if t.stand = n ∧ !t.service then some (e.1, t) else none
    | none => none)

/-- Every running task of the operation stopped, and the unplaced ones marked NOT_RUN (R98). -/
def State.stopTasks (s : State) (n : Nat) : State :=
  let s := (s.stepCores n).foldl (fun s c => s.endTask c.1 c.2 0x0006) s
  match s.vop n with
  | none => s
  | some op => (List.range (op.count - op.next)).foldl (fun s k => s.writeStatus n op (op.next + k) 0x0007) s

/-- The operation that a step of stand `n` is at: the lowest that has started and not completed. -/
def Step.atOp (st : Step) : Nat := ((st.started.filter (fun i => !st.done.contains i)).foldl (fun m i => match m with
  | none => some i
  | some j => some (min i j)) none).getD 0

/-- A step abandoned for a cause (R78, R98): STEP_ABANDONED is recorded and its tasks stop. The commit phase that
follows writes no token. -/
def State.abandon (s : State) (n cause opIndex : Nat) : State :=
  match (s.stand n).step with
  | none => s
  | some st =>
    if st.abandoned.isSome ∨ st.ended then s
    else
      let s := s.updStep n (fun st => { st with abandoned := some cause })
      ((((s.stopTasks n).matrixRest n).updStep n (fun st => { st with vop := none })).eventOf n 0x0102 38
        [cause, st.model, opIndex]).setFld Fld.SCH_STATUS_STATE n 0 3

/-- A task of a step that faults: the error, its end, and the abandonment (Table 4.10). -/
def State.taskFault (s : State) (v : Nat) (t : VTask) (f : Field) (status cause : Nat) : State :=
  let op := ((s.vop t.stand).map (·.index)).getD 0
  let s := (s.flagVec f v t).endTask v t status
  if t.service then s else s.abandon t.stand cause op

/-- TASK_FAULT. -/
def State.illegal (s : State) (v : Nat) (t : VTask) : State :=
  s.taskFault v t Fld.VEC_ERROR_TASK_FAULT 0x0001 0x34

/-- The request whose row is batch slot `k` of the step of stand `n`. -/
def State.slotRequest (s : State) (n k : Nat) : Option Nat :=
  match (s.stand n).step with
  | none => none
  | some st => (st.rows[k]?).bind (fun r => if r.kind = .padding then none else some r.req)

/-- A request's token withheld for a cause; the first cause stands. -/
def State.withhold (s : State) (n req : Nat) (c : NoToken) : State :=
  s.updStep n (fun st => if (st.noToken.get? req).isSome then st else { st with noToken := st.noToken.set req c })

/-- Poisoned data read by a task (Table 4.10); one that serves a remote request answers it STATE_LOST
(05_attention_state.md R121). -/
def State.poisonedTask (s : State) (v : Nat) (t : VTask) : State :=
  if t.service then
    let (s, sv) := s.takeService t.stand t.serial
    let s := (s.flagVec Fld.VEC_ERROR_DATA_POISONED v t).endTask v t 0x0002
    match sv with
    | some x => s.respond x (statusRecord x.words 2)
    | none => s
  else if t.seqValid then
    let s := (s.flagVec Fld.VEC_ERROR_DATA_POISONED v t).endTask v t 0x0002
    match s.slotRequest t.stand t.seq with
    | some r => s.withhold t.stand r .poisoned
    | none => s
  else s.taskFault v t Fld.VEC_ERROR_DATA_POISONED 0x0002 0x04

/-! The start of a task -/

/-- A kernel of stand `n`: its code (16_configuration_image.md R344). -/
def State.kernelCode (s : State) (n k : Nat) : Option (List Byte) :=
  let a := (s.stand n).cfg.kernels
  if k < bits (s.peekLe n a 8) 0 12 + (if bits (s.peekLe n a 8) 0 12 = 0 then 4096 else 0) then
    let e := s.peekLe n (a + 64 + 8 * k) 8
    (match s.peek n (a + bits e 0 32) (bits e 32 16) with
     | .ok bs => some bs
     | _ => none)
  else none

/-- A task descriptor (Table 4.8) is valid under R94. -/
def State.descriptorValid (s : State) (n : Nat) (d : List Byte) : Bool :=
  let w0 := le d 0 8
  let w1 := le d 8 8
  let blocks := bits w0 17 2
  (s.kernelCode n (bits w0 0 12)).isSome && !(bits w0 12 1 == 1 && (s.dieOrder n).length ≤ bits w0 13 3) &&
  bits w0 19 13 == 0 && bits w1 48 16 == 0 &&
  (blocks == 0 || (bits w1 0 48 % 64 == 0 && s.outsideOk n true false (bits w1 0 48) (64 * blocks)))

/-- Task `index` with descriptor `d` started on core `v` (R82, R95, Table 4.4). -/
def State.startTask (s : State) (n v index : Nat) (d : List Byte) (service : Bool) : State :=
  let w0 := le d 0 8
  let kernel := bits w0 0 12
  let code := (s.kernelCode n kernel).getD []
  let args := match s.peek n (le d 8 6) (64 * bits w0 17 2) with
    | .ok bs => if bits w0 17 2 = 0 then [] else bs
    | _ => []
  let seq := le d 4 4
  let s := if (s.core v).kernel = some (n, kernel) then s else s.addFld Fld.VEC_KERNEL_LOADS_COUNT (v / 864) 0 1
  let t : VTask := { stand := n, index := index, kernel := kernel, seqValid := bits w0 16 1 == 1, seq := seq,
                     service := service, serial := s.taskCount,
                     x := [(1, BitVec.ofNat 64 index), (2, BitVec.ofNat 64 seq), (3, BitVec.ofNat 64 (le d 16 8)),
                           (4, BitVec.ofNat 64 (le d 24 8))] }
  let base := (Space.ls v).key 0
  let s := { s with mem := ((s.mem.zero base (base + 0x200)).putList base d).putList (base + 0x40) args }
  let s := { s with mem := s.mem.putList (base + 0x200) code }
  let s := s.lsForget v 0x2000 0xA000
  { s.work (.vector v) with cores := s.cores.set v ⟨some (n, kernel), some t⟩, taskCount := s.taskCount + 1 }

/-- A start requested for a vector core (18_power_thermal.md R382). -/
def State.vectorRequest (s : State) (v : Nat) : State := s.updPower (fun p => p.request false (.vector v) s.timeNs)

/-- The next task of the table of stand `n` placed, if a core in its scope is free and clocked; for one that is not
clocked a start is requested. A descriptor that is not valid abandons the step (R94). The Bool says whether a task was
placed. -/
def State.placeNext (s : State) (n : Nat) : State × Bool :=
  match s.vop n with
  | none => (s, false)
  | some op =>
    if op.count ≤ op.next then (s, false)
    else
      let d := match s.peek n (op.table + 32 * op.next) 32 with
        | .ok bs => bs
        | _ => []
      if d.isEmpty ∨ !s.descriptorValid n d then
        (((s.writeStatus n op op.next 0x0008).updOp n (fun op => { op with next := op.next + 1 })).abandon n 0x30 op.index,
          false)
      else
        let die := if bits (le d 0 8) 12 1 = 1 then (s.dieOrder n)[bits (le d 0 8) 13 3]? else none
        match s.lowestFreeCore n die with
        | none => (s, false)
        | some v =>
          if !s.power.clocked (.vector v) then (s.vectorRequest v, false)
          else ((s.startTask n v op.next d false).updOp n (fun op => { op with next := op.next + 1 }), true)

/-- Tasks placed while cores are free. -/
def State.placeAll : Nat → State → Nat → State
  | 0, s, _ => s
  | fuel + 1, s, n => match s.placeNext n with
    | (s, true) => s.placeAll fuel n
    | (s, false) => s

end Sys2Proof.Machine
end

