-- ==== Sys2Proof/Machine/Chisyn.lean ====
section
/-! DEFINITION. The Chisyn instructions that work on registers alone (04_vector_cores.md R82-R89, R96;
02_number_formats.md R39-R52). An instruction is executed by core `v` when the core holds a task that waits for nothing
and the registers it names are not locked; otherwise its command changes nothing (log 16). -/

namespace Sys2Proof.Machine

open Sys2Proof

/-- X registers as interlocks number them. -/
def xs (l : List (BitVec 5)) : List Nat := (l.filter (· != 0)).map (·.toNat)

/-- Vector registers as interlocks number them. -/
def vs (l : List (BitVec 5)) : List Nat := l.map (fun r => 32 + r.toNat)

/-- An instruction executed on core `v`. -/
def State.vrun (s : State) (v : Nat) (uses : List Nat) (ok : Bool) (f : VTask → State → State) : State :=
  match s.task v with
  | some t => if t.wait = .none ∧ ok ∧ uses.all (fun r => !t.locked.contains r) then f t s else s
  | none => s

/-- An instruction that changes registers only; PC passes to the next. -/
def State.vpure (s : State) (v : Nat) (uses : List Nat) (ok : Bool) (f : VTask → VTask) : State :=
  s.vrun v uses ok (fun t s => s.setTask v (some (f t).next))

/-- An instruction that changes registers and draws an open value. -/
def State.vfree (s : State) (v : Nat) (uses : List Nat) (ok : Bool) (f : Nat → VTask → VTask) : State :=
  s.vrun v uses ok (fun t s => { s with freeCtr := s.freeCtr + 1 }.setTask v (some (f s.freeCtr t).next))

/-! Floating arithmetic -/

/-- A floating operation of two sources. -/
def State.vfloat2 (s : State) (v : Nat) (i : VWord) (op : Fmt → Num → Num → Nat × Flags) : State :=
  s.vpure v (vs [i.dst, i.src1, i.src2]) (floatType i.type).isSome (fun t =>
    match floatType i.type with
    | some f => t.floatOp2 i f (op f)
    | none => t)

/-- A floating operation of one source. -/
def State.vfloat1 (s : State) (v : Nat) (i : VWord) (op : Fmt → Nat → Nat × Flags) : State :=
  s.vpure v (vs [i.dst, i.src1]) (floatType i.type).isSome (fun t =>
    match floatType i.type with
    | some f => t.floatOp1 i f (op f)
    | none => t)

/-- FMA: SRC1 × SRC2 + SRC3, rounded once (R51). -/
def execFma (v : Nat) (i : VWord) (s : State) : Host.Outcome State Fault Refusal :=
  .next (s.vpure v (vs [i.dst, i.src1, i.src2, i.src3]) (floatType i.type).isSome (fun t =>
    match floatType i.type with
    | some f => t.elementwise i f.width (fun k =>
        let el := fun r => f.decode (element (t.vreg r) f.width k)
        f.fma (el i.src1) (el i.src2) (el i.src3))
    | none => t))

/-- ADD. -/
def execAdd (v : Nat) (i : VWord) (s : State) : Host.Outcome State Fault Refusal := .next (s.vfloat2 v i Fmt.add)

/-- SUB. -/
def execSub (v : Nat) (i : VWord) (s : State) : Host.Outcome State Fault Refusal := .next (s.vfloat2 v i Fmt.sub)

/-- MUL. -/
def execMul (v : Nat) (i : VWord) (s : State) : Host.Outcome State Fault Refusal := .next (s.vfloat2 v i Fmt.mul)

/-- MIN. -/
def execMin (v : Nat) (i : VWord) (s : State) : Host.Outcome State Fault Refusal :=
  .next (s.vfloat2 v i (fun f => f.minMax false))

/-- MAX. -/
def execMax (v : Nat) (i : VWord) (s : State) : Host.Outcome State Fault Refusal :=
  .next (s.vfloat2 v i (fun f => f.minMax true))

/-- ABS. -/
def execAbs (v : Nat) (i : VWord) (s : State) : Host.Outcome State Fault Refusal :=
  .next (s.vfloat1 v i (fun f x => f.signed (f.decode x) false))

/-- NEG. -/
def execNeg (v : Nat) (i : VWord) (s : State) : Host.Outcome State Fault Refusal :=
  .next (s.vfloat1 v i (fun f x => f.signed (f.decode x) (!x.testBit f.magBits)))

/-- CPYSGN: the magnitude of SRC1 under the sign bit of SRC2. -/
def execCpysgn (v : Nat) (i : VWord) (s : State) : Host.Outcome State Fault Refusal :=
  .next (s.vpure v (vs [i.dst, i.src1, i.src2]) (floatType i.type).isSome (fun t =>
    match floatType i.type with
    | some f => t.elementwise i f.width (fun k =>
        f.signed (f.decode (element (t.vreg i.src1) f.width k)) ((element (t.vreg i.src2) f.width k).testBit f.magBits))
    | none => t))

/-! Integer and logic: TYPE 2 -/

/-- An INT32 operation of two sources. -/
def State.vint2 (s : State) (v : Nat) (i : VWord) (op : BitVec 32 → BitVec 32 → BitVec 32) : State :=
  s.vpure v (vs [i.dst, i.src1, i.src2]) (i.type == 2) (fun t => t.intOp2 i (fun _ => op))

/-- An INT32 shift. -/
def State.vshift (s : State) (v : Nat) (i : VWord) (op : BitVec 32 → Nat → BitVec 32) : State :=
  s.vfree v (vs [i.dst, i.src1, i.src2]) (i.type == 2) (fun d t => t.shiftOp i d op)

/-- IADD. -/
def execIadd (v : Nat) (i : VWord) (s : State) : Host.Outcome State Fault Refusal := .next (s.vint2 v i (· + ·))

/-- ISUB. -/
def execIsub (v : Nat) (i : VWord) (s : State) : Host.Outcome State Fault Refusal := .next (s.vint2 v i (· - ·))

/-- IMUL: the low 32 bits. -/
def execImul (v : Nat) (i : VWord) (s : State) : Host.Outcome State Fault Refusal := .next (s.vint2 v i (· * ·))

/-- AND. -/
def execAnd (v : Nat) (i : VWord) (s : State) : Host.Outcome State Fault Refusal := .next (s.vint2 v i (· &&& ·))

/-- OR. -/
def execOr (v : Nat) (i : VWord) (s : State) : Host.Outcome State Fault Refusal := .next (s.vint2 v i (· ||| ·))

/-- XOR. -/
def execXor (v : Nat) (i : VWord) (s : State) : Host.Outcome State Fault Refusal := .next (s.vint2 v i (· ^^^ ·))

/-- SHL. -/
def execShl (v : Nat) (i : VWord) (s : State) : Host.Outcome State Fault Refusal := .next (s.vshift v i (· <<< ·))

/-- SHR. -/
def execShr (v : Nat) (i : VWord) (s : State) : Host.Outcome State Fault Refusal := .next (s.vshift v i (· >>> ·))

/-- SAR. -/
def execSar (v : Nat) (i : VWord) (s : State) : Host.Outcome State Fault Refusal :=
  .next (s.vshift v i (fun a k => a.sshiftRight k))

/-- POPC. -/
def execPopc (v : Nat) (i : VWord) (s : State) : Host.Outcome State Fault Refusal :=
  .next (s.vpure v (vs [i.dst, i.src1]) (i.type == 2) (fun t =>
    t.elementwise i 32 (fun k => (popcount 32 (element (t.vreg i.src1) 32 k), {}))))

/-! Compare and select -/

/-- A predicate of a compare, by IMM[2:0]: EQ, NE, LT, LE, GT, GE, unordered, ordered (log 12). -/
def predicate (p : Nat) (c : Int) (unordered : Bool) : Bool :=
  match p with
  | 0 => !unordered && c == 0
  | 1 => unordered || c != 0
  | 2 => !unordered && decide (c < 0)
  | 3 => !unordered && decide (c ≤ 0)
  | 4 => !unordered && decide (0 < c)
  | 5 => !unordered && decide (0 ≤ c)
  | 6 => unordered
  | _ => !unordered

/-- A floating compare: its outcome, and invalid for a signalling NaN; whether an ordering predicate signals for a quiet
NaN is open. -/
def floatCompare (p : Nat) (a b : Num) : Bool × Flags :=
  let un := a.isNan || b.isNan
  let ordering := decide (2 ≤ p) && decide (p ≤ 5)
  (predicate p (a.cmp b) un,
   { invalid := a.isSnan || b.isSnan || (un && ordering && Config.orderingSignals) })

/-- FCMP: a mask bit per lane. In packed BF16 the two elements of a lane share its bit; where they differ the bit is
open (log 13). -/
def execFcmp (v : Nat) (i : VWord) (s : State) : Host.Outcome State Fault Refusal :=
  .next (s.vfree v (vs [i.src1, i.src2]) (floatType i.type).isSome (fun d t =>
    match floatType i.type with
    | some f =>
      t.maskwise i (fun k =>
        let cmp := fun e => floatCompare (immBits i 0 3) (f.decode (element (t.vreg i.src1) f.width e))
          (f.decode (element (t.vreg i.src2) f.width e))
        if f.width = 32 then cmp k
        else
          let a := cmp (2 * k)
          let b := cmp (2 * k + 1)
          (if a.1 = b.1 then a.1 else (Config.freeLane d k).getLsbD 0, a.2.or b.2))
    | none => t))

/-- ICMP: a signed compare of INT32 lanes. -/
def execIcmp (v : Nat) (i : VWord) (s : State) : Host.Outcome State Fault Refusal :=
  .next (s.vpure v (vs [i.src1, i.src2]) (i.type == 2) (fun t =>
    t.maskwise i (fun k =>
      (predicate (immBits i 0 3) (signed 32 (element (t.vreg i.src1) 32 k) - signed 32 (element (t.vreg i.src2) 32 k))
        false, {}))))

/-- SEL: lanes of SRC1 where the mask that SRC3 names has a 1, of SRC2 elsewhere. -/
def execSel (v : Nat) (i : VWord) (s : State) : Host.Outcome State Fault Refusal :=
  .next (s.vpure v (vs [i.dst, i.src1, i.src2]) (i.type != 3) (fun t =>
    t.elementwise i 32 (fun k =>
      (element (t.vreg (if (t.mreg (maskNum i.src3)).getLsbD k then i.src1 else i.src2)) 32 k, {}))))

/-- A mask operation. -/
def State.vmask2 (s : State) (v : Nat) (i : VWord) (op : Bool → Bool → Bool) : State :=
  s.vpure v [] true (fun t =>
    t.maskwise i (fun k => (op ((t.mreg (maskNum i.src1)).getLsbD k) ((t.mreg (maskNum i.src2)).getLsbD k), {})))

/-- MAND. -/
def execMand (v : Nat) (i : VWord) (s : State) : Host.Outcome State Fault Refusal := .next (s.vmask2 v i (· && ·))

/-- MOR. -/
def execMor (v : Nat) (i : VWord) (s : State) : Host.Outcome State Fault Refusal := .next (s.vmask2 v i (· || ·))

/-- MNOT. -/
def execMnot (v : Nat) (i : VWord) (s : State) : Host.Outcome State Fault Refusal := .next (s.vmask2 v i (fun a _ => !a))

/-! Special functions -/

/-- EXP. -/
def execExp (v : Nat) (i : VWord) (s : State) : Host.Outcome State Fault Refusal := .next (s.vfloat1 v i Sfu.exp.apply)

/-- LOG. -/
def execLog (v : Nat) (i : VWord) (s : State) : Host.Outcome State Fault Refusal := .next (s.vfloat1 v i Sfu.log.apply)

/-- RCP. -/
def execRcp (v : Nat) (i : VWord) (s : State) : Host.Outcome State Fault Refusal := .next (s.vfloat1 v i Sfu.rcp.apply)

/-- RSQRT. -/
def execRsqrt (v : Nat) (i : VWord) (s : State) : Host.Outcome State Fault Refusal :=
  .next (s.vfloat1 v i Sfu.rsqrt.apply)

/-- TANH. -/
def execTanh (v : Nat) (i : VWord) (s : State) : Host.Outcome State Fault Refusal :=
  .next (s.vfloat1 v i Sfu.tanh.apply)

/-! Conversion and quantise -/

/-- The plain element format of a format code that a conversion takes. -/
def plainElem (code : Nat) : Option Elem :=
  match formatOf code with
  | some (el, .plain) => some el
  | _ => none

/-- The format code of the source: TYPE, or IMM[4:0] for TYPE 3 (Table 4.2). -/
def typeCode (i : VWord) : Nat :=
  if i.type = 0 then 0x00 else if i.type = 1 then 0x01 else if i.type = 2 then 0x10 else immBits i 0 5

/-- CVT: sixteen elements of group IMM[12:10] of SRC1 converted to the format IMM[9:5] and put in group IMM[15:13] of
DST; mask lane k governs element k of the group (log 12). -/
def execCvt (v : Nat) (i : VWord) (s : State) : Host.Outcome State Fault Refusal :=
  .next (
    match plainElem (typeCode i), plainElem (immBits i 5 5) with
    | some a, some b =>
      let ga := 16 * immBits i 10 3
      let gb := 16 * immBits i 13 3
      s.vpure v (vs [i.dst, i.src1]) ((ga + 16) * a.width ≤ 512 && (gb + 16) * b.width ≤ 512) (fun t =>
        let rs := ((List.range 16).filter (t.lane i)).map (fun k =>
          (k, b.convert i.rtz i.sat (a.decode (element (t.vreg i.src1) a.width (ga + k)))))
        (t.setV i.dst (rs.foldl (fun x r => setElement x b.width (gb + r.1) r.2.1) (t.vreg i.dst))).raise
          (Flags.all (rs.map (·.2.2))))
    | _, _ => s)

/-- A block in a vector register: its data plane from byte 0 and its scale in byte 63 (log 12). -/
def blockReg (w : Nat) (q : Quantised) : BitVec 512 :=
  setElement ((q.elems.zipIdx).foldl (fun x e => setElement x w e.2 e.1) (0 : BitVec 512)) 8 63 q.scale

/-- A block written to the unmasked lanes of DST, with the flags of the elements in unmasked lanes. -/
def VTask.putBlock (t : VTask) (i : VWord) (w : Nat) (q : Quantised) (lane : Nat → Nat) : VTask :=
  let b := blockReg w q
  (t.elementwise i 32 (fun k => (element b 32 k, {}))).raise
    (Flags.all ((q.flags.zipIdx).map (fun f => Flags.when (t.lane i (lane f.2)) f.1)))

/-- QMX: a block of 32 in the MX format IMM[4:0]: 16 FP32 elements of SRC1 and 16 of SRC2, or the 32 BF16 elements of
SRC1. -/
def execQmx (v : Nat) (i : VWord) (s : State) : Host.Outcome State Fault Refusal :=
  .next (
    match formatOf (immBits i 0 5) with
    | some (el, .mx) =>
      s.vpure v (vs [i.dst, i.src1, i.src2]) (floatType i.type).isSome (fun t =>
        if i.type = 0 then
          let l := (List.range 16).map (fun k => Fmt.fp32.decode (element (t.vreg i.src1) 32 k)) ++
            (List.range 16).map (fun k => Fmt.fp32.decode (element (t.vreg i.src2) 32 k))
          t.putBlock i el.width (quantiseMx el l) (· % 16)
        else
          let l := (List.range 32).map (fun k => Fmt.bf16.decode (element (t.vreg i.src1) 16 k))
          t.putBlock i el.width (quantiseMx el l) (· / 2))
    | _ => s)

/-- QF16S: a block of 16 in the F16S format IMM[4:0] under the tensor scale in lane 0 of SRC2: the 16 FP32 elements of
SRC1, or 16 BF16 elements, half IMM[5] of SRC1. The spec gives no result for a scale that is not positive and finite. -/
def execQf16s (v : Nat) (i : VWord) (s : State) : Host.Outcome State Fault Refusal :=
  .next (
    match formatOf (immBits i 0 5) with
    | some (.flt f, .f16s) =>
      s.vfree v (vs [i.dst, i.src1, i.src2]) (floatType i.type).isSome (fun d t =>
        let half := 16 * immBits i 5 1
        let l := (List.range 16).map (fun k =>
          if i.type = 0 then Fmt.fp32.decode (element (t.vreg i.src1) 32 k)
          else Fmt.bf16.decode (element (t.vreg i.src1) 16 (half + k)))
        let lane := fun k => if i.type = 0 then min k 15 else (half + min k 15) / 2
        match Fmt.fp32.decode (element (t.vreg i.src2) 32 0) with
        | .fin false (m + 1) e => t.putBlock i f.width (quantiseF16s f (m + 1) e l) lane
        | _ => t.elementwise i 32 (fun k => ((Config.freeLane d k).toNat, {})))
    | _ => s)

/-- The exact value of element `k` of the block in a register; `ts` is the tensor scale. -/
def blockValue (el : Elem) (sc : Scaling) (x : BitVec 512) (ts : Num) (k : Nat) : Num :=
  let p := el.decode (element x el.width k)
  match sc with
  | .plain => p
  | .mx => mxElem (element x 8 63) p
  | .f16s => (exactMul ts (f16sElem (element x 8 63) p)).getD (.nan false)

/-- DQ: the elements of the block in SRC1, of format IMM[4:0], as FP32 or packed BF16; IMM[5] names the half of the
block, or of DST, where only 16 elements fit or exist. -/
def execDq (v : Nat) (i : VWord) (s : State) : Host.Outcome State Fault Refusal :=
  .next (
    match formatOf (immBits i 0 5), floatType i.type with
    | some (el, sc), some f =>
      let half := 16 * immBits i 5 1
      s.vpure v (vs [i.dst, i.src1, i.src2]) (sc != .plain) (fun t =>
        let val := blockValue el sc (t.vreg i.src1) (Fmt.fp32.decode (element (t.vreg i.src2) 32 0))
        t.elementwise i f.width (fun k =>
          if f.width = 32 then f.convert i.rtz i.sat (val (if sc = .mx then half + k else k))
          else if sc = .mx then f.convert i.rtz i.sat (val k)
          else if half ≤ k ∧ k < half + 16 then f.convert i.rtz i.sat (val (k - half))
          else (element (t.vreg i.dst) f.width k, {})))
    | _, _ => s)

/-! Cross-lane -/

/-- SHUF: each lane takes the lane of SRC1 that the lane of SRC2 numbers; a number of 16 or more has no stated result. -/
def execShuf (v : Nat) (i : VWord) (s : State) : Host.Outcome State Fault Refusal :=
  .next (s.vfree v (vs [i.dst, i.src1, i.src2]) (i.type != 3) (fun d t =>
    t.elementwise i 32 (fun k =>
      let j := element (t.vreg i.src2) 32 k
      (if j < 16 then element (t.vreg i.src1) 32 j else (Config.freeLane d k).toNat, {}))))

/-- BCAST: element IMM[3:0] of SRC1, or IMM[4:0] in packed BF16, in every lane. -/
def execBcast (v : Nat) (i : VWord) (s : State) : Host.Outcome State Fault Refusal :=
  .next (s.vpure v (vs [i.dst, i.src1]) (i.type != 3) (fun t =>
    if i.type = 1 then t.elementwise i 16 (fun _ => (element (t.vreg i.src1) 16 (immBits i 0 5), {}))
    else t.elementwise i 32 (fun _ => (element (t.vreg i.src1) 32 (immBits i 0 4), {}))))

/-- A reduction of the unmasked elements. -/
def State.vreduce (s : State) (v : Nat) (i : VWord) (flt : Fmt → List Nat → Nat × Flags) (int : List Nat → Nat) :
    State :=
  s.vpure v (vs [i.dst, i.src1]) (i.type != 3) (fun t =>
    match floatType i.type with
    | some f => t.reduceInto i f.width (flt f (t.activeElements i f.width))
    | none => t.reduceInto i 32 (int (t.activeElements i 32), {}))

/-- RSUM. -/
def execRsum (v : Nat) (i : VWord) (s : State) : Host.Outcome State Fault Refusal := .next (s.vreduce v i floatSum intSum)

/-- RMAX. -/
def execRmax (v : Nat) (i : VWord) (s : State) : Host.Outcome State Fault Refusal :=
  .next (s.vreduce v i (fun f => floatExtreme f true) (intExtreme true))

/-- RMIN. -/
def execRmin (v : Nat) (i : VWord) (s : State) : Host.Outcome State Fault Refusal :=
  .next (s.vreduce v i (fun f => floatExtreme f false) (intExtreme false))

/-- PSCAN: each unmasked element becomes the sum of the unmasked elements up to it. -/
def execPscan (v : Nat) (i : VWord) (s : State) : Host.Outcome State Fault Refusal :=
  .next (s.vpure v (vs [i.dst, i.src1]) (i.type != 3) (fun t =>
    let upTo := fun w k => ((List.range (k + 1)).filter (fun j => t.lane i (laneOf w j))).map
      (fun j => element (t.vreg i.src1) w j)
    match floatType i.type with
    | some f => t.elementwise i f.width (fun k => floatSum f (upTo f.width k))
    | none => t.elementwise i 32 (fun k => (intSum (upTo 32 k), {}))))

/-! Random -/

/-- RNG: sixteen lanes that nothing in the spec determines. -/
def execRng (v : Nat) (i : VWord) (s : State) : Host.Outcome State Fault Refusal :=
  .next (s.vfree v (vs [i.dst]) true (fun d t => t.elementwise i 32 (fun k => ((Config.freeLane d k).toNat, {}))))

/-! Scalar and control -/

/-- An operation of the scalar ALU; a shift by 64 or more has no stated result (log 13). -/
def alu (op : AluOp) (draw : Nat) (a b : Word) : Word :=
  let sh := fun r : Word => if b.toNat < 64 then r else Config.freeWord draw
  match op with
  | .add => a + b
  | .sub => a - b
  | .mul => a * b
  | .and => a &&& b
  | .or => a ||| b
  | .xor => a ^^^ b
  | .shl => sh (a <<< b.toNat)
  | .shr => sh (a >>> b.toNat)
  | .sar => sh (a.sshiftRight b.toNat)
  | .lessSigned => if a.slt b then 1 else 0
  | .lessUnsigned => if a.ult b then 1 else 0

/-- SCALAR_ALU: X[DST] becomes the operation of X[SRC1] and X[SRC2], or of X[SRC1] and the immediate (log 12). -/
def execScalarAlu (v : Nat) (op : AluOp) (useImm : Bool) (i : VWord) (s : State) : Host.Outcome State Fault Refusal :=
  .next (s.vfree v (xs ([i.dst, i.src1] ++ if useImm then [] else [i.src2])) true (fun d t =>
    t.setX i.dst (alu op d (t.xreg i.src1) (if useImm then immX i else t.xreg i.src2))))

/-- The branch target: the immediate counted from the branch itself (log 12). -/
def VTask.branch (t : VTask) (i : VWord) : VTask := { t with pc := t.pc + i.imm.truncate 12 }

/-- BR. -/
def execBr (v : Nat) (i : VWord) (s : State) : Host.Outcome State Fault Refusal :=
  .next (s.vrun v [] true (fun t s => s.setTask v (some (t.branch i))))

/-- BRZ: the branch is taken when X[SRC1] is 0. -/
def execBrz (v : Nat) (i : VWord) (s : State) : Host.Outcome State Fault Refusal :=
  .next (s.vrun v (xs [i.src1]) true (fun t s =>
    s.setTask v (some (if t.xreg i.src1 = 0 then t.branch i else t.next))))

/-- LOOP: X[DST] is lowered by 1; the branch is taken while it is not 0. -/
def execLoop (v : Nat) (i : VWord) (s : State) : Host.Outcome State Fault Refusal :=
  .next (s.vrun v (xs [i.dst]) true (fun t s =>
    let w := t.xreg i.dst - 1
    let t := t.setX i.dst w
    s.setTask v (some (if w = 0 then t.next else t.branch i))))

/-- SYSRD: the system value that IMM[2:0] numbers: CORE, CLUSTER, STAND, STEP, CYCLE. The cycle count is open. -/
def execSysrd (v : Nat) (i : VWord) (s : State) : Host.Outcome State Fault Refusal :=
  .next (s.vfree v (xs [i.dst]) (immBits i 0 3 < 5) (fun d t =>
    t.setX i.dst (match immBits i 0 3 with
      | 0 => BitVec.ofNat 64 v
      | 1 => BitVec.ofNat 64 (v / 864)
      | 2 => BitVec.ofNat 64 t.stand
      | 3 => BitVec.ofNat 64 (s.fld Fld.SCH_STEP_COUNT t.stand % 2 ^ 32)
      | _ => Config.freeWord d)))

/-- FLGRD: X[DST] receives FLAGS. -/
def execFlgrd (v : Nat) (i : VWord) (s : State) : Host.Outcome State Fault Refusal :=
  .next (s.vpure v (xs [i.dst]) true (fun t => t.setX i.dst (BitVec.ofNat 64 t.flags.toNat)))

/-- FLGCLR: FLAGS are cleared. -/
def execFlgclr (v : Nat) (_i : VWord) (s : State) : Host.Outcome State Fault Refusal :=
  .next (s.vpure v [] true (fun t => { t with flags := Flags.none }))

end Sys2Proof.Machine
end

