-- ==== Sys2Proof/Machine/Kv.lean ====
section
/-! DEFINITION. The KV manager: pages written, sealed, reopened, copied and poisoned; commands; commit and pruning
(05_attention_state.md R104-R119, R125, R449). -/

namespace Sys2Proof.Machine

open Sys2Proof

/-- KVM_ERROR with its context (R126). -/
def State.flagKv (s : State) (f : Field) (n seq layer d : Nat) : State :=
  s.flagError f n (fun s => s.setReg .KVM_ERROR_INFO n 0
    (seq % 2 ^ 32 + layer % 64 * 2 ^ 32 + d % 4 * 2 ^ 38 + d / 4 % 8 * 2 ^ 40))

/-- The sequence number that stands for no sequence in KVM_ERROR_INFO. -/
def noSeq : Nat := 0xFFFFFFFF

/-- The number of the stand's step, low 32 bits. -/
def State.stepLow (s : State) (n : Nat) : Nat := s.fld Fld.SCH_STEP_COUNT n % 2 ^ 32

/-! Canopy nodes (09_state_movement.md R215) -/

/-- The nodes of every anchor that references a page that became POISONED, where they reach beyond the page's first
position. -/
def State.dropPoisoned (s : State) (n : Nat) (p : Pool) (g : KvGroup) (t i : Nat) : State :=
  let st := s.stand n
  let gone := st.canopy.filter (fun e =>
    let r := s.seqRecord n p e.2.anchor
    e.2.model == g.num / 4 && s.seqValid n p e.2.anchor && r.model == g.num / 4 &&
    (List.range (r.pages g)).any (fun k =>
      let x := s.ptEntry n r g k
      x.set == t && x.references i && k * g.tpp < 64 * e.2.depth))
  if gone.isEmpty then s else s.dropNodes n (gone.map (·.1))

/-! Pages -/

/-- A page whose read failed is POISONED, its storage freed at once (Table 5.7; 06_block_compression.md R141). -/
def State.poisonPage (s : State) (n : Nat) (p : Pool) (seq : Nat) (g : KvGroup) (t i addr : Nat) (e : BlockError) : State :=
  let s := s.setHeader n g t i { s.pageHeader n g t i with state := 3 }
  ((s.flagBlock n addr e).flagKv Fld.KVM_ERROR_STATE_LOST n seq i g.num).dropPoisoned n p g t i

/-- The stored bytes of a page, or the address that could not be read. -/
def State.pageStored (s : State) (n : Nat) (h : PageHeader) : Except Nat (List Byte) :=
  let len := if h.state = 2 then h.granules * kvGranule else kvFrame
  match s.peek n h.location len with
  | .ok bs => .ok bs
  | _ => .error h.location

/-- The offset of block `j` of a sealed page. -/
def PageHeader.blockOffset (h : PageHeader) (j : Nat) : Nat := ((List.range j).map h.blockSize).foldl (· + ·) 0

/-- Blocks `j` on of a sealed page decoded from its stored bytes; the offset of one that fails. -/
def decodeBlocks (g : KvGroup) (h : PageHeader) (bs : List Byte) : Nat → Nat → Except (Nat × BlockError) (List Byte)
  | 0, _ => .ok []
  | k + 1, j =>
    match decodeBlock 2 (· == g.fmt) [] (h.blockSize j / kvGranule - 1) (sub bs (h.blockOffset j) (h.blockSize j)) with
    | .error e => .error (h.blockOffset j, e)
    | .ok b =>
      match decodeBlocks g h bs k (j + 1) with
      | .ok rest => .ok (b ++ rest)
      | .error e => .error e

/-- The 32 KiB of a page; or where and how its read failed. -/
def State.pageClear (s : State) (n : Nat) (g : KvGroup) (h : PageHeader) : Except (Nat × BlockError) (List Byte) :=
  match s.pageStored n h with
  | .error a => .error (a, ⟨0, 7, 0, 0⟩)
  | .ok bs =>
    if h.state = 2 then
      (match decodeBlocks g h bs 8 0 with
       | .ok b => .ok b
       | .error (o, e) => .error (h.location + o, e))
    else .ok bs

/-- Blocks decoded for the stand counted. -/
def State.countDecoded (s : State) (n k : Nat) : State := s.addFld Fld.CMP_BLOCKS_DECODED_COUNT n 0 k

/-- An OPEN page given to layer `i` of set `t`, zeroed; none where no frame is free (R111, R112). -/
def State.openPage (s : State) (n : Nat) (p : Pool) (g : KvGroup) (t i : Nat) : Option State :=
  (s.kvFreeFrame n p).map (fun f =>
    let a := p.frameAddr + kvFrame * f
    (s.standWrite n a (zeros kvFrame)).setHeader n g t i { state := 1, refs := 1, firstStep := s.stepLow n, location := a })

/-- A new page set: the lowest-numbered free one with a frame for each page; none on a shortage, with nothing taken
(R108, R112). -/
def State.newSet (s : State) (n : Nat) (p : Pool) (g : KvGroup) : Option (State × Nat) :=
  (s.kvFreeSet n g).bind (fun t =>
    ((List.range g.layers).foldl (fun (o : Option State) i => o.bind (fun s => s.openPage n p g t i)) (some s)).map
      (fun s => (s, t)))

/-- One reference of a page dropped; at 0 the page is FREE (Table 5.7). -/
def State.dropPage (s : State) (n : Nat) (g : KvGroup) (t i : Nat) : State :=
  let h := s.pageHeader n g t i
  s.setHeader n g t i (if h.refs ≤ 1 then { h with refs := 0, state := 0 } else { h with refs := h.refs - 1 })

/-- One reference of a page added. -/
def State.holdPage (s : State) (n : Nat) (g : KvGroup) (t i : Nat) : State :=
  let h := s.pageHeader n g t i
  s.setHeader n g t i { h with refs := h.refs + 1 }

/-- The copy of one page for a writer (R117); none where no storage is free. -/
def State.copyPage (s : State) (n : Nat) (p : Pool) (seq : Nat) (g : KvGroup) (t t' i : Nat) : Option State :=
  let h := s.pageHeader n g t i
  match s.pageStored n h with
  | .error a =>
    if h.state = 3 then some ((s.setHeader n g t' i { h with refs := 1 }).dropPage n g t i)
    else
      let s := s.poisonPage n p seq g t i a ⟨0, 7, 0, 0⟩
      some ((s.setHeader n g t' i { h with refs := 1, state := 3 }).dropPage n g t i)
  | .ok bs =>
    if h.state = 3 then some ((s.setHeader n g t' i { h with refs := 1 }).dropPage n g t i)
    else
      let place := if h.state = 2 then (s.kvFreeRun n p h.granules).map (kvGranule * ·)
        else (s.kvFreeFrame n p).map (kvFrame * ·)
      place.map (fun o =>
        let a := p.frameAddr + o
        ((s.standWrite n a bs).setHeader n g t' i { h with refs := 1, location := a }).dropPage n g t i)

/-- The copy of a set for a writer, its entry pointed at the copy; none on a shortage (R117). -/
def State.copySet (s : State) (n : Nat) (p : Pool) (seq : Nat) (r : SeqRecord) (g : KvGroup) (k : Nat) (e : PtEntry) :
    Option (State × Nat) :=
  (s.kvFreeSet n g).bind (fun t' =>
    ((List.range g.layers).foldl (fun (o : Option State) i =>
      if e.references i then o.bind (fun s => s.copyPage n p seq g e.set t' i)
      else o.map (fun s => s.setHeader n g t' i {})) (some s)).map (fun s =>
        ((s.setPt n r g k { e with set := t' }).addFld Fld.KVM_COW_COPIES_COUNT n 0 1, t')))

/-- A SEALED page reopened: decompressed into a free frame, its granules freed; none where no frame is free. A page that
does not decode is POISONED. -/
def State.reopen (s : State) (n : Nat) (p : Pool) (seq : Nat) (g : KvGroup) (t i : Nat) : Option State :=
  let h := s.pageHeader n g t i
  (s.kvFreeFrame n p).map (fun f =>
    match s.pageClear n g h with
    | .error (a, e) => s.poisonPage n p seq g t i a e
    | .ok bs =>
      let a := p.frameAddr + kvFrame * f
      ((s.standWrite n a bs).setHeader n g t i { h with state := 1, location := a }).countDecoded n 8)

/-- What stands in the way of a write. -/
inductive Ready where
  | page (set : Nat)
  | full
  /-- The page is POISONED, or the sequence no longer references it. -/
  | lost
  deriving DecidableEq, Repr

/-- The page of a position made writable: steps 1 to 3 of R111. -/
def State.ready (s : State) (n : Nat) (p : Pool) (seq : Nat) (r : SeqRecord) (g : KvGroup) (i k : Nat) : State × Ready :=
  let e := s.ptEntry n r g k
  if !e.valid then
    match s.newSet n p g with
    | none => (s, .full)
    | some (s, t) => (s.setPt n r g k { set := t, valid := true }, .page t)
  else if !e.references i then (s, .lost)
  else
    let h := s.pageHeader n g e.set i
    if h.state = 3 then (s, .lost)
    else
      let copied := if 1 < h.refs then s.copySet n p seq r g k e else some (s, e.set)
      match copied with
      | none => (s, .full)
      | some (s, t) =>
        match (s.pageHeader n g t i).state with
        | 2 =>
          (match s.reopen n p seq g t i with
           | none => (s, .full)
           | some s => (s, if (s.pageHeader n g t i).state = 3 then .lost else .page t))
        | 3 => (s, .lost)
        | _ => (s, .page t)

/-! Elements (R106, R111) -/

/-- `l` cut into runs of `k`. -/
def chunks {α : Type} (k : Nat) (l : List α) : List (List α) :=
  (List.range (l.length / k)).map (fun j => (l.drop (k * j)).take k)

/-- The elements of one head and token as the page stores them: element bytes, and scale bytes for MX formats. -/
def KvGroup.stored (g : KvGroup) (scale : Nat) (xs : List Num) : List Byte × List Byte :=
  match formatOf g.fmt with
  | some (el, .mx) =>
    let q := (chunks 32 xs).map (quantiseMx el)
    (q.flatMap (fun b => b.elems.map (BitVec.ofNat 8)), q.map (fun b => BitVec.ofNat 8 b.scale))
  | some (el, _) =>
    let f := Fmt.fp32
    (xs.map (fun x => BitVec.ofNat 8 (el.convert false true (f.decode (f.div x (f.decode scale)).1)).1), [])
  | none => ([], [])

/-- Keys or values of head `h` written at a slot of a page in its frame (R106). -/
def State.putHead (s : State) (n : Nat) (g : KvGroup) (base slot h : Nat) (value : Bool) (xs : List Num) : State :=
  let (el, sc) := g.stored (if value then g.vScale else g.kScale) xs
  let half := g.heads * g.tpp * g.dim
  let at_ := (h * g.tpp + slot) * g.dim
  let s := s.standWrite n (base + (if value then half else 0) + at_) el
  if sc.isEmpty then s
  else s.standWrite n (base + 2 * half + (if value then half / 32 else 0) + at_ / 32) sc

/-! Append records (R111, R112, R115) -/

/-- The 64 B header of an append record. -/
structure AppendHeader where
  seq : Nat
  group : Nat
  layer : Nat
  head : Nat
  heads : Nat
  src : Nat
  pos : Nat
  count : Nat
  deriving DecidableEq, Repr

/-- The header of a record. -/
def AppendHeader.ofBytes (b : List Byte) : AppendHeader :=
  let w := le b 0 8
  { seq := bits w 0 32, group := bits w 32 2, layer := bits w 34 6, head := bits w 40 8, heads := bits w 48 8,
    src := bits w 56 5, pos := le b 8 4, count := le b 12 2 }

/-- Bytes of a source element. -/
def AppendHeader.width (a : AppendHeader) : Nat := if a.src = 0 then 4 else 2

/-- The elements of one head and token of a record's data. -/
def AppendHeader.elems (a : AppendHeader) (dim : Nat) (data : List Byte) (token h : Nat) (value : Bool) : List Num :=
  let f := if a.src = 0 then Fmt.fp32 else Fmt.bf16
  let off := (((token * a.heads + h) * 2 + b01 value) * dim) * a.width
  (List.range dim).map (fun e => f.decode (le data (off + a.width * e) a.width))

/-- The key of the end of a sequence's appends in a step, for a head of a layer. -/
def AppendHeader.endKey (a : AppendHeader) (h : Nat) : Nat :=
  ((a.seq * 4 + a.group) * 64 + a.layer) * 256 + h

/-- The record fits the pool: SEQ VALID, its group, layer and heads exist, its format and length are right, and its
positions lie in the page table. -/
def State.appendOk (s : State) (n : Nat) (p : Pool) (a : AppendHeader) (len : Nat) : Bool :=
  let r := s.seqRecord n p a.seq
  let g := s.kvGroup n p (4 * r.model + a.group)
  s.seqValid n p a.seq && g.enable && g.tpp != 0 && a.layer < g.layers && a.heads != 0 && a.head + a.heads ≤ g.heads &&
  a.src ≤ 1 && a.count != 0 && 64 + a.count * a.heads * 2 * g.dim * a.width ≤ len &&
  ((List.range a.count).map (fun j => (g.place (a.pos + j)).1)).all (fun k =>
    k < (r.table g).2 && !(s.ptEntry n r g k).remote)

/-- The requests of the step of stand `n` that name a sequence. -/
def State.seqRequests (s : State) (n seq : Nat) : List Nat :=
  match (s.stand n).step with
  | none => []
  | some st => distinct ((st.rows.filter (fun w => w.kind != .padding && w.seq == seq)).map (·.req))

/-- Draft tokens of a sequence in the present speculative turn: their positions lie beyond LENGTH. -/
def State.seqDrafts (s : State) (n seq : Nat) : Nat :=
  match (s.stand n).requests.find? (fun r => (s.seqRequests n seq).contains r.id) with
  | some r => if ((s.stand n).step.map (·.draft)).getD false then r.drafts.length else 0
  | none => 0

/-- The position that the next append of a head must have (R115). -/
def State.appendNext (s : State) (n : Nat) (p : Pool) (a : AppendHeader) (h : Nat) : Nat :=
  match ((s.stand n).step.bind (fun st => st.appendEnd.get? (a.endKey h))) with
  | some e => e
  | none => (s.seqRecord n p a.seq).length + s.seqDrafts n a.seq

/-- The slot of a sequence's requests marked with a cause. -/
def State.markSeq (s : State) (n seq : Nat) (c : NoToken) : State :=
  (s.seqRequests n seq).foldl (fun s r => s.withhold n r c) s

/-- One token of a record written; the Bool says that the sequence may go on. -/
def State.appendToken (s : State) (n : Nat) (p : Pool) (a : AppendHeader) (g : KvGroup) (data : List Byte) (j : Nat) :
    State × Bool :=
  let r := s.seqRecord n p a.seq
  let (k, slot) := g.place (a.pos + j)
  match s.ready n p a.seq r g a.layer k with
  | (s, .full) =>
    (((s.updStep n (fun st => { st with kvFull := a.seq :: st.kvFull })).markSeq n a.seq .kvFull).flagKv
      Fld.KVM_ERROR_KV_FULL n a.seq a.layer g.num, false)
  | (s, .lost) => (s, true)
  | (s, .page t) =>
    let h := s.pageHeader n g t a.layer
    let s := (List.range a.heads).foldl (fun s x =>
      (s.putHead n g h.location slot (a.head + x) false (a.elems g.dim data j x false)).putHead n g h.location slot
        (a.head + x) true (a.elems g.dim data j x true)) s
    (s.setHeader n g t a.layer { h with tokens := max h.tokens (slot + 1) }, true)

/-- `k` tokens of a record written from token `j` on. -/
def State.appendTokens (s : State) (n : Nat) (p : Pool) (a : AppendHeader) (g : KvGroup) (data : List Byte) :
    Nat → Nat → State
  | 0, _ => s
  | k + 1, j =>
    match s.appendToken n p a g data j with
    | (s, true) => s.appendTokens n p a g data k (j + 1)
    | (s, false) => s

/-- An append record whose checks passed: written, or its segment refused (R115), or nothing for a sequence that met
KV_FULL (R112). -/
def State.appendRecord (s : State) (n : Nat) (p : Pool) (a : AppendHeader) (data : List Byte) : State :=
  let g := s.kvGroup n p (4 * (s.seqRecord n p a.seq).model + a.group)
  let hs := (List.range a.heads).map (a.head + ·)
  if ((s.stand n).step.map (·.kvFull)).getD [] |>.contains a.seq then s
  else if hs.any (fun h => s.appendNext n p a h != a.pos) then
    (s.markSeq n a.seq .segmentInvalid).flagKv Fld.KVM_ERROR_SEGMENT_INVALID n a.seq a.layer g.num
  else
    let s := s.appendTokens n p a g data a.count 0
    s.updStep n (fun st => { st with
      appendEnd := hs.foldl (fun m h => m.set (a.endKey h) (a.pos + a.count)) st.appendEnd })

/-! Memory errors in the pool (R125) -/

/-- The pages of the pool whose storage a range of stand addresses meets. -/
def State.pagesMet (s : State) (n : Nat) (p : Pool) (a len : Nat) : List (KvGroup × Nat × Nat × PageHeader) :=
  if a + len ≤ p.frameAddr ∨ p.frameAddr + kvFrame * p.frames ≤ a then []
  else
    let lo := (a - p.frameAddr) / kvGranule
    let hi := (a + len - p.frameAddr + kvGranule - 1) / kvGranule
    (s.kvPages n p).filter (fun x => match x.2.2.2.claim p with
      | some (cl, ch) => meets cl ch lo hi
      | none => false)

/-- The pages of the pool stored where a read failed become POISONED. -/
def State.poisonKvAt (s : State) (n seq a len : Nat) : State :=
  match (s.stand n).kv.pool with
  | none => s
  | some p =>
    (s.pagesMet n p a len).foldl (fun s x =>
      match s.pageStored n x.2.2.2 with
      | .error b => s.poisonPage n p seq x.1 x.2.1 x.2.2.1 b ⟨0, 7, 0, 0⟩
      | .ok _ => s) s

/-! Sealed pages read by tasks (R125; 06_block_compression.md R140, R141): the decoders in a cluster's transfer path -/

/-- A SEALED page read over a range: each block met is decoded and counted, and the first that fails poisons the page.
The Bool says whether all were good. -/
def State.decodeMet (s : State) (n : Nat) (p : Pool) (seq a len : Nat) (x : KvGroup × Nat × Nat × PageHeader) :
    State × Bool :=
  let (g, t, i, h) := x
  let at_ := fun j => h.location + h.blockOffset j
  let js := (List.range 8).filter (fun j => meets (at_ j) (at_ j + h.blockSize j) a (a + len))
  let bad := js.findSome? (fun j =>
    match s.peek n (at_ j) (h.blockSize j) with
    | .ok bs =>
      (match decodeBlock 2 (· == g.fmt) [] (h.blockSize j / kvGranule - 1) bs with
       | .ok _ => none
       | .error e => some (at_ j, e))
    | _ => some (at_ j, ⟨0, 7, 0, 0⟩))
  let s := s.countDecoded n js.length
  match bad with
  | none => (s, true)
  | some (b, e) => (s.poisonPage n p seq g t i b e, false)

/-- The SEALED pages that a task's read of a range meets. -/
def State.readSealed (s : State) (n seq a len : Nat) : State × Bool :=
  match (s.stand n).kv.pool with
  | none => (s, true)
  | some p =>
    ((s.pagesMet n p a len).filter (·.2.2.2.state == 2)).foldl (fun (acc : State × Bool) x =>
      let (s, ok) := acc.1.decodeMet n p seq a len x
      (s, acc.2 && ok)) (s, true)

/-- The bytes that a task's read of a range delivers: where a SEALED page is stored they come from its decoder, and by
which addresses a task names the decoded bytes is not given: they are open. -/
def State.sealedOpen (s : State) (n a : Nat) (bs : List Byte) : State × List Byte :=
  match (s.stand n).kv.pool with
  | none => (s, bs)
  | some p =>
    let runs := ((s.pagesMet n p a bs.length).filter (·.2.2.2.state == 2)).map (fun x =>
      (x.2.2.2.location, x.2.2.2.location + x.2.2.2.granules * kvGranule))
    if runs.isEmpty then (s, bs)
    else
      ({ s with freeCtr := s.freeCtr + 1 }, bs.zipIdx.map (fun b =>
        if runs.any (fun r => decide (r.1 ≤ a + b.2) && decide (a + b.2 < r.2)) then Config.freeByte s.freeCtr (a + b.2)
        else b.1))

/-! Sealing (R113, R129) -/

/-- A page put on, or taken off, the list of those that wait for a run of granules. -/
def State.awaitRun (s : State) (n : Nat) (pg : Nat × Nat) (on : Bool) : State :=
  s.updStand n (fun st =>
    let rest := st.kv.unsealed.filter (· != pg)
    { st with kv := { st.kv with unsealed := if on then rest ++ [pg] else rest } })

/-- An OPEN page sealed. `first` says that LENGTH has just come to cover it: a page with a raw block is counted then. -/
def State.sealPage (s : State) (n : Nat) (p : Pool) (seq : Nat) (g : KvGroup) (t i : Nat) (first : Bool) : State :=
  let h := s.pageHeader n g t i
  let num := t * g.layers + i
  let wait := fun (s : State) (on : Bool) => s.awaitRun n (g.num, num) on
  if h.state ≠ 1 then wait s false
  else
    match s.pageStored n h with
    | .error a => wait (s.poisonPage n p seq g t i a ⟨0, 7, 0, 0⟩) false
    | .ok bs =>
      let enc := (chunks 4096 bs).map (kEncode g.fmt (channelOf g.dim))
      if enc.any Option.isNone then wait (if first then s.addFld Fld.CMP_KV_UNSEALED_COUNT n 0 1 else s) false
      else
        let enc : List (Nat × List Byte) := enc.filterMap id
        let h' := { h with state := 2, classes := (enc.zipIdx.map (fun e : (Nat × List Byte) × Nat => e.1.1 * 2 ^ (4 * e.2))).foldl (· + ·) 0 }
        match s.kvFreeRun n p h'.granules with
        | none => wait s true
        | some r =>
          let a := p.frameAddr + kvGranule * r
          wait ((s.standWrite n a (enc.flatMap (·.2))).setHeader n g t i { h' with location := a }) false

/-- The end of the positions written for a sequence: LENGTH, or the end of its appends in the step (R114). -/
def State.writtenEnd (s : State) (n seq len : Nat) : Nat :=
  match (s.stand n).step with
  | none => len
  | some st => ((st.appendEnd.filter (fun e => e.1 / 65536 == seq)).map (·.2)).foldl max len

/-- The logical pages of a group whose last slot LENGTH comes to cover when it goes from `a` to `b` (R113). -/
def State.covered (s : State) (n : Nat) (seq a b : Nat) (g : KvGroup) : List Nat :=
  if g.ring then
    let ring := g.ringPages * g.tpp
    let w := s.writtenEnd n seq b
    (List.range g.ringPages).filter (fun k =>
      let q := k * g.tpp
      if w ≤ q then false
      else
        let first := w - 1 - (w - 1 - q) % ring
        let last := first + g.tpp - 1
        a ≤ last && last < b)
  else ((List.range (b / g.tpp - a / g.tpp)).map (a / g.tpp + ·))

/-- LENGTH of a sequence advanced at a commit, and the pages that it covers sealed. -/
def State.advance (s : State) (n : Nat) (p : Pool) (seq len : Nat) : State :=
  let r := s.seqRecord n p seq
  let s := s.setLength n p seq len
  (s.kvGroups n p r.model).foldl (fun s g =>
    (s.covered n seq r.length len g).foldl (fun s k =>
      let e := s.ptEntry n r g k
      (List.range g.layers).foldl (fun s i => if e.references i then s.sealPage n p seq g e.set i true else s) s) s) s

/-- The pages that wait for a run of granules offered one again. -/
def State.sealWaiting (s : State) (n : Nat) (p : Pool) : State :=
  (s.stand n).kv.unsealed.foldl (fun s e =>
    let g := s.kvGroup n p e.1
    s.sealPage n p noSeq g (e.2 / g.layers) (e.2 % g.layers) false) s

/-! Pruning (R119) -/

/-- The rank of a page: SCORE ÷ (STEP − FIRST_STEP + 1) in FP32. -/
def pageRank (step : Nat) (h : PageHeader) : Num :=
  let f := Fmt.fp32
  let age := (step + 2 ^ 32 - h.firstStep) % 2 ^ 32 + 1
  f.decode (f.div (f.decode h.score) (f.decode (f.convert false false (.fin false age 0)).1)).1

/-- A rank lies below another: NaN lowest, then by value. -/
def rankBelow (a b : Num) : Bool := if b.isNan then false else if a.isNan then true else decide (a.cmp b < 0)

/-- One page of layer `i` pruned, where the layer is above its budget and has a candidate. -/
def State.pruneOne (s : State) (n : Nat) (r : SeqRecord) (g : KvGroup) (i : Nat) : State × Bool :=
  let live := (List.range (r.pages g)).filter (fun k => (s.ptEntry n r g k).references i)
  let recent := if r.length = 0 then 0 else (r.length - 1) / g.tpp + 1 - g.recentPages
  let cand := if r.length = 0 then [] else live.filter (fun k => g.sinkPages ≤ k && k < recent)
  let rank := fun k => pageRank (s.stepLow n) (s.pageHeader n g (s.ptEntry n r g k).set i)
  if live.length ≤ g.pruneBudget then (s, false)
  else
    match cand with
    | [] => (s, false)
    | c :: cs =>
      let k := cs.foldl (fun best k => if rankBelow (rank k) (rank best) then k else best) c
      let e := s.ptEntry n r g k
      (((s.setPt n r g k { e with mask := e.mask ||| 2 ^ i }).dropPage n g e.set i).addFld Fld.KVM_PRUNED_COUNT n 0 1, true)

/-- Pages of a layer pruned down to the budget. -/
def State.pruneLayer (s : State) (n : Nat) (r : SeqRecord) (g : KvGroup) (i : Nat) : Nat → State
  | 0 => s
  | fuel + 1 => match s.pruneOne n r g i with
    | (s, true) => s.pruneLayer n r g i fuel
    | (s, false) => s

/-- Pruning at a commit: every sequence, every group with PRUNE 1, layer by layer. -/
def State.prune (s : State) (n : Nat) (p : Pool) : State :=
  ((List.range p.seqMax).filter (s.seqValid n p)).foldl (fun s q =>
    let r := s.seqRecord n p q
    ((s.kvGroups n p r.model).filter (·.prune)).foldl (fun s g =>
      (List.range g.layers).foldl (fun s i => s.pruneLayer n r g i (r.pages g)) s) s) s

/-! Commands (R118, R449) -/

/-- The references of a logical page dropped and its entry cleared. -/
def State.dropEntry (s : State) (n : Nat) (r : SeqRecord) (g : KvGroup) (k : Nat) : State :=
  let e := s.ptEntry n r g k
  if !e.valid then s
  else
    let s := (List.range g.layers).foldl (fun s i => if e.references i then s.dropPage n g e.set i else s) s
    s.setPt n r g k {}

/-- Every reference of a sequence dropped. -/
def State.dropAll (s : State) (n : Nat) (p : Pool) (seq : Nat) : State :=
  let r := s.seqRecord n p seq
  (s.kvGroups n p r.model).foldl (fun s g => (List.range (r.table g).2).foldl (fun s k => s.dropEntry n r g k) s) s

/-- The model number names a program that the image installs (16_configuration_image.md Table 16.4). -/
def State.installed (s : State) (n m : Nat) : Bool := ((s.stand n).cfg.models.get? m).isSome

/-- CREATE: the result, 0 or BAD_COMMAND. -/
def State.kvCreate (s : State) (n : Nat) (p : Pool) (c : DeviceCommand) : State × Nat :=
  let words := if c.tables.isEmpty then
      (match s.peek n c.addr 32 with | .ok b => if c.addr % 8 = 0 then some b else none | _ => none)
    else some (c.tables.flatMap (toBytes 8))
  let s := if c.tables.isEmpty && c.addr % 8 == 0 then s.noted n c.addr 32 else s
  match words with
  | none => (s, 0x10)
  | some b =>
    let m := c.src % 8
    let tab := fun g => (le b (8 * g) 6, if le b (8 * g + 6) 2 = 0 then 1048576 else 16 * le b (8 * g + 6) 2)
    let gs := s.kvGroups n p m
    let bad := p.seqMax ≤ c.seq || s.seqValid n p c.seq || c.src / 8 != 0 || !s.installed n m ||
      gs.any (fun g => (tab (g.num % 4)).1 == 0) ||
      (List.range 4).any (fun g => (tab g).1 % 16 != 0 ||
        ((tab g).1 != 0 && !s.mappedRange n true (tab g).1 (16 * (tab g).2)))
    if bad then (s, 0x10)
    else
      let s := (List.range 4).foldl (fun s g =>
        if (tab g).1 = 0 then s else s.standWrite n (tab g).1 (zeros (16 * (tab g).2))) s
      (s.standWrite n (p.record c.seq) (toBytes 8 (2 ^ 32 + m * 2 ^ 33) ++ b ++ zeros 24), 0)

/-- The entries that a GRAFT takes for a group: by list, or from the source. -/
def State.graftEntries (s : State) (n : Nat) (r : SeqRecord) (g : KvGroup) (count : Nat) (src : SeqRecord ⊕ List Nat) :
    List PtEntry :=
  let k := min count (if g.ring then min g.ringPages (r.table g).2 else count)
  match src with
  | .inl q => (List.range k).map (s.ptEntry n q g)
  | .inr l => (l.take k).map (fun t =>
      { set := t, valid := true,
        mask := maskOf ((List.range g.layers).filter (fun i => (s.pageHeader n g t i).refs == 0)) })

/-- A GRAFT's entries may be taken: no set is out of range, free, REMOTE or POISONED, no count overflows, and the table
holds them. -/
def State.graftOk (s : State) (n : Nat) (r : SeqRecord) (g : KvGroup) (es : List PtEntry) : Bool :=
  es.length ≤ (r.table g).2 &&
  es.all (fun e => !e.remote && (!e.valid || (e.set < g.sets && !s.setFree n g e.set &&
    (List.range g.layers).all (fun i => !e.references i ||
      ((s.pageHeader n g e.set i).state != 3 &&
        (s.pageHeader n g e.set i).refs + (es.filter (fun x => x.valid && x.set == e.set)).length ≤ 2 ^ 32 - 1)))))

/-- Entries taken into a sequence's table. -/
def State.graftInto (s : State) (n : Nat) (r : SeqRecord) (g : KvGroup) (es : List PtEntry) : State :=
  es.zipIdx.foldl (fun s e =>
    let s := s.dropEntry n r g e.2
    let s := (List.range g.layers).foldl (fun s i => if e.1.references i then s.holdPage n g e.1.set i else s) s
    s.setPt n r g e.2 e.1) s

/-- The numbers of sets listed at a stand address, group by group. -/
def setList (b : List Byte) (count : Nat) (gs : List KvGroup) : SMap (List Nat) :=
  gs.zipIdx.map (fun e => (e.1.num % 4, (List.range count).map (fun k => le b (4 * (e.2 * count + k)) 4)))

/-- GRAFT: 0, BAD_COMMAND or GRAFT_REFUSED. -/
def State.kvGraft (s : State) (n : Nat) (p : Pool) (c : DeviceCommand) : State × Nat :=
  if !s.seqValid n p c.seq then (s, 0x10)
  else
    let r := s.seqRecord n p c.seq
    let gs := s.kvGroups n p r.model
    let listed : Option (SMap (List Nat)) :=
      if c.addr = 0 then some []
      else if c.addr % 8 ≠ 0 then none
      else match s.peek n c.addr (4 * c.count * gs.length) with
        | .ok b => some (setList b c.count gs)
        | _ => none
    let s := if c.addr % 8 = 0 ∧ c.addr ≠ 0 then s.noted n c.addr (4 * c.count * gs.length) else s
    match listed with
    | none => (s, 0x10)
    | some l =>
      let q := s.seqRecord n p c.src
      if r.length ≠ 0 ∨ (c.addr = 0 ∧ (!s.seqValid n p c.src ∨ q.model ≠ r.model)) then (s, 0x17)
      else
        let es := fun g : KvGroup => s.graftEntries n r g c.count
          (if c.addr = 0 then .inl q else .inr ((l.get? (g.num % 4)).getD []))
        let plan := gs.map (fun g => (g, es g))
        if plan.any (fun x => !s.graftOk n r x.1 x.2) then (s, 0x17)
        else
          let tpp := (gs.head?.map (·.tpp)).getD 0
          let len := if c.addr = 0 then min q.length (c.count * tpp) else c.count * tpp
          ((plan.foldl (fun s x => s.graftInto n r x.1 x.2) s).setLength n p c.seq len, 0)

/-- RELEASE. -/
def State.kvRelease (s : State) (n : Nat) (p : Pool) (seq : Nat) : State × Nat :=
  if !s.seqValid n p seq then (s, 0x10)
  else
    let s := (s.dropAll n p seq).updStand n (fun st => { st with sapway :=
      { st.sapway with histories := st.sapway.histories.del seq } })
    (s.standWrite n (p.record seq + 4) [BitVec.ofNat 8 ((s.peekLe n (p.record seq + 4) 1) / 2 * 2)], 0)

/-- The logical pages of a group that lie wholly beyond a length, for a sequence of length `old`. -/
def KvGroup.beyond (g : KvGroup) (old len k : Nat) : Bool :=
  if g.ring then
    let ring := g.ringPages * g.tpp
    (List.range g.tpp).all (fun x =>
      let q := k * g.tpp + x
      old ≤ q || len ≤ old - 1 - (old - 1 - q) % ring)
  else len ≤ k * g.tpp

/-- TRUNCATE. -/
def State.kvTruncate (s : State) (n : Nat) (p : Pool) (seq count : Nat) : State × Nat :=
  if !s.seqValid n p seq then (s, 0x10)
  else
    let r := s.seqRecord n p seq
    let len := min count r.length
    let s := (s.kvGroups n p r.model).foldl (fun s g =>
      (List.range (r.table g).2).foldl (fun s k => if g.beyond r.length len k then s.dropEntry n r g k else s) s) s
    (s.setLength n p seq len, 0)

/-- The reference changes of a HOLD, whose pages `sets` names by group: HOLDER and HOLD are written, the entries become
REMOTE and the local references are dropped (09_state_movement.md R210). -/
def State.kvHold (s : State) (n : Nat) (p : Pool) (c : DeviceCommand) : State × Nat :=
  if !s.seqValid n p c.seq then (s, 0x10)
  else
    let r := s.seqRecord n p c.seq
    let s := (s.standWrite n (p.record c.seq + 6) (toBytes 2 c.src)).standWrite n (p.record c.seq + 40) (toBytes 4 c.addr)
    (c.sets.foldl (fun s e =>
      let g := s.kvGroup n p (4 * r.model + e.1)
      e.2.foldl (fun s k =>
        let x := s.ptEntry n r g k
        let s := (List.range g.layers).foldl (fun s i => if x.references i then s.dropPage n g x.set i else s) s
        s.setPt n r g k { x with remote := true }) s) s, 0)

/-- A KV command applied: its result. A refused one sets BAD_COMMAND in KVM_ERROR. -/
def State.kvApply (s : State) (n : Nat) (p : Pool) (c : DeviceCommand) : State × Nat :=
  let (s, r) := match c.op with
    | 1 => s.kvCreate n p c
    | 2 => s.kvGraft n p c
    | 3 => s.kvRelease n p c.seq
    | 4 => s.kvTruncate n p c.seq c.count
    | 16 => s.kvHold n p c
    | _ => (s, 0x10)
  if r = 0 then (s, r) else (s.flagKv Fld.KVM_ERROR_BAD_COMMAND n c.seq 0 0, r)

/-- The KV manager applies commands: its pool is in use and its rebuild has ended. -/
def State.kvActive (s : State) (n : Nat) : Option Pool :=
  let k := (s.stand n).kv
  if k.rebuilding then none else k.pool

/-- A ring command's fields. -/
def ringKvCommand (e : List Byte) : DeviceCommand :=
  { op := le e 0 1, seq := le e 4 4, src := le e 8 4, count := le e 12 4, addr := le e 16 6 }

/-- The ring command at HEAD applied; the Bool says whether there was one. -/
def State.kvRingOne (s : State) (n : Nat) (p : Pool) : State × Bool :=
  match s.ringFront kvRing n 32 with
  | none => (s, false)
  | some e =>
    let (s, r) := s.kvApply n p (if le e 0 1 = 16 then { ringKvCommand e with op := 0 } else ringKvCommand e)
    ((s.ringResult kvRing n 32 r).updStand n (fun st => { st with kv := { st.kv with ringDone := st.kv.ringDone + 1 } }),
      true)

/-- Ring commands applied up to the TAIL. -/
def State.kvRingAll (s : State) (n : Nat) (p : Pool) : Nat → State
  | 0 => s
  | fuel + 1 => match s.kvRingOne n p with
    | (s, true) => s.kvRingAll n p fuel
    | (s, false) => s

/-- The device commands applied in the order issued. -/
def State.kvDeviceAll (s : State) (n : Nat) (p : Pool) : Nat → State
  | 0 => s
  | fuel + 1 =>
    match (s.stand n).kv.device with
    | [] => s
    | c :: cs =>
      let s := s.updStand n (fun st => { st with kv :=
        { st.kv with device := cs, deviceDone := st.kv.deviceDone + 1 } })
      ((s.kvApply n p c).1).kvDeviceAll n p fuel

/-- A point at which commands are applied: the ring up to TAIL, then the device's own (R449). -/
def State.kvPoint (s : State) (n : Nat) : State :=
  match s.kvActive n with
  | none => s
  | some p => (s.kvRingAll n p (2 ^ s.fld Fld.KVM_CMD_RING_SIZE_LOG2 n)).kvDeviceAll n p 8192

/-- Device commands applied at once when no step runs and the ring is empty. -/
def State.kvSettle (s : State) (n : Nat) : State :=
  if (s.stand n).step.isSome ∨ (s.ringEntry kvRing n 32).isSome then s
  else
    match s.kvActive n with
    | none => s
    | some p => s.kvDeviceAll n p 8192

/-! Enabling and disabling the pool (R104, R105, R123) -/

/-- The pool descriptor at a stand address; none where it cannot be read or a reserved field is set. -/
def State.readPool (s : State) (n a : Nat) : Option Pool :=
  match s.peek n a 64 with
  | .ok b =>
    let w := fun i => le b (8 * i) 8
    if a % 64 = 0 ∧ bits (w 0) 48 16 = 0 ∧ bits (w 2) 48 16 = 0 ∧ bits (w 3) 48 16 = 0 ∧ bits (w 4) 48 16 = 0 ∧
        bits (w 5) 48 16 = 0 ∧ w 7 / 2 ^ 16 = 0 then
      some { frameAddr := w 0, frames := bits (w 1) 0 32, seqMax := bits (w 1) 32 32, seqTable := w 2,
             groupTable := w 3, aperture := w 4, partialAddr := w 5, holderTable := bits (w 6) 0 48,
             holders := bits (w 6) 48 16, remoteKey := bits (w 7) 0 16 }
    else none
  | _ => none

/-- The checks of R104. -/
def State.poolOk (s : State) (n : Nat) (p : Pool) : Bool :=
  p.frameAddr % kvFrame == 0 && p.seqTable % 64 == 0 && p.groupTable % 64 == 0 && p.aperture % (64 * 2 ^ 30) == 0 &&
  p.frames != 0 && p.seqMax != 0 && decide (p.seqMax ≤ 16777216) &&
  s.mappedRange n true p.frameAddr (kvFrame * p.frames) && s.mappedRange n true p.seqTable (64 * p.seqMax) &&
  s.mappedRange n false p.groupTable 2048 &&
  (p.holders == 0 || (p.holderTable % 32 == 0 && s.mappedRange n false p.holderTable (32 * p.holders))) &&
  (p.remoteKey == 0 || (p.partialAddr % 8192 == 0 && (s.loc n p.partialAddr).isSome &&
    (s.jobKey n p.remoteKey).isSome))

/-- The stand's pool goes into use, and the rebuild begins. -/
def State.poolStart (s : State) (n : Nat) (p : Pool) : State :=
  s.updStand n (fun st => { st with kv := { st.kv with pool := some p, enabling := none, rebuilding := true } })

/-- The stand's pool goes out of use: the response buffers are revoked. -/
def State.poolStop (s : State) (n : Nat) : State :=
  let r := (s.stand n).kv.partialRegion
  let s := s.updStand n (fun st => { st with kv := { st.kv with
    pool := none, disabling := false, rebuilding := false, remotes := [], unsealed := [] } })
  match r with
  | some i => s.revoke i none
  | none => s

/-- A pool change that waited for the step boundary. -/
def State.poolBoundary (s : State) (n : Nat) : State :=
  let s := if (s.stand n).kv.disabling then s.poolStop n else s
  match (s.stand n).kv.enabling with
  | some p => s.poolStart n p
  | none => s

/-- The end of the run of mapped objects from a stand address on. -/
def State.mappedEnd (s : State) (n : Nat) : Nat → Nat → Nat
  | 0, a => a
  | fuel + 1, a =>
    match (s.stand n).tiers.objectAt a with
    | some (_, o) => s.mappedEnd n fuel (o.base + o.pages * pageSize)
    | none => a

/-- The response buffers registered as one region: REMOTE_WRITE only, over the mapped memory from PARTIAL_ADDR on, at most
the 32 GiB that the partial windows span. -/
def State.registerPartial (s : State) (n : Nat) (p : Pool) : State :=
  if p.remoteKey = 0 then s
  else
    let e := s.mappedEnd n ((s.stand n).tiers.objects.length + 1) p.partialAddr
    let r : Region := { base := p.partialAddr, len := min (32 * 2 ^ 30) (e - p.partialAddr), state := .active,
                        read := false, write := true, atomic := false, stand := n, gen := 0, keyHigh := 0,
                        keyId := p.remoteKey }
    let (s, i) := s.register n (s.hubOf n) r
    s.updStand n (fun st => { st with kv := { st.kv with partialRegion := i } })

/-- The rebuild (R105): pages that lie outside the pool or share storage become POISONED. -/
def State.rebuild (s : State) (n : Nat) (p : Pool) : State :=
  let pages := s.kvPages n p
  let bad := pages.filter (fun x => !(x.2.2.2.placed p))
  let good := pages.filter (fun x => x.2.2.2.placed p)
  let clash := good.filter (fun x => match x.2.2.2.claim p with
    | some (lo, hi) => good.any (fun y => (y.1.num, y.2.1, y.2.2.1) != (x.1.num, x.2.1, x.2.2.1) &&
        (match y.2.2.2.claim p with | some (a, b) => meets a b lo hi | none => false))
    | none => false)
  (bad ++ clash).foldl (fun s x =>
    (s.setHeader n x.1 x.2.1 x.2.2.1 { x.2.2.2 with state := 3 }).flagKv Fld.KVM_ERROR_STATE_LOST n noSeq x.2.2.1 x.1.num) s

/-! What a commit does in the pool -/

/-- Requests of the step whose sequence reads a POISONED page complete STATE_LOST (Table 5.11). -/
def State.withholdPoisoned (s : State) (n : Nat) (p : Pool) : State :=
  match (s.stand n).step with
  | none => s
  | some st =>
    (st.rows.filter (fun w => w.kind != .padding)).foldl (fun s w =>
      if s.seqValid n p w.seq && s.seqPoisoned n p w.seq then s.withhold n w.req .stateLost else s) s

end Sys2Proof.Machine
end

