-- ==== Sys2Proof/Machine/ChisynMem.lean ====
section
/-! DEFINITION. The Chisyn instructions that reach memory, END, and the placement and faults of tasks
(04_vector_cores.md R85-R87, R93-R99). -/

namespace Sys2Proof.Machine

open Sys2Proof

/-! Local store (R85) -/

/-- A local store instruction: each access checked, then carried out; a bad one ends the task with TASK_FAULT. -/
def State.vls (s : State) (v : Nat) (uses : List Nat) (ok : Bool) (acc : VTask → List (Nat × Nat))
    (f : VTask → State → State × VTask) : State :=
  s.vrun v uses ok (fun t s =>
    if (acc t).all (fun a => lsOk a.1 a.2) then
      let (s, t) := f t s
      s.setTask v (some t.next)
    else s.illegal v t)

/-- The width of an LD or ST of an X register, by SRC3; 0 is the 64 B form (log 12). -/
def scalarWidth (i : VWord) : Nat := i.src3.toNat

/-- The widths of LD and ST. -/
def widthOk (i : VWord) : Bool := [0, 1, 2, 4, 8].contains (scalarWidth i)

/-- LD: 64 B from X[SRC1] + IMM into the unmasked lanes of V[DST], or 1, 2, 4 or 8 B into X[DST] as SRC3 says. -/
def execLd (v : Nat) (i : VWord) (s : State) : Host.Outcome State Fault Refusal :=
  .next (
    let w := scalarWidth i
    s.vls v (xs [i.src1] ++ if w = 0 then vs [i.dst] else xs [i.dst]) (widthOk i)
      (fun t => [(t.lsAddr i, if w = 0 then 64 else w)])
      (fun t s =>
        if w = 0 then
          let x := vecOf (s.lsBytes v (t.lsAddr i) 64)
          (s, t.elementwise i 32 (fun k => (element x 32 k, {})))
        else (s, t.setX i.dst (BitVec.ofNat 64 (ofBytes (s.lsBytes v (t.lsAddr i) w))))))

/-- ST: the unmasked lanes of V[DST] to 64 B at X[SRC1] + IMM, or the low bytes of X[DST] as SRC3 says. -/
def execSt (v : Nat) (i : VWord) (s : State) : Host.Outcome State Fault Refusal :=
  .next (
    let w := scalarWidth i
    s.vls v (xs [i.src1] ++ if w = 0 then vs [i.dst] else xs [i.dst]) (widthOk i)
      (fun t => [(t.lsAddr i, if w = 0 then 64 else w)])
      (fun t s =>
        let a := t.lsAddr i
        if w = 0 then
          (((List.range 16).filter (t.lane i)).foldl
            (fun s k => s.lsPut v (a + 4 * k) (toBytes 4 (element (t.vreg i.dst) 32 k))) s, t)
        else (s.lsPut v a (toBytes w (t.xreg i.dst).toNat), t)))

/-- The unmasked lanes of a strided access. -/
def VTask.strided (t : VTask) (i : VWord) : List (Nat × Nat) :=
  ((List.range 16).filter (t.lane i)).map (fun k =>
    (k, (t.xreg i.src1 + immX i + BitVec.ofNat 64 k * t.xreg i.src2).toNat))

/-- The unmasked lanes of a gather or scatter: X[SRC1] + IMM plus the lane of V[SRC2]. -/
def VTask.indexed (t : VTask) (i : VWord) : List (Nat × Nat) :=
  ((List.range 16).filter (t.lane i)).map (fun k =>
    (k, (t.xreg i.src1 + immX i + BitVec.ofNat 64 (element (t.vreg i.src2) 32 k)).toNat))

/-- Lanes loaded 4 B each. -/
def State.loadLanes (s : State) (v : Nat) (t : VTask) (i : VWord) (l : List (Nat × Nat)) : VTask :=
  t.setV i.dst (l.foldl (fun x p => setElement x 32 p.1 (ofBytes (s.lsBytes v p.2 4))) (t.vreg i.dst))

/-- LDS: lane k from X[SRC1] + IMM + k × X[SRC2]. -/
def execLds (v : Nat) (i : VWord) (s : State) : Host.Outcome State Fault Refusal :=
  .next (s.vls v (xs [i.src1, i.src2] ++ vs [i.dst]) true (fun t => (t.strided i).map (fun p => (p.2, 4)))
    (fun t s => (s, s.loadLanes v t i (t.strided i))))

/-- GLD: each lane from its own address. -/
def execGld (v : Nat) (i : VWord) (s : State) : Host.Outcome State Fault Refusal :=
  .next (s.vls v (xs [i.src1] ++ vs [i.dst, i.src2]) true (fun t => (t.indexed i).map (fun p => (p.2, 4)))
    (fun t s => (s, s.loadLanes v t i (t.indexed i))))

/-- The lane that a scatter leaves at an address: among lanes with the same address the spec names none. -/
def scatterWinner (draw : Nat) (l : List (Nat × Nat)) (a : Nat) : Nat :=
  let same := (l.filter (·.2 == a)).map (·.1)
  same.getD (Config.pick (draw + a) same.length % same.length) 0

/-- SST: each lane of V[DST] to its own address. -/
def execSst (v : Nat) (i : VWord) (s : State) : Host.Outcome State Fault Refusal :=
  .next (s.vls v (xs [i.src1] ++ vs [i.dst, i.src2]) true (fun t => (t.indexed i).map (fun p => (p.2, 4)))
    (fun t s =>
      let l := t.indexed i
      (l.foldl (fun s p => s.lsPut v p.2 (toBytes 4 (element (t.vreg i.dst) 32 (scatterWinner s.freeCtr l p.2))))
        { s with freeCtr := s.freeCtr + 1 }, t)))

/-! Transfers (R86) -/

/-- What a transfer to the KV aperture reaches (05_attention_state.md R111, R120, R123). -/
inductive Window where
  | append | request | response
  deriving DecidableEq, Repr

/-- The window of a stand address in the enabled aperture. -/
def State.window (s : State) (n a : Nat) : Option Window :=
  match s.apertureOffset n a with
  | none => none
  | some o => some (if o < 2 ^ 30 then .append else if o < 32 * 2 ^ 30 then .request else .response)

/-- The window a transfer is addressed to. -/
def State.transferWindow (s : State) (n : Nat) (x : Transfer) : Option Window :=
  if x.inStand then s.window n x.addr else none

/-- The checks of R86 before any byte moves. -/
def State.transferOk (s : State) (n : Nat) (x : Transfer) : Bool :=
  64 ≤ x.len && x.len ≤ 65536 && x.len % 64 == 0 && x.ls % 64 == 0 && x.addr % 64 == 0 &&
  x.ls + x.len ≤ lsSize && s.outsideOk n x.inStand x.out x.addr x.len

/-- A transfer issued: the bytes that an XIN will write are open until XWAIT. -/
def State.issueTransfer (s : State) (v : Nat) (t : VTask) (x : Transfer) : State :=
  let x := { x with since := s.timeNs, held := if x.out then s.lsBytes v x.ls x.len else [] }
  let s := if x.out then s else s.lsForget v x.ls x.len
  s.setTask v (some { t with transfers := t.transfers ++ [x], wait := .none }.next)

/-- XIN and XOUT: tag DST[2:0], local store address X[SRC1], outside address X[SRC2], length X[SRC3]; IMM[0] 1 names
the stand address space, 0 the activation store (log 12). With 16 transfers on the tag the core waits. -/
def State.vtransfer (s : State) (v : Nat) (i : VWord) (out : Bool) : State :=
  s.vrun v (xs [i.src1, i.src2, i.src3]) true (fun t s =>
    let x : Transfer := { tag := (maskNum i.dst).toNat, out := out, ls := (t.xreg i.src1).toNat,
                          addr := (t.xreg i.src2).toNat, len := (t.xreg i.src3).toNat, inStand := immBits i 0 1 == 1 }
    if !s.transferOk t.stand x then
      let s := if x.inStand && x.addr % 64 == 0 then s.flagUnmapped t.stand x.addr else s
      s.illegal v t
    else if 16 ≤ (t.transfers.filter (·.tag == x.tag)).length then s.setTask v (some { t with wait := .slot x })
    else s.issueTransfer v t x)

/-- XIN. -/
def execXin (v : Nat) (i : VWord) (s : State) : Host.Outcome State Fault Refusal := .next (s.vtransfer v i false)

/-- XOUT. -/
def execXout (v : Nat) (i : VWord) (s : State) : Host.Outcome State Fault Refusal := .next (s.vtransfer v i true)

/-- The local store bytes of a tag's completed XINs become defined. -/
def State.landTag (s : State) (v : Nat) (t : VTask) (tag : Nat) : State × VTask :=
  let here := t.landed.filter (·.1 == tag)
  (here.foldl (fun s l => s.lsPut v l.2.1 l.2.2) s, { t with landed := t.landed.filter (·.1 != tag) })

/-- A waiting core goes on when what it waits for has come: its tag is idle, its tag has room, or everything of a task
that executed END has completed (R86, R87; 11_fabric_memory.md R258). -/
def State.settle (s : State) (v : Nat) : State :=
  match s.task v with
  | none => s
  | some t =>
    match t.wait with
    | .tag k =>
      if t.transfers.any (·.tag == k) then s
      else
        let (s, t) := s.landTag v t k
        s.setTask v (some { t with wait := .none }.next)
    | .slot x =>
      if 16 ≤ (t.transfers.filter (·.tag == x.tag)).length then s else s.issueTransfer v t x
    | .ending st =>
      if t.transfers.isEmpty && t.atomics.isEmpty && t.fabOut == 0 then s.endTask v t st else s
    | _ => s

/-- XWAIT: on tag DST[2:0]. -/
def execXwait (v : Nat) (i : VWord) (s : State) : Host.Outcome State Fault Refusal :=
  .next (s.vrun v [] true (fun t s => (s.setTask v (some { t with wait := .tag (maskNum i.dst).toNat })).settle v))

/-- A partial window of stand `n` has its response or MISSING (05_attention_state.md R123). -/
def State.partialReady (s : State) (n o : Nat) : Bool :=
  match (s.stand n).kv.remotes.get? ((o - 32 * 2 ^ 30) / 8192) with
  | some r => r.resolved.isSome
  | none => true

/-- What an XIN from the aperture reads: the response buffer behind a partial window; open content elsewhere. -/
def State.partialRead (s : State) (n o len : Nat) : Got :=
  match (s.stand n).kv.pool with
  | none => .unmapped
  | some p =>
    let w := o - 32 * 2 ^ 30
    let slot := w / 8192 / 64
    let head := w / 8192 % 64
    let h := match (s.stand n).kv.remotes.get? (w / 8192) with
      | some r => bits (s.peekLe n (p.groupTable + 64 * (4 * (((s.stand n).step.map (·.model)).getD 0) + r.group)) 8) 16 8
      | none => 1
    s.peek n (p.partialAddr + (slot * h + head) * 8192 + w % 8192) len

/-- The sequence on whose behalf a task reads: that of its batch slot. -/
def State.taskSeq (s : State) (n : Nat) (t : VTask) : Nat :=
  if t.seqValid then (((s.stand n).step.bind (fun st => st.rows[t.seq]?)).map (·.seq)).getD noSeq else noSeq

/-- The wait of an XIN from a partial window for its response (05_attention_state.md R124). -/
def State.countWait (s : State) (n o since : Nat) : State :=
  match (s.stand n).kv.remotes.get? ((o - 32 * 2 ^ 30) / 8192) with
  | some r => s.addFld Fld.KVM_REMOTE_WAIT_NS_COUNT n 0 (r.resolvedAt - since)
  | none => s

/-- TRANSFER_COMPLETE: the `k`-th outstanding transfer of core `v` completes. Appends and remote requests complete by
rows of their own, and an XIN from a partial window only when its response is there. -/
def execTransferComplete (v k : Nat) (s : State) : Host.Outcome State Fault Refusal :=
  .next (
    match s.task v with
    | none => s
    | some t =>
      match t.transfers[k]? with
      | none => s
      | some x =>
        let n := t.stand
        let t' := { t with transfers := listRemove t.transfers k }
        match s.transferWindow n x with
        | some w =>
          if x.out then
            (if w = .response then (s.setTask v (some t')).settle v else s)
          else if w = .response then
            let o := (s.apertureOffset n x.addr).getD 0
            if !s.partialReady n o then s
            else
              match s.partialRead n o x.len with
              | .ok bs => ((s.countWait n o x.since).setTask v (some { t' with landed := t'.landed ++ [(x.tag, x.ls, bs)] })).settle v
              | .poisoned => s.poisonedTask v t'
              | .unmapped => (s.setTask v (some t')).settle v
          else (s.setTask v (some t')).settle v
        | none =>
          if x.out then
            let bs := s.xoutBytes v x
            ((({ s with freeCtr := s.freeCtr + 1 }).writeUnits n v t x.inStand x.addr bs).setTask v (some t')).settle v
          else
            let (s, good) := if x.inStand then s.readSealed n (s.taskSeq n t) x.addr x.len else (s, true)
            if !good then s.poisonedTask v t'
            else
            match s.readUnits n v t x.inStand (x.len / 64) x.addr with
            | (.ok bs, s) =>
              let (s, bs) := if x.inStand then s.sealedOpen n x.addr bs else (s, bs)
              (s.setTask v (some { t' with landed := t'.landed ++ [(x.tag, x.ls, bs)] })).settle v
            | (_, s) => (if x.inStand then s.poisonKvAt n (s.taskSeq n t) x.addr x.len else s).poisonedTask v t')

/-! Atomics (R87) -/

/-- AADD and AMAX: address X[SRC1], operand the low 32 bits of X[SRC2]; IMM[0] 1 names the stand address space, 0 the
activation store; TYPE 0 FP32, 2 INT32 (log 12). -/
def State.vatomic (s : State) (v : Nat) (i : VWord) (isMax : Bool) : State :=
  s.vrun v (xs [i.src1, i.src2]) (i.type == 0 || i.type == 2) (fun t s =>
    let x : VAtomic := { isMax := isMax, int := i.type == 2, addr := (t.xreg i.src1).toNat,
                         inStand := immBits i 0 1 == 1, operand := (t.xreg i.src2).toNat % 2 ^ 32 }
    if x.addr % 4 ≠ 0 ∨ !s.outsideOk t.stand x.inStand true x.addr 4 then
      let s := if x.inStand && x.addr % 4 == 0 then s.flagUnmapped t.stand x.addr else s
      s.illegal v t
    else s.setTask v (some { t with atomics := t.atomics ++ [x] }.next))

/-- AADD. -/
def execAadd (v : Nat) (i : VWord) (s : State) : Host.Outcome State Fault Refusal := .next (s.vatomic v i false)

/-- AMAX. -/
def execAmax (v : Nat) (i : VWord) (s : State) : Host.Outcome State Fault Refusal := .next (s.vatomic v i true)

/-- VECTOR_ATOMIC_APPLY: the `k`-th outstanding atomic of core `v` is applied, after every earlier one of its task to the
same word. -/
def execVectorAtomicApply (v k : Nat) (s : State) : Host.Outcome State Fault Refusal :=
  .next (
    match s.task v with
    | none => s
    | some t =>
      match t.atomics[k]? with
      | none => s
      | some x =>
        if (t.atomics.take k).any (fun y => y.addr == x.addr && y.inStand == x.inStand) then s
        else
          let t' := { t with atomics := listRemove t.atomics k }
          let (s, ok) := s.applyAtomic t.stand v x
          if ok || (x.inStand && (s.apertureOffset t.stand x.addr).isSome) then (s.setTask v (some t')).settle v
          else s.poisonedTask v t')

/-! END (R96) -/

/-- CHISYN_END: with status IMM[15:0]. -/
def execChisynEnd (v : Nat) (i : VWord) (s : State) : Host.Outcome State Fault Refusal :=
  .next (s.vrun v [] true (fun t s =>
    let st := immBits i 0 16
    if st = 0 ∨ 0x8000 ≤ st then (s.setTask v (some { t with wait := .ending st })).settle v
    else s.illegal v t))

/-! Faults (R98, R99) -/

/-- TASK_TIMEOUT: the task on core `v` reaches its CYCLE_LIMIT. -/
def execTaskTimeout (v : Nat) (s : State) : Host.Outcome State Fault Refusal :=
  .next (
    match s.task v with
    | none => s
    | some t => s.taskFault v t Fld.VEC_ERROR_TASK_TIMEOUT 0x0003 0x35)

/-- LS_UNCORRECTABLE: in the local store of core `v`; the core stays in service. -/
def execLsUncorrectable (v : Nat) (s : State) : Host.Outcome State Fault Refusal :=
  .next (
    match s.task v with
    | none => s
    | some t => s.taskFault v t Fld.VEC_ERROR_LS_POISONED 0x0004 0x36)

/-- VCORE_FAULT: a logic fault in core `v`: its bit in VEC_CORE_MASK is set as the step is abandoned. -/
def execVcoreFault (v : Nat) (s : State) : Host.Outcome State Fault Refusal :=
  .next (
    if v < 82944 ∧ s.coreInService v then
      let c := v / 864
      let j := v % 864 / 64
      let s := s.setFld Fld.VEC_CORE_MASK_OUT c j (s.fld Fld.VEC_CORE_MASK_OUT c j ||| 2 ^ (v % 864 % 64))
      match s.task v, s.groveStand (c / 4) with
      | some t, some n =>
        (s.event ⟨0x0104, some n, c / 16, c % 16, [v]⟩).taskFault v t Fld.VEC_ERROR_VCORE_FAILED 0x0005 0x37
      | _, some n => s.event ⟨0x0104, some n, c / 16, c % 16, [v]⟩
      | _, none => s
    else s)

end Sys2Proof.Machine
end

