-- ==== Sys2Proof/Machine/FabMem.lean ====
section
/-! DEFINITION. Fabric memory: translation, issue, application at the target, completion and barriers
(11_fabric_memory.md R248-R264). -/

namespace Sys2Proof.Machine

open Sys2Proof

/-- Bytes of a SIZE code (R251). -/
def memSize (size : Nat) : Nat := match size with | 0 => 4 | 1 => 8 | _ => 64

/-- The operations that Table 11.3 lists: OPC, SIZE and AOP. -/
def memKnown (opc size aop : Nat) : Bool :=
  match opc with
  | 0 => size ≤ 2 && aop == 0
  | 1 => size ≤ 2 && aop == 0
  | 2 => (size ≤ 1 && aop ≤ 5) || (size == 1 && aop == 8)
  | _ => false

/-- An operation is an ARRIVE. -/
def MemOp.arrive (o : MemOp) : Bool := o.opc == 2 && o.aop == 8

/-! Completion (R253, R256, R258) -/

/-- FMM_ERROR with its context. -/
def State.flagFmm (s : State) (f : Field) (n faddr : Nat) : State :=
  s.flagError f n (fun s => s.setReg .FMM_ERROR_INFO n 0 (faddr % 2 ^ 64))

/-- The error bit of a status. -/
def State.flagMemStatus (s : State) (n faddr status : Nat) : State :=
  if status = 0x0A then s.flagFmm Fld.FMM_ERROR_NO_MAPPING n faddr
  else if status = 3 then s.flagFmm Fld.FMM_ERROR_BAD_REGION n faddr
  else if status = 8 then s.flagFmm Fld.FMM_ERROR_RETRY_EXCEEDED n faddr
  else s

/-- The fabric status word after a completion (R258). -/
def fabWord (w status : Nat) : Nat :=
  if status = 0 then w
  else
    let low := if bits w 0 8 = 0 then status else bits w 0 8
    low + min (bits w 16 16 + 1) 0xFFFF * 2 ^ 16

/-- A waiting FENCE of a task completes once its STOREs, ATOMICs and ARRIVEs have: the fabric status word goes to DST and
is cleared. -/
def State.settleFence (s : State) (v : Nat) : State :=
  match s.task v with
  | none => s
  | some t =>
    match t.wait with
    | .fence dst =>
      if t.fabStores = 0 then
        (s.setTask v (some { (t.setX (BitVec.ofNat 5 dst) (BitVec.ofNat 64 t.fabStatus)) with
          fabStatus := 0, wait := .none, pc := t.pc + 1 })).addFld Fld.FMM_FENCES_COUNT t.stand 0 1
      else s
    | _ => s

/-- An operation of a task completes. -/
def State.taskMemDone (s : State) (v serial dst : Nat) (o : MemOp) (status value : Nat) (data : List Byte) : State :=
  match s.task v with
  | none => s
  | some t =>
    if t.serial ≠ serial then s
    else
      let t := { t with fabOut := t.fabOut - 1, fabStores := if o.opc = 0 then t.fabStores else t.fabStores - 1,
                        fabStatus := fabWord t.fabStatus status, locked := t.locked.filter (· != dst) }
      let t := if status ≠ 0 ∨ 64 ≤ dst then t
        else if 32 ≤ dst then t.setV (BitVec.ofNat 5 (dst - 32)) (vecOf data)
        else t.setX (BitVec.ofNat 5 dst) (BitVec.ofNat 64 value)
      ((s.setTask v (some t)).settleFence v).settle v

/-- A waiting FENCE of a queue completes once the operations before it have: APPLIED, or the first status that was not
OK. -/
def State.settleQueue (s : State) (n : Nat) : State :=
  let q := (s.stand n).fmm
  match q.fence with
  | some i =>
    if q.stores = 0 then
      ((s.updStand n (fun st => { st with fmm := { st.fmm with fence := none, bad := 0 } })).runDone .fmm n i q.bad).addFld
        Fld.FMM_FENCES_COUNT n 0 1
    else s
  | none => s

/-- An operation of a stand's queue completes: the value over OPERAND, or the 64 B at the local address, then the
result. -/
def State.queueMemDone (s : State) (n i : Nat) (o : MemOp) (status value : Nat) (data : List Byte) : State :=
  let a := s.runEntry .fmm n i
  let s := if status ≠ 0 ∨ o.opc = 1 then s
    else if o.size = 2 then s.standWrite n (s.peekLe n (a + 16) 6) data
    else s.standWrite n (a + 16) (toBytes 8 value)
  let s := (s.updStand n (fun st => { st with fmm := { st.fmm with
    stores := if o.opc = 0 then st.fmm.stores else st.fmm.stores - 1,
    bad := if st.fmm.bad = 0 then status else st.fmm.bad } })).runDone .fmm n i status
  s.settleQueue n

/-- The stand of an issuing context. -/
def State.ctxStand (s : State) : FabCtx → Nat
  | .task v _ _ => match s.task v with
    | some t => t.stand
    | none => 24
  | .queue n _ => n

/-- A fabric memory operation completes to its issuer. An OK ARRIVE leaves its SUSPECT bit in FMM_STATUS (R265). -/
def State.memDone (s : State) (o : MemOp) (status value : Nat) (data : List Byte) : State :=
  let n := s.ctxStand o.ctx
  let s := s.flagMemStatus n o.faddr status
  let s := if o.arrive ∧ status = 0 ∧ n < 24 then s.setFld Fld.FMM_STATUS_SUSPECT n 0 (bits value 32 1) else s
  match o.ctx with
  | .task v serial dst => s.taskMemDone v serial dst o status value data
  | .queue n i => s.queueMemDone n i o status value data

/-! Barriers (R261-R264) -/

/-- The bytes of a group block (Table 11.7). -/
def Group.mirror (g : Group) : List Byte :=
  let base := zeros 4096
  let b := patchLe base 0 8 (g.seq % 2 ^ 32)
  let b := patchLe b 8 8 g.completed
  let b := patchLe b 16 8 g.timeouts
  let b := patchLe b 0x40 32 g.suspect
  let b := patchLe b 0x60 32 (maskOf (g.arrived.map (·.1)))
  let b := patch b 0x100 ((List.range 256).flatMap (fun m => toBytes 2 ((g.ring.filter (· == m)).length)))
  g.ring.zipIdx.foldl (fun b e => patchLe b (0x300 + (g.completed + g.timeouts + 255 - e.2) % 256) 1 e.1) b

/-- The SUSPECT bit of a member brought up to date with its LAST_COUNT; a change is recorded, and told by a message
(R264). -/
def State.judge (s : State) (gk m : Nat) : State :=
  match s.groups.get? gk with
  | none => s
  | some g =>
    let c := (g.ring.filter (· == m)).length
    let was := g.suspect.testBit m
    let now := if g.threshold < c then true else if c ≤ g.threshold / 2 then false else was
    if was = now then s
    else
      let s := { s with groups := s.groups.set gk { g with suspect := g.suspect ^^^ 2 ^ m } }
      let s := s.event ⟨if now then 0x0404 else 0x0405, some g.stand, 6 + gk / 1024, 39, [gk % 1024, m]⟩
      if s.flag Fld.FMM_CTRL_SUSPECT_INT g.stand then s.msix (.vf g.stand) 20 else s

/-- A result entry of a MEM_RESP, in network byte order (R252). -/
def memResult (status value : Nat) (data : List Byte) : List Byte :=
  toBytesBE 1 status ++ zeros 7 ++ toBytesBE 8 (value % 2 ^ 64) ++ (if status = 0 then data else [])

/-- An arrival answered. -/
def State.answer (s : State) (w : Waiter) (status value : Nat) : State :=
  match w with
  | .issuer o => s.memDone o status value []
  | .packet d c psn => s.fabIssue (65536 * d + c) (.memResp psn (memResult status value []))

/-- Every waiting arrival answered with a status; OK carries the barrier and the member's SUSPECT bit. -/
def State.answerAll (s : State) (status seq suspect : Nat) (l : List (Nat × Waiter)) : State :=
  l.foldl (fun s a => s.answer a.2 status
    (if status = 0 then seq % 2 ^ 32 + b01 (suspect.testBit a.1) * 2 ^ 32 else 0)) s

/-- The statistics of a released barrier: `last` is the last arriver (R264). -/
def State.statistics (s : State) (gk last : Nat) (timeout : Bool) : State :=
  match s.groups.get? gk with
  | none => s
  | some g =>
    let gone := g.ring[255]?
    let g' := { g with ring := (last :: g.ring).take 256, seq := g.seq + 1, arrived := [],
                       completed := g.completed + b01 (!timeout), timeouts := g.timeouts + b01 timeout }
    let s := ({ s with groups := s.groups.set gk g' }.judge gk last)
    match gone with
    | some m => if m = last then s else s.judge gk m
    | none => s

/-- A barrier released: statistics, mirror and answers. -/
def State.release (s : State) (gk last : Nat) (timeout : Bool) : State :=
  match s.groups.get? gk with
  | none => s
  | some g =>
    let s := s.statistics gk last timeout
    match s.groups.get? gk with
    | none => s
    | some g' =>
      let s := (s.standWrite g.stand g.block g'.mirror).addFld Fld.FMM_BARRIERS_COUNT g.stand 0 1
      let s := if timeout then s.flagFmm Fld.FMM_ERROR_BARRIER_TIMEOUT g.stand (gk % 1024) else s
      s.answerAll (if timeout then 7 else 0) g.seq g'.suspect g.arrived

/-- An ARRIVE at a stand address, answered at once or recorded (R262). `via` is the connection and hub die that it came
on; none for a local one. -/
def State.arriveAt (s : State) (h n a operand : Nat) (via : Option (Nat × Nat)) (w : Waiter) : State :=
  match s.groups.find? (fun g => g.1 / 1024 == h && g.2.stand == n && g.2.block == a) with
  | none => s.answer w 5 0
  | some (gk, g) =>
    let m := bits operand 0 16
    let from_ := match g.members[m]?, via with
      | some (c, d, false), some (c', d') => c == c' && d == d'
      | some (_, _, true), none => true
      | _, _ => false
    if !from_ then s.answer w 5 0
    else if bits operand 16 32 ≠ g.seq % 2 ^ 32 ∨ g.arrived.any (·.1 == m) then s.answer w 6 0
    else
      let s := { s with groups := s.groups.set gk { g with arrived := g.arrived ++ [(m, w)] } }
      if g.arrived.length + 1 = g.members.length then s.release gk m false else s

/-! Application at the target (R250-R252) -/

/-- The page of a stand address has its home in T3. -/
def State.homeT3 (s : State) (n a : Nat) : Bool :=
  match (s.stand n).tiers.objectAt a with
  | some (_, o) => o.home == 3
  | none => false

/-- An atomic's new word (Table 11.3); words of `w` bits. -/
def atomicWord (aop w old operand compare : Nat) : Nat :=
  let x := operand % 2 ^ w
  match aop with
  | 0 => (old + x) % 2 ^ w
  | 1 => if signed w x < signed w old then x else old
  | 2 => if signed w old < signed w x then x else old
  | 3 => min old x
  | 4 => max old x
  | _ => if old = compare % 2 ^ w then x else old

/-- A LOAD, STORE or ATOMIC applied at a stand address: status, value and 64 B. -/
def State.applyMem (s : State) (n a : Nat) (o : MemOp) : State × Nat × Nat × List Byte :=
  let s := s.addFld Fld.FMM_OPS_SERVED_COUNT n 0 1
  let w := memSize o.size
  match o.opc with
  | 0 =>
    (match s.standRead n a w with
     | (.ok bs, s) => if o.size = 2 then (s, 0, 0, bs) else (s, 0, ofBytes bs, [])
     | (_, s) => (s, 4, 0, []))
  | 1 => (s.putBytes n a (if o.size = 2 then o.data else toBytes w o.operand), 0, 0, [])
  | _ =>
    match s.standRead n a w with
    | (.ok bs, s) =>
      (s.putBytes n a (toBytes w (atomicWord o.aop (8 * w) (ofBytes bs) o.operand o.compare)), 0, ofBytes bs, [])
    | (_, s) => (s, 4, 0, [])

/-- The operations of a packet in an order that the spec leaves open. -/
def anyOrder (draw : Nat) : Nat → List (Nat × MemOp) → List (Nat × MemOp)
  | 0, l => l
  | fuel + 1, l =>
    match l[Config.pick (draw + fuel) l.length % l.length]? with
    | some x => x :: anyOrder draw fuel (listRemove l (Config.pick (draw + fuel) l.length % l.length))
    | none => l

/-- Every operation of an admitted MEM_REQ applied; results by entry. -/
def State.applyAll (s : State) (n base : Nat) (ops : List MemOp) : State × SMap (Nat × Nat × List Byte) :=
  let l := ops.zipIdx.map (fun e => (e.2, e.1))
  let order := anyOrder s.freeCtr l.length l
  order.foldl (fun (p : State × SMap (Nat × Nat × List Byte)) e =>
    let (s, r) := p.1.applyMem n (base + e.2.off) e.2
    (s, p.2.set e.1 r)) ({ s with freeCtr := s.freeCtr + l.length }, [])

/-- A packet of operations may not be admitted: a reserved or misaligned operation, or a target page with its home in
T3. -/
def State.memRefused (s : State) (n base : Nat) (ops : List MemOp) : Bool :=
  ops.any (fun o => !memKnown o.opc o.size o.aop || (base + o.off) % memSize o.size != 0 || s.homeT3 n (base + o.off))

/-- The outcome of the region checks for a packet of operations (R251): every permission that any of them needs. -/
def State.memCheck (s : State) (h stand keyId key gen : Nat) (ops : List MemOp) : Nat :=
  let needs := fun c => ops.any (·.opc == c)
  let base := match s.regions.get? (1048576 * h + key % 2 ^ 20) with
    | some r => r.base
    | none => 0
  let st := (ops.map (fun o => s.regionCheck h stand keyId key gen o.off (memSize o.size) (needs 0) (needs 1) (needs 2))).find?
    (· != 0)
  match st with
  | some x => x
  | none => if s.memRefused stand base ops then 3 else 0

/-! Issue (R248, R249, R254) -/

/-- The remote map table of stand `n` on hub die `h`. -/
def remoteTable (h n : Nat) : Table := ⟨h, kindRemote, n⟩

/-- A fabric address translated on hub die `h`. -/
def State.translate (s : State) (h n faddr : Nat) : State × Option RemoteEntry :=
  (s.searched h, (s.lookup (remoteTable h n) (faddr % 2 ^ 64 + n * 2 ^ 64)).bind
    (fun e => (s.stand n).remoteMap.get? (e.2.result % 2 ^ 32)))

/-- Payload bytes of an operation in a MEM_REQ. -/
def MemOp.bytes (o : MemOp) : Nat := if o.opc = 1 ∧ o.size = 2 then 96 else 32

/-- Payload bytes of a pack. -/
def packBytes (ops : List MemOp) : Nat := (ops.map MemOp.bytes).foldl (· + ·) 0

/-- The pack that an operation travels in: stand, connection and region. -/
def Pack.same (p q : Pack) : Bool :=
  p.stand == q.stand && p.die == q.die && p.conn == q.conn && p.key == q.key && p.gen == q.gen

/-- A pack handed to its connection. -/
def State.sendPack (s : State) (p : Pack) : State :=
  { s with packs := s.packs.filter (fun q => !q.same p) }.fabIssue (65536 * p.die + p.conn) (.memReq p.key p.gen p.ops)

/-- An operation joins the pack of its stand, connection and region; one that is full goes first (R254). -/
def State.coalesce (s : State) (p : Pack) (o : MemOp) : State :=
  let limit := match s.conn (65536 * p.die + p.conn) with
    | some c => c.limit
    | none => 4096
  if o.arrive then s.fabIssue (65536 * p.die + p.conn) (.memReq p.key p.gen [o])
  else
    let s := match s.packs.find? (fun q => q.same p) with
      | some q => if limit < packBytes (q.ops ++ [o]) then s.sendPack q else s
      | none => s
    let q : Pack := match s.packs.find? (fun q => q.same p) with
      | some q => { q with ops := q.ops ++ [o] }
      | none => { p with ops := [o] }
    let s := { s with packs := s.packs.filter (fun x => !x.same p) ++ [q] }
    if 32 ≤ q.ops.length then s.sendPack q else s

/-- A local operation: the checks of Table 10.7 against the stand's own region, then its application. -/
def State.localMem (s : State) (n : Nat) (e : RemoteEntry) (o : MemOp) : State :=
  let r := s.regions.get? (1048576 * e.die + e.key % 2 ^ 20)
  let st := s.memCheck e.die n ((r.map (·.keyId)).getD 0) e.key e.gen [o]
  let base := (r.map (·.base)).getD 0
  if st ≠ 0 then s.memDone o st 0 []
  else if o.arrive then
    (s.addFld Fld.FMM_OPS_SERVED_COUNT n 0 1).arriveAt e.die n (base + o.off) o.operand none (.issuer o)
  else
    let (s, st, v, d) := s.applyMem n (base + o.off) o
    s.memDone o st v d

/-- An operation of stand `n` issued on hub die `h` (R249). -/
def State.issueMem (s : State) (h n : Nat) (o : MemOp) : State :=
  let s := s.addFld Fld.FMM_OPS_ISSUED_COUNT n 0 1
  match s.translate h n o.faddr with
  | (s, none) => s.memDone o 0x0A 0 []
  | (s, some e) =>
    let span := 2 ^ (64 - e.len)
    let rel := o.faddr % span
    let allowed := match o.opc with
      | 0 => e.read
      | 1 => e.write
      | _ => e.atomic
    let o := { o with off := e.offset + rel }
    if !allowed ∨ span < rel + memSize o.size then s.memDone o 3 0 []
    else if e.isLocal then s.localMem n e o
    else
      match s.conn (65536 * e.die + e.conn) with
      | some c =>
        if c.stand ≠ n then s.memDone o 8 0 []
        else (match c.state with
          | .open_ => s.coalesce ⟨n, e.die, e.conn, e.key, e.gen, []⟩ o
          | .closing => s.memDone o 9 0 []
          | _ => s.memDone o 8 0 [])
      | none => s.memDone o 8 0 []

/-! The Chisyn instructions (R257, R258) -/

/-- A fabric instruction of core `v`: SIZE is IMM[1:0] and AOP IMM[7:4]; TYPE and the other IMM bits are 0, the address is
aligned, and fewer than 32 operations are outstanding. `data` is the 64 B register of a 64 B STORE. -/
def State.vfabric (s : State) (v : Nat) (i : VWord) (opc : Nat) (dst : Nat) (uses : List Nat) : State :=
  let size := immBits i 0 2
  let aop := immBits i 4 4
  let ok := i.type == 0 && memKnown opc size aop && immBits i 2 2 == 0 && i.imm.toNat / 2 ^ 8 == 0
  s.vrun v uses ok (fun t s =>
    let a := (t.xreg i.src1).toNat
    if a % memSize size ≠ 0 then s.illegal v t
    else if 32 ≤ t.fabOut then s
    else
      let o : MemOp := { ctx := .task v t.serial dst, opc := opc, size := size, aop := aop, off := 0,
                         operand := if opc = 1 ∧ size = 2 then 0 else (t.xreg i.src2).toNat,
                         compare := (t.xreg i.src3).toNat,
                         data := if opc = 1 ∧ size = 2 then vecBytes (t.vreg i.src2) else [], faddr := a }
      let t := { t with fabOut := t.fabOut + 1, fabStores := if opc = 0 then t.fabStores else t.fabStores + 1,
                        locked := if dst < 64 ∧ dst ≠ 0 then dst :: t.locked else t.locked }.next
      (s.setTask v (some t)).issueMem (homeHub (v / 864 / 16)) t.stand o)

end Sys2Proof.Machine
end

