-- ==== Sys2Proof/Machine/Matrix.lean ====
section
/-! DEFINITION. The matrix path: weight-stream descriptors, the planes they name, pass sums, groups, and the collectives
(03_matrix_cores.md R55-R74; 02_number_formats.md R33-R37, R45-R50). -/

namespace Sys2Proof.Machine

open Sys2Proof

/-- A weight-stream descriptor (Table 3.3). -/
structure Wsd where
  index : Nat
  format : Nat
  compressed : Bool
  split : Nat
  slices : Nat
  width : Nat
  k : Nat
  n : Nat
  data : Nat
  scale : Nat
  indexTable : Nat
  rowScale : Nat
  tensorScale : Nat
  deriving DecidableEq, Repr

/-- A descriptor from its 64 bytes. -/
def Wsd.ofBytes (i : Nat) (b : List Byte) : Wsd :=
  let w0 := le b 0 8
  ⟨i, bits w0 0 5, bit w0 5, bits w0 6 2, bits w0 8 3, (bits w0 11 2 + 1) * 512, bits w0 16 24, bits w0 40 24,
   le b 8 6, le b 16 6, le b 24 6, le b 32 6, le b 40 4⟩

/-- Descriptor `i` of the program of model `m`. -/
def State.wsd (s : State) (n m i : Nat) : Wsd :=
  match s.peek n (s.header n m 8 6 + 64 * i) 64 with
  | .ok b => Wsd.ofBytes i b
  | _ => Wsd.ofBytes i (zeros 64)

/-- The 32 bytes of operation `i` of the program of model `m`. -/
def State.opBytes (s : State) (n m i : Nat) : List Byte :=
  match s.peek n (s.header n m 16 6 + 32 * i) 32 with
  | .ok b => b
  | _ => zeros 32

/-! Layout of the planes (R63) -/

/-- Bytes of a 512-element segment of the data plane. -/
def segmentBytes (format : Nat) : Nat :=
  if format = ternCode then 103
  else match formatOf format with
    | some (el, _) => 64 * el.width
    | none => 0

/-- Scale bytes of a segment. -/
def segmentScales (format : Nat) : Nat :=
  match formatOf format with
  | some (_, .mx) => 16
  | some (_, .f16s) => 32
  | _ => 0

/-- First and last-plus-one column of slice `i`. -/
def Wsd.cols (d : Wsd) (i : Nat) : Nat × Nat :=
  if d.split = 1 then
    let t := ceilDiv d.n (d.slices * 128) * 128
    (min (i * t) d.n, min ((i + 1) * t) d.n)
  else (0, d.n)

/-- First and last-plus-one reduction element of slice `i`. -/
def Wsd.reds (d : Wsd) (i : Nat) : Nat × Nat :=
  if d.split = 2 then
    let t := ceilDiv d.k (d.slices * 512) * 512
    (min (i * t) d.k, min ((i + 1) * t) d.k)
  else (0, d.k)

/-- Columns, reduction tiles and output blocks of slice `i`. -/
def Wsd.colCount (d : Wsd) (i : Nat) : Nat := (d.cols i).2 - (d.cols i).1
def Wsd.tiles (d : Wsd) (i : Nat) : Nat := ((d.reds i).2 - (d.reds i).1) / 512
def Wsd.blocks (d : Wsd) (i : Nat) : Nat := ceilDiv (d.colCount i) d.width

/-- Columns of block `b` of slice `i`. -/
def Wsd.blockCols (d : Wsd) (i b : Nat) : Nat := min d.width (d.colCount i - b * d.width)

/-- The offset of a segment when each takes `seg` bytes and each block starts on a multiple of `align`. -/
def Wsd.offset (d : Wsd) (seg align sl b t n : Nat) : Nat :=
  let size := fun i j => alignUp (d.tiles i * d.blockCols i j * seg) align
  let before := (List.range sl).foldl (fun o i => (List.range (d.blocks i)).foldl (fun o j => o + size i j) o) 0
  (List.range b).foldl (fun o j => o + size sl j) before + (t * d.blockCols sl b + n) * seg

/-! Reading the planes -/

/-- A poisoned block of a weight plane: where the mark is (an index entry, or the plane itself), and what to record. -/
structure WeightPoison where
  indexed : Bool
  addr : Nat
  /-- The entry's address, the block's address and the failed check, when the poisoning is new. -/
  fresh : Option (Nat × Nat × BlockError)
  deriving DecidableEq, Repr

/-- Block `b` of the uncompressed plane of a compressed tensor (R138, R140). -/
def State.weightBlock (s : State) (n : Nat) (d : Wsd) (b : Nat) : Except WeightPoison (List Byte) :=
  match s.indexHeader n d.indexTable with
  | none => .error ⟨true, d.indexTable, none⟩
  | some (tables, _, stored) =>
    let ea := indexEntryAddr d.indexTable tables b
    match s.peek n ea 16 with
    | .ok eb =>
      let e := IndexEntry.ofBytes eb
      let a := d.data + 256 * e.offset
      let bad := fun err => Except.error ⟨true, ea, some (ea, a, err)⟩
      if e.poisoned then .error ⟨true, ea, none⟩
      else if e.badRange stored then bad ⟨0, 2, s.headerCodec n a e.raw, 0⟩
      else
        match s.peek n a e.size with
        | .ok bs =>
          if e.raw then
            (if crc32c bs ≠ e.rawCheck then bad ⟨0, 3, 0, 0⟩ else if e.rawEncrypted then bad ⟨0, 5, 0, 0⟩ else .ok bs)
          else
            (match decodeBlock 1 (· == d.format) (s.indexTables n d.indexTable tables) e.cls bs with
             | .ok x => .ok x
             | .error err => bad err)
        | _ => bad ⟨0, 7, s.headerCodec n a e.raw, 0⟩
    | _ => .error ⟨true, ea, none⟩

/-- Bytes of the uncompressed data plane. -/
def State.planeBytes (s : State) (n : Nat) (d : Wsd) (off len : Nat) : Except WeightPoison (List Byte) :=
  if d.compressed then
    let b0 := off / 4096
    ((List.range ((off + len - 1) / 4096 - b0 + 1)).foldlM (fun acc k => do
      let bs ← s.weightBlock n d (b0 + k)
      pure (acc ++ bs)) []).map (fun bs => sub bs (off % 4096) len)
  else
    match s.peek n (d.data + off) len with
    | .ok bs => .ok bs
    | _ => .error ⟨false, d.data + off, none⟩

/-- The digits of five ternary weights; an invalid byte is taken as five zeros (R33, R34). -/
def ternDigits (b : Nat) : List Int :=
  if 243 ≤ b then [0, 0, 0, 0, 0]
  else [(b % 3 : Nat) - 1, (b / 3 % 3 : Nat) - 1, (b / 9 % 3 : Nat) - 1, (b / 27 % 3 : Nat) - 1, (b / 81 : Nat) - 1]

/-- An exact integer as a value. -/
def numOfInt (v : Int) : Num := .fin (decide (v < 0)) v.natAbs 0

/-- The 512 weights of a segment, their block scales applied. -/
def weightValues (format : Nat) (seg scales : List Byte) : List Num :=
  if format = ternCode then ((seg.flatMap (fun b => ternDigits b.toNat)).take 512).map numOfInt
  else
    match formatOf format with
    | none => []
    | some (el, sc) =>
      let x := ofBytes seg
      (List.range 512).map (fun k =>
        let p := el.decode (bits x (el.width * k) el.width)
        match sc with
        | .plain => p
        | .mx => mxElem (scales.getD (k / 32) 0).toNat p
        | .f16s => f16sElem (scales.getD (k / 16) 0).toNat p)

/-- A subnormal BF16 operand is a zero of its sign (R42). -/
def flushBf16 (format : Nat) (x : Num) : Num :=
  match x with
  | .fin n m e => if format = 1 ∧ Fmt.bf16.tiny m e then .fin n 0 e else .fin n m e
  | x => x

/-- Bytes of a row of `k` activations, block scales after the data (log 18). -/
def rowBytes (format k : Nat) : Nat :=
  match formatOf format with
  | some (el, sc) => k * el.width / 8 + (if sc = .mx then k / 32 else 0)
  | none => 0

/-- The 512 activations of reduction tile `t` of a row at `a` in the activation store of cluster `c`. -/
def State.activations (s : State) (c format k a t : Nat) : List Num :=
  match formatOf format with
  | none => []
  | some (el, sc) =>
    let x := ofBytes (s.mem.bytes ((Space.act c).key (a + 64 * t * el.width)) (64 * el.width))
    let scales := s.mem.bytes ((Space.act c).key (a + k * el.width / 8 + 16 * t)) 16
    (List.range 512).map (fun j =>
      let p := el.decode (bits x (el.width * j) el.width)
      if sc = .mx then mxElem (scales.getD (j / 32) 0).toNat p else p)

/-! Pass sums and accumulation (R46-R48) -/

/-- The element formats whose pass sums are exact (R47). -/
def exactFormats (wf af : Nat) : Bool := (wf == 7 || wf == 15) && (af == 7 || af == 15)

/-- A signed mantissa and exponent. -/
def dyadic : Num → Int × Int
  | .fin n m e => (if n then -(m : Int) else m, e)
  | _ => (0, 0)

/-- The exact sum of dyadic numbers. -/
def sumDyadic (l : List (Int × Int)) : Int × Int :=
  let e := l.foldl (fun e p => min e p.2) 0
  (l.foldl (fun v p => v + p.1 * 2 ^ (p.2 - e).toNat) 0, e)

/-- FP32 of a dyadic number, rounded to nearest even. -/
def fp32Of (v e : Int) : Nat := (Fmt.fp32.result (decide (v < 0)) v.natAbs e).1

/-- The FP32 pass sum of 512 weights against 512 activations. Where the internal precision matters the sum is open. -/
def passSum (wf af : Nat) (ws as : List Num) : Nat :=
  let ps := (ws.zip as).map (fun p => exactMul (flushBf16 wf p.1) (flushBf16 af p.2))
  let infs := ps.filterMap (fun p => match p with | some (.inf n) => some n | _ => none)
  if ps.any (·.isNone) ∨ (infs.contains true ∧ infs.contains false) then Fmt.fp32.nanCode
  else if infs.contains true then Fmt.fp32.pack true Fmt.fp32.infCode
  else if infs.contains false then Fmt.fp32.pack false Fmt.fp32.infCode
  else
    let ds := ps.filterMap (fun p => p.map dyadic)
    let nz := ds.filter (fun d => d.1 != 0)
    if exactFormats wf af ∨ nz.length ≤ 1 then let x := sumDyadic nz; fp32Of x.1 x.2
    else (Config.passSum ds).toNat

/-- A pass sum added to an accumulator; a subnormal result becomes a zero of its sign (R42, R46). -/
def accumulate (acc ps : Nat) : Nat :=
  let f := Fmt.fp32
  let r := (f.add (f.decode acc) (f.decode ps)).1
  if r % 2 ^ 31 < 2 ^ 23 then r / 2 ^ 31 * 2 ^ 31 else r

/-- An accumulator under the scales of the output and converted to the output format (R46, R50). -/
def outputOf (acc : Nat) (scales : List Nat) (fmt : Fmt) (sat : Bool) : Nat :=
  let f := Fmt.fp32
  let mul := fun a b => (f.mul (f.decode a) (f.decode b)).1
  let x := match scales with
    | [] => acc
    | [a] => mul acc a
    | a :: b :: _ => match Config.scaleOrder % 3 with
      | 0 => mul (mul acc a) b
      | 1 => mul (mul acc b) a
      | _ => mul acc (mul a b)
  (fmt.convert false sat (f.decode x)).1

/-! Groups (R58, R59) -/

/-- The clusters of stand `n` on die `d`, by their index within the die. -/
def State.dieClusters (s : State) (n d : Nat) : List Nat :=
  ((s.clusters n).filter (fun c => c / 16 == d)).map (· % 16)

/-- The groups of size `g` that are formed on die `d` (R58). -/
def State.formedGroups (s : State) (n d g : Nat) : List Nat :=
  (List.range (16 / g)).filter (fun j => (List.range g).all (fun p => (s.dieClusters n d).contains (j * g + p)))

/-- Position and local row of die row `r` (R60). -/
def rowPlace (g r : Nat) : Nat × Nat := (r / 512 % g, r / (g * 512) * 512 + r % 512)

/-- Bytes written to the activation store of every cluster of stand `n` on die `d` at position `p` (R59). -/
def State.writePosition (s : State) (n d g p a : Nat) (bs : List Byte) : State :=
  ((s.dieClusters n d).filter (fun x => x % g == p)).foldl (fun s x =>
    { s with mem := s.mem.putList ((Space.act (16 * d + x)).key a) bs }) s

/-- A MATMUL operation (Table 3.7). -/
structure MatmulOp where
  wsd : Nat
  g : Nat
  acc : Bool
  sat : Bool
  outFormat : Nat
  inFormat : Nat
  inOff : Nat
  outOff : Nat
  rows : Nat
  inScale : Nat
  obFirst : Nat
  obCount : Nat
  experts : Nat
  route : Nat
  deriving DecidableEq, Repr

/-- A MATMUL from its 32 bytes. -/
def MatmulOp.ofBytes (b : List Byte) : MatmulOp :=
  let w0 := le b 0 8
  let w3 := le b 24 8
  ⟨bits w0 32 16, 2 ^ bits w0 48 3, bit w0 51, bit w0 52, bits w0 53 5, bits w0 58 5, le b 8 4, le b 12 4, le b 16 2,
   le b 20 4, bits w3 0 16, bits w3 16 16, bits w3 32 16, 4096 * bits w3 48 16⟩

/-- The output element format. -/
def MatmulOp.outFmt (o : MatmulOp) : Fmt :=
  match formatOf o.outFormat with
  | some (.flt f, _) => f
  | _ => .fp32

/-- Multiply-accumulates per cell per two cycles (Table 2.5). -/
def rate2 (wf : Nat) : Nat :=
  if wf = ternCode then 8
  else match formatOf wf with
    | some (el, _) => if el.width = 16 then 1 else if el.width = 8 then 2 else 4
    | none => 2

/-- The FP32 scales that an output column takes. -/
def State.outScales (s : State) (n : Nat) (o : MatmulOp) (d : Wsd) (col : Nat) : List Nat :=
  let plainAct := match formatOf o.inFormat with | some (_, .plain) => true | _ => false
  let w := if d.format = ternCode then [s.peekLe n (d.rowScale + 4 * col) 4]
    else match formatOf d.format with
      | some (_, .mx) => []
      | _ => [d.tensorScale]
  (if plainAct then [o.inScale] else []) ++ w

/-- One row of one group's cluster multiplied with one output block: where the row's activations lie, and the local
output row. -/
structure RowJob where
  /-- Cluster (package-wide) and offset of the input row. -/
  inCluster : Nat
  inAddr : Nat
  position : Nat
  outAddr : Nat
  deriving DecidableEq, Repr

/-- The outputs of the rows `jobs` for block `b` of slice `sl`, written at their positions on die `die`. `segs` holds,
tile by tile and column by column, the weights of the block. -/
def State.runBlock (s : State) (n die : Nat) (o : MatmulOp) (d : Wsd) (sl b : Nat) (jobs : List RowJob)
    (segs : List (List (List Num))) : State :=
  let cols := d.blockCols sl b
  let first := (d.cols sl).1 + b * d.width
  let kk := (d.reds sl).2 - (d.reds sl).1
  let size := o.outFmt.width / 8
  jobs.foldl (fun s j =>
    let acts := (List.range (d.tiles sl)).map (s.activations j.inCluster o.inFormat kk j.inAddr)
    let row := (List.range cols).map (fun c =>
      let a := j.outAddr + (b * d.width + c) * size
      let start := if o.acc then ofBytes (s.mem.bytes ((Space.act j.inCluster).key a) 4) else 0
      let acc := (List.range (d.tiles sl)).foldl (fun acc t =>
        accumulate acc (passSum d.format o.inFormat ((segs.getD t []).getD c []) (acts.getD t []))) start
      toBytes size (outputOf acc (s.outScales n o d (first + c)) o.outFmt o.sat))
    s.writePosition n die o.g j.position (j.outAddr + b * d.width * size) row.flatten) s

/-- The weights of block `b` of slice `sl`, with the invalid TERN bytes met. -/
def State.blockSegments (s : State) (n : Nat) (d : Wsd) (sl b : Nat) :
    Except WeightPoison (List (List (List Num)) × Bool) :=
  let cols := d.blockCols sl b
  let sb := segmentBytes d.format
  let ss := segmentScales d.format
  (List.range (d.tiles sl)).foldlM (fun (acc : List (List (List Num)) × Bool) t => do
    let (tile, bad) ← (List.range cols).foldlM (fun (acc : List (List Num) × Bool) c => do
      let seg ← s.planeBytes n d (d.offset sb 4096 sl b t c) sb
      let sc := if ss = 0 then .ok [] else s.peek n (d.scale + d.offset ss 64 sl b t c) ss
      match sc with
      | .ok sc => pure (acc.1 ++ [weightValues d.format seg sc],
          acc.2 || (d.format == ternCode && seg.any (fun x => 243 ≤ x.toNat)))
      | _ => .error ⟨false, d.scale + d.offset ss 64 sl b t c, none⟩) ([], acc.2)
    pure (acc.1 ++ [tile], bad)) ([], false)

/-- Output blocks that an operation streams from slice `sl` (Table 3.7). -/
def MatmulOp.blockRange (o : MatmulOp) (d : Wsd) (sl : Nat) : List Nat :=
  (List.range (d.blocks sl)).filter (fun b => o.obFirst ≤ b && (o.obCount == 0 || b < o.obFirst + o.obCount))

/-- MXC_PASSES, MXC_BUSY_CYCLES and MXC_STALL_CYCLES of a cluster after it streamed `v` weight vectors; how long it
waited is open (log 15). -/
def State.countPasses (s : State) (n c wf v : Nat) : State :=
  let busy := ceilDiv (2 * v) (rate2 wf)
  let (stall, s) := s.draw
  (((s.addFld Fld.MXC_PASSES_COUNT c 0 v).addFld Fld.MXC_BUSY_CYCLES_CYCLES c 0 busy).addFld
    Fld.MXC_STALL_CYCLES_CYCLES c 0 stall.toNat).account n 0 busy

/-- CMP_BLOCKS_DECODED and CMP_RAW_DECODED after block `b` of slice `sl` of a compressed tensor was streamed `rounds`
times (06_block_compression.md R142). -/
def State.countStreamed (s : State) (n : Nat) (d : Wsd) (sl b rounds : Nat) : State :=
  if !d.compressed then s
  else
    let sb := segmentBytes d.format
    let first := d.offset sb 4096 sl b 0 0 / 4096
    let all := ceilDiv (d.tiles sl * d.blockCols sl b * sb) 4096
    let tables := ((s.indexHeader n d.indexTable).map (·.1)).getD 0
    let raw := ((List.range all).filter (fun k =>
      match s.peek n (indexEntryAddr d.indexTable tables (first + k)) 16 with
      | .ok e => (IndexEntry.ofBytes e).raw
      | _ => false)).length
    (s.addFld Fld.CMP_BLOCKS_DECODED_COUNT n 0 (rounds * (all - raw))).addFld Fld.CMP_RAW_DECODED_COUNT n 0 (rounds * raw)

/-- An error of the matrix path: its sticky flag and context (R81). -/
def State.flagMxc (s : State) (f : Field) (c : Nat) (st : Step) (op wsd : Nat) : State :=
  s.flagError f c (fun s => s.setReg .MXC_ERROR_INFO c 0
    (op % 2 ^ 16 + wsd % 2 ^ 16 * 2 ^ 16 + st.model * 2 ^ 32 + st.layers % 256 * 2 ^ 35))

/-- A poisoned weight block met by a cluster: marked and recorded, the step abandoned, the model blocked (Table 3.8). -/
def State.weightPoisoned (s : State) (n c : Nat) (st : Step) (op wsd : Nat) (p : WeightPoison) : State :=
  let s := match p.fresh with
    | some (ea, a, err) => s.poisonEntry n ea a err
    | none => s
  let s := s.flagMxc Fld.MXC_ERROR_WEIGHT_POISONED c st op wsd
  (s.updStand n (fun x => { x with blocked := x.blocked.set st.model (p.indexed, p.addr) })).abandon n 0x32 op

/-- One expert's, or the dense, tensor streamed on die `die` of index `i` in the stand die order: `rowsOf` gives the row
jobs of each group. The Bool says whether the step goes on. -/
def State.streamDie (s : State) (n die sl : Nat) (st : Step) (op : Nat) (o : MatmulOp) (d : Wsd) (rounds : Nat)
    (jobs : Nat → List RowJob) : State × Bool :=
  let groups := s.formedGroups n die o.g
  (o.blockRange d sl).foldl (fun (acc : State × Bool) b =>
    let (s, ok) := acc
    if !ok then (s, false)
    else
      let j := groups.getD (b % groups.length) 0
      let c0 := 16 * die + j * o.g
      match s.blockSegments n d sl b with
      | .error p => (s.weightPoisoned n c0 st op d.index p, false)
      | .ok (segs, bad) =>
        let s := s.runBlock n die o d sl b (jobs j) segs
        let v := rounds * d.tiles sl * d.blockCols sl b
        let s := ((List.range o.g).foldl (fun s p => s.countPasses n (c0 + p) d.format v) s).countStreamed n d sl b rounds
        let s := if bad then
            (List.range o.g).foldl (fun s p => (s.flagMxc Fld.MXC_ERROR_BAD_ENCODING (c0 + p) st op d.index).event
              ⟨0x0101, some n, die, j * o.g + p, [c0 + p, d.index]⟩) s
          else s
        (s, true)) (s, true)

/-- The slice that die number `i` of the stand die order streams (R70). -/
def Wsd.sliceOf (d : Wsd) (i : Nat) : Nat := if d.slices = 1 then 0 else i

/-- The row jobs of a dense MATMUL for group `j` of a die. -/
def denseJobs (o : MatmulOp) (d : Wsd) (sl die j : Nat) : List RowJob :=
  let pitchIn := rowBytes o.inFormat ((d.reds sl).2 - (d.reds sl).1)
  let pitchOut := d.colCount sl * (o.outFmt.width / 8)
  (List.range o.rows).map (fun r =>
    let (p, l) := rowPlace o.g r
    ⟨16 * die + j * o.g + p, o.inOff + l * pitchIn, p, o.outOff + l * pitchOut⟩)

/-- The route list of a die (R73), if it is consistent: for each expert its entries' first index and their die rows. -/
def State.routeList (s : State) (n die : Nat) (o : MatmulOp) : Option (List (Nat × List Nat)) :=
  let c := 16 * die + ((s.dieClusters n die).headD 0)
  let rd := fun a len => ofBytes (s.mem.bytes ((Space.act c).key (o.route + a)) len)
  let room := s.actBytes n - (o.route + 8 + 8 * o.experts)
  let es := (List.range o.experts).map (fun e => (rd (8 + 8 * e) 4, rd (12 + 8 * e) 4))
  if rd 0 4 ≠ o.experts ∨ es.any (fun e => room < 2 * (e.2 + e.1)) then none
  else some (es.map (fun e => (e.2, (List.range e.1).map (fun x => rd (8 + 8 * o.experts + 2 * (e.2 + x)) 2))))

/-- The row jobs of an expert for group `j` of a die (R74). -/
def State.expertJobs (s : State) (n : Nat) (o : MatmulOp) (d : Wsd) (sl die : Nat) (e : Nat × List Nat) : List RowJob :=
  let pitchIn := rowBytes o.inFormat ((d.reds sl).2 - (d.reds sl).1)
  let pitchOut := d.colCount sl * (o.outFmt.width / 8)
  (e.2.zipIdx).map (fun x =>
    let (p, l) := rowPlace o.g x.1
    let src := ((s.dieClusters n die).filter (fun y => y % o.g == p)).headD 0
    ⟨16 * die + src, o.inOff + l * pitchIn, x.2 / 512 % o.g, o.outOff + (e.1 + x.2) * pitchOut⟩)

/-- A MATMUL streamed on every die of the stand. -/
def State.runMatmul (s : State) (n : Nat) (st : Step) (op : Nat) (o : MatmulOp) : State × Bool :=
  ((s.dieOrder n).zipIdx).foldl (fun (acc : State × Bool) di =>
    let (s, ok) := acc
    let die := di.1
    if !ok then (s, false)
    else if o.experts = 0 then
      let d := s.wsd n st.model o.wsd
      let sl := d.sliceOf di.2
      s.streamDie n die sl st op o d (ceilDiv o.rows (o.g * 512)) (denseJobs o d sl die)
    else
      match s.routeList n die o with
      | none => (s.abandon n 0x30 op, false)
      | some es =>
        (es.zipIdx).foldl (fun (acc : State × Bool) e =>
          let (s, ok) := acc
          if !ok ∨ e.1.2.isEmpty then (s, ok)
          else
            let d := s.wsd n st.model (o.wsd + e.2)
            let sl := d.sliceOf di.2
            s.streamDie n die sl st op o d (ceilDiv (ceilDiv e.1.2.length 512) o.g)
              (fun _ => s.expertJobs n o d sl die e.1)) (s, true)) (s, true)

/-! Collectives (R71, R72) -/

/-- A collective operation. -/
structure LinkOp where
  fmt : Fmt
  buf : Nat
  out : Nat
  rows : Nat
  cols : Nat
  deriving DecidableEq, Repr

/-- A collective from its 32 bytes. -/
def LinkOp.ofBytes (b : List Byte) : LinkOp :=
  ⟨if bits (le b 0 8) 32 5 = 1 then .bf16 else .fp32, le b 8 4, le b 12 4, le b 16 2, bits (le b 16 8) 16 24⟩

/-- Columns of slice `i` of `k`. -/
def LinkOp.slice (o : LinkOp) (k i : Nat) : Nat × Nat :=
  let t := ceilDiv o.cols (k * 128) * 128
  (min (i * t) o.cols, min ((i + 1) * t) o.cols)

/-- The group size of the last MATMUL before operation `op` in program order: it says which rows a cluster holds
(log 18). -/
def State.groupBefore (s : State) (n m op : Nat) : Nat :=
  ((List.range op).foldl (fun g i =>
    let b := s.opBytes n m i
    if le b 0 1 = 1 then (MatmulOp.ofBytes b).g else g) 1)

/-- The activation store that holds the rows of a position on a die. -/
def State.rowHolder (s : State) (n die g p : Nat) : Option Nat :=
  ((s.dieClusters n die).find? (fun x => x % g == p)).map (16 * die + ·)

/-- Partial sums of one column added in FP32 and rounded to the format at each addition, in the ring's order, which the
spec leaves open (R49, R72). -/
def ringSum (f : Fmt) (l : List Nat) : Nat :=
  (sumTree (fun a b => (f.convert false false (Fmt.fp32.decode (Fmt.fp32.add (f.decode a) (f.decode b)).1)).1)
    l.length l).headD 0

/-- REDUCE_SCATTER over the stand's dies. -/
def State.reduceScatter (s : State) (n g : Nat) (o : LinkOp) : State :=
  let dies := s.dieOrder n
  let k := dies.length
  let size := o.fmt.width / 8
  (List.range o.rows).foldl (fun acc r =>
    let (p, l) := rowPlace g r
    let parts := dies.filterMap (fun d => (s.rowHolder n d g p).map (fun c =>
      s.mem.bytes ((Space.act c).key (o.buf + l * o.cols * size)) (o.cols * size)))
    (dies.zipIdx).foldl (fun acc di =>
      let (lo, hi) := o.slice k di.2
      let out := (List.range (hi - lo)).flatMap (fun c =>
        toBytes size (ringSum o.fmt (parts.map (fun b => le b ((lo + c) * size) size))))
      acc.writePosition n di.1 g p (o.out + l * (hi - lo) * size) out) acc) s

/-- ALL_GATHER over the stand's dies. -/
def State.allGather (s : State) (n g : Nat) (o : LinkOp) : State :=
  let dies := s.dieOrder n
  let k := dies.length
  let size := o.fmt.width / 8
  (List.range o.rows).foldl (fun acc r =>
    let (p, l) := rowPlace g r
    let row := (dies.zipIdx).flatMap (fun di =>
      let (lo, hi) := o.slice k di.2
      match s.rowHolder n di.1 g p with
      | some c => s.mem.bytes ((Space.act c).key (o.buf + l * (hi - lo) * size)) ((hi - lo) * size)
      | none => zeros ((hi - lo) * size))
    dies.foldl (fun acc d => acc.writePosition n d g p (o.out + l * o.cols * size) row) acc) s

end Sys2Proof.Machine
end

