-- ==== Sys2Proof/Machine/Layer.lean ====
section
/-! DEFINITION. The operations of a layer program (03_matrix_cores.md R66-R74; 04_vector_cores.md R91, R94;
08_serving_scheduler.md R179). A command starts the next operation of its class when that operation has the command's
opcode and may start; otherwise it changes nothing (log 2). -/

namespace Sys2Proof.Machine

open Sys2Proof

/-! Fields of a request's submission entry (08_serving_scheduler.md Table 8.3) -/

def Request.model (r : Request) : Nat := bits (le r.entry 0 8) 11 3
def Request.cq (r : Request) : Nat := bits (le r.entry 0 8) 14 4
def Request.cls (r : Request) : Nat := bits (le r.entry 0 8) 24 8
def Request.customer (r : Request) : Nat := bits (le r.entry 0 8) 32 18
def Request.hasMask (r : Request) : Bool := bit (le r.entry 0 8) 8
def Request.seq (r : Request) : Nat := le r.entry 16 4
def Request.epoch (r : Request) : Nat := le r.entry 20 4
def Request.history (r : Request) : Nat := le r.entry 24 6
def Request.promptLen (r : Request) : Nat := le r.entry 32 4
def Request.maxNew (r : Request) : Nat := le r.entry 36 4
def Request.maskAddr (r : Request) : Nat := le r.entry 64 8
def Request.ttft (r : Request) : Nat := le r.entry 72 4
def Request.itl (r : Request) : Nat := le r.entry 76 4
def Request.stops (r : Request) : List Nat := (List.range 4).map (fun i => le r.entry (80 + 4 * i) 4)
def Request.historyCap (r : Request) : Nat := le r.entry 96 4

/-- The deadline class of a request. -/
def State.classOf (s : State) (n : Nat) (r : Request) : ClassCfg := ((s.stand n).cfg.classes.get? r.cls).getD {}

/-- ACTION is FALLBACK for the request: one that arrived by fallback uses END (R178). -/
def State.fallsBack (s : State) (n : Nat) (r : Request) : Bool := (s.classOf n r).fallback && !r.fellBack

/-- Active requests of stand `n` that have rows in its step. -/
def State.stepRequests (s : State) (n : Nat) : List Request :=
  match (s.stand n).step with
  | none => []
  | some st => (s.stand n).requests.filter (fun r => st.rows.any (fun w => w.kind != .padding && w.req == r.id))

/-- The mid-step checkpoint (R179). -/
def State.checkpoint (s : State) (n : Nat) : State :=
  (s.stepRequests n).foldl (fun s r =>
    let overdue := r.deadline.any (· < s.nowUs)
    let willExceed := (s.classOf n r).tolerance < r.misses + (if r.counted then 0 else 1)
    if overdue && s.fallsBack n r && willExceed then s.eventOf n 0x0301 38 [r.id] else s) s

/-! Ordering (R67) -/

/-- The class of an opcode: 0 matrix, 1 vector, 2 link, 3 control (Table 3.6). -/
def opClass : Nat → Nat
  | 1 => 0
  | 2 => 1
  | 3 => 2
  | 4 => 2
  | _ => 3

/-- The opcode of operation `i` of a model's program. -/
def State.opcode (s : State) (n m i : Nat) : Nat := le (s.opBytes n m i) 0 1

/-- Operations of the program of model `m`. -/
def State.opCount (s : State) (n m : Nat) : Nat := s.header n m 2 2

/-- The wait condition of an operation holds. -/
def waitHolds (st : Step) (b : List Byte) : Bool :=
  let w0 := le b 0 8
  let c := bits w0 8 4
  c == 0 || bits w0 16 16 ≤ (st.ctr.get? c).getD 0

/-- The next operation of a class: the lowest that has not started. -/
def State.nextOp (s : State) (n : Nat) (st : Step) (cls : Nat) : Option Nat :=
  (List.range (s.opCount n st.model)).find? (fun i =>
    opClass (s.opcode n st.model i) == cls && !st.started.contains i)

/-- Operation `i` may start: the previous one of its class and every earlier control operation have completed, and its
wait condition holds; LAYER_MARK and END wait for every earlier operation. -/
def State.mayStart (s : State) (n : Nat) (st : Step) (i : Nat) : Bool :=
  let op := s.opcode n st.model i
  let earlier := (List.range i).filter (fun j => !st.done.contains j)
  waitHolds st (s.opBytes n st.model i) &&
  earlier.all (fun j =>
    let o := s.opcode n st.model j
    opClass o != opClass op && opClass o != 3 && op != 5 && op != 7)

/-- The step of stand `n` while its layer program runs. -/
def State.running (s : State) (n : Nat) : Option Step :=
  match (s.stand n).step with
  | some st => if st.ended ∨ st.abandoned.isSome then none else some st
  | none => none

/-- The next operation of a class started when it has the opcode `op` and may start. -/
def State.startOp (s : State) (n cls op : Nat) (f : Step → Nat → List Byte → State → State) : State :=
  match s.running n with
  | none => s
  | some st =>
    match s.nextOp n st cls with
    | none => s
    | some i =>
      if s.opcode n st.model i = op ∧ s.mayStart n st i then
        f st i (s.opBytes n st.model i) (s.updStep n (fun st => { st with started := i :: st.started }))
      else s

/-- Operation `i` completes: its SIGNAL_CTR, 16 bits wide, is incremented. -/
def State.completeOp (s : State) (n i : Nat) : State :=
  s.updStep n (fun st =>
    let c := bits (le (s.opBytes n st.model i) 0 8) 12 4
    { st with done := i :: st.done,
              ctr := if c = 0 then st.ctr else st.ctr.set c (((st.ctr.get? c).getD 0 + 1) % 2 ^ 16) })

/-- MXC_STATUS of the clusters of the groups that stream. -/
def State.setMxcStatus (s : State) (n g log2 state : Nat) : State :=
  (s.dieOrder n).foldl (fun s die =>
    (s.formedGroups n die g).foldl (fun s j =>
      (List.range g).foldl (fun s p =>
        let c := 16 * die + j * g + p
        (((s.setFld Fld.MXC_STATUS_STATE c 0 state).setFld Fld.MXC_STATUS_GROUP_LOG2 c 0 log2).setFld
          Fld.MXC_STATUS_POSITION c 0 p).setFld Fld.MXC_STATUS_GROUP c 0 j) s) s) s

/-- MATMUL of stand `n`. `actError` names a cluster whose activation store met an uncorrectable error during a tile load
or write. Cores that are not clocked are started by the governor first (R77). -/
def execMatmul (n : Nat) (actError : Option Nat) (s : State) : Host.Outcome State Fault Refusal :=
  .next (if !s.matrixReady n then (if (s.running n).isSome then s.matrixRequests n else s) else s.startOp n 0 1 (fun st i b s =>
    let o := MatmulOp.ofBytes b
    let s := (s.clusters n).foldl (fun s c => s.work (.matrix c)) s
    let s := s.setMxcStatus n o.g (bits (le b 0 8) 48 3) 1
    match actError with
    | some c =>
      if (s.clusters n).contains c then (s.flagMxc Fld.MXC_ERROR_ACT_POISONED c st i o.wsd).abandon n 0x33 i
      else (s.runMatmul n st i o).1
    | none => (s.runMatmul n st i o).1))

/-- VTASKS of stand `n`: its tasks are placed in table order while cores are free. -/
def execVtasks (n : Nat) (s : State) : Host.Outcome State Fault Refusal :=
  .next (s.startOp n 1 2 (fun _ i b s =>
    let w3 := le b 24 8
    let limit := bits w3 20 32
    let op : VOp := { index := i, table := le b 8 6, statusAddr := le b 16 6, count := bits w3 0 20,
                      limit := if limit = 0 then 16384 else limit }
    (s.updStep n (fun st => { st with vop := some op })).placeAll op.count n))

/-- REDUCE_SCATTER of stand `n`. -/
def execReduceScatter (n : Nat) (s : State) : Host.Outcome State Fault Refusal :=
  .next (s.startOp n 2 3 (fun st i b s => s.reduceScatter n (s.groupBefore n st.model i) (LinkOp.ofBytes b)))

/-- ALL_GATHER of stand `n`. -/
def execAllGather (n : Nat) (s : State) : Host.Outcome State Fault Refusal :=
  .next (s.startOp n 2 4 (fun st i b s => s.allGather n (s.groupBefore n st.model i) (LinkOp.ofBytes b)))

/-- WAIT of stand `n`. -/
def execWait (n : Nat) (s : State) : Host.Outcome State Fault Refusal :=
  .next (s.startOp n 3 6 (fun _ i _ s => s.completeOp n i))

/-- END of stand `n`'s program: the layer-program phase ends and the commit phase follows. -/
def execOpEnd (n : Nat) (s : State) : Host.Outcome State Fault Refusal :=
  .next (s.startOp n 3 7 (fun _ i _ s =>
    ((s.completeOp n i).updStep n (fun st => { st with ended := true })).setFld Fld.SCH_STATUS_STATE n 0 3))

/-- OPERATION_COMPLETE: operation `i` of stand `n`'s step, a VTASKS once every task of it has ended. -/
def execOperationComplete (n i : Nat) (s : State) : Host.Outcome State Fault Refusal :=
  .next (
    match s.running n with
    | none => s
    | some st =>
      if !st.started.contains i ∨ st.done.contains i then s
      else if s.opcode n st.model i = 2 then
        match st.vop with
        | some op =>
          if op.index = i ∧ op.next = op.count ∧ op.ended = op.count then
            (s.completeOp n i).updStep n (fun st => { st with vop := none })
          else s
        | none => s
      else if s.opcode n st.model i = 1 then
        let g := bits (le (s.opBytes n st.model i) 0 8) 48 3
        ((s.setMxcStatus n (2 ^ g) g 0).matrixRest n).completeOp n i
      else s.completeOp n i)

end Sys2Proof.Machine
end

