-- ==== Sys2Proof/Machine/Canopy.lean ====
section
/-! DEFINITION. The composition map's epochs and the canopy index (09_state_movement.md R194-R198, R211-R215). -/

namespace Sys2Proof.Machine

open Sys2Proof

/-- The seconds count of the node's clock (R208). -/
def State.nowS (s : State) : Nat := s.timeNs / 1000000000

/-! The composition map (R194-R198) -/

/-- The composition map of hub die `h`. -/
def compTable (h : Nat) : Table := ⟨h, kindComposition, 0⟩

/-- The match data of a composition key (13_associative_search.md Table 13.1). -/
def compKey (tenant model cls : Nat) : Nat := cls % 2 ^ 8 + model % 2 ^ 16 * 2 ^ 8 + tenant % 2 ^ 16 * 2 ^ 24

/-- MODEL_ID of model `m` of stand `n`. -/
def State.modelId (s : State) (n m : Nat) : Nat := ((s.stand n).cfg.models.get? m).map (·.modelId) |>.getD 0

/-- A composition key with its epochs. -/
def State.composition (s : State) (tenant model cls : Nat) : Option Composition :=
  s.comps.find? (fun c => c.tenant == tenant && c.model == model && c.cls == cls)

/-- A composition set: it takes the place of the one with its key. -/
def State.setComposition (s : State) (c : Composition) : State :=
  { s with comps := s.comps.filter (fun x => x.tenant != c.tenant || x.model != c.model || x.cls != c.cls) ++
      (if c.epochs.isEmpty then [] else [c]) }

/-- The epoch `num` of a key, where the engine of hub die `h` holds it. -/
def State.epochOf (s : State) (h tenant model cls num : Nat) : Option Epoch :=
  (s.composition tenant model cls).bind (fun c => c.epochs.find? (fun e => e.num == num && e.held.testBit h))

/-- The epoch that a search of the map on hub die `h` returns for a key. -/
def State.activeEpoch (s : State) (h tenant model cls : Nat) : State × Option Nat :=
  (s.searched h, (s.lookup (compTable h) (compKey tenant model cls)).map (fun e => e.2.result % 2 ^ 32))

/-- An event of an epoch or of a member: to the package ring and to the listed stands (R219). -/
def State.swyEventAll (s : State) (stands : List Nat) (kind requestId bundleId epoch arg : Nat) : State :=
  stands.foldl (fun s n => s.swyEvent n kind requestId bundleId epoch arg) (s.swyEvent 24 kind requestId bundleId epoch arg)

/-- The epoch that a request of stand `n` is bound to at intake (R197). -/
def State.bindEpoch (s : State) (n : Nat) (r : Request) : State × Option Nat :=
  let h := s.hubOf n
  let tenant := (s.stand n).cfg.tenant
  let model := s.modelId n r.model
  match s.activeEpoch h tenant model r.cls with
  | (s, none) => (s, none)
  | (s, some a) =>
    if (s.epochOf h tenant model r.cls r.epoch).isSome then (s, some r.epoch)
    else (s.swyEventAll [n] 8 r.id 0 a r.seq, some a)

/-- The in-flight count of an epoch on the engine of hub die `h` (R198). -/
def State.inFlight (s : State) (h tenant model cls num : Nat) : Nat :=
  let at_ := fun (e : Nat × Stand) =>
    if s.hubOf e.1 ≠ h ∨ e.2.cfg.tenant ≠ tenant then 0
    else
      (e.2.requests.filter (fun r => r.bound == some num && r.cls == cls && s.modelId e.1 r.model == model)).length +
      (e.2.sapway.sending.filter (fun b =>
        b.record.isSome && b.header.epoch == num && b.header.cls == cls && b.header.modelId == model)).length
  (s.stands.map at_).foldl (· + ·) 0

/-- A DRAINING epoch whose count on an engine is zero is RETIRED there (R198). -/
def State.retireOn (s : State) (h : Nat) (c : Composition) (e : Epoch) : State :=
  if e.active ∨ !e.held.testBit h ∨ s.inFlight h c.tenant c.model c.cls e.num ≠ 0 then s
  else
    match s.composition c.tenant c.model c.cls with
    | none => s
    | some x =>
      let es := (x.epochs.map (fun y => if y.num = e.num then { y with held := y.held - 2 ^ h } else y)).filter
        (fun y => y.active || y.held != 0)
      let stands := s.allStands.filter (fun n => s.hubOf n == h && (s.stand n).cfg.tenant == c.tenant)
      (s.setComposition { x with epochs := es }).swyEventAll stands 7 0 0 e.num h

/-- Every epoch that can be retired is. -/
def State.retireEpochs (s : State) : State :=
  s.comps.foldl (fun s c => c.epochs.foldl (fun s e => (s.retireOn 0 c e).retireOn 1 c e) s) s

/-! Hashes (R211) -/

/-- The canopy key of a model under the sealing job key. -/
def canopyKey (key : List Byte) (model : Nat) : List Byte := hkdf key [] (ascii "canopy" ++ toBytes 2 model)

/-- The hash of a block of 64 tokens after the hash before it. -/
def blockHash (key : List Byte) (model : Nat) (prev tokens : List Byte) : List Byte :=
  (hmac key (prev ++ toBytes 2 model ++ tokens)).take 16

/-- The hashes of the blocks of a history's bytes, in order. -/
def blockHashes (key : List Byte) (model : Nat) : List Byte → List (List Byte) → List (List Byte)
  | _, [] => []
  | prev, b :: bs =>
    let h := blockHash key model prev b
    h :: blockHashes key model h bs

/-- The hashes of the first `k` blocks of the history at a stand address; none where it cannot be read or no key seals
the canopy. -/
def State.historyHashes (s : State) (n m addr k : Nat) : Option (List (List Byte)) :=
  match s.sealKey n, s.peek n addr (256 * k) with
  | some key, .ok bs =>
    let id := s.modelId n m
    some (blockHashes (canopyKey key id) id (zeros 16) (chunks 256 bs))
  | _, _ => none

/-! The tree (R212-R214) -/

/-- The child of a node, or of the root, with a hash. -/
def childOf (nodes : SMap CanopyNode) (model : Nat) (parent : Option Nat) (depth : Nat) (h : List Byte) : Option Nat :=
  (nodes.find? (fun e => e.2.model == model && e.2.parent == parent && e.2.depth == depth + 1 && e.2.hash == h)).map (·.1)

/-- The nodes on the path of a list of hashes from the root. -/
def followPath (nodes : SMap CanopyNode) (model : Nat) : Option Nat → Nat → List (List Byte) → List Nat
  | _, _, [] => []
  | parent, depth, h :: hs =>
    match childOf nodes model parent depth h with
    | some i => i :: followPath nodes model (some i) (depth + 1) hs
    | none => []

/-- The model may use the canopy (R213). -/
def State.usesCanopy (s : State) (n m : Nat) : Bool := ((s.stand n).cfg.models.get? m).any (·.canopy)

/-- Token slots of a page of a model that uses the canopy. -/
def State.canopyTpp (s : State) (n m : Nat) : Nat := 2 ^ (((s.stand n).cfg.models.get? m).map (·.canopyTpp)).getD 0

/-- The lookup of a request at intake (R214): the depth and hash that it matched. -/
def State.canopyLookup (s : State) (n : Nat) (r : Request) : State × Option (Nat × List Byte) :=
  let k := (r.promptLen - 1) / 64
  match (s.stand n).kv.pool with
  | none => (s, none)
  | some p =>
    if !s.usesCanopy n r.model || !s.seqValid n p r.seq || (s.seqRecord n p r.seq).length != 0 then (s, none)
    else
      match s.historyHashes n r.model r.history k with
      | none => (s, none)
      | some hs =>
        let s := s.addFld Fld.SWY_LOOKUP_BLOCKS_COUNT n 0 hs.length
        let path := followPath (s.stand n).canopy r.model none 0 hs
        let s := s.addFld Fld.SWY_MATCHED_BLOCKS_COUNT n 0 path.length
        match path.getLast?.bind (fun i => (s.stand n).canopy.get? i) with
        | none => (s, none)
        | some x =>
          let now := s.nowS
          let use := fun e : Nat × CanopyNode => if path.contains e.1 then (e.1, { e.2 with lastUse := now }) else e
          let s := s.updStand n (fun st => { st with canopy := st.canopy.map use })
          (s.deviceCommand n { op := 2, seq := r.seq, src := x.anchor, count := 64 * x.depth / s.canopyTpp n r.model },
            some (x.depth, x.hash))

/-- The node that holds a hash at a depth, as an OFFER's probe asks for it. -/
def State.probeNode (s : State) (n m depth : Nat) (h : List Byte) : Option Nat :=
  if depth = 0 then none
  else ((s.stand n).canopy.find? (fun e => e.2.model == m && e.2.depth == depth && e.2.hash == h)).map (·.1)

/-- A node and its ancestors. -/
def ancestors (nodes : SMap CanopyNode) : Nat → Option Nat → List Nat
  | 0, _ => []
  | _, none => []
  | fuel + 1, some i => i :: ancestors nodes fuel ((nodes.get? i).bind (·.parent))

/-- The pin counts of a node and its ancestors raised, or lowered. -/
def State.pinPath (s : State) (n i : Nat) (up : Bool) : State :=
  s.updStand n (fun st =>
    let l := ancestors st.canopy (st.canopy.length + 1) (some i)
    let mark := fun e : Nat × CanopyNode =>
      if l.contains e.1 then (e.1, { e.2 with pins := if up then e.2.pins + 1 else e.2.pins - 1 }) else e
    { st with canopy := st.canopy.map mark })

/-! Insertion and removal (R215) -/

/-- One leaf evicted: pin count 0, oldest LAST_USE, lowest index; `keep` is not evicted. -/
def State.evictLeaf (s : State) (n : Nat) (keep : List Nat) : Option State :=
  let c := (s.stand n).canopy.filter (fun e => e.2.children == 0 && e.2.pins == 0 && !keep.contains e.1)
  match sortBy (fun e : Nat × CanopyNode => e.2.lastUse) c with
  | [] => none
  | e :: _ => some (s.dropNodes n [e.1])

/-- Leaves evicted until `k` nodes fit the stand's allotment. -/
def State.makeRoom (s : State) (n k : Nat) (keep : List Nat) : Nat → Option State
  | 0 => if (s.stand n).canopy.length + k ≤ (s.stand n).cfg.canopyNodes then some s else none
  | fuel + 1 =>
    if (s.stand n).canopy.length + k ≤ (s.stand n).cfg.canopyNodes then some s
    else match s.evictLeaf n keep with
      | some s => s.makeRoom n k keep fuel
      | none => none

/-- Nodes for the hashes below a node added, one below the other. -/
def State.addNodes (s : State) (n m anchor : Nat) : Option Nat → Nat → List (List Byte) → State
  | _, _, [] => s
  | parent, depth, h :: hs =>
    match (s.stand n).canopy.firstFree ((s.stand n).canopy.length + 1) with
    | none => s
    | some i =>
      let s := s.updStand n (fun st =>
        let up := match parent.bind (fun j => st.canopy.get? j) with
          | some x => st.canopy.set (parent.getD 0) { x with children := x.children + 1 }
          | none => st.canopy
        { st with canopy := up.set i { model := m, hash := h, parent := parent, depth := depth + 1, anchor := anchor,
                                       lastUse := s.nowS } })
      s.addNodes n m anchor (some i) (depth + 1) hs

/-- The anchor's length fits every ring group of its model (R213). -/
def State.ringsHold (s : State) (n : Nat) (p : Pool) (r : SeqRecord) : Bool :=
  (s.kvGroups n p r.model).all (fun g => !g.ring || decide (r.length ≤ g.ringPages * g.tpp))

/-- CANOPY_INSERT of an anchor: its result. The anchor's tokens are those of the history that its requests used. -/
def State.canopyInsert (s : State) (n seq : Nat) : State × Nat :=
  match s.kvActive n, (s.stand n).sapway.histories.get? seq with
  | some p, some (addr, tokens) =>
    let r := s.seqRecord n p seq
    let k := r.length / 64
    if !s.seqValid n p seq ∨ !s.usesCanopy n r.model ∨ !s.ringsHold n p r ∨ tokens < 64 * k then (s, 0x10)
    else
      let s := s.noted n addr (256 * k)
      match s.historyHashes n r.model addr k with
      | none => (s, 0x10)
      | some hs =>
        let path := followPath (s.stand n).canopy r.model none 0 hs
        let more := hs.drop path.length
        match s.makeRoom n more.length path (s.stand n).canopy.length with
        | none => (s, 0x1F)
        | some s => (s.addNodes n r.model seq path.getLast? path.length more, 0)
  | _, _ => (s, 0x10)

/-- The nodes of an anchor removed, where none of them is pinned; the Bool says whether they were. -/
def State.dropAnchor (s : State) (n seq : Nat) : State × Bool :=
  let mine := (s.stand n).canopy.filter (·.2.anchor == seq)
  if mine.any (fun e => e.2.pins != 0) then (s, false) else (s.dropNodes n (mine.map (·.1)), true)

/-- The CANOPY_DROP commands that waited for pins. -/
def State.settleDrops (s : State) (n : Nat) : State :=
  ((s.stand n).sapway.drops).foldl (fun s d =>
    match s.dropAnchor n d.2 with
    | (s, true) => (s.updStand n (fun st => { st with sapway :=
        { st.sapway with drops := st.sapway.drops.filter (· != d) } })).runDone .swy n d.1 0
    | (s, false) => s) s

/-- A pin taken off: drops that waited go on. -/
def State.unpin (s : State) (n i : Nat) : State := (s.pinPath n i false).settleDrops n

end Sys2Proof.Machine
end

