-- ==== Sys2Proof/Machine/Intake.lean ====
section
/-! DEFINITION. Intake: submission entries checked, taken in or refused, and cancels (08_serving_scheduler.md R164-R170,
R180). -/

namespace Sys2Proof.Machine

open Sys2Proof

/-! Submission entries (Table 8.3) -/

/-- Every reserved bit of a NEW entry is 0, and its OP is one of the two. -/
def entryClean (e : List Byte) : Bool :=
  let w := fun i => le e (8 * i) 8
  bits (w 0) 0 8 == 1 && bits (w 0) 9 2 == 0 && bits (w 0) 18 6 == 0 && bits (w 0) 50 14 == 0 && bits (w 3) 48 16 == 0 &&
  bits (w 6) 16 48 == 0 && bits (w 12) 32 32 == 0 && w 13 == 0 && w 14 == 0 && w 15 == 0

/-- TEMPERATURE is 0 or positive; TOP_P is above 0 and at most 1.0; TOP_K is at most 4,096. -/
def samplerOk (e : List Byte) : Bool :=
  let f := Fmt.fp32
  let t := f.decode (le e 40 4)
  let p := f.decode (le e 44 4)
  !t.isNan && (t.isZero || !t.neg) && !p.isNan && !p.neg && !p.isZero && decide (p.cmp (f.decode 0x3F800000) ≤ 0) &&
  decide (le e 48 2 ≤ 4096)

/-- Lengths in their ranges, within the history's capacity. -/
def lengthsOk (e : List Byte) : Bool :=
  let p := le e 32 4
  let m := le e 36 4
  decide (1 ≤ p) && decide (p ≤ 16777216) && decide (1 ≤ m) && decide (m ≤ 16777216) && decide (p + m ≤ le e 96 4)

/-- The request that an entry makes. -/
def requestOf (e : List Byte) : Request := { id := le e 8 8, entry := e }

/-- The role of stand `n`: 0 prompt, 1 generation, 2 cache, 3 combined. -/
def State.role (s : State) (n : Nat) : Nat := s.layout Fld.GLB_STAND_ROLE n

/-- The record of a sequence covers a prompt. -/
def State.covers (s : State) (n seq len : Nat) : Bool :=
  match (s.stand n).kv.pool with
  | some p => s.seqValid n p seq && decide (len ≤ (s.seqRecord n p seq).length)
  | none => false

/-- How a request came. -/
inductive Origin where
  | host | handoff | fallback
  deriving DecidableEq, Repr

/-- The role accepts the entry (Table 8.2; 09_state_movement.md R206 for fallback arrivals). -/
def State.roleTakes (s : State) (n : Nat) (o : Origin) (r : Request) : Bool :=
  match s.role n, o with
  | 0, .handoff => false
  | 0, _ => true
  | 1, .host => s.covers n r.seq r.promptLen
  | 1, _ => true
  | 2, _ => false
  | _, _ => true

/-- The address of a customer's record, where every byte of it lies in the stand address space (R169). -/
def State.customerAt (s : State) (n c : Nat) : Option Nat :=
  let a := s.fld Fld.SCH_CUSTOMERS_ADDR n
  if a = 0 ∨ 2 ^ s.fld Fld.SCH_CUSTOMERS_LOG2 n ≤ c ∨ !s.mappedRange n false (a + 64 * c) 64 then none
  else some (a + 64 * c)

/-- ENABLE of a customer's record. -/
def State.customerOn (s : State) (n c : Nat) : Bool := (s.customerAt n c).any (fun a => (s.peekLe n (a + 56) 8).testBit 0)

/-- The first status for which a NEW entry is refused; 0 where it is taken in (R169). -/
def State.refusal (s : State) (n : Nat) (o : Origin) (e : List Byte) : Nat :=
  let r := requestOf e
  let st := s.stand n
  let seqMax := ((st.kv.pool).map (·.seqMax)).getD 0
  if st.requests.any (·.id == r.id) ∨ st.done.any (·.id == r.id) then 5
  else if !entryClean e ∨ !samplerOk e ∨ !lengthsOk e ∨ (st.cfg.models.get? r.model).isNone ∨ seqMax ≤ r.seq ∨
      r.history % 64 ≠ 0 ∨ (s.loc n r.history).isNone ∨ !s.flag Fld.SCH_CQ_BASE_ENABLE n r.cq ∨ !s.roleTakes n o r then 7
  else if !s.customerOn n r.customer then 6
  else 0

/-! Completions -/

/-- An entry about a request: of the present step, at the present time. -/
def State.about (s : State) (n id seq status : Nat) : Completion :=
  { req := id, status := status, step := s.stepLow n, us := s.nowUs % 2 ^ 32, seq := seq }

/-- A done record kept for RETAIN_MS; of 131,072 the oldest is dropped (R180). -/
def State.keepDone (s : State) (n id status : Nat) : State :=
  s.updStand n (fun st =>
    if st.cfg.retainMs = 0 then st
    else { st with done := (if 131072 ≤ st.done.length then st.done.drop 1 else st.done) ++ [⟨id, status, s.nowUs⟩] })

/-- A request becomes DONE with a status: it leaves the active ones. -/
def State.finish (s : State) (n : Nat) (r : Request) (status : Nat) : State :=
  ((s.updStand n (fun st => { st with requests := st.requests.filter (·.id != r.id) })).keepDone n r.id status).retireEpochs

/-- A status-only final entry of a request, which becomes DONE. -/
def State.endWith (s : State) (n : Nat) (r : Request) (status : Nat) : State :=
  (s.cqEntry n r.cq { s.about n r.id r.seq status with final := true }).finish n r status

/-- A request ends CANCELLED (Table 8.9). -/
def State.endCancelled (s : State) (n : Nat) (r : Request) : State :=
  let s := s.cqEntry n r.cq { s.about n r.id r.seq 2 with final := true, cancelReply := true }
  (s.account n 14 1).finish n r 2

/-- SCH_ERROR with its context. -/
def State.flagSch (s : State) (f : Field) (n seq queue status : Nat) : State :=
  s.flagError f n (fun s => s.setReg .SCH_ERROR_INFO n 0 (seq % 2 ^ 32 + queue * 2 ^ 32 + status * 2 ^ 36))

/-! Taking in (R169, R170) -/

/-- A request that passed its checks is bound to its epoch, looked up in the canopy and queued. -/
def State.queueRequest (s : State) (n : Nat) (r : Request) : State :=
  let (s, ep) := s.bindEpoch n r
  let (s, probe) := if s.role n = 2 then (s, none) else s.canopyLookup n r
  let k := (s.stand n).kv
  let size := 2 ^ s.fld Fld.KVM_CMD_RING_SIZE_LOG2 n
  let waiting := (s.fld Fld.KVM_CMD_TAIL_TAIL n % size + size - s.fld Fld.KVM_CMD_HEAD_HEAD n % size) % size
  let limit := if r.generated = 0 then r.ttft else r.itl
  let q : Request := { r with
    bound := ep, probe := probe, deadline := if limit = 0 then none else some (s.nowUs + limit),
    ringMark := k.ringDone + waiting, deviceMark := k.deviceDone + k.device.length }
  (s.updStand n (fun st => { st with
    requests := st.requests ++ [q],
    sapway := { st.sapway with histories := st.sapway.histories.set r.seq (r.history, r.promptLen + r.generated) } })).kvSettle n

/-- A NEW entry of queue `q` taken in or refused. -/
def State.takeNew (s : State) (n q : Nat) (e : List Byte) : State :=
  let r := requestOf e
  let st := s.refusal n .host e
  if st = 0 then s.queueRequest n r
  else
    let cq := if s.flag Fld.SCH_CQ_BASE_ENABLE n r.cq then r.cq else s.fld Fld.SCH_SQ_BASE_DEFAULT_CQ n q
    (s.cqEntry n cq { s.about n r.id r.seq st with final := true }).flagSch Fld.SCH_ERROR_REQUEST_INVALID n r.seq q st

/-- An identifier that is registered to arrive is cancelled when it does (09_state_movement.md Table 9.6). -/
def State.cancelArrival (s : State) (n id : Nat) : Option State :=
  if (s.stand n).sapway.arrivals.any (fun a => a.begun && le a.words 16 8 == id) then
    some (s.updStand n (fun st =>
      let l := st.sapway.arrivals.map (fun a => if a.begun && le a.words 16 8 == id then { a with cancel := true } else a)
      { st with sapway := { st.sapway with arrivals := l } }))
  else none

/-- A CANCEL of queue `q` seen (R180): its reply for a request that is not active goes to DEFAULT_CQ. -/
def State.takeCancel (s : State) (n q : Nat) (e : List Byte) : State :=
  let id := le e 8 8
  let reply := fun st => s.cqEntry n (s.fld Fld.SCH_SQ_BASE_DEFAULT_CQ n q) { s.about n id 0 st with cancelReply := true }
  match (s.stand n).requests.find? (·.id == id) with
  | some r =>
    if (s.stand n).step.isNone then s.endCancelled n r
    else s.updStand n (fun st => { st with
      requests := st.requests.map (fun x => if x.id = id then { x with cancel := true } else x) })
  | none =>
    match s.cancelArrival n id with
    | some s => s
    | none => reply (if (s.stand n).done.any (·.id == id) then 3 else 4)

/-! Queues (R169) -/

/-- The tail of submission queue `q`. -/
def State.sqTail (s : State) (n q : Nat) : Nat :=
  if s.flag Fld.SCH_SQ_BASE_TAIL_SOURCE n q then s.peekLe n (s.fld Fld.SCH_SQ_TAILWORD_TAIL_ADDR n q) 4
  else s.fld Fld.SCH_SQ_TAIL_INDEX n q

/-- The entry at HEAD of submission queue `q`. -/
def State.sqFront (s : State) (n q : Nat) : Option (List Byte) :=
  let size := 2 ^ s.fld Fld.SCH_SQ_BASE_SIZE_LOG2 n q
  let h := s.fld Fld.SCH_SQ_HEAD_INDEX n q % size
  if !s.flag Fld.SCH_SQ_BASE_ENABLE n q ∨ h = s.sqTail n q % size then none
  else
    match s.peek n (s.fld Fld.SCH_SQ_BASE_ADDR n q + 128 * h) 128 with
    | .ok bs => some bs
    | _ => none

/-- The next entry in the queues' turn. -/
def State.intakeNext (s : State) (n : Nat) : Option (Nat × List Byte) :=
  ((List.range 16).map (fun i => ((s.stand n).intakeTurn + i) % 16)).findSome? (fun q => (s.sqFront n q).map (fun e => (q, e)))

/-- HEAD of a queue moves past its entry, and the turn passes. -/
def State.sqAdvance (s : State) (n q : Nat) : State :=
  let size := 2 ^ s.fld Fld.SCH_SQ_BASE_SIZE_LOG2 n q
  (s.setFld Fld.SCH_SQ_HEAD_INDEX n q ((s.fld Fld.SCH_SQ_HEAD_INDEX n q + 1) % size)).updStand n
    (fun st => { st with intakeTurn := (q + 1) % 16 })

/-- Intake takes the next entry, where `which` says that it is of the row's kind. It pauses while REQ_MAX requests are
active. -/
def State.intake (s : State) (n : Nat) (which : List Byte → Bool) (take : Nat → List Byte → State → State) : State :=
  if (s.stand n).cond ≠ .running ∨ (s.stand n).life.stage ≠ .steady ∨ (s.stand n).stopped then s
  else
    match s.intakeNext n with
    | none => s
    | some (q, e) =>
      if !which e then s
      else if (s.stand n).cfg.reqMax ≤ (s.stand n).requests.length then
        s.flagSch Fld.SCH_ERROR_INTAKE_PAUSED n 0 q 0
      else (take q e s).sqAdvance n q

/-- NEW: intake of stand `n` takes the next entry, which is no CANCEL. -/
def execNew (n : Nat) (s : State) : Host.Outcome State Fault Refusal :=
  .next (s.intake n (fun e => le e 0 1 != 2) (fun q e s => s.takeNew n q e))

/-- CANCEL: intake of stand `n` takes the next entry, a CANCEL. -/
def execCancel (n : Nat) (s : State) : Host.Outcome State Fault Refusal :=
  .next (s.intake n (fun e => le e 0 1 == 2) (fun q e s => s.takeCancel n q e))

/-- DONE_RECORD_EXPIRY: the done record of request `id` of stand `n` is older than RETAIN_MS. -/
def execDoneRecordExpiry (n id : Nat) (s : State) : Host.Outcome State Fault Refusal :=
  .next (s.updStand n (fun st => { st with done := st.done.filter (·.id != id) }))

/-! Accounting (R184, R185) -/

/-- ACCT_SNAP: function `f` writes SCH_ACCT_SNAP of stand `n`; SNAP 1 copies every counter into its snapshot. -/
def execAcctSnap (f : Fn) (n v : Nat) (s : State) : Host.Outcome State Fault Refusal :=
  .next (
    match s.writeRow f .SCH_ACCT_SNAP n 0 [] v with
    | none => s
    | some t =>
      if v.testBit 0 then
        (List.range 17).foldl (fun t i => t.setFld Fld.SCH_SNAP_COUNT n i (s.fld Fld.SCH_ACCT_COUNT n i)) t
      else t)

/-- The activity counters of R185: MATRIX_BUSY, VECTOR_BUSY, the five byte counters and GROVE_US. -/
def activityCounters : List Nat := [0, 1, 2, 3, 4, 5, 6, 8]

/-- ENERGY_TICK: a millisecond of stand `n` ends: GROVE_US counts its groves, and the increments of its activity counters,
each by its coefficient of 1/256 pJ (18_power_thermal.md R390), are added to ENERGY_UJ with the remainder carried. -/
def execEnergyTick (n : Nat) (s : State) : Host.Outcome State Fault Refusal :=
  .next (
    if !s.standValid n then s
    else
      let s := s.account n 8 (1000 * (s.groves n).length)
      let inc := fun i => (s.fld Fld.SCH_ACCT_COUNT n i + 2 ^ 64 - ((s.stand n).activity.get? i).getD 0) % 2 ^ 64
      let pj := (activityCounters.zipIdx.map (fun e => inc e.1 * energyCoef e.2)).foldl (· + ·) 0 +
        (s.stand n).energyRest
      let act := activityCounters.foldl (fun (m : SMap Nat) i => m.set i (s.fld Fld.SCH_ACCT_COUNT n i)) []
      (s.account n 7 (pj / 256000000)).updStand n (fun st => { st with energyRest := pj % 256000000, activity := act }))

end Sys2Proof.Machine
end

