-- ==== Sys2Proof/Machine/Bundle.lean ====
section
/-! DEFINITION. State bundles: header, section table, sealing, and the pages of a section (09_state_movement.md
R189-R193). -/

namespace Sys2Proof.Machine

open Sys2Proof

/-! The header (Tables 9.1 and 9.2) -/

/-- The geometry entry of a layer group. -/
def KvGroup.geometry (g : KvGroup) : Nat :=
  if !g.enable then 0
  else g.fmt % 32 + 2 ^ 5 + b01 g.ring * 2 ^ 6 + b01 g.remote * 2 ^ 7 + g.heads % 256 * 2 ^ 8 + g.layers % 256 * 2 ^ 16 +
    g.dim % 1024 * 2 ^ 24 + g.window % 2 ^ 18 * 2 ^ 34 + g.specDepth % 128 * 2 ^ 52

/-- The geometry of the four groups of a model. -/
def State.geometry (s : State) (n : Nat) (p : Pool) (m : Nat) : List Nat :=
  (List.range 4).map (fun g => (s.kvGroup n p (4 * m + g)).geometry)

/-- The 256 bytes of a header. -/
def BundleHeader.bytes (h : BundleHeader) (sections bytes : Nat) : List Byte :=
  let b := toBytes 8 (1 + h.kind * 2 ^ 16 + b01 h.orphaned * 2 ^ 24 + b01 h.pipelined * 2 ^ 25 + sections % 2 ^ 16 * 2 ^ 32) ++
    toBytes 8 h.bundle ++ toBytes 8 h.request ++
    toBytes 8 (h.tenant % 2 ^ 16 + h.modelId % 2 ^ 16 * 2 ^ 16 + h.cls % 2 ^ 8 * 2 ^ 32 + h.customer % 2 ^ 18 * 2 ^ 40) ++
    toBytes 8 (h.epoch % 2 ^ 32 + h.keyId % 2 ^ 16 * 2 ^ 32) ++ toBytes 4 h.length ++ toBytes 4 h.history ++
    toBytes 4 h.promptLen ++ toBytes 4 h.maxNew ++ toBytes 4 h.ttl ++ toBytes 4 h.prefixTokens ++
    toBytes 8 (bytes % 2 ^ 48) ++ h.geometry.flatMap (toBytes 8) ++ toBytes 8 h.historyCap ++ h.nonce.take 32 ++ zeros 112
  patchLe b 248 4 (crc32c b)

/-- A header's fields from its bytes. -/
def BundleHeader.ofBytes (b : List Byte) : BundleHeader :=
  let w0 := le b 0 8
  let w3 := le b 24 8
  { kind := bits w0 16 8, orphaned := bit w0 24, pipelined := bit w0 25, bundle := le b 8 8, request := le b 16 8,
    tenant := bits w3 0 16, modelId := bits w3 16 16, cls := bits w3 32 8, customer := bits w3 40 18, epoch := le b 32 4,
    keyId := le b 36 2, length := le b 40 4, history := le b 44 4, promptLen := le b 48 4, maxNew := le b 52 4,
    ttl := le b 56 4, prefixTokens := le b 60 4, geometry := (List.range 4).map (fun g => le b (72 + 8 * g) 8),
    historyCap := le b 104 4, nonce := sub b 112 32 }

/-- SECTIONS and BUNDLE_BYTES of a header. -/
def headerSections (b : List Byte) : Nat := le b 4 2
def headerBytes (b : List Byte) : Nat := le b 64 6

/-- HEADER_CHECK and VERSION are right (R192 step 1). -/
def headerOk (b : List Byte) : Bool :=
  decide (256 ≤ b.length) && le b 248 4 == crc32c (patchLe (b.take 256) 248 4 0) && le b 0 2 == 1

/-! Sealing (R190) -/

/-- The bundle key under a job key. -/
def bundleKey (job : List Byte) (h : BundleHeader) : List Byte :=
  hkdf job (toBytes 8 h.bundle ++ h.nonce.take 32) (ascii "sapway bundle")

/-- The IV of a segment. -/
def segmentIv (bundle sec seg : Nat) : List Byte := toBytesBE 8 bundle ++ toBytesBE 2 sec ++ toBytesBE 2 seg

/-- The stored bytes of section `sec`; `aad` is header words 0 to 4. -/
def sealSection (key aad : List Byte) (bundle sec : Nat) (clear : List Byte) : List Byte :=
  (cutInto 65536 clear).zipIdx.flatMap (fun e => gcmSeal key (segmentIv bundle sec e.2) aad e.1)

/-- The stored size of a section of `n` clear bytes. -/
def sealedSize (n : Nat) : Nat := n + 16 * ceilDiv n 65536

/-- The clear bytes of a section; none where a segment's tag fails. -/
def openSection (key aad : List Byte) (bundle sec : Nat) (stored : List Byte) : Option (List Byte) :=
  ((cutInto 65552 stored).zipIdx.mapM (fun e => gcmOpen key (segmentIv bundle sec e.2) aad e.1)).map List.flatten

/-- The two words of a section entry (Table 9.3). -/
def sectionEntry (type group layer offset clear stored : Nat) : Nat × Nat :=
  (type + group * 2 ^ 8 + layer * 2 ^ 10 + offset * 2 ^ 16, clear % 2 ^ 32 + stored % 2 ^ 32 * 2 ^ 32)

/-- A section entry read: type, group, layer, offset, clear and stored bytes. -/
structure SectionEntry where
  type : Nat
  group : Nat
  layer : Nat
  offset : Nat
  clear : Nat
  stored : Nat
  deriving DecidableEq, Repr

/-- Entry `i` of the section table of a bundle. -/
def SectionEntry.at_ (b : List Byte) (i : Nat) : SectionEntry :=
  let w0 := le b (256 + 16 * i) 8
  { type := bits w0 0 8, group := bits w0 8 2, layer := bits w0 10 6, offset := bits w0 16 48,
    clear := le b (264 + 16 * i) 4, stored := le b (268 + 16 * i) 4 }

/-! Pages (R191) -/

/-- A block as a bundle carries it: its index entry without the offset, and its stored bytes. -/
def carriedBlock (g : KvGroup) (bs : List Byte) : (Nat × Nat) × List Byte :=
  match kEncode g.fmt (channelOf g.dim) bs with
  | some (cls, enc) => ((cls, 0), enc)
  | none => ((15 + 2 ^ 4, crc32c bs), bs)

/-- The blocks of a page as a bundle carries them: a SEALED page in its stored form, an OPEN one encoded; none where it
cannot be read, or is POISONED. -/
def State.carriedPage (s : State) (n : Nat) (g : KvGroup) (h : PageHeader) : Option (List ((Nat × Nat) × List Byte)) :=
  match h.state, s.pageStored n h with
  | 1, .ok bs => some ((chunks 4096 bs).map (carriedBlock g))
  | 2, .ok bs => some ((List.range 8).map (fun j => ((bits h.classes (4 * j) 4, 0), sub bs (h.blockOffset j) (h.blockSize j))))
  | _, _ => none

/-- The logical pages of a layer that a bundle carries: those that the sequence references or that were read back, below LENGTH and at or above
PREFIX_TOKENS. -/
def State.carried (s : State) (n : Nat) (r : SeqRecord) (g : KvGroup) (i len pre : Nat) (back : SMap (List Byte)) : List Nat :=
  (List.range (r.pages g)).filter (fun k =>
    ((s.ptEntry n r g k).references i || (back.get? ((64 * (g.num % 4) + i) * 2 ^ 32 + k)).isSome) && k * g.tpp < len &&
      pre / g.tpp ≤ k)

/-- The clear bytes of a PAGES section: for each page its logical number, TOKENS and blocks. -/
def pagesBytes (l : List (Nat × Nat × List ((Nat × Nat) × List Byte))) : List Byte :=
  let blocks := l.flatMap (·.2.2)
  let sizes := blocks.map (fun b => b.2.length)
  let offs := (List.range blocks.length).map (fun j => ((sizes.take j).foldl (· + ·) 0) / 256)
  let total := sizes.foldl (· + ·) 0
  let head := toBytes 8 1 ++ toBytes 8 blocks.length ++ toBytes 8 total ++ zeros 40
  let entries := (blocks.zip offs).flatMap (fun e => toBytes 8 (e.2 % 2 ^ 36 + e.1.1.1 * 2 ^ 36) ++ toBytes 8 e.1.1.2)
  l.flatMap (fun e => toBytes 4 e.1 ++ toBytes 4 e.2.1) ++ head ++ entries ++ blocks.flatMap (·.2)

/-- The PAGES section of layer `i` for the listed logical pages; those in `back` were read back from a holder. -/
def State.pagesSection (s : State) (n : Nat) (r : SeqRecord) (g : KvGroup) (i : Nat) (back : SMap (List Byte)) (l : List Nat) :
    Option (List Byte) :=
  let one : Nat → Option (Nat × Nat × List ((Nat × Nat) × List Byte)) := fun k =>
    match back.get? ((64 * (g.num % 4) + i) * 2 ^ 32 + k) with
    | some bs => some (k, g.tpp, (chunks 4096 bs).map (carriedBlock g))
    | none =>
      let h := s.pageHeader n g (s.ptEntry n r g k).set i
      (s.carriedPage n g h).map (fun b => (k, h.tokens, b))
  (l.mapM one).map pagesBytes

/-- A page that arrived: its logical number, TOKENS, and its eight blocks with class, RAW and check. -/
structure ArrivedPage where
  page : Nat
  tokens : Nat
  blocks : List (Nat × Bool × Nat × List Byte)
  deriving DecidableEq, Repr

/-- The number of pages in the clear bytes of a PAGES section: the index table after as many page list entries has eight
blocks for each (R191). -/
def pageCount (b : List Byte) : Option Nat :=
  (List.range (b.length / 136 + 1)).find? (fun k =>
    decide (136 * k + 64 ≤ b.length) && le b (8 * k) 8 == 1 && le b (8 * k + 8) 8 == 8 * k &&
    le b (8 * k + 16) 8 + 136 * k + 64 == b.length)

/-- The pages of a PAGES section, against the geometry; none where its page list or index table does not fit it
(R192 step 4). -/
def parsePages (g : KvGroup) (table : Nat) (b : List Byte) : Option (List ArrivedPage) :=
  match pageCount b with
  | none => none
  | some k =>
    let data := 136 * k + 64
    let page := fun j : Nat =>
      let num := le b (8 * j) 4
      let tok := le b (8 * j + 4) 2
      let blocks := (List.range 8).map (fun x =>
        let w0 := le b (8 * k + 64 + 16 * (8 * j + x)) 8
        let raw := bit w0 40
        let size := if raw then 4096 else (bits w0 36 4 + 1) * 256
        let off := data + 256 * bits w0 0 36
        (bits w0 36 4, raw, le b (8 * k + 72 + 16 * (8 * j + x)) 4,
          decide (off + size ≤ b.length) && bits w0 41 23 == 0, sub b off size))
      if num < table ∧ tok ≤ g.tpp ∧ blocks.all (fun x => x.2.2.2.1) then
        some (⟨num, tok, blocks.map (fun x => (x.1, x.2.1, x.2.2.1, x.2.2.2.2))⟩ : ArrivedPage)
      else none
    (List.range k).mapM page

/-- The clear 32 KiB of a page that arrived, or its first failing block. -/
def ArrivedPage.clear (a : ArrivedPage) (g : KvGroup) : Except BlockError (List Byte) :=
  let one : Nat × Bool × Nat × List Byte → Except BlockError (List Byte) := fun x =>
    if x.2.1 then (if crc32c x.2.2.2 = x.2.2.1 then .ok x.2.2.2 else .error ⟨0, 3, 0, 0⟩)
    else decodeBlock 2 (· == g.fmt) [] x.1 x.2.2.2
  (a.blocks.mapM one).map List.flatten

/-- BUNDLE_ID drawn (R193): a random half, drawn anew at a wrap until it differs from every value drawn. -/
def State.newBundleId (s : State) (n : Nat) : State × Nat :=
  let w := (s.stand n).sapway
  let id := w.random * 2 ^ 32 + w.counter
  if w.counter + 1 < 2 ^ 32 then
    (s.updStand n (fun st => { st with sapway := { st.sapway with counter := w.counter + 1 } }), id)
  else
    let tries := (List.range (w.drawn.length + 1)).map (fun i => (Config.freeWord (s.freeCtr + i)).toNat % 2 ^ 32)
    let fresh := (tries.find? (fun x => !w.drawn.contains x)).getD
      (((List.range (w.drawn.length + 1)).find? (fun x => !w.drawn.contains x)).getD 0)
    ({ s with freeCtr := s.freeCtr + tries.length }.updStand n (fun st =>
      { st with sapway := { st.sapway with random := fresh, counter := 0, drawn := fresh :: st.sapway.drawn } }), id)

/-- 32 random bytes. -/
def State.nonce (s : State) : State × List Byte :=
  ({ s with freeCtr := s.freeCtr + 4 }, (List.range 4).flatMap (fun i => toBytes 8 (Config.freeWord (s.freeCtr + i)).toNat))

end Sys2Proof.Machine
end

