-- ==== Sys2Proof/Machine/Sapway.lean ====
section
/-! DEFINITION. Sapway as a sender: control messages, attempts, sections, orphans and dormant bundles
(09_state_movement.md R188, R195, R199-R207). -/

namespace Sys2Proof.Machine

open Sys2Proof

/-! The stand's Sapway -/

/-- The Sapway state of a stand changed. -/
def State.updSapway (s : State) (n : Nat) (f : Sapway → Sapway) : State :=
  s.updStand n (fun st => { st with sapway := f st.sapway })

/-- The move with a BUNDLE_ID. -/
def State.sending (s : State) (n bid : Nat) : Option Sending :=
  (s.stand n).sapway.sending.find? (fun b => b.header.bundle == bid)

/-- A move set: it takes the place of the one with its BUNDLE_ID. -/
def State.setSending (s : State) (n : Nat) (b : Sending) : State :=
  s.updSapway n (fun w =>
    if w.sending.any (fun x => x.header.bundle == b.header.bundle) then
      { w with sending := w.sending.map (fun x => if x.header.bundle = b.header.bundle then b else x) }
    else { w with sending := w.sending ++ [b] })

/-- A move ended: its epoch counts it no more (R198). -/
def State.dropSending (s : State) (n bid : Nat) : State :=
  (s.updSapway n (fun w => { w with sending := w.sending.filter (fun x => x.header.bundle != bid) })).retireEpochs

/-- SWY_ERROR with its context (R220). -/
def State.flagSwy (s : State) (f : Field) (n bid : Nat) : State :=
  s.flagError f n (fun s => s.setReg .SWY_ERROR_INFO n 0 bid)

/-- Bundles in progress at a stand. -/
def Stand.moves (st : Stand) : Nat := st.sapway.sending.length + (st.sapway.arrivals.filter (·.accepted)).length

/-- Another bundle may be in progress (R188; 15_isolation.md R335). -/
def State.bundleRoom (s : State) (n : Nat) : Bool :=
  let h := s.hubOf n
  let here := s.allStands.filter (fun m => s.hubOf m == h)
  if s.sealedStand n then decide ((s.stand n).moves < (s.stand n).cfg.bundleQuota)
  else
    let reserved := ((here.filter s.sealedStand).map (fun m => (s.stand m).cfg.bundleQuota)).foldl (· + ·) 0
    let used := ((here.filter (fun m => !s.sealedStand m)).map (fun m => (s.stand m).moves)).foldl (· + ·) 0
    decide (used < 4096 - reserved)

/-! Control messages (R200, Table 9.4) -/

/-- A control message with its content from byte 16 on. -/
def controlBytes (type attempt status bid : Nat) (content : List Byte) : List Byte :=
  let b := toBytes 1 type ++ toBytes 1 attempt ++ toBytes 1 status ++ zeros 5 ++ toBytes 8 bid ++ sub content 0 236
  b ++ toBytes 4 (crc32c b)

/-- A control message written into the peer's inbox over connection `k`. -/
def State.sendControl (s : State) (k : Nat) (inbox : Nat × Nat × Nat) (type attempt status bid : Nat) (content : List Byte) :
    State :=
  if inbox.2.2 = 0 then s
  else s.fabIssue k (.write inbox.1 inbox.2.1 ((bid * 8 + type) % inbox.2.2 * 256)
    (.bytes (controlBytes type attempt status bid content)) .nobody)

/-- A region of a stand's Sapway: its key, its generation and its bytes; zeros where it has none. -/
def State.swyRegion (s : State) (idx : Option Nat) : Nat × Nat × Nat :=
  match idx.bind (fun i => (s.regions.get? i).map (fun r => (i, r))) with
  | some (i, r) => (s.regionKey i, r.gen, r.len)
  | none => (0, 0, 0)

/-- The inbox of a stand under a job key: key, generation, slots. -/
def State.inboxOf (s : State) (n keyId : Nat) : Nat × Nat × Nat :=
  let r := s.swyRegion (((s.stand n).jobKeys.get? keyId).bind (·.inbox))
  (r.1, r.2.1, r.2.2 / 256)

/-- The staging region of a stand under a job key: key, generation, bytes. -/
def State.stagingOf (s : State) (n keyId : Nat) : Nat × Nat × Nat :=
  s.swyRegion (((s.stand n).jobKeys.get? keyId).bind (·.staging))

/-- A connection can carry bundles of a stand: it is the stand's, OPEN, and its job key is installed. -/
def State.connReady (s : State) (n k : Nat) : Bool :=
  match s.conn k with
  | some c => c.stand == n && c.state == .open_ && (s.jobKey n c.keyId).isSome
  | none => false

/-! The sections of a move (R189, R191, R202) -/

/-- The model layers of a group in order (05_attention_state.md Table 5.3); layer i is its index i where no mask is
given. -/
def State.groupLayers (s : State) (n : Nat) (g : KvGroup) : List Nat :=
  if g.layerMaskAddr = 0 then List.range g.layers
  else (bitsOf 256 (ofBytes (s.peekBytes n g.layerMaskAddr 32))).take g.layers

/-- A section that a move is to send: its type, group and layer, and the model layer that it waits for. -/
structure Planned where
  type : Nat
  group : Nat := 0
  layer : Nat := 0
  after : Nat := 0
  deriving DecidableEq, Repr

/-- The sections of a move in the order in which it sends them. -/
def State.plan (s : State) (n : Nat) (b : Sending) : List Planned :=
  let pages := match (s.stand n).kv.pool with
    | some p =>
      let gs := (s.kvGroups n p (s.seqRecord n p b.seq).model).filter (fun g => b.header.kind != 4 || g.remote)
      let l := gs.flatMap (fun g => (s.groupLayers n g).zipIdx.map (fun e => (⟨3, g.num % 4, e.2, e.1⟩ : Planned)))
      sortBy (fun x : Planned => x.after) l
    | none => []
  match b.header.kind with
  | 1 => pages ++ [⟨1, 0, 0, 0⟩, ⟨2, 0, 0, 0⟩]
  | 2 => [⟨1, 0, 0, 0⟩, ⟨2, 0, 0, 0⟩]
  | 3 => pages ++ [⟨1, 0, 0, 0⟩]
  | _ => pages

/-- The logical pages that a PAGES section of a move carries. -/
def State.planPages (s : State) (n : Nat) (p : Pool) (b : Sending) (g : KvGroup) (i : Nat) : List Nat :=
  match b.purpose with
  | .hold _ _ first count => ((List.range count).map (first + ·)).filter (fun k =>
      (s.ptEntry n (s.seqRecord n p b.seq) g k).references i)
  | _ => s.carried n (s.seqRecord n p b.seq) g i b.header.length b.header.prefixTokens b.back

/-- The clear bytes of a section; none where a page cannot be read. -/
def State.sectionClear (s : State) (n : Nat) (b : Sending) (x : Planned) : Option (List Byte) :=
  match x.type, (s.stand n).kv.pool with
  | 1, _ => some b.tokens
  | 2, _ => some b.sampler
  | _, some p =>
    let r := s.seqRecord n p b.seq
    let g := s.kvGroup n p (4 * r.model + x.group)
    s.pagesSection n r g x.layer b.back (s.planPages n p b g x.layer)
  | _, none => none

/-- A bound on the stored size of a move's bundle: every section's clear size with no page compressed, and its tags. -/
def State.boundBytes (s : State) (n : Nat) (b : Sending) : Nat :=
  let plan := s.plan n b
  let size := fun x : Planned => match x.type, (s.stand n).kv.pool with
    | 1, _ => 4 * b.header.history
    | 2, _ => 64
    | _, some p =>
      let g := s.kvGroup n p (4 * (s.seqRecord n p b.seq).model + x.group)
      64 + (136 + kvFrame) * (s.planPages n p b g x.layer).length
    | _, none => 0
  plan.foldl (fun a x => alignUp (a + sealedSize (size x)) 64) (alignUp (256 + 16 * plan.length) 64)

/-! Sending -/

/-- What the issuer of a move's writes is known by: stale outcomes of an earlier attempt differ. -/
def Sending.tag (b : Sending) : Nat := b.header.bundle + (2 * b.attempt + b01 b.reoffered) * 2 ^ 64

/-- Bytes of a move written to its staging place. -/
def State.sendBytes (s : State) (n : Nat) (b : Sending) (off : Nat) (bs : List Byte) : State :=
  match b.conn with
  | none => s
  | some k =>
    let limit := ((s.conn k).map (·.limit)).getD 4096
    let ps := cutInto limit bs
    let s := s.setSending n { b with writes := b.writes + ps.length }
    let s := s.addFld Fld.SWY_BYTES_SENT_COUNT n 0 bs.length
    ps.zipIdx.foldl (fun s e =>
      s.fabIssue k (.write b.stage.1 b.stage.2.1 (b.stage.2.2 + off + limit * e.2) (.bytes e.1) (.sapway n b.tag))) s

/-- The next section of a move sealed and sent. -/
def State.sendSection (s : State) (n : Nat) (b : Sending) (x : Planned) (total : Nat) (clear : List Byte) : State :=
  let head := b.header.bytes total 0
  let key := bundleKey ((s.jobKey n b.header.keyId).getD []) b.header
  let stored := sealSection key (head.take 40) b.header.bundle b.sent.length clear
  let e := sectionEntry x.type x.group x.layer b.bytes clear.length stored.length
  s.sendBytes n { b with sent := b.sent ++ [e], bytes := alignUp (b.bytes + stored.length) 64 } b.bytes stored

/-- The header and the section table of a move whose sections have all been sent. -/
def Sending.front (b : Sending) : List Byte :=
  b.header.bytes b.sent.length b.bytes ++ b.sent.flatMap (fun e => toBytes 8 e.1 ++ toBytes 8 e.2)

/-- DONE is sent once every write has its outcome (R200). -/
def State.checkDone (s : State) (n bid : Nat) : State :=
  match s.sending n bid with
  | some b =>
    if b.phase = .accepted ∧ b.tabled ∧ b.writes = 0 then
      (match b.conn with
       | some k => (s.setSending n { b with phase := .done }).sendControl k b.inbox 4 b.attempt 0 bid
           (toBytes 8 b.sent.length ++ toBytes 8 b.bytes ++ toBytes 4 (crc32c b.front))
       | none => s)
    else s
  | none => s

/-- An ABORT sent to the member of the present attempt. -/
def State.sendAbort (s : State) (b : Sending) (status : Nat) : State :=
  match b.conn with
  | some k => s.sendControl k b.inbox 6 b.attempt status b.header.bundle []
  | none => s

/-- OFFER sent to a connection (Table 9.4). -/
def State.sendOffer (s : State) (n : Nat) (b : Sending) : State :=
  match b.conn with
  | none => s.setSending n b
  | some k =>
    let keyId := ((s.conn k).map (·.keyId)).getD 0
    let b := { b with header := { b.header with keyId := keyId, prefixTokens := 0 } }
    let mine := s.inboxOf n keyId
    let probe := if b.reoffered then (0, zeros 16) else b.probe.getD (0, zeros 16)
    let content := (b.header.bytes (s.plan n b).length (s.boundBytes n b)).take 112 ++ sub probe.2 0 16 ++
      toBytes 8 probe.1 ++ toBytes 8 mine.1 ++ toBytes 4 mine.2.1 ++ toBytes 4 mine.2.2
    (s.setSending n b).sendControl k b.inbox 1 b.attempt 0 b.header.bundle content

/-! Dormant bundles in the bundle store (R207) -/

/-- The tier of the bundle store, 0 T1 or 1 T2, its tier-space offset and its bytes. -/
def State.bundleStore (s : State) (n : Nat) : Nat × Nat × Nat :=
  let a := s.fld Fld.SWY_STORE_ADDR n
  (bits a 47 1, bits a 0 47, 65536 * s.fld Fld.SWY_STORE_1_SIZE n)

/-- The lowest free run of `len` bytes of the bundle store, 64 B aligned. -/
def State.storeRun (s : State) (n len : Nat) : Option Nat :=
  let used := (s.stand n).sapway.store.map (fun e => (e.2.offset, e.2.offset + e.2.bytes))
  (sortBy id (0 :: used.map (fun u => alignUp u.2 64))).find? (fun o =>
    decide (o + len ≤ (s.bundleStore n).2.2) && used.all (fun u => !meets u.1 u.2 o (o + len)))

/-- The byte map key of a byte of the bundle store. -/
def State.storeKey (s : State) (n off : Nat) : Nat :=
  let (t, base, _) := s.bundleStore n
  if t = 0 then s.t1Key n (base + off) else s.t2Key n (base + off)

/-- A bundle of the store. -/
def State.storedBundle (s : State) (n : Nat) (d : Dormant) : List Byte :=
  (List.range d.bytes).map (fun i => s.mem.byte (s.storeKey n (d.offset + i)))

/-- A bundle put into the store; none where no run is free. -/
def State.putBundle (s : State) (n bid tokens ttl : Nat) (bs : List Byte) : Option State :=
  (s.storeRun n bs.length).map (fun o =>
    let s := bs.zipIdx.foldl (fun s e => { s with mem := s.mem.put (s.storeKey n (o + e.2)) e.1 }) s
    s.updSapway n (fun w => { w with store := w.store.set bid ⟨o, bs.length, tokens, s.nowS + ttl⟩ }))

/-- A whole bundle built at once under a key; none where a page cannot be read. -/
def State.buildBundle (s : State) (n : Nat) (b : Sending) (job : List Byte) : Option (List Byte) :=
  let plan := s.plan n b
  let key := bundleKey job b.header
  let aad := (b.header.bytes plan.length 0).take 40
  let start := alignUp (256 + 16 * plan.length) 64
  let step : (List (Nat × Nat) × List Byte) → Planned → Option (List (Nat × Nat) × List Byte) := fun a x =>
    (s.sectionClear n b x).map (fun clear =>
      let stored := sealSection key aad b.header.bundle a.1.length clear
      (a.1 ++ [sectionEntry x.type x.group x.layer (start + a.2.length) clear.length stored.length],
        a.2 ++ stored ++ zeros (alignUp stored.length 64 - stored.length)))
  (plan.foldlM step ([], [])).map (fun r =>
    let front := { b with sent := r.1, bytes := start + r.2.length }.front
    front ++ zeros (start - front.length) ++ r.2)

/-- A move kept as a dormant bundle in a tier of the stand: the status, 0 when it is stored. -/
def State.keepDormant (s : State) (n tier ttl : Nat) (b : Sending) : State × Nat :=
  match s.sealKey n with
  | none => (s, 0x15)
  | some job =>
    let b := { b with header := { b.header with kind := 3, pipelined := false, ttl := ttl, prefixTokens := 0,
                                                keyId := s.fld Fld.SWY_CONFIG_SEAL_KEY_ID n } }
    match s.buildBundle n b job with
    | none => (s, 0x19)
    | some bs =>
      if (s.bundleStore n).1 ≠ tier then (s, 0x10)
      else
        match s.putBundle n b.header.bundle b.header.history ttl bs with
        | some s => (s, 0)
        | none => (s, 0x10)

/-- Sapway releases a sequence (05_attention_state.md R449). -/
def State.releaseSeq (s : State) (n seq : Nat) : State := (s.deviceCommand n { op := 3, seq := seq }).kvSettle n

/-! Attempts (R195, R199, R205) -/

/-- The member for the next attempt. -/
inductive Pick where
  | member (attempt index : Nat) (m : Member)
  /-- The chosen member is REMOVED: the bundle is delivered ORPHANED. -/
  | removed
  | none
  deriving DecidableEq, Repr

/-- The move goes to a cache list. -/
def Sending.toCache (b : Sending) : Bool :=
  match b.purpose with
  | .orphan => true
  | .suspend _ => true
  | _ => false

/-- The member that attempt `a` or the next one after it that does not fail at once goes to. -/
def State.pickMember (s : State) (n : Nat) (b : Sending) : Nat → Nat → Pick
  | 0, _ => .none
  | fuel + 1, a =>
    if b.count ≤ a then .none
    else
      let i := b.first + (b.header.request + a) % b.count
      match s.members.get? i with
      | none => s.pickMember n b fuel (a + 1)
      | some m =>
        if m.state = 1 then (if b.toCache then s.pickMember n b fuel (a + 1) else .removed)
        else if m.state = 0 ∧ s.connReady n m.conn then .member a i m
        else s.pickMember n b fuel (a + 1)

/-- A move without a member put back to before its first message. -/
def Sending.fresh (b : Sending) : Sending :=
  { b with member := none, conn := none, phase := .offered, stage := (0, 0, 0), sent := [], bytes := 0, writes := 0,
           tabled := false }

/-- The result of a command that a move carries out. -/
def State.swyResult (s : State) (n i result : Nat) : State :=
  (if result = 0x10 then s.flagSwy Fld.SWY_ERROR_BAD_COMMAND n 0 else s).runDone .swy n i result

/-- BUNDLE_ID written into a SUSPEND's entry. -/
def State.writeBundleId (s : State) (n i bid : Nat) : State := s.pokeLe n (s.runEntry .swy n i + 24) 8 bid

/-- A bundle delivered ORPHANED to a member, or kept: `holder` names it (R199). -/
def State.orphaned (s : State) (n : Nat) (b : Sending) (bid holder : Nat) : State :=
  let s := (s.addFld Fld.SWY_ORPHANED_COUNT n 0 1).flagSwy Fld.SWY_ERROR_ORPHANED n bid
  let s := s.swyEvent n 5 b.header.request bid b.header.epoch holder
  match b.purpose with
  | .suspend i => (s.writeBundleId n i bid).runDone .swy n i 0
  | _ => s

/-- The number that stands for the stand itself as a holder. -/
def noMember : Nat := 0xFFFFFFFF

/-- A bundle that no member takes: kept in the stand's ORPHAN_TIER (R199). Where it cannot be kept, the sequence stays. -/
def State.keepOrphan (s : State) (n : Nat) (b : Sending) : State :=
  let s := s.dropSending n b.header.bundle
  let b := { b with header := { b.header with orphaned := true } }
  match s.keepDormant n (s.fld Fld.SWY_CONFIG_ORPHAN_TIER n) (s.fld Fld.SWY_CONFIG_ORPHAN_TTL_S n) b with
  | (s, 0) => (s.releaseSeq n b.seq).orphaned n b b.header.bundle noMember
  | (s, _) => s.orphaned n b 0 noMember

/-- A move taken to its next member, or to nobody: a handoff whose token is not committed yet waits for it. -/
def State.attempt (s : State) (n : Nat) (b : Sending) : State :=
  let b := b.fresh
  let cache : Sending := match b.record.bind (fun r => s.records.get? r) with
    | some c => { b with first := c.cacheFirst, count := c.cacheCount }
    | none => { b with count := 0 }
  let orphan : Sending := { cache with
    purpose := .orphan, attempt := 0, reoffered := false,
    header := { b.header with kind := 3, orphaned := true, pipelined := false, prefixTokens := 0,
                              ttl := s.fld Fld.SWY_CONFIG_ORPHAN_TTL_S n } }
  let go := fun (b : Sending) (a i : Nat) (m : Member) =>
    s.sendOffer n { b with attempt := a, member := some i, conn := some m.conn, inbox := (m.key, m.gen, m.slots) }
  match s.pickMember n b 512 b.attempt with
  | .member a i m => go b a i m
  | _ =>
    match b.purpose with
    | .hold i _ _ _ => (s.dropSending n b.header.bundle).swyResult n i 0x1E
    | .suspend _ => s.keepOrphan n b
    | .orphan => s.keepOrphan n b
    | _ =>
      if !b.final then s.setSending n { b with attempt := b.count }
      else
        match s.pickMember n orphan 512 0 with
        | .member a i m => go orphan a i m
        | _ => s.keepOrphan n orphan

/-- An attempt fails: ABORT is sent, and the move goes to the next (R205). -/
def State.failAttempt (s : State) (n : Nat) (b : Sending) (status : Nat) : State :=
  (s.sendAbort b status).attempt n { b with attempt := b.attempt + 1, reoffered := false }

/-- A move that ends without effect: ABORT is sent and the source keeps its state. -/
def State.cancelMove (s : State) (n : Nat) (b : Sending) (status : Nat) : State :=
  (s.sendAbort b status).dropSending n b.header.bundle

/-- A move whose state cannot be read (Table 9.6). -/
def State.loseMove (s : State) (n : Nat) (b : Sending) : State :=
  let s := (s.cancelMove n b 0x19).flagSwy Fld.SWY_ERROR_STATE_LOST n b.header.bundle
  match b.purpose with
  | .suspend i => s.runDone .swy n i 0x19
  | .hold i _ _ _ => s.runDone .swy n i 0x19
  | _ => s.swyEvent n 6 b.header.request b.header.bundle b.header.epoch b.seq

/-- Sections of an accepted move sent as far as they are ready; after the last, the header and the table. -/
def State.sendReady (s : State) (n bid : Nat) : Nat → State
  | 0 => s
  | fuel + 1 =>
    match s.sending n bid with
    | none => s
    | some b =>
      if b.phase ≠ .accepted ∨ b.tabled then s
      else
        let plan := s.plan n b
        let b := if b.bytes = 0 then { b with bytes := alignUp (256 + 16 * plan.length) 64 } else b
        match plan[b.sent.length]? with
        | none => (s.sendBytes n { b with tabled := true } 0 b.front).checkDone n bid
        | some x =>
          if !b.final ∧ (x.type ≠ 3 ∨ b.layers ≤ x.after) then s
          else
            match s.sectionClear n b x with
            | none => s.loseMove n b
            | some clear => (s.sendSection n b x plan.length clear).sendReady n bid fuel

/-- The sections of a move that are ready sent. -/
def State.pushMove (s : State) (n bid : Nat) : State := s.sendReady n bid 1024

/-- The outcome of a write of a move: the last lets DONE go, and a failure fails the attempt. -/
def State.sapwayDone (s : State) (n tag status : Nat) : State :=
  match s.sending n (tag % 2 ^ 64) with
  | some b =>
    if b.tag ≠ tag then s
    else if status = 0 then (s.setSending n { b with writes := b.writes - 1 }).checkDone n b.header.bundle
    else s.failAttempt n b status
  | none => s

/-! Starting moves -/

/-- The header of a move of sequence `seq` of a stand's model. -/
def State.headerFor (s : State) (n kind m bid : Nat) (nonce : List Byte) : BundleHeader :=
  { kind := kind, bundle := bid, request := 0, tenant := (s.stand n).cfg.tenant, modelId := s.modelId n m, cls := 0,
    customer := 0, epoch := 0, keyId := 0, length := 0, history := 0, promptLen := 0, maxNew := 0, ttl := 0,
    geometry := (match (s.stand n).kv.pool with
      | some p => s.geometry n p m
      | none => [0, 0, 0, 0]),
    historyCap := 0, nonce := nonce }

/-- The record and the generation list that a request's move uses (R197): of its bound epoch under the move's class. -/
def State.moveRecord (s : State) (n : Nat) (r : Request) (cls : Nat) : Option Nat :=
  let h := s.hubOf n
  let t := (s.stand n).cfg.tenant
  let m := s.modelId n r.model
  (r.bound.bind (fun e => match s.epochOf h t m cls e with
    | some x => some x
    | none => ((s.activeEpoch h t m cls).2).bind (s.epochOf h t m cls))).map (·.record)

/-- The sampler state of a request (R189). -/
def Request.samplerBytes (r : Request) : List Byte :=
  sub r.entry 40 40 ++ sub r.entry 80 16 ++ toBytes 4 r.generated ++ toBytes 1 r.misses ++ toBytes 1 (b01 r.fellBack) ++ zeros 2

/-- The token history of a sequence, as far as it is known and can be read. -/
def State.historyBytes (s : State) (n seq : Nat) : List Byte :=
  match (s.stand n).sapway.histories.get? seq with
  | some (a, k) => (match s.peek n a (4 * k) with | .ok bs => bs | _ => [])
  | none => []

/-- A move of a request begun: HANDOFF or FALLBACK, under a class. -/
def State.startMove (s : State) (n : Nat) (r : Request) (purpose : Purpose) (kind cls length : Nat) (final : Bool) : State :=
  let (s, bid) := s.newBundleId n
  let (s, nonce) := s.nonce
  let rec_ := s.moveRecord n r cls
  let list := (rec_.bind (fun i => s.records.get? i)).map (fun c => (c.genFirst, c.genCount))
  let tokens := if final then s.historyBytes n r.seq else []
  let h := { s.headerFor n kind r.model bid nonce with
    pipelined := !final, request := r.id, cls := cls, customer := r.customer, epoch := r.bound.getD 0, length := length,
    history := r.promptLen + r.generated + b01 (!final), promptLen := r.promptLen, maxNew := r.maxNew,
    historyCap := r.historyCap }
  s.attempt n { purpose := purpose, header := h, seq := r.seq, tokens := tokens, sampler := r.samplerBytes, record := rec_,
                first := (list.getD (0, 0)).1, count := (list.getD (0, 0)).2, probe := r.probe, final := final }

/-- The handoff of a request whose prefill finishes in the step composed (R202). -/
def State.startHandoff (s : State) (n : Nat) (r : Request) : State :=
  s.startMove n r .handoff 1 r.cls (r.promptLen + r.generated) false

/-- The fallback of a request whose commit phase decided it (R178, R206). -/
def State.startFallback (s : State) (n : Nat) (r : Request) : State :=
  s.startMove n r .fallback 2 (s.classOf n r).fallbackClass 0 true

/-- The handoff of a request whose first token is committed goes on to its end (R202). -/
def State.finishHandoff (s : State) (n : Nat) (r : Request) : State :=
  match (s.stand n).sapway.sending.find? (fun b => b.purpose == .handoff && b.header.request == r.id && !b.final) with
  | none => s
  | some b =>
    let b := { b with final := true, tokens := s.historyBytes n r.seq, sampler := r.samplerBytes }
    let s := s.setSending n b
    if b.conn.isNone then s.attempt n b else s.pushMove n b.header.bundle

/-- The handoff of a request that was cancelled, or that ended at its first token, is given up (R202). -/
def State.dropHandoff (s : State) (n id : Nat) : State :=
  match (s.stand n).sapway.sending.find? (fun b => b.purpose == .handoff && b.header.request == id && !b.final) with
  | some b => s.cancelMove n b 0x23
  | none => s

/-- After a LAYER_MARK: the sections of the layers done so far are ready (R202). -/
def State.pushLayers (s : State) (n layers : Nat) : State :=
  ((s.stand n).sapway.sending.filter (fun b => !b.final)).foldl (fun s b =>
    match s.sending n b.header.bundle with
    | some b => (s.setSending n { b with layers := layers }).pushMove n b.header.bundle
    | none => s) s

/-- A DORMANT bundle of a sequence, with no member yet (R207). -/
def State.dormantMove (s : State) (n seq ttl : Nat) (purpose : Purpose) : State × Sending :=
  let (s, bid) := s.newBundleId n
  let (s, nonce) := s.nonce
  let (m, len) := match (s.stand n).kv.pool with
    | some p => let r := s.seqRecord n p seq; (r.model, r.length)
    | none => (0, 0)
  let tokens := s.historyBytes n seq
  let h := { s.headerFor n 3 m bid nonce with length := len, history := tokens.length / 4, ttl := ttl }
  (s, { purpose := purpose, header := h, seq := seq, tokens := tokens })

/-- A request marked KV_FULL: its sequence is suspended to the ORPHAN_TIER, or stays in place (R201, R207). -/
def State.suspendFull (s : State) (n : Nat) (r : Request) : State :=
  let ttl := s.fld Fld.SWY_CONFIG_ORPHAN_TTL_S n
  let (s, b) := s.dormantMove n r.seq ttl .orphan
  match s.keepDormant n (s.fld Fld.SWY_CONFIG_ORPHAN_TIER n) ttl b with
  | (s, 0) => (s.releaseSeq n r.seq).swyEvent n 3 r.id b.header.bundle (r.bound.getD 0) r.seq
  | (s, _) => s.swyEvent n 3 r.id 0 (r.bound.getD 0) r.seq

end Sys2Proof.Machine
end

