-- ==== Sys2Proof/Machine/Tier.lean ====
section
/-! DEFINITION. The tier commands and the page moves (07_memory_tiers.md R151-R161). -/

namespace Sys2Proof.Machine

open Sys2Proof

/-- The OPs of Table 7.5. -/
def tierOps : List Nat := [1, 2, 3, 4, 5, 6, 7, 8]

/-- BAD_COMMAND in TIER_ERROR, with the context of the object that the command names. -/
def State.tierBad (s : State) (n obj : Nat) : State :=
  s.flagError Fld.TIER_ERROR_BAD_COMMAND n (fun s =>
    match (s.stand n).tiers.objects.get? obj with
    | some o => tierContext n obj o.home o.tag o.base s
    | none => tierContext n obj 0 0 0 s)

/-- A tier command of stand `n`: the result of its effect, with BAD_COMMAND recorded. -/
def State.tierCommand (s : State) (n op : Nat) (run : List Byte → State → State × Nat) : State :=
  let objOf := fun e : List Byte => le e 4 2
  s.ringCommand tierRing n 32 op tierOps
    (fun s => match s.ringFront tierRing n 32 with
      | some e => s.tierBad n (objOf e)
      | none => s)
    (fun e s =>
      let (t, res) := if objOf e = programObject then (s, 0x10) else run e s
      (if res = 0x10 then t.tierBad n (objOf e) else t, res))

/-! CREATE (R151, R152) -/

/-- An object descriptor read from its 64 bytes (Table 7.2). -/
def TierObject.ofBytes (b : List Byte) : TierObject :=
  let w := fun i => le b (8 * i) 8
  let home := bits (w 0) 48 2
  { base := bits (w 0) 0 48, home := home, hint := bits (w 0) 50 3, place := bits (w 0) 53 1, die := bits (w 0) 54 3,
    pages := bits (w 1) 0 32, homeOffset := if home = 3 then 0 else bits (w 2) 0 48,
    regionKey := if home = 3 then w 2 else 0, regionGen := bits (w 3) 0 16, conn := bits (w 3) 16 17,
    remoteOffset := bits (w 4) 0 48, indexAddr := bits (w 5) 0 48, tag := bits (w 6) 0 32 }

/-- The first row of R152: reserved bits, ranges and alignments of a descriptor. -/
def State.createBad (s : State) (n : Nat) (b : List Byte) : Bool :=
  let w := fun i => le b (8 * i) 8
  let o := TierObject.ofBytes b
  let reserved := bits (w 0) 57 7 + bits (w 1) 32 32 + bits (w 3) 33 31 + bits (w 4) 48 16 + bits (w 5) 48 16 +
    bits (w 6) 32 32 + w 7
  o.base == 0 || o.base % pageSize != 0 || reserved != 0 || 3 < o.hint || o.pages == 0 ||
  o.homeOffset % pageSize != 0 || o.remoteOffset % pageSize != 0 ||
  (o.place == 1 && (s.dieOrder n).length ≤ o.die) ||
  (o.home == 0 && (w 2 != 0 || w 3 != 0 || w 4 != 0)) ||
  ((o.home == 1 || o.home == 2) && (bits (w 2) 48 16 != 0 || w 3 != 0 || w 4 != 0))

/-- The second row of R152. -/
def State.createOverlaps (s : State) (n : Nat) (o : TierObject) : Bool :=
  let st := s.stand n
  let stop := o.base + o.pages * pageSize
  let space := if o.home = 1 then s.t1Frames n * pageSize
    else ((s.channels n).map (fun k => s.fld Fld.DDR_CHAN_DIMMS k * s.fld Fld.DDR_CHAN_CAPACITY_GIB k * 2 ^ 30)).foldl (· + ·) 0
  let home := o.home == 1 || o.home == 2
  st.tiers.objects.any (fun e => meets o.base stop e.2.base (e.2.base + e.2.pages * pageSize)) ||
  st.kv.aperture.any (fun a => meets o.base stop a (a + 64 * 2 ^ 30)) || 2 ^ 48 < stop ||
  (home && (space < o.homeOffset + o.pages * pageSize ||
    st.tiers.objects.any (fun e => e.2.home == o.home &&
      meets o.homeOffset (o.homeOffset + o.pages * pageSize) e.2.homeOffset (e.2.homeOffset + e.2.pages * pageSize))))

/-- Free and evictable T0 frames of a grove: as many as an allocation can take. -/
def State.t0Room (s : State) (n g : Nat) : Nat :=
  if s.groveWithdrawn g then 0
  else framesPerGrove - ((s.stand n).tiers.t0Used g).length + (s.victims n g).length

/-- T0 frames that the pages of an object need in each grove of the stand are there (R152). -/
def State.t0Fits (s : State) (n : Nat) (o : TierObject) : Bool :=
  (s.groves n).all (fun g =>
    ((List.range o.pages).filter (fun i => s.placeGrove n o i == g)).length ≤ s.t0Room n g)

/-- T0 homes given to the pages of a new object in ascending order (R149). -/
def State.giveHomes (s : State) (n : Nat) (o : TierObject) : State :=
  (List.range o.pages).foldl (fun s i =>
    let g := s.placeGrove n o i
    match s.takeFrame n g (s.victims n g).length with
    | (t, some f) => t.updPage n (o.base / pageSize + i) (fun _ => { home := some f })
    | (t, none) => t) s

/-- Copies made in T0 for every page of a pinned object; a NEAR copy in T1 is evicted first (Table 7.3). The result is
APPLIED, NO_SPACE or REMOTE_FAILED. -/
def State.pinPages (s : State) (n : Nat) (o : TierObject) : State × Nat :=
  let pin := { o with hint := 2 }
  (List.range o.pages).foldl (fun (p : State × Nat) i =>
    let (s, res) := p
    if res ≠ 0 then (s, res)
    else
      let pg := o.base / pageSize + i
      let near := ((s.stand n).tiers.page pg).copy.any (fun c => c.frame.tier == 1)
      let (t, gone) := if near then s.evictCopy n pg else (s, true)
      if !gone then (t, 0x13) else t.promoteNow n pg pin) (s, 0)

/-- The copies in a T1 range evicted in turn (R152): false where one is HELD or becomes HELD. -/
def State.clearT1Range (s : State) (n lo hi : Nat) : State × Bool :=
  ((s.stand n).tiers.pages.filter (fun e =>
      e.2.copy.any (fun c => c.frame.tier == 1 && lo ≤ c.frame.num && c.frame.num < hi))).foldl
    (fun (p : State × Bool) e => if p.2 then p.1.evictCopy n e.1 else p) (s, true)

/-- An object removed: its moves end, its copies are discarded and its entries and frames freed (Table 7.5, DELETE). -/
def State.removeObject (s : State) (n k : Nat) : State :=
  match (s.stand n).tiers.objects.get? k with
  | none => s
  | some o =>
    let lo := o.base / pageSize
    s.updStand n (fun st => { st with tiers := { st.tiers with
      objects := st.tiers.objects.del k
      pages := st.tiers.pages.filter (fun e => e.1 < lo || lo + o.pages ≤ e.1) } })

/-- CREATE (R152): the checks in the order of their table, then the object with its frames and PIN copies. -/
def State.createObject (s : State) (n k addr : Nat) : State × Nat :=
  match s.peek n addr 64 with
  | .ok b =>
    let o := TierObject.ofBytes b
    let leaves := { (s.stand n).tiers with objects := (s.stand n).tiers.objects.set k o }.leaves.length
    if addr % 64 ≠ 0 ∨ k = programObject ∨ ((s.stand n).tiers.objects.get? k).isSome ∨ s.createBad n b then (s, 0x10)
    else if s.createOverlaps n o then (s, 0x11)
    else if s.fld Fld.TIER_MAP_LEAVES_TOTAL n < leaves then (s, 0x12)
    else if (o.home = 0 ∨ o.hint = 2) ∧ ¬ s.t0Fits n o then (s, 0x13)
    else
      let (s1, clear) := if o.home = 1 then s.clearT1Range n o.t1Range.1 o.t1Range.2 else (s, true)
      if !clear then (s1, 0x13)
      else
        let s2 := s1.updStand n (fun st => { st with tiers := { st.tiers with objects := st.tiers.objects.set k o } })
        let s3 := if o.home = 0 then s2.giveHomes n o else s2
        if o.hint = 2 ∧ o.home ≠ 0 then
          let (s4, res) := s3.pinPages n o
          if res = 0 then (s4, 0) else (s4.removeObject n k, res)
        else (s3, 0)
  | _ => (s.noted n addr 64, 0x10)

/-! Commands on a range of pages (R161) -/

/-- The page indices that FIRST and COUNT name; none where they leave the object. -/
def rangeOf (o : TierObject) (e : List Byte) : Option (List Nat) :=
  let first := le e 8 4
  let count := le e 12 4
  let k := if count = 0 then o.pages - first else count
  if first + count > o.pages ∨ o.pages < first then none else some ((List.range k).map (first + ·))

/-- A command on a range of an object that exists; any other completes BAD_COMMAND. -/
def State.onRange (s : State) (n : Nat) (e : List Byte) (run : TierObject → List Nat → State → State × Nat) :
    State × Nat :=
  match (s.stand n).tiers.objects.get? (le e 4 2) with
  | none => (s, 0x10)
  | some o =>
    match rangeOf o e with
    | none => (s, 0x10)
    | some idx => run o idx s

/-- A step over pages that keeps the first result other than APPLIED. -/
def overPages (o : TierObject) (idx : List Nat) (s : State) (f : Nat → State → State × Nat) : State × Nat :=
  idx.foldl (fun (p : State × Nat) i =>
    let (t, r) := f (o.base / pageSize + i) p.1
    (t, if p.2 = 0 then r else p.2)) (s, 0)

/-- A fresh home frame with open content for a LOST page (REPAIR); a T2 page with a unit on a channel out of service
stays LOST (R395), and so does a T0 page without a free frame. -/
def State.repairPage (s : State) (n p : Nat) (o : TierObject) : State :=
  let e := (s.stand n).tiers.page p
  let idx := p - o.base / pageSize
  let forget := fun s : State =>
    let e := (s.stand n).tiers.page p
    (List.range 16).foldl (fun (s : State) u =>
      let k := s.homeKey n o idx (4096 * u) e
      { s with mem := s.mem.forget k (k + 4096) s.freeCtr, freeCtr := s.freeCtr + 1 }) s
  if !e.lost then s
  else if o.home = 2 ∧ (bitsOf 16 (s.fld Fld.EVR_DDR_OUT_OUT)).any (s.t2OnChannel n o idx) then s
  else if o.home = 1 ∧
      s.halfWithdrawn ((s.halfStacks n).getD ((o.homeOffset + idx * pageSize) / halfStackSize) 0) then s
  else if o.home = 0 then
    match s.freeT0 n (s.placeGrove n o idx) with
    | none => s
    | some f => forget (s.updPage n p (fun _ => { home := some f }))
  else forget (s.updPage n p (fun e => { e with lost := false }))

/-- REPAIR (Table 7.5). -/
def execRepair (n : Nat) (s : State) : Host.Outcome State Fault Refusal :=
  .next (s.tierCommand n 8 (fun e s => s.onRange n e (fun o idx s =>
    overPages o idx s (fun p s => (s.repairPage n p o, 0)))))

/-! LOAD (R133, R161) -/

/-- Block `b` of OBJECT converted from its encrypted stored form, or written poisoned when its check fails. -/
def State.loadBlock (s : State) (n : Nat) (o : TierObject) (src : TierObject) (ea b tables stored : Nat)
    (e : IndexEntry) : State :=
  let dst := o.base + e.offset * 256
  let from' := src.base + e.offset * 256
  let stop := e.offset * 256 + e.size
  let fail := fun (s : State) (kind codec : Nat) => s.poisonEntry n ea dst ⟨0, kind, codec, 0⟩
  if e.poisoned then s
  else if e.badRange stored ∨ o.pages * pageSize < stop ∨ src.pages * pageSize < stop then
    fail s 2 (s.headerCodec n from' e.raw)
  else
    match s.peek n from' e.size with
    | .ok bs =>
      if e.raw then
        let s1 := s.putBytes n dst bs
        if crc32c bs ≠ e.rawCheck then fail s1 3 0
        else if e.rawEncrypted then
          let plain := xtsDecrypt (((s.stand n).weightKeys.get? e.rawKeyId).getD []) b bs
          let s2 := s1.putBytes n dst plain
          match s.peek n ea 16 with
          | .ok ent =>
            s2.putBytes n ea (patchLe (patchLe (patch ent 5 [ent.getD 5 0 &&& 0xF7]) 8 4 (crc32c plain)) 12 2 0)
          | _ => s2
        else s1
      else
        let h := le bs 0 8
        let s1 := s.putBytes n dst bs
        let known := fun (f : Nat) => f == ternCode || (formatOf f).isSome
        if let some kind := headerFault (fun c => c == 1 || c == 2) known (fun _ t => decide (t < tables)) e.cls bs then
          fail s1 kind (bits h 8 2)
        else if bit h 12 then
          let plain := bs.take 48 ++ xtsDecrypt (((s.stand n).weightKeys.get? (le bs 12 2)).getD []) b (bs.drop 48)
          let clear := patchLe (patch plain 1 [plain.getD 1 0 &&& 0xEF]) 12 2 0
          s1.putBytes n dst (patchLe clear 8 4 (blockCheck clear))
        else s1
    | _ => fail s 7 0

/-- The KEY_ID that a block names, if it is encrypted. -/
def State.blockKey (s : State) (n : Nat) (src : TierObject) (e : IndexEntry) : Option Nat :=
  if e.raw then (if e.rawEncrypted then some e.rawKeyId else none)
  else
    match s.peek n (src.base + e.offset * 256) 16 with
    | .ok h => if bit (le h 0 8) 12 then some (le h 12 2) else none
    | _ => none

/-- LOAD: the range copied page by page, then each block whose first stored byte lies in it converted whole. -/
def State.loadRange (s : State) (n : Nat) (o src : TierObject) (idx : List Nat) : State × Nat :=
  match s.indexHeader n o.indexAddr with
  | none => (s, 0x10)
  | some (tables, blocks, stored) =>
    let ents := (List.range blocks).filterMap (fun b =>
      let ea := indexEntryAddr o.indexAddr tables b
      match s.peek n ea 16 with
      | .ok bs =>
        let e := IndexEntry.ofBytes bs
        if idx.contains (e.offset * 256 / pageSize) then some (b, ea, e) else none
      | _ => none)
    if ents.any (fun x => (s.blockKey n src x.2.2).any (fun k => ((s.stand n).weightKeys.get? k).isNone)) then (s, 0x15)
    else
      let t := idx.foldl (fun s i =>
        match s.peek n (src.base + i * pageSize) pageSize with
        | .ok bs => s.putBytes n (o.base + i * pageSize) bs
        | _ => s) s
      (ents.foldl (fun s x => s.loadBlock n o src x.2.1 x.1 tables stored x.2.2) t, 0)

/-- TIER_LOAD (R133). -/
def execTierLoad (n : Nat) (s : State) : Host.Outcome State Fault Refusal :=
  .next (s.tierCommand n 7 (fun e s => s.onRange n e (fun o idx s =>
    match (s.stand n).tiers.objects.get? (le e 16 2) with
    | none => (s, 0x10)
    | some src =>
      if o.indexAddr = 0 ∨ idx.any (src.pages ≤ ·) ∨ le e 18 6 ≠ 0 then (s, 0x10)
      else s.loadRange n o src idx)))

/-! Page moves (R153, R156, R157) -/

/-- AGE_SWEEP: each copy of stand `n` visited once (R156). -/
def execAgeSweep (n : Nat) (s : State) : Host.Outcome State Fault Refusal :=
  .next (s.updStand n (fun st => { st with tiers := { st.tiers with
    pages := st.tiers.pages.map (fun e =>
      (e.1, { e.2 with copy := e.2.copy.map (fun c =>
        if c.ref then { c with ref := false, age := 0 } else { c with age := min 255 (c.age + 1) }) })) } }))

/-! Storage faults (R160, R395) -/

/-- An error counted against its channel: the fourth distinct frame within 1 s takes the channel out of service. -/
def State.countError (s : State) (n chan frame : Nat) : State × Bool :=
  let l := (((s.stand n).tiers.errors.get? chan).getD []).filter (fun e => s.timeNs < e.1 + 1000000000 && e.2 != frame)
  let l := (s.timeNs, frame) :: l
  (s.updStand n (fun st => { st with tiers := { st.tiers with errors := st.tiers.errors.set chan l } }), 4 ≤ l.length)

/-- The channel of unit `u` of a page at its home or its copy, and the number of the frame. -/
def State.unitChannel (s : State) (n : Nat) (o : TierObject) (p u : Nat) (c : Option Frame) : Nat × Nat :=
  let idx := p - o.base / pageSize
  let f := match c with
    | some f => some f
    | none => if o.home = 0 then ((s.stand n).tiers.page p).home
        else if o.home = 1 then some ⟨1, 0, o.homeOffset / pageSize + idx⟩ else none
  match f with
  | some f =>
    if f.tier = 0 then ((groveChannels f.grove).getD (u % 16) 0, f.num)
    else ((halfStackChannels ((s.halfStacks n).getD (f.num / framesPerGrove) 0)).getD (u % 16) 0, f.num)
  | none => (512 + s.t2Channel n (o.homeOffset + idx * pageSize + 4096 * u), o.homeOffset / pageSize + idx)

/-- MEMORY_UNCORRECTABLE: an uncorrectable error in unit `u` of page `p` of stand `n` (Table 7.4), counted against its
channel (R395). -/
def execMemoryUncorrectable (n p u : Nat) (err : FrameError) (s : State) : Host.Outcome State Fault Refusal :=
  .next (
    match s.pageObject n p with
    | none => s
    | some (_, o) =>
      let e := (s.stand n).tiers.page p
      let copy := match err with | .copy _ => e.copy | .home => none
      if o.home = 3 ∧ copy.isNone then s
      else
        let (chan, frame) := s.unitChannel n o p u (copy.map (·.frame))
        let s1 := if chan < 512 then s.satFld Fld.HBM_ECC_UNCORRECTED (chan / 32) 0 1
          else s.satFld Fld.DDR_ECC_UNCORRECTED (chan - 512) 0 1
        let s2 := match copy, err with
          | some c, .copy homeBad =>
            if c.dirty.testBit u then s1.losePage n p c.frame.tier
            else if homeBad then s1.losePage n p o.home
            else if c.dirty = 0 then s1.dropCopy n p
            else s1.copyMem (s1.frameKey n c.frame (4096 * u))
              (s1.homeKey n o (p - o.base / pageSize) (4096 * u) e) 4096
          | _, _ => if e.copy.isSome then s1 else s1.losePage n p o.home
        let (s3, four) := s2.countError n chan frame
        if !four then s3 else if chan < 512 then s3.failHbm chan else s3.failDdr (chan - 512))

end Sys2Proof.Machine
end

