-- ==== Sys2Proof/Machine/Traffic.lean ====
section
/-! DEFINITION. The fabric operations of pages of T3 home (07_memory_tiers.md R145, R154, R155; 10_fabric_transport.md
R234, R235, R244). -/

namespace Sys2Proof.Machine

open Sys2Proof

/-- An operation of the tier engine of stand `n` handed to its object's connection, which must be the stand's. -/
def State.tierIssue (s : State) (n : Nat) (o : TierObject) (op : FabOp) : State :=
  if (s.conn o.conn).any (·.stand == n) then s.fabIssue o.conn op else s.outcomes (op.failed 8)

/-- The fabric operations of page `p` of an object begin, unless they are under way: one WRITE for each dirty unit of its
copy, or one READ_REQ of the page where it has no copy. -/
def State.startTraffic (s : State) (n p : Nat) (o : TierObject) : State :=
  let e := (s.stand n).tiers.page p
  let idx := p - o.base / pageSize
  let off := o.remoteOffset + idx * pageSize
  match e.traffic, e.copy with
  | .busy _ _, _ => s
  | _, some c =>
    let us := bitsOf 16 c.dirty
    let s := s.updPage n p (fun e => { e with copy := some { c with sent := c.dirty }, traffic := .busy us.length false })
    us.foldl (fun s u => s.tierIssue n o (.write o.regionKey o.regionGen (off + 4096 * u)
      (.stand (p * pageSize + 4096 * u) 4096) (.tier n p))) s
  | _, none =>
    (s.updPage n p (fun e => { e with traffic := .busy 1 false })).tierIssue n o
      (.readReq o.regionKey o.regionGen off pageSize (s.homeKey n o idx 0 e) (.tier n p))

/-- One fabric operation of page `p` has its outcome. -/
def State.trafficDone (s : State) (n p status : Nat) : State :=
  match ((s.stand n).tiers.page p).traffic with
  | .busy left failed =>
    let bad := failed || status != 0
    s.updPage n p (fun e => { e with traffic := if left ≤ 1 then .done (!bad) else .busy (left - 1) bad })
  | _ => s

end Sys2Proof.Machine
end

