-- ==== Sys2Proof/Machine/Arrive.lean ====
section
/-! DEFINITION. Sapway as a receiver: offers, checks, installation; and the outcomes of the fabric handed to their
issuers (09_state_movement.md R192, R195, R203-R206, R209, R214-R216). -/

namespace Sys2Proof.Machine

open Sys2Proof

/-! Checking a bundle (R192) -/

/-- A section of a checked bundle. -/
structure OpenSection where
  entry : SectionEntry
  clear : List Byte
  deriving DecidableEq, Repr

/-- The sections of a bundle opened under a job key; none where a section lies outside the bundle or a tag fails. -/
def openBundle (job : List Byte) (b : List Byte) : Option (List OpenSection) :=
  let h := BundleHeader.ofBytes b
  let key := bundleKey job h
  let one : Nat → Option OpenSection := fun i =>
    let e := SectionEntry.at_ b i
    if b.length < e.offset + e.stored then none
    else (openSection key (b.take 40) h.bundle i (sub b e.offset e.stored)).map (fun c => ⟨e, c⟩)
  if b.length < 256 + 16 * headerSections b then none else (List.range (headerSections b)).mapM one

/-- The model of a stand with a MODEL_ID. -/
def State.modelFor (s : State) (n id : Nat) : Option Nat :=
  ((s.stand n).cfg.models.find? (fun e => e.2.modelId == id)).map (·.1)

/-- Every enabled group of the model equals the bundle's geometry entry (R204 step 1). -/
def State.geometryOk (s : State) (n : Nat) (p : Pool) (m : Nat) (h : BundleHeader) : Bool :=
  ((s.geometry n p m).zip h.geometry).all (fun e => !e.1.testBit 5 || e.1 == e.2)

/-- The checks of R192 on a whole bundle received by stand `n`: the sections, or the step that failed. -/
def State.checkBundle (s : State) (n : Nat) (m : Option Nat) (b : List Byte) : Except Nat (List OpenSection) :=
  let h := BundleHeader.ofBytes b
  if !headerOk b then .error 1
  else
    match s.jobKey n h.keyId with
    | none => .error 2
    | some job =>
      match openBundle job b with
      | none => .error 3
      | some l =>
        let fits := l.all (fun x =>
          if x.entry.type = 3 then
            (match m, (s.stand n).kv.pool with
             | some m, some p =>
               let g := s.kvGroup n p (4 * m + x.entry.group)
               g.enable && decide (x.entry.layer < g.layers) && (parsePages g 1048576 x.clear).isSome
             | _, _ => true)
          else if x.entry.type = 1 then x.clear.length == 4 * h.history
          else x.entry.type == 2 && x.clear.length == 64)
        if fits then .ok l else .error 4

/-! Installing pages (R204 step 4) -/

/-- One page of layer `i` of sequence `seq` written: SEALED where it is full and every block is compressed, otherwise
decoded into an OPEN frame; a page that does not decode is installed POISONED. None where no storage is free. -/
def State.installPage (s : State) (n : Nat) (p : Pool) (r : SeqRecord) (g : KvGroup) (i : Nat) (a : ArrivedPage) :
    Option State :=
  let e := s.ptEntry n r g a.page
  let got : Option (State × PtEntry) :=
    if e.valid then some (s, e)
    else (s.kvFreeSet n g).map (fun t =>
      ((List.range g.layers).foldl (fun s j => s.setHeader n g t j {}) s, { set := t, valid := true, mask := 2 ^ g.layers - 1 }))
  got.bind (fun x =>
    let (s, e) := x
    let e' := { e with mask := if e.mask.testBit i then e.mask ^^^ 2 ^ i else e.mask }
    let h : PageHeader := { tokens := a.tokens, refs := 1, firstStep := s.stepLow n }
    if e.references i then none
    else if a.tokens = g.tpp ∧ a.blocks.all (fun b => !b.2.1) then
      let one : (Nat × Bool × Nat × List Byte) × Nat → Nat := fun b => b.1.1 * 2 ^ (4 * b.2)
      let h := { h with state := 2, classes := (a.blocks.zipIdx.map one).foldl (· + ·) 0 }
      (s.kvFreeRun n p h.granules).map (fun q =>
        let at_ := p.frameAddr + kvGranule * q
        ((s.standWrite n at_ (a.blocks.flatMap (·.2.2.2))).setHeader n g e.set i { h with location := at_ }).setPt n r g
          a.page e')
    else
      match a.clear g with
      | .error err =>
        some (((s.setHeader n g e.set i { h with state := 3 }).flagBlock n 0 err).setPt n r g a.page e')
      | .ok bs =>
        (s.kvFreeFrame n p).map (fun f =>
          let at_ := p.frameAddr + kvFrame * f
          ((s.standWrite n at_ bs).setHeader n g e.set i { h with state := 1, location := at_ }).setPt n r g a.page e'))

/-- Every PAGES section of a bundle installed in a sequence. -/
def State.installPages (s : State) (n : Nat) (p : Pool) (seq m : Nat) (l : List OpenSection) : Option State :=
  (l.filter (fun x => x.entry.type == 3)).foldlM (fun s x =>
    let g := s.kvGroup n p (4 * m + x.entry.group)
    let r := s.seqRecord n p seq
    ((parsePages g 1048576 x.clear).getD []).foldlM (fun s a =>
      if a.page < (r.table g).2 then s.installPage n p r g x.entry.layer a else none) s) s

/-- The clear bytes of the first section of a type. -/
def sectionOf (l : List OpenSection) (type : Nat) : List Byte :=
  ((l.find? (fun x => x.entry.type == type)).map (·.clear)).getD []

/-! Records and slots of arrivals (R204 step 2) -/

/-- The lowest sequence record of SWY_SEQ_RANGE that is not VALID and that no arrival holds. -/
def State.arrivalSeq (s : State) (n : Nat) (p : Pool) : Option Nat :=
  let first := s.fld Fld.SWY_SEQ_RANGE_FIRST n
  let held := (s.stand n).sapway.arrivals.filterMap (·.seq)
  ((List.range (s.fld Fld.SWY_SEQ_RANGE_COUNT n)).map (first + ·)).find? (fun q =>
    decide (q < p.seqMax) && !s.seqValid n p q && !held.contains q)

/-- The lowest slot of the history pool that no VALID sequence and no arrival holds. -/
def State.historySlot (s : State) (n : Nat) (p : Pool) : Option Nat :=
  let used := ((s.stand n).sapway.slots.filter (fun e => s.seqValid n p e.1)).map (·.2) ++
    (s.stand n).sapway.arrivals.filterMap (·.slot)
  (List.range (s.fld Fld.SWY_HISTORY_POOL_1_COUNT n)).find? (fun k => !used.contains k)

/-- The address of a history slot. -/
def State.slotAddr (s : State) (n k : Nat) : Nat :=
  s.fld Fld.SWY_HISTORY_POOL_ADDR n + 4 * s.fld Fld.SWY_HISTORY_POOL_1_SIZE n * k

/-- The lowest free run of the staging area, 64 B aligned (R200). -/
def State.stagingRun (s : State) (n keyId len : Nat) : Option Nat :=
  let used := ((s.stand n).sapway.arrivals.filter (·.accepted)).map (fun a => (a.stage.1, a.stage.1 + a.stage.2))
  (sortBy id (0 :: used.map (fun u => alignUp u.2 64))).find? (fun o =>
    decide (o + len ≤ (s.stagingOf n keyId).2.2) && used.all (fun u => !meets u.1 u.2 o (o + len)))

/-! Arrivals -/

/-- An arrival set. -/
def State.setArrival (s : State) (n : Nat) (a : Arrival) : State :=
  s.updSapway n (fun w => { w with arrivals := w.arrivals.map (fun x => if x.bundle = a.bundle ∧ x.conn = a.conn then a else x) })

/-- An arrival with a BUNDLE_ID over a connection. -/
def State.arrival (s : State) (n conn bid : Nat) : Option Arrival :=
  (s.stand n).sapway.arrivals.find? (fun a => a.conn == conn && a.bundle == bid)

/-- An arrival leaves: its staging, its slot and its pins are free; a record that it took is released. -/
def State.endArrival (s : State) (n : Nat) (a : Arrival) (release : Bool) : State :=
  let s := s.updSapway n (fun w => { w with arrivals := w.arrivals.filter (fun x => x.bundle != a.bundle || x.conn != a.conn) })
  let s := match a.pinned with
    | some i => s.unpin n i
    | none => s
  match a.seq with
  | some q => if release && a.accepted then s.releaseSeq n q else s
  | none => s

/-- A reply to the sender of an arrival. -/
def State.reply (s : State) (a : Arrival) (type status : Nat) (content : List Byte) : State :=
  s.sendControl a.conn a.inbox type a.attempt status a.bundle content

/-- ACCEPT sent where a record, a slot, staging and room for the commands are free; otherwise it is delayed (R204). -/
def State.tryAccept (s : State) (n : Nat) (a : Arrival) : State :=
  let h := BundleHeader.ofBytes a.words
  let len := headerBytes a.words
  let stage := s.stagingRun n h.keyId len
  let reg := s.stagingOf n h.keyId
  let accept := fun (s : State) (a : Arrival) (o : Nat) =>
    (s.setArrival n { a with accepted := true, stage := (o, len) }).reply a 2 0
      (toBytes 8 a.prefixTokens ++ toBytes 8 reg.1 ++ toBytes 8 reg.2.1 ++ toBytes 8 o)
  if a.accepted ∨ !s.bundleRoom n then s
  else
    match stage with
    | none => s
    | some o =>
      if h.kind = 3 then (if (s.storeRun n len).isSome then accept s a o else s)
      else
        match s.kvActive n with
        | none => s
        | some p =>
          let needSlot := h.kind != 4
          match s.arrivalSeq n p with
          | none => s
          | some q =>
            let slot := if needSlot then s.historySlot n p else none
            if (needSlot ∧ (slot.isNone ∨ s.fld Fld.SWY_HISTORY_POOL_1_SIZE n < h.historyCap)) ∨
                4094 < (s.stand n).kv.device.length then s
            else
              let node := if h.kind = 1 then s.probeNode n a.model a.depth a.probe else none
              let pre := if node.isSome then 64 * a.depth else 0
              let tables := (List.range 4).map (fun i => s.peekLe n (p.record q + 8 + 8 * i) 8)
              let s := s.deviceCommand n { op := 1, seq := q, src := a.model, tables := tables }
              let s := match node.bind (fun i => ((s.stand n).canopy.get? i).map (fun x => (i, x))) with
                | some (i, x) =>
                  let graft := pre / s.canopyTpp n a.model
                  (s.deviceCommand n { op := 2, seq := q, src := x.anchor, count := graft }).pinPath n i true
                | none => s
              let a := { a with prefixTokens := pre, seq := some q, slot := slot, pinned := node,
                                mark := (s.stand n).kv.deviceDone + (s.stand n).kv.device.length }
              (accept s a o).kvSettle n

/-- The arrivals whose ACCEPT is delayed tried again. -/
def State.acceptMore (s : State) (n : Nat) : State :=
  ((s.stand n).sapway.arrivals.filter (fun a => !a.accepted)).foldl (fun s a =>
    match s.arrival n a.conn a.bundle with
    | some a => s.tryAccept n a
    | none => s) s

/-- A received OFFER (R192, R193, R204). -/
def State.takeOffer (s : State) (n conn : Nat) (msg : List Byte) : State :=
  let words := sub msg 16 112
  let h := BundleHeader.ofBytes words
  let a : Arrival := { conn := conn, bundle := le msg 8 8, attempt := le msg 1 1, words := words, probe := sub msg 128 16,
                       depth := le msg 144 4, inbox := (le msg 152 8, le msg 160 2, le msg 164 4) }
  let dup := (s.stand n).sapway.arrivals.any (·.bundle == a.bundle) || ((s.stand n).sapway.store.get? a.bundle).isSome
  let keyId := ((s.conn conn).map (·.keyId)).getD 0
  let m := s.modelFor n h.modelId
  let geo := match m, (s.stand n).kv.pool with
    | some m, some p => s.geometryOk n p m h
    | _, _ => false
  if dup ∨ h.kind = 0 ∨ 4 < h.kind then s.reply a 3 0x1D []
  else if h.keyId ≠ keyId ∨ (s.jobKey n h.keyId).isNone then
    (s.eventOf n 0x300A 32 [a.bundle, connItem conn, h.keyId]).reply a 3 0x15 []
  else if h.kind ≠ 3 ∧ s.fld Fld.SWY_SEQ_RANGE_COUNT n = 0 then s.reply a 3 0x1E []
  else if h.kind ≠ 3 ∧ !geo then (s.flagSwy Fld.SWY_ERROR_GEOMETRY_MISMATCH n a.bundle).reply a 3 0x1C []
  else
    let a := { a with model := m.getD 0 }
    (s.updSapway n (fun w => { w with arrivals := w.arrivals ++ [a] })).tryAccept n a

/-! Installation (R204 steps 4 to 6) -/

/-- The NEW entry that presents an arrival to intake. MASK is 1 where a mask address is carried. -/
def State.arrivalEntry (s : State) (n : Nat) (a : Arrival) (h : BundleHeader) (sampler : List Byte) : List Byte :=
  let mask := b01 (le sampler 24 8 != 0)
  toBytes 8 (1 + mask * 2 ^ 8 + a.model * 2 ^ 11 + s.fld Fld.SWY_CONFIG_ARRIVAL_CQ n * 2 ^ 14 + h.cls * 2 ^ 24 +
    h.customer * 2 ^ 32) ++ toBytes 8 h.request ++ toBytes 4 (a.seq.getD 0) ++ toBytes 4 h.epoch ++
  toBytes 8 (s.slotAddr n (a.slot.getD 0)) ++ toBytes 4 h.promptLen ++ toBytes 4 h.maxNew ++ sub sampler 0 40 ++
  sub sampler 40 16 ++ toBytes 8 h.historyCap ++ zeros 24

/-- COMMITTED sent: the arrival ends with its record kept. -/
def State.commitArrival (s : State) (n : Nat) (a : Arrival) (number : Nat) : State :=
  let s := (s.addFld Fld.SWY_BUNDLES_RECEIVED_COUNT n 0 1).addFld Fld.SWY_BYTES_RECEIVED_COUNT n 0 (headerBytes a.words)
  ((s.reply a 5 0 (toBytes 8 number)).endArrival n a false).acceptMore n

/-- An arrival refused, or ended by ABORT: no part of it stays. -/
def State.refuseArrival (s : State) (n : Nat) (a : Arrival) (type status : Nat) : State :=
  ((s.reply a type status []).endArrival n a true).acceptMore n

/-- A history written to a sequence's slot and known to its Sapway. -/
def State.installHistory (s : State) (n seq slot : Nat) (tokens : List Byte) : State :=
  (s.standWrite n (s.slotAddr n slot) tokens).updSapway n (fun w =>
    { w with histories := w.histories.set seq (s.slotAddr n slot, tokens.length / 4), slots := w.slots.set seq slot })

/-- A handoff or fallback presented to intake; ARRIVED where it is taken in (R206). -/
def State.presentArrival (s : State) (n : Nat) (a : Arrival) (h : BundleHeader) (sampler : List Byte) : State :=
  let e := s.arrivalEntry n a h sampler
  let fell := h.kind == 2
  if s.refusal n (if fell then .fallback else .handoff) e ≠ 0 then s.refuseArrival n a 3 0x1E
  else
    let r := { requestOf e with arrived := true, fellBack := fell || bit (le sampler 61 1) 0, generated := le sampler 56 4,
                                misses := le sampler 60 1, cancel := a.cancel }
    let s := (s.queueRequest n r).swyEvent n 2 h.request a.bundle h.epoch (a.seq.getD 0)
    s.commitArrival n a (a.seq.getD 0)

/-- A bundle whose sections passed its checks installed by its kind. -/
def State.installArrival (s : State) (n : Nat) (a : Arrival) (b : List Byte) (l : List OpenSection) : State :=
  let h := BundleHeader.ofBytes b
  let q := a.seq.getD 0
  match h.kind, (s.stand n).kv.pool with
  | 3, _ =>
    (match s.putBundle n a.bundle h.history h.ttl b with
     | some s => s.commitArrival n a 0
     | none => s.refuseArrival n a 6 0x13)
  | k, some p =>
    if !s.seqValid n p q then s.refuseArrival n a 6 0x10
    else if (s.seqRecord n p q).length ≠ a.prefixTokens ∨ s.seqPoisoned n p q then s.refuseArrival n a 6 0x19
    else
      match s.installPages n p q a.model l with
      | none => s.refuseArrival n a 6 0x13
      | some s =>
        if k = 4 then
          ((s.setLength n p q h.length).updSapway n (fun w => { w with holds := w.holds.set q (s.nowS + h.ttl) })).commitArrival
            n a q
        else
          let s := s.installHistory n q (a.slot.getD 0) (sectionOf l 1)
          (if k = 1 then s.setLength n p q h.length else s).presentArrival n a h (sectionOf l 2)
  | _, none => s.refuseArrival n a 6 0x10

/-- A received DONE: the bundle in staging is checked and installed, or refused whole. It waits for the arrival's KV
commands; the Bool says whether it was taken. -/
def State.takeDone (s : State) (n : Nat) (a : Arrival) (msg : List Byte) : State × Bool :=
  if !a.accepted then (s, true)
  else if (s.stand n).kv.deviceDone < a.mark then (s, false)
  else
    let keyId := (BundleHeader.ofBytes a.words).keyId
    let base := match (((s.stand n).jobKeys.get? keyId).bind (·.staging)).bind (fun i => s.regions.get? i) with
      | some r => r.base
      | none => 0
    let len := le msg 24 8
    let b := s.peekBytes n (base + a.stage.1) (min len a.stage.2)
    let front := 256 + 16 * le msg 16 8
    let bad := fun (step : Nat) =>
      if step = 2 then (s.eventOf n 0x300A 32 [a.bundle, connItem a.conn, keyId]).refuseArrival n a 3 0x15
      else ((s.flagSwy Fld.SWY_ERROR_BUNDLE_INVALID n a.bundle).eventOf n 0x3009 32 [a.bundle, step]).refuseArrival n a 3 0x1D
    if a.stage.2 < len ∨ crc32c (b.take front) ≠ le msg 32 4 ∨ headerSections b ≠ le msg 16 8 ∨ le b 8 8 ≠ a.bundle then
      (bad 1, true)
    else
      match s.checkBundle n (some a.model) b with
      | .error step => (bad step, true)
      | .ok l => (s.installArrival n a b l, true)

/-! The other messages -/

/-- A received ACCEPT (R202, R203). -/
def State.takeAccept (s : State) (n : Nat) (b : Sending) (msg : List Byte) : State :=
  if b.phase ≠ .offered then s
  else
    let b := { b with phase := .accepted, header := { b.header with prefixTokens := le msg 16 4 },
                      stage := (le msg 24 8, le msg 32 2, le msg 40 8) }
    (s.setSending n b).pushMove n b.header.bundle

/-- The logical pages of the sets that a HOLD moved, by group. -/
def State.holdSets (s : State) (n seq first count : Nat) : SMap (List Nat) :=
  match (s.stand n).kv.pool with
  | some p => ((s.kvGroups n p (s.seqRecord n p seq).model).filter (·.remote)).map (fun g =>
      (g.num % 4, (List.range count).map (first + ·)))
  | none => []

/-- A received COMMITTED: the source releases what it kept and reports the move (R203, R207, R210). -/
def State.takeCommitted (s : State) (n : Nat) (b : Sending) (msg : List Byte) : State :=
  let bid := b.header.bundle
  let s := (s.addFld Fld.SWY_BUNDLES_SENT_COUNT n 0 1).dropSending n bid
  match b.purpose with
  | .handoff => (s.releaseSeq n b.seq).swyEvent n 1 b.header.request bid b.header.epoch b.seq
  | .fallback => (s.releaseSeq n b.seq).swyEvent n 1 b.header.request bid b.header.epoch b.seq
  | .orphan => (s.releaseSeq n b.seq).orphaned n b bid (b.member.getD noMember)
  | .suspend i =>
    (((s.releaseSeq n b.seq).writeBundleId n i bid).swyEvent n 3 0 bid b.header.epoch b.seq).runDone .swy n i 0
  | .hold i entry first count =>
    ((s.deviceCommand n { op := 16, seq := b.seq, src := entry, addr := le msg 16 4,
                          sets := s.holdSets n b.seq first count }).kvSettle n).runDone .swy n i 0

/-- A received ABORT: at the sender it fails the attempt, or leads to a new OFFER to the same member (R205, R215); at the
receiver it ends the transfer without effect. -/
def State.takeAbort (s : State) (n conn bid status : Nat) : State :=
  match s.sending n bid with
  | some b =>
    if b.conn ≠ some conn then s
    else if status = 0x19 ∧ !b.reoffered then
      s.sendOffer n { b.fresh with reoffered := true, member := b.member, conn := b.conn }
    else s.failAttempt n b status
  | none =>
    match s.arrival n conn bid with
    | some a => (s.endArrival n a true).acceptMore n
    | none => s

/-! Mail (R200) -/

/-- The first message of a type in a stand's mail whose CRC is right, and the mail without it. -/
def State.mailOf (s : State) (n type : Nat) : Option (Nat × List Byte) :=
  (s.stand n).sapway.mail.find? (fun m => le m.2 0 1 == type && le m.2 252 4 == crc32c (m.2.take 252))

/-- A message taken from the mail. -/
def State.dropMail (s : State) (n : Nat) (m : Nat × List Byte) : State :=
  s.updSapway n (fun w => { w with mail := w.mail.erase m })

/-- Messages whose CRC fails are discarded. -/
def State.cleanMail (s : State) (n : Nat) : State :=
  s.updSapway n (fun w => { w with mail := w.mail.filter (fun m =>
    le m.2 252 4 == crc32c (m.2.take 252) && decide (1 ≤ le m.2 0 1) && decide (le m.2 0 1 ≤ 6)) })

/-- The next message of a type handled; one that names no transfer with that peer is discarded. -/
def State.takeMail (s : State) (n type : Nat) (run : Nat → Nat → List Byte → State → State × Bool) : State :=
  let s := s.cleanMail n
  match s.mailOf n type with
  | none => s
  | some m =>
    match run m.1 (le m.2 8 8) m.2 (s.dropMail n m) with
    | (t, true) => t
    | (_, false) => s

/-! Outcomes of the fabric (R195, R205; 07_memory_tiers.md R155; 11_fabric_memory.md R253) -/

/-- A connection that entered FAILED: its members become UNREACHABLE, and the attempts on it fail. -/
def State.connLost (s : State) (k : Nat) : State :=
  let stand := ((s.conn k).map (·.stand)).getD 24
  let lost := s.members.filter (fun m => m.2.conn == k && m.2.state == 0)
  let s := lost.foldl (fun s m =>
    ({ s with members := s.members.set m.1 { m.2 with state := 2 } }).swyEventAll
      (if stand < 24 then [stand] else []) 9 0 0 0 m.1) s
  if stand < 24 then
    ((s.stand stand).sapway.sending.filter (fun b => b.conn == some k)).foldl (fun s b =>
      match s.sending stand b.header.bundle with
      | some b => s.failAttempt stand b 8
      | none => s) s
  else s

/-- One outcome handed to its issuer. -/
def State.handDone (s : State) (d : FabDone) : State :=
  match d with
  | .rma (.sapway n tag) status => s.sapwayDone n tag status
  | .rma (.tier n p) status => s.trafficDone n p status
  | .rma .nobody _ => s
  | .mem o status value data => s.memDone o status value data
  | .connFailed d c => s.connLost (65536 * d + c)

/-- Every outcome handed to its issuer, those that this makes included. -/
def State.deliverAll : Nat → State → State
  | 0, s => s
  | fuel + 1, s =>
    match s.fabDone with
    | [] => s
    | d :: ds => State.deliverAll fuel (({ s with fabDone := ds }).handDone d)

/-- The outcomes of a command delivered before it ends. -/
def State.deliver (s : State) : State := State.deliverAll 1048576 s

end Sys2Proof.Machine
end

