-- ==== Sys2Proof/Machine/FabRows.lean ====
section
/-! DEFINITION. The commands of the transport and of fabric memory (10_fabric_transport.md R221-R246;
11_fabric_memory.md R248-R266; 13_associative_search.md R285). -/

namespace Sys2Proof.Machine

open Sys2Proof

/-! Port links (R221, R229, R233) -/

/-- PORT_LINK_UP: port `p` completes training. Packets of its connections that no port could carry leave now. -/
def execPortLinkUp (p : Nat) (s : State) : Host.Outcome State Fault Refusal :=
  .next (
    if s.phase ≠ .running ∨ 16 ≤ p ∨ !s.flag Fld.FAB_PORT_CTRL_ENABLE p ∨ s.flag Fld.FAB_PORT_STATUS_LINK_UP p then s
    else
      let s := (((s.portTick p).setFld Fld.FAB_PORT_STATUS_LINK_UP p 0 1).setFld Fld.FAB_PORT_STATUS_MODE p 0
        (s.fld Fld.FAB_PORT_CTRL_MODE p)).setFld Fld.FAB_PORT_STATUS_FEC_LOCK p 0 1
      s.conns.foldl (fun s e =>
        if (connPorts e.1 e.2).contains p then (e.2.out.filter (·.port.isNone)).foldl (fun s o => s.transmitOut e.1 o) s
        else s) s)

/-- PORT_LINK_DOWN: the link of port `p` goes down. The packets whose last transmission left on it go out again on the
remaining ports (R233). -/
def execPortLinkDown (p : Nat) (s : State) : Host.Outcome State Fault Refusal :=
  .next (
    if 16 ≤ p ∨ !s.flag Fld.FAB_PORT_STATUS_LINK_UP p then s
    else
      let s := (((s.portTick p).setFld Fld.FAB_PORT_STATUS_LINK_UP p 0 0).setFld Fld.FAB_PORT_STATUS_FEC_LOCK p 0 0).setFld
        Fld.FAB_PORT_STATUS_DOWN_EVENT p 0 1
      let s := s.updPort p (fun q => { q with queues := [], sending := none })
      let s := s.event ⟨0x0401, none, 6 + p / 8, 33, [p * 2 ^ 8]⟩
      let mine := s.conns.filter (fun e => (connPorts e.1 e.2).contains p)
      let s := s.sharedFault (distinct (mine.map (·.2.stand))) (6 + p / 8) 33 0 p
      (mine.foldl (fun s e => s.retransmit e.1 ((e.2.out.filter (·.port == some p)).map (·.psn))) s).deliver)

/-! The fabric command ring (R227, R228, R238, R239, R246) -/

/-- A refused fabric command: its bit of FAB_ERROR and its result. -/
def State.fabRefuse (s : State) (n k op result : Nat) : State × Option Nat :=
  let f := if result = 0x15 then Fld.FAB_ERROR_KEY_ABSENT else if result = 0x16 then Fld.FAB_ERROR_REKEY_NEEDED
    else Fld.FAB_ERROR_BAD_COMMAND
  (s.flagFab f n k op 0, some result)

/-- A command of a stand's fabric ring taken when it names the OP. -/
def State.fabCommand (s : State) (n op : Nat) (run : List Byte → Nat → State → State × Option Nat) : State :=
  (s.runCommand .fab n op fabOps (fun s => ((s.fabRefuse n 0 op 0x10).1, 0x10)) run).deliver

/-- A 32 B descriptor at an 8 B aligned stand address. -/
def State.descriptor (s : State) (n a len : Nat) : Option (List Byte) :=
  if a % 8 ≠ 0 then none
  else match s.peek n a len with
    | .ok b => some b
    | _ => none

/-- A connection descriptor read (Table 10.5): the key of the connection, and the connection as OPEN makes it but for its
incarnation; none where BAD_COMMAND applies. -/
def State.readConn (s : State) (n : Nat) (b : List Byte) : Option (Nat × Conn) :=
  let w := fun i => le b (8 * i) 8
  let num := bits (w 0) 0 16
  let die := bits (w 0) 16 1
  let k := 65536 * die + num
  let first := if die = 0 then s.fld Fld.FAB_ALLOT_CONN_FIRST_HD0 n else s.fld Fld.FAB_ALLOT_CONN_FIRST_HD1 n
  let count := if die = 0 then s.fld Fld.FAB_ALLOT_CONN_COUNT_HD0 n else s.fld Fld.FAB_ALLOT_CONN_COUNT_HD1 n
  let mask := bits (w 0) 22 8
  let peers := bits (w 0) 30 4
  let a := bits (w 2) 0 48
  let udp := bit (w 0) 17
  let jumbo := bit (w 0) 18
  let window := bits (w 1) 0 11
  let reserved := bits (w 0) 50 14 != 0 || bits (w 1) 55 9 != 0 || bits (w 2) 48 16 != 0 || bits (w 3) 11 53 != 0
  let small := (bitsOf 8 mask).any (fun i => decide (s.fld Fld.FAB_PORT_CTRL_MAX_FRAME (8 * die + i) < largestFrame udp jumbo))
  if num < first ∨ first + count ≤ num ∨ (s.conn k).isSome ∨ mask = 0 ∨ peers = 0 ∨ 8 < peers ∨ 1024 < window ∨
      a % 32 ≠ 0 ∨ reserved ∨ small then none
  else
    match s.peek n a (32 * peers) with
    | .ok ps =>
      let peer := fun i : Nat =>
        ({ mac := le ps (32 * i) 6, vid := le ps (32 * i + 6) 2 % 4096, tagged := (le ps (32 * i + 6) 2).testBit 15,
           ip := be ps (32 * i + 8) 16 } : Peer)
      some (k, { stand := n, udp := udp, jumbo := jumbo, tclass := bits (w 0) 19 3, ports := mask,
                 peers := (List.range peers).map peer, peerConn := bits (w 0) 34 16,
                 window := if window = 0 then 64 else window,
                 rto := if bits (w 1) 11 8 = 0 then 8 else bits (w 1) 11 8,
                 retry := if bits (w 1) 19 4 = 0 then 6 else bits (w 1) 19 4,
                 keyId := bits (w 1) 23 16, peerSender := bits (w 1) 39 16, inc := 0 })
    | _ => none

/-- The incarnation that the next OPEN of a connection gives, and the first one under its KEY_ID; none where R243 forbids
it. -/
def State.nextInc (s : State) (k keyId : Nat) : Option (Nat × Nat) :=
  match s.connPast.get? k with
  | none => some (1, 1)
  | some q =>
    let new := (q.inc + 1) % 2048
    if q.keyId = keyId then (if new = q.first then none else some (new, q.first)) else some (new, new)

/-- OPEN of stand `n`. -/
def execOpen (n : Nat) (s : State) : Host.Outcome State Fault Refusal :=
  .next (s.fabCommand n 1 (fun e _ s =>
    let a := le e 16 6
    let s := s.noted n a 32
    let b := (s.descriptor n a 32).getD []
    let named := le b 0 8 % 2 ^ 17
    let s := s.noted n (le b 16 6) (32 * bits (le b 0 8) 30 4)
    match (s.descriptor n a 32).bind (fun b => (s.readConn n b).map (fun x => (b, x))) with
    | none => s.fabRefuse n named 1 0x10
    | some (b, k, c) =>
      if c.keyId = 0 ∨ (s.jobKey n c.keyId).isNone then
        (s.event ⟨0x300A, some n, 6 + k / 65536 % 2, 33, [0, connItem k, c.keyId]⟩).fabRefuse n k 1 0x15
      else
        match s.nextInc k c.keyId with
        | none => s.fabRefuse n k 1 0x16
        | some (inc, first) =>
          let s := { s with conns := s.conns.set k { c with inc := inc }, connPast := s.connPast.set k ⟨inc, c.keyId, first⟩ }
          (s.pokeLe n (a + 24) 8 (setBits (le b 24 8) 0 11 inc), some 0)))

/-- CONNECT of stand `n`. -/
def execConnect (n : Nat) (s : State) : Host.Outcome State Fault Refusal :=
  .next (s.fabCommand n 2 (fun e _ s =>
    let k := le e 4 4 % 2 ^ 17
    match s.conn k with
    | some c =>
      if c.stand = n ∧ c.state = .bound then
        (s.updConn k (fun c => { c with state := .open_, peerInc := le e 8 8 % 2 ^ 11 }), some 0)
      else s.fabRefuse n k 2 0x10
    | none => s.fabRefuse n k 2 0x10))

/-- CLOSE of stand `n`: an OPEN connection with packets outstanding is CLOSING until they have ended. -/
def execClose (n : Nat) (s : State) : Host.Outcome State Fault Refusal :=
  .next (s.fabCommand n 3 (fun e i s =>
    let k := le e 4 4 % 2 ^ 17
    match s.conn k with
    | some c =>
      if c.stand ≠ n ∨ c.state = .closing then s.fabRefuse n k 3 0x10
      else if c.state ≠ .open_ ∨ c.out.isEmpty then
        ((s.outcomes (c.waiting.flatMap (FabOp.failed 9))).freeConn k, some 0)
      else
        ((s.updConn k (fun c => { c with state := .closing, waiting := [], closer := some i })).outcomes
          (c.waiting.flatMap (FabOp.failed 9)), none)
    | none => s.fabRefuse n k 3 0x10))

/-- A region descriptor read (R238): its hub die, REUSE, KEY, and the region; none where BAD_COMMAND applies. -/
def State.readRegion (s : State) (n : Nat) (b : List Byte) : Option (Nat × Bool × Nat × Region) :=
  let w := fun i => le b (8 * i) 8
  let r : Region := { base := bits (w 0) 0 48, len := bits (w 1) 0 48, state := .active, read := bit (w 2) 1,
                      write := bit (w 2) 0, atomic := bit (w 2) 2, stand := n, gen := 0, keyHigh := 0,
                      keyId := bits (w 2) 16 16 }
  let reserved := bits (w 0) 48 16 != 0 || bits (w 1) 48 16 != 0 || bits (w 2) 5 11 != 0 || bits (w 2) 48 16 != 0
  if reserved ∨ r.len = 0 ∨ !s.mappedRange n false r.base r.len then none
  else some (bits (w 2) 3 1, bit (w 2) 4, w 3, r)

/-- A FREE region of a stand taken again under its key: its index. -/
def State.reuse (s : State) (n die key : Nat) (r : Region) : State × Option Nat :=
  let idx := 1048576 * die + key % 2 ^ 20
  match s.regions.get? idx with
  | some old =>
    if old.state ≠ .free ∨ old.stand ≠ n ∨ old.keyHigh ≠ key / 2 ^ 20 ∨ old.gen = 0xFFFF ∨
        s.fld Fld.FAB_REGIONS_QUOTA n ≤ s.regionsUsed n then (s, none)
    else ({ s with regions := s.regions.set idx { r with keyHigh := old.keyHigh, gen := old.gen + 1 } }, some idx)
  | none => (s, none)

/-- REGISTER of stand `n`. -/
def execRegister (n : Nat) (s : State) : Host.Outcome State Fault Refusal :=
  .next (s.fabCommand n 4 (fun e _ s =>
    let a := le e 16 6
    let s := s.noted n a 32
    match (s.descriptor n a 32).bind (s.readRegion n) with
    | none => s.fabRefuse n 0 4 0x10
    | some (die, again, key, r) =>
      if (s.jobKey n r.keyId).isNone then s.fabRefuse n 0 4 0x15
      else
        match if again then s.reuse n die key r else s.register n die r with
        | (s, none) => s.fabRefuse n 0 4 0x10
        | (s, some idx) =>
          let gen := ((s.regions.get? idx).map (·.gen)).getD 0
          ((s.pokeLe n (a + 20) 2 gen).pokeLe n (a + 24) 8 (s.regionKey idx), some 0)))

/-- The ACTIVE region of a stand that a key names, on either hub die. -/
def State.activeRegion (s : State) (n key : Nat) : Option Nat :=
  [key % 2 ^ 20, 1048576 + key % 2 ^ 20].find? (fun i =>
    (s.regions.get? i).any (fun r => r.state == .active && r.stand == n && r.keyHigh == key / 2 ^ 20))

/-- REVOKE of stand `n`: its result is written when the region is FREE. -/
def execRevoke (n : Nat) (s : State) : Host.Outcome State Fault Refusal :=
  .next (s.fabCommand n 5 (fun e i s =>
    match s.activeRegion n (le e 8 8) with
    | some idx => (s.revoke idx (some i), none)
    | none => s.fabRefuse n 0 5 0x10))

/-- REVOKE_DRAIN_END: the last operation admitted to region `idx` has completed. -/
def execRevokeDrainEnd (idx : Nat) (s : State) : Host.Outcome State Fault Refusal := .next (s.endDrain idx)

/-! Sending (R230-R232, R254) -/

/-- PACKET_SEND: the first operation that waits on connection `k` is sent. -/
def execPacketSend (k : Nat) (s : State) : Host.Outcome State Fault Refusal := .next (s.sendNext k).deliver

/-- ACK_DELAY_EXPIRY: the delay since a packet accepted on connection `k` has passed. -/
def execAckDelayExpiry (k : Nat) (s : State) : Host.Outcome State Fault Refusal := .next (s.ackNow k [])

/-- RETRANSMIT_TIMEOUT: the retransmission timer of connection `k` expires. A CLOSING connection that fails is FREE. -/
def execRetransmitTimeout (k : Nat) (s : State) : Host.Outcome State Fault Refusal :=
  .next (
    match s.conn k with
    | none => s
    | some c =>
      match c.timer with
      | none => s
      | some t =>
        let s := (s.retransmit k (sortBy id (c.out.map (·.psn)))).updConn k (fun c =>
          { c with timer := c.timer.map (fun _ => min (2 * t) 2048) })
        (if c.state = .closing ∧ (s.conn k).any (fun c => c.state == .failed) then s.freeConn k else s).deliver)

/-- COALESCE_EXPIRY: the wait of the `i`-th pack ends. -/
def execCoalesceExpiry (i : Nat) (s : State) : Host.Outcome State Fault Refusal :=
  .next (
    match s.packs[i]? with
    | some p => (s.sendPack p).deliver
    | none => s)

/-! Receiving (Table 10.7, R234, R235) -/

/-- What an applied write means to the blocks behind the region: a control message to Sapway, and bytes of a bundle. -/
def State.wrote (s : State) (k : Nat) (c : Conn) (idx off : Nat) (bs : List Byte) : State :=
  match (s.stand c.stand).jobKeys.get? c.keyId with
  | none => s
  | some j =>
    let s := if j.inbox = some idx ∧ off % 256 = 0 ∧ bs.length = 256 then
      s.updSapway c.stand (fun w => { w with mail := w.mail ++ [(k, bs)] }) else s
    if j.staging = some idx then
      s.updSapway c.stand (fun w => { w with arrivals := w.arrivals.map (fun a =>
        if a.conn = k ∧ a.accepted ∧ a.stage.1 ≤ off ∧ off < a.stage.1 + a.stage.2 then { a with begun := true } else a) })
    else s

/-- WRITE: a frame arrives at port `p`. -/
def execWrite (p : Nat) (f : FabFrame) (s : State) : Host.Outcome State Fault Refusal :=
  .next ((s.sequenced p 1 f (fun k c hd psn text s =>
    let h := k / 65536
    let idx := 1048576 * h + hd.region % 2 ^ 20
    let st := if text.isEmpty then 3
      else s.regionCheck h c.stand c.keyId hd.region hd.gen hd.offset text.length false true false
    if st ≠ 0 then s.acceptPsn k psn st
    else
      let base := ((s.regions.get? idx).map (·.base)).getD 0
      let s :=
        if (s.stand c.stand).kv.partialRegion = some idx then
          s.updStand c.stand (fun x => { x with kv := { x.kv with arrived := x.kv.arrived ++ [(hd.offset, text)] } })
        else (s.putBytes c.stand (base + hd.offset) text).wrote k c idx hd.offset text
      s.acceptPsn k psn 0)).deliver)

/-- READ_REQ: the responses of an admitted read are queued on its connection. -/
def execReadReq (p : Nat) (f : FabFrame) (s : State) : Host.Outcome State Fault Refusal :=
  .next ((s.sequenced p 2 f (fun k c hd psn _ s =>
    let h := k / 65536
    let len := hd.request
    let st := if len = 0 ∨ 1048576 < len then 3
      else s.regionCheck h c.stand c.keyId hd.region hd.gen hd.offset len true false false
    if st ≠ 0 then s.acceptPsn k psn st
    else
      let idx := 1048576 * h + hd.region % 2 ^ 20
      let s := (List.range (ceilDiv len c.limit)).foldl (fun s j =>
        s.fabIssue k (.readResp psn (c.limit * j) idx (hd.offset + c.limit * j) (min c.limit (len - c.limit * j)))) s
      s.acceptPsn k psn 0)).deliver)

/-- The bytes of a read from its start on that have arrived without a gap. -/
def gotUpTo (l : List (Nat × Nat)) : Nat :=
  (sortBy (·.1) l).foldl (fun r x => if x.1 ≤ r then max r (x.1 + x.2) else r) 0

/-- A response of a read: its bytes are written, or the read ends DATA_POISONED. -/
def State.takeReadResp (s : State) (k : Nat) (c : Conn) (r : ReadWait) (status off : Nat) (text : List Byte) : State :=
  let others := c.reads.filter (fun x => x.psn != r.psn)
  if status ≠ 0 then (s.updConn k (fun c => { c with reads := others })).outcomes [.rma r.by_ 4]
  else
    let r' := { r with got := r.got ++ [(off, text.length)] }
    let bs := text.take (r.len - off)
    let s := match r.by_ with
      | .tier _ _ => { s with mem := s.mem.putList (r.dest + off) bs }
      | _ => s.standWrite c.stand (r.dest + off) bs
    if gotUpTo r'.got < r.len then s.updConn k (fun c => { c with reads := others ++ [r'] })
    else (s.updConn k (fun c => { c with reads := others })).outcomes [.rma r.by_ 0]

/-- READ_RESP. -/
def execReadResp (p : Nat) (f : FabFrame) (s : State) : Host.Outcome State Fault Refusal :=
  .next ((s.sequenced p 3 f (fun k c hd psn text s =>
    let s := match c.reads.find? (fun r => r.psn % 2 ^ 32 == hd.region / 2 ^ 32) with
      | some r => s.takeReadResp k c r hd.status hd.offset text
      | none => s
    s.acceptPsn k psn 0)).deliver)

/-- ACK: each of its entries completes the PSNs that it names. -/
def execAck (p : Nat) (f : FabFrame) (s : State) : Host.Outcome State Fault Refusal :=
  .next (
    match s.receive p 4 f with
    | (s, none) => s
    | (s, some (k, _, _, text)) =>
      let count := min (be text 0 2) (min 64 ((text.length - 8) / 8))
      ((List.range count).foldl (fun s i =>
        s.applyAck k (be text (8 + 8 * i) 4) (be text (12 + 8 * i) 2) (be text (14 + 8 * i) 1)) s).deliver)

/-- The operations of a MEM_REQ's payload; none where it is no whole list of them. -/
def parseOps : Nat → List Byte → Option (List MemOp)
  | 0, b => if b.isEmpty then some [] else none
  | fuel + 1, b =>
    if b.isEmpty then some []
    else if b.length < 32 then none
    else
      let w := be b 0 8
      let data := bits w 0 4 == 1 && bits w 4 2 == 2
      if data ∧ b.length < 96 then none
      else
        let o : MemOp := { ctx := .queue 24 0, opc := bits w 0 4, size := bits w 4 2, aop := bits w 8 4, off := bits w 16 48,
                           operand := be b 8 8, compare := be b 16 8, data := if data then sub b 32 64 else [] }
        (parseOps fuel (b.drop (if data then 96 else 32))).map (o :: ·)

/-- MEM_REQ: its operations are applied, or its whole packet has an outcome other than OK (R251, R252, R262). -/
def execMemReq (p : Nat) (f : FabFrame) (s : State) : Host.Outcome State Fault Refusal :=
  .next ((s.sequenced p 5 f (fun k c hd psn text s =>
    let h := k / 65536
    let base := ((s.regions.get? (1048576 * h + hd.region % 2 ^ 20)).map (·.base)).getD 0
    match parseOps 32 text with
    | none => s.acceptPsn k psn 3
    | some ops =>
      let st := if ops.isEmpty ∨ (1 < ops.length ∧ ops.any MemOp.arrive) then 3
        else s.memCheck h c.stand c.keyId hd.region hd.gen ops
      if st ≠ 0 then s.acceptPsn k psn st
      else
        match ops with
        | [o] =>
          if o.arrive then
            ((s.addFld Fld.FMM_OPS_SERVED_COUNT c.stand 0 1).acceptPsn k psn 0).arriveAt h c.stand (base + o.off) o.operand
              (some (k % 65536, h)) (.packet h (k % 65536) psn)
          else
            let (s, st, v, d) := s.applyMem c.stand (base + o.off) o
            (if o.opc = 1 then s else s.fabIssue k (.memResp psn (memResult st v d))).acceptPsn k psn 0
        | ops =>
          let (s, rs) := s.applyAll c.stand base ops
          let body := (List.range ops.length).flatMap (fun i =>
            let r := (rs.get? i).getD (0, 0, [])
            memResult r.1 r.2.1 r.2.2)
          (if ops.all (·.opc == 1) then s else s.fabIssue k (.memResp psn body)).acceptPsn k psn 0)).deliver)

/-- The results of a MEM_RESP for its operations, STOREs left out. -/
def respDone : List MemOp → List Byte → List FabDone
  | [], _ => []
  | o :: os, b =>
    let st := be b 0 1
    let big := o.opc == 0 && o.size == 2 && st == 0
    let rest := respDone os (b.drop (if big then 80 else 16))
    if o.opc = 1 then rest else .mem o st (be b 8 8) (if big then sub b 16 64 else []) :: rest

/-- MEM_RESP. -/
def execMemResp (p : Nat) (f : FabFrame) (s : State) : Host.Outcome State Fault Refusal :=
  .next ((s.sequenced p 6 f (fun k c hd psn text s =>
    let s := match c.asked.find? (fun a => a.1 % 2 ^ 32 == hd.region / 2 ^ 32) with
      | some a => (s.updConn k (fun c => { c with asked := c.asked.del a.1 })).outcomes (respDone a.2 text)
      | none => s
    s.acceptPsn k psn 0)).deliver)

/-- A frame carries a Ramuha packet of hub die `h`. -/
def State.isRamuha (s : State) (h : Nat) (f : FabFrame) : Bool :=
  match f.udp with
  | some u => u.dstPort == s.fld Fld.FAB_ENCAP_UDP_PORT h
  | none => f.etherType == s.fld Fld.FAB_ENCAP_ETHERTYPE h

/-- FRAME_UNCLASSIFIED: a frame that belongs to no connection arrives at port `p` (R222, R229, Table 10.7, R285). -/
def execFrameUnclassified (p : Nat) (f : FabFrame) (s : State) : Host.Outcome State Fault Refusal :=
  .next (
    let h := p / 8
    let hd := Header.parse f.packet
    if 16 ≤ p ∨ !s.flag Fld.FAB_PORT_STATUS_LINK_UP p then s
    else if s.isRamuha h f && (hd.keyId == 0 || (s.connFor h hd).isSome) then s
    else
      let s := s.addFld Fld.FAB_PORT_RX_FRAMES_COUNT p 0 1
      if !s.macAccepts p f then s.rxDrop p
      else if !s.isRamuha h f then s.classify p f
      else if hd.version ≠ 1 ∨ hd.type = 0 ∨ 6 < hd.type ∨ !hd.clean ∨ !hd.unusedZero then s.rxDrop p
      else if (s.connFor (1 - h) hd).isSome then s.addFld Fld.FAB_WRONG_DIE_COUNT h 0 1
      else (s.addFld Fld.FAB_NO_CONNECTION_COUNT h 0 1).classify p f)

/-! Vector instructions (R257) -/

/-- The register that a fabric instruction moves: a V register for 64 B. -/
def fabReg (i : VWord) (r : BitVec 5) : List Nat := if immBits i 0 2 = 2 then vs [r] else xs [r]

/-- The number of a destination register as the outcome of an operation names it. -/
def fabDst (i : VWord) : Nat := if immBits i 0 2 = 2 then 32 + i.dst.toNat else i.dst.toNat

/-- FLD. -/
def execFld (v : Nat) (i : VWord) (s : State) : Host.Outcome State Fault Refusal :=
  .next (s.vfabric v i 0 (fabDst i) (xs [i.src1] ++ fabReg i i.dst)).deliver

/-- FST. -/
def execFst (v : Nat) (i : VWord) (s : State) : Host.Outcome State Fault Refusal :=
  .next (s.vfabric v i 1 64 (xs [i.src1] ++ fabReg i i.src2)).deliver

/-- FATOM, ARRIVE included. -/
def execFatom (v : Nat) (i : VWord) (s : State) : Host.Outcome State Fault Refusal :=
  .next (s.vfabric v i 2 i.dst.toNat (xs [i.src1, i.src2, i.src3, i.dst])).deliver

/-- FENCE: it waits for the task's earlier stores, atomics and arrivals (R256, R258). -/
def execFence (v : Nat) (i : VWord) (s : State) : Host.Outcome State Fault Refusal :=
  .next (s.vrun v (xs [i.dst]) (i.type == 0 && i.imm == 0) (fun t s =>
    (s.setTask v (some { t with wait := .fence i.dst.toNat })).settleFence v))

/-! The fabric memory queue (R259) -/

/-- A refused command of the queue. -/
def State.fmmRefuse (s : State) (n faddr result : Nat) : State × Option Nat :=
  (s.flagFmm Fld.FMM_ERROR_BAD_COMMAND n faddr, some result)

/-- A command of a stand's fabric memory queue taken when it names the OP; behind a FENCE it waits. -/
def State.fmmCommand (s : State) (n op : Nat) (run : List Byte → Nat → State → State × Option Nat) : State :=
  if (s.stand n).fmm.fence.isSome then s
  else (s.runCommand .fmm n op [1, 2, 3, 4, 5, 6, 7, 8] (fun s => ((s.fmmRefuse n 0 0x10).1, 0x10)) run).deliver

/-- LOAD, STORE or ATOMIC of the queue. -/
def State.fmmMem (s : State) (n opc : Nat) (e : List Byte) (i : Nat) : State × Option Nat :=
  let w := le e 0 8
  let size := bits w 20 2
  let aop := bits w 16 4
  let a := le e 8 8
  let local_ := le e 16 6
  let issue := fun (s : State) (data : List Byte) =>
    let o : MemOp := { ctx := .queue n i, opc := opc, size := size, aop := aop, off := 0,
                       operand := if size = 2 then 0 else le e 16 8, compare := le e 24 8, data := data, faddr := a }
    let s := s.updStand n (fun st => { st with fmm := { st.fmm with
      stores := if opc = 0 then st.fmm.stores else st.fmm.stores + 1 } })
    (s.issueMem (s.hubOf n) n o, (none : Option Nat))
  if !memKnown opc size aop ∨ a % memSize size ≠ 0 ∨ (size = 2 ∧ local_ % 64 ≠ 0) then s.fmmRefuse n a 0x10
  else if size = 2 ∧ opc = 1 then
    match s.standRead n local_ 64 with
    | (.ok bs, s) => issue s bs
    | (.poisoned, s) => (s, some 4)
    | (_, s) => s.fmmRefuse n a 0x10
  else if size = 2 ∧ !s.writableRange n local_ 64 then s.fmmRefuse n a 0x10
  else issue s []

/-- FMM_LOAD of stand `n`. -/
def execFmmLoad (n : Nat) (s : State) : Host.Outcome State Fault Refusal :=
  .next (s.fmmCommand n 1 (fun e i s => s.fmmMem n 0 e i))

/-- FMM_STORE. -/
def execFmmStore (n : Nat) (s : State) : Host.Outcome State Fault Refusal :=
  .next (s.fmmCommand n 2 (fun e i s => s.fmmMem n 1 e i))

/-- FMM_ATOMIC, ARRIVE included. -/
def execFmmAtomic (n : Nat) (s : State) : Host.Outcome State Fault Refusal :=
  .next (s.fmmCommand n 3 (fun e i s => s.fmmMem n 2 e i))

/-- FMM_FENCE (R256). -/
def execFmmFence (n : Nat) (s : State) : Host.Outcome State Fault Refusal :=
  .next (s.fmmCommand n 4 (fun _ i s =>
    ((s.updStand n (fun st => { st with fmm := { st.fmm with fence := some i } })).settleQueue n, none)))

/-- A remote map descriptor read (Table 11.2). -/
def readRemote (b : List Byte) : Option RemoteEntry :=
  let w := fun i => le b (8 * i) 8
  let len := bits (w 1) 0 7
  if len < 16 ∨ 64 < len ∨ bits (w 1) 28 36 ≠ 0 ∨ w 0 % 2 ^ (64 - len) ≠ 0 then none
  else some { base := w 0, len := len, isLocal := bit (w 1) 7, read := bit (w 1) 8, write := bit (w 1) 9,
              atomic := bit (w 1) 10, conn := bits (w 1) 11 16, die := bits (w 1) 27 1, key := w 2,
              gen := bits (w 3) 0 16, offset := bits (w 3) 16 48 }

/-- The search entry of a remote map entry: the stand is never masked, the low address bits are (R248). -/
def RemoteEntry.search (e : RemoteEntry) (n idx : Nat) : SearchEntry :=
  ⟨e.base + n * 2 ^ 64, 2 ^ 64 - 2 ^ (64 - e.len) + 0x1F * 2 ^ 64, 128 * (e.len + 5), idx⟩

/-- The hub dies on which a stand has a remote map. -/
def State.mapHubs (s : State) (n : Nat) : List Nat := [0, 1].filter (fun h => s.tableSize (remoteTable h n) != 0)

/-- MAP_USED brought up to date. -/
def State.countMap (s : State) (n : Nat) : State := s.setFld Fld.FMM_STATUS_MAP_USED n 0 (s.stand n).remoteMap.length

/-- MAP of stand `n` (R248). -/
def execMap (n : Nat) (s : State) : Host.Outcome State Fault Refusal :=
  .next (s.fmmCommand n 5 (fun e _ s =>
    let s := s.noted n (le e 16 6) 32
    match (s.descriptor n (le e 16 6) 32).bind readRemote with
    | none => s.fmmRefuse n (le e 8 8) 0x10
    | some x =>
      let m := (s.stand n).remoteMap
      match m.find? (fun y => y.2.base == x.base && y.2.len == x.len) with
      | some y => (s.updStand n (fun st => { st with remoteMap := st.remoteMap.set y.1 x }), some 0)
      | none =>
        let idx := (m.firstFree (m.length + 1)).getD 0
        let put : State → Nat → Option State := fun s h => s.tableInsert (remoteTable h n) (x.search n idx)
        if s.fld Fld.FMM_STATUS_MAP_ALLOTTED n ≤ m.length ∨ (s.mapHubs n).isEmpty then (s, some 0x12)
        else
          match (s.mapHubs n).foldlM put s with
          | none => (s, some 0x12)
          | some s => ((s.updStand n (fun st => { st with remoteMap := st.remoteMap.set idx x })).countMap n, some 0)))

/-- UNMAP of stand `n`. -/
def execUnmap (n : Nat) (s : State) : Host.Outcome State Fault Refusal :=
  .next (s.fmmCommand n 6 (fun e _ s =>
    let len := le e 16 1 % 128
    match (s.stand n).remoteMap.find? (fun y => y.2.base == le e 8 8 && y.2.len == len) with
    | none => (s.flagMemStatus n (le e 8 8) 0x0A, some 0x0A)
    | some y =>
      let k := y.2.search n y.1
      let s := (s.mapHubs n).foldl (fun s h => (s.tableDelete (remoteTable h n) k.data k.mask).1) s
      ((s.updStand n (fun st => { st with remoteMap := st.remoteMap.del y.1 })).countMap n, some 0)))

/-- A group descriptor read (R261): its number and the group; none where BAD_COMMAND applies. -/
def State.readGroup (s : State) (n : Nat) (b : List Byte) : Option (Nat × Group) :=
  let w := fun i => le b (8 * i) 8
  let members := bits (w 0) 16 10
  let threshold := bits (w 0) 32 8
  let timeout := bits (w 1) 0 32
  let block := bits (w 2) 0 48
  let ma := bits (w 3) 0 48
  let inside := s.regions.any (fun r => r.1 / 1048576 == s.hubOf n && r.2.stand == n && r.2.state == .active && r.2.atomic &&
    decide (r.2.base ≤ block) && decide (block + 4096 ≤ r.2.base + r.2.len))
  if members = 0 ∨ 256 < members ∨ threshold = 0 ∨ timeout = 0 ∨ 1000000 < timeout ∨ block % 4096 ≠ 0 ∨ ma % 8 ≠ 0 ∨
      !inside then none
  else
    match s.peek n ma (8 * members) with
    | .ok ms =>
      let member := fun i : Nat => (le ms (8 * i) 2, bits (le ms (8 * i) 8) 16 1, bit (le ms (8 * i) 8) 17)
      some (bits (w 0) 0 10, { stand := n, members := (List.range members).map member, threshold := threshold,
                               timeoutUs := timeout, block := block })
    | _ => none

/-- GROUPS of FMM_STATUS brought up to date. -/
def State.countGroups (s : State) (n : Nat) : State :=
  s.setFld Fld.FMM_STATUS_GROUPS n 0 (s.groups.filter (fun g => g.2.stand == n)).length

/-- GROUP_CREATE of stand `n`: its sequencer's hub die is the coordinator. -/
def execGroupCreate (n : Nat) (s : State) : Host.Outcome State Fault Refusal :=
  .next (s.fmmCommand n 7 (fun e _ s =>
    let h := s.hubOf n
    if 1024 ≤ (s.groups.filter (fun g => g.1 / 1024 == h)).length then (s, some 0x21)
    else
      let s := s.noted n (le e 16 6) 64
      let b := (s.descriptor n (le e 16 6) 64).getD []
      let s := s.noted n (le b 24 6) (8 * bits (le b 0 8) 16 10)
      match (s.descriptor n (le e 16 6) 64).bind (s.readGroup n) with
      | none => s.fmmRefuse n (le e 8 8) 0x10
      | some (num, g) =>
        if (s.groups.get? (1024 * h + num)).isSome then s.fmmRefuse n (le e 8 8) 0x10
        else ({ s with groups := s.groups.set (1024 * h + num) g }.countGroups n, some 0)))

/-- GROUP_DELETE of stand `n`: its waiting arrivals complete BARRIER_TIMEOUT (R266). -/
def execGroupDelete (n : Nat) (s : State) : Host.Outcome State Fault Refusal :=
  .next (s.fmmCommand n 8 (fun e _ s =>
    let gk := 1024 * s.hubOf n + le e 16 2 % 1024
    match s.groups.get? gk with
    | some g =>
      if g.stand ≠ n then s.fmmRefuse n (le e 8 8) 0x10
      else (({ s with groups := s.groups.del gk }.answerAll 7 0 0 g.arrived).countGroups n, some 0)
    | none => s.fmmRefuse n (le e 8 8) 0x10))

/-- BARRIER_TIMEOUT: TIMEOUT_US passes after the first arrival at group `gk`, 1,024 × hub die + number (R263). -/
def execBarrierTimeout (gk : Nat) (s : State) : Host.Outcome State Fault Refusal :=
  .next (
    match s.groups.get? gk with
    | some g =>
      if g.arrived.isEmpty then s
      else
        let last := ((List.range g.members.length).find? (fun m => g.arrived.all (fun a => a.1 != m))).getD 0
        (s.release gk last true).deliver
    | none => s)

end Sys2Proof.Machine
end

