-- ==== Sys2Proof/Machine/Mgmt.lean ====
section
/-! DEFINITION. The out-of-band paths: I3C, MCTP and boundary scan (21_address_map.md R427-R431). -/

namespace Sys2Proof.Machine

open Sys2Proof

/-! I3C (R427) -/

/-- The provisional ID of the I3C target: manufacturer, 1 in [32], part, low serial bits (R427). -/
def provisionalId : Nat :=
  Config.serial.toNat % 2 ^ 16 + 0x0880 * 2 ^ 16 + 2 ^ 32 + Config.mipiId.toNat * 2 ^ 33

/-- ENTDAA: a target without a dynamic address sends its provisional ID and takes the address it is given. -/
def execEntdaa (addr : Nat) (s : State) : Host.Outcome State Fault Refusal :=
  .next (
    if s.mgmt.i3cAddr.isNone && addr < 128 then
      { s with mgmt := { s.mgmt with i3cAddr := some addr, sentId := provisionalId } }
    else s)

/-- SETDASA: the target takes a dynamic address at its static address 0x3A. -/
def execSetdasa (static addr : Nat) (s : State) : Host.Outcome State Fault Refusal :=
  .next (
    if static = 0x3A ∧ s.mgmt.i3cAddr = none ∧ addr < 128 then { s with mgmt := { s.mgmt with i3cAddr := some addr } }
    else s)

/-! MCTP (R428, R429) -/

/-- The endpoint is present: from step 4 of Table 17.2 on (Table 21.3). -/
def State.endpoint (s : State) : Bool :=
  match s.phase with
  | .starting k => decide (4 ≤ k)
  | .rom | .waiting | .running | .packageFault => true
  | _ => false

/-- A response: the status byte, a 2-byte retry time in ms and the data. -/
def mctpReply (status retry : Nat) (data : List Byte) : List Byte := toBytes 1 status ++ toBytes 2 retry ++ data

/-- The endpoint's response, where it is present. -/
def State.mctpRespond (s : State) (r : List Byte) : State :=
  if s.endpoint then { s with mgmt := { s.mgmt with response := r } } else s

/-- The registers of the health view, in the order of Table 21.2. -/
def healthRegs : List (Reg × Nat × Nat) :=
  [(.THM_STATUS, 0, 0)] ++ (List.range 8).map (fun j => (.THM_DIE, 0, j)) ++ [(.PWR_STATUS, 0, 0), (.PWR_VID, 0, 0)] ++
  (List.range 13).map (fun j => (.PWR_RAIL, 0, j)) ++
  [(.CLK_STATUS, 0, 0), (.CFG_STATUS, 0, 0), (.HWD_STATUS, 0, 0), (.EVR_STATUS, 0, 0), (.GLB_LINK_STATUS, 0, 0)] ++
  (List.range 16).map (fun i => (.FAB_PORT_STATUS, i, 0)) ++ (List.range 11).map (fun j => (.GLB_DLINK_STATUS, 0, j))

/-- HEALTH: the 56 values, RC fields not cleared; in the ROM state with status FW_INVALID (Table 21.3). -/
def execHealth (s : State) : Host.Outcome State Fault Refusal :=
  .next (s.mctpRespond (mctpReply (if s.phase = .rom then 0x20 else 0) 0
    (healthRegs.flatMap (fun x => toBytes 8 (s.regRead x.1 x.2.1 x.2.2)))))

/-- PWR_VID.APPLIED set: the governor may grant matrix starts (18_power_thermal.md R381). -/
def State.applyVid (s : State) : State := s.setFld Fld.PWR_VID_APPLIED 0 0 1

/-- VID_APPLIED, by package state (Table 21.3). -/
def execVidApplied (s : State) : Host.Outcome State Fault Refusal :=
  .next (
    match s.phase with
    | .rom => s.mctpRespond (mctpReply 0x20 0 [])
    | .packageFault => s.mctpRespond (mctpReply 3 0 [])
    | _ => if s.endpoint then s.applyVid.mctpRespond (mctpReply 0 0 []) else s)

/-- Set Endpoint ID (DSP0236): operations 0 and 1 set an EID of 8 to 254. -/
def execSetEndpointId (op eid : Nat) (s : State) : Host.Outcome State Fault Refusal :=
  .next (
    let ok := op < 2 && 8 ≤ eid && eid ≤ 254
    let t := if ok && s.endpoint then { s with mgmt := { s.mgmt with eid := eid } } else s
    t.mctpRespond (toBytes 1 (if ok then 0 else 2) ++ toBytes 1 0 ++ toBytes 1 t.mgmt.eid ++ toBytes 1 0))

/-- Get Endpoint ID (DSP0236). -/
def execGetEndpointId (s : State) : Host.Outcome State Fault Refusal :=
  .next (s.mctpRespond (toBytes 1 0 ++ toBytes 1 s.mgmt.eid ++ toBytes 2 0))

/-- Get MCTP Version Support (DSP0236): for the base protocol, control messages and vendor-defined PCI messages. -/
def execGetMctpVersionSupport (type : Nat) (s : State) : Host.Outcome State Fault Refusal :=
  .next (s.mctpRespond (
    if [0xFF, 0x00, 0x7E].contains type then [0x00, 0x01, 0xF1, 0xF3, 0xF1, 0x00] else [0x80]))

/-- Get Message Type Support: vendor-defined PCI messages (R428). -/
def execGetMessageTypeSupport (s : State) : Host.Outcome State Fault Refusal :=
  .next (s.mctpRespond [0x00, 0x01, 0x7E])

/-- Get Vendor Defined Message Support: the one vendor identifier, that of the physical function. -/
def execGetVendorMessageSupport (selector : Nat) (s : State) : Host.Outcome State Fault Refusal :=
  .next (s.mctpRespond (
    if selector = 0 then [0x00, 0xFF, 0x00] ++ toBytesBE 2 Config.vendorId.toNat ++ [0x00, 0x00] else [0x02]))

/-! Boundary scan (R430, R431) -/

/-- An instruction update: the capture that went before it reads 01 in [1:0] and the refusal mark in bit 7. -/
def State.tapUpdate (s : State) (code : Nat) (refused : Bool) (f : Mgmt → Mgmt) : State :=
  { s with mgmt := f { s.mgmt with
      tapCapture := 1 + b01 s.mgmt.tapRefused * 2 ^ 7, tapInstr := code, tapRefused := refused } }

/-- A test-mode instruction: in effect only while RST_N is low; otherwise it acts as BYPASS (R431). -/
def State.testMode (s : State) (code : Nat) (drive : LandDrive) : State :=
  if s.pins.rstN then s.tapUpdate 0xFF true (fun m => { m with tapData := 0, lands := .functional })
  else s.tapUpdate code false (fun m => { m with tapData := m.boundary, lands := drive })

/-- The identification register (R430). -/
def idcodeValue : Nat := 0 * 2 ^ 28 + 0x0880 * 2 ^ 12 + Config.jep106.toNat * 2 + 1

/-- IDCODE selects the identification register. -/
def execIdcode (s : State) : Host.Outcome State Fault Refusal :=
  .next (s.tapUpdate 0x01 false (fun m => { m with tapData := idcodeValue, lands := .functional }))

/-- SAMPLE/PRELOAD: the chain captures the lands' levels and takes the values shifted in. -/
def execSamplePreload (sampled preload : Nat) (s : State) : Host.Outcome State Fault Refusal :=
  .next (s.tapUpdate 0x02 false (fun m => { m with tapData := sampled, boundary := preload, lands := .functional }))

/-- EXTEST drives the lands from the chain. -/
def execExtest (s : State) : Host.Outcome State Fault Refusal := .next (s.testMode 0x03 .boundary)

/-- EXTEST_PULSE drives the IEEE 1149.6 lanes with pulses from the chain. -/
def execExtestPulse (s : State) : Host.Outcome State Fault Refusal := .next (s.testMode 0x04 .boundary)

/-- EXTEST_TRAIN drives the IEEE 1149.6 lanes with pulse trains from the chain. -/
def execExtestTrain (s : State) : Host.Outcome State Fault Refusal := .next (s.testMode 0x05 .boundary)

/-- CLAMP holds the lands at the chain's values with BYPASS selected. -/
def execClamp (s : State) : Host.Outcome State Fault Refusal := .next (s.testMode 0x06 .boundary)

/-- HIGHZ leaves every output at high impedance. -/
def execHighz (s : State) : Host.Outcome State Fault Refusal := .next (s.testMode 0x07 .highZ)

/-- BYPASS, also for every code that Table 21.4 does not list. -/
def execBypass (s : State) : Host.Outcome State Fault Refusal :=
  .next (s.tapUpdate 0xFF false (fun m => { m with tapData := 0, lands := .functional }))

end Sys2Proof.Machine
end

