-- ==== Sys2Proof/Machine/HostRows.lean ====
section
/-! DEFINITION. The host link, the queue windows, the aperture, the copy ring and the HDM window
(20_host_interface.md R407-R424). -/

namespace Sys2Proof.Machine

open Sys2Proof

/-! The link (R408, R422, R423) -/

/-- The configuration state of every function reset (Table 20.5). -/
def HostIf.resetConfig (h : HostIf) : HostIf :=
  { h with busMaster := 0, vfEnable := false, numVfs := 0, ats := 0, msixPending := [], hdmDecoder := false }

/-- CXL_LINK_UP: the port trains to a width and a rate (R408). It trains from step 5 of Table 17.2 on, with PERST_N
high, and in WAITING and RUNNING. -/
def execCxlLinkUp (width rate : Nat) (s : State) : Host.Outcome State Fault Refusal :=
  .next (
    let trains := match s.phase with
      | .starting k => decide (4 ≤ k)
      | .waiting | .running | .packageFault => true
      | _ => false
    if trains && s.pins.perstN && [4, 8, 16].contains width && [8, 16, 32].contains rate then
      ((s.setFld Fld.GLB_LINK_STATUS_WIDTH 0 0 width).setFld Fld.GLB_LINK_STATUS_RATE_GTS 0 0 rate).setFld
        Fld.GLB_LINK_STATUS_LINK_UP 0 0 1
    else s)

/-- The link state cleared as it goes down, with its IDE streams. -/
def State.linkDown (s : State) : State :=
  let t := s.setReg .GLB_LINK_STATUS 0 0 (setBits (setBits (s.reg .GLB_LINK_STATUS 0 0 &&& 2 ^ 12) 12 1 1) 0 12 0)
  { t with host := { t.host.resetConfig with session := false, ideKeys := none } }

/-- CXL_LINK_DOWN: the link goes down or receives a hot reset; every function's configuration state is reset and the
stands run on (R423). -/
def execCxlLinkDown (s : State) : Host.Outcome State Fault Refusal :=
  .next (if s.flag Fld.GLB_LINK_STATUS_LINK_UP then s.linkDown else s)

/-- HOST_LINK_DEGRADED: lane errors retrain the link to x8 or x4; nothing is lost and no function is reset (R408). -/
def execHostLinkDegraded (width : Nat) (s : State) : Host.Outcome State Fault Refusal :=
  .next (
    if s.flag Fld.GLB_LINK_STATUS_LINK_UP && (width == 8 || width == 4) &&
        width < s.fld Fld.GLB_LINK_STATUS_WIDTH then
      (s.setFld Fld.GLB_LINK_STATUS_WIDTH 0 0 width).event ⟨0x0402, none, 6, 43, [2, width]⟩
    else s)

/-- PF_FLR: the physical function's configuration, MSI-X state and HDM decoder are reset and VF Enable is cleared
(R423). Mailbox responses stay in their data areas. -/
def execPfFlr (s : State) : Host.Outcome State Fault Refusal :=
  .next (if s.flag Fld.GLB_LINK_STATUS_LINK_UP then { s with host := s.host.resetConfig } else s)

/-- BUS_MASTER_ENABLE_WRITE: a configuration write; the messages that waited for it are sent (R419, R420). Clearing VF
Enable ends the virtual functions; NumVFs is at most TotalVFs, 24, and holds while VF Enable is 1. -/
def execBusMasterEnableWrite (w : CfgWrite) (s : State) : Host.Outcome State Fault Refusal :=
  .next (
    let set := fun m i (on : Bool) => if on then m ||| 2 ^ i else m &&& (2 ^ 25 - 1 - 2 ^ i)
    let h := s.host
    let h' := match w with
      | .busMaster f on => if s.fnExists f then { h with busMaster := set h.busMaster (fnNum f) on } else h
      | .vfEnable true => { h with vfEnable := true }
      | .vfEnable false => { h with vfEnable := false, busMaster := h.busMaster &&& 2 ^ 24, ats := 0 }
      | .numVfs k => if h.vfEnable || 24 < k then h else { h with numVfs := k }
      | .ats n on => if s.fnExists (.vf n) then { h with ats := set h.ats n on } else h
    if s.flag Fld.GLB_LINK_STATUS_LINK_UP then { s with host := h' }.msixFlush else s)

/-- PSK_EXCHANGE: a secured session opens with the key of GLB_IDE_PSK; `accepted` says whether the exchange's own
checks (SPDM 1.2) pass under that key (R422). -/
def execPskExchange (accepted : Bool) (s : State) : Host.Outcome State Fault Refusal :=
  .next (
    if accepted && s.flag Fld.GLB_LINK_STATUS_LINK_UP && !s.host.session then
      { s with host := { s.host with session := true } }
    else s)

/-- IDE_KM: a message of the secured session sets the one key set of both IDE streams (R422). -/
def execIdeKm (keys : List Byte) (io cm : Bool) (s : State) : Host.Outcome State Fault Refusal :=
  .next (
    if s.host.session && s.flag Fld.GLB_LINK_STATUS_LINK_UP then
      let t := { s with host := { s.host with ideKeys := some keys } }
      (t.setFld Fld.GLB_LINK_STATUS_IDE_IO 0 0 (b01 io)).setFld Fld.GLB_LINK_STATUS_IDE_CM 0 0 (b01 cm)
    else s)

/-- IDE_INTEGRITY_FAILURE: the stream leaves its secure state under the IDE rules, and LINK_DOWN is recorded for the
host port (R422). -/
def execIdeIntegrityFailure (io : Bool) (s : State) : Host.Outcome State Fault Refusal :=
  .next (
    if s.flag (if io then Fld.GLB_LINK_STATUS_IDE_IO else Fld.GLB_LINK_STATUS_IDE_CM) then
      (s.setFld (if io then Fld.GLB_LINK_STATUS_IDE_IO else Fld.GLB_LINK_STATUS_IDE_CM) 0 0 0).event
        ⟨0x0401, none, 6, 43, [2]⟩
    else s)

/-! Queue windows (R410, R413-R416) -/

/-- The window of stand `n` is served: its function and its stand exist and the link is up. -/
def State.windowOpen (s : State) (n : Nat) : Bool :=
  s.fnExists (.vf n) && s.standValid n && s.phase == .running && s.flag Fld.GLB_LINK_STATUS_LINK_UP

/-- A doorbell write without effect (R414). -/
def State.badDoorbell (s : State) (n : Nat) : State := s.satFld Fld.QW_STATUS_BAD_DOORBELLS n 0 1

/-- QW_DOORBELL_WRITE: a doorbell alias of window `n` written (Table 20.3). Aperture writes issued before it have been
applied: commands are taken in order (R416). -/
def execQwDoorbellWrite (n off v : Nat) (s : State) : Host.Outcome State Fault Refusal :=
  .next (
    let q := (off - 0x1000) / 16
    if !s.windowOpen n then s
    else if 0x1000 ≤ off ∧ off < 0x1100 ∧ off % 16 = 0 then
      let i := v % 2 ^ 16
      if !s.flag Fld.SCH_SQ_BASE_ENABLE n q || s.flag Fld.SCH_SQ_BASE_TAIL_SOURCE n q ||
          2 ^ s.fld Fld.SCH_SQ_BASE_SIZE_LOG2 n q ≤ i then s.badDoorbell n
      else s.setFld Fld.SCH_SQ_TAIL_INDEX n q i
    else if 0x1000 ≤ off ∧ off < 0x1100 ∧ off % 16 = 8 then
      let i := v % 2 ^ 20
      if 2 ^ s.fld Fld.SCH_CQ_BASE_SIZE_LOG2 n q ≤ i then s.badDoorbell n
      else (s.setFld Fld.SCH_CQ_HEAD_INDEX n q i).cqFlush n q
    else if off = 0x1100 then s.swyEvtHead n (v % 2 ^ 16)
    else if off = 0x1104 then s.setFld Fld.EVR_STAND_HEAD_INDEX n 0 (v % 2 ^ 20)
    else s)

/-- The stand address of an aperture offset (Table 20.3). -/
def State.apertureAddr (s : State) (n off : Nat) : Nat := s.fld Fld.QW_APERTURE_BASE_ADDR n + off - 0x8000

/-- The aperture offsets and sizes: 8 to 64 B, naturally aligned. -/
def apertureAccess (off len : Nat) : Bool :=
  [8, 16, 32, 64].contains len && off % len == 0 && 0x8000 ≤ off && off < 0x10000

/-- APERTURE_WRITE: applied as an ordinary stand access (R415). -/
def execApertureWrite (n off : Nat) (bs : List Byte) (s : State) : Host.Outcome State Fault Refusal :=
  .next (
    if s.windowOpen n && apertureAccess off bs.length then s.standWrite n (s.apertureAddr n off) bs else s)

/-- APERTURE_READ: data, 0 and UNMAPPED for an unmapped address and in the program object, poison, or all ones where the
read cannot complete within 100 µs (`late`, as with a T3 home page) (R415). -/
def execApertureRead (n off len : Nat) (late : Bool) (s : State) : Host.Outcome State Fault Refusal :=
  .next (
    if !s.windowOpen n then s.complete 0 false
    else if !apertureAccess off len then s.complete (2 ^ (8 * len) - 1) false
    else if late then s.complete (2 ^ (8 * len) - 1) false
    else if !s.writableRange n (s.apertureAddr n off) len then
      (s.flagUnmapped n (s.apertureAddr n off)).complete 0 false
    else
      match s.standRead n (s.apertureAddr n off) len with
      | (.ok bs, t) => t.complete (ofBytes bs) false
      | (.unmapped, t) => t.complete 0 false
      | (.poisoned, t) => t.complete 0 true)

/-! The copy ring (R417) -/

/-- The copy ring of stand `n` is read and holds a command. -/
def State.copyReady (s : State) (n : Nat) : Bool :=
  s.windowOpen n && s.hostReach (.vf n) && s.flag Fld.QW_COPY_RING_ENABLE n &&
  s.fld Fld.QW_COPY_HEAD_INDEX n % 2 ^ s.fld Fld.QW_COPY_RING_SIZE_LOG2 n !=
    s.fld Fld.QW_COPY_TAIL_INDEX n % 2 ^ s.fld Fld.QW_COPY_RING_SIZE_LOG2 n

/-- The result of a copy command written to its entry; HEAD passes it, and vector 16 is sent at most once per µs. -/
def State.copyResult (s : State) (n res : Nat) : State :=
  let size := 2 ^ s.fld Fld.QW_COPY_RING_SIZE_LOG2 n
  let h := s.fld Fld.QW_COPY_HEAD_INDEX n % size
  let t := s.hostWrite (.vf n) (s.fld Fld.QW_COPY_RING_ADDR n + 32 * h + 1) [BitVec.ofNat 8 res]
  let t := t.setFld Fld.QW_COPY_HEAD_INDEX n 0 ((h + 1) % size)
  let due := match t.host.copyMsgAt.get? n with
    | some x => decide (x + 1000 ≤ t.timeNs)
    | none => true
  if t.flag Fld.QW_COPY_RING_INTERRUPT n && due then
    { t with host := { t.host with copyMsgAt := t.host.copyMsgAt.set n t.timeNs } }.msix (.vf n) 16
  else t

/-- The checks of a copy command that complete BAD_COMMAND. -/
def State.copyBad (s : State) (n : Nat) (e : List Byte) : Bool :=
  let len := le e 4 4
  let a := le e 16 6
  let ap := (s.stand n).kv.aperture
  !([1, 2].contains (le e 0 1)) || le e 2 2 != 0 || le e 14 2 != 0 || le e 22 10 != 0 ||
  len < 64 || 16777216 < len || len % 64 != 0 || le e 8 6 % 64 != 0 || a % 64 != 0 ||
  ap.any (fun b => meets a (a + len) b (b + 64 * 2 ^ 30))

/-- The first `k` of the units that the host returned; one that it did not return counts as an error. -/
def hostUnits (k : Nat) (l : List HostRead) : List HostRead :=
  l.take k ++ List.replicate (k - l.length) .error

/-- Units of 64 B copied in, until one cannot be: the result byte. -/
def State.copyInUnits (s : State) (n : Nat) : Nat → List HostRead → State × Nat
  | _, [] => (s, 0)
  | a, r :: rs =>
    if !s.writableRange n a 64 then (s.flagUnmapped n a, 2)
    else
      match r with
      | .error => (s, 4)
      | .data bs => (s.putBytes n a (sub bs 0 64)).copyInUnits n (a + 64) rs

/-- Units of 64 B copied out, until one cannot be: the result byte. -/
def State.copyOutUnits (s : State) (n : Nat) : Nat → Nat → Nat → State × Nat
  | 0, _, _ => (s, 0)
  | k + 1, a, h =>
    if !s.writableRange n a 64 then (s.flagUnmapped n a, 2)
    else
      match s.standRead n a 64 with
      | (.ok bs, t) => (t.hostWrite (.vf n) h bs).copyOutUnits n k (a + 64) (h + 64)
      | (.poisoned, t) => (t, 3)
      | (.unmapped, t) => (t, 2)

/-- A copy command of stand `n` whose entry in host memory reads `e`: run when its OP is the row's own; an OP that the
ring does not know completes BAD_COMMAND. -/
def State.copyCommand (s : State) (n op : Nat) (e : List Byte) (run : State → State × Nat) : State :=
  let o := le e 0 1
  if !s.copyReady n || (o ≠ op && [1, 2].contains o) then s
  else if s.copyBad n e then s.copyResult n 1
  else
    let (t, res) := run s
    t.copyResult n res

/-- COPY_IN: `e` is the entry at HEAD and `units` the 64 B units as the host's memory returned them. -/
def execCopyIn (n : Nat) (e : List Byte) (units : List HostRead) (s : State) : Host.Outcome State Fault Refusal :=
  .next (s.copyCommand n 1 e (fun s => s.copyInUnits n (le e 16 6) (hostUnits (le e 4 4 / 64) units)))

/-- COPY_OUT: `e` is the entry at HEAD. -/
def execCopyOut (n : Nat) (e : List Byte) (s : State) : Host.Outcome State Fault Refusal :=
  .next (s.copyCommand n 2 e (fun s => s.copyOutUnits n (le e 4 4 / 64) (le e 16 6) (le e 8 6)))

/-! The HDM staging window (R411) -/

/-- The key of a byte of the window, while a staging half-stack backs it. -/
def State.hdmKey (s : State) (off : Nat) : Option Nat :=
  if s.flag Fld.GLB_HDM_STATUS_BACKED && off < halfStackSize then
    some ((Space.hm (s.fld Fld.GLB_HDM_STATUS_HALF_STACK)).key off)
  else none

/-- HDM_ACCESS: a read of `len` bytes, or a write of `bs`, at a window offset; without backing a read is poisoned and a
write is discarded. The window is decoded in RUNNING only (R355). -/
def execHdmAccess (off len : Nat) (bs : List Byte) (write : Bool) (s : State) : Host.Outcome State Fault Refusal :=
  .next (
    if s.phase ≠ .running ∨ ¬ s.flag Fld.GLB_LINK_STATUS_LINK_UP then s
    else
      match s.hdmKey off with
      | some k =>
        if write then { s with mem := s.mem.putList k bs }
        else s.complete (ofBytes (s.mem.bytes k len)) false
      | none => if write then s else s.complete 0 true)

end Sys2Proof.Machine
end

