-- ==== Sys2Proof/Machine/Flash.lean ====
section
/-! DEFINITION. The configuration flash: its targets, commit records and programming (16_configuration_image.md R351,
R352, R357; 14_trust_attestation.md R318). -/

namespace Sys2Proof.Machine

open Sys2Proof

/-- An erase sector. -/
def sectorSize : Nat := 65536

/-- A range of the flash with a commit record. -/
structure FlashRange where
  base : Nat
  size : Nat
  deriving DecidableEq, Repr

/-- An image slot: 0 A, 1 B (Table 16.5). -/
def slotRange (b : Nat) : FlashRange := ⟨b * 0x06000000, 0x06000000⟩

/-- An overlay cell. -/
def cellRange (k : Nat) : FlashRange := ⟨0x0C000000 + k * 0x400000, 0x400000⟩

/-- A firmware slot. -/
def firmwareRange (i : Nat) : FlashRange := ⟨0x18000000 + i * 0x1000000, 0x1000000⟩

/-- The range that a TARGET byte names: 0 and 1 the slots, 16 + k the cells (R356). -/
def targetRange (t : Nat) : Option FlashRange :=
  if t < 2 then some (slotRange t) else if 16 ≤ t ∧ t < 64 then some (cellRange (t - 16)) else none

/-- Where the commit record lies: the first bytes of the last sector. -/
def FlashRange.commitAt (r : FlashRange) : Nat := r.size - sectorSize

/-- Bytes of a range. -/
def State.flashRead (s : State) (r : FlashRange) (off n : Nat) : List Byte := s.mem.bytes (Space.flash.key (r.base + off)) n

/-- Bytes programmed into a range. -/
def State.flashWrite (s : State) (r : FlashRange) (off : Nat) (bs : List Byte) : State :=
  { s with mem := s.mem.putList (Space.flash.key (r.base + off)) bs }

/-- Bytes of a range left with open content: erased, or programmed by an operation that failed. -/
def State.flashForget (s : State) (r : FlashRange) (off n : Nat) : State :=
  let a := Space.flash.key (r.base + off)
  { s with mem := s.mem.forget a (a + n) s.freeCtr, freeCtr := s.freeCtr + 1 }

/-- A commit record (R352). Its CRC lies in the bytes 56 to 59 that it covers, which count as 0. -/
def commitRecord (len seq : Nat) (digest : List Byte) : List Byte :=
  let b := toBytes 8 0x544D435A ++ toBytes 8 len ++ toBytes 8 seq ++ sub digest 0 32
  b ++ toBytes 8 (crc32c (b ++ zeros 4))

/-- The length and sequence number that a range's commit record gives, where the range is committed (R352). -/
def State.committed (s : State) (r : FlashRange) : Option (Nat × Nat) :=
  let c := s.flashRead r r.commitAt 64
  let len := le c 8 4
  if le c 0 4 = 0x544D435A ∧ le c 56 4 = crc32c (sub c 0 56 ++ zeros 4) ∧ len ≤ r.commitAt ∧
      sha256 (s.flashRead r 0 len) = sub c 24 32 then some (len, le c 16 8) else none

/-- A range's commit record written, in one page program. -/
def State.commitRange (s : State) (r : FlashRange) (len seq : Nat) : State :=
  s.flashWrite r r.commitAt (commitRecord len seq (sha256 (s.flashRead r 0 len)))

/-- The firmware package in a slot, where the slot is committed. -/
def State.firmwareIn (s : State) (i : Nat) : Option (List Byte) :=
  (s.committed (firmwareRange i)).map (fun c => s.flashRead (firmwareRange i) 0 c.1)

/-- The firmware package in a slot that the ROM accepts under NYMDUN_ROOT and the fused SVN (17_startup_reset_test.md
Table 17.2). -/
def State.firmwareOk (s : State) (i : Nat) : Option (List Byte) :=
  match s.firmwareIn i with
  | some p => if Config.fwSigned p ∧ s.fuses.svn ≤ Config.fwSvn p then some p else none
  | none => none

end Sys2Proof.Machine
end

