-- ==== Sys2Proof/Machine/Heart.lean ====
section
/-! DEFINITION. The Heartwood processor: measurements, leaf reservation, signatures, quotes and the mailboxes
(14_trust_attestation.md). -/

namespace Sys2Proof.Machine

open Sys2Proof

/-- Heartwood's state changed. -/
def State.updHeart (s : State) (f : Heartwood → Heartwood) : State := { s with heart := f s.heart }

/-- The fuses changed. -/
def State.updFuses (s : State) (f : Fuses → Fuses) : State := { s with fuses := f s.fuses }

/-- An event of Heartwood. -/
def State.heartEvent (s : State) (code : Nat) (about : Option Nat) (items : List Nat) : State :=
  s.event ⟨code, about, 6, 40, items⟩

/-! Ownership (R299) -/

/-- The current owner slot: the highest written one, while it is not revoked. -/
def Fuses.owner (f : Fuses) : Option Nat :=
  match f.owners.length with
  | 0 => none
  | k + 1 => if f.revoked.testBit k then none else some k

/-- The hash of the current owner key. -/
def Fuses.ownerHash (f : Fuses) : Option (List Byte) := f.owner.map (fun k => f.owners.getD k [])

/-- STAGED: a staged package whose parts do not all run yet. -/
def State.stagedPackage (s : State) : Option (List Byte) := s.fuses.staged.bind s.firmwareIn

/-- LMS_BLOCKS at and above which INDEX_LOW is set, and the number of blocks (R303, R306). -/
def indexLowAt : Nat := 1887437
def blockCount : Nat := 2097152

/-- The registers that show the fuses brought up to date. -/
def State.showFuses (s : State) : State :=
  let f := s.fuses
  let s := (s.setFld Fld.HWD_STATUS_OWNED 0 0 (b01 f.owner.isSome)).setFld Fld.HWD_STATUS_OWNER_SLOT 0 0 (f.owner.getD 0)
  let s := (s.setFld Fld.HWD_STATUS_STAGED 0 0 (b01 f.staged.isSome)).setFld Fld.HWD_SVN_FUSED_SVN 0 0 f.svn
  (s.setFld Fld.HWD_LMS_BLOCKS_USED 0 0 f.blocks).setFld Fld.HWD_LMS_INDEX_LOW 0 0 (b01 (indexLowAt ≤ f.blocks))

/-! HSS signatures (R300; RFC 8554) -/

/-- An LMS type is LMS_SHA256_M32 with a tree height of 10 to 25, and an LMOTS type one of the four. -/
def hssTypesOk (lms ots : Nat) : Bool := 6 ≤ lms && lms ≤ 9 && 1 ≤ ots && ots ≤ 4

/-- The signed public keys of a signature, from byte `at_`, each after its LMS signature: the types of every level are
allowed. -/
def hssLevelsOk (sig : List Byte) : Nat → Nat → Nat → Nat → Bool
  | 0, _, lms, ots => hssTypesOk lms ots
  | k + 1, at_, lms, ots =>
    let next := at_ + lmsSigLen ots lms
    hssTypesOk lms ots && hssLevelsOk sig k (next + 56) (be sig next 4) (be sig (next + 4) 4)

/-- A signature verifies under a 60 B key, with 1 to 8 levels of the types of R300. -/
def hssOk (key text sig : List Byte) : Bool :=
  let levels := be key 0 4
  decide (1 ≤ levels ∧ levels ≤ 8) && be sig 0 4 + 1 == levels &&
  hssLevelsOk sig (levels - 1) 4 (be key 4 4) (be key 8 4) && hssVerify key text sig

/-! Measurements (R307-R309) -/

/-- An entry of a measurement log (R308). -/
def logEntry (register event seq id : Nat) (digest : List Byte) : List Byte :=
  toBytes 8 (register + event * 2 ^ 8 + seq % 2 ^ 32 * 2 ^ 32) ++ toBytes 8 id ++ zeros 16 ++ sub digest 0 32

/-- A register extended with a digest (R307). -/
def extended (l : List (List Byte)) (r : Nat) (digest : List Byte) : List (List Byte) :=
  listModify l r (fun old => sha256 (old ++ digest))

/-- PMR `r` extended with the digest of a text; a full package log takes no entry, and nothing is extended. -/
def State.measurePkg (s : State) (r event id : Nat) (text : List Byte) : State :=
  let d := sha256 text
  s.updHeart (fun h => if 4096 ≤ h.log.length then h
    else { h with pmr := extended h.pmr r d, log := h.log ++ [logEntry r event h.log.length id d] })

/-- SMR `r` of stand `n` extended with the digest of a text. -/
def State.measureStand (s : State) (n r event id : Nat) (text : List Byte) : State :=
  let d := sha256 text
  s.updStand n (fun h => if 1024 ≤ h.log.length then h
    else { h with smr := extended h.smr r d, log := h.log ++ [logEntry (4 + r) event h.log.length id d] })

/-- The stand's log holds no further entry. -/
def State.standLogFull (s : State) (n : Nat) : Bool := 1024 ≤ (s.stand n).log.length

/-- A 16 B key-event header, in the layout of a blob's first 16 bytes (Table 14.6). -/
def keyEvent (kind n keyId : Nat) : List Byte :=
  toBytes 2 1 ++ toBytes 1 kind ++ toBytes 1 n ++ toBytes 2 keyId ++ zeros 2 ++ toBytes 8 Config.serial.toNat

/-! Leaf reservation (R303-R306) -/

/-- HWD_ERROR with its context. -/
def State.flagHwd (s : State) (f : Field) (op m keyId status : Nat) : State :=
  s.flagError f 0 (fun s => s.setReg .HWD_ERROR_INFO 0 0 (op + m * 2 ^ 8 + keyId * 2 ^ 16 + status * 2 ^ 32))

/-- The count of reserved blocks set: INDEX_LOW is recorded when it reaches its threshold. -/
def State.setBlocks (s : State) (b : Nat) : State :=
  let old := s.fuses.blocks
  let s := (s.updFuses (fun f => { f with blocks := b })).showFuses
  if old < indexLowAt ∧ indexLowAt ≤ b then s.heartEvent 0x3007 none [b] else s

/-- The next block reserved: `fails` burns in a row do not read back, and each counts its bit as reserved. The Bool says
whether a block was reserved. -/
def State.reserveBlock (s : State) (fails : Nat) : State × Bool :=
  let f := min fails 3
  let b := s.fuses.blocks + f
  if blockCount ≤ s.fuses.blocks then (s.setFld Fld.HWD_LMS_EXHAUSTED 0 0 1, false)
  else if f = 3 then
    (((s.setBlocks (min blockCount b)).updHeart (fun h => { h with fuseFailed := true })).flagHwd
      Fld.HWD_ERROR_LMS_FUSE_FAILED 0 0 0 8, false)
  else if blockCount ≤ b then ((s.setBlocks blockCount).setFld Fld.HWD_LMS_EXHAUSTED 0 0 1, false)
  else
    let s := (s.setBlocks (b + 1)).updFuses (fun f => { f with mirror := some (b, true) })
    ((s.updHeart (fun h => { h with block := b })).setFld Fld.HWD_LMS_SIGNED 0 0 0, true)

/-- The mirror rewritten from the fuse count (Table 14.3). -/
def State.repairMirror (s : State) : State :=
  let f := s.fuses.blocks
  ((s.updFuses (fun x => { x with mirror := some (f - 1, true) })).setFld Fld.HWD_LMS_MIRROR_REPAIRED 0 0 1).heartEvent
    0x3008 none [f]

/-- Heartwood starts: the mirror is reconciled with the fuse count (Table 14.3), and a new block is reserved. -/
def State.startLeaves (s : State) (fails : Nat) : State :=
  let f := s.fuses.blocks
  let s := match s.fuses.mirror with
    | some (b, true) => if b + 1 = f then s else s.repairMirror
    | some (b, false) =>
      if b + 1 = f then s.updFuses (fun x => { x with mirror := some (b, true) })
      else if b = f then s else s.repairMirror
    | none => s.repairMirror
  (s.reserveBlock fails).1

/-- A response, without word 0. -/
structure Reply where
  status : Nat := 0
  data : List Byte := []
  deriving DecidableEq, Repr

/-- A text signed with the next leaf (R302, R303, R305, R306); `fails` are the burns that fail if a block is reserved. -/
def State.sign (s : State) (fails : Nat) (text : List Byte) : State × Reply :=
  if s.heart.fuseFailed then (s, { status := 8 })
  else if s.flag Fld.HWD_LMS_EXHAUSTED then (s, { status := 7 })
  else if !s.heart.trees then (s, { status := 1 })
  else
    let full := s.fld Fld.HWD_LMS_SIGNED = 65536
    let (t, ok) := if full then s.reserveBlock fails else (s, true)
    if !ok then (t, { status := if t.heart.fuseFailed then 8 else 7 })
    else
      let k := t.fld Fld.HWD_LMS_SIGNED
      (t.setFld Fld.HWD_LMS_SIGNED 0 0 (k + 1),
        { data := text ++ sub (Config.hssSign (65536 * t.heart.block + k) text) 0 5716 })

/-! Quotes (R310, R311, R321) -/

/-- STAND_STATE of a quote. -/
def StandCond.code : StandCond → Nat
  | .running => 0
  | .resetting => 1
  | .installing => 2
  | .absent => 3

/-- The encapsulation key of a stand's KEM pair. -/
def Stand.kemKey (st : Stand) : Option (List Byte) := st.kem.map (fun d => sub (Config.kemKey d) 0 1568)

/-- The 512 B body of a quote of stand `n`, or of the package (Table 14.5). -/
def State.quoteBody (s : State) (n : Option Nat) (nonce : List Byte) : List Byte :=
  let f := s.fuses
  let st := (n.map s.stand).getD {}
  let cond := (n.map (fun k => (s.stand k).cond)).getD .running
  let here := n.isSome && cond == .running
  let layout := fun g : Field => match n with | some k => s.layout g k | none => 0
  let w0 := 1 + n.getD 0 * 2 ^ 16 + b01 n.isNone * 2 ^ 21 + (if n.isNone then 0 else cond.code) * 2 ^ 22 +
    b01 f.staged.isSome * 2 ^ 24 + b01 (s.flag Fld.HWD_LMS_INDEX_LOW) * 2 ^ 25 + layout Fld.GLB_STAND_SEALED * 2 ^ 26 +
    layout Fld.GLB_STAND_ROLE * 2 ^ 27 + f.owner.getD 0 * 2 ^ 29 + 0x0880 * 2 ^ 32 + bits (s.reg .GLB_ID 0 0) 16 8 * 2 ^ 48
  let w2 := s.fld Fld.HWD_SVN_RUNNING_SVN + f.svn * 2 ^ 32
  let w3 := f.blocks + s.heart.log.length * 2 ^ 32 + st.log.length * 2 ^ 48
  toBytes 8 w0 ++ toBytes 8 Config.serial.toNat ++ toBytes 8 w2 ++ toBytes 8 w3 ++ sub nonce 0 32 ++
  sub (f.ownerHash.getD []) 0 32 ++ s.heart.pmr.flatten ++ (if here then st.smr.flatten else zeros 128) ++
  (match (if here then st.kemKey else none) with | some k => sub (sha256 k) 0 32 | none => zeros 32) ++
  (match s.stagedPackage with | some p => sub (sha256 p) 0 32 | none => zeros 32) ++ zeros 96

/-- GET_QUOTE by who may quote the stands of `may`: nonce, and stand or 0xFF. -/
def State.getQuote (s : State) (may : Nat → Bool) (fails : Nat) (args : List Byte) : State × Reply :=
  let k := le args 32 1
  if k = 0xFF then s.sign fails (s.quoteBody none (sub args 0 32))
  else if 24 ≤ k then (s, { status := 2 })
  else if !may k then (s, { status := 3 })
  else s.sign fails (s.quoteBody (some k) (sub args 0 32))

/-- GET_LOG: entries of a log from a first entry on (R308). -/
def State.getLog (s : State) (may : Nat → Bool) (args : List Byte) : State × Reply :=
  let k := le args 0 1
  let count := le args 8 2
  if (24 ≤ k ∧ k ≠ 0xFF) ∨ count = 0 ∨ 120 < count then (s, { status := 2 })
  else if k ≠ 0xFF ∧ !may k then (s, { status := 3 })
  else
    let l := if k = 0xFF then s.heart.log else (s.stand k).log
    (s, { data := ((l.drop (le args 4 4)).take count).flatten })

/-- GET_CERT (R311). -/
def certReply : Reply := { data := sub Config.certificate 0 5844 }

/-- The status with which a stand that is not RUNNING answers a command about its keys (Table 14.8). -/
def StandCond.refusal : StandCond → Option Nat
  | .running => none
  | .resetting => some 4
  | .installing => some 1
  | .absent => some 2

/-- GET_KEM_KEY (R312). -/
def State.getKemKey (s : State) (may : Nat → Bool) (args : List Byte) : State × Reply :=
  let k := le args 0 1
  if 24 ≤ k then (s, { status := 2 })
  else if !may k then (s, { status := 3 })
  else
    match (s.stand k).cond.refusal, (s.stand k).kemKey with
    | some x, _ => (s, { status := x })
    | none, some key => (s, { data := key })
    | none, none => (s, { status := 1 })

/-! Mailboxes (R323; 16_configuration_image.md R356) -/

/-- The registers of a mailbox, its unit, its function and its MSI-X vector (20_host_interface.md Table 20.4). -/
structure Box where
  ctrl : Reg
  data : Reg
  busy : Field
  done : Field
  interrupt : Field
  overrun : Field
  retry : Field
  unit : Nat
  fn : Fn
  vec : Nat

/-- Heartwood mailbox `m`. -/
def heartBox (m : Nat) : Box :=
  ⟨.HWD_MB_CTRL, .HWD_MB_DATA, Fld.HWD_MB_CTRL_BUSY, Fld.HWD_MB_CTRL_DONE, Fld.HWD_MB_CTRL_INTERRUPT,
   Fld.HWD_MB_CTRL_OVERRUN, Fld.HWD_MB_CTRL_RETRY_MS, m, if m = 24 then .pf else .vf m, if m = 24 then 1 else 18⟩

/-- The configuration mailbox. -/
def cfgBox : Box :=
  ⟨.CFG_MB_CTRL, .CFG_MB_DATA, Fld.CFG_MB_CTRL_BUSY, Fld.CFG_MB_CTRL_DONE, Fld.CFG_MB_CTRL_INTERRUPT,
   Fld.CFG_MB_CTRL_OVERRUN, Fld.CFG_MB_CTRL_RETRY_MS, 0, .pf, 0⟩

/-- `len` bytes of a mailbox's data area from `off` on. -/
def State.boxBytes (s : State) (b : Box) (off len : Nat) : List Byte :=
  let w := off / 8
  sub ((List.range ((off + len + 7) / 8 - w)).flatMap (fun j => toBytes 8 (s.reg b.data b.unit (w + j)))) (off % 8) len

/-- Word 0 of a mailbox's data area. -/
def State.boxWord (s : State) (b : Box) : Nat := s.reg b.data b.unit 0

/-- The response replaces the data area: word 0 with OP and TAG as they were, the STATUS and the LENGTH of the data. DONE
is set, and a message sent where INTERRUPT asks for it. RETRY_MS is an open estimate with TRY_LATER. -/
def State.boxDone (s : State) (b : Box) (r : Reply) : State :=
  let w := s.boxWord b
  let word := bits w 0 8 + r.status * 2 ^ 8 + r.data.length % 2 ^ 16 * 2 ^ 16 + bits w 32 32 * 2 ^ 32
  let (x, s) := s.draw
  let s := (List.range 1023).foldl (fun s j =>
    if 8 * j < r.data.length then s.setReg b.data b.unit (j + 1) (le r.data (8 * j) 8) else s.resetReg b.data b.unit (j + 1)) s
  let s := s.setReg b.data b.unit 0 word
  let s := ((s.setFld b.busy b.unit 0 0).setFld b.done b.unit 0 1).setFld b.retry b.unit 0
    (if r.status = 1 then 1 + x.toNat % 65535 else 0)
  if s.flag b.interrupt b.unit then s.msix b.fn b.vec else s

/-- A write of a mailbox's control register by function `f`. With GO it starts the command in the data area, where its OP
is the row's own; while BUSY it sets OVERRUN. An OP that is not `known` completes BAD_COMMAND. `run` answers a response,
or leaves the command in progress. -/
def State.boxWrite (s : State) (b : Box) (f : Fn) (v op : Nat) (known : List Nat)
    (run : Nat → State → State × Option Reply) : State :=
  match s.writeRow f b.ctrl b.unit 0 [] v with
  | none => s
  | some t =>
    let o := bits (t.boxWord b) 0 8
    if !bit v 0 then t
    else if t.flag b.busy b.unit then t.setFld b.overrun b.unit 0 1
    else if o = op then
      match run (bits (t.boxWord b) 16 16) (t.setFld b.busy b.unit 0 1) with
      | (t, some r) => t.boxDone b r
      | (t, none) => t
    else if known.contains o then s
    else t.boxDone b { status := 2 }

/-- The OPs of Table 14.10. -/
def heartOps : List Nat := [1, 2, 3, 4, 5, 6, 7, 8, 9, 10, 0x10, 0x11, 0x12, 0x13, 0x14]

/-- Heartwood mailbox commands: who may issue them. -/
inductive BoxUse where
  | all | stand | pf
  deriving DecidableEq, Repr

/-- The use covers mailbox `m`. -/
def BoxUse.allows : BoxUse → Nat → Bool
  | .all, _ => true
  | .stand, m => m < 24
  | .pf, m => m == 24

/-- A Heartwood command: every one is answered TRY_LATER while firmware is applied (Table 14.7), NOT_PERMITTED from a
mailbox that Table 14.10 does not allow, and BAD_COMMAND where LENGTH does not cover `args` bytes of arguments. The
command sees its arguments, and answers. -/
def State.heartCommand (s : State) (f : Fn) (m v op args : Nat) (use : BoxUse)
    (run : List Byte → State → State × Option Reply) : State :=
  if 24 < m then s
  else s.boxWrite (heartBox m) f v op heartOps (fun len s =>
    if s.fld Fld.HWD_STATUS_STATE = 2 then (s, some { status := 1 })
    else if !use.allows m then (s, some { status := 3 })
    else if len < args then (s, some { status := 2 })
    else run (s.boxBytes (heartBox m) 8 args) s)

/-- The stands that mailbox `m` may ask about: its own, or every one for the physical function (R311). -/
def boxMay (m n : Nat) : Bool := m == 24 || m == n

end Sys2Proof.Machine
end

