-- ==== Sys2Proof/Machine/Program.lean ====
section
/-! DEFINITION. The checks of a layer program and of a kernel table (02_number_formats.md R45; 03_matrix_cores.md R58,
R62-R71; 04_vector_cores.md R90, R91; 06_block_compression.md R139). A check answers the event code of the refusal:
0x0106 PROGRAM_INVALID or 0x0107 FORMAT_UNSUPPORTED. -/

namespace Sys2Proof.Machine

open Sys2Proof

/-- Where a check reads, which addresses it takes for mapped, and the stand that the program is for. -/
structure ProgEnv where
  read : Nat → Nat → Option (List Byte)
  mapped : Nat → Bool
  /-- Dies of the stand. -/
  dies : Nat
  /-- Every die of the stand forms a group of size 2^GROUP_LOG2. -/
  forms : Nat → Bool

/-- PROGRAM_INVALID where a check fails. -/
def invalidUnless (ok : Bool) : Option Nat := if ok then none else some 0x0106

/-- FORMAT_UNSUPPORTED where a check fails. -/
def formatUnless (ok : Bool) : Option Nat := if ok then none else some 0x0107

/-- The first refusal of a list. -/
def firstFault (l : List (Option Nat)) : Option Nat := l.findSome? id

/-- A table that cannot be read is not checked here: a load check reads it. -/
def ProgEnv.with_ (e : ProgEnv) (a len : Nat) (f : List Byte → Option Nat) : Option Nat :=
  match e.read a len with
  | some b => f b
  | none => invalidUnless (e.mapped a)

/-- A format of Table 2.5's weight column. -/
def weightFormat (f : Nat) : Bool := f == ternCode || ((formatOf f).isSome && f != 0x00 && f != 0x10)

/-- A pair of operands of Table 2.5. -/
def pairOk (wf af : Nat) : Bool :=
  let fp8 := [0x02, 0x03, 0x0A, 0x0B]
  let low := [0x04, 0x05, 0x06, 0x0C, 0x0D, 0x0E]
  if wf = 0x01 then af == 0x01
  else if wf = 0x07 ∨ wf = 0x0F then af == 0x07 || af == 0x0F
  else if wf = ternCode ∨ fp8.contains wf ∨ wf = 0x12 then fp8.contains af
  else if (low ++ [0x14, 0x15, 0x16]).contains wf then (fp8 ++ low).contains af
  else false

/-- An address of a descriptor: aligned and mapped, and 0 exactly where the format has no such plane. -/
def ProgEnv.addrOk (e : ProgEnv) (a align : Nat) (wanted : Bool) : Bool :=
  if wanted then a != 0 && a % align == 0 && e.mapped a else a == 0

/-- The uncompressed size of a data plane (R63). -/
def Wsd.planeSize (d : Wsd) : Nat := d.offset (segmentBytes d.format) 4096 (if d.split = 0 then 1 else d.slices) 0 0 0

/-- Kraft's sum of a code table: 2^12 over its lengths is at most 2^12 (06_block_compression.md R135). -/
def tableSumOk (b : List Byte) : Bool :=
  let lens := (List.range 256).map (fun s => bits (le b (s / 2) 1) (4 * (s % 2)) 4)
  lens.all (· ≤ 12) && (lens.map (fun l => if l = 0 then 0 else 2 ^ (12 - l))).foldl (· + ·) 0 ≤ 2 ^ 12

/-- The index table of a compressed descriptor (06_block_compression.md R139). -/
def ProgEnv.indexFault (e : ProgEnv) (d : Wsd) : Option Nat :=
  e.with_ d.indexTable 64 (fun h =>
    let w0 := le h 0 8
    let tables := bits w0 8 5
    firstFault
      ([invalidUnless (bits w0 0 8 == 1 && w0 / 2 ^ 13 == 0 && le h 8 8 / 2 ^ 40 == 0 && le h 16 8 / 2 ^ 48 == 0 &&
          (h.drop 24).all (· == 0)),
        invalidUnless (tables ≤ 16), invalidUnless (ceilDiv d.planeSize 4096 ≤ bits (le h 8 8) 0 40)] ++
       (List.range tables).map (fun t => e.with_ (d.indexTable + 64 + 128 * t) 128 (fun b => invalidUnless (tableSumOk b)))))

/-- A weight-stream descriptor (R62-R64, R70). -/
def ProgEnv.wsdFault (e : ProgEnv) (i : Nat) (b : List Byte) : Option Nat :=
  let d := Wsd.ofBytes i b
  let w := fun j => le b (8 * j) 8
  let sc := (formatOf d.format).map (·.2)
  firstFault
    [formatUnless (weightFormat d.format),
     invalidUnless (bits (w 0) 13 3 == 0 && (List.range 4).all (fun j => w (j + 1) / 2 ^ 48 == 0) && w 5 / 2 ^ 32 == 0 &&
       w 6 == 0 && w 7 == 0),
     invalidUnless (d.k % 512 == 0 && 1 ≤ d.slices && d.slices ≤ 6 && d.split ≤ 2 && d.n != 0),
     invalidUnless (if d.split = 0 then d.slices == 1 else d.slices == e.dies),
     invalidUnless (e.addrOk d.data 4096 true),
     invalidUnless (e.addrOk d.scale 64 (sc == some .mx || sc == some .f16s)),
     invalidUnless (e.addrOk d.rowScale 64 (d.format == ternCode)),
     invalidUnless (e.addrOk d.indexTable 64 d.compressed),
     if d.compressed then e.indexFault d else none]

/-- Rows of a cluster that ROWS die rows take at most (R60). -/
def localRows (g rows : Nat) : Nat := if rows = 0 then 0 else (rows - 1) / (g * 512) * 512 + min 512 ((rows - 1) % (g * 512) + 1)

/-- A MATMUL (R68-R70). -/
def ProgEnv.matmulFault (e : ProgEnv) (act table count : Nat) (b : List Byte) : Option Nat :=
  let o := MatmulOp.ofBytes b
  let w0 := le b 0 8
  let last := o.wsd + max o.experts 1
  let rows := localRows o.g o.rows
  firstFault
    ([invalidUnless (bits w0 63 1 == 0 && le b 18 2 == 0 && bits w0 48 3 ≤ 4 && o.rows != 0 && o.experts ≤ 4096),
      invalidUnless (last ≤ count),
      formatUnless ([0x00, 0x01, 0x02, 0x03].contains o.outFormat),
      invalidUnless (!o.acc || o.outFormat == 0x00),
      invalidUnless (e.forms (bits w0 48 3)),
      invalidUnless (o.inOff % 64 == 0 && o.outOff % 64 == 0 && (o.experts == 0 || o.route + 8 + 8 * o.experts ≤ act))] ++
     (List.range (max o.experts 1)).map (fun x => e.with_ (table + 64 * (o.wsd + x)) 64 (fun db =>
       let d := Wsd.ofBytes (o.wsd + x) db
       firstFault (formatUnless (pairOk d.format o.inFormat) ::
         (List.range (if d.split = 0 then 1 else d.slices)).map (fun sl => invalidUnless (
           o.inOff + rows * rowBytes o.inFormat ((d.reds sl).2 - (d.reds sl).1) ≤ act &&
           (o.experts != 0 || o.outOff + rows * (d.colCount sl * (o.outFmt.width / 8)) ≤ act)))))))

/-- A VTASKS (R91). -/
def ProgEnv.vtasksFault (e : ProgEnv) (b : List Byte) : Option Nat :=
  let w := fun j => le b (8 * j) 8
  let status := bits (w 2) 0 48
  invalidUnless (bits (w 0) 32 32 == 0 && w 1 / 2 ^ 48 == 0 && w 2 / 2 ^ 48 == 0 && w 3 / 2 ^ 52 == 0 && bits (w 3) 0 20 != 0 &&
    e.addrOk (bits (w 1) 0 48) 32 true && (status == 0 || e.addrOk status 64 true))

/-- A collective (R71): BUF and OUT ranges of a cluster's rows under group size `g`. -/
def linkFault (act g : Nat) (b : List Byte) : Option Nat :=
  let o := LinkOp.ofBytes b
  let w := fun j => le b (8 * j) 8
  let need := localRows g o.rows * o.cols * (o.fmt.width / 8)
  firstFault
    [invalidUnless (bits (w 0) 37 27 == 0 && bits (w 2) 40 24 == 0 && w 3 == 0),
     formatUnless (bits (w 0) 32 5 ≤ 1),
     invalidUnless (o.buf + need ≤ act || o.out + need ≤ act),
     invalidUnless (o.buf ≤ act && o.out ≤ act)]

/-- An operation of a program: `before` holds the operations before it. -/
def ProgEnv.opFault (e : ProgEnv) (act table count : Nat) (before : List (List Byte)) (b : List Byte) : Option Nat :=
  let w0 := le b 0 8
  let rest := (b.drop 8).all (· == 0)
  let ctr := bits w0 8 4
  let signals := (before.filter (fun x => bits (le x 0 8) 12 4 == ctr)).length
  let g := (before.filter (fun x => le x 0 1 == 1)).getLast?.map (fun x => (MatmulOp.ofBytes x).g) |>.getD 1
  firstFault
    [invalidUnless (1 ≤ le b 0 1 && le b 0 1 ≤ 7),
     invalidUnless (ctr == 0 || bits w0 16 16 ≤ signals),
     match le b 0 1 with
     | 1 => e.matmulFault act table count b
     | 2 => e.vtasksFault b
     | 3 => linkFault act g b
     | 4 => linkFault act g b
     | 5 => invalidUnless (rest && bits w0 33 31 == 0)
     | _ => invalidUnless (rest && bits w0 32 32 == 0)]

/-- A layer program whose header lies at an address (R65, R68). -/
def ProgEnv.programFault (e : ProgEnv) (base : Nat) : Option Nat :=
  e.with_ base 64 (fun h =>
    let ops := le h 2 2
    let count := le h 6 2
    let table := le h 8 6
    let list := le h 16 6
    let act := le h 24 4
    let opAt : Nat → List Byte := fun i => (e.read (list + 32 * i) 32).getD []
    let bodies : List (List Byte) := (List.range ops).map opAt
    firstFault
      ([invalidUnless (le h 0 2 == 1 && ops != 0 && le h 4 1 != 0 && le h 5 1 == 0 && count != 0),
        invalidUnless (le h 14 2 == 0 && le h 22 2 == 0 && le h 28 4 == 0 && (h.drop 32).all (· == 0)),
        invalidUnless (act ≤ 25165824),
        invalidUnless (e.addrOk table 64 true && e.addrOk list 32 true)] ++
       (List.range count).map (fun i => e.with_ (table + 64 * i) 64 (e.wsdFault i)) ++
       (List.range ops).map (fun i => e.with_ (list + 32 * i) 32 (e.opFault act table count (bodies.take i))) ++
       [e.with_ (list + 32 * (ops - 1)) 32 (fun b => invalidUnless (le b 0 1 == 7))]))

/-- A kernel table (R90): the lengths of its kernels. The spec gives no numbers to the opcodes of Chisyn, so that what a
kernel's words say is not checked here. -/
def kernelsFault (b : List Byte) : Option Nat :=
  let n := if bits (le b 0 8) 0 12 = 0 then 4096 else bits (le b 0 8) 0 12
  firstFault ((List.range n).map (fun i =>
    let e := le b (64 + 8 * i) 8
    let len := bits e 32 16
    invalidUnless (len != 0 && len % 8 == 0 && len ≤ 7680 && bits e 0 32 + len ≤ b.length)))

/-- The layer groups of a model (05_attention_state.md R107, R123; 08_serving_scheduler.md R183;
09_state_movement.md R213): `specK` is that of a pair with the model in it, and `tpp` is 2^CANOPY_TPP of a model with
CANOPY 1. The smallest record of a REMOTE group, of one BF16 query head, must fit the largest payload (R121). -/
def groupsFault (gs : List KvGroup) (layers : KvGroup → List Nat) (specK tpp : Option Nat) (remoteKey : Nat) : Option Nat :=
  let one := fun g : KvGroup => firstFault
    [formatUnless ([0x02, 0x03, 0x0A, 0x0B].contains g.fmt),
     invalidUnless (1 ≤ g.tpp && g.dim % (if g.mx then 32 else 16) == 0),
     invalidUnless (!(g.ring && g.prune) && !(g.ring && g.remote)),
     invalidUnless (!(g.pruneBudget < g.sinkPages + g.recentPages) && !(g.prune && g.recentPages == 0)),
     invalidUnless (gs.all (fun h => h.num == g.num || (layers g).all (fun l => !(layers h).contains l))),
     invalidUnless (!(g.ring && specK.any (fun k => g.specDepth < k + 1))),
     invalidUnless (tpp.all (· == g.tpp)),
     invalidUnless (!(g.remote && remoteKey == 0)),
     invalidUnless (!g.remote || 72 + 2 * g.dim ≤ 8192)]
  firstFault (gs.map one)

end Sys2Proof.Machine
end

