-- ==== Sys2Proof/Machine/Image.lean ====
section
/-! DEFINITION. The Zarko image: header, directory, sections, blobs and the validation of Table 16.6
(16_configuration_image.md R342-R350, R353). -/

namespace Sys2Proof.Machine

open Sys2Proof

/-! Header and directory (R342-R344) -/

/-- Word `i` of an image, or of a section. -/
def wordOf (b : List Byte) (i : Nat) : Nat := le b (8 * i) 8

/-- IMAGE_SEQ, BASE_SEQ, SIGNED_LENGTH and SIG_LENGTH of a header, and the image length. -/
def imageSeq (b : List Byte) : Nat := le b 16 8
def imageBase (b : List Byte) : Nat := le b 24 8
def signedLength (b : List Byte) : Nat := le b 32 4
def imageLength (b : List Byte) : Nat := signedLength b + le b 36 4

/-- The target stand of a stand image. -/
def imageStand (b : List Byte) : Nat := bits (wordOf b 5) 16 5

/-- A stepping code is not above another: major digits first. -/
def steppingLe (a b : Nat) : Bool := decide (a % 16 < b % 16) || (a % 16 == b % 16 && decide (a / 16 ≤ b / 16))

/-- Step 2 of Table 16.6: a header of KIND `kind` in a target whose image may take `room` bytes. -/
def headerValid (stepping kind room : Nat) (b : List Byte) : Bool :=
  le b 0 4 == 0x4F4B525A && le b 4 2 == 1 && le b 6 2 == kind && le b 8 2 == 0x0880 && steppingLe (le b 10 1) stepping &&
  le b 11 1 == 0 && signedLength b % 64 == 0 && decide (imageLength b ≤ room) && wordOf b 5 / 2 ^ 21 == 0 &&
  wordOf b 6 == 0 && wordOf b 7 == 0 && le b 124 4 == 0 && (sub b 128 128).all (· == 0) &&
  (kind == 2 || (imageBase b == 0 && imageStand b == 0))

/-- A directory entry. -/
structure DirEntry where
  type : Nat
  index : Nat
  fromBase : Bool
  offset : Nat
  length : Nat
  hash : List Byte
  clean : Bool
  deriving DecidableEq, Repr

/-- Entry `i` of an image's directory (Table 16.2). -/
def dirEntry (b : List Byte) (i : Nat) : DirEntry :=
  let e := sub b (256 + 64 * i) 64
  { type := le e 0 1, index := le e 1 1, fromBase := bit (le e 0 8) 16, offset := le e 8 4, length := le e 12 4,
    hash := sub e 32 32, clean := le e 0 8 / 2 ^ 17 == 0 && le e 16 8 == 0 && le e 24 8 == 0 }

/-- The directory. -/
def directory (b : List Byte) : List DirEntry := (List.range (le b 40 2)).map (dirEntry b)

/-- The bytes that an entry names in its own image. -/
def sectionBytes (b : List Byte) (e : DirEntry) : List Byte := sub b e.offset e.length

/-- The bytes of a blob: those of its entry, or of the base image's blob of the same type and hash. -/
def blobBytes (base b : List Byte) (type num : Nat) : Option (List Byte) :=
  match (directory b).find? (fun e => e.type == type && e.index == num) with
  | none => none
  | some e =>
    if e.fromBase then
      ((directory base).find? (fun x => x.type == type && x.hash == e.hash)).map (sectionBytes base)
    else some (sectionBytes b e)

/-! STAND sections (Table 16.4) -/

def secStand (b : List Byte) : Nat := bits (wordOf b 0) 0 5
def secSealed (b : List Byte) : Bool := bit (wordOf b 0) 8
def secDelete (b : List Byte) : Bool := bit (wordOf b 0) 15
def secDrainMs (b : List Byte) : Nat := bits (wordOf b 0) 40 16
def secGroves (b : List Byte) : Nat := bits (wordOf b 1) 0 24
def secHalfStacks (b : List Byte) : Nat := bits (wordOf b 1) 24 8
def secChannels (b : List Byte) : Nat := bits (wordOf b 1) 32 16
def secBanks (b : List Byte) : Nat := wordOf b 5
def secBase (b : List Byte) : Nat := bits (wordOf b 6) 0 48

/-- ROLE, or DEFAULT_ROLE of the package section where ROLE_VALID is 0. -/
def secRole (pkg b : List Byte) : Nat := if bit (wordOf b 0) 7 then bits (wordOf b 0) 5 2 else bits (wordOf pkg 0) 0 2

/-- SEQUENCER, where the section names one. -/
def secSequencer (b : List Byte) : Option Nat := if bit (wordOf b 0) 9 then some (bits (wordOf b 0) 10 5) else none

/-- First connection number and count on a hub die. -/
def secConns (b : List Byte) (h : Nat) : Nat × Nat := (bits (wordOf b 2) (32 * h) 16, bits (wordOf b 2) (32 * h + 16) 16)

/-- The installed models. -/
def secModels (b : List Byte) : List Nat := bitsOf 8 (bits (wordOf b 0) 32 8)

/-- The blobs that a section names: type and number. -/
def secBlobs (b : List Byte) : List (Nat × Nat) :=
  if secDelete b then []
  else (secModels b).map (fun m => (3, bits (wordOf b (8 + 2 * m)) 0 8)) ++
    [(4, bits (wordOf b 6) 48 8), (5, bits (wordOf b 6) 56 8)]

/-- The blobs of the program object in their order (R349). -/
def objectBlobs (base img sec : List Byte) : List (List Byte) :=
  ((secBlobs sec).filter (·.1 != 5)).map (fun x => (blobBytes base img x.1 x.2).getD [])

/-- The program object: every blob from a 64 KiB boundary on. -/
def objectBytes (blobs : List (List Byte)) : List Byte :=
  blobs.flatMap (fun x => x ++ zeros (alignUp x.length pageSize - x.length))

/-- Where the blob at a position of the object starts. -/
def blobOffset (blobs : List (List Byte)) (i : Nat) : Nat :=
  ((blobs.take i).map (fun x => alignUp x.length pageSize)).foldl (· + ·) 0

/-! The package as a whole -/

/-- A package section with the stands' sections, in the order of their numbers in the image. -/
structure Plan where
  pkg : List Byte
  stands : List (List Byte)
  /-- Sequencers that stands hold already. -/
  held : SMap Nat := []
  deriving DecidableEq, Repr

/-- The section of a stand. -/
def Plan.of (p : Plan) (n : Nat) : Option (List Byte) := p.stands.find? (fun b => secStand b == n)

/-- Sequencers (R25): those named, and the others in the order of stand numbers; a sequencer out of service is none that
the device chooses. -/
def chooseSequencer (used : List Nat) (out : Nat) (sec : List Byte) : Option Nat :=
  let home := homeHub (((bitsOf 24 (secGroves sec)).headD 0) / 4)
  let free := fun h => ((List.range 12).map (12 * h + ·)).find? (fun q => !used.contains q && !out.testBit q)
  match free home with
  | some q => some q
  | none => free (1 - home)

/-- The sequencer that a stand holds already, or else the one that its section names, where that is in service. -/
def Plan.named (p : Plan) (out : Nat) (b : List Byte) : Option Nat :=
  match p.held.get? (secStand b) with
  | some q => some q
  | none => (secSequencer b).filter (fun q => !out.testBit q)

/-- The sequencer of each stand of a plan; none where a stand has none. `out` are the sequencers out of service. -/
def Plan.sequencers (p : Plan) (out : Nat) : Option (SMap Nat) :=
  let named : SMap Nat := p.stands.foldl (fun (m : SMap Nat) b => match p.named out b with
    | some q => m.set (secStand b) q
    | none => m) []
  (sortBy secStand (p.stands.filter (fun b => (p.named out b).isNone))).foldlM (fun (m : SMap Nat) b =>
    (chooseSequencer (m.map (·.2)) out b).map (fun q => m.set (secStand b) q)) named

/-- Entries of a hub die's frame, recomposed for the sealed stands listed (R346). -/
def frameEntries (pkg : List Byte) (h : Nat) (isSealed : Nat → Bool) : List Nat :=
  let at_ := 0x440 + 4112 * h
  (List.range (bits (le pkg at_ 8) 0 10)).map (fun i =>
    let e := le pkg (at_ + 16 + 8 * i) 8
    if bits e 21 2 = 1 ∧ !isSealed (bits e 16 5) then setBits (setBits e 21 2 0) 16 5 0 else e)

/-- Class reservations: the stand of a class, where it is reserved in the frame (R347). -/
def reservation (pkg : List Byte) (c : Nat) : Option Nat :=
  let b := le pkg (0x70 + c) 1
  if bit b 7 then some (bits b 0 5) else none

/-- A stand of the plan is sealed. -/
def Plan.isSealed (p : Plan) (n : Nat) : Bool := (p.of n).any secSealed

/-- A stand has a connection allotment. -/
def secAllotted (b : List Byte) : Bool := (secConns b 0).2 != 0 || (secConns b 1).2 != 0

/-- SHP_CLASS_OWNER as the plan has it: a reservation is in force while its stand exists, is sealed and has a connection
allotment (R347). -/
def Plan.classOwners (p : Plan) : Nat :=
  ((List.range 8).map (fun c => match reservation p.pkg c with
    | some n => if (p.of n).any (fun b => secSealed b && secAllotted b) then (n + 128) * 2 ^ (8 * c) else 0
    | none => 0)).foldl (· + ·) 0

/-- Bank `b` of the bank table: kind, stand and width code. -/
def bankRow (pkg : List Byte) (b : Nat) : Nat × Nat × Nat :=
  let w := le pkg (0x80 + 8 * b) 8
  (bits w 0 2, bits w 2 5, bits w 7 2)

/-- Remote-map banks of a stand on a hub die. -/
def remoteBanks (sec : List Byte) (h : Nat) : List Nat := (bitsOf 64 (secBanks sec)).filter (fun b => b / 32 == h)

/-! Step 7: fields in range and reserved bits 0 -/

/-- A register value that the image may carry: RW fields alone, each with an admitted value, and not FREEZE. -/
def imageValue (r : Reg) (v : Nat) : Bool :=
  r.writeAdmits v && !(r == .ARB_CTRL && bit v 0) &&
  r.fields.foldl (fun w f => if f.acc = .rw then setBits w f.lo f.w 0 else w) v == 0

/-- The registers of a port record and their offsets. -/
def portRecordRegs : List (Reg × Nat × Nat) :=
  [(.FAB_PORT_CTRL, 0, 0), (.FAB_PORT_MAC, 0, 8), (.FAB_PORT_IPV6_HI, 0, 16), (.FAB_PORT_IPV6_LO, 0, 24)] ++
  (List.range 8).map (fun c => (Reg.SHP_CBS, c, 32 + 8 * c)) ++
  [(.GCL_CTRL, 0, 96), (.GCL_ADMIN_BASE_TIME, 0, 104), (.GCL_ADMIN_CYCLE, 0, 112)]

/-- The start of port `p`'s record. -/
def portRecord (p : Nat) : Nat := 0x2460 + 4224 * p

/-- The gate list of a port record. -/
def recordList (pkg : List Byte) (p : Nat) : GateList :=
  let at_ := portRecord p
  ⟨le pkg (at_ + 104) 8, le pkg (at_ + 112) 8, (List.range (bits (le pkg (at_ + 96) 8) 4 10)).map (fun i =>
    le pkg (at_ + 128 + 8 * i) 8)⟩

/-- An entry of a port list without reserved bits, of a length in range, and closed in a calibration window. -/
def portEntryOk (e : Nat) : Bool := bits e 9 23 == 0 && decide (32 ≤ bits e 32 32) && !(bit e 8 && bits e 0 8 != 0)

/-- A DDR5 record under R23. -/
def ddrRecordOk (w : Nat) : Bool :=
  let type := bits w 0 2
  bits w 4 12 == 0 && w / 2 ^ 48 == 0 && type != 3 && (type == 0 ||
    (decide (bits w 16 16 ≤ if type = 1 then 6400 else 8800) && decide (1 ≤ bits w 2 2) &&
     decide (bits w 2 2 ≤ if type = 1 then 2 else 1) && decide (1 ≤ bits w 32 16) && decide (bits w 32 16 ≤ 256)))

/-- The PACKAGE section's own fields. -/
def packageFields (pkg : List Byte) : Bool :=
  let w0 := wordOf pkg 0
  let w1 := wordOf pkg 1
  let mhz := bits w0 16 16
  pkg.length == 76896 && bits w0 2 14 == 0 && w0 / 2 ^ 32 == 0 && decide (4000 ≤ mhz ∧ mhz ≤ 7600) && mhz % 100 == 0 &&
  decide (1000 ≤ bits w1 0 16 ∧ bits w1 0 16 ≤ 4400) && decide (100 ≤ bits w1 16 16 ∧ bits w1 16 16 ≤ 1200) &&
  decide (25 ≤ bits w1 32 16 ∧ bits w1 32 16 ≤ 250) && w1 / 2 ^ 48 == 0 &&
  ([0, 1].all fun h =>
    imageValue .FAB_ENCAP (le pkg (0x10 + 16 * h) 4) && imageValue .FAB_ACK (le pkg (0x14 + 16 * h) 4) &&
    imageValue .SHP_TIME_CTRL (le pkg (0x18 + 16 * h) 4) && imageValue .ASR_CTRL (le pkg (0x1C + 16 * h) 4) &&
    (List.range 8).all (fun c => imageValue .FAB_CLASS_MAP (le pkg (0x30 + 32 * h + 4 * c) 4)) &&
    (let n := le pkg (0x440 + 4112 * h) 8
     decide (1 ≤ n ∧ n ≤ 512) && le pkg (0x448 + 4112 * h) 8 == 0 &&
     (List.range 512).all (fun i =>
       let e := le pkg (0x450 + 4112 * h + 8 * i) 8
       if n ≤ i then e == 0
       else bits e 0 16 == 0 && bits e 23 9 == 0 && bits e 21 2 != 3 && decide (bits e 16 5 < 24)))) &&
  (List.range 8).all (fun c => bits (le pkg (0x70 + c) 1) 5 2 == 0 && decide (bits (le pkg (0x70 + c) 1) 0 5 < 24)) &&
  le pkg 0x70 1 == 0 && le pkg 0x78 8 == 0 &&
  (List.range 64).all (fun b =>
    let w := le pkg (0x80 + 8 * b) 8
    w / 2 ^ 9 == 0 && bits w 7 2 != 3 && decide (bits w 2 5 < 24)) &&
  (List.range 16).all (fun k => ddrRecordOk (le pkg (0x280 + 8 * k) 8)) &&
  (List.range 37).all (fun i => imageValue .ARB_CTRL (le pkg (0x300 + 8 * i) 8)) &&
  (List.range 16).all (fun p =>
    portRecordRegs.all (fun x => imageValue x.1 (le pkg (portRecord p + x.2.2) 8)) && le pkg (portRecord p + 120) 8 == 0 &&
    (let l := recordList pkg p
     decide (1 ≤ l.entries.length ∧ l.entries.length ≤ 512 ∧ 1000 ≤ l.cycle ∧ l.cycle ≤ 1000000000) &&
     l.entries.all portEntryOk))

/-- A stand section's own fields (Tables 16.4 and 8.6). -/
def standFields (pkg b : List Byte) : Bool :=
  let w := wordOf b
  let inRange := fun (x lo hi : Nat) => x == 0 || decide (lo ≤ x ∧ x ≤ hi)
  let pair := w 0x30
  if secDelete b then b == patchLe (zeros 512) 0 8 (secStand b + 2 ^ 15)
  else
    b.length == 512 && decide (secStand b < 24) && w 0 / 2 ^ 56 == 0 && secModels b != [] && decide (secDrainMs b ≤ 60000) &&
    (secSequencer b).all (· < 24) && w 1 / 2 ^ 48 == 0 && !bit (secHalfStacks b) 0 && w 3 / 2 ^ 52 == 0 &&
    secBase b % pageSize == 0 && w 7 == 0 &&
    (secModels b).all (fun m =>
      bits (w (8 + 2 * m)) 9 3 == 0 && w (9 + 2 * m) / 2 ^ 8 == 0 && w (9 + 2 * m) != 0) &&
    inRange (bits (w 0x18) 0 16) 16 65520 && bits (w 0x18) 0 4 == 0 && inRange (bits (w 0x18) 32 16) 16 16384 &&
    decide (bits (w 0x18) 48 10 ≤ 1000) && w 0x18 / 2 ^ 58 == 0 && bits (w 0x19) 0 18 != 0 &&
    decide (bits (w 0x19) 0 18 ≤ 131072) && bits (w 0x19) 18 14 == 0 && w 0x19 / 2 ^ 48 == 0 && w 0x1A / 2 ^ 48 == 0 &&
    (secRole pkg b == 2 || (w 0x1A != 0 && w 0x1A % pageSize == 0)) &&
    (sub b 0xD8 0x28).all (· == 0) &&
    (List.range 16).all (fun c => bits (w (0x20 + c)) 9 7 == 0 && w (0x20 + c) / 2 ^ 24 == 0) &&
    bits pair 7 1 == 0 && pair / 2 ^ 12 == 0 &&
    (!bit pair 0 || ((secModels b).contains (bits pair 1 3) && (secModels b).contains (bits pair 4 3) &&
      decide (1 ≤ bits pair 8 4))) &&
    w 0x31 / 2 ^ 48 == 0 && (sub b 0x190 0x70).all (· == 0)

/-! Step 8: the layout (R24, R25) -/

/-- Every stand holds groves, as many on each of its dies. -/
def layoutOk (b : List Byte) : Bool :=
  let g := bitsOf 24 (secGroves b)
  let dies := distinct (g.map (· / 4))
  let count := fun d => (g.filter (fun x => x / 4 == d)).length
  g != [] && dies.all (fun d => count d == count (dies.headD 0))

/-- No two masks of a list meet. -/
def apart : List Nat → Bool
  | [] => true
  | m :: l => l.all (fun x => x &&& m == 0) && apart l

/-- No number twice. -/
def oneEach (l : List Nat) : Bool := (distinct l).length == l.length

/-- Stand numbers and named sequencers are distinct, groves are held once, and every stand finds a sequencer. -/
def Plan.layoutValid (p : Plan) (out : Nat) : Bool :=
  p.stands.all layoutOk && apart (p.stands.map secGroves) && oneEach (p.stands.map secStand) &&
  oneEach (p.stands.filterMap (p.named out)) && (p.sequencers out).isSome

/-! Step 9: allotments -/

/-- The hub die of a stand's sequencer. -/
def Plan.hubOf (p : Plan) (out n : Nat) : Nat := if (((p.sequencers out).getD []).get? n).getD 0 < 12 then 0 else 1

/-- Leaves that a range of stand addresses touches. -/
def leavesOf (base len : Nat) : Nat := if len = 0 then 0 else (base + len - 1) / 2 ^ 28 - base / 2 ^ 28 + 1

/-- A sum over the stands. -/
def Plan.sum (p : Plan) (f : List Byte → Nat) : Nat := (p.stands.map f).foldl (· + ·) 0

/-- Connection ranges on a hub die lie in 0 to 65,535 and do not meet. -/
def Plan.connsOk (p : Plan) (h : Nat) : Bool :=
  let rs := (p.stands.map (fun b => secConns b h)).filter (fun r => r.2 != 0)
  rs.all (fun r => decide (r.1 + r.2 ≤ 65536)) &&
  (List.range rs.length).all (fun i => (List.range i).all (fun j =>
    let a := rs.getD i (0, 0)
    let b := rs.getD j (0, 0)
    !meets a.1 (a.1 + a.2) b.1 (b.1 + b.2)))

/-- The banks of a stand (R284): those of its section are those of the bank table, with width 1, on every home hub die of
its groves and on its sequencer's. -/
def Plan.banksOk (p : Plan) (out : Nat) (b : List Byte) : Bool :=
  let n := secStand b
  let hubs := distinct (p.hubOf out n :: (bitsOf 24 (secGroves b)).map (fun g => homeHub (g / 4)))
  let used := [0, 1].filter (fun h => !(remoteBanks b h).isEmpty)
  (List.range 64).all (fun k => ((bankRow p.pkg k).1 == 1 && (bankRow p.pkg k).2.1 == n) == (secBanks b).testBit k) &&
  hubs.all (fun h => used.contains h) &&
  used.all (fun h => decide (bits (wordOf b 3) 21 20 ≤ 4096 * (remoteBanks b h).length))

/-- The hub list of a hub die (R275, R346). -/
def Plan.hubListOk (p : Plan) (h : Nat) : Bool :=
  let l := frameEntries p.pkg h p.isSealed
  l.all (fun e => decide (2000 ≤ bits e 32 32 ∧ bits e 32 32 ≤ 10000000)) && l.any (fun e => bits e 21 2 == 0) &&
  decide ((l.map (fun e => bits e 32 32)).foldl (· + ·) 0 ≤ 10000000) &&
  (p.stands.filter secSealed).all (fun b => l.any (fun e => bits e 21 2 == 1 && bits e 16 5 == secStand b))

/-- Class reservations (R274, R347): every sealed stand with connections has one class, and no class's gate opens with
another's. -/
def Plan.reservationsOk (p : Plan) : Bool :=
  let own := (List.range 8).filterMap (reservation p.pkg)
  let need := p.stands.filter (fun b => secSealed b && secAllotted b)
  oneEach own && need.all (fun b => own.contains (secStand b)) &&
  (List.range 16).all (fun q => (recordList p.pkg q).entries.all (fun e =>
    (List.range 8).all (fun c => !(bits p.classOwners (8 * c + 7) 1 == 1 && (bits e 0 8).testBit c) || bits e 0 8 == 2 ^ c)))

/-- The program object of a stand lies in its T0 and its leaves, `len` bytes long. -/
def objectFits (b : List Byte) (len : Nat) : Bool :=
  decide (secBase b + len ≤ 2 ^ 48) && decide (leavesOf (secBase b) len ≤ bits (wordOf b 4) 0 32) &&
  decide (ceilDiv (len / pageSize) (popcount 24 (secGroves b)) ≤ framesPerGrove)

/-- Step 9 as a whole. -/
def Plan.allotmentsOk (p : Plan) (out : Nat) : Bool :=
  apart (p.stands.map secHalfStacks) && apart (p.stands.map secChannels) &&
  p.stands.all (fun b => (bitsOf 16 (secChannels b)).all (fun k => bits (le p.pkg (0x280 + 8 * k) 8) 0 2 != 0)) &&
  p.connsOk 0 && p.connsOk 1 && decide (p.sum (fun b => bits (wordOf b 3) 0 21) ≤ 1048576) &&
  decide (p.sum (fun b => bits (wordOf b 4) 0 32) ≤ 393216) &&
  ([0, 1].all fun h =>
    let here := p.stands.filter (fun b => p.hubOf out (secStand b) == h)
    decide ((here.map (fun b => bits (wordOf b 4) 32 32)).foldl (· + ·) 0 ≤ 67108864) &&
    decide ((here.map (fun b => bits (wordOf b 3) 41 11)).foldl (· + ·) 0 ≤ 3072) && p.hubListOk h &&
    (List.range 32).any (fun k => (bankRow p.pkg (32 * h + k)).1 == 2)) &&
  p.stands.all (fun b =>
    let q := bits (wordOf b 3) 41 11
    (if secSealed b then decide (1 ≤ q ∧ q ≤ 1024) else q == 0) && p.banksOk out b) &&
  (List.range 64).all (fun k =>
    match bankRow p.pkg k with
    | (1, _, w) => w == 0
    | (2, _, w) => w == 0
    | (3, _, w) => w == 1
    | _ => true) &&
  p.reservationsOk

/-! Step 10: programs (R350) -/

/-- The environment of the checks made during validation: the program object's content where it will lie, every other
address taken for mapped. -/
def staticEnv (b : List Byte) (object : List Byte) : ProgEnv :=
  let g := bitsOf 24 (secGroves b)
  let dies := distinct (g.map (· / 4))
  let base := secBase b
  { read := fun a len => if base ≤ a ∧ a + len ≤ base + object.length then some (sub object (a - base) len) else none,
    mapped := fun _ => true,
    dies := dies.length,
    forms := fun k =>
      dies.all (fun d => (List.range (16 / 2 ^ k)).any (fun j =>
        (List.range (2 ^ k)).all (fun i => g.contains (4 * d + (j * 2 ^ k + i) / 4)))) }

/-- The status of a stand's program checks: 0, PROGRAM_INVALID or FORMAT_UNSUPPORTED. -/
def programStatus (b : List Byte) (blobs : List (List Byte)) : Nat :=
  let object := objectBytes blobs
  let env := staticEnv b object
  let k := (secModels b).length
  let model := fun (i m : Nat) => firstFault
    [invalidUnless (!bit (wordOf b (8 + 2 * m)) 8 || bits (wordOf b (8 + 2 * m)) 12 4 ≤ 6),
     invalidUnless (bits (wordOf b (8 + 2 * m)) 32 32 != 0),
     env.programFault (secBase b + blobOffset blobs i)]
  let pair := wordOf b 0x30
  match firstFault ((secModels b).zipIdx.map (fun x => model x.2 x.1) ++
      [kernelsFault (blobs.getD k []), invalidUnless (!bit pair 0 || wordOf b 0x31 != 0)]) with
  | none => 0
  | some 0x0107 => 0x0B
  | some _ => 0x0A

/-! Validation (Table 16.6) -/

/-- Step 6: the directory of an image of KIND `kind`, over the base image of a stand image. -/
def directoryOk (kind : Nat) (base b : List Byte) : Bool :=
  let d := directory b
  let count := d.length
  let stands := d.filter (·.type == 2)
  let own := d.filter (fun e => !e.fromBase)
  decide (1 ≤ count ∧ count ≤ 1024) && decide (256 + 64 * count ≤ signedLength b) &&
  d.all (fun e => e.clean && decide (1 ≤ e.type ∧ e.type ≤ 5) &&
    (if e.fromBase then
      kind == 2 && decide (3 ≤ e.type) && e.offset == 0 && e.length == 0 &&
      (directory base).any (fun x => x.type == e.type && x.hash == e.hash)
     else
      e.offset % 64 == 0 && decide (256 + 64 * count ≤ e.offset) && decide (e.offset + e.length ≤ signedLength b) &&
      sha256 (sectionBytes b e) == e.hash) &&
    (e.type != 5 || decide (e.length ≤ 1048576))) &&
  (List.range own.length).all (fun i => (List.range i).all (fun j =>
    let x := own.getD i ⟨0, 0, false, 0, 0, [], true⟩
    let y := own.getD j ⟨0, 0, false, 0, 0, [], true⟩
    !meets x.offset (x.offset + x.length) y.offset (y.offset + y.length))) &&
  oneEach ((d.filter (fun e => 3 ≤ e.type)).map (fun e => 256 * e.type + e.index)) &&
  (d.filter (·.type == 1)).length == (if kind = 1 then 1 else 0) &&
  stands.all (fun e => e.length == 512 && secStand (sectionBytes b e) == e.index) &&
  (kind == 1 || (stands.length == 1 && stands.all (fun e => e.index == imageStand b))) &&
  stands.all (fun e => (secBlobs (sectionBytes b e)).all (fun x => d.any (fun y => y.type == x.1 && y.index == x.2)))

/-- The stand sections of an image. -/
def standSections (b : List Byte) : List (List Byte) := ((directory b).filter (·.type == 2)).map (sectionBytes b)

/-- The PACKAGE section of an image. -/
def packageSection (b : List Byte) : List Byte :=
  (((directory b).find? (·.type == 1)).map (sectionBytes b)).getD []

/-- The status of a list of checks, each with its status on failure. -/
def firstStatus : List (Bool × Nat) → Nat
  | [] => 0
  | (ok, st) :: l => if ok then firstStatus l else st

/-- Steps 7 to 10 over a plan; `check` are the sections whose own fields and programs are checked, with their blobs. -/
def planStatus (p : Plan) (out : Nat) (check : List (List Byte × List (List Byte))) : Nat :=
  let st := firstStatus
    [(packageFields p.pkg && check.all (fun x => standFields p.pkg x.1), 4),
     (p.layoutValid out, 8),
     (p.allotmentsOk out && check.all (fun x => secDelete x.1 || objectFits x.1 (objectBytes x.2).length), 9)]
  if st ≠ 0 then st
  else ((check.filter (fun x => !secDelete x.1)).map (fun x => programStatus x.1 x.2)).foldl (fun a b => if a = 0 then b else a) 0

/-- Steps 2 to 5: the header, the owner and the signature. -/
def State.headStatus (s : State) (kind room : Nat) (b : List Byte) : Nat :=
  let key := sub b 64 60
  firstStatus
    [(headerValid (bits (s.reg .GLB_ID 0 0) 16 8) kind room b, 4),
     (s.fuses.ownerHash == some (sub (sha256 key) 0 32), 5),
     (hssOk key (sub b 0 (signedLength b)) (sub b (signedLength b) (le b 36 4)), 6),
     (decide (le b 12 4 ≤ s.fld Fld.HWD_SVN_RUNNING_SVN), 7)]

/-- The image in a range, as long as its header says and no longer than the range allows. -/
def State.imageIn (s : State) (r : FlashRange) : List Byte :=
  s.flashRead r 0 (min r.commitAt (max 256 (imageLength (s.flashRead r 0 256))))

/-- The plan of a package image. -/
def packagePlan (b : List Byte) : Plan := { pkg := packageSection b, stands := standSections b }

/-- Steps 2 to 10 for a package image in a slot. -/
def State.packageStatus (s : State) (r : FlashRange) : Nat :=
  let b := s.imageIn r
  let st := s.headStatus 1 r.commitAt b
  if st ≠ 0 then st
  else if !directoryOk 1 [] b || (standSections b).any secDelete then 4
  else planStatus (packagePlan b) s.sequencersOut ((standSections b).map (fun x => (x, objectBlobs [] b x)))

/-- The image in the active slot. -/
def State.baseImage (s : State) : List Byte :=
  match s.image.active with
  | some a => s.imageIn (slotRange a)
  | none => []

/-- The plan of the package as it is, with one stand's section replaced, added or left out. -/
def State.planWith (s : State) (n : Nat) (sec : List Byte) : Plan :=
  let others := s.image.sections.filter (fun e => e.1 != n)
  { pkg := s.image.package, stands := others.map (·.2.2) ++ (if secDelete sec then [] else [sec]),
    held := (others.filter (fun e => s.standValid e.1)).map (fun e => (e.1, s.layout Fld.GLB_STAND_SEQUENCER e.1)) }

/-- Steps 2 to 10 for a stand image in cell `k`, against the package as it is. The target's stand is the cell's. -/
def State.standStatus (s : State) (k : Nat) : Nat :=
  let r := cellRange k
  let b := s.imageIn r
  let base := s.baseImage
  let sec := (standSections b).headD []
  let st := s.headStatus 2 r.commitAt b
  if st ≠ 0 then st
  else if !directoryOk 2 base b || imageBase b != s.image.seq || imageStand b != k / 2 then 4
  else planStatus (s.planWith (secStand sec) sec) s.sequencersOut [(sec, objectBlobs base b sec)]

/-! Loading sections into the machine -/

/-- The policy of a stand (Table 16.4), whose program object holds `blobs`. -/
def standCfg (b : List Byte) (blobs : List (List Byte)) : StandCfg :=
  let w := wordOf b
  let pair := w 0x30
  let model : Nat × Nat → ModelCfg := fun x =>
    { canopy := bit (w (8 + 2 * x.1)) 8, canopyTpp := bits (w (8 + 2 * x.1)) 12 4, modelId := bits (w (8 + 2 * x.1)) 16 16,
      vocab := bits (w (8 + 2 * x.1)) 32 32, steps := bits (w (9 + 2 * x.1)) 0 8,
      program := secBase b + blobOffset blobs x.2 }
  let cls : Nat → ClassCfg := fun c =>
    { fallback := bit (w (0x20 + c)) 0, tolerance := bits (w (0x20 + c)) 1 8, fallbackClass := bits (w (0x20 + c)) 16 8 }
  { tenant := bits (w 0) 16 16, connections := w 2, regions := bits (w 3) 0 21,
    mapEntries := bits (w 3) 21 20, bundleQuota := bits (w 3) 41 11, mapLeaves := bits (w 4) 0 32,
    canopyNodes := bits (w 4) 32 32, searchBanks := w 5, programBase := secBase b,
    kernels := secBase b + blobOffset blobs (secModels b).length,
    models := (secModels b).zipIdx.foldl (fun (m : SMap ModelCfg) x => m.set x.1 (model x)) [],
    rowBudget := bits (w 0x18) 0 16, slotMax := bits (w 0x18) 16 16, prefillChunk := bits (w 0x18) 32 16,
    maskWaitUs := bits (w 0x18) 48 10, reqMax := bits (w 0x19) 0 18, retainMs := bits (w 0x19) 32 16,
    manifest := w 0x1A,
    classes := (List.range 16).foldl (fun (m : SMap ClassCfg) c => m.set c (cls c)) [],
    pair := if bit pair 0 then some ⟨bits pair 1 3, bits pair 4 3, bits pair 8 4, bits (w 0x31) 0 48⟩ else none }

/-- GLB_STAND_n of a section under a sequencer. -/
def layoutWord (pkg b : List Byte) (q : Nat) : Nat :=
  secGroves b + 2 ^ 24 + secRole pkg b * 2 ^ 25 + b01 (secSealed b) * 2 ^ 27 + q * 2 ^ 28 + secHalfStacks b * 2 ^ 33 +
    secChannels b * 2 ^ 41

/-- Registers that a package section loads at start, but for the gate lists, which start on their own. -/
def State.loadPackage (s : State) (pkg : List Byte) : State :=
  let w1 := wordOf pkg 1
  let s := { s with image := { s.image with package := pkg } }
  let s := { s with power := { s.power with limitW := bits w1 0 16, rampW := bits w1 16 16, slewA := bits w1 32 16 } }
  let s := s.setFld Fld.CLK_STATUS_ROOT_MHZ 0 0 (bits (wordOf pkg 0) 16 16)
  let s := [0, 1].foldl (fun s h =>
    let s := (((s.setReg .FAB_ENCAP h 0 (le pkg (0x10 + 16 * h) 4)).setReg .FAB_ACK h 0 (le pkg (0x14 + 16 * h) 4)).setReg
      .SHP_TIME_CTRL h 0 (le pkg (0x18 + 16 * h) 4)).setReg .ASR_CTRL h 0 (le pkg (0x1C + 16 * h) 4)
    (List.range 8).foldl (fun s c => s.setReg .FAB_CLASS_MAP h c (le pkg (0x30 + 32 * h + 4 * c) 4)) s) s
  let s := (List.range 64).foldl (fun s b =>
    let r := bankRow pkg b
    s.setReg .ASR_BANK_CFG (b / 32) (b % 32) (r.1 + r.2.1 * 2 ^ 2 + r.2.2 * 2 ^ 7 + 2 ^ 9 + 2 ^ 10)) s
  let s := (List.range 37).foldl (fun s i => s.setReg .ARB_CTRL i 0 (le pkg (0x300 + 8 * i) 8)) s
  (List.range 16).foldl (fun s p =>
    let s := portRecordRegs.foldl (fun s x => s.setReg x.1 p x.2.1 (le pkg (portRecord p + x.2.2) 8)) s
    (List.range 512).foldl (fun s i => s.setReg .GCL_ADMIN_ENTRY p i (le pkg (portRecord p + 128 + 8 * i) 8)) s) s

/-- DDR5 channels named in the package section trained. -/
def State.trainDdr (s : State) (pkg : List Byte) : State :=
  (List.range 16).foldl (fun s k =>
    let w := le pkg (0x280 + 8 * k) 8
    if bits w 0 2 = 0 then s
    else s.setReg .DDR_CHAN k 0 (bits w 0 4 + 2 ^ 4 + 2 ^ 5 + bits w 16 16 * 2 ^ 16 + bits w 32 16 * 2 ^ 32)) s

/-- Stands that exist, as a plan. -/
def State.livePlan (s : State) : Plan :=
  { pkg := s.image.package, stands := (s.image.sections.filter (fun e => s.standValid e.1)).map (·.2.2) }

/-- The hub lists and reservations recomposed after a stand was created, deleted or changed its sealing: they take effect
at the next cycle start of each list (R346, R347, R275, Table 16.9). -/
def State.recompose (s : State) : State :=
  let p := s.livePlan
  [0, 1].foldl (fun s h => s.updHub h (fun u =>
    { u with nextList := some (frameEntries p.pkg h p.isSealed), nextOwners := some p.classOwners })) s

end Sys2Proof.Machine
end

