-- ==== Sys2Proof/Machine/Life.lean ====
section
/-! DEFINITION. The life of a stand: drain, reset, erasure, zeroing and installation; stand stops; the HDM staging
half-stack; and the end of self-tests (17_startup_reset_test.md R369-R374; 16_configuration_image.md R349, R358, R359;
14_trust_attestation.md R322; 19_faults_events.md R397; 20_host_interface.md R411). -/

namespace Sys2Proof.Machine

open Sys2Proof

/-- The life of a stand changed. -/
def State.updLife (s : State) (n : Nat) (f : Life → Life) : State := s.updStand n (fun st => { st with life := f st.life })

/-- PHASE of CFG_REPLACE. -/
def State.replacePhase (s : State) (k : Nat) : State := s.setFld Fld.CFG_REPLACE_PHASE 0 0 k

/-- The replacement in progress is of stand `n`. -/
def State.replacing (s : State) (n : Nat) : Bool := s.image.replace.any (fun r => r.stand == n)

/-! Self-tests (R371-R374) -/

/-- Groves under test, as a mask. -/
def State.underTest (s : State) : Nat := s.fld Fld.RST_GROVE_STATUS_UNDER_TEST

/-- The test of grove `g` ends with a RESULT: the first that is not OK stays, and STATE is DONE after the last. -/
def State.testEnd (s : State) (g result : Nat) : State :=
  if !(s.underTest ||| s.tests.waiting).testBit g then s
  else
    let off := fun m : Nat => if m.testBit g then m ^^^ 2 ^ g else m
    let s := { s with tests := { s.tests with waiting := off s.tests.waiting } }
    let s := s.setFld Fld.RST_GROVE_STATUS_UNDER_TEST 0 0 (off s.underTest)
    let s := if s.fld Fld.RST_TEST_STATUS_RESULT = 0 then s.setFld Fld.RST_TEST_STATUS_RESULT 0 0 result else s
    s.setFld Fld.RST_TEST_STATUS_STATE 0 0
      (if s.underTest ≠ 0 then 2 else if s.tests.waiting ≠ 0 then 1 else 3)

/-- The tests of the listed groves end ABORTED (R374). -/
def State.testsAborted (s : State) (gs : List Nat) : State := gs.foldl (fun s g => s.testEnd g 3) s

/-! The end of a drain (Table 17.4, step 2) -/

/-- Sapway moves of a stand that is reset fail (09_state_movement.md R216): what was sent whole is the receiver's, and
every other move loses its state. -/
def State.failMoves (s : State) (n : Nat) : State :=
  let one := fun (s : State) (b : Sending) =>
    match s.sending n b.header.bundle with
    | none => s
    | some b =>
      if !b.final then s.cancelMove n b 0x19
      else if b.phase = .done ∧ (b.purpose = .handoff ∨ b.purpose = .fallback) then s.dropSending n b.header.bundle
      else s.loseMove n b
  let s := (s.stand n).sapway.sending.foldl one s
  (s.stand n).sapway.arrivals.foldl (fun s a => (s.reply a 6 0x19 []).endArrival n a false) s

/-- An unreported count raised: of the replacement or of the reset (R359, RST_STAND_CMD). -/
def State.unreported (s : State) (n k : Nat) : State :=
  if (s.stand n).life.cause = .replacement then s.satFld Fld.CFG_REPLACE_UNREPORTED 0 0 k
  else s.satFld Fld.RST_STAND_CMD_UNREPORTED 0 0 k

/-- Completion entries that wait for room. -/
def Stand.entriesWaiting (st : Stand) : Nat := (st.cqWaiting.map (fun e => e.2.length)).foldl (· + ·) 0

/-- A mailbox command in progress ends. -/
def State.endJoin (s : State) (n status : Nat) : State :=
  match (s.stand n).join with
  | some _ => (s.updStand n (fun st => { st with join := none })).boxDone (heartBox n) { status := status }
  | none => s

/-- The DDR5 key of a stand is gone: what its channels hold cannot be decrypted (07_memory_tiers.md R146). -/
def State.forgetDdr (s : State) (chans : List Nat) : State :=
  chans.foldl (fun s k =>
    { s with mem := s.mem.forget ((Space.ddr k).key 0) ((Space.ddr k).key 0 + spaceSize) s.freeCtr,
             freeCtr := s.freeCtr + 1 }) s

/-- The keys of a stand erased, first in Heartwood, with a message to the relay (14_trust_attestation.md R322). -/
def State.eraseKeys (s : State) (n : Nat) : State :=
  let s := s.updStand n (fun st => { st with cond := .resetting })
  let s := s.endJoin n 4
  let s := s.updStand n (fun st => { st with weightKeys := [], jobKeys := [], kem := none })
  let s := (s.forgetDdr (s.channels n)).canopyCheck n
  s.updHeart (fun h => { h with relaySent := h.relaySent + 1 })

/-- The end of a reset that RST_STAND_CMD started. -/
def State.commandDone (s : State) : State :=
  let more := (List.range 24).any (fun k => (s.stand k).life.cause == .command && (s.stand k).life.stage != .steady)
  ((s.setFld Fld.RST_STAND_CMD_BUSY 0 0 (b01 more)).setFld Fld.RST_STAND_CMD_DONE 0 0 1).setFld
    Fld.RST_STAND_CMD_RESULT 0 0 0

/-- A replacement that waits for the reset of stand `n` takes over from it (R370). -/
def State.takeOver (s : State) (n : Nat) : State :=
  let old := (s.stand n).life.cause
  if s.replacing n ∧ old ≠ .replacement then
    let s := s.updLife n (fun l => { l with cause := .replacement })
    if old = .command then s.commandDone else s
  else s

/-- Step 3 of a reset, or step 4 of Table 16.9. -/
def State.startErase (s : State) (n : Nat) : State :=
  let s := s.takeOver n
  let s := if s.replacing n then s.replacePhase 3 else s
  (s.updLife n (fun l => { l with stage := .erasing })).eraseKeys n

/-- The drain of stand `n` ends: its step is abandoned, its requests complete STATE_LOST, its moves fail and its tests
are aborted. A function-level reset writes no completion entries. Entries that find no room are written for at most
100 ms more. -/
def State.drainEnd (s : State) (n : Nat) : State :=
  let flr := (s.stand n).life.cause == .flr
  let s := match (s.stand n).step with
    | some st => (s.abandon n 0x23 st.atOp).updStand n (fun x => { x with step := none })
    | none => s
  let s := (s.failMoves n)
  let s := (s.stand n).requests.foldl (fun (s : State) r => if flr then s.finish n r 0x0C else s.endWith n r 0x0C) s
  let s := if flr then s else (s.cqInterrupts n)
  let s := s.testsAborted (s.groves n)
  if flr then (s.updStand n (fun st => { st with cqWaiting := [] })).startErase n
  else if (s.stand n).entriesWaiting = 0 then s.startErase n
  else s.updLife n (fun l => { l with stage := .reporting })

/-- A reset accepted (Table 17.4, step 1): intake stops, and steps go on until the drain ends. -/
def State.startReset (s : State) (n : Nat) (cause : LifeCause) (drainMs : Nat) : State :=
  let s := s.updLife n (fun _ => { stage := .draining, cause := cause, drainMs := drainMs })
  if drainMs = 0 ∨ (s.stand n).requests.isEmpty then s.drainEnd n else s

/-! Release of what a stand held (Table 17.4, step 4) -/

/-- Register `r` of instance `i` is stand `n`'s and returns to its reset value: all but the counters of
08_serving_scheduler.md R184. -/
def standReg (n : Nat) (r : Reg) (i : Nat) : Bool :=
  i == n && (r.info.count == 24 || r.info.count == 25) && r != .SCH_ACCT && r != .SCH_SNAP

/-- The counters and errors of a cluster that joins or leaves a stand (03_matrix_cores.md R80; 04_vector_cores.md R102). -/
def clusterRegs : List Reg :=
  [.MXC_STATUS, .MXC_BUSY_CYCLES, .MXC_STALL_CYCLES, .MXC_PASSES, .MXC_ERROR, .MXC_ERROR_INFO, .VEC_BUSY_CYCLES,
   .VEC_TASKS, .VEC_KERNEL_LOADS, .VEC_LS_CORRECTED, .VEC_ERROR, .VEC_ERROR_INFO]

/-- The registers of clusters reset. -/
def State.resetClusters (s : State) (cs : List Nat) : State :=
  cs.foldl (fun s c => clusterRegs.foldl (fun s r => s.resetReg r c 0) s) s

/-- A key of a register table belongs to stand `n`. -/
def standKey (n off : Nat) : Bool :=
  match Reg.find off with
  | some (r, i, _) => standReg n r i
  | none => false

/-- Everything that a stand held released: regions without drain, connections, groups, remote-map entries, tasks, and its
registers. Its accounting stays. -/
def State.releaseStand (s : State) (n : Nat) : State :=
  let cs := s.clusters n
  let s := (s.conns.filter (fun c => c.2.stand == n)).foldl (fun s c =>
    ({ s with conns := s.conns.del c.1 }).dropQueued (c.1 / 65536) (c.1 % 65536)) s
  let s := [0, 1].foldl (fun s h => s.setTable (remoteTable h n) []) s
  let s := s.resetClusters cs
  let st := s.stand n
  let fresh : Stand :=
    { cond := st.cond, life := st.life, cfg := st.cfg, energyRest := st.energyRest, activity := st.activity }
  { s with
    regs := s.regs.filter (fun e => !standKey n e.1)
    laps := s.laps.filter (fun e => !standKey n e.1)
    swyWaiting := s.swyWaiting.del n
    regions := s.regions.filter (fun r => r.2.stand != n)
    groups := s.groups.filter (fun g => g.2.stand != n)
    packs := s.packs.filter (fun p => p.stand != n)
    cores := s.cores.filter (fun c => !cs.contains (c.1 / 864))
    host := { s.host with copyMsgAt := s.host.copyMsgAt.del n }
    power := if s.sealedStand n then
        { s.power with sealed := s.power.sealed.set n { stopping := (cs.filter (fun c => s.power.clocked (.matrix c))).reverse } }
      else s.power
    stands := s.stands.set n fresh }

/-! Claims and the staging half-stack (R411) -/

/-- Half-stacks that stands hold, those that are being installed included. -/
def State.halvesHeld (s : State) : Nat :=
  (List.range 24).foldl (fun m n =>
    let own := if s.standValid n then s.layout Fld.GLB_STAND_HUB_HALF_STACKS n else 0
    let next := if (s.stand n).life.stage = .zeroing then
        ((s.image.sections.get? n).map (fun e => secHalfStacks e.2)).getD 0 else 0
    m ||| own ||| next) 0

/-- The window keeps its half-stack while no stand holds it; otherwise it loses its backing, and the lowest free one is
zeroed to take its place. There is a window in RUNNING only (16_configuration_image.md R355). -/
def State.stageHdm (s : State) : State :=
  if s.phase ≠ .running then s else
  let held := s.halvesHeld
  let has := s.flag Fld.GLB_HDM_STATUS_BACKED || s.flag Fld.GLB_HDM_STATUS_ZEROING
  let cur := s.fld Fld.GLB_HDM_STATUS_HALF_STACK
  if has && !held.testBit cur then s
  else
    let s := if s.flag Fld.GLB_HDM_STATUS_BACKED then s.setFld Fld.GLB_HDM_STATUS_WITHDRAWN 0 0 1 else s
    let s := s.setFld Fld.GLB_HDM_STATUS_BACKED 0 0 0
    match ((List.range 8).drop 1).find? (fun h => !held.testBit h) with
    | some h => (s.setFld Fld.GLB_HDM_STATUS_HALF_STACK 0 0 h).setFld Fld.GLB_HDM_STATUS_ZEROING 0 0 1
    | none => (s.setFld Fld.GLB_HDM_STATUS_HALF_STACK 0 0 0).setFld Fld.GLB_HDM_STATUS_ZEROING 0 0 0

/-- A half-stack set to zero. -/
def State.zeroHalf (s : State) (h : Nat) : State :=
  { s with mem := s.mem.zero ((Space.hm h).key 0) ((Space.hm h).key halfStackSize) }

/-- The T0 frames of a grove set to zero. -/
def State.zeroGrove (s : State) (g : Nat) : State :=
  { s with mem := s.mem.zero ((Space.t0 g).key 0) ((Space.t0 g).key halfStackSize) }

/-! Installation (Table 17.4, steps 5 and 6; Table 16.9, steps 5 to 7) -/

/-- The blobs of the program object of stand `n`'s section, from the image that it came from. -/
def State.blobsOf (s : State) (n : Nat) : List (List Byte) :=
  match s.image.sections.get? n with
  | some (t, sec) => objectBlobs s.baseImage ((targetRange t).map s.imageIn |>.getD []) sec
  | none => []

/-- The steward blob of stand `n`. -/
def State.stewardOf (s : State) (n : Nat) : List Byte :=
  match s.image.sections.get? n with
  | some (t, sec) =>
    (blobBytes s.baseImage ((targetRange t).map s.imageIn |>.getD []) 5 (bits (wordOf sec 6) 56 8)).getD []
  | none => []

/-- Zeroing starts for a stand whose section is settled: it is INSTALLING, and tests on its groves end. -/
def State.startZeroing (s : State) (n : Nat) : State :=
  let sec := ((s.image.sections.get? n).map (·.2)).getD []
  let s := s.updStand n (fun st => { st with cond := .installing, stopped := false, life := { st.life with stage := .zeroing } })
  let s := s.testsAborted (bitsOf 24 (secGroves sec))
  let s := if s.replacing n then s.replacePhase 4 else s
  s.stageHdm

/-- The sequencer that the stand is installed on: it keeps the one it has, else that of the plan. -/
def State.sequencerFor (s : State) (n : Nat) (sec : List Byte) : Option Nat :=
  ((s.planWith n sec).sequencers s.sequencersOut).bind (fun m => m.get? n)

/-- The program object created, with its T0 homes, and filled (R349). -/
def State.createProgram (s : State) (n : Nat) (sec : List Byte) (blobs : List (List Byte)) : State :=
  let bs := objectBytes blobs
  let o : TierObject :=
    { base := secBase sec, home := 0, hint := 2, place := 0, die := 0, pages := bs.length / pageSize, homeOffset := 0,
      regionKey := 0, regionGen := 0, conn := 0, remoteOffset := 0, indexAddr := 0, tag := 0 }
  let s := s.updStand n (fun st => { st with tiers := { st.tiers with objects := st.tiers.objects.set programObject o } })
  (s.giveHomes n o).putBytes n o.base bs

/-- Registers that show a stand's allotments. -/
def State.loadAllotments (s : State) (n : Nat) (sec : List Byte) : State :=
  ((((s.setReg .FAB_ALLOT n 0 (wordOf sec 2)).setFld Fld.FAB_REGIONS_QUOTA n 0 (bits (wordOf sec 3) 0 21)).setFld
    Fld.FMM_STATUS_MAP_ALLOTTED n 0 (bits (wordOf sec 3) 21 20)).setFld Fld.TIER_MAP_LEAVES_TOTAL n 0
      (bits (wordOf sec 4) 0 32))

/-- What is measured of a stand's programs: the program object (14_trust_attestation.md R307). -/
def State.measureInstall (s : State) (n : Nat) (sec : List Byte) (blobs : List (List Byte)) : State :=
  let s := s.updStand n (fun st => { st with smr := List.replicate 4 (List.replicate 32 0), log := [] })
  let s := s.measureStand n 0 2 n sec
  let ids := secModels sec ++ [0]
  let s := blobs.zipIdx.foldl (fun s x => s.measureStand n 1 3 (ids.getD x.2 0) x.1) s
  s.measureStand n 2 1 n (s.stewardOf n)

/-- The trigger of STAND_RESET; a creation records none. -/
def LifeCause.trigger : LifeCause → Nat
  | .command => 0
  | .flr => 1
  | .replacement => 2
  | .release => 3
  | .stop => 4
  | .start => 2

/-- A stand's installation ends: it is RUNNING. `zero` are its frames, zeroed. -/
def State.install (s : State) (n : Nat) : State :=
  match s.image.sections.get? n with
  | none => s
  | some (_, sec) =>
    match s.sequencerFor n sec with
    | none => s
    | some q =>
      let blobs := s.blobsOf n
      let s := (bitsOf 24 (secGroves sec)).foldl State.zeroGrove s
      let s := (bitsOf 8 (secHalfStacks sec)).foldl State.zeroHalf s
      let s := s.forgetDdr (bitsOf 16 (secChannels sec))
      let s := s.resetClusters ((bitsOf 24 (secGroves sec)).flatMap (fun g => [4 * g, 4 * g + 1, 4 * g + 2, 4 * g + 3]))
      let s := s.setReg .GLB_STAND 0 n (layoutWord s.image.package sec q)
      let (kem, s) := s.draw
      let (rnd, s) := s.draw
      let rnd := rnd.toNat % 2 ^ 32
      let s := s.updStand n (fun st =>
        { st with cond := .running, cfg := standCfg sec blobs, kem := some kem.toNat,
                  sapway := { st.sapway with random := rnd, counter := 0, drawn := [rnd] } })
      let s := ((s.loadAllotments n sec).createProgram n sec blobs).measureInstall n sec blobs
      let s := s.updHeart (fun h => { h with relaySent := h.relaySent + 1 })
      if s.sealedStand n then
        s.updPower (fun p => { p with sealed := p.sealed.set n { (p.sealed.get? n).getD {} with starting := s.clusters n, due := max ((p.sealed.get? n).getD {}).due s.timeNs } })
      else s

/-- The stand leaves the package: its resources are freed and GLB_STAND_n reads 0. -/
def State.removeStand (s : State) (n : Nat) : State :=
  let s := (s.setReg .GLB_STAND 0 n 0).updStand n (fun st => { st with cond := .absent, life := {}, cfg := {} })
  let s := { s with image := { s.image with sections := s.image.sections.del n } }
  s.recompose.stageHdm

/-- STAND_RESET recorded, but for a stand that the start of the package created. -/
def State.resetEvent (s : State) (n : Nat) : State :=
  let cause := (s.stand n).life.cause
  if cause = .start then s else s.eventOf n 0x0302 38 [cause.trigger]

/-- The installation of a stand as its zeroing ends, with its events. -/
def State.completeInstall (s : State) (n : Nat) : State :=
  let cause := (s.stand n).life.cause
  let s := (s.install n).recompose
  match s.image.replace with
  | some r =>
    if r.stand = n then
      let s := (s.updLife n (fun _ => {})).replacePhase 5
      ({ s with image := { s.image with replace := none } }).eventOf n 0x0303 38 [r.cell, r.seq]
    else
      let s := (s.resetEvent n).updLife n (fun _ => {})
      if cause = .command then s.commandDone else s
  | none =>
    let s := (s.resetEvent n).updLife n (fun _ => {})
    if cause = .command then s.commandDone else s

/-- A stand may be installed from its section: its groves are in service and reachable, and a sequencer is available
(19_faults_events.md R397; 17_startup_reset_test.md R366). -/
def State.mayReinstall (s : State) (n : Nat) : Bool :=
  match s.image.sections.get? n with
  | none => false
  | some (_, sec) =>
    let gs := bitsOf 24 (secGroves sec)
    match s.sequencerFor n sec with
    | none => false
    | some q =>
      gs.all (fun g => !(s.fld Fld.RST_GROVE_STATUS_OUT_OF_SERVICE).testBit g && s.reachable (q / 12) (g / 4))

/-- Events about a stand that cannot be installed: GROVE_FAILED for each of its groves out of service or reach, recorded for
the package and about the stand (Table 19.5), otherwise SEQUENCER_FAILED. -/
def State.stopEvents (s : State) (n : Nat) : State :=
  match s.image.sections.get? n with
  | none => s
  | some (_, sec) =>
    let bad := (bitsOf 24 (secGroves sec)).filter (fun g =>
      (s.fld Fld.RST_GROVE_STATUS_OUT_OF_SERVICE).testBit g || !s.reachable (s.hubOf n) (g / 4))
    if bad.isEmpty then s.eventOf n 0x0305 38 [s.layout Fld.GLB_STAND_SEQUENCER n]
    else bad.foldl (fun s g =>
      (s.event ⟨0x0105, none, homeHub (g / 4) + 6, 42, [g, n]⟩).event ⟨0x0105, some n, homeHub (g / 4) + 6, 42, [g, n]⟩) s

/-- A stand that cannot be installed leaves the package, and its reset or replacement ends. -/
def State.abandonInstall (s : State) (n : Nat) : State :=
  let cause := (s.stand n).life.cause
  let s := (s.stopEvents n).removeStand n
  let s := if cause = .command then s.commandDone else s
  if s.replacing n then ({ s with image := { s.image with replace := none } }).replacePhase 5 else s

/-- Zeroing starts, where the stand may be installed. -/
def State.reinstall (s : State) (n : Nat) : State := if s.mayReinstall n then s.startZeroing n else s.abandonInstall n

/-- The zeroing of stand `n` ended. -/
def State.finishInstall (s : State) (n : Nat) : State :=
  if s.mayReinstall n then (s.completeInstall n).testIdle n else s.abandonInstall n

/-- The relay has confirmed the erasure (Table 17.4, step 4): the stand's resources are released, and it is installed
again, replaced or deleted, or leaves. -/
def State.eraseConfirmed (s : State) (n : Nat) : State :=
  let cause := (s.stand n).life.cause
  let s := (s.releaseStand n).updStand n (fun st => { st with smr := List.replicate 4 (List.replicate 32 0), log := [] })
  match cause with
  | .replacement =>
    (match s.image.replace with
     | some ⟨_, cell, _, some sec⟩ =>
       let s := { s with image := { s.image with sections := s.image.sections.set n (16 + cell, sec) } }
       (s.resetEvent n).reinstall n
     | some ⟨_, _, _, none⟩ =>
       let s := { s with image := { s.image with replace := none } }
       (((s.resetEvent n).removeStand n)).replacePhase 5
     | none => (s.resetEvent n).removeStand n)
  | .release => (s.resetEvent n).removeStand n
  | _ => s.reinstall n

/-- A stand stop for a cause (19_faults_events.md R397): a reset without drain. A stand that is already past its drain
goes on with its reset. -/
def State.stopStand (s : State) (n cause : Nat) : State :=
  if !s.standValid n ∨ (s.stand n).stopped then s
  else
    let s := (s.eventOf n 0x0304 38 [cause]).updStand n (fun st => { st with stopped := true })
    match (s.stand n).life.stage with
    | .steady => if (s.stand n).cond = .running then s.startReset n .stop 0 else s
    | .draining =>
      let s := if s.replacing n then s
        else
          let old := (s.stand n).life.cause
          let s := s.updLife n (fun l => { l with cause := .stop })
          if old = .command then s.commandDone else s
      s.drainEnd n
    | _ => s

end Sys2Proof.Machine
end

