-- ==== Sys2Proof/Machine/Start.lean ====
section
/-! DEFINITION. Package reset, power-up and the start from flash (17_startup_reset_test.md R362-R368; 16_configuration_image.md
R354, R355; 14_trust_attestation.md R304, R307). -/

namespace Sys2Proof.Machine

open Sys2Proof

/-! Package reset (Table 17.3) -/

/-- The registers that a package reset leaves: those of R324, and TRIPS of THM_STATUS (18_power_thermal.md R391). -/
def State.keptRegs (s : State) : SMap Word :=
  let t : State := { mem := s.mem }
  let t := (t.setReg .HWD_ERROR 0 0 (s.reg .HWD_ERROR 0 0)).setReg .HWD_ERROR_INFO 0 0 (s.reg .HWD_ERROR_INFO 0 0)
  (t.setFld Fld.THM_STATUS_TRIPS 0 0 (s.fld Fld.THM_STATUS_TRIPS)).regs

/-- A package reset with a CAUSE: every block, but for the fuses, the flash, what lies outside the package, its lands, the
test access port and the I3C target (21_address_map.md R427). The memories of the package hold open content. -/
def State.packageReset (s : State) (cause : Nat) : State :=
  let t : State :=
    { pending := s.pending, freeCtr := s.freeCtr + 1, phase := s.phase, pins := s.pins, regs := s.keptRegs,
      mem := s.mem.forget (8 * spaceSize) (131072 * spaceSize) s.freeCtr,
      host := { s.host.resetConfig with session := false, ideKeys := none, copyMsgAt := [] },
      mgmt := { s.mgmt with eid := 0, response := [] },
      taskCount := s.taskCount, fuses := s.fuses }
  t.setReg .RST_CAUSE 0 0 cause

/-! Power-up, steps 1 to 6 (Table 17.2) -/

/-- RETRY_MS of HWD_STATUS: an open estimate while commands are answered TRY_LATER, otherwise 0. -/
def State.retryMs (s : State) (on : Bool) : State :=
  if on then
    let (x, s) := s.draw
    s.setFld Fld.HWD_STATUS_RETRY_MS 0 0 (1 + x.toNat % 65535)
  else s.setFld Fld.HWD_STATUS_RETRY_MS 0 0 0

/-- Firmware package `p` of slot `i` runs: it is measured, the relay is sent the package link key, the mirror is
reconciled and a block reserved, and the links and stacks train. Step 7 comes next. -/
def State.startFirmware (s : State) (i : Nat) (p : List Byte) (fails : Nat) : State :=
  let s := if s.fuses.staged = some i then s.updFuses (fun f => { f with staged := none }) else s
  let s := s.measurePkg 0 1 0 (Config.fwPart p 0)
  let s := (s.setFld Fld.CLK_STATUS_LOCKED 0 0 1).updHeart (fun h => { h with relaySent := 1 })
  let s := (s.startLeaves fails).retryMs true
  let s := (s.measurePkg 1 1 1 (Config.fwPart p 1)).measurePkg 1 1 2 (Config.fwPart p 2)
  let s := s.measurePkg 3 8 0 (toBytes 1 (s.fuses.owner.getD 0) ++ sub (s.fuses.ownerHash.getD []) 0 32)
  let s := s.measurePkg 3 8 1 (toBytes 4 s.fuses.svn)
  let s := ((s.setFld Fld.HWD_STATUS_STATE 0 0 1).setFld Fld.HWD_SVN_RUNNING_SVN 0 0 (Config.fwSvn p)).showFuses
  let s := (List.range 11).foldl State.showLink s
  let s := (List.range 16).foldl (fun s k => s.setFld Fld.HBM_STACK_TRAINED k 0 1) s
  { s with phase := .starting 7 }

/-- The boot ROM starts: it waits for REFCLK (21_address_map.md, 22_package_pins.md R441), and runs the firmware slot of the
active mark, or the other one; where both fail the package stays in the ROM state (R365). -/
def State.powerUp (s : State) (fails : Nat) : State :=
  let a := s.fuses.active
  if !s.pins.refclk then { s with phase := .noClock }
  else
    match s.firmwareOk a, s.firmwareOk (1 - a) with
    | some p, _ => s.startFirmware a p fails
    | none, some p => s.startFirmware (1 - a) p fails
    | none, none => { s with phase := .rom }

/-! Units that fail their tests (R366, R373) -/

/-- A vector core out of service: its bit in VEC_CORE_MASK. -/
def State.maskCore (s : State) (v : Nat) : State :=
  let c := v / 864
  let j := v % 864 / 64
  s.setFld Fld.VEC_CORE_MASK_OUT c j (s.fld Fld.VEC_CORE_MASK_OUT c j ||| 2 ^ (v % 864 % 64))

/-- A grove out of service, reported for the package. -/
def State.groveOut (s : State) (g : Nat) : State :=
  (s.setFld Fld.RST_GROVE_STATUS_OUT_OF_SERVICE 0 0 (s.fld Fld.RST_GROVE_STATUS_OUT_OF_SERVICE ||| 2 ^ g)).event
    ⟨0x0105, none, homeHub (g / 4) + 6, 42, [g, 0xFF]⟩

/-! Start from flash (16_configuration_image.md R354, R355) -/

/-- CFG_SLOT_A or CFG_SLOT_B: the validation of a slot with its status; a slot that is not committed and has failed no
commit shows NOT_COMMITTED. -/
def State.showSlot (s : State) (i status : Nat) : State :=
  let r := if i = 0 then Reg.CFG_SLOT_A else .CFG_SLOT_B
  match s.committed (slotRange i) with
  | none => s.setReg r 0 0 (if status = 0 then 3 else status)
  | some (_, seq) => s.setReg r 0 0 (status + 2 ^ 8 + seq % 2 ^ 32 * 2 ^ 32)

/-- IMAGE_SEQ of a committed range. -/
def State.seqOf (s : State) (r : FlashRange) : Option Nat := (s.committed r).map (·.2)

/-- Ranges of `l` that are committed, higher IMAGE_SEQ first, and in the order of `l` on a tie. -/
def State.bySeq (s : State) (range : Nat → FlashRange) (l : List Nat) : List Nat :=
  let held := l.filterMap (fun k => (s.seqOf (range k)).map (fun q => (k, q)))
  (sortBy (fun (x : Nat × Nat) => 2 ^ 64 - x.2) held).map (·.1)

/-- The first slot that passes; each one tried shows its status, and the first one tried that fails is a FALLBACK. -/
def State.chooseSlot (s : State) (first : Bool) : List Nat → State × Option Nat
  | [] => (s, none)
  | i :: rest =>
    let st := s.packageStatus (slotRange i)
    let s := s.showSlot i st
    if st = 0 then (s, some i)
    else
      let s := if st = 6 then s.flagHwd Fld.HWD_ERROR_SIGNATURE_INVALID 0 0 0 9 else s
      let s := if first then (s.setFld Fld.CFG_STATUS_FALLBACK 0 0 1).heartEvent 0x0601 none [i, st] else s
      s.chooseSlot false rest

/-- The first cell of stand `n` that passes replaces the stand's section, creates the stand or deletes it; one that fails
is recorded. -/
def State.overlay (s : State) (n : Nat) : List Nat → State
  | [] => s
  | k :: rest =>
    let b := s.imageIn (cellRange k)
    let st := s.standStatus k
    if imageBase b ≠ s.image.seq then s.overlay n rest
    else if st ≠ 0 then
      let s := if st = 6 then s.flagHwd Fld.HWD_ERROR_SIGNATURE_INVALID 0 0 0 9 else s
      (s.heartEvent 0x0602 none [k, st]).overlay n rest
    else
      let sec := (standSections b).headD []
      let secs := if secDelete sec then s.image.sections.del n else s.image.sections.set n (16 + k, sec)
      { s with image := { s.image with sections := secs } }

/-- The active image with the overlays bound to it. -/
def State.activate (s : State) (i : Nat) : State :=
  let b := s.imageIn (slotRange i)
  let secs := (standSections b).foldl (fun (m : SMap (Nat × List Byte)) x => m.set (secStand x) (i, x)) []
  let s := { s with image := { active := some i, seq := imageSeq b, package := packageSection b, sections := secs } }
  (List.range 24).foldl (fun s n => s.overlay n (s.bySeq cellRange [2 * n, 2 * n + 1])) s

/-- Gate lists of the ports and the hub dies in force, with the class reservations, for the stands of the image. -/
def State.startLists (s : State) : State :=
  let p : Plan := { pkg := s.image.package, stands := s.image.sections.map (·.2.2) }
  let s := (List.range 16).foldl (fun s i => (s.operate i (s.adminList i)).setReg .SHP_CLASS_OWNER i 0 p.classOwners) s
  [0, 1].foldl (fun s h => s.installHubList h (frameEntries p.pkg h p.isSealed)) s

/-- Steps 8 to 11 of Table 17.2 with the image of slot `i`: the package section is loaded and measured, DDR5 trains, and
the stands are created in ascending number, but for those that cannot be (R366). -/
def State.startImage (s : State) (i : Nat) : State :=
  let s := s.activate i
  let pkg := s.image.package
  let s := ((s.loadPackage pkg).measurePkg 2 2 0 pkg).trainDdr pkg
  let s := (s.setFld Fld.CFG_STATUS_STATE 0 0 2).setFld Fld.CFG_STATUS_ACTIVE_SLOT 0 0 i
  let s := ({ s with phase := .running }).startLists
  let s := (s.image.sections.map (·.1)).foldl (fun s n =>
    (s.updLife n (fun _ => { stage := .steady, cause := .start })).reinstall n) s
  s.stageHdm

/-- The package waits for an image. -/
def State.waitForImage (s : State) : State := { s.setFld Fld.CFG_STATUS_STATE 0 0 1 with phase := .waiting }

/-- The image chosen and put into service, or WAITING. -/
def State.startFromFlash (s : State) : State :=
  let s := [0, 1].foldl (fun s i => s.showSlot i 0) (s.setFld Fld.CFG_STATUS_FALLBACK 0 0 0)
  match s.chooseSlot true (s.bySeq slotRange [0, 1]) with
  | (s, some i) => s.startImage i
  | (s, none) => s.waitForImage

/-! Outputs stopped (14_trust_attestation.md R301; 19_faults_events.md R398) -/

/-- The outputs stop as in WAITING: every port is off, the virtual functions are gone, and no window is backed. -/
def State.stopOutputs (s : State) : State :=
  let s := (List.range 16).foldl (fun s p =>
    ((s.resetReg .FAB_PORT_STATUS p 0).updPort p (fun q => { q with queues := [], sending := none, running := false }))) s
  let s := s.setReg .GLB_HDM_STATUS 0 0 0
  { s with host := { s.host with vfEnable := false, numVfs := 0 } }

end Sys2Proof.Machine
end

