-- ==== Sys2Proof/Machine/TrustRows.lean ====
section
/-! DEFINITION. The Heartwood commands, the relay and job agreement (14_trust_attestation.md R296-R323; 21_address_map.md
R429). -/

namespace Sys2Proof.Machine

open Sys2Proof

/-- A response that completes a command. -/
def replied (x : State × Reply) : State × Option Reply := (x.1, some x.2)

/-- A command that completes with a status and changes nothing. -/
def refusedWith (s : State) (status : Nat) : State × Option Reply := (s, some { status := status })

/-! Quotes, logs, certificates and random bytes (R296, R308, R310-R312) -/

/-- GET_QUOTE by function `f` through mailbox `m`, whose control register is written `v`; `fails` are the burns that fail
should a block be reserved. -/
def execGetQuote (f : Fn) (m v fails : Nat) (s : State) : Host.Outcome State Fault Refusal :=
  .next (s.heartCommand f m v 1 33 .all (fun args s => replied (s.getQuote (boxMay m) fails args)))

/-- GET_LOG. -/
def execGetLog (f : Fn) (m v : Nat) (s : State) : Host.Outcome State Fault Refusal :=
  .next (s.heartCommand f m v 2 10 .all (fun args s => replied (s.getLog (boxMay m) args)))

/-- GET_CERT. -/
def execGetCert (f : Fn) (m v : Nat) (s : State) : Host.Outcome State Fault Refusal :=
  .next (s.heartCommand f m v 3 0 .all (fun _ s => (s, some certReply)))

/-- GET_KEM_KEY. -/
def execGetKemKey (f : Fn) (m v : Nat) (s : State) : Host.Outcome State Fault Refusal :=
  .next (s.heartCommand f m v 4 1 .all (fun args s => replied (s.getKemKey (boxMay m) args)))

/-- `k` random words as bytes. -/
def State.randomBytes : Nat → State → List Byte × State
  | 0, s => ([], s)
  | k + 1, s =>
    let (w, s) := s.draw
    let (rest, s) := s.randomBytes k
    (toBytes 8 w.toNat ++ rest, s)

/-- RANDOM: 1 to 256 bytes of the DRBG. -/
def execHwdRandom (f : Fn) (m v : Nat) (s : State) : Host.Outcome State Fault Refusal :=
  .next (s.heartCommand f m v 0x0A 4 .all (fun args s =>
    let k := le args 0 4
    if k = 0 ∨ 256 < k then refusedWith s 2
    else
      let (bs, s) := s.randomBytes (ceilDiv k 8)
      (s, some { data := bs.take k })))

/-! Key release (R312-R314) -/

/-- M: the hash of the measurements that a blob is bound to. -/
def State.measured (s : State) (n : Nat) : List Byte :=
  sha256 (s.heart.pmr.flatten ++ ((s.stand n).smr.take 3).flatten)

/-- The payload of a key-release blob (Table 14.6), where its tag passes. -/
def State.openBlob (s : State) (n : Nat) (b : List Byte) : Option (List Byte) :=
  match (s.stand n).kem with
  | none => none
  | some d =>
    let hdr := sub b 0 16
    let kw := hkdf (Config.kemOpen d (sub b 16 1568)) (s.measured n) (ascii "foldom key release" ++ hdr)
    gcmOpen kw (sub b 1584 12) hdr (sub b 1600 80)

/-- A KEY_ID is installed in a stand. -/
def Stand.hasKey (st : Stand) (k : Nat) : Bool := (st.weightKeys.get? k).isSome || (st.jobKeys.get? k).isSome

/-- A command refused with LOG_FULL (R308). -/
def State.logFull (s : State) (op m keyId : Nat) : State × Option Reply :=
  (s.flagHwd Fld.HWD_ERROR_LOG_FULL op m keyId 0x10, some { status := 0x10 })

/-- The checks of R313 on a blob of a KIND for stand `n`, of which `used` keys of `slots` are installed; `put` installs its
payload under its KEY_ID. -/
def State.releaseKey (s : State) (n op kind slots used : Nat) (b : List Byte) (put : Nat → List Byte → State → State) :
    State × Option Reply :=
  let keyId := le b 4 2
  if le b 0 2 ≠ 1 ∨ le b 2 1 ≠ kind ∨ le b 3 1 ≠ n ∨ le b 8 8 ≠ Config.serial.toNat then refusedWith s 2
  else
    match (s.stand n).cond.refusal with
    | some x => refusedWith s x
    | none =>
      if keyId = 0 ∨ (s.stand n).hasKey keyId then refusedWith s 2
      else if slots ≤ used then refusedWith s 6
      else
        match s.openBlob n b with
        | none =>
          ((s.flagHwd Fld.HWD_ERROR_KEY_REFUSED op n keyId 5).heartEvent 0x3004 (some n) [op, keyId], some { status := 5 })
        | some p =>
          if s.standLogFull n then s.logFull op n keyId
          else
            let s := (s.measureStand n 3 4 keyId (sub b 0 16)).heartEvent 0x3001 (some n) [keyId, kind]
            (put keyId p s, some {})

/-- INSTALL_WEIGHT_KEY. -/
def execInstallWeightKey (f : Fn) (m v : Nat) (s : State) : Host.Outcome State Fault Refusal :=
  .next (s.heartCommand f m v 5 1680 .stand (fun args s =>
    s.releaseKey m 5 1 64 (s.stand m).weightKeys.length args (fun k p s =>
      (s.updStand m (fun st => { st with weightKeys := st.weightKeys.set k p })).updHeart
        (fun h => { h with relaySent := h.relaySent + s.hubOf m }))))

/-- REMOVE_WEIGHT_KEY: no LOAD is in progress between commands. -/
def execRemoveWeightKey (f : Fn) (m v : Nat) (s : State) : Host.Outcome State Fault Refusal :=
  .next (s.heartCommand f m v 6 2 .stand (fun args s =>
    let k := le args 0 2
    match (s.stand m).cond.refusal with
    | some x => refusedWith s x
    | none =>
      if k = 0 ∨ ((s.stand m).weightKeys.get? k).isNone then refusedWith s 2
      else if s.standLogFull m then s.logFull 6 m k
      else
        let s := s.updStand m (fun st => { st with weightKeys := st.weightKeys.del k })
        ((s.measureStand m 3 5 k (keyEvent 1 m k)).heartEvent 0x3002 (some m) [k], some {})))

/-! Jobs (R315-R317; 09_state_movement.md R201) -/

/-- A Sapway area registered for remote writes under a job key, where it has a size and is mapped. -/
def State.sapwayArea (s : State) (n keyId base units : Nat) : State × Option Nat :=
  let len := units * 65536
  if units = 0 ∨ !s.mappedRange n false base len then (s, none)
  else s.register n (s.hubOf n) { base := base, len := len, state := .active, read := false, write := true,
                                  atomic := false, stand := n, gen := 0, keyHigh := 0, keyId := keyId }

/-- The Sapway regions of a job key that has just been installed. -/
def State.registerSapway (s : State) (n keyId : Nat) : State :=
  let (s, a) := s.sapwayArea n keyId (s.fld Fld.SWY_INBOX_ADDR n) (s.fld Fld.SWY_INBOX_1_SIZE n)
  let (s, b) := s.sapwayArea n keyId (s.fld Fld.SWY_STAGING_ADDR n) (s.fld Fld.SWY_STAGING_1_SIZE n)
  match (s.stand n).jobKeys.get? keyId with
  | some j => s.updStand n (fun st => { st with jobKeys := st.jobKeys.set keyId { j with inbox := a, staging := b } })
  | none => s

/-- JOB_TICKET: a ticket installed; the originator draws the job key and takes the first pair of sender identifiers. -/
def execJobTicket (f : Fn) (m v : Nat) (s : State) : Host.Outcome State Fault Refusal :=
  .next (s.heartCommand f m v 7 1680 .stand (fun args s =>
    s.releaseKey m 7 2 16 (s.stand m).jobKeys.length args (fun k p s =>
      let j : JobKey := { jobId := le p 0 8, originator := (le p 8 1).testBit 0, admission := sub p 32 32 }
      if j.originator then
        let (key, s) := s.randomBytes 4
        let j := { j with key := some key, senders := (1, 2), pairs := [(Config.serial.toNat, 1)] }
        (s.updStand m (fun st => { st with jobKeys := st.jobKeys.set k j })).registerSapway m k
      else s.updStand m (fun st => { st with jobKeys := st.jobKeys.set k j }))))

/-- The header of a message between Heartwoods: a WRITE under KEY_ID 0 with every other field 0. -/
def joinHeader (len : Nat) : Header :=
  { type := 1, dstConn := 0, dstInc := 0, srcConn := 0, srcInc := 0, keyId := 0, psn := 0, len := len }

/-- A message to a peer queued at port `p` in class 0, where its link is up. -/
def State.heartSend (s : State) (p : Nat) (peer : Peer) (text : List Byte) : State :=
  let h := p / 8
  let f : FabFrame :=
    { dst := peer.mac, src := s.fld Fld.FAB_PORT_MAC_ADDR p % 2 ^ 48, tags := b01 peer.tagged,
      tag := if peer.tagged then (s.fld Fld.FAB_CLASS_MAP_PCP h 0, peer.vid) else (0, 0),
      etherType := if peer.ip = 0 then s.fld Fld.FAB_ENCAP_ETHERTYPE h else 0x86DD,
      udp := if peer.ip = 0 then none else
        some { src := s.portIp p, dst := peer.ip, dscp := s.fld Fld.FAB_CLASS_MAP_DSCP h 0, srcPort := 0xC000,
               flow := 0xC000, dstPort := s.fld Fld.FAB_ENCAP_UDP_PORT h },
      packet := (joinHeader text.length).bytes ++ text ++ zeros 16 }
  if s.flag Fld.FAB_PORT_STATUS_LINK_UP p then s.enqueue p 0 h 65536 f else s

/-- A peer entry in the format of Table 10.5. -/
def peerEntry (b : List Byte) : Peer :=
  { mac := le b 0 6, vid := le b 6 2 % 4096, tagged := (le b 6 2).testBit 15, ip := be b 8 16 }

/-- The reserved fields of a peer entry are 0. -/
def peerClean (b : List Byte) : Bool := bits (le b 6 2) 12 3 == 0 && le b 24 8 == 0

/-- The JOIN_REQUEST of a join. -/
def joinRequestText (n : Nat) (j : JobKey) (x : Join) : List Byte :=
  let body := toBytes 8 j.jobId ++ toBytes 8 Config.serial.toNat ++ toBytes 8 n ++ x.nonce ++
    sub (Config.kemKey x.kem) 0 1568
  body ++ sub (hmac j.admission body) 0 32

/-- The request of stand `n`'s join sent. -/
def State.sendJoin (s : State) (n : Nat) : State :=
  match (s.stand n).join with
  | some x =>
    (match (s.stand n).jobKeys.get? x.keyId with
     | some j => s.heartSend x.port (peerEntry x.peer) (joinRequestText n j x)
     | none => s)
  | none => s

/-- JOB_JOIN: the command is in progress until a response arrives or its tries end. -/
def execJobJoin (f : Fn) (m v : Nat) (s : State) : Host.Outcome State Fault Refusal :=
  .next (s.heartCommand f m v 8 40 .stand (fun args s =>
    let k := le args 0 2
    let port := le args 2 1
    let peer := sub args 8 32
    if 16 ≤ port ∨ !peerClean peer then refusedWith s 2
    else
      match (s.stand m).cond.refusal with
      | some x => refusedWith s x
      | none =>
        if !((s.stand m).jobKeys.get? k).any (fun j => j.key.isNone) then refusedWith s 2
        else if s.standLogFull m then s.logFull 8 m k
        else
          let (nonce, s) := s.randomBytes 4
          let (kem, s) := s.draw
          let x : Join := { keyId := k, port := port, peer := peer, nonce := nonce, kem := kem.toNat }
          ((s.updStand m (fun st => { st with join := some x })).sendJoin m, none)))

/-- A frame under KEY_ID 0 of a length taken in at port `p` for Heartwood: the classifier sees it, and an entry with DROP
discards it (10_fabric_transport.md R242; 13_associative_search.md R285). The text, where it is for Heartwood. -/
def State.heartReceive (s : State) (p : Nat) (f : FabFrame) (len : Nat) : State × Option (List Byte) :=
  let h := p / 8
  let ours := match f.udp with
    | some u => u.dstPort == s.fld Fld.FAB_ENCAP_UDP_PORT h
    | none => f.etherType == s.fld Fld.FAB_ENCAP_ETHERTYPE h
  if 16 ≤ p ∨ !s.flag Fld.FAB_PORT_STATUS_LINK_UP p ∨ !ours ∨ (Header.parse f.packet).keyId ≠ 0 ∨
      f.packet.length ≠ 56 + len then (s, none)
  else
    let s := s.addFld Fld.FAB_PORT_RX_FRAMES_COUNT p 0 1
    if !s.macAccepts p f then (s.rxDrop p, none)
    else
      let dropped := (s.lookup ⟨h, kindClassifier, 0⟩ (classifierKey p f)).any (fun e => e.2.result.testBit 3)
      let s := s.classify p f
      if dropped ∨ f.packet.take 40 ≠ (joinHeader len).bytes ∨ f.packet.drop (40 + len) ≠ zeros 16 then (s, none)
      else (s, some (sub f.packet 40 len))

/-- The pair of sender identifiers of a joining package, by its SERIAL: the pair it has, or the lowest unused one. -/
def JobKey.pairFor (j : JobKey) (serial : Nat) : Option Nat :=
  match j.pairs.get? serial with
  | some i => some i
  | none => ((List.range 32767).map (fun k => 2 * k + 1)).find? (fun i => j.pairs.all (fun e => e.2 != i))

/-- K, the key of the box of a JOIN_RESPONSE. -/
def joinKey (ss admission : List Byte) (jobId : Nat) : List Byte :=
  hkdf ss admission (ascii "foldom job key" ++ toBytes 8 jobId)

/-- JOIN_REQUEST: frame `f` arrives at port `p`. The originator whose admission secret passes the HMAC answers on the port
that it came in on; any other request is discarded (R316, R317). -/
def execJoinRequest (p : Nat) (f : FabFrame) (s : State) : Host.Outcome State Fault Refusal :=
  .next (
    match s.heartReceive p f 1656 with
    | (s, none) => s
    | (s, some t) =>
      let body := t.take 1624
      let jobId := le t 0 8
      let hit := (List.range 24).findSome? (fun n =>
        if (s.stand n).cond = .running then
          ((s.stand n).jobKeys.find? (fun e => e.2.originator && e.2.jobId == jobId &&
            sub (hmac e.2.admission body) 0 32 == t.drop 1624)).map (fun e => (n, e.1, e.2))
        else none)
      match hit with
      | none => s
      | some (n, keyId, j) =>
        let (kd, s) := s.draw
        let (iv, s) := s.randomBytes 2
        let pair := j.pairFor (le t 8 8)
        let (ct, ss) := Config.kemSeal (sub t 56 1568) kd.toNat
        let box := match pair with
          | some i => sub (gcmSeal (joinKey ss j.admission jobId) (iv.take 12) []
              ((j.key.getD []) ++ toBytes 2 i ++ toBytes 2 (i + 1) ++ zeros 4)) 0 56
          | none => zeros 56
        let resp := toBytes 8 jobId ++ sub t 24 32 ++ toBytes 8 (b01 pair.isNone) ++ sub ct 0 1568 ++ iv.take 16 ++ box
        let s := match pair with
          | some i => s.updStand n (fun st => { st with jobKeys := st.jobKeys.set keyId { j with pairs := j.pairs.set (le t 8 8) i } })
          | none => s
        s.heartSend p { mac := f.src, vid := f.tag.2, tagged := f.tags == 1, ip := (f.udp.map (·.src)).getD 0 }
          (resp ++ sub (hmac j.admission resp) 0 32))

/-- The join that a response is for: its stand, join and ticket. -/
def State.joinOf (s : State) (t : List Byte) : Option (Nat × Join × JobKey) :=
  (List.range 24).findSome? (fun n =>
    match (s.stand n).join with
    | some x =>
      (match (s.stand n).jobKeys.get? x.keyId with
       | some j =>
         if j.jobId = le t 0 8 ∧ x.nonce = sub t 8 32 ∧ sub (hmac j.admission (t.take 1688)) 0 32 = t.drop 1688 then
           some (n, x, j) else none
       | none => none)
    | none => none)

/-- JOIN_RESPONSE: frame `f` arrives at port `p`. The joiner installs the job key when the HMAC, the nonce and the box's
tag pass (R316). -/
def execJoinResponse (p : Nat) (f : FabFrame) (s : State) : Host.Outcome State Fault Refusal :=
  .next (
    match s.heartReceive p f 1720 with
    | (s, none) => s
    | (s, some t) =>
      match s.joinOf t with
      | none => s
      | some (n, x, j) =>
        let ended := fun (s : State) => s.updStand n (fun st => { st with join := none })
        if le t 40 1 = 1 then (ended s).boxDone (heartBox n) { status := 0x0E }
        else
          let ss := Config.kemOpen x.kem (sub t 48 1568)
          match gcmOpen (joinKey ss j.admission j.jobId) (sub t 1616 12) [] (sub t 1632 56) with
          | none => s
          | some b =>
            let j := { j with key := some (sub b 0 32), senders := (le b 32 2, le b 34 2) }
            let s := (ended s).updStand n (fun st => { st with jobKeys := st.jobKeys.set x.keyId j })
            let s := (s.registerSapway n x.keyId).measureStand n 3 6 x.keyId (keyEvent 2 n x.keyId)
            (s.heartEvent 0x3003 (some n) [x.keyId, j.senders.1 + j.senders.2 * 2 ^ 16]).boxDone (heartBox n) {})

/-- JOIN_RETRY: 100 ms without a valid response: the request is sent again, up to four times, or the join has failed. -/
def execJoinRetry (n : Nat) (s : State) : Host.Outcome State Fault Refusal :=
  .next (
    match (s.stand n).join with
    | none => s
    | some x =>
      if x.tries < 4 then (s.updStand n (fun st => { st with join := some { x with tries := x.tries + 1 } })).sendJoin n
      else
        ((s.updStand n (fun st => { st with join := none })).flagHwd Fld.HWD_ERROR_JOIN_FAILED 8 n x.keyId 0x0D).boxDone
          (heartBox n) { status := 0x0D })

/-- A key is in use: a connection under it, a region of the stand under it besides the key's Sapway regions, or a bundle
that is being sealed under it. -/
def State.keyInUse (s : State) (n keyId : Nat) (j : JobKey) : Bool :=
  s.conns.any (fun c => c.2.stand == n && c.2.keyId == keyId) ||
  s.regions.any (fun r => r.2.stand == n && r.2.keyId == keyId && r.2.state != .free && some r.1 != j.inbox &&
    some r.1 != j.staging) ||
  (s.stand n).sapway.sending.any (fun b => b.header.keyId == keyId)

/-- JOB_REMOVE. -/
def execJobRemove (f : Fn) (m v : Nat) (s : State) : Host.Outcome State Fault Refusal :=
  .next (s.heartCommand f m v 9 2 .stand (fun args s =>
    let k := le args 0 2
    match (s.stand m).cond.refusal with
    | some x => refusedWith s x
    | none =>
      match (s.stand m).jobKeys.get? k with
      | none => refusedWith s 2
      | some j =>
        if j.key.isSome ∧ s.keyInUse m k j then refusedWith s 0x0F
        else if s.standLogFull m then s.logFull 9 m k
        else
          let s := (j.inbox.toList ++ j.staging.toList).foldl (fun s i => s.revoke i none) s
          let s := s.updStand m (fun st => { st with jobKeys := st.jobKeys.del k })
          let s := ((s.measureStand m 3 5 k (keyEvent 2 m k)).heartEvent 0x3002 (some m) [k]).canopyCheck m
          (s, some {})))

/-! Ownership (R299, R301) -/

/-- ENROL_OWNER. -/
def execEnrolOwner (f : Fn) (m v : Nat) (s : State) : Host.Outcome State Fault Refusal :=
  .next (s.heartCommand f m v 0x10 60 .pf (fun args s =>
    if s.fuses.owner.isSome then refusedWith s 0x0B
    else if 8 ≤ s.fuses.owners.length then refusedWith s 0x0C
    else
      ((s.updFuses (fun x => { x with owners := x.owners ++ [sub (sha256 (sub args 0 60)) 0 32] })).showFuses,
        some {})))

/-- A stand reset that RELEASE_OWNER starts: a stand in its drain ends it, one past it goes on, and one that is being
installed leaves. -/
def State.releaseReset (s : State) (n : Nat) : State :=
  let old := (s.stand n).life
  let cause := fun (s : State) => s.updLife n (fun l => { l with cause := .release, drainMs := 0 })
  let s := if old.stage ≠ .steady ∧ old.cause = .command then (cause s).commandDone else s
  match old.stage with
  | .steady => if s.standValid n then s.startReset n .release 0 else s
  | .draining => (cause s).drainEnd n
  | .zeroing => ((cause s).resetEvent n).removeStand n
  | _ => cause s

/-- A signature refused: the error and the event. -/
def State.badSignature (s : State) (op cfg m : Nat) : State :=
  (s.flagHwd Fld.HWD_ERROR_SIGNATURE_INVALID op m 0 (if cfg = 1 then 6 else 9)).heartEvent 0x3006 none [op + cfg * 2 ^ 8]

/-- RELEASE_OWNER: every stand is reset, the slot's revoke bit is burnt, and the outputs stop. -/
def execReleaseOwner (f : Fn) (m v : Nat) (s : State) : Host.Outcome State Fault Refusal :=
  .next (s.heartCommand f m v 0x11 64 .pf (fun args s =>
    let sig := s.boxBytes (heartBox m) 72 (bits (s.boxWord (heartBox m)) 16 16 - 64)
    let body := sub args 0 64
    let ok := match s.fuses.owner, s.fuses.ownerHash with
      | some k, some h => body == toBytes 8 Config.serial.toNat ++ toBytes 8 (1 + k * 2 ^ 16) ++ zeros 48 &&
          Config.ownerVerify h body sig
      | _, _ => false
    if !ok then (s.badSignature 0x11 0 m, some { status := 9 })
    else
      let slot := s.fuses.owner.getD 0
      let s := { s with image := { s.image with replace := none } }
      let s := ((List.range 24).foldl State.releaseReset s).deliver
      let s := (s.updFuses (fun x => { x with revoked := x.revoked ||| 2 ^ slot })).showFuses
      let s := { s.stopOutputs with image := {} }
      (s.waitForImage, some {})))

/-! Firmware (R318-R320) -/

/-- STAGE_FW: the package in the staging window is verified and written to the inactive slot. -/
def execStageFw (f : Fn) (m v : Nat) (s : State) : Host.Outcome State Fault Refusal :=
  .next (s.heartCommand f m v 0x12 16 .pf (fun args s =>
    let off := le args 0 8
    let len := le args 8 8
    let i := 1 - s.fuses.active
    let r := firmwareRange i
    if s.phase ≠ .running ∨ !s.flag Fld.GLB_HDM_STATUS_BACKED ∨ len = 0 ∨ r.commitAt < len ∨ halfStackSize < off + len then
      refusedWith s 2
    else
      let p := s.mem.bytes ((Space.hm (s.fld Fld.GLB_HDM_STATUS_HALF_STACK)).key off) len
      if !Config.fwSigned p then (s.badSignature 0x12 0 m, some { status := 9 })
      else if Config.fwSvn p < s.fuses.svn then refusedWith s 0x0A
      else
        let s := (((s.flashForget r 0 r.size).flashWrite r 0 p).commitRange r len (Config.fwSvn p))
        ((s.updFuses (fun x => { x with staged := some i })).showFuses, some {})))

/-- APPLY_FW: new commands are answered TRY_LATER until Heartwood has restarted. -/
def execApplyFw (f : Fn) (m v : Nat) (s : State) : Host.Outcome State Fault Refusal :=
  .next (s.heartCommand f m v 0x13 0 .pf (fun _ s =>
    if s.fuses.staged ≠ some (1 - s.fuses.active) then refusedWith s 2
    else if 4096 ≤ s.heart.log.length then s.logFull 0x13 m 0
    else ((s.setFld Fld.HWD_STATUS_STATE 0 0 2).retryMs true, some {})))

/-- FW_RESTART: the active mark moves, and Heartwood restarts with the staged firmware, or with the previous one where the
ROM finds the new one invalid (Table 14.7, steps 2 to 4). -/
def execFwRestart (fails : Nat) (s : State) : Host.Outcome State Fault Refusal :=
  .next (
    if s.fld Fld.HWD_STATUS_STATE ≠ 2 then s
    else
      let old := s.fuses.active
      let i := s.fuses.staged.getD old
      let (p, fell) := match s.firmwareOk i with
        | some p => (p, false)
        | none => ((s.firmwareIn old).getD [], true)
      let s := s.updFuses (fun x => { x with active := i })
      let s := (s.updHeart (fun h => { h with pmr := h.pmr.set 0 (List.replicate 32 0) })).measurePkg 0 7 0 (Config.fwPart p 0)
      let s := (s.setFld Fld.HWD_STATUS_FW_FALLBACK 0 0 (b01 fell)).setFld Fld.HWD_SVN_RUNNING_SVN 0 0 (Config.fwSvn p)
      let s := (s.heartEvent 0x3005 none [Config.fwSvn p, b01 fell]).startLeaves fails
      ((s.setFld Fld.HWD_STATUS_STATE 0 0 1).showFuses).retryMs (!s.heart.trees))

/-- COMMIT_SVN. -/
def execCommitSvn (f : Fn) (m v : Nat) (s : State) : Host.Outcome State Fault Refusal :=
  .next (s.heartCommand f m v 0x14 0 .pf (fun _ s =>
    if s.fuses.staged.isSome then refusedWith s 2
    else
      let svn := max s.fuses.svn (min 64 (s.fld Fld.HWD_SVN_RUNNING_SVN))
      ((s.updFuses (fun x => { x with svn := svn })).showFuses, some {})))

/-! Signing trees and the relay (R297, R305) -/

/-- Heartwood runs. -/
def State.heartRuns (s : State) : Bool := s.fld Fld.HWD_STATUS_STATE != 0

/-- LMS_TREE_BUILT: the trees of both levels are built. -/
def execLmsTreeBuilt (s : State) : Host.Outcome State Fault Refusal :=
  .next (
    if !s.heartRuns then s
    else
      let s := s.updHeart (fun h => { h with trees := true })
      if s.fld Fld.HWD_STATUS_STATE = 2 then s else s.retryMs false)

/-- RELAY_MESSAGE: the relay receives a message with a counter; it accepts one that is intact, was sent, and is above the
last that it accepted. -/
def execRelayMessage (counter : Nat) (intact : Bool) (s : State) : Host.Outcome State Fault Refusal :=
  .next (
    if s.heartRuns ∧ intact ∧ s.heart.relayLast < counter ∧ counter ≤ s.heart.relaySent then
      (s.updHeart (fun h => { h with relayLast := counter })).setFld Fld.HWD_STATUS_RELAY_READY 0 0 1
    else s)

/-! MCTP (21_address_map.md Table 21.3) -/

/-- A Heartwood command over MCTP, about a stand or not, with `len` bytes of arguments. -/
def State.mctpHeart (s : State) (ofStand : Bool) (args : List Byte) (len : Nat) (run : State → State × Reply) : State :=
  if !s.endpoint then s
  else
    let (x, s) := s.draw
    let answer := fun (s : State) (r : Reply) =>
      s.mctpRespond (mctpReply r.status (if r.status = 1 then 1 + x.toNat % 65535 else 0) r.data)
    if s.phase = .rom then answer s { status := 0x20 }
    else if s.phase = .packageFault then answer s { status := 3 }
    else if s.fld Fld.HWD_STATUS_STATE = 2 then answer s { status := 1 }
    else if args.length < len then answer s { status := 2 }
    else if ofStand ∧ s.phase = .waiting then answer s { status := 3 }
    else if ofStand ∧ s.phase ≠ .running then answer s { status := 1 }
    else
      let (s, r) := run s
      answer s r

/-- MCTP_GET_QUOTE, of the package or of any stand. -/
def execMctpGetQuote (args : List Byte) (fails : Nat) (s : State) : Host.Outcome State Fault Refusal :=
  .next (s.mctpHeart (le args 32 1 != 0xFF) args 33 (fun s => s.getQuote (fun _ => true) fails args))

/-- MCTP_GET_LOG. -/
def execMctpGetLog (args : List Byte) (s : State) : Host.Outcome State Fault Refusal :=
  .next (s.mctpHeart (le args 0 1 != 0xFF) args 10 (fun s => s.getLog (fun _ => true) args))

/-- MCTP_GET_CERT. -/
def execMctpGetCert (s : State) : Host.Outcome State Fault Refusal :=
  .next (s.mctpHeart false [] 0 (fun s => (s, certReply)))

/-- MCTP_GET_KEM_KEY. -/
def execMctpGetKemKey (args : List Byte) (s : State) : Host.Outcome State Fault Refusal :=
  .next (s.mctpHeart true args 1 (fun s => s.getKemKey (fun _ => true) args))

end Sys2Proof.Machine
end

