-- ==== Sys2Proof/Machine/ImageRows.lean ====
section
/-! DEFINITION. The configuration mailbox: erasing, writing and committing images, and the start of a stand replacement
(16_configuration_image.md R356-R360). -/

namespace Sys2Proof.Machine

open Sys2Proof

/-- The OPs of Table 16.7. -/
def cfgOps : List Nat := [1, 2, 3]

/-- A configuration command by function `f` that writes `v` to CFG_MB_CTRL: it sees TARGET and its range, the LENGTH of
the command's word 0, and answers. A target that is unknown, the active slot, or the cell from which a running stand was
installed completes BAD_COMMAND (R357). -/
def State.cfgCommand (s : State) (f : Fn) (v op : Nat) (run : Nat → FlashRange → Nat → State → State × Option Reply) : State :=
  s.boxWrite cfgBox f v op cfgOps (fun len s =>
    let t := le (s.boxBytes cfgBox 8 1) 0 1
    let inUse := s.image.active == some t ||
      s.image.sections.any (fun e => e.2.1 == t && s.standValid e.1)
    match targetRange t with
    | none => refusedWith s 2
    | some r => if len = 0 ∨ inUse then refusedWith s 2 else run t r len s)

/-- IMAGE_ERASE: the target is left with open content. `failed` says that the read-back failed. -/
def execImageErase (f : Fn) (v : Nat) (failed : Bool) (s : State) : Host.Outcome State Fault Refusal :=
  .next (s.cfgCommand f v 1 (fun _ r _ s => (s.flashForget r 0 r.size, some { status := if failed then 0x0C else 0 })))

/-- The bytes that an IMAGE_WRITE programs: from the mailbox, or from the staging window; none where the command is not
well formed (R356, R357; 20_host_interface.md R412). -/
def State.writeSource (s : State) (boxLen : Nat) : Option (Nat × List Byte) :=
  let a := s.boxBytes cfgBox 8 24
  let source := le a 1 1
  let len := le a 4 4
  let off := le a 8 8
  let hdm := le a 16 8
  if off % 256 ≠ 0 ∨ len = 0 ∨ 1 < source then none
  else if source = 0 then
    (if 8160 < len ∨ boxLen < 24 + len then none else some (off, s.boxBytes cfgBox 32 len))
  else if 16777216 < len ∨ boxLen < 24 ∨ s.phase ≠ .running ∨ !s.flag Fld.GLB_HDM_STATUS_BACKED ∨ halfStackSize < hdm + len then none
  else some (off, s.mem.bytes ((Space.hm (s.fld Fld.GLB_HDM_STATUS_HALF_STACK)).key hdm) len)

/-- IMAGE_WRITE: bytes programmed into a target below its commit sector. -/
def execImageWrite (f : Fn) (v : Nat) (failed : Bool) (s : State) : Host.Outcome State Fault Refusal :=
  .next (s.cfgCommand f v 2 (fun _ r len s =>
    match s.writeSource len with
    | none => refusedWith s 2
    | some (off, bs) =>
      if r.commitAt < off + bs.length then refusedWith s 2
      else if failed then (s.flashForget r off bs.length, some { status := 0x0C })
      else (s.flashWrite r off bs, some {})))

/-- A replacement of stand `n` starts with cell `k` (Table 16.9): an existing stand drains, or its running reset reaches
its step 3 first; a stand that does not exist is installed; a deletion of one that does not exist has nothing to do. -/
def State.startReplace (s : State) (n k seq : Nat) (sec : List Byte) : State :=
  let r : Replace := ⟨n, k, seq, if secDelete sec then none else some sec⟩
  let s := s.setReg .CFG_REPLACE 0 0 (n + 1 * 2 ^ 5)
  let s := { s with image := { s.image with replace := some r } }
  if s.standValid n then
    (match (s.stand n).life.stage with
     | .steady => (s.replacePhase 2).startReset n .replacement (secDrainMs sec)
     | .erasing => (s.takeOver n).replacePhase 3
     | .zeroing => (s.takeOver n).eraseConfirmed n
     | _ => s)
  else if secDelete sec then
    let s := ({ s with image := { s.image with replace := none, sections := s.image.sections.del n } }).replacePhase 5
    s.recompose
  else
    let s := { s with image := { s.image with sections := s.image.sections.set n (16 + k, sec) } }
    (s.updLife n (fun _ => { stage := .steady, cause := .replacement })).reinstall n

/-- An image that passed its checks is committed: its record is written. -/
def State.commitImage (s : State) (r : FlashRange) (b : List Byte) : State := s.commitRange r (imageLength b) (imageSeq b)

/-- IMAGE_COMMIT: the target is checked (Table 16.6, steps 2 to 10) and its commit record written. A slot takes effect at
the next package reset, or at once in WAITING; a cell starts its replacement. -/
def execImageCommit (f : Fn) (v : Nat) (failed : Bool) (s : State) : Host.Outcome State Fault Refusal :=
  .next (s.cfgCommand f v 3 (fun t r _ s =>
    if 2 ≤ t ∧ s.image.replace.isSome then refusedWith s 1
    else
      let b := s.imageIn r
      let st := if t < 2 then s.packageStatus r else s.standStatus (t - 16)
      let s := if st = 6 then s.badSignature 3 1 0 else s
      if st ≠ 0 then (if t < 2 then (s.showSlot t st, some { status := st }) else refusedWith s st)
      else if failed then (s.flashForget r r.commitAt 64, some { status := 0x0C })
      else
        let s := s.commitImage r b
        if t < 2 then
          let s := s.showSlot t 0
          (if s.phase = .waiting then s.startImage t else s, some {})
        else
          let sec := (standSections b).headD []
          ((s.startReplace (secStand sec) (t - 16) (imageSeq b) sec).deliver, some {})))

end Sys2Proof.Machine
end

