-- ==== Sys2Proof/Machine/StartRows.lean ====
section
/-! DEFINITION. Power lands, resets, the power-up test, stand resets and self-tests (17_startup_reset_test.md;
16_configuration_image.md R358, R359; 18_power_thermal.md R380, R381; 20_host_interface.md R423; 21_address_map.md R431;
22_package_pins.md R436-R441). -/

namespace Sys2Proof.Machine

open Sys2Proof

/-! Lands and package resets (R364, R368, R437, R438, R441) -/

/-- The package in reset with a cause, held until it is released. -/
def State.holdReset (s : State) (cause : Nat) : State := { s.packageReset cause with phase := .held }

/-- A package reset that restarts the power-up sequence at once. `fails` are the fuse burns that fail. -/
def State.restart (s : State) (cause fails : Nat) : State := (s.packageReset cause).powerUp fails

/-- A test-mode instruction is in effect (21_address_map.md R431). -/
def State.tapHolds (s : State) : Bool := s.mgmt.lands != .functional

/-- PWROK_RISE: the power-up sequence starts, unless RST_N holds the package. -/
def execPwrokRise (fails : Nat) (s : State) : Host.Outcome State Fault Refusal :=
  .next (
    if s.pins.pwrok then s
    else
      let s := { s with pins := { s.pins with pwrok := true } }
      if s.pins.rstN then s.powerUp fails else { s with phase := .held })

/-- PWROK_FALL: a package reset, with cause PWROK whatever the other lands do; THERMTRIP_N is released. -/
def execPwrokFall (s : State) : Host.Outcome State Fault Refusal :=
  .next (
    if !s.pins.pwrok then s
    else
      let t := s.packageReset 0
      { t with phase := .off, pins := { t.pins with pwrok := false, thermtripReleased := true } })

/-- RST_N_LOW. -/
def execRstNLow (s : State) : Host.Outcome State Fault Refusal :=
  .next (
    if !s.pins.rstN then s
    else
      let s := { s with pins := { s.pins with rstN := false } }
      if s.pins.pwrok then s.holdReset 1 else s)

/-- PERST_N_LOW; a package that RST_N holds keeps its cause. -/
def execPerstNLow (s : State) : Host.Outcome State Fault Refusal :=
  .next (
    if !s.pins.perstN then s
    else
      let held := !s.pins.rstN
      let s := { s with pins := { s.pins with perstN := false } }
      if s.pins.pwrok ∧ !held then s.holdReset 2 else s)

/-- RESET_RELEASE: both lands are high; a package that they hold restarts, or stays in reset for a test-mode instruction
in effect. -/
def execResetRelease (fails : Nat) (s : State) : Host.Outcome State Fault Refusal :=
  .next (
    let s := { s with pins := { s.pins with rstN := true, perstN := true } }
    if s.phase ≠ .held then s
    else if s.tapHolds then { s with phase := .tapHeld }
    else s.powerUp fails)

/-- TEST_LOGIC_RESET: IDCODE is selected, and a package held by a test-mode instruction restarts (21_address_map.md R430,
R431). -/
def execTestLogicReset (fails : Nat) (s : State) : Host.Outcome State Fault Refusal :=
  .next (
    let s := { s with mgmt := { s.mgmt with tapInstr := 1, tapRefused := false, tapData := idcodeValue, lands := .functional } }
    if s.phase = .tapHeld then s.powerUp fails else s)

/-- PKG_RESET: function `f` writes `v` to RST_CTRL; with KEY 0xA5 and PKG_RESET the package is reset. -/
def execPkgReset (f : Fn) (v fails : Nat) (s : State) : Host.Outcome State Fault Refusal :=
  .next (
    match s.writeRow f .RST_CTRL 0 0 [] v with
    | none => s
    | some t => if bits v 0 8 = 0xA5 ∧ bit v 8 then t.restart 3 fails else t)

/-- PLL_UNLOCK: a package reset of a package whose root PLL was locked; `refclkLost` says that REFCLK is gone. -/
def execPllUnlock (refclkLost : Bool) (fails : Nat) (s : State) : Host.Outcome State Fault Refusal :=
  .next (
    if !s.flag Fld.CLK_STATUS_LOCKED then s
    else { s with pins := { s.pins with refclk := s.pins.refclk && !refclkLost } }.restart 4 fails)

/-- REFCLK_RETURN: the boot ROM restarts the sequence. -/
def execRefclkReturn (fails : Nat) (s : State) : Host.Outcome State Fault Refusal :=
  .next (
    let s := { s with pins := { s.pins with refclk := true } }
    if s.phase = .noClock then s.powerUp fails else s)

/-- DDR_ALERT_N: the level that the DIMMs of channel `k` leave DDRk_ALERT_N at. -/
def execDdrAlertN (k : Nat) (low : Bool) (s : State) : Host.Outcome State Fault Refusal :=
  .next (
    if 16 ≤ k then s
    else
      let m := if s.pins.ddrAlert.testBit k then s.pins.ddrAlert - 2 ^ k else s.pins.ddrAlert
      { s with pins := { s.pins with ddrAlert := if low then m + 2 ^ k else m } })

/-! The power-up test and the start (R366; 18_power_thermal.md R381) -/

/-- PWR_VID_APPLIED: function `f` writes `v`, with APPLIED set, to PWR_VID. -/
def execPwrVidApplied (f : Fn) (v : Nat) (s : State) : Host.Outcome State Fault Refusal :=
  .next (
    if !bit v 10 then s
    else
      match s.writeRow f .PWR_VID 0 0 [] v with
      | none => s
      | some t => t.applyVid)

/-- POWER_UP_GROVE_TEST: the tests of step 7 end, having found the vector cores `cores` failing and a matrix core, tile
buffers, accumulator banks or an activation store of the groves `groves`; the later steps follow. -/
def execPowerUpGroveTest (cores groves : List Nat) (s : State) : Host.Outcome State Fault Refusal :=
  .next (
    if s.phase ≠ .starting 7 ∨ !s.flag Fld.PWR_VID_APPLIED then s
    else
      let s := (cores.filter (· < 82944)).foldl State.maskCore s
      ((distinct (groves.filter (· < 24))).foldl State.groveOut s).startFromFlash)

/-! Stand resets (R369, R370) -/

/-- STAND_RESET: function `f` writes `v` to RST_STAND_CMD; with GO the stand is reset. -/
def execStandReset (f : Fn) (v : Nat) (s : State) : Host.Outcome State Fault Refusal :=
  .next (
    match s.writeRow f .RST_STAND_CMD 0 0 [] v with
    | none => s
    | some t =>
      let n := bits v 0 5
      let complete := fun (t : State) (res : Nat) =>
        (t.setFld Fld.RST_STAND_CMD_RESULT 0 0 res).setFld Fld.RST_STAND_CMD_DONE 0 0 1
      if !bit v 5 then t
      else if t.replacing n ∨ (t.standValid n ∧ (t.stand n).life.stage ≠ .steady) then complete t 1
      else if !t.standValid n then complete t 2
      else
        let t := ((t.setFld Fld.RST_STAND_CMD_BUSY 0 0 1).setFld Fld.RST_STAND_CMD_RESULT 0 0 0).setFld
          Fld.RST_STAND_CMD_UNREPORTED 0 0 0
        (t.startReset n .command (bits v 8 16)).deliver)

/-- STAND_DRAIN_END: the drain of a reset ends. -/
def execStandDrainEnd (n : Nat) (s : State) : Host.Outcome State Fault Refusal :=
  .next (if (s.stand n).life.stage = .draining ∧ !s.replacing n then (s.drainEnd n).deliver else s)

/-- REPLACE_DRAIN_END: the drain of the stand that is replaced ends (Table 16.9, step 4). -/
def execReplaceDrainEnd (n : Nat) (s : State) : Host.Outcome State Fault Refusal :=
  .next (if (s.stand n).life.stage = .draining ∧ s.replacing n then (s.drainEnd n).deliver else s)

/-- STATE_LOST_ENTRY_WINDOW_END: 100 ms after the drain, entries that found no room are counted as unreported. -/
def execStateLostEntryWindowEnd (n : Nat) (s : State) : Host.Outcome State Fault Refusal :=
  .next (
    if (s.stand n).life.stage ≠ .reporting then s
    else
      let s := s.unreported n (s.stand n).entriesWaiting
      (s.updStand n (fun st => { st with cqWaiting := [] })).startErase n)

/-- RELAY_CONFIRM: the relay confirms the erasure of stand `n`'s keys (14_trust_attestation.md R322). -/
def execRelayConfirm (n : Nat) (s : State) : Host.Outcome State Fault Refusal :=
  .next (if (s.stand n).life.stage = .erasing then s.eraseConfirmed n else s)

/-- ZEROING_DONE: of the frames of stand `n`, or for 24 of the staging half-stack (20_host_interface.md R411). -/
def execZeroingDone (n : Nat) (s : State) : Host.Outcome State Fault Refusal :=
  .next (
    if n < 24 then (if (s.stand n).life.stage = .zeroing then s.finishInstall n else s)
    else if n = 24 ∧ s.flag Fld.GLB_HDM_STATUS_ZEROING then
      ((s.zeroHalf (s.fld Fld.GLB_HDM_STATUS_HALF_STACK)).setFld Fld.GLB_HDM_STATUS_ZEROING 0 0 0).setFld
        Fld.GLB_HDM_STATUS_BACKED 0 0 1
    else s)

/-- VF_FLR: a function-level reset of virtual function `n`: its configuration and QW_ registers take their reset values,
and its stand is reset without drain and without completion entries. It ends the drain of a stand already in one. -/
def execVfFlr (n : Nat) (s : State) : Host.Outcome State Fault Refusal :=
  .next (
    if !s.fnExists (.vf n) ∨ !s.flag Fld.GLB_LINK_STATUS_LINK_UP then s
    else
      let off := fun m : Nat => if m.testBit n then m - 2 ^ n else m
      let h := s.host
      let s := { s with host := { h with
        busMaster := off h.busMaster, ats := off h.ats, msixPending := h.msixPending.filter (fun k => k / 32 != n),
        copyMsgAt := h.copyMsgAt.del n } }
      let s := s.resetRegs [.QW_APERTURE_BASE, .QW_COPY_RING, .QW_COPY_TAIL, .QW_COPY_HEAD, .QW_STATUS] n
      let s := { s with laps := s.laps.del (Reg.QW_COPY_RING.addr n 0) }
      if !s.standValid n then s
      else
        match (s.stand n).life.stage with
        | .steady => (s.startReset n .flr 0).deliver
        | .draining =>
          if s.replacing n then (s.drainEnd n).deliver
          else
            let old := (s.stand n).life.cause
            let s := s.updLife n (fun l => { l with cause := .flr })
            let s := if old = .command then s.commandDone else s
            (s.drainEnd n).deliver
        | _ => s)

/-! Matrix core failure (19_faults_events.md Table 19.1; 03_matrix_cores.md Table 3.8) -/

/-- The cores of a cluster stopped at once (18_power_thermal.md R385). -/
def State.stopCluster (s : State) (c : Nat) : State :=
  s.updPower (fun p => { p with
    matrix := p.matrix.del c, vector := p.vector.filter (fun e => e.1 / 864 != c),
    waiting := p.waiting.filter (fun r => match r.unit with | .matrix x => x != c | .vector v => v / 864 != c) })

/-- A matrix core, tile buffer, accumulator or activation store of cluster `c` failed: its grove is out of service; a stand
that holds it abandons its step and stops, its cores at once. -/
def State.coreFailed (s : State) (c : Nat) : State :=
  let g := c / 4
  match s.groveStand g with
  | none => s.groveOut g
  | some n =>
    let s := s.setFld Fld.RST_GROVE_STATUS_OUT_OF_SERVICE 0 0 (s.fld Fld.RST_GROVE_STATUS_OUT_OF_SERVICE ||| 2 ^ g)
    let st := ((s.stand n).step).getD { model := 0 }
    let s := (s.flagMxc Fld.MXC_ERROR_CORE_FAILED c st st.atOp 0).event ⟨0x0103, some n, c / 16, c % 16, [c]⟩
    let s := (s.clusters n).foldl State.stopCluster (s.abandon n 0x38 st.atOp)
    s.stopStand n 0x38

/-- CORE_FAILURE: an array or accumulator fault in the matrix core of cluster `c`. -/
def execCoreFailure (c : Nat) (s : State) : Host.Outcome State Fault Refusal :=
  .next (
    if c < 96 ∧ !(s.fld Fld.RST_GROVE_STATUS_OUT_OF_SERVICE).testBit (c / 4) then (s.coreFailed c).deliver else s)

/-! Self-tests (R371-R374) -/

/-- A stand holds grove `g`, or claims it while it is installed. -/
def State.groveHeld (s : State) (g : Nat) : Bool :=
  (s.groveStand g).isSome || (List.range 24).any (fun n =>
    (s.stand n).life.stage == .zeroing && ((s.image.sections.get? n).any (fun e => (secGroves e.2).testBit g)))

/-- Admission of grove `g` (Table 17.6): refused with a status, admitted at the boundary of its stand, or at once. -/
def State.admitTest (s : State) (g : Nat) (drain : Bool) : State :=
  let refuse := fun (s : State) (res : Nat) =>
    if s.fld Fld.RST_TEST_STATUS_RESULT = 0 then s.setFld Fld.RST_TEST_STATUS_RESULT 0 0 res else s
  if s.underTest.testBit g then refuse s 1
  else if s.groveHeld g then
    (if s.tests.hbm then refuse s 2
     else if !drain then refuse s 1
     else { s with tests := { s.tests with waiting := s.tests.waiting ||| 2 ^ g } })
  else (s.setFld Fld.RST_GROVE_STATUS_UNDER_TEST 0 0 (s.underTest ||| 2 ^ g)).testWipe g

/-- SELF_TEST: function `f` writes `v` to RST_TEST_CTRL; with GO a test request is submitted. -/
def execSelfTest (f : Fn) (v : Nat) (s : State) : Host.Outcome State Fault Refusal :=
  .next (
    match s.writeRow f .RST_TEST_CTRL 0 0 [] v with
    | none => s
    | some t =>
      let state := t.fld Fld.RST_TEST_STATUS_STATE
      if !bit v 28 then t
      else if state = 1 ∨ state = 2 then t.setFld Fld.RST_TEST_STATUS_OVERRUN 0 0 1
      else
        let t := (t.setFld Fld.RST_TEST_STATUS_RESULT 0 0 0).setFld Fld.RST_TEST_STATUS_FAILED 0 0 0
        let t := { t with tests := { logic := bit v 24, sram := bit v 25, hbm := bit v 26 } }
        let t := (bitsOf 24 v).foldl (fun (t : State) g => t.admitTest g (bit v 27)) t
        let t := t.setFld Fld.RST_TEST_STATUS_STATE 0 0
          (if t.underTest ≠ 0 then 2 else if t.tests.waiting ≠ 0 then 1 else 3)
        (List.range 24).foldl (fun (t : State) n => if (t.stand n).cond = .running then t.testIdle n else t) t)

/-- SELF_TEST_DONE: the test of grove `g` ends, having found vector cores `cores`, the matrix path of clusters `clusters`
and HBM4 channels `channels` of it failing (R373). -/
def execSelfTestDone (g : Nat) (cores clusters channels : List Nat) (s : State) : Host.Outcome State Fault Refusal :=
  .next (
    if 24 ≤ g ∨ !s.underTest.testBit g then s
    else
      let cores := cores.filter (fun v => v / 3456 == g)
      let clusters := clusters.filter (fun c => c / 4 == g)
      let channels := channels.filter (fun i => i < 384 && 4 * (i / 64) + 2 * (i / 32 % 2) + i % 32 / 16 == g)
      let ok := cores.isEmpty && clusters.isEmpty && channels.isEmpty
      let s := s.testEnd g (if ok then 0 else 4)
      let s := if ok then s else s.setFld Fld.RST_TEST_STATUS_FAILED 0 0 (s.fld Fld.RST_TEST_STATUS_FAILED ||| 2 ^ g)
      let s := (channels.filter (fun i => !s.hbmOut i)).foldl State.failHbm (cores.foldl State.maskCore s)
      match s.groveStand g with
      | some n =>
        let s := cores.foldl (fun (s : State) v => s.event ⟨0x0104, some n, v / 864 / 16, v / 864 % 16, [v]⟩) s
        (match clusters with
         | c :: _ => (s.coreFailed c).deliver
         | [] => s)
      | none =>
        if ok then
          let out := s.fld Fld.RST_GROVE_STATUS_OUT_OF_SERVICE
          let s := s.setFld Fld.RST_GROVE_STATUS_OUT_OF_SERVICE 0 0 (if out.testBit g then out - 2 ^ g else out)
          [4 * g, 4 * g + 1, 4 * g + 2, 4 * g + 3].foldl (fun s c =>
            (List.range 14).foldl (fun (s : State) j => s.resetReg .VEC_CORE_MASK c j) s) s
        else if clusters.isEmpty then s
        else s.groveOut g)

end Sys2Proof.Machine
end

