-- ==== Sys2Proof/Machine/PowerRows.lean ====
section
/-! DEFINITION. The power step governor, ballast, the stagger pattern of sealed stands, thermal sampling and the throttle
state (18_power_thermal.md R381-R391). -/

namespace Sys2Proof.Machine

open Sys2Proof

/-! The governor (R382, R384) -/

/-- Power in mW granted in the past 1 ms. -/
def grantedMw (now : Nat) (l : List Grant) : Nat := ((l.filter (fun g => now < g.at_ + 1000000)).map (·.mw)).foldl (· + ·) 0

/-- Rail current in mA granted in the past τ, which is 32 A over the slew rate in A per µs. -/
def grantedMa (now slew rail : Nat) (l : List Grant) : Nat :=
  ((l.filter (fun g => g.rail == rail && decide ((now - g.at_) * slew < 32000))).map (·.ma)).foldl (· + ·) 0

/-- Grants that still count for a window. -/
def liveGrants (now : Nat) (l : List Grant) : List Grant := l.filter (fun g => decide (now < g.at_ + 1000000))

/-- Package power in mW that the stagger patterns in force need in the coming 1 ms. -/
def Power.reserved (p : Power) : Nat :=
  (p.sealed.map (fun e => 38000 * min e.2.starting.length (ceilDiv p.rampW 912))).foldl (· + ·) 0

/-- A start scheduled for a sealed stand on a rail is due within τ. -/
def Power.railDue (p : Power) (now rail : Nat) : Bool :=
  p.sealed.any (fun e =>
    match e.2.starting with
    | c :: _ => c / 16 == rail && decide ((e.2.due - now) * p.slewA < 32000)
    | [] => false)

/-- Both windows have room for a request now (R382), and an open start leaves the room that scheduled sealed starts need (R384). -/
def State.admits (s : State) (r : PowerReq) : Bool :=
  let p := s.power
  let now := s.timeNs
  let l := if r.stop then p.stops else p.starts
  let (mw, ma) := r.unit.draw
  let room := if r.stop then 0 else p.reserved
  let vid := match r.unit with
    | .matrix _ => r.stop || s.flag Fld.PWR_VID_APPLIED
    | .vector _ => true
  vid && decide (grantedMw now l + mw + room ≤ 1000 * p.rampW) &&
  decide (grantedMa now p.slewA r.unit.rail l + ma ≤ 32000) && (r.stop || !p.railDue now r.unit.rail)

/-- Requests in the order in which they are considered: by request time, then by number. -/
def Power.considered (p : Power) : List PowerReq :=
  sortBy (fun (r : PowerReq) => r.since * 2 ^ 20 + r.unit.number) p.waiting

/-- GOVERNOR_GRANT: the first request that both windows admit is granted. A core that starts is clocked, in ballast until
work reaches it. -/
def execGovernorGrant (s : State) : Host.Outcome State Fault Refusal :=
  .next (
    match s.power.considered.find? s.admits with
    | none => s
    | some r =>
      s.updPower (fun p =>
        let (mw, ma) := r.unit.draw
        let g : Grant := ⟨s.timeNs, mw, r.unit.rail, ma⟩
        let p := { p with waiting := p.waiting.filter (· != r) }
        if r.stop then { p.setClock r.unit none with stops := liveGrants s.timeNs p.stops ++ [g] }
        else { p.setClock r.unit (some .ballast) with starts := liveGrants s.timeNs p.starts ++ [g] }))

/-- The cluster of a unit. -/
def PowerUnit.cluster : PowerUnit → Nat
  | .matrix c => c
  | .vector v => v / 864

/-- A cluster follows the pattern of a sealed stand: its cores never request a stop (R384). -/
def State.patterned (s : State) (c : Nat) : Bool :=
  (s.groveStand (c / 4)).any s.sealedStand ||
  s.power.sealed.any (fun e => e.2.stopping.contains c || e.2.starting.contains c)

/-- BALLAST_TIMEOUT: the matrix core of cluster `k`, or vector core `k`, has been in ballast for 1 µs and requests a stop
(R383). -/
def execBallastTimeout (matrix : Bool) (k : Nat) (s : State) : Host.Outcome State Fault Refusal :=
  .next (
    let u := if matrix then PowerUnit.matrix k else .vector k
    let clock := if matrix then s.power.matrix.get? k else s.power.vector.get? k
    if clock = some .ballast ∧ !s.patterned u.cluster then s.updPower (fun p => p.request true u s.timeNs) else s)

/-- A cluster's cores all clocked, in ballast. -/
def Power.clockCluster (p : Power) (c : Nat) : Power :=
  { p with matrix := p.matrix.set c .ballast,
           vector := (List.range 864).foldl (fun (m : SMap Clock) k => m.set (864 * c + k) .ballast) p.vector }

/-- The grants of a cluster's start or stop: its matrix core, and one τ later its vector cores as one. -/
def Power.clusterGrants (p : Power) (now c : Nat) : List Grant :=
  [⟨now, 25000, c / 16, 32000⟩, ⟨now + 32000 / p.slewA, 13000, c / 16, 17300⟩]

/-- SEALED_CLUSTER_START: the next cluster of sealed stand `n` stops, in descending order after its reset, or starts, in
ascending order. -/
def execSealedClusterStart (n : Nat) (s : State) : Host.Outcome State Fault Refusal :=
  .next (
    match s.power.sealed.get? n with
    | none => s
    | some p =>
      let now := s.timeNs
      let due := now + 912000000 / s.power.rampW
      match p.stopping, p.starting with
      | c :: rest, _ =>
        (s.stopCluster c).updPower (fun q => { q with
          stops := liveGrants now q.stops ++ q.clusterGrants now c, sealed := q.sealed.set n { p with stopping := rest, due := due } })
      | [], c :: rest =>
        if !s.flag Fld.PWR_VID_APPLIED then s
        else
          s.updPower (fun q => { q.clockCluster c with
            starts := liveGrants now q.starts ++ q.clusterGrants now c,
            sealed := q.sealed.set n { p with starting := rest, due := due } })
      | [], [] => s)

/-! Temperatures (R386, R389) -/

/-- The largest reading of a die's sensors. -/
def hottest (l : List Nat) : Nat := l.foldl max 0

/-- Sensors of a die: 20 on a compute die, 8 on a hub die. -/
def sensorsOf (die : Nat) : Nat := if die < 6 then 20 else 8

/-- The THM_ registers after a sample. -/
def State.showThermal (s : State) (r : List (List Nat)) : State :=
  let s := (List.range 8).foldl (fun s d =>
    let t := min 255 (hottest (r.getD d []))
    (s.setFld Fld.THM_DIE_MAX_C 0 d t).setFld Fld.THM_DIE_PEAK_C 0 d (max t (s.fld Fld.THM_DIE_PEAK_C 0 d))) s
  let temps := (List.range 8).map (fun d => s.fld Fld.THM_DIE_MAX_C 0 d)
  let top := ((List.range 8).find? (fun d => temps.getD d 0 == hottest temps)).getD 0
  ((s.setFld Fld.THM_STATUS_MAX_COMPUTE_C 0 0 (hottest (temps.take 6))).setFld Fld.THM_STATUS_MAX_HUB_C 0 0
    (hottest (temps.drop 6))).setFld Fld.THM_STATUS_HOTTEST_DIE 0 0 top

/-- THERMAL_SAMPLE: the readings of every sensor, by die, in °C. A sensor at 112 °C or above in two samples in a row trips
the package: THERMTRIP_N goes low, and the package is reset (22_package_pins.md R440). -/
def execThermalSample (readings : List (List Nat)) (fails : Nat) (s : State) : Host.Outcome State Fault Refusal :=
  .next (
    if !s.heartRuns then s
    else
      let r := (List.range 8).map (fun d => (readings.getD d []).take (sensorsOf d))
      let s := s.showThermal r
      let hot := r.zipIdx.flatMap (fun x => (x.1.zipIdx.filter (fun y => decide (112 ≤ y.1))).map (fun y => 32 * x.2 + y.2))
      if hot.any s.power.hot.contains then
        let s := s.satFld Fld.THM_STATUS_TRIPS 0 0 1
        { s with pins := { s.pins with thermtripReleased := false } }.restart 5 fails
      else s.updPower (fun p => { p with hot := hot }))

/-! Throttling (R387, R388) -/

/-- The rail registers after a measurement, and the package energy of the past 1 ms: `rails` are voltage in mV and current
in 0.1 A of each rail. -/
def State.showRails (s : State) (rails : List (Nat × Nat)) : State :=
  let s := (List.range 13).foldl (fun (s : State) i =>
    let x := rails.getD i (0, 0)
    ((s.setFld Fld.PWR_RAIL_MV 0 i x.1).setFld Fld.PWR_RAIL_DECIAMPS 0 i x.2).setFld Fld.PWR_RAIL_PEAK_DECIAMPS 0 i
      (max (x.2 % 2 ^ 16) (s.fld Fld.PWR_RAIL_PEAK_DECIAMPS 0 i))) s
  let sum := s.power.energyRest + ((rails.take 13).map (fun x => x.1 * x.2)).foldl (· + ·) 0
  (s.addFld Fld.PWR_PACKAGE_UJ_COUNT 0 0 (sum / 10)).updPower (fun p => { p with energyRest := sum % 10 })

/-- The energy of the cores in ballast, an estimate of the device's own. -/
def State.countBallast (s : State) : State :=
  if s.power.matrix.any (fun e => e.2 == .ballast) || s.power.vector.any (fun e => e.2 == .ballast) then
    let (x, s) := s.draw
    s.addFld Fld.PWR_BALLAST_UJ_COUNT 0 0 x.toNat
  else s

/-- THROTTLE_EVAL: the evaluation of each millisecond, with the rails as they are measured; `settled` says that the
previous change of state has been applied in full. -/
def execThrottleEval (rails : List (Nat × Nat)) (settled : Bool) (s : State) : Host.Outcome State Fault Refusal :=
  .next (
    if !s.heartRuns then s
    else
      let s := (s.showRails rails).countBallast
      if s.phase ≠ .running then s
      else
        let p := ((rails.take 13).map (fun x => x.1 * x.2)).foldl (· + ·) 0
        let limit := s.power.limitW * 10000
        let hot := s.fld Fld.THM_STATUS_MAX_COMPUTE_C
        let thr := s.fld Fld.THM_CTRL_THROTTLE_C
        let s := s.updPower (fun q => { q with
          cool := if hot < thr - 3 then q.cool + 1 else 0, low := if 100 * p ≤ 95 * limit then q.low + 1 else 0 })
        let old := s.fld Fld.PWR_STATUS_STATE
        let new :=
          if thr ≤ hot ∨ limit < p then min (old + 1) 7
          else if 10 ≤ s.power.cool ∧ 10 ≤ s.power.low then old - 1
          else old
        let new := if 106 ≤ hot then max new 5 else new
        let new := if 108 ≤ hot then 7 else if settled then new else old
        let s := s.setFld Fld.PWR_STATUS_STATE 0 0 new
        let s := if old < new then
            (s.setFld Fld.PWR_STATUS_POWER_CAUSE 0 0 (b01 (limit < p))).setFld Fld.PWR_STATUS_THERMAL_CAUSE 0 0
              (b01 (thr ≤ hot ∨ 106 ≤ hot))
          else s
        let s := if stateLevel old < 3 ∧ stateLevel new = 3 then s.testsAborted (List.range 24) else s
        s.settleLevel)

end Sys2Proof.Machine
end

