-- ==== Sys2Proof/Machine/FaultRows.lean ====
section
/-! DEFINITION. Faults of die links, steward cores, stand sequencers and the blocks that the whole package depends on, and
the end of a flood-limit window (01_organisation.md R14, R15; 19_faults_events.md R394, R397, R398, R403). -/

namespace Sys2Proof.Machine

open Sys2Proof

/-! Package fault (R398) -/

/-- The die whose recorder writes PACKAGE_FAULT: the hub die without the failed block, HD1 for Heartwood and the governor. -/
def faultRecorder (block : Nat) : Nat := if [0, 2, 3, 5, 7, 9].contains block then 7 else 6

/-- The cores stop, and no test goes on. -/
def State.faultStop (s : State) : State :=
  (s.updPower (fun p => { p with matrix := [], vector := [], waiting := [], sealed := [] })).testsAborted (List.range 24)

/-- The stands leave, their keys erased. -/
def State.dropStands (s : State) : State :=
  s.allStands.foldl (fun s n => (((s.eraseKeys n).eventOf n 0x0302 38 [5]).releaseStand n).removeStand n) s

/-- A block that the package depends on failed. -/
def State.failPackage (s : State) (block : Nat) : State :=
  if s.phase = .packageFault then s
  else
    let s := { s.faultStop.dropStands.stopOutputs with phase := .packageFault }
    let s := (s.setFld Fld.EVR_STATUS_PACKAGE_FAULT 0 0 1).setFld Fld.EVR_STATUS_FAULT_BLOCK 0 0 block
    s.event ⟨0x050A, none, faultRecorder block, 42, [block]⟩

/-- PACKAGE_FAULT: the block of FAULT_BLOCK number `block` failed. -/
def execPackageFault (block : Nat) (s : State) : Host.Outcome State Fault Refusal :=
  .next (if s.heartRuns ∧ block ≤ 10 then s.failPackage block else s)

/-! Steward cores and sequencers (R394, R397) -/

/-- STEWARD_FAILURE: steward core `core` failed while it ran `handlers` handlers. -/
def execStewardFailure (core handlers : Nat) (s : State) : Host.Outcome State Fault Refusal :=
  .next (
    if !s.heartRuns ∨ 64 ≤ core then s
    else if s.recorder.returning = some (2, core) then s.returnEnd 3
    else if (s.fld Fld.EVR_STEWARD_OUT_OUT).testBit core then s
    else
      let h := core / 32
      let s := s.setFld Fld.EVR_STEWARD_OUT_OUT 0 0 (s.fld Fld.EVR_STEWARD_OUT_OUT ||| 2 ^ core)
      let s := s.event ⟨0x0504, none, 6 + h, 37, [core, handlers]⟩
      let s := s.sharedFault (s.allStands.filter (fun n => s.hubOf n == h)) (6 + h) 37 2 core
      if (List.range 32).all (fun k => (s.fld Fld.EVR_STEWARD_OUT_OUT).testBit (32 * h + k)) then s.failPackage (9 + h) else s)

/-- SEQUENCER_FAILURE: sequencer `q` failed; the stand that it serves stops. -/
def execSequencerFailure (q : Nat) (s : State) : Host.Outcome State Fault Refusal :=
  .next (
    if !s.heartRuns ∨ 24 ≤ q then s
    else if s.recorder.returning = some (6, q) then s.returnEnd 3
    else if s.sequencersOut.testBit q then s
    else
      let s := { s with sequencersOut := s.sequencersOut ||| 2 ^ q }
      match s.allStands.find? (fun n => s.layout Fld.GLB_STAND_SEQUENCER n == q) with
      | some n => ((s.event ⟨0x0305, some n, 6 + q / 12, 38, [q]⟩).stopStand n 0x39).deliver
      | none => s.event ⟨0x0305, none, 6 + q / 12, 38, [q]⟩)

/-! Die links (01_organisation.md R14, R15) -/

/-- The dies of a stand: its hub die and those of its groves. -/
def State.diesOf (s : State) (n : Nat) : List Nat := distinct ((6 + s.hubOf n) :: (s.groves n).map (· / 4))

/-- Stands with a die at an end of link `i`. -/
def State.linkStands (s : State) (i : Nat) : List Nat :=
  s.allStands.filter (fun n => (s.diesOf n).any (fun d => d == (linkEnds i).1 || d == (linkEnds i).2))

/-- Stands without a path left from their hub die to one of their groves stop (R397). -/
def State.stopCutOff (s : State) : State :=
  (s.allStands.filter (fun n => (s.diesOf n).any (fun d => !s.reachable (s.hubOf n) d))).foldl
    (fun s n => s.stopStand n 0x3A) s

/-- DLINK_LANE_FAULT: a lane fault in the lower or upper half of a module of link `link`. The module runs at x32 on its
other half, or is disabled; the last working module of a link takes the link down. -/
def execDlinkLaneFault (link module : Nat) (upper : Bool) (s : State) : Host.Outcome State Fault Refusal :=
  .next (
    if !s.heartRuns ∨ 11 ≤ link ∨ linkModules link ≤ module then s
    else
      let key := 16 * link + module
      let s := s.returnFault 1 key
      let old := s.moduleFaults link module
      let new := if upper then (old.1, true) else (true, old.2)
      if new = old then s
      else
        let s := ({ s with modules := s.modules.set key new }).showLink link
        let die := 6 + linkHub link
        if s.linkWorks link then
          (s.event ⟨0x0402, none, die, 43, [1 + link * 2 ^ 8, module]⟩).sharedFault (s.linkStands link) die 43 1 key
        else
          ((s.event ⟨0x0401, none, die, 43, [1 + link * 2 ^ 8]⟩).sharedFault (s.linkStands link) die 43 8 link).stopCutOff.deliver)

/-! The recorder's flood limit (R403) -/

/-- FLOOD_WINDOW_END: a millisecond of SCH_NOW ends. -/
def execFloodWindowEnd (s : State) : Host.Outcome State Fault Refusal := .next s.closeWindow

end Sys2Proof.Machine
end

