-- ==== Sys2Proof/Machine/KvRows.lean ====
section
/-! DEFINITION. The commands of the KV manager, remote attention, and grammar masks (05_attention_state.md;
04_vector_cores.md R94, R101). -/

namespace Sys2Proof.Machine

open Sys2Proof

/-! Grammar masks (R101) -/

/-- Request `id` of stand `n`'s step is being sampled under a mask that has not been applied. -/
def State.awaitsMask (s : State) (n id : Nat) : Option Request :=
  match s.running n with
  | none => none
  | some st =>
    (s.stepRequests n).find? (fun r => r.id == id && r.hasMask && (st.masks.get? id).isNone &&
      (st.noToken.get? id).isNone && st.rows.any (fun w => w.req == id && w.sample))

/-- The position of the next token of request `id`: one above that of its first sampled row. -/
def State.nextPosition (s : State) (n id : Nat) : Nat :=
  (((s.stand n).step.bind (fun st => st.rows.find? (fun w => w.req == id && w.sample))).map (·.position + 1)).getD 0

/-- MASK_READ: the device reads the grammar mask of request `id` of stand `n` from host memory. -/
def execMaskRead (n id : Nat) (data : HostRead) (s : State) : Host.Outcome State Fault Refusal :=
  .next (
    match s.awaitsMask n id, data with
    | some r, .data b =>
      let vocab := ((((s.stand n).cfg.models.get? r.model).map (·.vocab)).getD 0)
      if !s.hostReach (.vf n) ∨ le b 0 4 ≠ s.nextPosition n id then s
      else if le b 4 4 ≠ vocab then s.withhold n id .maskInvalid
      else
        let m := sub b 64 (ceilDiv vocab 8)
        if (List.range vocab).any (fun t => (m.getD (t / 8) 0).toNat.testBit (t % 8)) then
          s.updStep n (fun st => { st with masks := st.masks.set id m })
        else s.withhold n id .grammarEmpty
    | _, _ => s)

/-- MASK_WAIT_EXPIRY: the mask wait of request `id` of stand `n` ends. -/
def execMaskWaitExpiry (n id : Nat) (s : State) : Host.Outcome State Fault Refusal :=
  .next (if (s.awaitsMask n id).isSome then s.withhold n id .maskLate else s)

/-! The pool (R104, R105) -/

/-- POOL_ENABLE: function `f` writes KVM_POOL of stand `n` with ENABLE 1. -/
def execPoolEnable (f : Fn) (n v : Nat) (s : State) : Host.Outcome State Fault Refusal :=
  .next (
    if v.testBit 48 then
      match s.writeRow f .KVM_POOL n 0 [Fld.KVM_POOL_ENABLE] v with
      | none => s
      | some t =>
        if s.flag Fld.KVM_POOL_ENABLE n then t
        else
          match t.readPool n (t.fld Fld.KVM_POOL_ADDR n) with
          | some p =>
            if t.poolOk n p then
              (if (t.stand n).step.isSome then t.updStand n (fun st => { st with kv := { st.kv with enabling := some p } })
               else t.poolStart n p)
            else (t.setFld Fld.KVM_POOL_ENABLE n 0 0).flagKv Fld.KVM_ERROR_POOL_INVALID n noSeq 0 0
          | none => (t.setFld Fld.KVM_POOL_ENABLE n 0 0).flagKv Fld.KVM_ERROR_POOL_INVALID n noSeq 0 0
    else s)

/-- POOL_DISABLE: function `f` writes KVM_POOL of stand `n` with ENABLE 0. -/
def execPoolDisable (f : Fn) (n v : Nat) (s : State) : Host.Outcome State Fault Refusal :=
  .next (
    if v.testBit 48 then s
    else
      match s.writeRow f .KVM_POOL n 0 [Fld.KVM_POOL_ENABLE] v with
      | none => s
      | some t =>
        if !s.flag Fld.KVM_POOL_ENABLE n then t
        else
          let t := t.updStand n (fun st => { st with kv := { st.kv with enabling := none } })
          if (t.stand n).kv.pool.isNone then t
          else if (t.stand n).step.isSome then t.updStand n (fun st => { st with kv := { st.kv with disabling := true } })
          else t.poolStop n)

/-- POOL_REBUILD_DONE: the rebuild of stand `n`'s pool ends, the response buffers are registered, and commands that
waited are applied where no step runs. -/
def execPoolRebuildDone (n : Nat) (s : State) : Host.Outcome State Fault Refusal :=
  .next (
    match (s.stand n).kv.pool with
    | some p =>
      if (s.stand n).kv.rebuilding then
        let s := ((s.rebuild n p).updStand n (fun st => { st with kv := { st.kv with rebuilding := false } }))
        (s.registerPartial n p).kvSettle n
      else s
    | none => s)

/-! Appends (R111) -/

/-- The `k`-th outstanding transfer of core `v`, an XOUT to a window of the aperture: the task without it, and its bytes. -/
def State.windowOut (s : State) (v k : Nat) (w : Window) : Option (VTask × List Byte) :=
  match s.task v with
  | none => none
  | some t =>
    match t.transfers[k]? with
    | none => none
    | some x =>
      if x.out ∧ s.transferWindow t.stand x = some w then
        some ({ t with transfers := listRemove t.transfers k }, s.xoutBytes v x)
      else none

/-- APPEND_RECORD: the `k`-th outstanding transfer of core `v` reaches the append window. -/
def execAppendRecord (v k : Nat) (s : State) : Host.Outcome State Fault Refusal :=
  .next (
    match s.windowOut v k .append with
    | none => s
    | some (t, bs) =>
      let n := t.stand
      let s := { s with freeCtr := s.freeCtr + 1 }
      match (s.stand n).kv.pool with
      | none => s
      | some p =>
        let a := AppendHeader.ofBytes bs
        if !s.appendOk n p a bs.length then (s.setTask v (some t)).illegal v t
        else ((s.appendRecord n p a (bs.drop 64)).setTask v (some t)).settle v)

/-! Commands of the ring (R118) -/

/-- The ring command at HEAD of stand `n` applied when it has the OP, or one that the ring does not know; device commands
follow once the ring is empty. While a step runs, or the pool is not in use, it waits. -/
def State.kvCommand (s : State) (n op : Nat) : State :=
  match s.kvActive n, s.ringFront kvRing n 32 with
  | some p, some e =>
    let o := le e 0 1
    if (s.stand n).step.isSome ∨ (o ≠ op ∧ 1 ≤ o ∧ o ≤ 4) then s else ((s.kvRingOne n p).1).kvSettle n
  | _, _ => s

/-- KV_CREATE of stand `n`. -/
def execKvCreate (n : Nat) (s : State) : Host.Outcome State Fault Refusal := .next (s.kvCommand n 1)

/-- KV_GRAFT. -/
def execKvGraft (n : Nat) (s : State) : Host.Outcome State Fault Refusal := .next (s.kvCommand n 2)

/-- KV_RELEASE. -/
def execKvRelease (n : Nat) (s : State) : Host.Outcome State Fault Refusal := .next (s.kvCommand n 3)

/-- KV_TRUNCATE. -/
def execKvTruncate (n : Nat) (s : State) : Host.Outcome State Fault Refusal := .next (s.kvCommand n 4)

/-! Remote attention (R120-R124) -/

/-- A holder table entry: connection key, inbox region key, generation and slots (R120). -/
def State.holder (s : State) (n : Nat) (p : Pool) (h : Nat) : Option (Nat × Nat × Nat × Nat) :=
  if p.holders ≤ h then none
  else
    match s.peek n (p.holderTable + 32 * h) 32 with
    | .ok b => some (bits (le b 0 8) 0 17, le b 8 8, le b 16 2, le b 20 4)
    | _ => none

/-- The status that a response buffer was given, as the KV manager judges it (R124). -/
def State.judgePartial (s : State) (n slot status : Nat) : State :=
  match (s.stand n).step.bind (fun st => st.rows[slot]?) with
  | none => s
  | some w =>
    if status = 1 ∨ status = 3 then
      s.updStep n (fun st => if st.degraded.contains w.req then st else { st with degraded := w.req :: st.degraded })
    else if status = 2 then (s.withhold n w.req .stateLost).flagKv Fld.KVM_ERROR_STATE_LOST n w.seq 0 0
    else s

/-- A response buffer given a status. -/
def State.resolvePartial (s : State) (n b : Nat) (r : RemotePending) (status : Nat) : State :=
  let r' := { r with resolved := some status, resolvedAt := s.timeNs }
  (s.updStand n (fun st => { st with kv := { st.kv with remotes := st.kv.remotes.set b r' } })).judgePartial n r.slot status

/-- A holder record answers while its holder is a member that Sapway has set UNREACHABLE: STATE_LOST
(09_state_movement.md Table 9.6). -/
def State.holderLost (s : State) (conn : Nat) : Bool :=
  s.members.any (fun m => m.2.conn == conn && m.2.state == 2)

/-- The request of a step's task sent to the holder (R120); its response buffer is pending from now. -/
def State.sendRequest (s : State) (n : Nat) (p : Pool) (bs : List Byte) : State :=
  let w := fun i => le bs (8 * i) 8
  let head := bits (w 0) 16 8
  let slot := bits (w 2) 32 32
  let g := s.kvGroup n p (4 * (((s.stand n).step.map (·.model)).getD 0) + bits (w 0) 56 2)
  let r : RemotePending := { step := bits (w 2) 0 32, slot := slot, layer := bits (w 0) 48 8, group := bits (w 0) 56 2,
                             head := head, sentNs := s.timeNs, budgetUs := g.remoteBudget, words := sub bs 0 24 }
  let b := 64 * slot + head
  let s := (s.updStand n (fun st => { st with kv := { st.kv with remotes := st.kv.remotes.set b r } })).addFld
    Fld.KVM_REMOTE_SENT_COUNT n 0 1
  match (s.stand n).step.bind (fun st => st.rows[slot]?) with
  | none => s
  | some row =>
    match s.holder n p (s.seqRecord n p row.seq).holder with
    | none => s
    | some (conn, key, gen, slots) =>
      if s.holderLost conn then s.resolvePartial n b r 2
      else if slots = 0 then s
      else s.fabIssue conn (.write key gen ((slot * g.heads + head) % slots * 8192) (.bytes bs) .nobody)

/-- REMOTE_REQUEST_SEND: the `k`-th outstanding transfer of core `v` reaches the request window; of a task that serves a
remote request, its response (log 19). -/
def execRemoteRequestSend (v k : Nat) (s : State) : Host.Outcome State Fault Refusal :=
  .next (
    match s.windowOut v k .request with
    | none => s
    | some (t, bs) =>
      let n := t.stand
      let s := { s with freeCtr := s.freeCtr + 1 }
      let s :=
        if t.service then
          (match (s.stand n).kv.serving.get? t.serial with
           | some sv => s.respond sv bs
           | none => s)
        else
          (match (s.stand n).kv.pool with
           | some p => s.sendRequest n p bs
           | none => s)
      (s.setTask v (some t)).settle v)

/-- The descriptor of a service task: the kernel's number and its arguments are not given (log 19). -/
def State.serviceDescriptor (s : State) : List Byte × State :=
  let (a, s) := s.draw
  let (b, s) := s.draw
  (toBytes 8 (Config.serviceKernel % 4096) ++ zeros 8 ++ toBytes 8 a.toNat ++ toBytes 8 b.toNat, s)

/-- The first remote request that waits placed on the lowest free core (R94); the Bool says whether one was. -/
def State.placeService (s : State) (n : Nat) : State × Bool :=
  match (s.stand n).kv.waiting, s.lowestFreeCore n none with
  | sv :: rest, some v =>
    if s.testHeld n then (s, false)
    else if !s.power.clocked (.vector v) then (s.vectorRequest v, false)
    else
      let (d, s) := s.serviceDescriptor
      let serial := s.taskCount
      let s := s.updStand n (fun st => { st with kv := { st.kv with
        waiting := rest, serving := st.kv.serving.set serial sv } })
      (s.startTask n v 0 d true, true)
  | _, _ => (s, false)

/-- Remote requests placed while cores are free. -/
def State.placeServices (n : Nat) : Nat → State → State
  | 0, s => s
  | fuel + 1, s => match s.placeService n with
    | (s, true) => State.placeServices n fuel s
    | (s, false) => s

/-- TASK_PLACE: the next waiting task of stand `n` is placed, of its step or for a remote request. -/
def execTaskPlace (n : Nat) (s : State) : Host.Outcome State Fault Refusal :=
  .next ((s.placeNext n).1.placeService n).1

/-- REMOTE_REQUEST_ARRIVE: a request record of `len` bytes has been written to stand address `a` of holder stand `n`'s
inbox over connection `conn`. -/
def execRemoteRequestArrive (n a len conn : Nat) (s : State) : Host.Outcome State Fault Refusal :=
  .next (
    match s.conn conn, s.peek n a len with
    | some c, .ok bs =>
      if c.stand ≠ n ∨ len < 64 ∨ (s.stand n).step.isSome then s
      else
        let sv : Service := { conn := conn, key := le bs 32 8, gen := le bs 40 2, offset := le bs 42 6, words := sub bs 0 24 }
        let s := s.updStand n (fun st => { st with kv := { st.kv with waiting := st.kv.waiting ++ [sv] } })
        State.placeServices n (s.stand n).kv.waiting.length s
    | _, _ => s)

/-- A response record for the buffer at `off` of stand `n`: it matches the request pending there. -/
def State.pendingFor (s : State) (n : Nat) (p : Pool) (off : Nat) (bs : List Byte) : Option (Nat × RemotePending) :=
  (s.stand n).kv.remotes.find? (fun e =>
    let r := e.2
    let g := s.kvGroup n p (4 * (((s.stand n).step.map (·.model)).getD 0) + r.group)
    r.resolved.isNone && (r.slot * g.heads + r.head) * 8192 == off && 64 ≤ bs.length &&
    bits (le bs 0 8) 16 8 == r.head && bits (le bs 0 8) 48 8 == r.layer && bits (le bs 0 8) 56 2 == r.group &&
    le bs 16 4 == r.step && le bs 20 4 == r.slot)

/-- REMOTE_RESPONSE: the first response that has arrived at stand `n` is applied or discarded (R123). -/
def execRemoteResponse (n : Nat) (s : State) : Host.Outcome State Fault Refusal :=
  .next (
    match (s.stand n).kv.arrived with
    | [] => s
    | (off, bs) :: rest =>
      let s := s.updStand n (fun st => { st with kv := { st.kv with arrived := rest } })
      match (s.stand n).kv.pool with
      | none => s.addFld Fld.KVM_REMOTE_LATE_COUNT n 0 1
      | some p =>
        match s.pendingFor n p off bs with
        | none => s.addFld Fld.KVM_REMOTE_LATE_COUNT n 0 1
        | some (b, r) => (s.standWrite n (p.partialAddr + off) bs).resolvePartial n b r (bits (le bs 24 8) 0 8))

/-- REMOTE_BUDGET_EXPIRY: REMOTE_BUDGET passes for response buffer `b` = 64 × slot + head of stand `n`: MISSING. -/
def execRemoteBudgetExpiry (n b : Nat) (s : State) : Host.Outcome State Fault Refusal :=
  .next (
    match (s.stand n).kv.remotes.get? b, (s.stand n).kv.pool with
    | some r, some p =>
      if r.resolved.isSome then s
      else
        let g := s.kvGroup n p (4 * (((s.stand n).step.map (·.model)).getD 0) + r.group)
        (s.standWrite n (p.partialAddr + (r.slot * g.heads + r.head) * 8192) (statusRecord r.words 1)).resolvePartial n b r 1
    | _, _ => s)

end Sys2Proof.Machine
end

