-- ==== Sys2Proof/Machine/SapwayRows.lean ====
section
/-! DEFINITION. The commands of Sapway: its rings, its control messages and its timers (09_state_movement.md
R196-R218). -/

namespace Sys2Proof.Machine

open Sys2Proof

/-! The stand ring (R218) -/

/-- The bit of SWY_ERROR that a result sets, with its context (R220). -/
def State.flagResult (s : State) (n bid result : Nat) : State :=
  match result with
  | 0x10 => s.flagSwy Fld.SWY_ERROR_BAD_COMMAND n bid
  | 0x19 => s.flagSwy Fld.SWY_ERROR_STATE_LOST n bid
  | 0x1C => s.flagSwy Fld.SWY_ERROR_GEOMETRY_MISMATCH n bid
  | 0x1D => s.flagSwy Fld.SWY_ERROR_BUNDLE_INVALID n bid
  | _ => s

/-- The command at the front waits: for one in progress on its sequence, or for room for another bundle. -/
def State.swyHeld (s : State) (n : Nat) : Bool :=
  match s.runFront .swy n with
  | none => false
  | some (_, e) =>
    (s.stand n).swyRun.busy.any (fun j => s.peekLe n (s.runEntry .swy n j + 4) 4 == le e 4 4) ||
    (((le e 0 1 == 1 && le e 12 4 == 2) || le e 0 1 == 4) && !s.bundleRoom n)

/-- A command of the stand's Sapway ring taken when it names the OP. -/
def State.swyCommand (s : State) (n op : Nat) (run : List Byte → Nat → State → State × Option Nat) : State :=
  if s.swyHeld n then s
  else
    ((s.runCommand .swy n op [1, 2, 3, 4, 5, 6, 7] (fun s => (s.flagResult n 0 0x10, 0x10)) (fun e i s =>
      match run e i s with
      | (s, some x) => (s.flagResult n (if op = 2 then le e 24 8 else 0) x, some x)
      | (s, none) => (s, none))).kvSettle n).deliver

/-- The REMOTE pages of a sequence: group, page and layer, in that order. -/
def State.remotePages (s : State) (n : Nat) (p : Pool) (seq : Nat) : List (Nat × Nat × Nat) :=
  let r := s.seqRecord n p seq
  ((s.kvGroups n p r.model).filter (·.remote)).flatMap (fun g =>
    (List.range (r.pages g)).flatMap (fun k =>
      let e := s.ptEntry n r g k
      if e.valid && e.remote then
        ((List.range g.layers).filter (fun i => !e.mask.testBit i)).map (fun i => (g.num % 4, k, i))
      else []))

/-- Pages read back from a holder, by the key of `Sending.back`; none where the holder could not be read. -/
def backPages (l : List (Nat × Nat × Nat)) (back : HostRead) : Option (SMap (List Byte)) :=
  match l, back with
  | [], _ => some []
  | _, .error => none
  | l, .data bs =>
    let put : SMap (List Byte) → (Nat × Nat × Nat) × Nat → SMap (List Byte) := fun m e =>
      m.set ((64 * e.1.1 + e.1.2.2) * 2 ^ 32 + e.1.2.1) (sub bs (kvFrame * e.2) kvFrame)
    some (l.zipIdx.foldl put [])

/-- A composition key as a command gives it: class, MODEL_ID and TENANT. -/
def keyOf (b : List Byte) : Nat × Nat × Nat :=
  let w := le b 0 8
  (bits w 0 8, bits w 8 16, bits w 24 16)

/-- SUSPEND to the stand's own tier: its result. -/
def State.suspendHere (s : State) (n i target ttl seq : Nat) (back : SMap (List Byte)) : State × Option Nat :=
  let (s, b) := s.dormantMove n seq ttl (.suspend i)
  match s.keepDormant n target ttl { b with back := back } with
  | (s, 0) => (((s.releaseSeq n seq).writeBundleId n i b.header.bundle).swyEvent n 3 0 b.header.bundle 0 seq, some 0)
  | (s, r) => (s, some r)

/-- SUSPEND to the cache list of the composition whose key lies at `a`. -/
def State.suspendThere (s : State) (n i ttl seq a : Nat) (back : SMap (List Byte)) : State × Option Nat :=
  match s.peek n a 8 with
  | .ok bs =>
    let (cls, model, tenant) := keyOf bs
    let h := s.hubOf n
    let (s, act) := s.activeEpoch h tenant model cls
    (match act.bind (fun num => s.epochOf h tenant model cls num) with
     | some ep =>
       if a % 8 ≠ 0 then (s, some 0x10)
       else
         let (s, b) := s.dormantMove n seq ttl (.suspend i)
         let list := ((s.records.get? ep.record).map (fun c => (c.cacheFirst, c.cacheCount))).getD (0, 0)
         (s.attempt n { b with
           header := { b.header with cls := cls, epoch := ep.num }, record := some ep.record, first := list.1,
           count := list.2, back := back }, none)
     | none => (s, some 0x10))
  | _ => (s.noted n a 8, some 0x10)

/-- SUSPEND (R207). `back` holds the REMOTE pages, as Sapway read them from their holder (R210). -/
def State.suspend (s : State) (n : Nat) (back : HostRead) (e : List Byte) (i : Nat) : State × Option Nat :=
  let seq := le e 4 4
  let ttl := le e 8 4
  let target := le e 12 4
  match s.kvActive n with
  | none => (s, some 0x10)
  | some p =>
    if ttl = 0 ∨ 2592000 < ttl ∨ 2 < target ∨ !s.seqValid n p seq then (s, some 0x10)
    else if (s.stand n).requests.any (·.seq == seq) then (s, some 0x18)
    else if s.seqPoisoned n p seq then (s, some 0x19)
    else
      match backPages (s.remotePages n p seq) back with
      | none => (s, some 0x19)
      | some pages =>
        if target = 2 then s.suspendThere n i ttl seq (le e 16 6) pages else s.suspendHere n i target ttl seq pages

/-- SUSPEND of stand `n`. -/
def execSuspend (n : Nat) (back : HostRead) (s : State) : Host.Outcome State Fault Refusal :=
  .next (s.swyCommand n 1 (fun e i s => s.suspend n back e i))

/-- The bundle that a RESUME names, or the result where it cannot be had. -/
def State.bundleFor (s : State) (n bid member : Nat) (fetched : Fetched) : Except Nat (List Byte) :=
  if member = noMember then
    match (s.stand n).sapway.store.get? bid with
    | none => .error 0x1A
    | some d => if d.expires ≤ s.nowS then .error 0x1B else .ok (s.storedBundle n d)
  else
    match s.members.get? member, fetched with
    | some m, .bundle bs => if m.state = 0 ∧ s.connReady n m.conn then .ok bs else .error 0x19
    | some _, .status r => .error (if r = 0x1A ∨ r = 0x1B then r else 0x19)
    | none, _ => .error 0x1A

/-- A checked bundle installed in a sequence that is not VALID (R204 steps 4 and 5): its result. -/
def State.resumeInto (s : State) (n : Nat) (p : Pool) (seq m : Nat) (h : BundleHeader) (l : List OpenSection) : State × Nat :=
  let tables := (List.range 4).map (fun i => s.peekLe n (p.record seq + 8 + 8 * i) 8)
  match s.kvCreate n p { op := 1, seq := seq, src := m, tables := tables } with
  | (t, 0) =>
    (match t.installPages n p seq m l with
     | none => (s, 0x13)
     | some t =>
       let tokens := sectionOf l 1
       let t := match t.historySlot n p with
         | some k => if tokens.length ≤ 4 * t.fld Fld.SWY_HISTORY_POOL_1_SIZE n then t.installHistory n seq k tokens else t
         | none => t
       ((t.setLength n p seq h.length).addFld Fld.SWY_BUNDLES_RECEIVED_COUNT n 0 1, 0))
  | (_, r) => (s, r)

/-- RESUME (R209): its result. -/
def State.resume (s : State) (n : Nat) (fetched : Fetched) (e : List Byte) : State × Nat :=
  let seq := le e 4 4
  let bid := le e 24 8
  let member := le e 12 4
  let conn := ((s.members.get? member).map (fun m => connItem m.conn)).getD 0
  match s.kvActive n with
  | none => (s, 0x10)
  | some p =>
    if p.seqMax ≤ seq ∨ s.seqValid n p seq then (s, 0x10)
    else
      match s.bundleFor n bid member fetched with
      | .error r => (s, r)
      | .ok b =>
        let h := BundleHeader.ofBytes b
        if !headerOk b ∨ h.bundle ≠ bid then (s.eventOf n 0x3009 32 [bid, 1], 0x1D)
        else
          match s.modelFor n h.modelId with
          | none => (s, 0x1C)
          | some m =>
            if !s.geometryOk n p m h then (s, 0x1C)
            else
              match s.checkBundle n (some m) b with
              | .error 2 => (s.eventOf n 0x300A 32 [bid, conn, h.keyId], 0x15)
              | .error step => (s.eventOf n 0x3009 32 [bid, step], 0x1D)
              | .ok l => s.resumeInto n p seq m h l

/-- RESUME of stand `n`. `fetched` is what the remote holder's bundle reads. -/
def execResume (n : Nat) (fetched : Fetched) (s : State) : Host.Outcome State Fault Refusal :=
  .next (s.swyCommand n 2 (fun e _ s => let (t, r) := s.resume n fetched e; (t, some r)))

/-- A bundle freed from the store. -/
def State.freeBundle (s : State) (n bid : Nat) : State := s.updSapway n (fun w => { w with store := w.store.del bid })

/-- DISCARD of stand `n`. `status` is what a remote holder answered. -/
def execDiscard (n status : Nat) (s : State) : Host.Outcome State Fault Refusal :=
  .next (s.swyCommand n 3 (fun e _ s =>
    let bid := le e 24 8
    let member := le e 12 4
    if member = noMember then
      (if ((s.stand n).sapway.store.get? bid).isSome then (s.freeBundle n bid, some 0) else (s, some 0x1A))
    else (s, some (if status = 0 ∧ (s.members.get? member).any (fun m => m.state == 0 && s.connReady n m.conn) then 0 else 0x1A))))

/-- The pages that a HOLD names are SEALED, in every layer that the sequence references. -/
def State.holdSealed (s : State) (n : Nat) (r : SeqRecord) (g : KvGroup) (first count : Nat) : Bool :=
  decide (first + count ≤ r.pages g) && (List.range count).all (fun j =>
    let e := s.ptEntry n r g (first + j)
    e.valid && !e.remote && (List.range g.layers).all (fun i =>
      !e.references i || (s.pageHeader n g e.set i).state == 2))

/-- HOLD (R210). -/
def State.holdPages (s : State) (n : Nat) (e : List Byte) (i : Nat) : State × Option Nat :=
  let seq := le e 4 4
  let first := le e 8 4
  let entry := le e 12 4
  let count := le e 16 4
  let hours := le e 20 2
  match s.kvActive n with
  | none => (s, some 0x10)
  | some p =>
    let r := s.seqRecord n p seq
    let gs := (s.kvGroups n p r.model).filter (·.remote)
    if !s.seqValid n p seq ∨ hours = 0 ∨ 720 < hours ∨ (!(s.remotePages n p seq).isEmpty ∧ r.holder ≠ entry) then (s, some 0x10)
    else if s.seqPoisoned n p seq then (s, some 0x19)
    else if gs.any (fun g => !s.holdSealed n r g first count) then (s, some 0x10)
    else
      match s.holder n p entry with
      | none => (s, some 0x10)
      | some (conn, key, gen, slots) =>
        if !s.connReady n conn then (s, some 0x1E)
        else
          let (s, b) := s.dormantMove n seq (hours * 3600) (.hold i entry first count)
          let h := { b.header with kind := 4, history := 0 }
          (s.sendOffer n { b with header := h, tokens := [], conn := some conn, inbox := (key, gen, slots) }, none)

/-- HOLD of stand `n`. -/
def execHold (n : Nat) (s : State) : Host.Outcome State Fault Refusal :=
  .next (s.swyCommand n 4 (fun e i s => s.holdPages n e i))

/-- CANOPY_INSERT of stand `n` (R215). -/
def execCanopyInsert (n : Nat) (s : State) : Host.Outcome State Fault Refusal :=
  .next (s.swyCommand n 5 (fun e _ s => let (t, r) := s.canopyInsert n (le e 4 4); (t, some r)))

/-- CANOPY_DROP of stand `n` (R215): it waits while nodes of its anchor are pinned. -/
def execCanopyDrop (n : Nat) (s : State) : Host.Outcome State Fault Refusal :=
  .next (s.swyCommand n 6 (fun e i s =>
    let seq := le e 4 4
    if (s.stand n).canopy.all (fun x => x.2.anchor != seq) then (s, some 0x1A)
    else
      match s.dropAnchor n seq with
      | (s, true) => (s, some 0)
      | (s, false) => (s.updSapway n (fun w => { w with drops := w.drops ++ [(i, seq)] }), none)))

/-- JOB_REGIONS of stand `n` (R201). -/
def execJobRegions (n : Nat) (s : State) : Host.Outcome State Fault Refusal :=
  .next (s.swyCommand n 7 (fun e _ s =>
    let keyId := le e 8 4
    let a := le e 16 6
    if (s.jobKey n keyId).isNone then (s, some 0x15)
    else if a % 8 ≠ 0 ∨ !s.writableRange n a 64 then (s, some 0x10)
    else
      let x := s.inboxOf n keyId
      let y := s.stagingOf n keyId
      (s.standWrite n a (toBytes 8 x.1 ++ toBytes 4 x.2.1 ++ toBytes 4 x.2.2 ++ toBytes 8 y.1 ++ toBytes 4 y.2.1 ++
        toBytes 4 (y.2.2 / 65536)), some 0)))

/-! The package ring (R196, R218) -/

/-- A command of the package ring, whose entry in host memory reads `cmd`, run when it names the OP. -/
def State.swypCommand (s : State) (op : Nat) (cmd : List Byte) (run : State → State × Nat) : State :=
  let size := 2 ^ s.fld Fld.SWYP_CMD_RING_SIZE_LOG2
  let h := s.fld Fld.SWYP_CMD_HEAD_INDEX % size
  let a := s.fld Fld.SWYP_CMD_RING_ADDR + 32 * h
  let o := le cmd 0 1
  if h = s.fld Fld.SWYP_CMD_TAIL_INDEX % size ∨ !s.hostReach .pf ∨ (o ≠ op ∧ [1, 2, 3].contains o) then s
  else
    let (t, res) := if o ≠ op then (s, 0x10) else run s
    (((t.hostWrite .pf (a + 1) [BitVec.ofNat 8 res]).setFld Fld.SWYP_CMD_HEAD_INDEX 0 0 ((h + 1) % size)).retireEpochs).deliver

/-- The composition key that a package command names, where the host's memory returned it. -/
def keyRecord (cmd : List Byte) (key : HostRead) : Option (List Byte) :=
  match key with
  | .data b => if le cmd 16 6 % 8 = 0 then some b else none
  | .error => none

/-- Composition records and member entries as the device half-stack now holds them (R194). -/
def State.takeContent (s : State) (c : CompContent) : State :=
  { s with records := c.records.foldl (fun m e => m.set e.1 e.2) s.records,
           members := c.members.foldl (fun m e => m.set e.1 e.2) s.members }

/-- MAP_SET of an epoch with its record under a key: its result (R196). A returned bank of the composition map joins with
it (19_faults_events.md Table 19.3). -/
def State.mapSet (s : State) (cls model tenant num record : Nat) : State × Nat :=
  let old := (s.composition tenant model cls).getD ⟨tenant, model, cls, []⟩
  if old.epochs.any (fun e => num ≤ e.num) then (s, 0x10)
  else if 3 < old.epochs.length then (s, 0x20)
  else
    let s := (s.joinAt 0 true).joinAt 1 true
    let entry : SearchEntry := ⟨compKey tenant model cls, 2 ^ 40 - 1, 128 * 40, num + record % 2 ^ 24 * 2 ^ 32⟩
    match s.tableInsert (compTable 0) entry with
    | none => (s.tableFull (compTable 0), 0x22)
    | some t =>
      match t.tableInsert (compTable 1) entry with
      | none => (s.tableFull (compTable 1), 0x22)
      | some t => (t.setComposition { old with
          epochs := ⟨num, record, true, 3⟩ :: old.epochs.map (fun e => { e with active := false }) }, 0)

/-- MAP_SET: the entry, the key record at its ADDR, and the records and members written for it. -/
def execMapSet (cmd : List Byte) (key : HostRead) (content : CompContent) (s : State) : Host.Outcome State Fault Refusal :=
  .next (s.swypCommand 1 cmd (fun s =>
    match keyRecord cmd key with
    | none => (s, 0x10)
    | some b =>
      let (cls, model, tenant) := keyOf b
      (s.takeContent content).mapSet cls model tenant (le b 8 4) (le cmd 8 4)))

/-- MEMBER_STATE (R195, R218). -/
def execMemberState (cmd : List Byte) (content : CompContent) (s : State) : Host.Outcome State Fault Refusal :=
  .next (s.swypCommand 2 cmd (fun s =>
    let s := s.takeContent content
    match s.members.get? (le cmd 8 4) with
    | some m =>
      if 2 < le cmd 12 4 then (s, 0x10)
      else ({ s with members := s.members.set (le cmd 8 4) { m with state := le cmd 12 4 } }, 0)
    | none => (s, 0x10)))

/-- MAP_DELETE: the key's entry is removed, and its ACTIVE epoch drains. -/
def execMapDelete (cmd : List Byte) (key : HostRead) (s : State) : Host.Outcome State Fault Refusal :=
  .next (s.swypCommand 3 cmd (fun s =>
    match keyRecord cmd key with
    | none => (s, 0x10)
    | some b =>
      let (cls, model, tenant) := keyOf b
      match s.composition tenant model cls with
      | none => (s, 0x10)
      | some c =>
        if c.epochs.all (fun e => !e.active) then (s, 0x10)
        else if 3 < c.epochs.length then (s, 0x20)
        else
          let k := compKey tenant model cls
          let t := ((s.tableDelete (compTable 0) k (2 ^ 40 - 1)).1.tableDelete (compTable 1) k (2 ^ 40 - 1)).1
          (t.setComposition { c with epochs := c.epochs.map (fun e => { e with active := false }) }, 0)))

/-! Control messages (Table 9.4) -/

/-- A message handled, and what it brings about finished. -/
def State.swyMail (s : State) (n type : Nat) (run : Nat → Nat → List Byte → State → State × Bool) : State :=
  ((s.takeMail n type run).kvSettle n).deliver

/-- The move that a message of its present attempt's member answers. -/
def State.answered (s : State) (n conn bid : Nat) (msg : List Byte) : Option Sending :=
  (s.sending n bid).bind (fun b => if b.conn = some conn ∧ b.attempt % 256 = le msg 1 1 then some b else none)

/-- OFFER received by stand `n`. -/
def execOffer (n : Nat) (s : State) : Host.Outcome State Fault Refusal :=
  .next (s.swyMail n 1 (fun k _ m s => (s.takeOffer n k m, true)))

/-- ACCEPT received by stand `n`. -/
def execAccept (n : Nat) (s : State) : Host.Outcome State Fault Refusal :=
  .next (s.swyMail n 2 (fun k bid m s =>
    match s.answered n k bid m with
    | some b => (s.takeAccept n b m, true)
    | none => (s, true)))

/-- REFUSE received by stand `n`: the attempt fails. -/
def execRefuse (n : Nat) (s : State) : Host.Outcome State Fault Refusal :=
  .next (s.swyMail n 3 (fun k bid m s =>
    match s.answered n k bid m with
    | some b => (s.failAttempt n b (le m 2 1), true)
    | none => (s, true)))

/-- DONE received by stand `n`. -/
def execDone (n : Nat) (s : State) : Host.Outcome State Fault Refusal :=
  .next (s.swyMail n 4 (fun k bid m s =>
    match s.arrival n k bid with
    | some a => s.takeDone n a m
    | none => (s, true)))

/-- COMMITTED received by stand `n`. -/
def execCommitted (n : Nat) (s : State) : Host.Outcome State Fault Refusal :=
  .next (s.swyMail n 5 (fun k bid m s =>
    match s.answered n k bid m with
    | some b => (if b.phase = .done then s.takeCommitted n b m else s, true)
    | none => (s, true)))

/-- ABORT received by stand `n`. -/
def execAbort (n : Nat) (s : State) : Host.Outcome State Fault Refusal :=
  .next (s.swyMail n 6 (fun k bid m s => (s.takeAbort n k bid (le m 2 1), true)))

/-! Timers (R205, R208) -/

/-- HANDOFF_TIMEOUT: no ACCEPT, or no COMMITTED, came in time for bundle `bid` of stand `n`. -/
def execHandoffTimeout (n bid : Nat) (s : State) : Host.Outcome State Fault Refusal :=
  .next (
    match s.sending n bid with
    | some b => if b.conn.isNone ∨ b.phase = .accepted then s else ((s.failAttempt n b 0x23).kvSettle n).deliver
    | none => s)

/-- RECEIVER_TIMEOUT: stand `n` has heard nothing of bundle `bid` from connection `conn`: the partial bundle is discarded
and its request reported. -/
def execReceiverTimeout (n conn bid : Nat) (s : State) : Host.Outcome State Fault Refusal :=
  .next (
    match s.arrival n conn bid with
    | none => s
    | some a =>
      let h := BundleHeader.ofBytes a.words
      let s := ((s.endArrival n a true).flagSwy Fld.SWY_ERROR_STATE_LOST n bid).swyEvent n 6 h.request bid h.epoch
        (a.seq.getD 0)
      ((s.acceptMore n).kvSettle n).deliver)

/-- BUNDLE_EXPIRY: the dormant bundle `id` of stand `n`, or the holder record of sequence `id`, reaches TTL 0 (R208,
R210). -/
def execBundleExpiry (n : Nat) (hold : Bool) (id : Nat) (s : State) : Host.Outcome State Fault Refusal :=
  .next (
    if hold then
      (if ((s.stand n).sapway.holds.get? id).isNone then s
       else
         let s := s.updSapway n (fun w => { w with holds := w.holds.del id })
         ((s.releaseSeq n id).swyEvent n 4 0 0 0 id))
    else if ((s.stand n).sapway.store.get? id).isNone then s
    else (s.freeBundle n id).swyEvent n 4 0 id 0 0)

end Sys2Proof.Machine
end

