-- ==== Sys2Proof/Machine/Sched.lean ====
section
/-! DEFINITION. The stand sequencer: step composition and the commit phase (08_serving_scheduler.md R171-R183;
16_configuration_image.md R350). -/

namespace Sys2Proof.Machine

open Sys2Proof

/-- LAYER_MARK of stand `n`: complete once every earlier operation is; the layers done so far go to handoffs in progress
(09_state_movement.md R202), and CHECKPOINT is word 0 bit 32. -/
def execLayerMark (n : Nat) (s : State) : Host.Outcome State Fault Refusal :=
  .next (s.startOp n 3 5 (fun st i b s =>
    let s := (s.completeOp n i).updStep n (fun st => { st with layers := st.layers + 1 })
    let s := s.pushLayers n (st.layers + 1)
    (if bit (le b 0 8) 32 then s.checkpoint n else s).deliver))

/-! Token budgets (R176, R177) -/

/-- A bucket filled for `dt` µs at a rate, up to its burst. -/
def fill (level : Int) (dt rate burst : Nat) : Int := min (burst * 1000000 : Int) (level + dt * rate)

/-- The device's words of the record at `a`, refilled at `now`. -/
def State.refill (s : State) (n a now : Nat) : Levels :=
  let w0 := s.peekLe n a 8
  let w1 := s.peekLe n (a + 8) 8
  let dt := now - s.peekLe n (a + 32) 8
  { tc := fill (signed 64 (s.peekLe n (a + 16) 8)) dt (bits w0 0 32) (bits w1 0 32),
    tp := fill (signed 64 (s.peekLe n (a + 24) 8)) dt (bits w0 32 32) (bits w1 32 32),
    last := now, prompt := s.peekLe n (a + 40) 8, gen := s.peekLe n (a + 48) 8 }

/-- The colour of a customer: 0 GREEN, 1 YELLOW, 2 RED. -/
def Levels.colour (l : Levels) : Nat := if l.tp < 1000000 then 2 else if l.tc < 1000000 then 1 else 0

/-- `k` tokens charged. -/
def Levels.charge (l : Levels) (k : Nat) : Levels := { l with tc := l.tc - k * 1000000, tp := l.tp - k * 1000000 }

/-- The bytes of words 2 to 6 of a record. -/
def Levels.bytes (l : Levels) : List Byte :=
  let word := fun x : Int => toBytes 8 (x % 2 ^ 64).toNat
  word l.tc ++ word l.tp ++ toBytes 8 l.last ++ toBytes 8 l.prompt ++ toBytes 8 l.gen

/-- The refilled buckets of every customer with a request of model `m`. -/
def State.refillModel (s : State) (n m : Nat) : SMap Levels :=
  (distinct (((s.stand n).requests.filter (fun r => r.model == m)).map Request.customer)).foldl (fun (l : SMap Levels) c =>
    match s.customerAt n c with
    | some a => l.set c (s.refill n a s.nowUs)
    | none => l) []

/-! Reading what the sequencer needs -/

/-- A number at a stand address; open where it cannot be read. -/
def State.openLe (s : State) (n a len : Nat) : Nat :=
  match s.peek n a len with
  | .ok bs => ofBytes bs
  | _ => ofBytes ((List.range len).map (fun i => Config.freeByte s.freeCtr (a + i)))

/-- The token of a request's history at a position. -/
def State.historyToken (s : State) (n : Nat) (r : Request) (pos : Nat) : Nat := s.openLe n (r.history + 4 * pos) 4

/-- LENGTH of a request's sequence. -/
def State.lengthOf (s : State) (n : Nat) (r : Request) : Nat :=
  match (s.stand n).kv.pool with
  | some p => (s.seqRecord n p r.seq).length
  | none => 0

/-- Every position of the request's history that must be computed before its next token, but the last, is (R170). -/
def State.prefilled (s : State) (n : Nat) (r : Request) : Bool :=
  let len := s.lengthOf n r
  r.promptLen ≤ len && r.promptLen + r.generated ≤ len + 1

/-- ROW_BUDGET of a stand's step of model `m` (Table 8.6), reduced while SUSPECT (11_fabric_memory.md R265). -/
def State.fullBudget (s : State) (n m : Nat) : Nat :=
  let b := (s.stand n).cfg.rowBudget
  if b ≠ 0 then b
  else
    let g := ((List.range (s.opCount n m)).findSome? (fun i =>
      let o := s.opBytes n m i
      if le o 0 1 = 1 then some (MatmulOp.ofBytes o).g else none)).getD 1
    512 * g

def State.rowBudget (s : State) (n m : Nat) : Nat :=
  let b := s.fullBudget n m
  if s.flag Fld.FMM_STATUS_SUSPECT n then max 16 (b * (8 - s.fld Fld.FMM_CTRL_SHED n) / 128 * 16) else b

/-- SLOT_MAX and PREFILL_CHUNK, with their defaults. -/
def State.slotMax (s : State) (n m : Nat) : Nat :=
  let k := (s.stand n).cfg.slotMax
  if k = 0 then s.fullBudget n m else k
def State.prefillChunk (s : State) (n : Nat) : Nat :=
  let k := (s.stand n).cfg.prefillChunk
  if k = 0 then 2048 else k

/-! Composition (R171) -/

/-- What kind of step is being composed (R182). -/
inductive StepMode where
  | plain | draft | verify
  deriving DecidableEq, Repr

/-- A step in composition. -/
structure Composing where
  rows : List Row := []
  room : Nat
  levels : SMap Levels
  /-- Completion entries reserved, by queue. -/
  reserved : SMap Nat := []
  /-- Requests held for completion-queue room: sequence and queue. -/
  held : List (Nat × Nat) := []
  segments : Nat := 0
  packed : Nat := 0
  charged : Nat := 0
  requests : List Request
  /-- Requests whose prefill finishes in the step, or that get their first token in it. -/
  first : List Nat := []
  deriving DecidableEq, Repr

/-- The colour of a request's customer: RED where its record is away or not enabled. -/
def State.colourOf (s : State) (n : Nat) (c : Composing) (r : Request) : Nat :=
  match c.levels.get? r.customer with
  | some l => if s.customerOn n r.customer then l.colour else 2
  | none => 2

/-- Room in a request's completion queue for `k` more entries. -/
def State.cqFits (s : State) (n : Nat) (c : Composing) (r : Request) (k : Nat) : Bool :=
  decide (k + (c.reserved.get? r.cq).getD 0 ≤ s.cqRoom n r.cq)

/-- `k` entries reserved. -/
def Composing.reserve (c : Composing) (q k : Nat) : Composing :=
  { c with reserved := c.reserved.set q ((c.reserved.get? q).getD 0 + k) }

/-- A request held for its queue. -/
def Composing.hold (c : Composing) (r : Request) : Composing := { c with held := c.held ++ [(r.seq, r.cq)] }

/-- Requests of a model in a state, in service order: by colour, then by deadline, then by intake. -/
def State.serviceOrder (s : State) (n m : Nat) (c : Composing) (st : ReqState) : List Request :=
  sortBy (fun r => s.colourOf n c r * 2 ^ 80 + (match r.deadline with | some d => d | none => 2 ^ 70))
    (c.requests.filter (fun r => r.model == m && r.state == st))

/-- The generation rows of a request: in a verify step its input token and its draft tokens. -/
def State.genRows (s : State) (n : Nat) (mode : StepMode) (r : Request) : List Row :=
  let len := s.lengthOf n r
  let row := fun pos tok kind => ({ req := r.id, seq := r.seq, position := pos, token := tok, segment := 0xFFFF,
                                      kind := kind, sample := true } : Row)
  match mode with
  | .plain => [row len (s.historyToken n r len) .decode]
  | .draft => [row (len + r.drafts.length) ((r.drafts.getLast?).getD (s.historyToken n r len)) .decode]
  | .verify => row len (s.historyToken n r len) .verify ::
      r.drafts.zipIdx.map (fun d => row (len + 1 + d.2) d.1 .verify)

/-- A generating request given its rows, or held. -/
def State.giveRows (s : State) (n : Nat) (mode : StepMode) (need : Nat) (c : Composing) (r : Request) : Composing :=
  if s.colourOf n c r = 2 then c
  else if !s.cqFits n c r (need + 1) then c.hold r
  else if c.room < need then c
  else
    let rows := s.genRows n mode r
    let c := c.reserve r.cq (need + 1)
    { c with rows := c.rows ++ rows, room := c.room - rows.length,
             first := if r.generated = 0 ∧ mode ≠ .draft then c.first ++ [r.id] else c.first }

/-- A queued request may be admitted (R170). -/
def State.admissible (s : State) (n : Nat) (r : Request) : Bool :=
  match s.kvActive n with
  | some p => s.seqValid n p r.seq && decide (r.ringMark ≤ (s.stand n).kv.ringDone) &&
      decide (r.deviceMark ≤ (s.stand n).kv.deviceDone)
  | none => false

/-- Queued requests of a model admitted, in order of intake, up to SLOT_MAX. -/
def State.admitRows (s : State) (n m : Nat) (c : Composing) : Composing :=
  let step : List Request × Nat → Request → List Request × Nat := fun a r =>
    if r.model = m ∧ r.state = .queued ∧ a.2 < s.slotMax n m ∧ s.admissible n r then
      (a.1 ++ [{ r with state := if s.prefilled n r then .generating else .prefill }], a.2 + 1)
    else (a.1 ++ [r], a.2)
  let busy := (c.requests.filter (fun r => r.model == m && r.state != .queued)).length
  { c with requests := (c.requests.foldl step ([], busy)).1 }

/-- A request in prefill given a chunk, or held. -/
def State.givePrefill (s : State) (n : Nat) (c : Composing) (r : Request) : Composing :=
  let len := s.lengthOf n r
  let remaining := r.promptLen + r.generated - len
  let k := min (min remaining (s.prefillChunk n)) (min c.room (16384 - c.packed))
  if c.room = 0 ∨ s.colourOf n c r = 2 ∨ k = 0 then c
  else if k = remaining ∧ !s.cqFits n c r 2 then c.hold r
  else
    let rowAt : Nat → Row := fun j =>
      { req := r.id, seq := r.seq, position := len + j, token := s.historyToken n r (len + j), segment := c.segments,
        kind := .prefill, sample := decide (k = remaining) && j + 1 == k }
    let rows := (List.range k).map rowAt
    let c := if k = remaining then c.reserve r.cq 2 else c
    { c with
      rows := c.rows ++ rows, room := c.room - k, segments := c.segments + 1, packed := c.packed + k,
      charged := c.charged + k,
      levels := (match c.levels.get? r.customer with
        | some l => c.levels.set r.customer { l.charge k with prompt := l.prompt + k }
        | none => c.levels),
      first := if k = remaining then c.first ++ [r.id] else c.first }

/-- A step of model `m` composed, before it is known whether it has rows. -/
def State.composeFor (s : State) (n m : Nat) (mode : StepMode) (specK : Nat) : Composing :=
  let c : Composing := { room := s.rowBudget n m, levels := s.refillModel n m, requests := (s.stand n).requests }
  let need := if mode = .verify then specK + 1 else 1
  let c := (s.serviceOrder n m c .generating).foldl (s.giveRows n mode need) c
  if mode = .draft then c
  else
    let c := s.admitRows n m c
    (s.serviceOrder n m c .prefill).foldl (s.givePrefill n) c

/-! Choosing the model (R172), and its load checks -/

/-- The models in the order in which the turn offers them, each with the turn that it would take its step in. -/
def Stand.turns (st : Stand) : List Turn :=
  let t := st.turn
  let steps := ((st.cfg.models.get? t.model).map (·.steps)).getD 1
  let next := ((List.range 8).map (fun i => (t.model + 1 + i) % 8)).map (fun m => ({ model := m } : Turn))
  if t.taken < steps ∨ t.drafts ≠ 0 then t :: next else next

/-- The event for a model that cannot run. -/
def State.refuseModel (s : State) (n code m : Nat) : State := s.eventOf n code 38 [m]

/-- The environment of a load check: stand memory, and the stand's dies. -/
def State.programEnv (s : State) (n : Nat) : ProgEnv :=
  { read := fun a len => match s.peek n a len with | .ok b => some b | _ => none,
    mapped := fun a => (s.loc n a).isSome,
    dies := (s.dieOrder n).length,
    forms := fun k => (s.dieOrder n).all (fun d => !(s.formedGroups n d (2 ^ k)).isEmpty) }

/-- The load checks of model `m`: the event code of the refusal (R350). -/
def State.loadFault (s : State) (n m : Nat) : Option Nat :=
  match (s.stand n).cfg.models.get? m, (s.stand n).kv.pool with
  | some c, some p =>
    let specK := (s.stand n).cfg.pair.bind (fun x => if x.verifier = m ∨ x.draft = m then some x.specK else none)
    firstFault
      [(s.programEnv n).programFault c.program,
       groupsFault (s.kvGroups n p m) (s.groupLayers n) specK (if c.canopy then some (2 ^ c.canopyTpp) else none) p.remoteKey]
  | _, _ => some 0x0106

/-- A model loaded, if it is not yet; the Bool says that it is. -/
def State.loadModel (s : State) (n m : Nat) : State × Bool :=
  if (s.stand n).loaded.contains m then (s, true)
  else
    match s.loadFault n m with
    | none => (s.updStand n (fun st => { st with loaded := m :: st.loaded }), true)
    | some code => (s.refuseModel n code m, false)

/-- The first pair whose verifier is model `m`. -/
def Stand.pairOf (st : Stand) (m : Nat) : Option PairCfg := st.cfg.pair.bind (fun p => if p.verifier = m then some p else none)

/-- What the turn offers for a model: the mode, the model whose program runs, and the composition; none where it has no
rows. -/
def State.offer (s : State) (n : Nat) (t : Turn) : Option (StepMode × Nat × Composing) :=
  let st := s.stand n
  let m := t.model
  let rowsOf := fun (mode : StepMode) (run k : Nat) =>
    let c := s.composeFor n m mode k
    if c.rows.isEmpty then none else some (mode, run, c)
  if (st.cfg.models.get? m).isNone ∨ (st.blocked.get? m).isSome ∨ (s.kvActive n).isNone then none
  else
    match st.pairOf m with
    | none => rowsOf .plain m 0
    | some p =>
      let draft := if t.drafts < p.specK ∧ (st.blocked.get? p.draft).isNone then rowsOf .draft p.draft p.specK else none
      match draft with
      | some x => some x
      | none => rowsOf .verify m p.specK

/-- The models that a turn of model `m` needs loaded: a verifier's draft model with it. -/
def Stand.needed (st : Stand) (m : Nat) : List Nat :=
  match st.pairOf m with
  | some p => [m, p.draft]
  | none => [m]

/-- Models loaded, if they are not yet; the Bool says that all are. -/
def State.loadModels (s : State) (n : Nat) (l : List Nat) : State × Bool :=
  l.foldl (fun (a : State × Bool) m =>
    let (s, x) := a.1.loadModel n m
    (s, a.2 && x)) (s, true)

/-- The first offer of a turn whose models are loaded. -/
def State.chooseStep (s : State) (n : Nat) : List Turn → State × Option (Turn × StepMode × Nat × Composing)
  | [] => (s, none)
  | t :: ts =>
    match s.offer n t with
    | none => s.chooseStep n ts
    | some (mode, run, c) =>
      let (s, ok) := s.loadModels n ((s.stand n).needed t.model)
      if ok then (s, some (t, mode, run, c)) else s.chooseStep n ts

/-! The manifest (R173) -/

/-- Bytes of a manifest buffer of a budget. -/
def manifestSize (budget : Nat) : Nat := 64 + 80 * budget

/-- The manifest range is usable: MANIFEST_ADDR is not 0, and both buffers lie in mapped objects outside the program
object and the KV aperture. -/
def State.manifestOk (s : State) (n m : Nat) : Bool :=
  let a := (s.stand n).cfg.manifest
  a != 0 && s.mappedRange n true a (alignUp (2 * manifestSize (s.fullBudget n m)) pageSize)

/-- The address of the buffer of a step. -/
def State.manifestAt (s : State) (n m step : Nat) : Nat :=
  (s.stand n).cfg.manifest + step % 2 * manifestSize (s.fullBudget n m)

/-- The number of a row's kind. -/
def RowKind.num : RowKind → Nat
  | .decode => 0
  | .prefill => 1
  | .verify => 2
  | .padding => 3

/-- The 16 B entry of a row. -/
def Row.bytes (w : Row) : List Byte :=
  toBytes 4 w.seq ++ toBytes 4 w.position ++ toBytes 4 w.token ++
  toBytes 4 (w.segment % 2 ^ 16 + w.kind.num * 2 ^ 16 + b01 w.sample * 2 ^ 18)

/-- A padding row: the spec gives its KIND alone. -/
def paddingRow (draw j : Nat) : Row :=
  let x := fun i => ofBytes ((List.range 4).map (fun k => Config.freeByte draw (64 * j + 4 * i + k)))
  { req := 0, seq := x 0, position := x 1, token := x 2, segment := x 3 % 2 ^ 16, kind := .padding, sample := false }

/-- The sampler record of row `i`. -/
def samplerRecord (rs : List Request) (w : Row) (i : Nat) : List Byte :=
  sub (((rs.find? (·.id == w.req)).map (·.entry)).getD []) 40 40 ++ toBytes 8 i ++ zeros 16

/-- The manifest of a step. -/
def manifestBytes (step model : Nat) (rs : List Request) (rows : List Row) (segments : Nat) : List Byte :=
  let count := fun f : RowKind → Bool => (rows.filter (fun w => f w.kind)).length
  toBytes 4 step ++ toBytes 4 model ++
  toBytes 2 (count (fun k => k == .decode || k == .verify)) ++ toBytes 2 (count (· == .prefill)) ++ toBytes 2 segments ++
  zeros 50 ++ rows.flatMap Row.bytes ++
  (rows.zipIdx.filter (fun e => e.1.sample)).flatMap (fun e => samplerRecord rs e.1 e.2)

/-- The admission of a boundary at which no model has rows: a request whose LENGTH covers its prompt enters GENERATING,
and takes its row at the next boundary (R170, R171 step 4). -/
def State.admitOnly (s : State) (n : Nat) : List Turn → State
  | [] => s
  | t :: ts =>
    let st := s.stand n
    let c := s.admitRows n t.model { room := 0, levels := [], requests := st.requests }
    if (st.cfg.models.get? t.model).isNone ∨ (st.blocked.get? t.model).isSome ∨ (s.kvActive n).isNone ∨
        c.requests = st.requests ∨ !s.manifestOk n t.model then s.admitOnly n ts
    else
      let (s, ok) := s.loadModels n (st.needed t.model)
      if ok then s.updStand n (fun st => { st with requests := c.requests }) else s.admitOnly n ts

/-- A composed step started (Table 8.7, steps 1 and 2). -/
def State.startStep (s : State) (n : Nat) (t : Turn) (mode : StepMode) (run : Nat) (c : Composing) : State :=
  let step := s.fld Fld.SCH_STEP_COUNT n + 1
  let rows := c.rows ++ (List.range (alignUp c.rows.length 16 - c.rows.length)).map (paddingRow s.freeCtr)
  let s := s.standWrite n (s.manifestAt n t.model step) (manifestBytes (step % 2 ^ 32) run c.requests rows c.segments)
  let x : Step := { model := run, draft := mode == .draft, verify := mode == .verify, rows := rows, levels := c.levels }
  let s := s.updStand n (fun st => { st with
    step := some x, turn := { t with taken := t.taken + 1 },
    requests := c.requests.map (fun r => if r.model = t.model ∧ t.drafts = 0 then { r with drafts := [] } else r) })
  let s := { s with freeCtr := s.freeCtr + 1 }
  let s := (((s.setFld Fld.SCH_STATUS_STATE n 0 2).setFld Fld.SCH_STATUS_MODEL n 0 run).setFld Fld.SCH_STATUS_DRAFT n 0
    (b01 (mode == .draft))).setFld Fld.SCH_STATUS_ROWS n 0 rows.length
  let s := (s.addFld Fld.SCH_STEP_COUNT n 0 1).account n 11 c.charged
  if s.role n = 0 then
    c.first.foldl (fun s id =>
      match (s.stand n).requests.find? (·.id == id) with
      | some r => s.startHandoff n r
      | none => s) s
  else s

/-- The stand's sequencer may start a step at a boundary: no step runs, the stand runs, is not held for a test and,
where it is sealed, its cores have started (18_power_thermal.md R384). -/
def State.atBoundary (s : State) (n : Nat) : Bool :=
  let st := s.stand n
  let held := maskOf (s.groves n) &&& (s.fld Fld.RST_GROVE_STATUS_UNDER_TEST ||| s.tests.waiting)
  st.step.isNone && st.cond == .running && !st.stopped && (st.life.stage == .steady || st.life.stage == .draining) &&
  s.role n != 2 && held == 0 && s.patternDone n

/-- STEP_COMPOSE: the sequencer of stand `n` composes a step and starts it. A step without rows is not started. -/
def execStepCompose (n : Nat) (s : State) : Host.Outcome State Fault Refusal :=
  .next (
    if !s.atBoundary n then s
    else
      match s.chooseStep n (s.stand n).turns with
      | (s, none) => s.admitOnly n (s.stand n).turns
      | (s, some (t, mode, run, c)) =>
        let s := c.held.foldl (fun s h => s.flagSch Fld.SCH_ERROR_CQ_HELD n h.1 h.2 0) s
        if s.manifestOk n t.model then (s.startStep n t mode run c).deliver else s.refuseModel n 0x0106 0xFF)

/-! The commit phase (R180, R181) -/

/-- A request of stand `n` changed. -/
def State.updRequest (s : State) (n id : Nat) (f : Request → Request) : State :=
  s.updStand n (fun st => { st with requests := st.requests.map (fun r => if r.id = id then f r else r) })

/-- The token that the sampler left for row `i` of the step (R173). -/
def State.sampledToken (s : State) (n : Nat) (st : Step) (i : Nat) : Nat :=
  let m := if st.draft then (((s.stand n).cfg.pair.map (·.verifier)).getD st.model) else st.model
  let k := ((st.rows.take i).filter (·.sample)).length
  s.openLe n (s.manifestAt n m (s.fld Fld.SCH_STEP_COUNT n) + 64 + 16 * st.rows.length + 64 * k + 56) 4

/-- The sampled rows of a request with their tokens. -/
def State.sampledRows (s : State) (n : Nat) (st : Step) (id : Nat) : List (Row × Nat) :=
  (st.rows.zipIdx.filter (fun e => e.1.kind != .padding && e.1.req == id && e.1.sample)).map (fun e =>
    (e.1, s.sampledToken n st e.2))

/-- The accepted drafts of a verify step and the drawn token: a draft is accepted where its row's token equals it
(R182). -/
def acceptDrafts : List Nat → List Nat → List (Nat × Bool)
  | [], _ => []
  | t :: _, [] => [(t, false)]
  | t :: ts, d :: ds => if t = d then (d, true) :: acceptDrafts ts ds else [(t, false)]

/-- Tokens committed from a position on: the request as it then is, how many were committed, and whether the last ends
it. -/
def State.putTokens (s : State) (n : Nat) (degraded : Bool) (first : Bool) (pos : Nat) :
    List (Nat × Bool) → Request → State × Request × Nat × Bool
  | [], r => (s, r, 0, false)
  | (t, spec) :: rest, r =>
    let now := s.nowUs
    let late := r.deadline.any (· < now)
    let final := (t != 0xFFFFFFFF && r.stops.contains t) || decide (r.maxNew ≤ r.generated + 1)
    let s := s.cqEntry n r.cq { s.about n r.id r.seq (b01 final) with
      token := t, position := pos, first := first, final := final, late := late, degraded := degraded, speculative := spec }
    let s := s.standWrite n (r.history + 4 * pos) (toBytes 4 t)
    let s := (s.account n 12 1).account n 13 (b01 late)
    let s := s.account n 16 (b01 spec)
    let s := s.addFld Fld.KVM_DEGRADED_COUNT n 0 (b01 degraded)
    let s := s.updStep n (fun st => { st with levels := (match st.levels.get? r.customer with
      | some l => st.levels.set r.customer { l.charge 1 with gen := l.gen + 1 }
      | none => st.levels) })
    let r := { r with generated := r.generated + 1, counted := false,
                      deadline := if r.itl = 0 then none else some (now + r.itl) }
    if final then (s, r, 1, true)
    else
      let (s, r, k, f) := s.putTokens n degraded false (pos + 1) rest r
      (s, r, k + 1, f)

/-- A request of a step commits its rows: LENGTH, tokens and history, and its end or its handoff. -/
def State.commitTokens (s : State) (n : Nat) (st : Step) (r : Request) : State :=
  let rows := st.rows.filter (fun w => w.kind != .padding && w.req == r.id)
  let len := fun (s : State) k => match (s.stand n).kv.pool with
    | some p => s.advance n p r.seq k
    | none => s
  match s.sampledRows n st r.id with
  | [] => len s (((rows.getLast?).map (·.position + 1)).getD 0)
  | (w, t) :: more =>
    let tokens := if st.verify ∧ w.kind = .verify then acceptDrafts (t :: more.map (·.2)) r.drafts else [(t, false)]
    let first := r.generated == 0 || w.kind == .prefill
    let (s, r, k, final) := s.putTokens n (st.degraded.contains r.id) first (w.position + 1) tokens r
    let s := len s (w.position + k)
    let s := s.updRequest n r.id (fun _ => { r with state := .generating, drafts := [] })
    let s := s.updSapway n (fun x => { x with histories := x.histories.set r.seq (r.history, r.promptLen + r.generated) })
    if final then (s.dropHandoff n r.id).finish n r 1
    else if s.role n = 0 then (s.endWith n r 0x0A).finishHandoff n r
    else s

/-- The status with which a request that got no token completes (Table 8.9); MASK_LATE completes nothing. -/
def NoToken.status : NoToken → Option Nat
  | .maskLate => none
  | .kvFull => some 0x0B
  | .poisoned => some 0x0C
  | .stateLost => some 0x0C
  | .segmentInvalid => some 0x0D
  | .maskInvalid => some 0x0E
  | .grammarEmpty => some 0x0F

/-- A request of the step at its turn in the commit phase (R175, Table 8.9). -/
def State.commitRequest (s : State) (n : Nat) (st : Step) (id : Nat) : State :=
  match (s.stand n).requests.find? (·.id == id) with
  | none => s
  | some r =>
    if r.cancel then (s.dropHandoff n id).endCancelled n r
    else if st.abandoned.isSome then s.dropHandoff n id
    else if st.draft then
      match st.noToken.get? id, s.sampledRows n st id with
      | none, (_, t) :: _ => (s.account n 15 1).updRequest n id (fun r => { r with drafts := r.drafts ++ [t] })
      | _, _ => s.updRequest n id (fun r => { r with drafts := [] })
    else
      match st.noToken.get? id with
      | none => s.commitTokens n st r
      | some c =>
        let s := (s.dropHandoff n id).updRequest n id (fun r => { r with drafts := [] })
        match c.status with
        | none => s
        | some k =>
          let s := s.endWith n r k
          if c = .kvFull then s.suspendFull n r else s

/-- A request's pending deadline has passed and is not counted. -/
def State.overdue (s : State) (r : Request) : Bool := !r.counted && r.deadline.any (· < s.nowUs)

/-- A miss of a request counted, and its class's ACTION (R178): `missed` says which deadlines were passed when the commit
phase began. -/
def State.settleDeadline (s : State) (n : Nat) (missed : SMap Nat) (r : Request) : State :=
  match missed.get? r.id with
  | none => s
  | some d =>
    let r' := { r with misses := r.misses + 1, counted := r.deadline == some d }
    let s := (s.updRequest n r.id (fun _ => r')).flagSch Fld.SCH_ERROR_DEADLINE_MISS n r.seq r.cq 0
    if r'.misses ≤ (s.classOf n r).tolerance then s
    else if s.fallsBack n r then
      ((s.dropHandoff n r.id).startFallback n r').endWith n r' 0x08
    else (s.dropHandoff n r.id).endWith n r' 0x09

/-- The customers' records written back (R177). -/
def State.writeLevels (s : State) (n : Nat) (l : SMap Levels) : State :=
  l.foldl (fun s e => match s.customerAt n e.1 with
    | some a => s.standWrite n (a + 16) e.2.bytes
    | none => s) s

/-- The traffic that a step caused, which the model does not measure (log 15): HBM, DDR5, die links and CXL. -/
def State.openTraffic (s : State) (n : Nat) : State :=
  [2, 3, 4, 6].foldl (fun s i =>
    let (w, s) := s.draw
    s.account n i w.toNat) s

/-- What the KV manager does at the end of a commit phase, for a step that was not abandoned where it concerns the step's
own positions. -/
def State.kvCommit (s : State) (n : Nat) : State :=
  let s := match s.kvActive n with
    | some p => (s.sealWaiting n p).prune n p
    | none => s
  let s := (s.kvPoint n).updStand n (fun st => { st with kv := { st.kv with remotes := [] } })
  s.poolBoundary n

/-- The commit phase of stand `n`'s step `st`. -/
def State.commit (s : State) (n : Nat) (st : Step) : State :=
  let s := s.updStand n (fun x => { x with cqWritten := [] })
  let s := match (s.stand n).kv.pool with
    | some p => if st.abandoned.isSome then s else s.withholdPoisoned n p
    | none => s
  let st := ((s.stand n).step).getD st
  let missed : SMap Nat := ((s.stand n).requests.filter s.overdue).foldl (fun (m : SMap Nat) r => m.set r.id (r.deadline.getD 0)) []
  let s := (distinct ((st.rows.filter (·.kind != .padding)).map (·.req))).foldl (fun s id => s.commitRequest n st id) s
  let s := ((s.stand n).requests.filter (·.cancel)).foldl (fun s r => s.endCancelled n r) s
  let s := (s.stand n).requests.foldl (fun s r => s.settleDeadline n missed r) s
  let s := s.writeLevels n ((((s.stand n).step).map (·.levels)).getD [])
  let s := s.account n (if st.abandoned.isSome then 10 else 9) 1
  let s := s.openTraffic n
  let s := s.kvCommit n
  let s := s.updStand n (fun x => { x with
    step := none,
    turn := if st.verify then { x.turn with drafts := 0 }
      else if st.draft ∧ st.abandoned.isNone then { x.turn with drafts := x.turn.drafts + 1 } else x.turn })
  let s := (s.clusters n).foldl (fun s c => s.setFld Fld.MXC_STATUS_STATE c 0 0) s
  let s := (s.setFld Fld.SCH_STATUS_STATE n 0 0).cqInterrupts n
  ((s.kvSettle n).acceptMore n).testBoundary n

/-- COMMIT_PHASE: the step of stand `n`, whose END has completed or which was abandoned, commits. -/
def execCommitPhase (n : Nat) (s : State) : Host.Outcome State Fault Refusal :=
  .next (
    match (s.stand n).step with
    | some st => if st.ended ∨ st.abandoned.isSome then (s.commit n st).deliver else s
    | none => s)

end Sys2Proof.Machine
end

