-- ==== Sys2Proof/Machine/TierRows.lean ====
section
/-! DEFINITION. The tier commands and page moves that may use the fabric (07_memory_tiers.md R151-R161): each is tried, and
where a page of T3 home needs fabric operations first, those are issued and the command waits. -/

namespace Sys2Proof.Machine

open Sys2Proof

/-- A command or a move of stand `n` tried: done where no page needs the fabric first; otherwise nothing but the fabric
operations of the first such pages begins, at most 64 pages moving at once (R159). -/
def State.withFabric (s : State) (n : Nat) (run : State → State) : State :=
  let t := run s
  (match (t.stand n).tiers.needs with
   | [] => t
   | l =>
     let ready := l.filter (fun x : Nat × TierObject => !((s.stand n).tiers.page x.1).busy)
     let (under, new) := ready.partition (fun x : Nat × TierObject => ((s.stand n).tiers.page x.1).moving)
     (under ++ new.take (64 - (s.stand n).tiers.moves)).foldl
       (fun (s : State) (x : Nat × TierObject) => s.startTraffic n x.1 x.2) s).deliver

/-- TIER_CREATE of stand `n`. -/
def execTierCreate (n : Nat) (s : State) : Host.Outcome State Fault Refusal :=
  .next (s.withFabric n (fun s => s.tierCommand n 1 (fun e s => s.createObject n (le e 4 2) (le e 16 6))))

/-- A move of a page of the object that the tier command at the front names is under way. -/
def State.frontMoves (s : State) (n : Nat) : Bool :=
  match s.ringFront tierRing n 32 with
  | none => false
  | some e =>
    match (s.stand n).tiers.objects.get? (le e 4 2) with
    | none => false
    | some o =>
      let lo := o.base / pageSize
      (s.stand n).tiers.pages.any (fun q => decide (lo ≤ q.1) && decide (q.1 < lo + o.pages) && q.2.moving)

/-- TIER_DELETE: at the stand's next step boundary, or at once when no step runs (R161). It waits for the object's moves;
copies are discarded. -/
def execTierDelete (n : Nat) (s : State) : Host.Outcome State Fault Refusal :=
  .next (if (s.stand n).step.isSome ∨ s.frontMoves n then s
    else s.tierCommand n 2 (fun e s =>
      match (s.stand n).tiers.objects.get? (le e 4 2) with
      | none => (s, 0x10)
      | some _ => (s.removeObject n (le e 4 2), 0)))

/-- TIER_FLUSH: dirty units written back; the copies stay. -/
def execTierFlush (n : Nat) (s : State) : Host.Outcome State Fault Refusal :=
  .next (s.withFabric n (fun s => s.tierCommand n 3 (fun e s => s.onRange n e (fun o idx s =>
    overPages o idx s (fun p s =>
      let (t, ok) := s.writeBack n p
      (t, if ok then 0 else 0x14))))))

/-- SET_HINT: at the stand's next step boundary, or at once when no step runs. The hint of a T0-home object is kept but
ignored (R153). -/
def execSetHint (n : Nat) (s : State) : Host.Outcome State Fault Refusal :=
  .next (if (s.stand n).step.isSome then s
    else s.withFabric n (fun s => s.tierCommand n 4 (fun e s =>
      let hint := le e 16 8
      match (s.stand n).tiers.objects.get? (le e 4 2) with
      | none => (s, 0x10)
      | some o =>
        if 3 < hint then (s, 0x10)
        else
          let put := fun s : State => s.updStand n (fun st => { st with tiers :=
            { st.tiers with objects := st.tiers.objects.set (le e 4 2) { o with hint := hint } } })
          if hint = 2 ∧ o.home ≠ 0 then
            let (t, res) := s.pinPages n o
            if res = 0 then (put t, 0) else (t, res)
          else (put s, 0))))

/-- PREFETCH: the range promoted into the copy tier, evicting under R156. -/
def execPrefetch (n : Nat) (s : State) : Host.Outcome State Fault Refusal :=
  .next (s.withFabric n (fun s => s.tierCommand n 5 (fun e s => s.onRange n e (fun o idx s =>
    if o.home = 0 ∨ (o.home = 1 ∧ o.copyTier = 1) then (s, 0)
    else overPages o idx s (fun p s => s.promoteNow n p o)))))

/-- EVICT: the range's copies evicted, pinned ones too, HELD ones not; a write-back that fails leaves
WRITEBACK_FAILED. -/
def execEvict (n : Nat) (s : State) : Host.Outcome State Fault Refusal :=
  .next (s.withFabric n (fun s => s.tierCommand n 6 (fun e s => s.onRange n e (fun o idx s =>
    overPages o idx s (fun p s =>
      match ((s.stand n).tiers.page p).copy with
      | none => (s, 0)
      | some c =>
        if c.held then (s, 0x14)
        else
          let (t, ok) := s.evictCopy n p
          (t, if ok then 0 else 0x14))))))

/-- PROMOTION: an ordinary access to page `p` of stand `n`, which has no copy, starts a promotion: into a free frame, or
into the frame of the copy that the hand of that place evicts. A streaming access never evicts (Table 7.3). At most 64
pages move at once (R159). The fabric operations of a move begin with it. -/
def execPromotion (n p : Nat) (streaming : Bool) (s : State) : Host.Outcome State Fault Refusal :=
  .next ((
    match s.pageObject n p with
    | none => s
    | some (_, o) =>
      let begin_ := fun (s : State) =>
        let s := s.updPage n p (fun e => { e with traffic := .none })
        if o.home = 3 then s.startTraffic n p o else s
      let e := (s.stand n).tiers.page p
      let idx := p - o.base / pageSize
      let never := o.home == 0 || 1 < o.hint || (o.home == 1 && o.hint == 1) || e.copy.isSome || e.lost ||
        e.moving || 64 ≤ (s.stand n).tiers.moves
      if never then s
      else
        match s.freeCopyFrame n o idx with
        | some f => begin_ (s.updPage n p (fun e => { e with move := .promoting f }))
        | none =>
          let place := s.copyPlace n o idx
          if streaming || 63 ≤ (s.stand n).tiers.moves then s
          else
            match s.handPick n place with
            | none => s
            | some (v, c) =>
              let s := (s.updPage n v (fun e => { e with move := .evicting })).restHand n place c.frame.num
              let s := match s.pageObject n v with
                | some (_, q) => if q.home = 3 ∧ c.dirty ≠ 0 then s.startTraffic n v q else s
                | none => s
              begin_ (s.updPage n p (fun e => { e with move := .promoting c.frame }))).deliver)

/-- PAGE_MOVE_DONE: the move of page `p` ends with one update of its entry. An eviction writes its dirty units back and
frees its frame; a T3 write-back that fails leaves the copy HELD, and the promotion that wanted its frame is not made.
A promotion copies the page; it waits while its frame still holds the victim's copy. A move to or from a T3 home waits for
its fabric operations; units written meanwhile go again. -/
def execPageMoveDone (n p : Nat) (s : State) : Host.Outcome State Fault Refusal :=
  .next (s.withFabric n (fun (s : State) =>
    let e := (s.stand n).tiers.page p
    match e.move, s.pageObject n p with
    | .evicting, some _ =>
      let (t, ok) := s.evictCopy n p
      if ok then t
      else
        let t := t.updPage n p (fun e => { e with move := Move.still })
        (t.stand n).tiers.pages.foldl (fun (t : State) (q : Nat × PageEntry) =>
          if e.copy.any (fun c => q.2.move == .promoting c.frame) then
            t.updPage n q.1 (fun e => { e with move := Move.still })
          else t) t
    | .promoting f, some (_, o) =>
      if (s.stand n).tiers.pages.any (fun q => q.1 != p && q.2.copy.any (fun c => c.frame == f)) then s
      else
        match s.fetched n p o with
        | none => s.need n p o
        | some false => (s.updPage n p (fun e => { e with move := Move.still })).fetchFailed n p
        | some true => s.installCopy n p o f
    | _, _ => s))

end Sys2Proof.Machine
end

