-- ==== Sys2Proof/Machine/Dispatch.lean ====
section
/-! DEFINITION. One arm for each command: a direct call of its meaning. -/

namespace Sys2Proof.Machine

open Sys2Proof

def exec (i : Instr) (s : State) : Host.Outcome State Fault Refusal :=
  match i with
  | .registerWrite f off bytes v => Sys2Proof.Machine.execRegisterWrite f off bytes v s
  | .rcRegisterRead f off bytes => Sys2Proof.Machine.execRcRegisterRead f off bytes s
  | .ringRegisterWrite f off v => Sys2Proof.Machine.execRingRegisterWrite f off v s
  | .dlinkLaneFault link module upper => Sys2Proof.Machine.execDlinkLaneFault link module upper s
  | .opMatmul n actError => Sys2Proof.Machine.execMatmul n actError s
  | .opVtasks n => Sys2Proof.Machine.execVtasks n s
  | .opReduceScatter n => Sys2Proof.Machine.execReduceScatter n s
  | .opAllGather n => Sys2Proof.Machine.execAllGather n s
  | .opLayerMark n => Sys2Proof.Machine.execLayerMark n s
  | .opWait n => Sys2Proof.Machine.execWait n s
  | .opEnd n => Sys2Proof.Machine.execOpEnd n s
  | .operationComplete n ix => Sys2Proof.Machine.execOperationComplete n ix s
  | .coreFailure c => Sys2Proof.Machine.execCoreFailure c s
  | .vFma v ix => Sys2Proof.Machine.execFma v ix s
  | .vAdd v ix => Sys2Proof.Machine.execAdd v ix s
  | .vSub v ix => Sys2Proof.Machine.execSub v ix s
  | .vMul v ix => Sys2Proof.Machine.execMul v ix s
  | .vMin v ix => Sys2Proof.Machine.execMin v ix s
  | .vMax v ix => Sys2Proof.Machine.execMax v ix s
  | .vAbs v ix => Sys2Proof.Machine.execAbs v ix s
  | .vNeg v ix => Sys2Proof.Machine.execNeg v ix s
  | .vCpysgn v ix => Sys2Proof.Machine.execCpysgn v ix s
  | .vIadd v ix => Sys2Proof.Machine.execIadd v ix s
  | .vIsub v ix => Sys2Proof.Machine.execIsub v ix s
  | .vImul v ix => Sys2Proof.Machine.execImul v ix s
  | .vAnd v ix => Sys2Proof.Machine.execAnd v ix s
  | .vOr v ix => Sys2Proof.Machine.execOr v ix s
  | .vXor v ix => Sys2Proof.Machine.execXor v ix s
  | .vShl v ix => Sys2Proof.Machine.execShl v ix s
  | .vShr v ix => Sys2Proof.Machine.execShr v ix s
  | .vSar v ix => Sys2Proof.Machine.execSar v ix s
  | .vPopc v ix => Sys2Proof.Machine.execPopc v ix s
  | .vFcmp v ix => Sys2Proof.Machine.execFcmp v ix s
  | .vIcmp v ix => Sys2Proof.Machine.execIcmp v ix s
  | .vSel v ix => Sys2Proof.Machine.execSel v ix s
  | .vMand v ix => Sys2Proof.Machine.execMand v ix s
  | .vMor v ix => Sys2Proof.Machine.execMor v ix s
  | .vMnot v ix => Sys2Proof.Machine.execMnot v ix s
  | .vExp v ix => Sys2Proof.Machine.execExp v ix s
  | .vLog v ix => Sys2Proof.Machine.execLog v ix s
  | .vRcp v ix => Sys2Proof.Machine.execRcp v ix s
  | .vRsqrt v ix => Sys2Proof.Machine.execRsqrt v ix s
  | .vTanh v ix => Sys2Proof.Machine.execTanh v ix s
  | .vCvt v ix => Sys2Proof.Machine.execCvt v ix s
  | .vQmx v ix => Sys2Proof.Machine.execQmx v ix s
  | .vQf16s v ix => Sys2Proof.Machine.execQf16s v ix s
  | .vDq v ix => Sys2Proof.Machine.execDq v ix s
  | .vShuf v ix => Sys2Proof.Machine.execShuf v ix s
  | .vBcast v ix => Sys2Proof.Machine.execBcast v ix s
  | .vRsum v ix => Sys2Proof.Machine.execRsum v ix s
  | .vRmax v ix => Sys2Proof.Machine.execRmax v ix s
  | .vRmin v ix => Sys2Proof.Machine.execRmin v ix s
  | .vPscan v ix => Sys2Proof.Machine.execPscan v ix s
  | .vLd v ix => Sys2Proof.Machine.execLd v ix s
  | .vSt v ix => Sys2Proof.Machine.execSt v ix s
  | .vLds v ix => Sys2Proof.Machine.execLds v ix s
  | .vGld v ix => Sys2Proof.Machine.execGld v ix s
  | .vSst v ix => Sys2Proof.Machine.execSst v ix s
  | .vXin v ix => Sys2Proof.Machine.execXin v ix s
  | .vXout v ix => Sys2Proof.Machine.execXout v ix s
  | .vXwait v ix => Sys2Proof.Machine.execXwait v ix s
  | .transferComplete v k => Sys2Proof.Machine.execTransferComplete v k s
  | .vAadd v ix => Sys2Proof.Machine.execAadd v ix s
  | .vAmax v ix => Sys2Proof.Machine.execAmax v ix s
  | .vectorAtomicApply v k => Sys2Proof.Machine.execVectorAtomicApply v k s
  | .vFld v ix => Sys2Proof.Machine.execFld v ix s
  | .vFst v ix => Sys2Proof.Machine.execFst v ix s
  | .vFatom v ix => Sys2Proof.Machine.execFatom v ix s
  | .vFence v ix => Sys2Proof.Machine.execFence v ix s
  | .vRng v ix => Sys2Proof.Machine.execRng v ix s
  | .scalarAlu v op useImm ix => Sys2Proof.Machine.execScalarAlu v op useImm ix s
  | .vBr v ix => Sys2Proof.Machine.execBr v ix s
  | .vBrz v ix => Sys2Proof.Machine.execBrz v ix s
  | .vLoop v ix => Sys2Proof.Machine.execLoop v ix s
  | .vSysrd v ix => Sys2Proof.Machine.execSysrd v ix s
  | .vFlgrd v ix => Sys2Proof.Machine.execFlgrd v ix s
  | .vFlgclr v ix => Sys2Proof.Machine.execFlgclr v ix s
  | .chisynEnd v ix => Sys2Proof.Machine.execChisynEnd v ix s
  | .taskPlace n => Sys2Proof.Machine.execTaskPlace n s
  | .taskTimeout v => Sys2Proof.Machine.execTaskTimeout v s
  | .lsUncorrectable v => Sys2Proof.Machine.execLsUncorrectable v s
  | .vcoreFault v => Sys2Proof.Machine.execVcoreFault v s
  | .maskRead n id data => Sys2Proof.Machine.execMaskRead n id data s
  | .maskWaitExpiry n id => Sys2Proof.Machine.execMaskWaitExpiry n id s
  | .poolEnable f n v => Sys2Proof.Machine.execPoolEnable f n v s
  | .poolDisable f n v => Sys2Proof.Machine.execPoolDisable f n v s
  | .poolRebuildDone n => Sys2Proof.Machine.execPoolRebuildDone n s
  | .appendRecord v k => Sys2Proof.Machine.execAppendRecord v k s
  | .kvCreate n => Sys2Proof.Machine.execKvCreate n s
  | .kvGraft n => Sys2Proof.Machine.execKvGraft n s
  | .kvRelease n => Sys2Proof.Machine.execKvRelease n s
  | .kvTruncate n => Sys2Proof.Machine.execKvTruncate n s
  | .remoteRequestSend v k => Sys2Proof.Machine.execRemoteRequestSend v k s
  | .remoteRequestArrive n a len conn => Sys2Proof.Machine.execRemoteRequestArrive n a len conn s
  | .remoteResponse n => Sys2Proof.Machine.execRemoteResponse n s
  | .remoteBudgetExpiry n b => Sys2Proof.Machine.execRemoteBudgetExpiry n b s
  | .tierCreate n => Sys2Proof.Machine.execTierCreate n s
  | .tierDelete n => Sys2Proof.Machine.execTierDelete n s
  | .tierFlush n => Sys2Proof.Machine.execTierFlush n s
  | .tierSetHint n => Sys2Proof.Machine.execSetHint n s
  | .tierPrefetch n => Sys2Proof.Machine.execPrefetch n s
  | .tierEvict n => Sys2Proof.Machine.execEvict n s
  | .tierLoad n => Sys2Proof.Machine.execTierLoad n s
  | .tierRepair n => Sys2Proof.Machine.execRepair n s
  | .promotion n p streaming => Sys2Proof.Machine.execPromotion n p streaming s
  | .pageMoveDone n p => Sys2Proof.Machine.execPageMoveDone n p s
  | .ageSweep n => Sys2Proof.Machine.execAgeSweep n s
  | .memoryUncorrectable n p u err => Sys2Proof.Machine.execMemoryUncorrectable n p u err s
  | .sqNew n => Sys2Proof.Machine.execNew n s
  | .sqCancel n => Sys2Proof.Machine.execCancel n s
  | .stepCompose n => Sys2Proof.Machine.execStepCompose n s
  | .commitPhase n => Sys2Proof.Machine.execCommitPhase n s
  | .doneRecordExpiry n id => Sys2Proof.Machine.execDoneRecordExpiry n id s
  | .acctSnap f n v => Sys2Proof.Machine.execAcctSnap f n v s
  | .energyTick n => Sys2Proof.Machine.execEnergyTick n s
  | .swySuspend n back => Sys2Proof.Machine.execSuspend n back s
  | .swyResume n fetched => Sys2Proof.Machine.execResume n fetched s
  | .swyDiscard n status => Sys2Proof.Machine.execDiscard n status s
  | .swyHold n => Sys2Proof.Machine.execHold n s
  | .canopyInsert n => Sys2Proof.Machine.execCanopyInsert n s
  | .canopyDrop n => Sys2Proof.Machine.execCanopyDrop n s
  | .jobRegions n => Sys2Proof.Machine.execJobRegions n s
  | .mapSet cmd key content => Sys2Proof.Machine.execMapSet cmd key content s
  | .memberState cmd content => Sys2Proof.Machine.execMemberState cmd content s
  | .mapDelete cmd key => Sys2Proof.Machine.execMapDelete cmd key s
  | .swyOffer n => Sys2Proof.Machine.execOffer n s
  | .swyAccept n => Sys2Proof.Machine.execAccept n s
  | .swyRefuse n => Sys2Proof.Machine.execRefuse n s
  | .swyDone n => Sys2Proof.Machine.execDone n s
  | .swyCommitted n => Sys2Proof.Machine.execCommitted n s
  | .swyAbort n => Sys2Proof.Machine.execAbort n s
  | .handoffTimeout n bid => Sys2Proof.Machine.execHandoffTimeout n bid s
  | .receiverTimeout n conn bid => Sys2Proof.Machine.execReceiverTimeout n conn bid s
  | .bundleExpiry n hold id => Sys2Proof.Machine.execBundleExpiry n hold id s
  | .swyEvtHeadWrite f v index => Sys2Proof.Machine.execSwyEvtHeadWrite f v index s
  | .portLinkUp p => Sys2Proof.Machine.execPortLinkUp p s
  | .portLinkDown p => Sys2Proof.Machine.execPortLinkDown p s
  | .fabOpen n => Sys2Proof.Machine.execOpen n s
  | .fabConnect n => Sys2Proof.Machine.execConnect n s
  | .fabClose n => Sys2Proof.Machine.execClose n s
  | .fabRegister n => Sys2Proof.Machine.execRegister n s
  | .fabRevoke n => Sys2Proof.Machine.execRevoke n s
  | .revokeDrainEnd idx => Sys2Proof.Machine.execRevokeDrainEnd idx s
  | .packetSend k => Sys2Proof.Machine.execPacketSend k s
  | .pktWrite p f => Sys2Proof.Machine.execWrite p f s
  | .pktReadReq p f => Sys2Proof.Machine.execReadReq p f s
  | .pktReadResp p f => Sys2Proof.Machine.execReadResp p f s
  | .pktAck p f => Sys2Proof.Machine.execAck p f s
  | .pktMemReq p f => Sys2Proof.Machine.execMemReq p f s
  | .pktMemResp p f => Sys2Proof.Machine.execMemResp p f s
  | .ackDelayExpiry k => Sys2Proof.Machine.execAckDelayExpiry k s
  | .retransmitTimeout k => Sys2Proof.Machine.execRetransmitTimeout k s
  | .frameTransmit p => Sys2Proof.Machine.execFrameTransmit p s
  | .frameUnclassified p f => Sys2Proof.Machine.execFrameUnclassified p f s
  | .coalesceExpiry ix => Sys2Proof.Machine.execCoalesceExpiry ix s
  | .fmmLoad n => Sys2Proof.Machine.execFmmLoad n s
  | .fmmStore n => Sys2Proof.Machine.execFmmStore n s
  | .fmmAtomic n => Sys2Proof.Machine.execFmmAtomic n s
  | .fmmFence n => Sys2Proof.Machine.execFmmFence n s
  | .fmmMap n => Sys2Proof.Machine.execMap n s
  | .fmmUnmap n => Sys2Proof.Machine.execUnmap n s
  | .fmmGroupCreate n => Sys2Proof.Machine.execGroupCreate n s
  | .fmmGroupDelete n => Sys2Proof.Machine.execGroupDelete n s
  | .barrierTimeout gk => Sys2Proof.Machine.execBarrierTimeout gk s
  | .ptpMessage p udp m => Sys2Proof.Machine.execPtpMessage p udp m s
  | .syncLossTimeout h => Sys2Proof.Machine.execSyncLossTimeout h s
  | .holdoverExpiry h => Sys2Proof.Machine.execHoldoverExpiry h s
  | .gateCycleStart p => Sys2Proof.Machine.execGateCycleStart p s
  | .gateEntryExpiry p => Sys2Proof.Machine.execGateEntryExpiry p s
  | .gclConfigChange f p v => Sys2Proof.Machine.execGclConfigChange f p v s
  | .hubEntryExpiry h => Sys2Proof.Machine.execHubEntryExpiry h s
  | .queueSample h => Sys2Proof.Machine.execQueueSample h s
  | .arbiterGrant n raised => Sys2Proof.Machine.execArbiterGrant n raised s
  | .burstLimitExpiry n => Sys2Proof.Machine.execBurstLimitExpiry n s
  | .requesterMaskRise n r => Sys2Proof.Machine.execRequesterMaskRise n r s
  | .arbFreeze f n v => Sys2Proof.Machine.execFreeze f n v s
  | .arbFreezeClear f n v => Sys2Proof.Machine.execFreezeClear f n v s
  | .drainTimeout n incomplete => Sys2Proof.Machine.execDrainTimeout n incomplete s
  | .asrSearch hub r l => Sys2Proof.Machine.execAsrSearch hub r l s
  | .classifierInsert hub cmd record => Sys2Proof.Machine.execClassifierInsert hub cmd record s
  | .classifierDelete hub cmd record => Sys2Proof.Machine.execClassifierDelete hub cmd record s
  | .classifierRead hub cmd record => Sys2Proof.Machine.execClassifierRead hub cmd record s
  | .asrRespread hub kind stand run => Sys2Proof.Machine.execAsrRespread hub kind stand run s
  | .asrScrubEntry b slot found => Sys2Proof.Machine.execAsrScrubEntry b slot found s
  | .searchThrottle hub celsius => Sys2Proof.Machine.execSearchThrottle hub celsius s
  | .bankFailure b => Sys2Proof.Machine.execBankFailure b s
  | .getQuote f m v fails => Sys2Proof.Machine.execGetQuote f m v fails s
  | .getLog f m v => Sys2Proof.Machine.execGetLog f m v s
  | .getCert f m v => Sys2Proof.Machine.execGetCert f m v s
  | .getKemKey f m v => Sys2Proof.Machine.execGetKemKey f m v s
  | .installWeightKey f m v => Sys2Proof.Machine.execInstallWeightKey f m v s
  | .removeWeightKey f m v => Sys2Proof.Machine.execRemoveWeightKey f m v s
  | .jobTicket f m v => Sys2Proof.Machine.execJobTicket f m v s
  | .jobJoin f m v => Sys2Proof.Machine.execJobJoin f m v s
  | .jobRemove f m v => Sys2Proof.Machine.execJobRemove f m v s
  | .hwdRandom f m v => Sys2Proof.Machine.execHwdRandom f m v s
  | .enrolOwner f m v => Sys2Proof.Machine.execEnrolOwner f m v s
  | .releaseOwner f m v => Sys2Proof.Machine.execReleaseOwner f m v s
  | .stageFw f m v => Sys2Proof.Machine.execStageFw f m v s
  | .applyFw f m v => Sys2Proof.Machine.execApplyFw f m v s
  | .fwRestart fails => Sys2Proof.Machine.execFwRestart fails s
  | .commitSvn f m v => Sys2Proof.Machine.execCommitSvn f m v s
  | .joinRequest p f => Sys2Proof.Machine.execJoinRequest p f s
  | .joinResponse p f => Sys2Proof.Machine.execJoinResponse p f s
  | .joinRetry n => Sys2Proof.Machine.execJoinRetry n s
  | .relayConfirm n => Sys2Proof.Machine.execRelayConfirm n s
  | .imageErase f v failed => Sys2Proof.Machine.execImageErase f v failed s
  | .imageWrite f v failed => Sys2Proof.Machine.execImageWrite f v failed s
  | .imageCommit f v failed => Sys2Proof.Machine.execImageCommit f v failed s
  | .replaceDrainEnd n => Sys2Proof.Machine.execReplaceDrainEnd n s
  | .zeroingDone n => Sys2Proof.Machine.execZeroingDone n s
  | .pwrokRise fails => Sys2Proof.Machine.execPwrokRise fails s
  | .resetRelease fails => Sys2Proof.Machine.execResetRelease fails s
  | .pkgReset f v fails => Sys2Proof.Machine.execPkgReset f v fails s
  | .pwrVidApplied f v => Sys2Proof.Machine.execPwrVidApplied f v s
  | .powerUpGroveTest cores groves => Sys2Proof.Machine.execPowerUpGroveTest cores groves s
  | .standReset f v => Sys2Proof.Machine.execStandReset f v s
  | .standDrainEnd n => Sys2Proof.Machine.execStandDrainEnd n s
  | .selfTest f v => Sys2Proof.Machine.execSelfTest f v s
  | .selfTestDone g cores clusters channels => Sys2Proof.Machine.execSelfTestDone g cores clusters channels s
  | .calibrationDue kind u failing => Sys2Proof.Machine.execCalibrationDue kind u failing s
  | .ballastTimeout matrix k => Sys2Proof.Machine.execBallastTimeout matrix k s
  | .sealedClusterStart n => Sys2Proof.Machine.execSealedClusterStart n s
  | .thermalSample readings fails => Sys2Proof.Machine.execThermalSample readings fails s
  | .throttleEval rails settled => Sys2Proof.Machine.execThrottleEval rails settled s
  | .stewardFailure core handlers => Sys2Proof.Machine.execStewardFailure core handlers s
  | .sequencerFailure q => Sys2Proof.Machine.execSequencerFailure q s
  | .packageFault block => Sys2Proof.Machine.execPackageFault block s
  | .returnToService f v => Sys2Proof.Machine.execReturnToService f v s
  | .returnCheckDone ok => Sys2Proof.Machine.execReturnCheckDone ok s
  | .cxlLinkUp width rate => Sys2Proof.Machine.execCxlLinkUp width rate s
  | .vfFlr n => Sys2Proof.Machine.execVfFlr n s
  | .qwDoorbellWrite n off v => Sys2Proof.Machine.execQwDoorbellWrite n off v s
  | .apertureWrite n off bs => Sys2Proof.Machine.execApertureWrite n off bs s
  | .apertureRead n off len late => Sys2Proof.Machine.execApertureRead n off len late s
  | .copyIn n e units => Sys2Proof.Machine.execCopyIn n e units s
  | .copyOut n e => Sys2Proof.Machine.execCopyOut n e s
  | .hdmAccess off len bs write => Sys2Proof.Machine.execHdmAccess off len bs write s
  | .mctpGetQuote args fails => Sys2Proof.Machine.execMctpGetQuote args fails s
  | .mctpGetLog args => Sys2Proof.Machine.execMctpGetLog args s
  | .mctpGetKemKey args => Sys2Proof.Machine.execMctpGetKemKey args s
  | .setEndpointId op eid => Sys2Proof.Machine.execSetEndpointId op eid s
  | .stateLostEntryWindowEnd n => Sys2Proof.Machine.execStateLostEntryWindowEnd n s
  | .busMasterEnableWrite w => Sys2Proof.Machine.execBusMasterEnableWrite w s
  | .priorityFlowControlFrame p enable quanta => Sys2Proof.Machine.execPriorityFlowControlFrame p enable quanta s
  | .relayMessage counter intact => Sys2Proof.Machine.execRelayMessage counter intact s
  | .pllUnlock refclkLost fails => Sys2Proof.Machine.execPllUnlock refclkLost fails s
  | .refclkReturn fails => Sys2Proof.Machine.execRefclkReturn fails s
  | .ideKm keys io cm => Sys2Proof.Machine.execIdeKm keys io cm s
  | .getMctpVersionSupport type => Sys2Proof.Machine.execGetMctpVersionSupport type s
  | .getVendorMessageSupport selector => Sys2Proof.Machine.execGetVendorMessageSupport selector s
  | .entdaa addr => Sys2Proof.Machine.execEntdaa addr s
  | .setdasa static addr => Sys2Proof.Machine.execSetdasa static addr s
  | .samplePreload sampled preload => Sys2Proof.Machine.execSamplePreload sampled preload s
  | .testLogicReset fails => Sys2Proof.Machine.execTestLogicReset fails s
  | .hostLinkDegraded width => Sys2Proof.Machine.execHostLinkDegraded width s
  | .ideIntegrityFailure io => Sys2Proof.Machine.execIdeIntegrityFailure io s
  | .pskExchange accepted => Sys2Proof.Machine.execPskExchange accepted s
  | .ddrAlertN k low => Sys2Proof.Machine.execDdrAlertN k low s
  | .lmsTreeBuilt => Sys2Proof.Machine.execLmsTreeBuilt s
  | .pwrokFall => Sys2Proof.Machine.execPwrokFall s
  | .rstNLow => Sys2Proof.Machine.execRstNLow s
  | .perstNLow => Sys2Proof.Machine.execPerstNLow s
  | .governorGrant => Sys2Proof.Machine.execGovernorGrant s
  | .floodWindowEnd => Sys2Proof.Machine.execFloodWindowEnd s
  | .cxlLinkDown => Sys2Proof.Machine.execCxlLinkDown s
  | .pfFlr => Sys2Proof.Machine.execPfFlr s
  | .health => Sys2Proof.Machine.execHealth s
  | .vidApplied => Sys2Proof.Machine.execVidApplied s
  | .mctpGetCert => Sys2Proof.Machine.execMctpGetCert s
  | .getEndpointId => Sys2Proof.Machine.execGetEndpointId s
  | .getMessageTypeSupport => Sys2Proof.Machine.execGetMessageTypeSupport s
  | .idcode => Sys2Proof.Machine.execIdcode s
  | .extest => Sys2Proof.Machine.execExtest s
  | .extestPulse => Sys2Proof.Machine.execExtestPulse s
  | .extestTrain => Sys2Proof.Machine.execExtestTrain s
  | .clamp => Sys2Proof.Machine.execClamp s
  | .highz => Sys2Proof.Machine.execHighz s
  | .bypass => Sys2Proof.Machine.execBypass s

end Sys2Proof.Machine
end

