-- ==== Sys2Proof/Safety.lean ====
section
/-! DEFINITION. Invariants and relations in terms of which claims are stated. -/

namespace Sys2Proof.Machine

open Sys2Proof

/-- A step that answers a next state which `P` holds of. -/
def NextWith (o : Host.Outcome State Fault Refusal) (P : State → Prop) : Prop := ∃ t, o = .next t ∧ P t

/-- The byte map is in its canonical form. -/
def MemInv (s : State) : Prop := Memory.wf s.mem = true

/-- From fuses `a` to fuses `b` bits are only burnt: owner slots are written in order, at most eight of them, and no
revoke bit, SVN bit or LMS block bit returns (14_trust_attestation.md R299, R301, R303, R320). -/
structure Burnt (a b : Fuses) : Prop where
  owners : a.owners <+: b.owners
  ownerSlots : a.owners.length ≤ 8 → b.owners.length ≤ 8
  revoked : a.revoked &&& b.revoked = a.revoked
  svn : a.svn ≤ b.svn
  blocks : a.blocks ≤ b.blocks

/-! Chisyn (04_vector_cores.md) -/

/-- Core `v` holds task `t`, which waits for nothing, and none of the registers `uses` is locked: an instruction that uses
them issues. -/
structure Issues (s : State) (v : Nat) (uses : List Nat) (t : VTask) : Prop where
  task : s.task v = some t
  waits : t.wait = .none
  free : ∀ r ∈ uses, r ∉ t.locked

/-- The elements of `w` bits whose lane the mask of an instruction lets through. -/
def activeLanes (t : VTask) (i : VWord) (w : Nat) : List Nat := (List.range (512 / w)).filter (fun k => t.lane i (laneOf w k))

/-- From `s`, with task `t` on core `v`, an instruction put `f k` in every unmasked element `k` of `w` bits of V[DST]:
masked-off elements keep their value and raise no flag (R83), flags stay set (R52), PC passes to the next instruction, and
nothing else of the task or of the machine changes. -/
def LaneEffect (s : State) (v : Nat) (i : VWord) (t : VTask) (w : Nat) (f : Nat → Nat × Flags)
    (o : Host.Outcome State Fault Refusal) : Prop :=
  ∃ u : VTask, o = .next (s.setTask v (some u)) ∧
    u = { t with v := u.v, pc := t.pc + 1, flags := t.flags.or (Flags.all ((activeLanes t i w).map (fun k => (f k).2))) } ∧
    (∀ r, r ≠ i.dst → u.vreg r = t.vreg r) ∧
    ∀ k, k < 512 / w →
      element (u.vreg i.dst) w k = if t.lane i (laneOf w k) then (f k).1 % 2 ^ w else element (t.vreg i.dst) w k

/-- Element `k` of a source register, as a floating-point number. -/
def srcNum (t : VTask) (f : Fmt) (r : BitVec 5) (k : Nat) : Num := f.decode (element (t.vreg r) f.width k)

/-- Lane `k` of a source register, as an INT32 pattern. -/
def srcLane (t : VTask) (r : BitVec 5) (k : Nat) : BitVec 32 := BitVec.ofNat 32 (element (t.vreg r) 32 k)

/-- The same for an instruction that writes a mask: bit `k` of M[DST] becomes what `f` gives in every unmasked lane; M0
ignores writes. -/
def MaskEffect (s : State) (v : Nat) (i : VWord) (t : VTask) (f : Nat → Bool × Flags)
    (o : Host.Outcome State Fault Refusal) : Prop :=
  ∃ u : VTask, o = .next (s.setTask v (some u)) ∧
    u = { t with m := u.m, pc := t.pc + 1,
                 flags := t.flags.or (Flags.all (((List.range 16).filter (t.lane i)).map (fun k => (f k).2))) } ∧
    (∀ r, r ≠ maskNum i.dst → u.mreg r = t.mreg r) ∧
    ∀ k, k < 16 → (u.mreg (maskNum i.dst)).getLsbD k =
      if t.lane i k ∧ maskNum i.dst ≠ 0 then (f k).1 else (t.mreg (maskNum i.dst)).getLsbD k

/-- X[r] of a task became `w`, unless `r` is X0; PC passes to the next instruction and nothing else changes. -/
def ScalarEffect (s : State) (v : Nat) (t : VTask) (r : BitVec 5) (w : Word) (o : Host.Outcome State Fault Refusal) :
    Prop :=
  ∃ u : VTask, o = .next (s.setTask v (some u)) ∧ u = { t with x := u.x, pc := t.pc + 1 } ∧
    ∀ q, u.xreg q = if q = r ∧ r ≠ 0 then w else t.xreg q

/-! Layer programs (03_matrix_cores.md R67) -/

/-- In step `st` of stand `n`, operation `i`, of opcode `op`, is the next of its class and may start: its wait condition
holds, every earlier operation of its class and every earlier control operation has completed, and LAYER_MARK and END wait
for every earlier operation. -/
structure Starts (s : State) (n i op : Nat) (st : Step) : Prop where
  running : s.running n = some st
  next : s.nextOp n st (opClass op) = some i
  opcode : s.opcode n st.model i = op
  wait : waitHolds st (s.opBytes n st.model i) = true
  order : ∀ j, j < i → j ∉ st.done →
    opClass (s.opcode n st.model j) ≠ opClass op ∧ opClass (s.opcode n st.model j) ≠ 3 ∧ op ≠ 5 ∧ op ≠ 7

/-- Operation `i` of stand `n`'s step marked as started. -/
def State.begun (s : State) (n i : Nat) : State := s.updStep n (fun st => { st with started := i :: st.started })

/-- A register of one function's block written whole by a command that owns a field of it: each field by its access type
(00_scope.md R5). -/
def State.rowWritten (s : State) (r : Reg) (n v : Nat) : State := s.setReg r n 0 (r.written [] (s.reg r n 0) v)

/-! Memory tiers (07_memory_tiers.md) -/

/-- The end of a tier command on object `obj` with result `r.2`: BAD_COMMAND is recorded, and the result is written in the
entry at HEAD, which HEAD passes (R161). -/
def tierEnded (n obj : Nat) (r : State × Nat) : State :=
  (if r.2 = 0x10 then r.1.tierBad n obj else r.1).ringResult tierRing n 32 r.2

/-- A copy after a sweep (R156). -/
def PageCopy.swept (c : PageCopy) : PageCopy :=
  if c.ref then { c with ref := false, age := 0 } else { c with age := min 255 (c.age + 1) }

/-- What an uncorrectable error in unit `u` does to a page of home tier `home` that lies at frame `c` of its copy: a dirty
unit is lost; a unit whose home fails too is lost; a clean copy is dropped; otherwise the clean unit is rewritten from its
home (Table 7.4). -/
def State.copyError (s : State) (n p u : Nat) (o : TierObject) (c : PageCopy) (homeBad : Bool) : State :=
  if c.dirty.testBit u then s.losePage n p c.frame.tier
  else if homeBad then s.losePage n p o.home
  else if c.dirty = 0 then s.dropCopy n p
  else s.copyMem (s.frameKey n c.frame (4096 * u))
    (s.homeKey n o (p - o.base / pageSize) (4096 * u) ((s.stand n).tiers.page p)) 4096

/-- An error of channel `chan` recorded against frame `frame`: the fourth frame within a second takes the channel out of
service (R395). -/
def State.channelError (s : State) (n chan frame : Nat) : State :=
  if (s.countError n chan frame).2 then
    (if chan < 512 then (s.countError n chan frame).1.failHbm chan else (s.countError n chan frame).1.failDdr (chan - 512))
  else (s.countError n chan frame).1

/-- The counter of uncorrectable errors of a channel. -/
def State.channelCounted (s : State) (chan : Nat) : State :=
  if chan < 512 then s.satFld Fld.HBM_ECC_UNCORRECTED (chan / 32) 0 1
  else s.satFld Fld.DDR_ECC_UNCORRECTED (chan - 512) 0 1

/-! Mailboxes (14_trust_attestation.md R323) -/

/-- Function `f` writes `v` with GO to the control register of mailbox `m`, which is not BUSY, while its data area holds OP `op`
and Heartwood takes commands: with the write made the state is `t`, with BUSY set it is `u`, and the mailbox may use the
command and covers its `len` bytes of arguments. -/
structure Commanded (s t u : State) (f : Fn) (m v op len : Nat) (use : BoxUse) : Prop where
  box : m ≤ 24
  written : s.writeRow f .HWD_MB_CTRL m 0 [] v = some t
  go : bit v 0 = true
  idle : t.flag Fld.HWD_MB_CTRL_BUSY m = false
  opcode : bits (t.boxWord (heartBox m)) 0 8 = op
  busy : u = t.setFld Fld.HWD_MB_CTRL_BUSY m 0 1
  taken : u.fld Fld.HWD_STATUS_STATE ≠ 2
  may : use.allows m = true
  covered : len ≤ bits (t.boxWord (heartBox m)) 16 16

/-- Function `f` writes `v` with GO to the configuration mailbox, whose OP is `op` and whose TARGET is `k`, of range `r`, known
and not in use; LENGTH is `len`. -/
structure Configured (s t u : State) (f : Fn) (v op k len : Nat) (r : FlashRange) : Prop where
  written : s.writeRow f .CFG_MB_CTRL 0 0 [] v = some t
  go : bit v 0 = true
  idle : t.flag Fld.CFG_MB_CTRL_BUSY 0 = false
  opcode : bits (t.boxWord cfgBox) 0 8 = op
  busy : u = t.setFld Fld.CFG_MB_CTRL_BUSY 0 0 1
  length : len = bits (t.boxWord cfgBox) 16 16 ∧ len ≠ 0
  target : k = le (u.boxBytes cfgBox 8 1) 0 1 ∧ targetRange k = some r
  unused : u.image.active ≠ some k ∧ ∀ e ∈ u.image.sections, e.2.1 = k → u.standValid e.1 = false

end Sys2Proof.Machine
end

