-- ==== Sys2Proof/Certificates/Slice0/Obligations.lean ====
section
/-! DEFINITION. The statements for the provers, by family; each cites the rule of spec/ it formalises. -/

open Sys2Proof Sys2Proof.Machine

/-! The block (95_what_each_step_holds.md) -/

/-- 95_what_each_step_holds.md: commands are taken one at a time, first in, first out: a step with a command at the
front of the queue is that command's effect on the state with the queue's rest. The model's choice (log 1): on an
empty queue one REFCLK period of 10 ns passes, while PWROK is high and REFCLK runs, and nothing else changes. -/
def Obligations.StepRunsFront : Prop :=
  (
∀ (s : State) (c : Instr) (rest : List Instr), s.pending = c :: rest → step s = exec c { s with pending := rest }) ∧
  (
∀ s : State, s.pending = [] →
    step s = .next { s with timeNs := if s.pins.pwrok && s.pins.refclk then s.timeNs + 10 else s.timeNs })

/-- 95_what_each_step_holds.md: every command is whole: it answers a next state, and it leaves the commands that wait.
-/
def Obligations.CommandsComplete : Prop :=
  ∀ (c : Instr) (s : State), ∃ t, exec c s = .next t ∧ t.pending = s.pending

/-- Every step keeps the byte map in its canonical form (the model's own, log 4 and log 5). -/
def Obligations.MemoryStaysCanonical : Prop :=
  ∀ s t : State, MemInv s → step s = .next t → MemInv t

/-- R299, R301, R303, R320: no step unburns a fuse: owner slots are only written, in order and at most eight; revoke
bits, SVN bits and LMS block bits never fall. -/
def Obligations.FusesOnlyBurn : Prop :=
  ∀ s t : State, step s = .next t → Burnt s.fuses t.fuses

/-- 17_startup_reset_test.md R364, R307: before power is good no command waits, no stand exists, every register holds
its reset value, PMRs are zero and nothing is listed in memory. The levels of the other lands and the zero of a value
that the spec does not give are the model's choice (log 3, log 4, log 7). -/
def Obligations.ResetState : Prop :=
  State.reset.pending = [] ∧ State.reset.phase = .off ∧ State.reset.pins.pwrok = false ∧ State.reset.timeNs = 0 ∧
    (∀ n, State.reset.standValid n = false) ∧ (∀ r i j, State.reset.reg r i j = r.resetValue i j) ∧
    State.reset.heart.pmr = List.replicate 4 (List.replicate 32 0) ∧ State.reset.conns = [] ∧ State.reset.regions = [] ∧
    State.reset.cores = [] ∧ State.reset.stands = [] ∧ State.reset.mem.cells = []

/-- The byte map is canonical after reset. -/
def Obligations.ResetMemoryCanonical : Prop :=
  MemInv State.reset

/-! Registers (00_scope.md, 20_host_interface.md) -/

/-- R5, R7, R446: a write by a function with the full right to a register: a misaligned access or one of another width
has no effect; one that would set an RW field to a value outside its range leaves the register; any other writes each
field by its access type (FieldAccess). Fields with a command of their own are left. What else a write brings about, a
shaper's credit, a gate list that stops, a queue that takes waiting entries, belongs to the registers named, and to no
other. R5: what one field holds after a write, by its access type, where the fields of the register do not overlap. -/
def Obligations.RegisterWrites : Prop :=
  (
(∀ (s : State) (f : Fn) (off bytes v : Nat), badAccess off bytes = true →
    exec (.registerWrite f off bytes v) s = .next s) ∧
  (∀ (s : State) (f : Fn) (off bytes v : Nat) (r : Reg) (i j : Nat), badAccess off bytes = false →
    regAt off bytes = some (r, i, j) → s.areaBusy r i = false → r ≠ .SHP_CBS → r ≠ .GLB_IDE_PSK →
    (s.right f r i j = .full →
      exec (.registerWrite f off bytes v) s = .next ((((if r.writeAdmits v then
        s.setReg r i j (r.written (keptFields r v) (s.reg r i j) v) else s).afterWrite s r i j)).settleWrite r i j)) ∧
    (s.right f r i j = .clear →
      exec (.registerWrite f off bytes v) s =
        .next ((((s.setReg r i j (r.cleared (s.reg r i j) v)).afterWrite s r i j)).settleWrite r i j)) ∧
    (s.right f r i j = .none →
      exec (.registerWrite f off bytes v) s = .next ((s.afterWrite s r i j).settleWrite r i j))) ∧
  (∀ (s : State) (f : Fn) (v p c : Nat), badAccess (Reg.SHP_CBS.addr p c) Reg.SHP_CBS.bytes = false →
    regAt (Reg.SHP_CBS.addr p c) Reg.SHP_CBS.bytes = some (.SHP_CBS, p, c) → (s.portTick p).right f .SHP_CBS p c = .full →
    Reg.SHP_CBS.writeAdmits v = true →
    exec (.registerWrite f (Reg.SHP_CBS.addr p c) Reg.SHP_CBS.bytes v) s = .next (((s.portTick p).setReg .SHP_CBS p c
      (Reg.SHP_CBS.written (keptFields .SHP_CBS v) ((s.portTick p).reg .SHP_CBS p c) v)).afterWrite (s.portTick p)
        .SHP_CBS p c)) ∧
  ∀ (s t : State) (r : Reg) (i j : Nat),
    r ∉ [Reg.SHP_CBS, .GCL_CTRL, .SCH_CQ_HEAD, .SCH_CQ_BASE, .SWY_CONFIG, .SWY_EVT_RING, .SWYP_EVT_RING] →
    (t.afterWrite s r i j).settleWrite r i j = t) ∧
  (
∀ (r : Reg) (keep : List Field) (old v : Nat), ∀ f ∈ r.fields, keep.contains f = false →
    bits (r.written keep old v) f.lo f.w = match f.acc with
      | .rw => bits v f.lo f.w
      | .w1c => bits old f.lo f.w &&& (bits v f.lo f.w ^^^ (2 ^ f.w - 1))
      | .w1s => bits old f.lo f.w ||| bits v f.lo f.w
      | _ => bits old f.lo f.w)

/-- R5, R7: a read returns what the function may see, and clears the RC fields of the register it reads to 0; a
misaligned access or one of another width reads all ones, and a reserved address reads 0, without effect. R445: a
write that gives a ring a new ADDR or SIZE_LOG2 restarts it: HEAD and TAIL go to 0 and the next slot written is slot 0
of a lap with PHASE 1; one that changes neither leaves the indices. Entries that wait for the ring then take their
slots (R450). R450: SWY_EVT_HEAD takes the value written and the slots that it frees take waiting events. R184: SNAP 1
copies every accounting counter into its snapshot. R381: PWR_VID.APPLIED is set by a register write or by the
VID_APPLIED message. -/
def Obligations.RegisterReads : Prop :=
  (
∀ (s : State) (f : Fn) (off bytes : Nat),
    (badAccess off bytes = true →
      exec (.rcRegisterRead f off bytes) s = .next (s.complete (2 ^ (8 * bytes) - 1) false)) ∧
    (badAccess off bytes = false → regAt off bytes = none →
      exec (.rcRegisterRead f off bytes) s = .next (s.complete 0 false)) ∧
    (∀ r i j, badAccess off bytes = false → regAt off bytes = some (r, i, j) → s.right f r i j = .full →
      s.areaBusy r i = false →
      NextWith (exec (.rcRegisterRead f off bytes) s) (fun t => t.host.readData = s.readValue r i j ∧
        t.host.readPoisoned = false ∧
        (∀ x ∈ r.fields, bits (t.reg r i j) x.lo x.w = if x.acc = .rc then 0 else bits (s.reg r i j) x.lo x.w) ∧
        t.mem = s.mem ∧ t.stands = s.stands))) ∧
  (
(∀ (s : State) (f : Fn) (off v : Nat) (r : Reg) (i j : Nat), regAt off 8 = some (r, i, j) → r ∈ ringRegs →
    s.right f r i j = .full → r.writeAdmits v = true →
    exec (.ringRegisterWrite f off v) s = .next (
      (if bits (r.written rowFields (s.reg r i j) v) 0 53 = bits (s.reg r i j) 0 53 then
        s.setReg r i j (r.written rowFields (s.reg r i j) v)
      else (s.setReg r i j (r.written rowFields (s.reg r i j) v)).restartRing r i j).settleWrite r i j)) ∧
  ∀ (s : State) (r : Reg) (i j : Nat), r ∈ ringRegs →
    (∀ x ∈ ringIndices r, (s.restartRing r i j).reg x i j = 0) ∧ (s.restartRing r i j).ringPhase (r.addr i j) = 1 ∧
    (s.restartRing r i j).reg r i j = s.reg r i j ∧ (s.restartRing r i j).mem = s.mem) ∧
  (
(∀ (s : State) (f : Fn) (n index : Nat), n < 24 → s.right f .SWY_EVT_HEAD n 0 = .full →
    exec (.swyEvtHeadWrite f n index) s = .next ((s.setFld Fld.SWY_EVT_HEAD_INDEX n 0 (index % 2 ^ 16)).swyFlush n)) ∧
  (∀ (s : State) (f : Fn) (index : Nat), s.right f .SWYP_EVT_HEAD 0 0 = .full →
    exec (.swyEvtHeadWrite f 24 index) s = .next ((s.setFld Fld.SWYP_EVT_HEAD_INDEX 0 0 (index % 2 ^ 16)).swyFlush 24)) ∧
  (∀ (s : State) (f : Fn) (n v i : Nat), s.right f .SCH_ACCT_SNAP n 0 = .full → Reg.SCH_ACCT_SNAP.writeAdmits v = true →
    v.testBit 0 = true → i < 17 → n < 24 →
    NextWith (exec (.acctSnap f n v) s) (fun t =>
      t.fld Fld.SCH_SNAP_COUNT n i = s.fld Fld.SCH_ACCT_COUNT n i ∧
      t.fld Fld.SCH_ACCT_COUNT n i = s.fld Fld.SCH_ACCT_COUNT n i)) ∧
  (∀ (s : State) (f : Fn) (v : Nat), s.right f .PWR_VID 0 0 = .full → bit v 10 = true → Reg.PWR_VID.writeAdmits v = true →
    NextWith (exec (.pwrVidApplied f v) s) (fun t => t.flag Fld.PWR_VID_APPLIED = true)))

/-! Vector cores (04_vector_cores.md) -/

/-- R83, R84, R51: the floating instructions put the operation of their format, rounded once, in every unmasked
element, and leave masked-off elements and everything else as they were. -/
def Obligations.ChisynFloat : Prop :=
  ∀ (s : State) (v : Nat) (i : VWord) (t : VTask) (f : Fmt), floatType i.type = some f →
    (Issues s v (vs [i.dst, i.src1, i.src2, i.src3]) t →
      LaneEffect s v i t f.width (fun k => f.fma (srcNum t f i.src1 k) (srcNum t f i.src2 k) (srcNum t f i.src3 k))
        (exec (.vFma v i) s)) ∧
    (Issues s v (vs [i.dst, i.src1, i.src2]) t →
      LaneEffect s v i t f.width (fun k => f.add (srcNum t f i.src1 k) (srcNum t f i.src2 k)) (exec (.vAdd v i) s) ∧
      LaneEffect s v i t f.width (fun k => f.sub (srcNum t f i.src1 k) (srcNum t f i.src2 k)) (exec (.vSub v i) s) ∧
      LaneEffect s v i t f.width (fun k => f.mul (srcNum t f i.src1 k) (srcNum t f i.src2 k)) (exec (.vMul v i) s) ∧
      LaneEffect s v i t f.width (fun k => f.minMax false (srcNum t f i.src1 k) (srcNum t f i.src2 k))
        (exec (.vMin v i) s) ∧
      LaneEffect s v i t f.width (fun k => f.minMax true (srcNum t f i.src1 k) (srcNum t f i.src2 k))
        (exec (.vMax v i) s) ∧
      LaneEffect s v i t f.width
        (fun k => f.signed (srcNum t f i.src1 k) ((element (t.vreg i.src2) f.width k).testBit f.magBits))
        (exec (.vCpysgn v i) s)) ∧
    (Issues s v (vs [i.dst, i.src1]) t →
      LaneEffect s v i t f.width (fun k => f.signed (srcNum t f i.src1 k) false) (exec (.vAbs v i) s) ∧
      LaneEffect s v i t f.width
        (fun k => f.signed (srcNum t f i.src1 k) (!(element (t.vreg i.src1) f.width k).testBit f.magBits))
        (exec (.vNeg v i) s))

/-- R88, R89: the special functions put their value of each unmasked element of SRC1 in DST. R89, Table 4.6, R30: a
NaN gives the canonical NaN and no flag; ±0, ±∞ and numbers below 0 give the results of the table and set the flags it
names, in FP32 and in BF16. -/
def Obligations.ChisynSpecial : Prop :=
  (
∀ (s : State) (v : Nat) (i : VWord) (t : VTask) (f : Fmt), floatType i.type = some f →
    Issues s v (vs [i.dst, i.src1]) t →
    LaneEffect s v i t f.width (fun k => Sfu.exp.apply f (element (t.vreg i.src1) f.width k)) (exec (.vExp v i) s) ∧
    LaneEffect s v i t f.width (fun k => Sfu.log.apply f (element (t.vreg i.src1) f.width k)) (exec (.vLog v i) s) ∧
    LaneEffect s v i t f.width (fun k => Sfu.rcp.apply f (element (t.vreg i.src1) f.width k)) (exec (.vRcp v i) s) ∧
    LaneEffect s v i t f.width (fun k => Sfu.rsqrt.apply f (element (t.vreg i.src1) f.width k)) (exec (.vRsqrt v i) s) ∧
    LaneEffect s v i t f.width (fun k => Sfu.tanh.apply f (element (t.vreg i.src1) f.width k)) (exec (.vTanh v i) s)) ∧
  (
∀ (f : Fmt) (x : Nat),
    (∀ b, f.decode x = .nan b → ∀ fn : Sfu, fn.apply f x = (f.nanCode, {})) ∧
    (∀ neg, f.decode x = .inf neg →
      Sfu.exp.apply f x = (if neg then 0 else f.infCode, {}) ∧
      Sfu.log.apply f x = (if neg then (f.nanCode, { invalid := true }) else (f.infCode, {})) ∧
      Sfu.rcp.apply f x = (f.pack neg 0, {}) ∧
      Sfu.rsqrt.apply f x = (if neg then (f.nanCode, { invalid := true }) else (0, {})) ∧
      (f = .fp32 ∨ f = .bf16 → ∃ one, f.decode one = .fin neg (2 ^ f.fbits) (-f.fbits) ∧ Sfu.tanh.apply f x = (one, {}))) ∧
    (∀ neg e, f.decode x = .fin neg 0 e →
      Sfu.log.apply f x = (f.pack true f.infCode, { divZero := true }) ∧
      Sfu.rcp.apply f x = (f.pack neg f.infCode, { divZero := true }) ∧
      Sfu.rsqrt.apply f x = (f.pack neg f.infCode, { divZero := true })) ∧
    (∀ m e, f.decode x = .fin true (m + 1) e →
      Sfu.log.apply f x = (f.nanCode, { invalid := true }) ∧ Sfu.rsqrt.apply f x = (f.nanCode, { invalid := true })))

/-- R83, R84: the integer and logic instructions on every unmasked INT32 lane. A shift by 32 or more has no stated
result (log 13): its lane is a free value. -/
def Obligations.ChisynInteger : Prop :=
  ∀ (s : State) (v : Nat) (i : VWord) (t : VTask), i.type = 2 →
    (Issues s v (vs [i.dst, i.src1, i.src2]) t →
      LaneEffect s v i t 32 (fun k => ((srcLane t i.src1 k + srcLane t i.src2 k).toNat, {})) (exec (.vIadd v i) s) ∧
      LaneEffect s v i t 32 (fun k => ((srcLane t i.src1 k - srcLane t i.src2 k).toNat, {})) (exec (.vIsub v i) s) ∧
      LaneEffect s v i t 32 (fun k => ((srcLane t i.src1 k * srcLane t i.src2 k).toNat, {})) (exec (.vImul v i) s) ∧
      LaneEffect s v i t 32 (fun k => ((srcLane t i.src1 k &&& srcLane t i.src2 k).toNat, {})) (exec (.vAnd v i) s) ∧
      LaneEffect s v i t 32 (fun k => ((srcLane t i.src1 k ||| srcLane t i.src2 k).toNat, {})) (exec (.vOr v i) s) ∧
      LaneEffect s v i t 32 (fun k => ((srcLane t i.src1 k ^^^ srcLane t i.src2 k).toNat, {})) (exec (.vXor v i) s) ∧
      ∃ open_ : Nat → Lane,
        LaneEffect { s with freeCtr := s.freeCtr + 1 } v i t 32 (fun k =>
          ((if (srcLane t i.src2 k).toNat < 32 then srcLane t i.src1 k <<< (srcLane t i.src2 k).toNat else open_ k).toNat, {}))
          (exec (.vShl v i) s) ∧
        LaneEffect { s with freeCtr := s.freeCtr + 1 } v i t 32 (fun k =>
          ((if (srcLane t i.src2 k).toNat < 32 then srcLane t i.src1 k >>> (srcLane t i.src2 k).toNat else open_ k).toNat, {}))
          (exec (.vShr v i) s) ∧
        LaneEffect { s with freeCtr := s.freeCtr + 1 } v i t 32 (fun k =>
          ((if (srcLane t i.src2 k).toNat < 32 then (srcLane t i.src1 k).sshiftRight (srcLane t i.src2 k).toNat
            else open_ k).toNat, {}))
          (exec (.vSar v i) s)) ∧
    (Issues s v (vs [i.dst, i.src1]) t →
      LaneEffect s v i t 32 (fun k => (popcount 32 (element (t.vreg i.src1) 32 k), {})) (exec (.vPopc v i) s))

/-- R83, Table 4.1: compares and mask operations write one bit per unmasked lane of M[DST]; M0 ignores the write. In
packed BF16 a lane's two compares share a bit, which is open where they differ (log 13). -/
def Obligations.ChisynMasks : Prop :=
  ∀ (s : State) (v : Nat) (i : VWord) (t : VTask),
    (∀ f, floatType i.type = some f → Issues s v (vs [i.src1, i.src2]) t →
      ∃ open_ : Nat → Bool,
        let cmp := fun e => floatCompare (immBits i 0 3) (srcNum t f i.src1 e) (srcNum t f i.src2 e)
        MaskEffect { s with freeCtr := s.freeCtr + 1 } v i t (fun k =>
          if f.width = 32 then cmp k
          else (if (cmp (2 * k)).1 = (cmp (2 * k + 1)).1 then (cmp (2 * k)).1 else open_ k,
                (cmp (2 * k)).2.or (cmp (2 * k + 1)).2)) (exec (.vFcmp v i) s)) ∧
    (i.type = 2 → Issues s v (vs [i.src1, i.src2]) t →
      MaskEffect s v i t (fun k =>
        (predicate (immBits i 0 3) ((srcLane t i.src1 k).toInt - (srcLane t i.src2 k).toInt) false, {}))
        (exec (.vIcmp v i) s)) ∧
    (Issues s v [] t →
      MaskEffect s v i t (fun k =>
        ((t.mreg (maskNum i.src1)).getLsbD k && (t.mreg (maskNum i.src2)).getLsbD k, {})) (exec (.vMand v i) s) ∧
      MaskEffect s v i t (fun k =>
        ((t.mreg (maskNum i.src1)).getLsbD k || (t.mreg (maskNum i.src2)).getLsbD k, {})) (exec (.vMor v i) s) ∧
      MaskEffect s v i t (fun k => (!(t.mreg (maskNum i.src1)).getLsbD k, {})) (exec (.vMnot v i) s))

/-- R39, R43, R44, R451, Table 4.3: the conversion, quantise and dequantise instructions. CVT converts the sixteen
elements of one group; QMX and QF16S put a block in the unmasked lanes of DST; DQ puts the block's elements there.
Which bits of IMM select formats and groups is the model's choice (log 12). -/
def Obligations.ChisynConversions : Prop :=
  ∀ (s : State) (v : Nat) (i : VWord) (t : VTask),
    (∀ a b, plainElem (typeCode i) = some a → plainElem (immBits i 5 5) = some b →
      (16 * immBits i 10 3 + 16) * a.width ≤ 512 → (16 * immBits i 13 3 + 16) * b.width ≤ 512 →
      Issues s v (vs [i.dst, i.src1]) t →
      ∃ u : VTask, exec (.vCvt v i) s = .next (s.setTask v (some u)) ∧
        u = { t with v := u.v, pc := t.pc + 1, flags := u.flags } ∧ (∀ r, r ≠ i.dst → u.vreg r = t.vreg r) ∧
        u.flags = t.flags.or (Flags.all (((List.range 16).filter (t.lane i)).map (fun k =>
          (b.convert i.rtz i.sat (a.decode (element (t.vreg i.src1) a.width (16 * immBits i 10 3 + k)))).2))) ∧
        ∀ k, k < 16 → element (u.vreg i.dst) b.width (16 * immBits i 13 3 + k) =
          if t.lane i k then
            (b.convert i.rtz i.sat (a.decode (element (t.vreg i.src1) a.width (16 * immBits i 10 3 + k)))).1 % 2 ^ b.width
          else element (t.vreg i.dst) b.width (16 * immBits i 13 3 + k)) ∧
    (∀ el, formatOf (immBits i 0 5) = some (el, .mx) → Issues s v (vs [i.dst, i.src1, i.src2]) t →
      (i.type = 0 → exec (.vQmx v i) s = .next (s.setTask v (some (t.putBlock i el.width (quantiseMx el
        ((List.range 16).map (srcNum t .fp32 i.src1) ++ (List.range 16).map (srcNum t .fp32 i.src2))) (· % 16)).next))) ∧
      (i.type = 1 → exec (.vQmx v i) s = .next (s.setTask v (some (t.putBlock i el.width (quantiseMx el
        ((List.range 32).map (srcNum t .bf16 i.src1))) (· / 2)).next)))) ∧
    (∀ f, formatOf (immBits i 0 5) = some (.flt f, .f16s) → Issues s v (vs [i.dst, i.src1, i.src2]) t →
      (∀ m e, srcNum t .fp32 i.src2 0 = .fin false (m + 1) e →
        (i.type = 0 → exec (.vQf16s v i) s = .next ({ s with freeCtr := s.freeCtr + 1 }.setTask v (some (t.putBlock i
          f.width (quantiseF16s f (m + 1) e ((List.range 16).map (srcNum t .fp32 i.src1))) (min · 15)).next))) ∧
        (i.type = 1 → exec (.vQf16s v i) s = .next ({ s with freeCtr := s.freeCtr + 1 }.setTask v (some (t.putBlock i
          f.width (quantiseF16s f (m + 1) e ((List.range 16).map (fun k => srcNum t .bf16 i.src1 (16 * immBits i 5 1 + k))))
          (fun k => (16 * immBits i 5 1 + min k 15) / 2)).next)))) ∧
      ((∀ m e, srcNum t .fp32 i.src2 0 ≠ .fin false (m + 1) e) → (floatType i.type).isSome →
        ∃ open_ : Nat → Nat,
          LaneEffect { s with freeCtr := s.freeCtr + 1 } v i t 32 (fun k => (open_ k, {})) (exec (.vQf16s v i) s))) ∧
    (∀ el sc, formatOf (immBits i 0 5) = some (el, sc) → sc ≠ .plain → Issues s v (vs [i.dst, i.src1, i.src2]) t →
      let value := blockValue el sc (t.vreg i.src1) (srcNum t .fp32 i.src2 0)
      (i.type = 0 → LaneEffect s v i t 32
        (fun k => Fmt.fp32.convert i.rtz i.sat (value (if sc = .mx then 16 * immBits i 5 1 + k else k))) (exec (.vDq v i) s)) ∧
      (i.type = 1 → LaneEffect s v i t 16 (fun k =>
        if sc = .mx then Fmt.bf16.convert i.rtz i.sat (value k)
        else if 16 * immBits i 5 1 ≤ k ∧ k < 16 * immBits i 5 1 + 16 then
          Fmt.bf16.convert i.rtz i.sat (value (k - 16 * immBits i 5 1))
        else (element (t.vreg i.dst) 16 k, {})) (exec (.vDq v i) s)))

/-- R83, Table 4.3, R51: select, shuffle, broadcast, reductions, prefix sums and random lanes. A lane that a shuffle
takes from a number of 16 or more, and every lane of RNG, is a free value (log 13); the order of a floating sum is
open (log 14). -/
def Obligations.ChisynCrossLane : Prop :=
  ∀ (s : State) (v : Nat) (i : VWord) (t : VTask),
    (i.type ≠ 3 → Issues s v (vs [i.dst, i.src1, i.src2]) t →
      LaneEffect s v i t 32 (fun k =>
        (element (t.vreg (if (t.mreg (maskNum i.src3)).getLsbD k then i.src1 else i.src2)) 32 k, {})) (exec (.vSel v i) s) ∧
      ∃ open_ : Nat → Nat, LaneEffect { s with freeCtr := s.freeCtr + 1 } v i t 32 (fun k =>
        (if element (t.vreg i.src2) 32 k < 16 then element (t.vreg i.src1) 32 (element (t.vreg i.src2) 32 k) else open_ k, {}))
        (exec (.vShuf v i) s)) ∧
    (i.type ≠ 3 → Issues s v (vs [i.dst, i.src1]) t →
      LaneEffect s v i t (if i.type = 1 then 16 else 32) (fun _ =>
        (if i.type = 1 then element (t.vreg i.src1) 16 (immBits i 0 5) else element (t.vreg i.src1) 32 (immBits i 0 4), {}))
        (exec (.vBcast v i) s)) ∧
    (i.type = 2 → Issues s v (vs [i.dst, i.src1]) t →
      LaneEffect s v i t 32 (fun k =>
        (intSum (((List.range (k + 1)).filter (fun j => t.lane i j)).map (fun j => element (t.vreg i.src1) 32 j)), {}))
        (exec (.vPscan v i) s) ∧
      (t.activeElements i 32 ≠ [] →
        LaneEffect s v i t 32 (fun _ => (intSum (t.activeElements i 32), {})) (exec (.vRsum v i) s) ∧
        LaneEffect s v i t 32 (fun _ => (intExtreme true (t.activeElements i 32), {})) (exec (.vRmax v i) s) ∧
        LaneEffect s v i t 32 (fun _ => (intExtreme false (t.activeElements i 32), {})) (exec (.vRmin v i) s))) ∧
    (∀ f, floatType i.type = some f → Issues s v (vs [i.dst, i.src1]) t →
      LaneEffect s v i t f.width (fun k => floatSum f (((List.range (k + 1)).filter (fun j => t.lane i (laneOf f.width j))).map
        (fun j => element (t.vreg i.src1) f.width j))) (exec (.vPscan v i) s) ∧
      exec (.vRsum v i) s = .next (s.setTask v (some (t.reduceInto i f.width (floatSum f (t.activeElements i f.width))).next)) ∧
      exec (.vRmax v i) s =
        .next (s.setTask v (some (t.reduceInto i f.width (floatExtreme f true (t.activeElements i f.width))).next)) ∧
      exec (.vRmin v i) s =
        .next (s.setTask v (some (t.reduceInto i f.width (floatExtreme f false (t.activeElements i f.width))).next))) ∧
    (Issues s v (vs [i.dst]) t →
      ∃ open_ : Nat → Nat, LaneEffect { s with freeCtr := s.freeCtr + 1 } v i t 32 (fun k => (open_ k, {})) (exec (.vRng v i) s))

/-- R52, R82, R84, Table 4.1: the scalar and control instructions. X0 ignores writes; a branch moves PC by its
immediate (log 12); a shift by 64 or more and CYCLE are free values (log 13, log 15). -/
def Obligations.ChisynScalar : Prop :=
  ∀ (s : State) (v : Nat) (i : VWord) (t : VTask),
    (∀ (op : AluOp) (useImm : Bool), Issues s v (xs ([i.dst, i.src1] ++ if useImm then [] else [i.src2])) t →
      ∃ draw, ScalarEffect { s with freeCtr := s.freeCtr + 1 } v t i.dst
        (alu op draw (t.xreg i.src1) (if useImm then immX i else t.xreg i.src2)) (exec (.scalarAlu v op useImm i) s)) ∧
    (Issues s v [] t →
      exec (.vBr v i) s = .next (s.setTask v (some { t with pc := t.pc + i.imm.truncate 12 })) ∧
      exec (.vFlgclr v i) s = .next (s.setTask v (some { t with flags := Flags.none, pc := t.pc + 1 }))) ∧
    (Issues s v (xs [i.src1]) t →
      exec (.vBrz v i) s =
        .next (s.setTask v (some { t with pc := t.pc + if t.xreg i.src1 = 0 then i.imm.truncate 12 else 1 }))) ∧
    (Issues s v (xs [i.dst]) t →
      exec (.vLoop v i) s = .next (s.setTask v (some { t.setX i.dst (t.xreg i.dst - 1) with
        pc := t.pc + if t.xreg i.dst - 1 = 0 then 1 else i.imm.truncate 12 })) ∧
      ScalarEffect s v t i.dst (BitVec.ofNat 64 t.flags.toNat) (exec (.vFlgrd v i) s) ∧
      (immBits i 0 3 < 5 → ∃ cycle : Word, ScalarEffect { s with freeCtr := s.freeCtr + 1 } v t i.dst
        (match immBits i 0 3 with
          | 0 => BitVec.ofNat 64 v
          | 1 => BitVec.ofNat 64 (v / 864)
          | 2 => BitVec.ofNat 64 t.stand
          | 3 => BitVec.ofNat 64 (s.fld Fld.SCH_STEP_COUNT t.stand % 2 ^ 32)
          | _ => cycle) (exec (.vSysrd v i) s)))

/-- R85, Table 4.4: the local store instructions. An aligned access that lies within the store has its effect, LD and
ST in the width that SRC3 names (log 12); any other ends the task with TASK_FAULT. Of several scatter lanes at one
address, one wins (log 13). -/
def Obligations.ChisynLocalStore : Prop :=
  ∀ (s : State) (v : Nat) (i : VWord) (t : VTask), MemInv s →
    (i.src3 = 0 → Issues s v (xs [i.src1] ++ vs [i.dst]) t → lsOk (t.lsAddr i) 64 = true →
      LaneEffect s v i t 32 (fun k => (element (vecOf (s.lsBytes v (t.lsAddr i) 64)) 32 k, {})) (exec (.vLd v i) s) ∧
      NextWith (exec (.vSt v i) s) (fun u => u.task v = some t.next ∧
        ∀ b, b < lsSize → u.lsBytes v b 1 =
          if t.lsAddr i ≤ b ∧ b < t.lsAddr i + 64 ∧ t.lane i ((b - t.lsAddr i) / 4) then
            (toBytes 4 (element (t.vreg i.dst) 32 ((b - t.lsAddr i) / 4))).drop ((b - t.lsAddr i) % 4) |>.take 1
          else s.lsBytes v b 1)) ∧
    (i.src3 = 1 ∨ i.src3 = 2 ∨ i.src3 = 4 ∨ i.src3 = 8 → Issues s v (xs [i.src1] ++ xs [i.dst]) t →
      lsOk (t.lsAddr i) i.src3.toNat = true →
      ScalarEffect s v t i.dst (BitVec.ofNat 64 (ofBytes (s.lsBytes v (t.lsAddr i) i.src3.toNat))) (exec (.vLd v i) s) ∧
      exec (.vSt v i) s =
        .next ((s.lsPut v (t.lsAddr i) (toBytes i.src3.toNat (t.xreg i.dst).toNat)).setTask v (some t.next))) ∧
    (Issues s v (xs [i.src1, i.src2] ++ vs [i.dst]) t → (∀ p ∈ t.strided i, lsOk p.2 4 = true) →
      LaneEffect s v i t 32
        (fun k => (ofBytes (s.lsBytes v (t.xreg i.src1 + immX i + BitVec.ofNat 64 k * t.xreg i.src2).toNat 4), {}))
        (exec (.vLds v i) s)) ∧
    (Issues s v (xs [i.src1] ++ vs [i.dst, i.src2]) t → (∀ p ∈ t.indexed i, lsOk p.2 4 = true) →
      LaneEffect s v i t 32
        (fun k => (ofBytes (s.lsBytes v (t.xreg i.src1 + immX i +
          BitVec.ofNat 64 (element (t.vreg i.src2) 32 k)).toNat 4), {})) (exec (.vGld v i) s) ∧
      NextWith (exec (.vSst v i) s) (fun u => u.task v = some t.next ∧
        (∀ p ∈ t.indexed i, ∃ q ∈ t.indexed i, q.2 = p.2 ∧
          u.lsBytes v p.2 4 = toBytes 4 (element (t.vreg i.dst) 32 q.1)) ∧
        ∀ b, b < lsSize → (∀ p ∈ t.indexed i, b < p.2 ∨ p.2 + 4 ≤ b) → u.lsBytes v b 1 = s.lsBytes v b 1)) ∧
    (Issues s v (xs [i.src1] ++ vs [i.dst, i.src2]) t → (∃ p ∈ t.indexed i, lsOk p.2 4 = false) →
      exec (.vGld v i) s = .next (s.illegal v t) ∧ exec (.vSst v i) s = .next (s.illegal v t))

/-- R86: an XIN or XOUT that passes every check and whose tag has room is issued, and the bytes an XIN will write are
open until XWAIT returns; one beyond 16 on its tag waits; one that fails a check ends the task with TASK_FAULT before
any byte moves. XWAIT returns once its tag is idle. R86: a transfer with the activation store completes and frees its
slot: the bytes of an XOUT stand there and no other byte changes; those of an XIN are the task's once XWAIT returns.
-/
def Obligations.ChisynTransfers : Prop :=
  (
∀ (s : State) (v : Nat) (i : VWord) (t : VTask) (out : Bool) (x : Transfer),
    x = { tag := (maskNum i.dst).toNat, out := out, ls := (t.xreg i.src1).toNat, addr := (t.xreg i.src2).toNat,
          len := (t.xreg i.src3).toNat, inStand := immBits i 0 1 == 1 } →
    (Issues s v (xs [i.src1, i.src2, i.src3]) t → s.transferOk t.stand x = true →
      ((t.transfers.filter (·.tag == x.tag)).length < 16 →
        exec (if out then .vXout v i else .vXin v i) s =
          .next ((if out then s else s.lsForget v x.ls x.len).setTask v (some { t with
            transfers := t.transfers ++ [{ x with since := s.timeNs, held := if out then s.lsBytes v x.ls x.len else [] }],
            wait := .none, pc := t.pc + 1 }))) ∧
      (16 ≤ (t.transfers.filter (·.tag == x.tag)).length →
        exec (if out then .vXout v i else .vXin v i) s = .next (s.setTask v (some { t with wait := .slot x })))) ∧
    (Issues s v (xs [i.src1, i.src2, i.src3]) t → s.transferOk t.stand x = false →
      exec (if out then .vXout v i else .vXin v i) s =
        .next ((if x.inStand ∧ x.addr % 64 = 0 then s.flagUnmapped t.stand x.addr else s).illegal v t)) ∧
    (Issues s v [] t →
      (t.transfers.any (·.tag == (maskNum i.dst).toNat) = true →
        exec (.vXwait v i) s = .next (s.setTask v (some { t with wait := .tag (maskNum i.dst).toNat }))) ∧
      (t.transfers.any (·.tag == (maskNum i.dst).toNat) = false → t.landed = [] →
        NextWith (exec (.vXwait v i) s) (fun u => u.task v = some { t with pc := t.pc + 1 } ∧ u.mem = s.mem)))) ∧
  (
∀ (s : State) (v k : Nat) (t : VTask) (x : Transfer), MemInv s →
    s.task v = some t → t.wait = .none → t.transfers[k]? = some x → x.inStand = false → x.addr + x.len ≤ spaceSize →
    (x.out = true → x.held.length = x.len → s.lsBytes v x.ls x.len = x.held →
      NextWith (exec (.transferComplete v k) s) (fun u =>
        u.mem.bytes ((Space.act (v / 864)).key x.addr) x.len = x.held ∧
        (∀ a, a < (Space.act (v / 864)).key x.addr ∨ (Space.act (v / 864)).key x.addr + x.len ≤ a →
          u.mem.byte a = s.mem.byte a) ∧
        u.task v = some { t with transfers := listRemove t.transfers k })) ∧
    (x.out = false → x.len % 64 = 0 → s.vop t.stand = none →
      NextWith (exec (.transferComplete v k) s) (fun u => u.mem = s.mem ∧
        u.task v = some { t with
          transfers := listRemove t.transfers k,
          landed := t.landed ++ [(x.tag, x.ls, s.mem.bytes ((Space.act (v / 864)).key x.addr) x.len)] })))

/-- R87: AADD and AMAX join the task's outstanding atomics; one applied to the activation store replaces its word by
the sum or the larger, after every earlier one of its task to that word, and no other byte changes. -/
def Obligations.ChisynAtomics : Prop :=
  ∀ (s : State) (v : Nat) (i : VWord) (t : VTask) (isMax : Bool),
    (i.type = 0 ∨ i.type = 2 → Issues s v (xs [i.src1, i.src2]) t → (t.xreg i.src1).toNat % 4 = 0 →
      s.outsideOk t.stand (immBits i 0 1 == 1) true (t.xreg i.src1).toNat 4 = true →
      exec (if isMax then .vAmax v i else .vAadd v i) s = .next (s.setTask v (some { t with
        atomics := t.atomics ++ [{ isMax := isMax, int := i.type == 2, addr := (t.xreg i.src1).toNat,
                                   inStand := immBits i 0 1 == 1, operand := (t.xreg i.src2).toNat % 2 ^ 32 }],
        pc := t.pc + 1 }))) ∧
    (∀ k x, MemInv s → s.task v = some t → t.wait = .none → t.atomics[k]? = some x → x.inStand = false →
      x.addr + 4 ≤ spaceSize → (∀ y ∈ t.atomics.take k, y.addr ≠ x.addr ∨ y.inStand ≠ x.inStand) →
      NextWith (exec (.vectorAtomicApply v k) s) (fun u =>
        u.mem.bytes ((Space.act (v / 864)).key x.addr) 4 =
          toBytes 4 (x.apply (ofBytes (s.mem.bytes ((Space.act (v / 864)).key x.addr) 4))) ∧
        (∀ a, a < (Space.act (v / 864)).key x.addr ∨ (Space.act (v / 864)).key x.addr + 4 ≤ a →
          u.mem.byte a = s.mem.byte a) ∧
        u.task v = some { t with atomics := listRemove t.atomics k }))

/-- R256-R258: FLD, FST and FATOM issue their operation on the hub die of the core's die with the destination locked,
wait while 32 operations are outstanding, and end the task with TASK_FAULT at a misaligned address; FENCE completes,
with the fabric status word in DST and cleared, once the task's stores, atomics and arrivals have. -/
def Obligations.ChisynFabric : Prop :=
  ∀ (s : State) (v : Nat) (i : VWord) (t : VTask), i.type = 0 → immBits i 2 2 = 0 → i.imm.toNat / 2 ^ 8 = 0 →
    (∀ c opc dst uses, (c, opc, dst, uses) ∈ [
        (Instr.vFld v i, 0, if immBits i 0 2 = 2 then 32 + i.dst.toNat else i.dst.toNat,
          xs [i.src1] ++ if immBits i 0 2 = 2 then vs [i.dst] else xs [i.dst]),
        (Instr.vFst v i, 1, 64, xs [i.src1] ++ if immBits i 0 2 = 2 then vs [i.src2] else xs [i.src2]),
        (Instr.vFatom v i, 2, i.dst.toNat, xs [i.src1, i.src2, i.src3, i.dst])] →
      memKnown opc (immBits i 0 2) (immBits i 4 4) = true → Issues s v uses t →
      ((t.xreg i.src1).toNat % memSize (immBits i 0 2) ≠ 0 → exec c s = .next (s.illegal v t).deliver) ∧
      ((t.xreg i.src1).toNat % memSize (immBits i 0 2) = 0 → 32 ≤ t.fabOut → s.fabDone = [] → exec c s = .next s) ∧
      ((t.xreg i.src1).toNat % memSize (immBits i 0 2) = 0 → t.fabOut < 32 →
        exec c s = .next ((s.setTask v (some { t with
            fabOut := t.fabOut + 1,
            fabStores := if opc = 0 then t.fabStores else t.fabStores + 1,
            locked := if dst < 64 ∧ dst ≠ 0 then dst :: t.locked else t.locked,
            pc := t.pc + 1 })).issueMem (homeHub (v / 864 / 16)) t.stand {
          ctx := .task v t.serial dst, opc := opc, size := immBits i 0 2, aop := immBits i 4 4, off := 0,
          operand := if opc = 1 ∧ immBits i 0 2 = 2 then 0 else (t.xreg i.src2).toNat,
          compare := (t.xreg i.src3).toNat,
          data := if opc = 1 ∧ immBits i 0 2 = 2 then vecBytes (t.vreg i.src2) else [],
          faddr := (t.xreg i.src1).toNat }).deliver)) ∧
    (i.imm = 0 → Issues s v (xs [i.dst]) t →
      (t.fabStores = 0 → exec (.vFence v i) s = .next ((s.setTask v (some { t.setX i.dst (BitVec.ofNat 64 t.fabStatus) with
        fabStatus := 0, wait := .none, pc := t.pc + 1 })).addFld Fld.FMM_FENCES_COUNT t.stand 0 1)) ∧
      (t.fabStores ≠ 0 → exec (.vFence v i) s = .next (s.setTask v (some { t with wait := .fence i.dst.toNat }))))

/-- R94-R99: END ends its task once nothing of it is outstanding; the faults of a task and of its core end it with
their status, set VEC_ERROR and abandon the step, and a failed core leaves service. R93, R94, R96, R98: whatever ends
a task leaves its core free, and no other core's task changes. R93, R94: the next task of the step's VTASKS operation
goes to the lowest-numbered free core of its scope, which must be clocked; while none is free it waits. Tasks that
serve remote requests follow (R121). R82, Table 4.1: a task starts on its core with X1 to X4 set, every other register
and FLAGS 0, and PC 0. -/
def Obligations.TaskEnds : Prop :=
  (
∀ (s : State) (v : Nat) (t : VTask), s.task v = some t →
    (∀ i : VWord, immBits i 0 16 = 0 ∨ 0x8000 ≤ immBits i 0 16 → t.wait = .none →
      (t.transfers = [] → t.atomics = [] → t.fabOut = 0 →
        exec (.chisynEnd v i) s =
          .next ((s.setTask v (some { t with wait := .ending (immBits i 0 16) })).endTask v
            { t with wait := .ending (immBits i 0 16) } (immBits i 0 16))) ∧
      (t.transfers ≠ [] ∨ t.atomics ≠ [] ∨ t.fabOut ≠ 0 →
        exec (.chisynEnd v i) s = .next (s.setTask v (some { t with wait := .ending (immBits i 0 16) })))) ∧
    exec (.taskTimeout v) s = .next (s.taskFault v t Fld.VEC_ERROR_TASK_TIMEOUT 0x0003 0x35) ∧
    exec (.lsUncorrectable v) s = .next (s.taskFault v t Fld.VEC_ERROR_LS_POISONED 0x0004 0x36) ∧
    (∀ n, v < 82944 → s.coreInService v = true → s.groveStand (v / 864 / 4) = some n →
      exec (.vcoreFault v) s =
        let w := s.fld Fld.VEC_CORE_MASK_OUT (v / 864) (v % 864 / 64) ||| 2 ^ (v % 864 % 64)
        .next (((s.setFld Fld.VEC_CORE_MASK_OUT (v / 864) (v % 864 / 64) w).event
          ⟨0x0104, some n, v / 864 / 16, v / 864 % 16, [v]⟩).taskFault v t Fld.VEC_ERROR_VCORE_FAILED 0x0005 0x37))) ∧
  (
∀ (s : State) (v : Nat) (t : VTask) (status : Nat), (s.endTask v t status).task v = none ∧
    ∀ u, u ≠ v → (s.endTask v t status).task u = s.task u) ∧
  (
∀ (s : State) (n : Nat) (op : VOp) (d : List Byte), s.vop n = some op → op.next < op.count →
    s.peek n (op.table + 32 * op.next) 32 = .ok d → d ≠ [] → s.descriptorValid n d = true →
    ∀ die, die = (if bits (le d 0 8) 12 1 = 1 then (s.dieOrder n)[bits (le d 0 8) 13 3]? else none) →
    (s.lowestFreeCore n die = none → exec (.taskPlace n) s = .next (s.placeService n).1) ∧
    (∀ v, s.lowestFreeCore n die = some v → s.power.clocked (.vector v) = true →
      exec (.taskPlace n) s =
        .next (((s.startTask n v op.next d false).updOp n (fun op => { op with next := op.next + 1 })).placeService n).1)) ∧
  (
∀ (s : State) (n v index : Nat) (d : List Byte) (service : Bool),
    ∃ t, (s.startTask n v index d service).task v = some t ∧ t.stand = n ∧ t.pc = 0 ∧ t.flags = {} ∧
      t.xreg 1 = BitVec.ofNat 64 index ∧ t.xreg 2 = BitVec.ofNat 64 (le d 4 4) ∧
      t.xreg 3 = BitVec.ofNat 64 (le d 16 8) ∧ t.xreg 4 = BitVec.ofNat 64 (le d 24 8) ∧
      (∀ r, r ≠ 1 → r ≠ 2 → r ≠ 3 → r ≠ 4 → t.xreg r = 0) ∧ (∀ r, t.vreg r = 0) ∧ (∀ r, r ≠ 0 → t.mreg r = 0))

/-! Layer programs (03_matrix_cores.md) -/

/-- R67, R69, R71, R94, R179: an operation that may start has its effect: MATMUL streams its tensor once the stand's
matrix cores are clocked, and one that meets an activation error abandons the step; VTASKS places its tasks in table
order while cores are free; the link operations move their slices; WAIT, LAYER_MARK and END complete at once,
LAYER_MARK counts the layer and runs the checkpoint that it asks for, and END ends the layer-program phase. R67: an
operation whose wait condition does not hold, or that an earlier one of its class or an earlier control operation
holds back, does not start (a command for it changes nothing, log 2). -/
def Obligations.LayerOperations : Prop :=
  (
∀ (s : State) (n i : Nat) (st : Step) (b : List Byte), b = s.opBytes n st.model i →
    (Starts s n i 1 st → s.matrixReady n = true →
      let o := MatmulOp.ofBytes b
      let t := ((s.clusters n).foldl (fun s c => s.work (.matrix c)) (s.begun n i)).setMxcStatus n o.g (bits (le b 0 8) 48 3) 1
      exec (.opMatmul n none) s = .next (t.runMatmul n st i o).1 ∧
      ∀ c ∈ t.clusters n,
        exec (.opMatmul n (some c)) s = .next ((t.flagMxc Fld.MXC_ERROR_ACT_POISONED c st i o.wsd).abandon n 0x33 i)) ∧
    (Starts s n i 2 st →
      let op : VOp := { index := i, table := le b 8 6, statusAddr := le b 16 6, count := bits (le b 24 8) 0 20,
                        limit := if bits (le b 24 8) 20 32 = 0 then 16384 else bits (le b 24 8) 20 32 }
      exec (.opVtasks n) s = .next (((s.begun n i).updStep n (fun st => { st with vop := some op })).placeAll op.count n)) ∧
    (Starts s n i 3 st →
      exec (.opReduceScatter n) s =
        .next ((s.begun n i).reduceScatter n ((s.begun n i).groupBefore n st.model i) (LinkOp.ofBytes b))) ∧
    (Starts s n i 4 st →
      exec (.opAllGather n) s =
        .next ((s.begun n i).allGather n ((s.begun n i).groupBefore n st.model i) (LinkOp.ofBytes b))) ∧
    (Starts s n i 5 st →
      let t := (((s.begun n i).completeOp n i).updStep n (fun st => { st with layers := st.layers + 1 })).pushLayers n
        (st.layers + 1)
      exec (.opLayerMark n) s = .next (if bit (le b 0 8) 32 then t.checkpoint n else t).deliver) ∧
    (Starts s n i 6 st → exec (.opWait n) s = .next ((s.begun n i).completeOp n i)) ∧
    (Starts s n i 7 st →
      exec (.opEnd n) s = .next ((((s.begun n i).completeOp n i).updStep n (fun st => { st with ended := true })).setFld
        Fld.SCH_STATUS_STATE n 0 3))) ∧
  (
∀ (s : State) (n i op : Nat) (st : Step) (c : Instr), (c, op) ∈ [(Instr.opMatmul n none, 1), (.opVtasks n, 2),
      (.opReduceScatter n, 3), (.opAllGather n, 4), (.opLayerMark n, 5), (.opWait n, 6), (.opEnd n, 7)] →
    s.matrixReady n = true → s.running n = some st → s.nextOp n st (opClass op) = some i →
    (waitHolds st (s.opBytes n st.model i) = false ∨
      ∃ j, j < i ∧ j ∉ st.done ∧ (opClass (s.opcode n st.model j) = opClass op ∨ opClass (s.opcode n st.model j) = 3)) →
    exec c s = .next s)

/-- R67, R94: an operation that started completes, a VTASKS once each of its tasks has ended: it counts as done and
its SIGNAL_CTR, 16 bits wide, is incremented, which releases the operations that wait for the count; the matrix cores
of a MATMUL come to rest. R78, Table 19.1: a fault in a matrix core takes its grove out of service; the stand that
holds it records the error, abandons its step, and stops with its cores. -/
def Obligations.OperationCompletes : Prop :=
  (
(∀ (s : State) (n i : Nat) (st : Step), (s.stand n).step = some st →
    ((s.completeOp n i).stand n).step = some { st with
      done := i :: st.done,
      ctr := let c := bits (le (s.opBytes n st.model i) 0 8) 12 4
             if c = 0 then st.ctr else st.ctr.set c (((st.ctr.get? c).getD 0 + 1) % 2 ^ 16) }) ∧
  ∀ (s : State) (n i : Nat) (st : Step), s.running n = some st → i ∈ st.started → i ∉ st.done →
    (s.opcode n st.model i = 1 → ∀ g, g = bits (le (s.opBytes n st.model i) 0 8) 48 3 →
      exec (.operationComplete n i) s = .next (((s.setMxcStatus n (2 ^ g) g 0).matrixRest n).completeOp n i)) ∧
    (s.opcode n st.model i = 2 →
      (∀ op, st.vop = some op → op.index = i → op.next = op.count → op.ended = op.count →
        exec (.operationComplete n i) s =
          .next ((s.completeOp n i).updStep n (fun st => { st with vop := none }))) ∧
      (∀ op, st.vop = some op → op.ended ≠ op.count → exec (.operationComplete n i) s = .next s)) ∧
    (s.opcode n st.model i ≠ 1 → s.opcode n st.model i ≠ 2 →
      exec (.operationComplete n i) s = .next (s.completeOp n i))) ∧
  (
∀ (s : State) (c : Nat), c < 96 → (s.fld Fld.RST_GROVE_STATUS_OUT_OF_SERVICE).testBit (c / 4) = false →
    (s.groveStand (c / 4) = none → exec (.coreFailure c) s = .next (s.groveOut (c / 4)).deliver) ∧
    (∀ n st, s.groveStand (c / 4) = some n → (s.stand n).step = some st →
      let t := ((s.setFld Fld.RST_GROVE_STATUS_OUT_OF_SERVICE 0 0
        (s.fld Fld.RST_GROVE_STATUS_OUT_OF_SERVICE ||| 2 ^ (c / 4))).flagMxc Fld.MXC_ERROR_CORE_FAILED c st st.atOp 0).event
          ⟨0x0103, some n, c / 16, c % 16, [c]⟩
      exec (.coreFailure c) s =
        .next (((t.clusters n).foldl State.stopCluster (t.abandon n 0x38 st.atOp)).stopStand n 0x38).deliver))

/-! Grammar masks (04_vector_cores.md) -/

/-- R101: a mask of the awaited position and vocabulary that allows a token is applied; one of another vocabulary, or
that allows none, withholds the request's token; one of another position changes nothing; and the end of the wait
withholds the token as MASK_LATE. -/
def Obligations.GrammarMasks : Prop :=
  ∀ (s : State) (n id vocab : Nat) (r : Request) (b : List Byte), s.awaitsMask n id = some r → s.hostReach (.vf n) = true →
    vocab = (((s.stand n).cfg.models.get? r.model).map (·.vocab)).getD 0 →
    (le b 0 4 ≠ s.nextPosition n id → exec (.maskRead n id (.data b)) s = .next s) ∧
    (le b 0 4 = s.nextPosition n id → le b 4 4 ≠ vocab →
      exec (.maskRead n id (.data b)) s = .next (s.withhold n id .maskInvalid)) ∧
    (le b 0 4 = s.nextPosition n id → le b 4 4 = vocab →
      (∀ t, t < vocab → ((sub b 64 (ceilDiv vocab 8)).getD (t / 8) 0).toNat.testBit (t % 8) = false) →
      exec (.maskRead n id (.data b)) s = .next (s.withhold n id .grammarEmpty)) ∧
    (∀ t, le b 0 4 = s.nextPosition n id → le b 4 4 = vocab → t < vocab →
      ((sub b 64 (ceilDiv vocab 8)).getD (t / 8) 0).toNat.testBit (t % 8) = true →
      exec (.maskRead n id (.data b)) s =
        .next (s.updStep n (fun st => { st with masks := st.masks.set id (sub b 64 (ceilDiv vocab 8)) }))) ∧
    exec (.maskWaitExpiry n id) s = .next (s.withhold n id .maskLate)

/-! Attention state (05_attention_state.md) -/

/-- R104: a write of ENABLE 1 to a pool that was off checks the descriptor: one that passes goes into use at once, or
at the step boundary while a step runs; one that does not leaves ENABLE 0 and sets POOL_INVALID. R105: a write of
ENABLE 0 stops the pool in use, at the step boundary while a step runs; the end of a rebuild registers the response
buffers and applies the commands that waited. -/
def Obligations.PoolLife : Prop :=
  (
∀ (s t : State) (f : Fn) (n v : Nat), v.testBit 48 = true → s.right f .KVM_POOL n 0 = .full →
    Reg.KVM_POOL.writeAdmits v = true → t = s.rowWritten .KVM_POOL n v → s.flag Fld.KVM_POOL_ENABLE n = false →
    (∀ p, t.readPool n (t.fld Fld.KVM_POOL_ADDR n) = some p → t.poolOk n p = true →
      ((t.stand n).step = none → exec (.poolEnable f n v) s = .next (t.poolStart n p)) ∧
      ((t.stand n).step.isSome = true → exec (.poolEnable f n v) s =
        .next (t.updStand n (fun st => { st with kv := { st.kv with enabling := some p } })))) ∧
    ((∀ p, t.readPool n (t.fld Fld.KVM_POOL_ADDR n) = some p → t.poolOk n p = false) →
      exec (.poolEnable f n v) s =
        .next ((t.setFld Fld.KVM_POOL_ENABLE n 0 0).flagKv Fld.KVM_ERROR_POOL_INVALID n noSeq 0 0))) ∧
  (
(∀ (s t : State) (f : Fn) (n v : Nat), v.testBit 48 = false → s.right f .KVM_POOL n 0 = .full →
    Reg.KVM_POOL.writeAdmits v = true → s.flag Fld.KVM_POOL_ENABLE n = true → (s.stand n).kv.pool.isSome = true →
    t = (s.rowWritten .KVM_POOL n v).updStand n (fun st => { st with kv := { st.kv with enabling := none } }) →
    ((s.stand n).step = none → exec (.poolDisable f n v) s = .next (t.poolStop n)) ∧
    ((s.stand n).step.isSome = true → exec (.poolDisable f n v) s =
      .next (t.updStand n (fun st => { st with kv := { st.kv with disabling := true } })))) ∧
  ∀ (s : State) (n : Nat) (p : Pool), (s.stand n).kv.pool = some p → (s.stand n).kv.rebuilding = true →
    exec (.poolRebuildDone n) s = .next (((((s.rebuild n p).updStand n (fun st => { st with kv :=
      { st.kv with rebuilding := false } })).registerPartial n p).kvSettle n)))

/-- R111, R112, R115: an append record that fits the pool is written token by token where its sequence's appends of
the step stand, and the positions after it are the next ones; one elsewhere withholds the requests' tokens and sets
SEGMENT_INVALID; a sequence that met KV_FULL takes nothing more; one that does not fit ends its task with TASK_FAULT.
-/
def Obligations.Appends : Prop :=
  ∀ (s t : State) (v k : Nat) (task : VTask) (bs : List Byte) (p : Pool), s.windowOut v k .append = some (task, bs) →
    t = { s with freeCtr := s.freeCtr + 1 } → (s.stand task.stand).kv.pool = some p →
    ∀ n a g hs, n = task.stand → a = AppendHeader.ofBytes bs →
      g = t.kvGroup n p (4 * (t.seqRecord n p a.seq).model + a.group) → hs = (List.range a.heads).map (a.head + ·) →
      (t.appendOk n p a bs.length = false →
        exec (.appendRecord v k) s = .next ((t.setTask v (some task)).illegal v task)) ∧
      (t.appendOk n p a bs.length = true → a.seq ∈ ((t.stand n).step.map (·.kvFull)).getD [] →
        exec (.appendRecord v k) s = .next ((t.setTask v (some task)).settle v)) ∧
      (t.appendOk n p a bs.length = true → a.seq ∉ ((t.stand n).step.map (·.kvFull)).getD [] →
        (∃ h ∈ hs, t.appendNext n p a h ≠ a.pos) →
        exec (.appendRecord v k) s = .next ((((t.markSeq n a.seq .segmentInvalid).flagKv Fld.KVM_ERROR_SEGMENT_INVALID n
          a.seq a.layer g.num).setTask v (some task)).settle v)) ∧
      (t.appendOk n p a bs.length = true → a.seq ∉ ((t.stand n).step.map (·.kvFull)).getD [] →
        (∀ h ∈ hs, t.appendNext n p a h = a.pos) →
        exec (.appendRecord v k) s = .next ((((t.appendTokens n p a g (bs.drop 64) a.count 0).updStep n (fun st =>
          { st with appendEnd := hs.foldl (fun m h => m.set (a.endKey h) (a.pos + a.count)) st.appendEnd })).setTask v
            (some task)).settle v))

/-- R118, R449: while no step runs, the KV command at HEAD is applied, its result byte written, HEAD passes it, and
the device's own commands follow once the ring is empty; a refused one sets BAD_COMMAND. While a step runs it waits.
Table 5.9, R118: what the commands do with sequences: RELEASE drops every reference and clears VALID; TRUNCATE lowers
LENGTH and drops the pages wholly beyond it; GRAFT goes to an empty sequence alone; each refuses a record that is not
VALID. -/
def Obligations.KvRing : Prop :=
  (
∀ (s : State) (n op : Nat) (p : Pool) (e : List Byte) (c : Instr) (r : State × Nat),
    s.kvActive n = some p → s.ringFront kvRing n 32 = some e → le e 0 1 = op →
    (c, op, r) ∈ [(Instr.kvCreate n, 1, s.kvCreate n p (ringKvCommand e)),
      (.kvGraft n, 2, s.kvGraft n p (ringKvCommand e)), (.kvRelease n, 3, s.kvRelease n p (le e 4 4)),
      (.kvTruncate n, 4, s.kvTruncate n p (le e 4 4) (le e 12 4))] →
    ((s.stand n).step.isSome = true → exec c s = .next s) ∧
    ((s.stand n).step = none →
      exec c s = .next ((((if r.2 = 0 then r.1 else r.1.flagKv Fld.KVM_ERROR_BAD_COMMAND n (le e 4 4) 0 0).ringResult kvRing n
        32 r.2).updStand n (fun st => { st with kv := { st.kv with ringDone := st.kv.ringDone + 1 } })).kvSettle n))) ∧
  (
∀ (s : State) (n seq count : Nat) (p : Pool) (c : DeviceCommand),
    (s.seqValid n p seq = false →
      s.kvRelease n p seq = (s, 0x10) ∧ s.kvTruncate n p seq count = (s, 0x10) ∧
      (c.seq = seq → s.kvGraft n p c = (s, 0x10))) ∧
    (s.seqValid n p seq = true →
      (s.kvRelease n p seq).2 = 0 ∧ (s.kvTruncate n p seq count).2 = 0 ∧
      (s.kvTruncate n p seq count).1 = (((s.kvGroups n p (s.seqRecord n p seq).model).foldl (fun t g =>
          (List.range ((s.seqRecord n p seq).table g).2).foldl (fun t k =>
            if g.beyond (s.seqRecord n p seq).length (min count (s.seqRecord n p seq).length) k then
              t.dropEntry n (s.seqRecord n p seq) g k else t) t) s).setLength n p seq
                (min count (s.seqRecord n p seq).length)) ∧
      (c.seq = seq → c.addr = 0 → (s.seqRecord n p seq).length ≠ 0 → s.kvGraft n p c = (s, 0x17))))

/-- R120, R121: an XOUT of a step's task to the request window goes to the holder, one of a service task is its
response; a request that reaches a holder waits for a core, unless a step runs there. R123, R124: a response that
matches its pending request is put into its buffer and gives it its status; any other is discarded and counted as
late; when REMOTE_BUDGET passes first the buffer takes a MISSING record. -/
def Obligations.RemoteAttention : Prop :=
  (
(∀ (s t : State) (v k : Nat) (task : VTask) (bs : List Byte), s.windowOut v k .request = some (task, bs) →
    t = { s with freeCtr := s.freeCtr + 1 } →
    (∀ p, task.service = false → (s.stand task.stand).kv.pool = some p →
      exec (.remoteRequestSend v k) s = .next (((t.sendRequest task.stand p bs).setTask v (some task)).settle v)) ∧
    (∀ sv, task.service = true → (s.stand task.stand).kv.serving.get? task.serial = some sv →
      exec (.remoteRequestSend v k) s = .next (((t.respond sv bs).setTask v (some task)).settle v))) ∧
  (∀ (s : State) (n a len conn : Nat) (c : Conn) (bs : List Byte), s.conn conn = some c → c.stand = n →
    s.peek n a len = .ok bs → 64 ≤ len → (s.stand n).step = none →
    ∀ sv, sv = { conn := conn, key := le bs 32 8, gen := le bs 40 2, offset := le bs 42 6, words := sub bs 0 24 } →
    exec (.remoteRequestArrive n a len conn) s =
      .next (State.placeServices n ((s.stand n).kv.waiting.length + 1) (s.updStand n (fun st =>
        { st with kv := { st.kv with waiting := st.kv.waiting ++ [sv] } }))))) ∧
  (
∀ (s t : State) (n b off : Nat) (p : Pool) (r : RemotePending) (bs : List Byte) (rest : List (Nat × List Byte)),
    (s.stand n).kv.pool = some p → t = s.updStand n (fun st => { st with kv := { st.kv with arrived := rest } }) →
    ((s.stand n).kv.arrived = (off, bs) :: rest → t.pendingFor n p off bs = some (b, r) →
      exec (.remoteResponse n) s =
        .next ((t.standWrite n (p.partialAddr + off) bs).resolvePartial n b r (bits (le bs 24 8) 0 8))) ∧
    ((s.stand n).kv.arrived = (off, bs) :: rest → t.pendingFor n p off bs = none →
      exec (.remoteResponse n) s = .next (t.addFld Fld.KVM_REMOTE_LATE_COUNT n 0 1)) ∧
    ((s.stand n).kv.remotes.get? b = some r → r.resolved = none →
      ∀ g, g = s.kvGroup n p (4 * (((s.stand n).step.map (·.model)).getD 0) + r.group) →
      exec (.remoteBudgetExpiry n b) s =
        .next ((s.standWrite n (p.partialAddr + (r.slot * g.heads + r.head) * 8192)
          (sub r.words 0 24 ++ toBytes 8 1 ++ zeros 32)).resolvePartial n b r 1)))

/-! Memory tiers (07_memory_tiers.md) -/

/-- Table 7.5, R161: the tier commands on the ring's entry at HEAD whose OP is theirs: each does what its row says to
the object or the range it names and completes with its result; DELETE and SET_HINT wait for the step boundary, DELETE
also for the object's moves. R133, Table 7.5, LOAD: the range of the object is loaded from the object that ARG names
where it is indexed, the range lies in the source and the rest of ARG is 0; any other is BAD_COMMAND. A block of the
range whose key is not installed is KEY_MISSING before anything is copied. R152: the checks of CREATE in the order of
their table, each with its result, nothing created where one fails; a PIN object whose copies cannot all be made is
removed again. -/
def Obligations.TierCommands : Prop :=
  (
∀ (s : State) (n : Nat) (e : List Byte), s.ringFront tierRing n 32 = some e → le e 4 2 ≠ programObject →
    (le e 0 1 = 1 → exec (.tierCreate n) s =
      .next (s.withFabric n (fun _ => tierEnded n (le e 4 2) (s.createObject n (le e 4 2) (le e 16 6))))) ∧
    (le e 0 1 = 2 → (s.stand n).step = none → s.frontMoves n = false →
      ((s.stand n).tiers.objects.get? (le e 4 2)).isSome = true →
      exec (.tierDelete n) s = .next (tierEnded n (le e 4 2) (s.removeObject n (le e 4 2), 0))) ∧
    ((s.stand n).step.isSome = true ∨ s.frontMoves n = true → exec (.tierDelete n) s = .next s) ∧
    (le e 0 1 = 3 → exec (.tierFlush n) s = .next (s.withFabric n (fun _ => tierEnded n (le e 4 2)
      (s.onRange n e (fun o idx s => overPages o idx s (fun p s =>
        ((s.writeBack n p).1, if (s.writeBack n p).2 then 0 else 0x14))))))) ∧
    (∀ o, (s.stand n).tiers.objects.get? (le e 4 2) = some o → le e 0 1 = 4 → (s.stand n).step = none → le e 16 8 ≤ 3 →
      le e 16 8 ≠ 2 ∨ o.home = 0 →
      exec (.tierSetHint n) s = .next (s.withFabric n (fun _ => tierEnded n (le e 4 2) (s.updStand n (fun st => { st with
        tiers := { st.tiers with objects := st.tiers.objects.set (le e 4 2) { o with hint := le e 16 8 } } }), 0)))) ∧
    (∀ o, (s.stand n).tiers.objects.get? (le e 4 2) = some o → le e 0 1 = 4 → (s.stand n).step = none → le e 16 8 = 2 →
      o.home ≠ 0 → (s.pinPages n o).2 ≠ 0 →
      exec (.tierSetHint n) s = .next (s.withFabric n (fun _ => tierEnded n (le e 4 2) (s.pinPages n o)))) ∧
    ((s.stand n).step.isSome = true → exec (.tierSetHint n) s = .next s) ∧
    (le e 0 1 = 5 → exec (.tierPrefetch n) s = .next (s.withFabric n (fun _ => tierEnded n (le e 4 2)
      (s.onRange n e (fun o idx s => if o.home = 0 ∨ (o.home = 1 ∧ o.copyTier = 1) then (s, 0)
        else overPages o idx s (fun p s => s.promoteNow n p o)))))) ∧
    (le e 0 1 = 6 → exec (.tierEvict n) s = .next (s.withFabric n (fun _ => tierEnded n (le e 4 2)
      (s.onRange n e (fun o idx s => overPages o idx s (fun p s =>
        ((s.evictCopy n p).1, if (s.evictCopy n p).2 then 0 else 0x14))))))) ∧
    (le e 0 1 = 8 → exec (.tierRepair n) s = .next (tierEnded n (le e 4 2)
      (s.onRange n e (fun o idx s => overPages o idx s (fun p s => (s.repairPage n p o, 0))))))) ∧
  (
(∀ (s : State) (n : Nat) (e : List Byte) (o src : TierObject) (idx : List Nat), s.ringFront tierRing n 32 = some e →
    le e 0 1 = 7 → le e 4 2 ≠ programObject → (s.stand n).tiers.objects.get? (le e 4 2) = some o →
    rangeOf o e = some idx → (s.stand n).tiers.objects.get? (le e 16 2) = some src →
    (o.indexAddr ≠ 0 → (∀ i ∈ idx, i < src.pages) → le e 18 6 = 0 →
      exec (.tierLoad n) s = .next (tierEnded n (le e 4 2) (s.loadRange n o src idx))) ∧
    (o.indexAddr = 0 ∨ (∃ i ∈ idx, src.pages ≤ i) ∨ le e 18 6 ≠ 0 →
      exec (.tierLoad n) s = .next (tierEnded n (le e 4 2) (s, 0x10)))) ∧
  ∀ (s : State) (n tables blocks stored b k : Nat) (o src : TierObject) (idx : List Nat) (bs : List Byte),
    s.indexHeader n o.indexAddr = some (tables, blocks, stored) → b < blocks →
    s.peek n (indexEntryAddr o.indexAddr tables b) 16 = .ok bs →
    (IndexEntry.ofBytes bs).offset * 256 / pageSize ∈ idx → s.blockKey n src (IndexEntry.ofBytes bs) = some k →
    (s.stand n).weightKeys.get? k = none → s.loadRange n o src idx = (s, 0x15)) ∧
  (
∀ (s : State) (n k addr : Nat) (b : List Byte) (o : TierObject) (bad : Bool) (leaves : Nat),
    s.peek n addr 64 = .ok b → o = TierObject.ofBytes b →
    bad = (addr % 64 != 0 || k == programObject || ((s.stand n).tiers.objects.get? k).isSome || s.createBad n b) →
    leaves = { (s.stand n).tiers with objects := (s.stand n).tiers.objects.set k o }.leaves.length →
    (bad = true → s.createObject n k addr = (s, 0x10)) ∧
    (bad = false → s.createOverlaps n o = true → s.createObject n k addr = (s, 0x11)) ∧
    (bad = false → s.createOverlaps n o = false → s.fld Fld.TIER_MAP_LEAVES_TOTAL n < leaves →
      s.createObject n k addr = (s, 0x12)) ∧
    (bad = false → s.createOverlaps n o = false → leaves ≤ s.fld Fld.TIER_MAP_LEAVES_TOTAL n →
      (o.home = 0 ∨ o.hint = 2 → s.t0Fits n o = false → s.createObject n k addr = (s, 0x13)) ∧
      (o.home = 2 ∨ o.home = 3 → o.hint ≠ 2 → s.createObject n k addr = (s.updStand n (fun st =>
        { st with tiers := { st.tiers with objects := st.tiers.objects.set k o } }), 0)) ∧
      (o.home = 0 → s.t0Fits n o = true → s.createObject n k addr = ((s.updStand n (fun st =>
        { st with tiers := { st.tiers with objects := st.tiers.objects.set k o } })).giveHomes n o, 0)) ∧
      (o.home = 1 → (o.hint = 2 → s.t0Fits n o = true) → (s.clearT1Range n o.t1Range.1 o.t1Range.2).2 = false →
        (s.createObject n k addr).2 = 0x13)))

/-- R154, R155: a write-back of a copy to a home of T1 or T2 succeeds: the copy stays, clean; a HELD copy is never
evicted; an evicted copy leaves the page served from its home. A failed write-back to T3 leaves the copy HELD. R153,
R157, Table 7.3: an access to a page without a copy starts a promotion into a free frame; a T0 home, a hint that
forbids it, a LOST page, one that moves and 64 moves under way start none, and a streaming access takes no frame that
is not free. The move ends with the copy made in its frame, once no other page's copy lies there. R156: a sweep visits
each copy once: one that was referenced loses its mark and its age, any other ages by one, up to 255; nothing else of
a page changes. Table 7.4, R395: an uncorrectable error is counted for its channel; at the copy it costs the unit, the
copy or the page; at a home it costs a page without a copy. The error is then recorded against its channel. -/
def Obligations.PageMoves : Prop :=
  (
∀ (s : State) (n p k : Nat) (o : TierObject) (c : PageCopy), s.pageObject n p = some (k, o) →
    ((s.stand n).tiers.page p).copy = some c →
    (o.home ≠ 3 → bitsOf 16 c.dirty ≠ [] → (s.writeBack n p).2 = true ∧
      (((s.writeBack n p).1.stand n).tiers.page p).copy = some { c with dirty := 0, sent := 0 }) ∧
    (bitsOf 16 c.dirty = [] → s.writeBack n p = (s, true)) ∧
    (c.held = true → s.evictCopy n p = (s, false)) ∧
    (o.home ≠ 3 → c.held = false → (s.evictCopy n p).2 = true ∧
      (((s.evictCopy n p).1.stand n).tiers.page p).copy = none) ∧
    (o.home = 3 → bitsOf 16 c.dirty ≠ [] → ((s.stand n).tiers.page p).traffic = .done false →
      (s.writeBack n p).2 = false ∧
      (((s.writeBack n p).1.stand n).tiers.page p).copy = some { c with held := true, sent := 0 })) ∧
  (
∀ (s : State) (n p k : Nat) (o : TierObject) (f : Frame), s.pageObject n p = some (k, o) →
    (∀ b, o.home = 0 ∨ 1 < o.hint ∨ (o.home = 1 ∧ o.hint = 1) ∨ ((s.stand n).tiers.page p).copy.isSome ∨
        ((s.stand n).tiers.page p).lost = true ∨ ((s.stand n).tiers.page p).moving = true ∨ 64 ≤ (s.stand n).tiers.moves →
      exec (.promotion n p b) s = .next s.deliver) ∧
    (∀ b, (o.home = 1 ∧ o.hint = 0) ∨ (o.home = 2 ∧ o.hint ≤ 1) → ((s.stand n).tiers.page p).copy = none →
      ((s.stand n).tiers.page p).lost = false → ((s.stand n).tiers.page p).moving = false →
      (s.stand n).tiers.moves < 64 → s.freeCopyFrame n o (p - o.base / pageSize) = some f →
      exec (.promotion n p b) s = .next ((s.updPage n p (fun e => { e with move := .promoting f })).updPage n p
        (fun e => { e with traffic := .none })).deliver) ∧
    (s.freeCopyFrame n o (p - o.base / pageSize) = none → exec (.promotion n p true) s = .next s.deliver) ∧
    (((s.stand n).tiers.page p).move = .promoting f → o.home ≠ 3 →
      (∀ q ∈ (s.stand n).tiers.pages, q.1 ≠ p → ∀ c, q.2.copy = some c → c.frame ≠ f) →
      exec (.pageMoveDone n p) s = .next (s.withFabric n (fun _ => s.installCopy n p o f))) ∧
    (((s.stand n).tiers.page p).move = .evicting → (s.evictCopy n p).2 = true →
      exec (.pageMoveDone n p) s = .next (s.withFabric n (fun _ => (s.evictCopy n p).1)))) ∧
  (
∀ (s : State) (n p : Nat), NextWith (exec (.ageSweep n) s) (fun t =>
    (t.stand n).tiers.page p = { (s.stand n).tiers.page p with
      copy := ((s.stand n).tiers.page p).copy.map PageCopy.swept } ∧ t.mem = s.mem ∧ t.regs = s.regs)) ∧
  (
∀ (s : State) (n p u k chan frame : Nat) (o : TierObject), s.pageObject n p = some (k, o) →
    (∀ c h, ((s.stand n).tiers.page p).copy = some c → s.unitChannel n o p u (some c.frame) = (chan, frame) →
      exec (.memoryUncorrectable n p u (.copy h)) s =
        .next (((s.channelCounted chan).copyError n p u o c h).channelError n chan frame)) ∧
    (o.home ≠ 3 → s.unitChannel n o p u none = (chan, frame) →
      exec (.memoryUncorrectable n p u .home) s = .next ((if ((s.stand n).tiers.page p).copy.isSome then
        s.channelCounted chan else (s.channelCounted chan).losePage n p o.home).channelError n chan frame)) ∧
    (o.home = 3 → exec (.memoryUncorrectable n p u .home) s = .next s))

/-! The scheduler (08_serving_scheduler.md) -/

/-- R169, R170, R180: intake of a stand that runs takes the entry at the front of its queues: a NEW that passes its
checks is queued, any other gets a final entry with its status and is recorded; a CANCEL ends an active request
between steps, marks it in a step, and answers 3 or 4 for one that is not active. HEAD passes the entry. While REQ_MAX
requests are active the entry stays. Table 8.3, R169: a NEW entry is refused DUPLICATE before anything else, then
INVALID for a reserved bit, a sampler field, a length or its model, then for its customer; its checks need nothing
else. -/
def Obligations.Intake : Prop :=
  (
∀ (s : State) (n q : Nat) (e : List Byte), (s.stand n).cond = .running → (s.stand n).life.stage = .steady →
    (s.stand n).stopped = false → s.intakeNext n = some (q, e) →
    ((s.stand n).requests.length < (s.stand n).cfg.reqMax → le e 0 1 ≠ 2 →
      (s.refusal n .host e = 0 → exec (.sqNew n) s = .next ((s.queueRequest n (requestOf e)).sqAdvance n q)) ∧
      (s.refusal n .host e ≠ 0 → ∀ k, k = (if s.flag Fld.SCH_CQ_BASE_ENABLE n (requestOf e).cq then (requestOf e).cq
          else s.fld Fld.SCH_SQ_BASE_DEFAULT_CQ n q) →
        exec (.sqNew n) s = .next (((s.cqEntry n k { s.about n (requestOf e).id (requestOf e).seq (s.refusal n .host e) with
          final := true }).flagSch Fld.SCH_ERROR_REQUEST_INVALID n (requestOf e).seq q (s.refusal n .host e)).sqAdvance
            n q))) ∧
    ((s.stand n).requests.length < (s.stand n).cfg.reqMax → le e 0 1 = 2 →
      (∀ r, (s.stand n).requests.find? (·.id == le e 8 8) = some r → (s.stand n).step = none →
        exec (.sqCancel n) s = .next ((s.endCancelled n r).sqAdvance n q)) ∧
      ((s.stand n).requests.any (·.id == le e 8 8) = true → (s.stand n).step.isSome = true →
        exec (.sqCancel n) s = .next ((s.updStand n (fun st => { st with requests := st.requests.map (fun x =>
          if x.id = le e 8 8 then { x with cancel := true } else x) })).sqAdvance n q)) ∧
      ((s.stand n).requests.any (·.id == le e 8 8) = false → s.cancelArrival n (le e 8 8) = none →
        exec (.sqCancel n) s = .next ((s.cqEntry n (s.fld Fld.SCH_SQ_BASE_DEFAULT_CQ n q)
          { s.about n (le e 8 8) 0 (if (s.stand n).done.any (·.id == le e 8 8) then 3 else 4) with
            cancelReply := true }).sqAdvance n q))) ∧
    ((s.stand n).cfg.reqMax ≤ (s.stand n).requests.length → le e 0 1 ≠ 2 →
      exec (.sqNew n) s = .next (s.flagSch Fld.SCH_ERROR_INTAKE_PAUSED n 0 q 0))) ∧
  (
∀ (s : State) (n : Nat) (e : List Byte) (o : Origin),
    ((s.stand n).requests.any (·.id == (requestOf e).id) = true → s.refusal n o e = 5) ∧
    ((s.stand n).requests.any (·.id == (requestOf e).id) = false → (s.stand n).done.any (·.id == (requestOf e).id) = false →
      (entryClean e = false ∨ samplerOk e = false ∨ lengthsOk e = false ∨
        (s.stand n).cfg.models.get? (requestOf e).model = none → s.refusal n o e = 7) ∧
      (s.refusal n o e = 0 → s.customerOn n (requestOf e).customer = true ∧ entryClean e = true ∧ samplerOk e = true ∧
        lengthsOk e = true ∧ s.roleTakes n o (requestOf e) = true)) ∧
    (lengthsOk e = true → 1 ≤ le e 32 4 ∧ le e 32 4 + le e 36 4 ≤ le e 96 4))

/-- R171, R180, R182: a step is composed at a boundary alone; one whose turn offers rows starts, one that none offers
admits alone. A step commits once its END has completed or it was abandoned. In a verify step the drafts that equal
the tokens drawn are accepted up to the first that differs, whose token ends the run. R180, R185: an expired done
record leaves, and no more than 131,072 are kept; a millisecond's activity adds its energy, in whole microjoules, to
ENERGY_UJ of the stand and carries the rest. -/
def Obligations.Steps : Prop :=
  (
(∀ (s : State) (n : Nat), s.atBoundary n = false → exec (.stepCompose n) s = .next s) ∧
  (∀ (s u : State) (n : Nat), s.atBoundary n = true → s.chooseStep n (s.stand n).turns = (u, none) →
    exec (.stepCompose n) s = .next (u.admitOnly n (u.stand n).turns)) ∧
  (∀ (s u : State) (n run : Nat) (t : Turn) (mode : StepMode) (c : Composing), s.atBoundary n = true →
    s.chooseStep n (s.stand n).turns = (u, some (t, mode, run, c)) → c.held = [] → u.manifestOk n t.model = true →
    exec (.stepCompose n) s = .next (u.startStep n t mode run c).deliver) ∧
  (∀ (s : State) (n : Nat) (st : Step), (s.stand n).step = some st →
    (st.ended = true ∨ st.abandoned.isSome = true → exec (.commitPhase n) s = .next (s.commit n st).deliver) ∧
    (st.ended = false → st.abandoned = none → exec (.commitPhase n) s = .next s)) ∧
  (∀ (ts ds : List Nat) (k : Nat), (∀ j < k, ts[j]? = ds[j]? ∧ ts[j]?.isSome = true) → ts[k]? = none ∨ ts[k]? ≠ ds[k]? →
    acceptDrafts ts ds = (ts.take (k + 1)).zipIdx.map (fun e => (e.1, decide (e.2 < k)))) ∧
  ∀ (step model segments budget : Nat) (rs : List Request) (rows : List Row), rows.length ≤ budget →
    (manifestBytes step model rs rows segments).length ≤ manifestSize budget) ∧
  (
(∀ (s : State) (n id : Nat), NextWith (exec (.doneRecordExpiry n id) s) (fun t =>
    (t.stand n).done = (s.stand n).done.filter (·.id != id) ∧ (t.stand n).requests = (s.stand n).requests)) ∧
  (∀ (s : State) (n id status : Nat), (s.stand n).done.length ≤ 131072 →
    ((s.keepDone n id status).stand n).done.length ≤ 131072) ∧
  (∀ (s u : State) (n pj : Nat), s.standValid n = true → u = s.account n 8 (1000 * (s.groves n).length) →
    pj = (activityCounters.zipIdx.map (fun e => (u.fld Fld.SCH_ACCT_COUNT n e.1 + 2 ^ 64 -
      ((s.stand n).activity.get? e.1).getD 0) % 2 ^ 64 * energyCoef e.2)).foldl (· + ·) 0 + (s.stand n).energyRest →
    NextWith (exec (.energyTick n) s) (fun t =>
      t.fld Fld.SCH_ACCT_COUNT n 7 = (u.fld Fld.SCH_ACCT_COUNT n 7 + pj / 256000000) % 2 ^ 64 ∧
      (t.stand n).energyRest = pj % 256000000 ∧
      ∀ i ∈ activityCounters, (t.stand n).activity.get? i = some (u.fld Fld.SCH_ACCT_COUNT n i))) ∧
  ∀ (s : State) (n : Nat), s.standValid n = false → exec (.energyTick n) s = .next s)

/-! Sapway (09_state_movement.md) -/

/-- R218, Table 9.7: a command of the stand's Sapway ring is taken when none on its sequence is in progress and a
bundle has room: it completes with its result, at once or later, and the bit of SWY_ERROR that the result names is
set. R207, R209: what SUSPEND and RESUME check first: a sequence that is not VALID, a TTL or a target out of range is
BAD_COMMAND, one that a request uses is BUSY, a poisoned one is STATE_LOST; RESUME needs a sequence that is not VALID,
a bundle that is there and has not expired, whose header is whole, whose model the stand has and whose geometry it is.
-/
def Obligations.SwyRing : Prop :=
  (
(∀ (s : State) (n : Nat) (back : HostRead) (got : Fetched) (status : Nat), s.swyHeld n = true →
    ∀ c ∈ [Instr.swySuspend n back, .swyResume n got, .swyDiscard n status, .swyHold n, .canopyInsert n, .canopyDrop n,
      .jobRegions n], exec c s = .next s) ∧
  ∀ (s u : State) (n i op bid : Nat) (e : List Byte) (c : Instr) (back : HostRead) (got : Fetched) (status : Nat)
    (r : State × Option Nat), s.swyHeld n = false → s.runFront .swy n = some (i, e) → u = s.runTake .swy n i →
    le e 0 1 = op →
    (c, op, bid, r) ∈ [(Instr.swySuspend n back, 1, 0, u.suspend n back e i),
      (.swyResume n got, 2, le e 24 8, (u.resume n got e).1, some (u.resume n got e).2),
      (.swyDiscard n status, 3, 0, if le e 12 4 ≠ noMember then
          (u, some (if status = 0 ∧ (u.members.get? (le e 12 4)).any (fun m => m.state == 0 && u.connReady n m.conn) then 0
            else 0x1A))
        else if ((u.stand n).sapway.store.get? (le e 24 8)).isSome then (u.freeBundle n (le e 24 8), some 0)
        else (u, some 0x1A)),
      (.swyHold n, 4, 0, u.holdPages n e i),
      (.canopyInsert n, 5, 0, (u.canopyInsert n (le e 4 4)).1, some (u.canopyInsert n (le e 4 4)).2),
      (.canopyDrop n, 6, 0, if ∀ x ∈ (u.stand n).canopy, x.2.anchor ≠ le e 4 4 then (u, some 0x1A)
        else if (u.dropAnchor n (le e 4 4)).2 then ((u.dropAnchor n (le e 4 4)).1, some 0)
        else (u.updSapway n (fun w => { w with drops := w.drops ++ [(i, le e 4 4)] }), none)),
      (.jobRegions n, 7, 0, if (u.jobKey n (le e 8 4)).isNone then (u, some 0x15)
        else if le e 16 6 % 8 ≠ 0 ∨ u.writableRange n (le e 16 6) 64 = false then (u, some 0x10)
        else (u.standWrite n (le e 16 6) (toBytes 8 (u.inboxOf n (le e 8 4)).1 ++ toBytes 4 (u.inboxOf n (le e 8 4)).2.1 ++
          toBytes 4 (u.inboxOf n (le e 8 4)).2.2 ++ toBytes 8 (u.stagingOf n (le e 8 4)).1 ++
          toBytes 4 (u.stagingOf n (le e 8 4)).2.1 ++ toBytes 4 ((u.stagingOf n (le e 8 4)).2.2 / 65536)), some 0))] →
    (∀ x, r.2 = some x →
      exec c s = .next (((r.1.flagResult n bid x).runDone .swy n i x).kvSettle n).deliver) ∧
    (r.2 = none → exec c s = .next (r.1.kvSettle n).deliver)) ∧
  (
∀ (s : State) (n i : Nat) (e : List Byte) (p : Pool) (back : HostRead) (got : Fetched), s.kvActive n = some p →
    (le e 8 4 = 0 ∨ 2592000 < le e 8 4 ∨ 2 < le e 12 4 ∨ s.seqValid n p (le e 4 4) = false →
      s.suspend n back e i = (s, some 0x10)) ∧
    (0 < le e 8 4 → le e 8 4 ≤ 2592000 → le e 12 4 ≤ 2 → s.seqValid n p (le e 4 4) = true →
      ((s.stand n).requests.any (·.seq == le e 4 4) = true → s.suspend n back e i = (s, some 0x18)) ∧
      ((s.stand n).requests.any (·.seq == le e 4 4) = false → s.seqPoisoned n p (le e 4 4) = true →
        s.suspend n back e i = (s, some 0x19))) ∧
    (p.seqMax ≤ le e 4 4 ∨ s.seqValid n p (le e 4 4) = true → s.resume n got e = (s, 0x10)) ∧
    (le e 4 4 < p.seqMax → s.seqValid n p (le e 4 4) = false → le e 12 4 = noMember →
      ((s.stand n).sapway.store.get? (le e 24 8) = none → s.resume n got e = (s, 0x1A)) ∧
      (∀ d, (s.stand n).sapway.store.get? (le e 24 8) = some d → d.expires ≤ s.nowS → s.resume n got e = (s, 0x1B)) ∧
      (∀ d, (s.stand n).sapway.store.get? (le e 24 8) = some d → s.nowS < d.expires →
        headerOk (s.storedBundle n d) = false ∨ (BundleHeader.ofBytes (s.storedBundle n d)).bundle ≠ le e 24 8 →
        s.resume n got e = (s.eventOf n 0x3009 32 [le e 24 8, 1], 0x1D))))

/-- R196, R195, R218: the commands of the package ring, each with its result written in the host's entry: an epoch is
set where its number is above every epoch of its key and fewer than four are held, and becomes the ACTIVE one; a
member of the table takes a state; a deleted key's epochs drain. -/
def Obligations.PackageRing : Prop :=
  (∀ (s : State) (h a op : Nat) (cmd : List Byte) (key : HostRead) (content : CompContent) (c : Instr) (r : State × Nat),
    h = s.fld Fld.SWYP_CMD_HEAD_INDEX % 2 ^ s.fld Fld.SWYP_CMD_RING_SIZE_LOG2 →
    a = s.fld Fld.SWYP_CMD_RING_ADDR + 32 * h → h ≠ s.fld Fld.SWYP_CMD_TAIL_INDEX % 2 ^ s.fld Fld.SWYP_CMD_RING_SIZE_LOG2 →
    s.hostReach .pf = true → le cmd 0 1 = op →
    (c, op, r) ∈ [(Instr.mapSet cmd key content, 1, match keyRecord cmd key with
        | none => (s, 0x10)
        | some b => (s.takeContent content).mapSet (keyOf b).1 (keyOf b).2.1 (keyOf b).2.2 (le b 8 4) (le cmd 8 4)),
      (.memberState cmd content, 2, match (s.takeContent content).members.get? (le cmd 8 4) with
        | none => (s.takeContent content, 0x10)
        | some m => if 2 < le cmd 12 4 then (s.takeContent content, 0x10)
          else ({ s.takeContent content with
            members := (s.takeContent content).members.set (le cmd 8 4) { m with state := le cmd 12 4 } }, 0)),
      (.mapDelete cmd .error, 3, s, 0x10)] →
    exec c s = .next (((r.1.hostWrite .pf (a + 1) [BitVec.ofNat 8 r.2]).setFld Fld.SWYP_CMD_HEAD_INDEX 0 0
      ((h + 1) % 2 ^ s.fld Fld.SWYP_CMD_RING_SIZE_LOG2)).retireEpochs).deliver) ∧
  (∀ (s : State) (cls model tenant num record : Nat) (c : Composition), s.composition tenant model cls = some c →
    ((∃ e ∈ c.epochs, num ≤ e.num) → s.mapSet cls model tenant num record = (s, 0x10)) ∧
    ((∀ e ∈ c.epochs, e.num < num) → 3 < c.epochs.length → s.mapSet cls model tenant num record = (s, 0x20))) ∧
  ∀ (s t : State) (h a : Nat) (cmd b : List Byte) (c : Composition) (q : Nat × Nat × Nat),
    h = s.fld Fld.SWYP_CMD_HEAD_INDEX % 2 ^ s.fld Fld.SWYP_CMD_RING_SIZE_LOG2 →
    a = s.fld Fld.SWYP_CMD_RING_ADDR + 32 * h → h ≠ s.fld Fld.SWYP_CMD_TAIL_INDEX % 2 ^ s.fld Fld.SWYP_CMD_RING_SIZE_LOG2 →
    s.hostReach .pf = true → le cmd 0 1 = 3 → le cmd 16 6 % 8 = 0 → q = keyOf b →
    s.composition q.2.2 q.2.1 q.1 = some c → (∃ e ∈ c.epochs, e.active = true) → c.epochs.length ≤ 3 →
    t = ((s.tableDelete (compTable 0) (compKey q.2.2 q.2.1 q.1) (2 ^ 40 - 1)).1.tableDelete (compTable 1)
      (compKey q.2.2 q.2.1 q.1) (2 ^ 40 - 1)).1 →
    exec (.mapDelete cmd (.data b)) s = .next ((((t.setComposition { c with epochs := c.epochs.map (fun e =>
      { e with active := false }) }).hostWrite .pf (a + 1) [0]).setFld Fld.SWYP_CMD_HEAD_INDEX 0 0
        ((h + 1) % 2 ^ s.fld Fld.SWYP_CMD_RING_SIZE_LOG2)).retireEpochs).deliver

/-- Table 9.4, R204, R205, R208: a message whose CRC holds is handled once: an OFFER is taken, and an answer acts on
the move whose present attempt it answers, or on nothing; a timer that passes fails its attempt, discards a partial
bundle and reports it, or frees what reached its end. -/
def Obligations.SwyMessages : Prop :=
  (∀ (s u : State) (n type k : Nat) (m : List Byte) (c : Instr) (t : State), (s.cleanMail n).mailOf n type = some (k, m) →
    u = (s.cleanMail n).dropMail n (k, m) →
    (c, type, t) ∈ [(Instr.swyOffer n, 1, u.takeOffer n k m), (.swyAbort n, 6, u.takeAbort n k (le m 8 8) (le m 2 1)),
      (.swyAccept n, 2, match u.answered n k (le m 8 8) m with
        | some b => u.takeAccept n b m
        | none => u),
      (.swyRefuse n, 3, match u.answered n k (le m 8 8) m with
        | some b => u.failAttempt n b (le m 2 1)
        | none => u),
      (.swyDone n, 4, match u.arrival n k (le m 8 8) with
        | some a => if (u.takeDone n a m).2 then (u.takeDone n a m).1 else s.cleanMail n
        | none => u),
      (.swyCommitted n, 5, match u.answered n k (le m 8 8) m with
        | some b => if b.phase = .done then u.takeCommitted n b m else u
        | none => u)] →
    exec c s = .next (t.kvSettle n).deliver) ∧
  (∀ (s : State) (n bid : Nat) (b : Sending), s.sending n bid = some b →
    (b.conn.isSome = true → b.phase ≠ .accepted →
      exec (.handoffTimeout n bid) s = .next ((s.failAttempt n b 0x23).kvSettle n).deliver) ∧
    (b.conn = none ∨ b.phase = .accepted → exec (.handoffTimeout n bid) s = .next s)) ∧
  (∀ (s : State) (n conn bid : Nat) (a : Arrival) (h : BundleHeader), s.arrival n conn bid = some a →
    h = BundleHeader.ofBytes a.words →
    exec (.receiverTimeout n conn bid) s = .next (((((s.endArrival n a true).flagSwy Fld.SWY_ERROR_STATE_LOST n bid).swyEvent
      n 6 h.request bid h.epoch (a.seq.getD 0)).acceptMore n).kvSettle n).deliver) ∧
  (∀ (s : State) (n id : Nat), ((s.stand n).sapway.store.get? id).isSome = true →
    exec (.bundleExpiry n false id) s = .next ((s.freeBundle n id).swyEvent n 4 0 id 0 0) ∧
    ((s.freeBundle n id).stand n).sapway.store.get? id = none) ∧
  ∀ (s : State) (n id : Nat), ((s.stand n).sapway.holds.get? id).isSome = true →
    exec (.bundleExpiry n true id) s = .next (((s.updSapway n (fun w => { w with holds := w.holds.del id })).releaseSeq n
      id).swyEvent n 4 0 0 0 id)

/-! The transport (10_fabric_transport.md) -/

/-- R225, Table 10.3: the header that a packet is sent with parses to itself, whatever follows it: no field and no bit
of it is lost. -/
def Obligations.PacketHeaders : Prop :=
  ∀ (h : Header) (text : List Byte), h.version < 16 → h.type < 16 → h.attempt < 16 → h.dstConn < 2 ^ 16 →
    h.dstInc < 2 ^ 11 → h.srcConn < 2 ^ 16 → h.srcInc < 2 ^ 11 → h.keyId < 2 ^ 16 → h.psn < 2 ^ 32 → h.region < 2 ^ 64 →
    h.gen < 2 ^ 16 → h.offset < 2 ^ 48 → h.len < 2 ^ 16 → h.status < 2 ^ 8 → h.request < 2 ^ 32 → h.clean = true →
    h.bytes.length = 40 ∧ Header.parse (h.bytes ++ text) = h

/-- R221, R222, R233, R269, R285: a port whose link comes up takes its configured mode and sends what its connections
held back; a link that goes down empties its queues, is recorded, and what left on it goes out again; a pause holds
the classes that take pauses; a free port sends the head frame of the highest eligible class, and a port whose link is
down or busy, or that has no eligible class, sends nothing. -/
def Obligations.PortLinks : Prop :=
  (∀ (s : State) (p : Nat), s.phase = .running → p < 16 → s.flag Fld.FAB_PORT_CTRL_ENABLE p = true →
    s.flag Fld.FAB_PORT_STATUS_LINK_UP p = false → s.conns = [] →
    NextWith (exec (.portLinkUp p) s) (fun t => t.flag Fld.FAB_PORT_STATUS_LINK_UP p = true ∧
      t.fld Fld.FAB_PORT_STATUS_MODE p = s.fld Fld.FAB_PORT_CTRL_MODE p ∧ t.mem = s.mem ∧ t.stands = s.stands)) ∧
  (∀ (s u : State) (p : Nat) (mine : List (Nat × Conn)), p < 16 → s.flag Fld.FAB_PORT_STATUS_LINK_UP p = true →
    u = ((((s.portTick p).setFld Fld.FAB_PORT_STATUS_LINK_UP p 0 0).setFld Fld.FAB_PORT_STATUS_FEC_LOCK p 0 0).setFld
      Fld.FAB_PORT_STATUS_DOWN_EVENT p 0 1).updPort p (fun q => { q with queues := [], sending := none }) →
    mine = (u.event ⟨0x0401, none, 6 + p / 8, 33, [p * 2 ^ 8]⟩).conns.filter (fun e => (connPorts e.1 e.2).contains p) →
    exec (.portLinkDown p) s = .next (mine.foldl (fun s e =>
      s.retransmit e.1 ((e.2.out.filter (·.port == some p)).map (·.psn)))
        ((u.event ⟨0x0401, none, 6 + p / 8, 33, [p * 2 ^ 8]⟩).sharedFault (distinct (mine.map (·.2.stand))) (6 + p / 8) 33 0
          p)).deliver) ∧
  (∀ (s : State) (p enable c : Nat) (quanta : List Nat), p < 16 → s.flag Fld.FAB_PORT_STATUS_LINK_UP p = true → c < 8 →
    NextWith (exec (.priorityFlowControlFrame p enable quanta) s) (fun t =>
      (t.port p).paused.get? c = if enable.testBit c ∧ (s.fld Fld.FAB_PORT_CTRL_PFC_CLASSES p).testBit c
        then some (s.timeNs + ceilDiv (quanta.getD c 0 % 2 ^ 16 * 512) (s.portRate p)) else (s.port p).paused.get? c)) ∧
  (∀ (s : State) (p : Nat), p < 16 → s.flag Fld.FAB_PORT_STATUS_LINK_UP p = false ∨ s.timeNs < (s.port p).freeAt ∨
    (∀ c < 8, (s.portTick p).classEligible p c = false) → exec (.frameTransmit p) s = .next (s.portTick p)) ∧
  (∀ (s : State) (p c : Nat) (x : Queued) (rest : List Queued), p < 16 → s.flag Fld.FAB_PORT_STATUS_LINK_UP p = true →
    (s.port p).freeAt ≤ s.timeNs → c < 8 → (s.portTick p).classEligible p c = true →
    (∀ k < 8, c < k → (s.portTick p).classEligible p k = false) → (s.port p).queue c = x :: rest →
    NextWith (exec (.frameTransmit p) s) (fun t => (t.port p).queue c = rest ∧ (t.port p).sent = some x.frame ∧
      (t.port p).freeAt = s.timeNs + ceilDiv (wireBits x.frame) (s.portRate p) ∧
      ∀ k < 8, k ≠ c → (t.port p).queue k = (s.port p).queue k)) ∧
  (∀ (s u : State) (p : Nat) (f : FabFrame), p < 16 → s.flag Fld.FAB_PORT_STATUS_LINK_UP p = true →
    s.isRamuha (p / 8) f = false → u = s.addFld Fld.FAB_PORT_RX_FRAMES_COUNT p 0 1 → u.isRamuha (p / 8) f = false →
    exec (.frameUnclassified p f) s = .next (if u.macAccepts p f then u.classify p f else u.rxDrop p)) ∧
  ∀ (s : State) (p : Nat) (f : FabFrame), s.flag Fld.FAB_PORT_STATUS_LINK_UP p = false →
    exec (.frameUnclassified p f) s = .next s ∧ exec (.portLinkDown p) s = .next s

/-- R227, R228, R238, R239, R246: the commands of the fabric ring: OPEN makes a connection BOUND under the next
incarnation of its number, CONNECT opens it, CLOSE frees it or leaves it CLOSING while packets are outstanding,
REGISTER makes a region, REVOKE begins to revoke one; a command whose key or descriptor is not right is refused with
its bit of FAB_ERROR. -/
def Obligations.FabricRing : Prop :=
  ∀ (s u : State) (n i op k a : Nat) (e : List Byte), s.runFront .fab n = some (i, e) → u = s.runTake .fab n i →
    le e 0 1 = op → k = le e 4 4 % 2 ^ 17 → a = le e 16 6 →
    (∀ (v : State) (b : List Byte) (c : Conn) (q inc first : Nat), op = 1 → (u.noted n a 32).descriptor n a 32 = some b →
      v = (u.noted n a 32).noted n (le b 16 6) (32 * bits (le b 0 8) 30 4) → v.descriptor n a 32 = some b →
      v.readConn n b = some (q, c) →
      (c.keyId ≠ 0 → (v.jobKey n c.keyId).isSome = true → v.nextInc q c.keyId = some (inc, first) →
        ∀ w, w = { v with
            conns := v.conns.set q { c with inc := inc }, connPast := v.connPast.set q ⟨inc, c.keyId, first⟩ } →
        exec (.fabOpen n) s =
          .next ((w.pokeLe n (a + 24) 8 (setBits (le b 24 8) 0 11 inc)).runDone .fab n i 0).deliver) ∧
      (c.keyId ≠ 0 → (v.jobKey n c.keyId).isSome = true → v.nextInc q c.keyId = none →
        exec (.fabOpen n) s = .next ((v.fabRefuse n q 1 0x16).1.runDone .fab n i 0x16).deliver)) ∧
    (∀ c, op = 2 → u.conn k = some c → c.stand = n → c.state = .bound → exec (.fabConnect n) s = .next ((u.updConn k (fun c =>
      { c with state := .open_, peerInc := le e 8 8 % 2 ^ 11 })).runDone .fab n i 0).deliver) ∧
    (∀ c, op = 2 → u.conn k = some c → c.stand ≠ n ∨ c.state ≠ .bound →
      exec (.fabConnect n) s = .next ((u.fabRefuse n k 2 0x10).1.runDone .fab n i 0x10).deliver) ∧
    (∀ c, op = 3 → u.conn k = some c → c.stand = n → c.state = .open_ → c.out = [] → exec (.fabClose n) s =
      .next ((((u.outcomes (c.waiting.flatMap (FabOp.failed 9))).freeConn k).runDone .fab n i 0).deliver)) ∧
    (∀ c, op = 3 → u.conn k = some c → c.stand = n → c.state = .open_ → c.out ≠ [] → exec (.fabClose n) s =
      .next (((u.updConn k (fun c => { c with state := .closing, waiting := [], closer := some i })).outcomes
        (c.waiting.flatMap (FabOp.failed 9))).deliver)) ∧
    (∀ (die key idx : Nat) (r : Region) (v w : State) (b : List Byte), op = 4 → v = u.noted n a 32 →
      v.descriptor n a 32 = some b → v.readRegion n b = some (die, false, key, r) → (v.jobKey n r.keyId).isSome = true →
      v.register n die r = (w, some idx) → exec (.fabRegister n) s = .next ((((w.pokeLe n (a + 20) 2
        (((w.regions.get? idx).map (·.gen)).getD 0)).pokeLe n (a + 24) 8 (w.regionKey idx)).runDone .fab n i 0).deliver)) ∧
    (∀ idx, op = 5 → u.activeRegion n (le e 8 8) = some idx →
      exec (.fabRevoke n) s = .next (u.revoke idx (some i)).deliver) ∧
    (op = 5 → u.activeRegion n (le e 8 8) = none →
      exec (.fabRevoke n) s = .next ((u.fabRefuse n 0 5 0x10).1.runDone .fab n i 0x10).deliver) ∧
    ∀ idx, exec (.revokeDrainEnd idx) s = .next (s.endDrain idx)

/-- R229-R232, R237, R254: the first waiting operation of an OPEN connection takes the next PSN while the window has
room; what is owed is acknowledged when the delay ends; an ACK ends the PSNs that it names; the timer sends every
outstanding packet again and doubles up to 2,048; a coalescing wait ends by sending its pack. A PSN is accepted once:
after it, every PSN below E counts as accepted. -/
def Obligations.Sending : Prop :=
  (∀ (s : State) (k : Nat) (c : Conn) (op : FabOp) (rest : List FabOp), s.conn k = some c →
    c.waiting = op :: rest →
    (c.state ≠ .open_ ∨ c.u + c.window ≤ c.nextPsn → s.sendNext k = s) ∧
    (exec (.packetSend k) s = .next (s.sendNext k).deliver) ∧
    (c.state = .open_ → c.nextPsn < c.u + c.window → 2 ^ 48 ≤ c.nextPsn → exec (.packetSend k) s =
      .next (((s.updConn k (fun c => { c with waiting := rest })).flagFab Fld.FAB_ERROR_REKEY_NEEDED c.stand k 0
        c.nextPsn).outcomes (op.failed 0x16)).deliver) ∧
    (c.state = .open_ → c.nextPsn < c.u + c.window → c.nextPsn < 2 ^ 48 → ∃ d, (s.sendNext k).conns.get? k = some d ∧
      d.nextPsn = c.nextPsn + 1 ∧ d.waiting = rest ∧ d.out.map (·.psn) = c.out.map (·.psn) ++ [c.nextPsn] ∧
      d.timer = some (c.timer.getD c.rto))) ∧
  (∀ (s : State) (k : Nat), exec (.ackDelayExpiry k) s = .next (s.ackNow k [])) ∧
  (∀ (s : State) (k t : Nat) (c : Conn), s.conn k = some c → c.timer = some t → c.state ≠ .closing →
    exec (.retransmitTimeout k) s = .next (((s.retransmit k (sortBy id (c.out.map (·.psn)))).updConn k (fun c =>
      { c with timer := c.timer.map (fun _ => min (2 * t) 2048) })).deliver)) ∧
  (∀ (s : State) (k : Nat) (c : Conn), s.conn k = some c → c.timer = none → exec (.retransmitTimeout k) s = .next s) ∧
  (∀ (s : State) (i : Nat) (p : Pack), s.packs[i]? = some p → exec (.coalesceExpiry i) s = .next (s.sendPack p).deliver) ∧
  (∀ (s : State) (i : Nat), s.packs[i]? = none → exec (.coalesceExpiry i) s = .next s) ∧
  ∀ (c : Conn) (psn status : Nat), c.e ≤ psn → c.accepted.get? psn = none →
    c.e ≤ (c.accept psn status).e ∧ (c.accept psn status).owed = c.owed ++ [(psn, status)] ∧
    ((c.accept psn status).accepted.get? psn = some status ∨ psn + c.window < (c.accept psn status).e)

/-- Table 10.7, R229-R237, R251: a sequenced packet that the port, the encapsulation and the key accept is taken once:
outside the window it is counted; one accepted before is acknowledged again with its status; a new WRITE, READ_REQ,
MEM_REQ, READ_RESP or MEM_RESP has its effect and is accepted with the outcome of its checks. R222, R231, Table 10.7:
an ACK's entries are applied in order, and a packet that its port, its connection or its key does not accept is
counted and has no other effect. -/
def Obligations.Receiving : Prop :=
  (
∀ (s u : State) (p k psn type : Nat) (f : FabFrame) (c : Conn) (hd : Header) (text : List Byte) (row : Instr),
    (row, type) ∈ [(Instr.pktWrite p f, 1), (.pktReadReq p f, 2), (.pktReadResp p f, 3), (.pktMemReq p f, 5),
      (.pktMemResp p f, 6)] →
    s.receive p type f = (u, some (k, c, hd, text)) → psn = nearest c.e hd.psn →
    (psn + c.window < c.e ∨ c.e + c.window ≤ psn →
      exec row s = .next (u.addFld Fld.FAB_OUT_OF_WINDOW_COUNT (p / 8) 0 1).deliver) ∧
    (c.e ≤ psn + c.window → psn < c.e + c.window →
      (∀ st, c.accepted.get? psn = some st →
        exec row s = .next ((u.addFld Fld.FAB_DUPLICATES_COUNT c.stand 0 1).ackNow k [(psn, st)]).deliver) ∧
      (c.accepted.get? psn = none → psn < c.e →
        exec row s = .next ((u.addFld Fld.FAB_DUPLICATES_COUNT c.stand 0 1).ackNow k [(psn, 0)]).deliver) ∧
      (c.accepted.get? psn = none → c.e ≤ psn → ∀ st : Nat,
        (type = 1 → text ≠ [] →
          st = u.regionCheck (k / 65536) c.stand c.keyId hd.region hd.gen hd.offset text.length false true false →
          (st ≠ 0 → exec row s = .next (u.acceptPsn k psn st).deliver) ∧
          (st = 0 → ∀ (r : Region) (idx : Nat), idx = 1048576 * (k / 65536) + hd.region % 2 ^ 20 →
            u.regions.get? idx = some r → (u.stand c.stand).kv.partialRegion ≠ some idx →
            exec row s = .next ((((u.putBytes c.stand (r.base + hd.offset) text).wrote k c idx hd.offset text).acceptPsn k psn
              0).deliver))) ∧
        (type = 2 → 0 < hd.request → hd.request ≤ 1048576 →
          st = u.regionCheck (k / 65536) c.stand c.keyId hd.region hd.gen hd.offset hd.request true false false →
          (st ≠ 0 → exec row s = .next (u.acceptPsn k psn st).deliver) ∧
          (st = 0 → exec row s = .next ((((List.range (ceilDiv hd.request c.limit)).foldl (fun s j => s.fabIssue k (.readResp
            psn (c.limit * j) (1048576 * (k / 65536) + hd.region % 2 ^ 20) (hd.offset + c.limit * j)
              (min c.limit (hd.request - c.limit * j)))) u).acceptPsn k psn 0).deliver))) ∧
        (type = 3 → ∀ r, c.reads.find? (fun r => r.psn % 2 ^ 32 == hd.region / 2 ^ 32) = some r →
          exec row s = .next ((u.takeReadResp k c r hd.status hd.offset text).acceptPsn k psn 0).deliver) ∧
        (type = 5 → ∀ (o : MemOp) (base : Nat), parseOps 32 text = some [o] → o.arrive = false →
          u.memCheck (k / 65536) c.stand c.keyId hd.region hd.gen [o] = 0 →
          base = ((u.regions.get? (1048576 * (k / 65536) + hd.region % 2 ^ 20)).map (·.base)).getD 0 →
          ∀ v, v = u.applyMem c.stand (base + o.off) o →
          exec row s = .next (((if o.opc = 1 then v.1 else v.1.fabIssue k (.memResp psn (memResult v.2.1 v.2.2.1
            v.2.2.2))).acceptPsn k psn 0).deliver)) ∧
        (type = 6 → ∀ a, c.asked.find? (fun a => a.1 % 2 ^ 32 == hd.region / 2 ^ 32) = some a →
          exec row s = .next ((((u.updConn k (fun c => { c with asked := c.asked.del a.1 })).outcomes (respDone a.2
            text)).acceptPsn k psn 0).deliver))))) ∧
  (
(∀ (s u : State) (p k : Nat) (f : FabFrame) (c : Conn) (hd : Header) (text : List Byte),
    s.receive p 4 f = (u, some (k, c, hd, text)) → exec (.pktAck p f) s = .next ((List.range (min (be text 0 2) (min 64
      ((text.length - 8) / 8)))).foldl (fun s i => s.applyAck k (be text (8 + 8 * i) 4) (be text (12 + 8 * i) 2)
        (be text (14 + 8 * i) 1)) u).deliver) ∧
  (∀ (s : State) (k first run status : Nat) (c : Conn), s.conn k = some c → c.state = .open_ →
    ∃ d, (s.applyAck k first run status).conns.get? k = some d ∧
      d.out = c.out.filter (fun o => !acked first run o) ∧ d.waiting = c.waiting ∧ d.nextPsn = c.nextPsn) ∧
  ∀ (s : State) (p : Nat) (f : FabFrame) (r : Instr) (type : Nat),
    (r, type) ∈ [(Instr.pktWrite p f, 1), (.pktReadReq p f, 2), (.pktReadResp p f, 3), (.pktAck p f, 4), (.pktMemReq p f, 5),
      (.pktMemResp p f, 6)] → (s.receive p type f).2 = none → s.fabDone = [] →
    NextWith (exec r s) (fun t => t.conns = s.conns ∧ t.mem = s.mem ∧ t.stands = s.stands ∧ t.regions = s.regions))

/-! Fabric memory (11_fabric_memory.md) -/

/-- R248, R256, R259, R261, R266: the commands of a stand's fabric memory queue: a load, a store or an atomic is
issued or refused; a FENCE holds the queue until the operations before it have completed; MAP and UNMAP set and remove
an entry of the remote map; GROUP_CREATE and GROUP_DELETE make and end a barrier group; nothing is taken behind a
FENCE. -/
def Obligations.FabricQueue : Prop :=
  (∀ (s : State) (n : Nat) (c : Instr), (s.stand n).fmm.fence.isSome = true →
    c ∈ [Instr.fmmLoad n, .fmmStore n, .fmmAtomic n, .fmmFence n, .fmmMap n, .fmmUnmap n, .fmmGroupCreate n,
      .fmmGroupDelete n] → exec c s = .next s) ∧
  ∀ (s u v : State) (n i op a : Nat) (e : List Byte), (s.stand n).fmm.fence = none → s.runFront .fmm n = some (i, e) →
    u = s.runTake .fmm n i → le e 0 1 = op → a = le e 16 6 → v = u.noted n a 32 →
    (∀ (c : Instr) (opc : Nat) (r : State × Option Nat), (c, op, opc) ∈ [(Instr.fmmLoad n, 1, 0), (.fmmStore n, 2, 1),
        (.fmmAtomic n, 3, 2)] → r = u.fmmMem n opc e i →
      (∀ x, r.2 = some x → exec c s = .next (r.1.runDone .fmm n i x).deliver) ∧
      (r.2 = none → exec c s = .next r.1.deliver)) ∧
    (op = 4 → exec (.fmmFence n) s =
      .next ((u.updStand n (fun st => { st with fmm := { st.fmm with fence := some i } })).settleQueue n).deliver) ∧
    (∀ x y, op = 5 → (v.descriptor n a 32).bind readRemote = some x →
      (v.stand n).remoteMap.find? (fun y => y.2.base == x.base && y.2.len == x.len) = some y →
      exec (.fmmMap n) s = .next ((v.updStand n (fun st => { st with remoteMap := st.remoteMap.set y.1 x })).runDone .fmm n i
        0).deliver) ∧
    (∀ x, op = 5 → (v.descriptor n a 32).bind readRemote = some x →
      (v.stand n).remoteMap.find? (fun y => y.2.base == x.base && y.2.len == x.len) = none →
      v.fld Fld.FMM_STATUS_MAP_ALLOTTED n ≤ (v.stand n).remoteMap.length →
      exec (.fmmMap n) s = .next (v.runDone .fmm n i 0x12).deliver) ∧
    (∀ x idx w, op = 5 → (v.descriptor n a 32).bind readRemote = some x →
      (v.stand n).remoteMap.find? (fun y => y.2.base == x.base && y.2.len == x.len) = none →
      (v.stand n).remoteMap.length < v.fld Fld.FMM_STATUS_MAP_ALLOTTED n → v.mapHubs n ≠ [] →
      idx = ((v.stand n).remoteMap.firstFree ((v.stand n).remoteMap.length + 1)).getD 0 →
      (v.mapHubs n).foldlM (fun (s : State) h => s.tableInsert (remoteTable h n) (x.search n idx)) v = some w →
      exec (.fmmMap n) s = .next ((((w.updStand n (fun st => { st with remoteMap := st.remoteMap.set idx x })).countMap
        n).runDone .fmm n i 0).deliver)) ∧
    (op = 6 → (u.stand n).remoteMap.find? (fun y => y.2.base == le e 8 8 && y.2.len == le e 16 1 % 128) = none →
      exec (.fmmUnmap n) s = .next ((u.flagMemStatus n (le e 8 8) 0x0A).runDone .fmm n i 0x0A).deliver) ∧
    (∀ y w, op = 6 → (u.stand n).remoteMap.find? (fun y => y.2.base == le e 8 8 && y.2.len == le e 16 1 % 128) = some y →
      w = (u.mapHubs n).foldl (fun s h => (s.tableDelete (remoteTable h n) (y.2.search n y.1).data
        (y.2.search n y.1).mask).1) u →
      exec (.fmmUnmap n) s = .next ((((w.updStand n (fun st => { st with remoteMap := st.remoteMap.del y.1 })).countMap
        n).runDone .fmm n i 0).deliver)) ∧
    (op = 7 → 1024 ≤ (u.groups.filter (fun g => g.1 / 1024 == u.hubOf n)).length →
      exec (.fmmGroupCreate n) s = .next (u.runDone .fmm n i 0x21).deliver) ∧
    (∀ (w x : State) (b : List Byte) (num : Nat) (g : Group), op = 7 →
      (u.groups.filter (fun g => g.1 / 1024 == u.hubOf n)).length < 1024 → w = u.noted n a 64 →
      w.descriptor n a 64 = some b → x = w.noted n (le b 24 6) (8 * bits (le b 0 8) 16 10) → x.descriptor n a 64 = some b →
      x.readGroup n b = some (num, g) → x.groups.get? (1024 * u.hubOf n + num) = none →
      exec (.fmmGroupCreate n) s = .next (((({ x with
        groups := x.groups.set (1024 * u.hubOf n + num) g } : State).countGroups n).runDone .fmm n i 0).deliver)) ∧
    (∀ g, op = 8 → u.groups.get? (1024 * u.hubOf n + le e 16 2 % 1024) = some g → g.stand = n →
      exec (.fmmGroupDelete n) s = .next ((((({ u with
        groups := u.groups.del (1024 * u.hubOf n + le e 16 2 % 1024) } : State).answerAll 7 0 0 g.arrived).countGroups
          n).runDone .fmm n i 0).deliver))

/-- R249, R250: an operation that matches no entry of the remote map completes UNMAPPED; one that the entry does not
permit, or that leaves its span, is REFUSED; one whose connection is not OPEN completes with the reason; a misaligned
or reserved operation is refused before it is issued. Table 11.3: what each atomic leaves. R261-R264: an ARRIVE at no
group's block, or from no member, is answered 5; one for another barrier, or a second one, 6; the last one expected
releases the barrier, and so does its timeout: the sequence number moves on, the arrivals are answered and the group
is empty again. -/
def Obligations.FabricIssue : Prop :=
  (
(∀ (s : State) (h n : Nat) (o : MemOp) (u v : State) (r : Option RemoteEntry),
    u = s.addFld Fld.FMM_OPS_ISSUED_COUNT n 0 1 → u.translate h n o.faddr = (v, r) →
    (r = none → s.issueMem h n o = v.memDone o 0x0A 0 []) ∧
    (∀ e rel, r = some e → rel = o.faddr % 2 ^ (64 - e.len) →
      ((o.opc = 0 ∧ e.read = false) ∨ (o.opc = 1 ∧ e.write = false) ∨ (2 ≤ o.opc ∧ e.atomic = false) ∨
        2 ^ (64 - e.len) < rel + memSize o.size →
        s.issueMem h n o = v.memDone { o with off := e.offset + rel } 3 0 []) ∧
      (e.read = true → e.write = true → e.atomic = true → rel + memSize o.size ≤ 2 ^ (64 - e.len) →
        (e.isLocal = true → s.issueMem h n o = v.localMem n e { o with off := e.offset + rel }) ∧
        (∀ c, e.isLocal = false → v.conn (65536 * e.die + e.conn) = some c → c.stand = n →
          (c.state = .open_ → s.issueMem h n o =
            v.coalesce ⟨n, e.die, e.conn, e.key, e.gen, []⟩ { o with off := e.offset + rel }) ∧
          (c.state = .closing → s.issueMem h n o = v.memDone { o with off := e.offset + rel } 9 0 []) ∧
          (c.state = .bound ∨ c.state = .failed → s.issueMem h n o =
            v.memDone { o with off := e.offset + rel } 8 0 [])) ∧
        (e.isLocal = false → v.conn (65536 * e.die + e.conn) = none →
          s.issueMem h n o = v.memDone { o with off := e.offset + rel } 8 0 [])))) ∧
  (∀ (s : State) (n opc i : Nat) (e : List Byte), memKnown opc (bits (le e 0 8) 20 2) (bits (le e 0 8) 16 4) = false ∨
    le e 8 8 % memSize (bits (le e 0 8) 20 2) ≠ 0 → s.fmmMem n opc e i = s.fmmRefuse n (le e 8 8) 0x10) ∧
  ∀ (w old x y : Nat), 0 < w → old < 2 ^ w → x < 2 ^ w → y < 2 ^ w →
    atomicWord 0 w old x y = (old + x) % 2 ^ w ∧
    signed w (atomicWord 1 w old x y) = min (signed w old) (signed w x) ∧
    signed w (atomicWord 2 w old x y) = max (signed w old) (signed w x) ∧
    atomicWord 3 w old x y = min old x ∧ atomicWord 4 w old x y = max old x ∧
    atomicWord 5 w old x y = (if old = y then x else old)) ∧
  (
(∀ (s : State) (h n a operand : Nat) (via : Option (Nat × Nat)) (w : Waiter),
    s.groups.find? (fun g => g.1 / 1024 == h && g.2.stand == n && g.2.block == a) = none →
    s.arriveAt h n a operand via w = s.answer w 5 0) ∧
  (∀ (s : State) (h n a operand gk c d : Nat) (g : Group) (w : Waiter),
    s.groups.find? (fun g => g.1 / 1024 == h && g.2.stand == n && g.2.block == a) = some (gk, g) →
    (g.members[bits operand 0 16]? = none → s.arriveAt h n a operand (some (c, d)) w = s.answer w 5 0) ∧
    (g.members[bits operand 0 16]? = some (c, d, false) →
      (bits operand 16 32 ≠ g.seq % 2 ^ 32 ∨ g.arrived.any (·.1 == bits operand 0 16) = true →
        s.arriveAt h n a operand (some (c, d)) w = s.answer w 6 0) ∧
      (bits operand 16 32 = g.seq % 2 ^ 32 → g.arrived.any (·.1 == bits operand 0 16) = false → ∀ u, u = { s with
          groups := s.groups.set gk { g with arrived := g.arrived ++ [(bits operand 0 16, w)] } } →
        s.arriveAt h n a operand (some (c, d)) w =
          if g.arrived.length + 1 = g.members.length then u.release gk (bits operand 0 16) false else u))) ∧
  (∀ (s : State) (gk last : Nat) (t : Bool) (g : Group), s.groups.get? gk = some g → ∃ x,
    (s.statistics gk last t).groups.get? gk = some x ∧ x.arrived = [] ∧ x.seq = g.seq + 1 ∧ x.members = g.members ∧
      x.ring = (last :: g.ring).take 256 ∧ x.completed = g.completed + (if t then 0 else 1) ∧
      x.timeouts = g.timeouts + (if t then 1 else 0)) ∧
  (∀ (s : State) (gk m : Nat) (g : Group), s.groups.get? gk = some g → g.arrived ≠ [] →
    m = ((List.range g.members.length).find? (fun m => g.arrived.all (fun a => a.1 != m))).getD 0 →
    exec (.barrierTimeout gk) s = .next (s.release gk m true).deliver) ∧
  ∀ (s : State) (gk : Nat) (g : Group), s.groups.get? gk = some g → g.arrived = [] →
    exec (.barrierTimeout gk) s = .next s)

/-! Shaping, network time and arbitration (12_shaping_arbitration.md) -/

/-- R271: a Sync that arrives on TIME_PORT under the configured transport moves the clock by its measured offset;
eight in a row within ±50 ns lock it (stated where no lost lock is regained, which is also recorded); a second without
one starts HOLDOVER, which is free-running once HOLDOVER_S has passed; a message on another port or transport is
counted and has no other effect. -/
def Obligations.NetworkTime : Prop :=
  (∀ (s u : State) (p : Nat) (udp : Bool) (m : PtpMessage), p < 16 → s.flag Fld.FAB_PORT_STATUS_LINK_UP p = true →
    u = s.addFld Fld.FAB_PORT_RX_FRAMES_COUNT p 0 1 →
    (u.fld Fld.SHP_TIME_CTRL_TIME_PORT (p / 8) ≠ p % 8 ∨ u.flag Fld.SHP_TIME_CTRL_TRANSPORT (p / 8) ≠ udp →
      exec (.ptpMessage p udp m) s = .next u) ∧
    (u.fld Fld.SHP_TIME_CTRL_TIME_PORT (p / 8) = p % 8 → u.flag Fld.SHP_TIME_CTRL_TRANSPORT (p / 8) = udp →
      (∀ t r, m = .sync (some t) r → exec (.ptpMessage p udp m) s = .next (u.takeSync (p / 8) t r)) ∧
      (∀ t r, m = .followUp t → (u.hub (p / 8)).syncAt = some r →
        exec (.ptpMessage p udp m) s = .next (u.takeSync (p / 8) t r)))) ∧
  (∀ (s : State) (h : Nat) (t r off : Int), ¬((s.hub h).wasLocked = true ∧ s.timeState h = 0) → off = r + (s.hub h).timeOffset - t - (s.hub h).pathDelay →
    ((s.takeSync h t r).hub h).timeOffset = (s.hub h).timeOffset - off ∧
    ((s.takeSync h t r).hub h).good = if -50 ≤ off ∧ off ≤ 50 then (s.hub h).good + 1 else 0) ∧
  (∀ (s : State) (h : Nat) (t r : Int), h < 2 → s.timeState h ≠ 1 →
    ¬((s.hub h).wasLocked = true ∧ s.timeState h = 0) → (-50 ≤ r + (s.hub h).timeOffset - t - (s.hub h).pathDelay ∧
      r + (s.hub h).timeOffset - t - (s.hub h).pathDelay ≤ 50 ∧ 7 ≤ (s.hub h).good →
    (s.takeSync h t r).timeState h = 1) ∧ (¬(-50 ≤ r + (s.hub h).timeOffset - t - (s.hub h).pathDelay ∧
      r + (s.hub h).timeOffset - t - (s.hub h).pathDelay ≤ 50 ∧ 7 ≤ (s.hub h).good) →
    (s.takeSync h t r).timeState h = s.timeState h)) ∧
  (∀ (s : State) (h : Nat), h < 2 → s.timeState h = 1 →
    NextWith (exec (.syncLossTimeout h) s) (fun t => t.timeState h = 2 ∧ (t.hub h).good = 0 ∧
      (t.hub h).timeOffset = (s.hub h).timeOffset)) ∧
  (∀ (s : State) (h : Nat), h < 2 → s.timeState h ≠ 1 → exec (.syncLossTimeout h) s = .next s) ∧
  (∀ (s : State) (h : Nat), h < 2 → s.timeState h = 2 → exec (.holdoverExpiry h) s =
    .next ((s.setFld Fld.SHP_TIME_STATUS_STATE h 0 0).event ⟨0x0406, none, 6 + h, 37, [h]⟩)) ∧
  ∀ (s : State) (h : Nat), h < 2 → s.timeState h ≠ 2 → exec (.holdoverExpiry h) s = .next s

/-- R272, R273, R275, R277, R279: a new list is checked when CONFIG_CHANGE is written and waits, or is refused; a
cycle starts at entry 0 with the list that waits, while the clock is locked or the list runs already; an entry that
ends gives way to the next, the last one of a port holds; a hub cycle that ends starts again, with the list and the
masks that waited; a sampling period writes a record of each queue of its mask. -/
def Obligations.GateLists : Prop :=
  (∀ (s t : State) (f : Fn) (p v : Nat), p < 16 → bit v 1 = true → s.writeRow f .GCL_CTRL p 0 [] v = some t →
    ∀ u, u = t.afterWrite s .GCL_CTRL p 0 →
    (u.gateListOk p (u.adminList p) = true → exec (.gclConfigChange f p v) s =
      .next ((u.updPort p (fun q => { q with pending := some (u.adminList p) })).setFld Fld.GCL_CTRL_PENDING p 0 1)) ∧
    (u.gateListOk p (u.adminList p) = false → exec (.gclConfigChange f p v) s =
      .next (u.setFld Fld.GCL_CTRL_CONFIG_ERROR p 0 1))) ∧
  (∀ (s : State) (p : Nat) (l : GateList), s.gateListOk p l = true ↔
    (1 ≤ l.entries.length ∧ l.entries.length ≤ 512 ∧ 1000 ≤ l.cycle ∧ l.cycle ≤ 1000000000 ∧ ∀ e ∈ l.entries,
      32 ≤ bits e 32 32 ∧ (e.testBit 8 = true → bits e 0 8 = 0) ∧
      ∀ c < 8, (s.classOwner p c).isSome = true → (bits e 0 8).testBit c = true → bits e 0 8 = 2 ^ c)) ∧
  (∀ (s : State) (p : Nat), p < 16 → s.flag Fld.GCL_CTRL_ENABLE p = true →
    (s.port p).running = true ∨ s.timeState (p / 8) = 1 →
    (∀ l, (s.port p).pending = some l → exec (.gateCycleStart p) s =
      .next ((((s.portTick p).operate p l).updPort p (fun q =>
        { q with running := true, cycleStart := ((s.portTick p).operate p l).timeNs, entry := 0 })).calPort p)) ∧
    ((s.port p).pending = none → exec (.gateCycleStart p) s =
      .next (((s.portTick p).updPort p (fun q => { q with running := true, cycleStart := s.timeNs, entry := 0 })).calPort
        p))) ∧
  (∀ (s : State) (p : Nat), p < 16 → s.gated p = true →
    ((s.port p).entry + 1 < s.fld Fld.GCL_CTRL_OPER_LENGTH p → exec (.gateEntryExpiry p) s =
      .next (((s.portTick p).updPort p (fun q => { q with entry := q.entry + 1 })).calPort p)) ∧
    (s.fld Fld.GCL_CTRL_OPER_LENGTH p ≤ (s.port p).entry + 1 → exec (.gateEntryExpiry p) s = .next s)) ∧
  (∀ (s : State) (h : Nat), h < 2 → s.fld Fld.GCL_HUB_CTRL_ENTRY h + 1 < s.fld Fld.GCL_HUB_CTRL_LENGTH h →
    exec (.hubEntryExpiry h) s = .next (((s.setFld Fld.GCL_HUB_CTRL_ENTRY h 0 (s.fld Fld.GCL_HUB_CTRL_ENTRY h + 1)).updHub h
      (fun u => { u with entryFrom := s.timeNs })).calEntry h)) ∧
  (∀ (s u : State) (h : Nat), h < 2 → s.fld Fld.GCL_HUB_CTRL_LENGTH h ≠ 0 →
    s.fld Fld.GCL_HUB_CTRL_LENGTH h ≤ s.fld Fld.GCL_HUB_CTRL_ENTRY h + 1 →
    u = (match ((s.takeOwners h).hub h).nextList with
      | some l => (s.takeOwners h).installHubList h l
      | none => ((s.takeOwners h).setFld Fld.GCL_HUB_CTRL_ENTRY h 0 0).updHub h (fun x =>
          { x with entryFrom := (s.takeOwners h).timeNs })) →
    exec (.hubEntryExpiry h) s = .next ((State.joinAt ({ u with arbs := u.arbs.map (fun (a : Nat × Arb) =>
      if arbHub a.1 = h then (a.1, { a.2 with unmasked := 0 }) else a) } : State) h false).calEntry h)) ∧
  (∀ (s : State) (h : Nat), h < 2 → s.flag Fld.SHP_SAMPLE_RING_ENABLE h = true → exec (.queueSample h) s =
    .next ((bitsOf 64 (s.reg .SHP_SAMPLE_MASK_LO h 0 + s.fld Fld.SHP_SAMPLE_CTRL_QUEUE_MASK h * 2 ^ 32)).foldl (fun s k =>
      ((s.portTick (8 * h + k / 8)).putSample h (k / 8) (k % 8)).updPort (8 * h + k / 8) (fun q =>
        { q with sojourn := q.sojourn.del (k % 8) })) s)) ∧
  ∀ (s : State) (h : Nat), s.flag Fld.SHP_SAMPLE_RING_ENABLE h = false → exec (.queueSample h) s = .next s

/-- R278-R280: an arbiter that is not frozen grants the first requester, after its last owner and round again, that
has raised its request, is not masked and is eligible; an owner that still requests keeps its grant; a limit, a mask
or a drop ends a grant; a frozen arbiter grants nothing and is drained once its grant has ended, at the latest by its
timeout. -/
def Obligations.Arbiters : Prop :=
  (∀ (s : State) (n raised : Nat), n < 37 → s.flag Fld.ARB_STATUS_GRANTED n = true →
    raised.testBit (s.fld Fld.ARB_STATUS_OWNER n) = true → exec (.arbiterGrant n raised) s = .next s) ∧
  (∀ (s : State) (n raised r : Nat), n < 37 → s.flag Fld.ARB_STATUS_GRANTED n = false →
    s.flag Fld.ARB_STATUS_FROZEN n = false → s.nextGrant n raised = some r →
    NextWith (exec (.arbiterGrant n raised) s) (fun t => t.flag Fld.ARB_STATUS_GRANTED n = true ∧
      t.fld Fld.ARB_STATUS_OWNER n = r ∧ t.arbs = s.arbs ∧ t.mem = s.mem)) ∧
  (∀ (s : State) (n raised : Nat), n < 37 → s.flag Fld.ARB_STATUS_GRANTED n = false → s.flag Fld.ARB_STATUS_FROZEN n = true →
    exec (.arbiterGrant n raised) s = .next s) ∧
  (∀ (s : State) (n raised r : Nat), s.nextGrant n raised = some r → r < 32 ∧ raised.testBit r = true ∧
    (s.arb n).masked.testBit r = false ∧ (s.arb n).unmasked.testBit r = false ∧ s.requesterEligible n r = true ∧
    ∀ q < 32, (q + 32 - (match (s.arb n).last with | some k => k + 1 | none => 0) % 32) % 32 <
        (r + 32 - (match (s.arb n).last with | some k => k + 1 | none => 0) % 32) % 32 →
      ¬(raised.testBit q = true ∧ (s.arb n).masked.testBit q = false ∧ (s.arb n).unmasked.testBit q = false ∧
        s.requesterEligible n q = true)) ∧
  (∀ (s : State) (n : Nat), n < 37 → s.flag Fld.ARB_STATUS_GRANTED n = true → s.fld Fld.ARB_CTRL_BURST_LIMIT n ≠ 0 →
    exec (.burstLimitExpiry n) s = .next (s.endGrant n)) ∧
  (∀ (s : State) (n : Nat), s.fld Fld.ARB_CTRL_BURST_LIMIT n = 0 → exec (.burstLimitExpiry n) s = .next s) ∧
  (∀ (s : State) (n r : Nat), n < 37 → r < 32 → NextWith (exec (.requesterMaskRise n r) s) (fun t =>
    (t.arb n).masked.testBit r = true ∧ (s.flag Fld.ARB_STATUS_GRANTED n = true → s.fld Fld.ARB_STATUS_OWNER n = r →
      t.flag Fld.ARB_STATUS_GRANTED n = false))) ∧
  (∀ (s t : State) (f : Fn) (n v : Nat), n < 37 → bit v 0 = true →
    s.writeRow f .ARB_CTRL n 0 [Fld.ARB_CTRL_FREEZE] v = some t → NextWith (exec (.arbFreeze f n v) s) (fun x =>
      x.flag Fld.ARB_STATUS_FROZEN n = true ∧
      (t.flag Fld.ARB_STATUS_GRANTED n = false → x.flag Fld.ARB_STATUS_DRAINED n = true))) ∧
  (∀ (s t : State) (f : Fn) (n v : Nat), n < 37 → bit v 0 = false →
    s.writeRow f .ARB_CTRL n 0 [Fld.ARB_CTRL_FREEZE] v = some t → NextWith (exec (.arbFreezeClear f n v) s) (fun x =>
      x.flag Fld.ARB_STATUS_FROZEN n = false ∧ x.flag Fld.ARB_STATUS_DRAINED n = false)) ∧
  (∀ (s : State) (n k : Nat), n < 37 → s.flag Fld.ARB_STATUS_FROZEN n = true → s.flag Fld.ARB_STATUS_DRAINED n = false →
    NextWith (exec (.drainTimeout n k) s) (fun t => t.flag Fld.ARB_STATUS_DRAINED n = true ∧
      t.flag Fld.ARB_STATUS_GRANTED n = false)) ∧
  ∀ (s : State) (n k : Nat), s.flag Fld.ARB_STATUS_DRAINED n = true → exec (.drainTimeout n k) s = .next s

/-! Associative search (13_associative_search.md) -/

/-- R286: among the entries that match a key the winner has the lowest position, or in explicit priority the highest
order key and then the lowest position; there is one where any entry matches. R287-R295: the commands of the search
unit: a burst of the requester that holds the port, up to 64 searches; the entries of the classifier's ring, each with
its result; a run short of holes is spread out again; the scrub repairs or loses an entry; a hub die's throttle
follows its temperature with 3 °C of hysteresis. -/
def Obligations.SearchCommands : Prop :=
  (
∀ (explicit : Bool) (key : Nat) (l : SMap SearchEntry),
    (winner explicit key l = none ↔ ∀ e ∈ l, e.2.hits key = false) ∧
    ∀ w, winner explicit key l = some w → w ∈ l ∧ w.2.hits key = true ∧
      (explicit = false → ∀ e ∈ l, e.2.hits key = true → w.1 ≤ e.1) ∧
      (explicit = true → ∀ e ∈ l, e.2.hits key = true →
        e.2.priority < w.2.priority ∨ (e.2.priority = w.2.priority ∧ w.1 ≤ e.1))) ∧
  (
(∀ (s : State) (hub r : Nat) (l : List (Nat × Nat × Nat × Bool)), hub < 2 →
    (s.flag Fld.ARB_STATUS_GRANTED (11 + hub) = true → s.fld Fld.ARB_STATUS_OWNER (11 + hub) = r →
      exec (.asrSearch hub r l) s =
        .next (s.burst hub ((l.take 64).map (fun q => (⟨hub, q.1, q.2.1⟩, q.2.2.1, q.2.2.2))) 0 [])) ∧
    (s.flag Fld.ARB_STATUS_GRANTED (11 + hub) = false ∨ s.fld Fld.ARB_STATUS_OWNER (11 + hub) ≠ r →
      exec (.asrSearch hub r l) s = .next s)) ∧
  (∀ (s : State) (hub : Nat) (t : Table) (key p : Nat) (e : SearchEntry), s.lookup t key = some (p, e) →
    s.burst hub [(t, key, false)] 0 [] = { s.searched hub with searchResults := [some e.result] }) ∧
  (∀ (s : State) (hub h a op : Nat) (cmd rec_ b : List Byte) (c : Instr) (r : State × Nat), hub < 2 →
    h = s.fld Fld.ASR_CMD_HEAD_INDEX hub % 2 ^ s.fld Fld.ASR_CMD_RING_SIZE_LOG2 hub →
    a = s.fld Fld.ASR_CMD_RING_ADDR hub + 32 * h →
    h ≠ s.fld Fld.ASR_CMD_TAIL_INDEX hub % 2 ^ s.fld Fld.ASR_CMD_RING_SIZE_LOG2 hub → s.hostReach .pf = true →
    le cmd 0 1 = op → le cmd 8 6 % 64 = 0 → b = sub rec_ 0 64 →
    (c, op, r) ∈ [(Instr.classifierInsert hub cmd (.data rec_), 1, if 128 ≤ le b 40 1 then (s, 0x10)
        else match s.tableInsert (classifier hub) ⟨(recordKey b).1, (recordKey b).2,
          128 * maskBits 160 (recordKey b).2 + le b 40 1, le b 48 8 % 16⟩ with
        | some t => (t, 0)
        | none => (s.tableFull (classifier hub), 0x22)),
      (.classifierDelete hub cmd (.data rec_), 2, (s.tableDelete (classifier hub) (recordKey b).1 (recordKey b).2).1,
        if (s.tableDelete (classifier hub) (recordKey b).1 (recordKey b).2).2 then 0 else 0x1A),
      (.classifierRead hub cmd (.data rec_), 3,
        match (s.tableEntries (classifier hub)).find? (fun e => e.2.data == (recordKey b).1 && e.2.mask == (recordKey b).2) with
        | some e => (s.hostWrite .pf (le cmd 8 6) (toBytes 20 (recordKey b).1 ++ toBytes 20 (recordKey b).2 ++
            toBytes 8 (e.2.priority % 128) ++ toBytes 8 e.2.result ++ zeros 8), 0)
        | none => (s, 0x1A))] →
    exec c s = .next ((r.1.hostWrite .pf (a + 1) [BitVec.ofNat 8 r.2]).setFld Fld.ASR_CMD_HEAD_INDEX hub 0
      ((h + 1) % 2 ^ s.fld Fld.ASR_CMD_RING_SIZE_LOG2 hub))) ∧
  (∀ (s : State) (hub kind stand run n k : Nat) (t : Table) (l here : SMap SearchEntry), hub < 2 → t = ⟨hub, kind, stand⟩ →
    k = s.fld Fld.ASR_CTRL_HOLE_INTERVAL hub → l = s.tableEntries t →
    here = l.filter (fun e => 256 * run ≤ e.1 && e.1 < 256 * run + 256) → n = here.length →
    (2 ≤ k → 256 * run + 256 ≤ s.tableSize t → 256 - n < 256 / k / 2 →
      exec (.asrRespread hub kind stand run) s = .next (s.setTable t (l.filter (fun e => e.1 < 256 * run) ++
        (here.map (·.2)).zipIdx.map (fun e => (256 * run + min (e.2 + e.2 / (k - 1)) (256 - n + e.2), e.1)) ++
        l.filter (fun e => 256 * run + 256 ≤ e.1)))) ∧
    (k < 2 ∨ s.tableSize t < 256 * run + 256 ∨ 256 / k / 2 ≤ 256 - n →
      exec (.asrRespread hub kind stand run) s = .next s)) ∧
  (∀ (s u : State) (b slot : Nat) (e : SearchEntry), b < 64 → slot < s.bankSlots b →
    u = s.setFld Fld.ASR_STATUS_SCRUB_BANK (b / 32) 0 (b % 32) → s.search.get? (4096 * b + slot) = some e →
    exec (.asrScrubEntry b slot .same) s = .next u ∧ exec (.asrScrubEntry b slot .bankWrong) s = .next (u.repaired b slot) ∧
    exec (.asrScrubEntry b slot .shadowWrong) s = .next (u.repaired b slot) ∧
    exec (.asrScrubEntry b slot .bothWrong) s = .next (State.entryLost (State.countBank { u with
      search := u.search.del (4096 * b + slot) } b) b slot)) ∧
  (∀ (s : State) (hub : Nat) (x : Int), hub < 2 → exec (.searchThrottle hub x) s =
    .next (s.setFld Fld.ASR_STATUS_THROTTLE hub 0 (max (searchStep x) (min (s.fld Fld.ASR_STATUS_THROTTLE hub)
      (searchStep (x + 3))))).settleLevel) ∧
  ∀ x : Int, searchStep x = if x < 95 then 0 else if x < 102 then 1 else if x < 106 then 2 else 3)

/-! Power (18_power_thermal.md) -/

/-- R382-R384: a request is granted only where both windows have room for it, and a matrix core starts only under an
applied voltage; the grant leaves the queue, is counted in its window, and clocks the unit in ballast or stops it. A
unit that has been in ballast requests a stop, except under the pattern of a sealed stand, whose next cluster stops or
starts. R386-R389, R440: a sensor at 112 °C or above in two samples in a row trips the package; any other sample is
shown and remembered. The evaluation of a millisecond raises the throttle state by one while the package is over its
limits, lowers it after ten good milliseconds in a row of both, and holds it while the previous change is not applied
in full. The evaluation's order of effects is the model's choice where the spec gives none. -/
def Obligations.PowerGovernor : Prop :=
  (
(∀ (s : State) (r : PowerReq), s.admits r = true →
    grantedMw s.timeNs (if r.stop then s.power.stops else s.power.starts) + r.unit.draw.1 ≤ 1000 * s.power.rampW ∧
    grantedMa s.timeNs s.power.slewA r.unit.rail (if r.stop then s.power.stops else s.power.starts) + r.unit.draw.2 ≤ 32000 ∧
    (∀ c, r.unit = .matrix c → r.stop = false → s.flag Fld.PWR_VID_APPLIED = true)) ∧
  (∀ s : State, s.power.considered.find? s.admits = none → exec .governorGrant s = .next s) ∧
  (∀ (s : State) (r : PowerReq), s.power.considered.find? s.admits = some r → NextWith (exec .governorGrant s) (fun t =>
    t.power.waiting = s.power.waiting.filter (· != r) ∧ t.power.clocked r.unit = !r.stop ∧
    (r.stop = false → t.power.stops = s.power.stops ∧ t.power.starts = liveGrants s.timeNs s.power.starts ++
      [⟨s.timeNs, r.unit.draw.1, r.unit.rail, r.unit.draw.2⟩]) ∧
    (r.stop = true → t.power.starts = s.power.starts ∧ t.power.stops = liveGrants s.timeNs s.power.stops ++
      [⟨s.timeNs, r.unit.draw.1, r.unit.rail, r.unit.draw.2⟩]))) ∧
  (∀ (s : State) (c : Nat), s.power.matrix.get? c = some .ballast → s.patterned c = false →
    exec (.ballastTimeout true c) s = .next (s.updPower (fun p => p.request true (.matrix c) s.timeNs))) ∧
  (∀ (s : State) (v : Nat), s.power.vector.get? v = some .ballast → s.patterned (v / 864) = false →
    exec (.ballastTimeout false v) s = .next (s.updPower (fun p => p.request true (.vector v) s.timeNs))) ∧
  (∀ (s : State) (c : Nat), s.patterned c = true → exec (.ballastTimeout true c) s = .next s) ∧
  (∀ (s : State) (n c : Nat) (rest : List Nat) (p : Pattern), s.power.sealed.get? n = some p → p.stopping = [] →
    p.starting = c :: rest → s.flag Fld.PWR_VID_APPLIED = true → NextWith (exec (.sealedClusterStart n) s) (fun t =>
      t.power.sealed.get? n = some { p with starting := rest, due := s.timeNs + 912000000 / s.power.rampW } ∧
      t.power.clocked (.matrix c) = true ∧ t.power.starts = liveGrants s.timeNs s.power.starts ++
        s.power.clusterGrants s.timeNs c)) ∧
  (∀ (s : State) (n c : Nat) (rest : List Nat) (p : Pattern), s.power.sealed.get? n = some p → p.stopping = c :: rest →
    NextWith (exec (.sealedClusterStart n) s) (fun t =>
      t.power.sealed.get? n = some { p with stopping := rest, due := s.timeNs + 912000000 / s.power.rampW } ∧
      t.power.clocked (.matrix c) = false)) ∧
  ∀ (s : State) (n : Nat), s.power.sealed.get? n = none → exec (.sealedClusterStart n) s = .next s) ∧
  (
(∀ (s u : State) (readings : List (List Nat)) (fails : Nat) (r : List (List Nat)) (hot : List Nat), s.heartRuns = true →
    r = (List.range 8).map (fun d => (readings.getD d []).take (sensorsOf d)) → u = s.showThermal r →
    hot = r.zipIdx.flatMap (fun x => (x.1.zipIdx.filter (fun y => decide (112 ≤ y.1))).map (fun y => 32 * x.2 + y.2)) →
    ((∃ k ∈ hot, k ∈ u.power.hot) → exec (.thermalSample readings fails) s = .next (State.restart ({
      u.satFld Fld.THM_STATUS_TRIPS 0 0 1 with
        pins := { (u.satFld Fld.THM_STATUS_TRIPS 0 0 1).pins with thermtripReleased := false } } : State) 5 fails)) ∧
    ((∀ k ∈ hot, k ∉ u.power.hot) →
      exec (.thermalSample readings fails) s = .next (u.updPower (fun p => { p with hot := hot })))) ∧
  (∀ (s : State) (readings : List (List Nat)) (fails : Nat), s.heartRuns = false →
    exec (.thermalSample readings fails) s = .next s) ∧
  (∀ (s u v : State) (rails : List (Nat × Nat)) (settled : Bool) (p limit hot thr old : Nat), s.heartRuns = true →
    u = (s.showRails rails).countBallast → u.phase = .running →
    p = ((rails.take 13).map (fun x => x.1 * x.2)).foldl (· + ·) 0 → limit = u.power.limitW * 10000 →
    hot = u.fld Fld.THM_STATUS_MAX_COMPUTE_C → thr = u.fld Fld.THM_CTRL_THROTTLE_C → old = u.fld Fld.PWR_STATUS_STATE →
    v = u.updPower (fun q => { q with
      cool := if hot < thr - 3 then q.cool + 1 else 0, low := if 100 * p ≤ 95 * limit then q.low + 1 else 0 }) →
    (hot < 108 → settled = false →
      exec (.throttleEval rails settled) s = .next (v.setFld Fld.PWR_STATUS_STATE 0 0 old).settleLevel) ∧
    (hot < 106 → settled = true → thr ≤ hot ∨ limit < p → old < 7 → old ≠ 4 →
      exec (.throttleEval rails settled) s = .next (((v.setFld Fld.PWR_STATUS_STATE 0 0 (old + 1)).setFld
        Fld.PWR_STATUS_POWER_CAUSE 0 0 (b01 (limit < p))).setFld Fld.PWR_STATUS_THERMAL_CAUSE 0 0
          (b01 (thr ≤ hot))).settleLevel) ∧
    (hot < 106 → settled = true → hot < thr → p ≤ limit → 10 ≤ v.power.cool → 10 ≤ v.power.low →
      exec (.throttleEval rails settled) s = .next (v.setFld Fld.PWR_STATUS_STATE 0 0 (old - 1)).settleLevel) ∧
    (108 ≤ hot → old = 7 →
      exec (.throttleEval rails settled) s = .next (v.setFld Fld.PWR_STATUS_STATE 0 0 7).settleLevel)) ∧
  ∀ x : Nat, stateLevel x ≤ 3 ∧ (stateLevel x = 0 ↔ x = 0))

/-! Faults (19_faults_events.md, 01_organisation.md) -/

/-- R394, R397-R399, R403: a steward core that fails leaves the mask, a sequencer that fails stops its stand; a unit
that fails in its return checks stays out with RESULT 3; a return starts for one known unit that is out, one at a
time, and ends when its checks do; the flood window closes; DDRk_ALERT_N follows its pin. R14, R15, R294, R397: a lane
fault narrows its module or disables it; the last working module takes the link down, and stands left without a path
stop; the same fault again changes nothing. A bank that fails leaves service with its entries, which go to the holes
of its table's other banks. -/
def Obligations.UnitFaults : Prop :=
  (
(∀ (s u : State) (core handlers : Nat), s.heartRuns = true → core < 64 → s.recorder.returning ≠ some (2, core) →
    (s.fld Fld.EVR_STEWARD_OUT_OUT).testBit core = false → u = ((s.setFld Fld.EVR_STEWARD_OUT_OUT 0 0
      (s.fld Fld.EVR_STEWARD_OUT_OUT ||| 2 ^ core)).event ⟨0x0504, none, 6 + core / 32, 37, [core, handlers]⟩) →
    ∀ t, t = u.sharedFault (u.allStands.filter (fun n => u.hubOf n == core / 32)) (6 + core / 32) 37 2 core →
    exec (.stewardFailure core handlers) s = .next (if (List.range 32).all (fun k =>
      (t.fld Fld.EVR_STEWARD_OUT_OUT).testBit (32 * (core / 32) + k)) then t.failPackage (9 + core / 32) else t)) ∧
  (∀ (s : State) (core handlers : Nat), s.heartRuns = true → core < 64 → s.recorder.returning = some (2, core) →
    exec (.stewardFailure core handlers) s = .next (s.returnEnd 3)) ∧
  (∀ (s : State) (q n : Nat), s.heartRuns = true → q < 24 → s.recorder.returning ≠ some (6, q) →
    s.sequencersOut.testBit q = false → s.allStands.find? (fun n => s.layout Fld.GLB_STAND_SEQUENCER n == q) = some n →
    exec (.sequencerFailure q) s = .next (((State.event ({ s with sequencersOut := s.sequencersOut ||| 2 ^ q } : State)
      ⟨0x0305, some n, 6 + q / 12, 38, [q]⟩).stopStand n 0x39).deliver)) ∧
  (∀ (s : State) (q : Nat), s.sequencersOut.testBit q = true → s.recorder.returning ≠ some (6, q) →
    exec (.sequencerFailure q) s = .next s) ∧
  (∀ (s : State) (block : Nat), s.heartRuns = true → block ≤ 10 →
    exec (.packageFault block) s = .next (s.failPackage block)) ∧
  (∀ (s : State) (block : Nat), s.phase = .packageFault → exec (.packageFault block) s = .next s) ∧
  (∀ (s t : State) (f : Fn) (v : Nat), s.writeRow f .EVR_RETURN_CMD 0 0 [] v = some t →
    (bit v 16 = false → exec (.returnToService f v) s = .next t) ∧
    (bit v 16 = true → t.recorder.returning.isSome = true →
      exec (.returnToService f v) s = .next (t.setFld Fld.EVR_RETURN_CMD_RESULT 0 0 1)) ∧
    (bit v 16 = true → t.recorder.returning = none → t.unitOut (bits v 0 4) (bits v 4 12) = false →
      exec (.returnToService f v) s =
        .next ((t.setFld Fld.EVR_RETURN_CMD_RESULT 0 0 2).setFld Fld.EVR_RETURN_CMD_DONE 0 0 1)) ∧
    (bit v 16 = true → t.recorder.returning = none → t.unitOut (bits v 0 4) (bits v 4 12) = true →
      NextWith (exec (.returnToService f v) s) (fun x => x.recorder.returning = some (bits v 0 4, bits v 4 12) ∧
        x.recorder.returnPassed = false ∧ x.fld Fld.EVR_RETURN_CMD_BUSY = 1))) ∧
  (∀ (s : State) (kind idx : Nat), s.recorder.returning = some (kind, idx) → s.recorder.returnPassed = false →
    exec (.returnCheckDone false) s = .next (s.returnEnd 3) ∧
    (kind = 6 → exec (.returnCheckDone true) s = .next ((s.bringBack 6 idx).returnEnd 0)) ∧
    (kind ≠ 6 → exec (.returnCheckDone true) s =
      .next { s with recorder := { s.recorder with returnPassed := true } })) ∧
  (∀ (s : State) (kind idx : Nat), s.recorder.returning = some (kind, idx) →
    kind = 2 ∨ kind = 6 → idx < 64 → (s.bringBack kind idx).unitOut kind idx = false) ∧
  (∀ s : State, exec .floodWindowEnd s = .next s.closeWindow) ∧
  ∀ (s : State) (k i : Nat) (low : Bool), k < 16 → NextWith (exec (.ddrAlertN k low) s) (fun t =>
    t.pins.ddrAlert.testBit i = if i = k then low else s.pins.ddrAlert.testBit i)) ∧
  (
(∀ (s u : State) (link module key : Nat) (upper : Bool), s.heartRuns = true → link < 11 → module < linkModules link →
    key = 16 * link + module → s.recorder.returning ≠ some (1, key) →
    u = ({ s with modules := s.modules.set key (if upper then ((s.moduleFaults link module).1, true)
      else (true, (s.moduleFaults link module).2)) } : State).showLink link →
    ((if upper then (s.moduleFaults link module).2 else (s.moduleFaults link module).1) = true →
      exec (.dlinkLaneFault link module upper) s = .next s) ∧
    ((if upper then (s.moduleFaults link module).2 else (s.moduleFaults link module).1) = false →
      (u.linkWorks link = true → exec (.dlinkLaneFault link module upper) s = .next ((u.event
        ⟨0x0402, none, 6 + linkHub link, 43, [1 + link * 2 ^ 8, module]⟩).sharedFault (u.linkStands link) (6 + linkHub link) 43 1 key)) ∧
      (u.linkWorks link = false → exec (.dlinkLaneFault link module upper) s = .next (((u.event
        ⟨0x0401, none, 6 + linkHub link, 43, [1 + link * 2 ^ 8]⟩).sharedFault (u.linkStands link) (6 + linkHub link) 43 8
          link).stopCutOff.deliver)))) ∧
  (∀ (s u v : State) (b : Nat) (t : Table), s.recorder.returning ≠ some (3, b) → b < 64 →
    s.bank Fld.ASR_BANK_CFG_IN_SERVICE b = 1 → t = s.tableOf b →
    u = (s.setFld Fld.ASR_BANK_CFG_IN_SERVICE (b / 32) (b % 32) 0).flagAsr Fld.ASR_ERROR_BANK_FAILED b 0 →
    v = (State.countBank { u with search := u.search.filter (fun e => e.1 / 4096 != b) } b).event
      ⟨0x0503, none, 6 + b / 32, 34, [b]⟩ →
    exec (.bankFailure b) s = .next ((if t.kind = kindComposition ∨ t.kind = kindClassifier then
      v.sharedFault (List.range 24) (6 + b / 32) 34 3 b else v).reload t b
        ((s.bankEntries b).foldl (fun acc e => insertBy (fun x => 2 ^ 16 - x.2.priority) e acc) []))) ∧
  (∀ (s : State) (b : Nat), s.recorder.returning ≠ some (3, b) → s.bank Fld.ASR_BANK_CFG_IN_SERVICE b ≠ 1 →
    exec (.bankFailure b) s = .next s) ∧
  ∀ (s : State) (b : Nat), s.recorder.returning = some (3, b) → exec (.bankFailure b) s = .next (s.returnEnd 3))

/-! Start, reset and test (17_startup_reset_test.md) -/

/-- R364, R368, R437, R438, R441: what the power lands, a reset register, a lost clock and a test-mode instruction do
to the package: a package reset leaves its cause, no stand, no connection, no region and no image; lands that go high
again, or a clock that returns, start the power-up sequence, which waits for REFCLK and stays in the ROM without valid
firmware. -/
def Obligations.PackageResets : Prop :=
  (∀ (s : State) (cause : Nat), cause < 8 → (s.packageReset cause).reg .RST_CAUSE 0 0 = cause ∧
    (s.packageReset cause).stands = [] ∧ (s.packageReset cause).conns = [] ∧ (s.packageReset cause).regions = [] ∧
    (s.packageReset cause).cores = [] ∧ (s.packageReset cause).fuses = s.fuses ∧
    (s.packageReset cause).pending = s.pending ∧ (s.packageReset cause).pins = s.pins) ∧
  (∀ s : State, s.pins.pwrok = true → NextWith (exec .pwrokFall s) (fun t => t.phase = .off ∧ t.pins.pwrok = false ∧
    t.pins.thermtripReleased = true ∧ t.reg .RST_CAUSE 0 0 = 0 ∧ t.stands = [] ∧ t.fuses = s.fuses)) ∧
  (∀ s : State, s.pins.pwrok = false → exec .pwrokFall s = .next s) ∧
  (∀ s : State, s.pins.rstN = true → s.pins.pwrok = true → NextWith (exec .rstNLow s) (fun t => t.phase = .held ∧
    t.pins.rstN = false ∧ t.reg .RST_CAUSE 0 0 = 1 ∧ t.stands = [])) ∧
  (∀ s : State, s.pins.rstN = false → exec .rstNLow s = .next s) ∧
  (∀ s : State, s.pins.perstN = true → s.pins.rstN = true → s.pins.pwrok = true → NextWith (exec .perstNLow s) (fun t =>
    t.phase = .held ∧ t.pins.perstN = false ∧ t.reg .RST_CAUSE 0 0 = 2 ∧ t.stands = [])) ∧
  (∀ s : State, s.pins.perstN = false → exec .perstNLow s = .next s) ∧
  (∀ (s u : State) (fails : Nat), u = { s with pins := { s.pins with pwrok := true } } → s.pins.pwrok = false →
    (s.pins.rstN = true → exec (.pwrokRise fails) s = .next (u.powerUp fails)) ∧
    (s.pins.rstN = false → exec (.pwrokRise fails) s = .next { u with phase := .held })) ∧
  (∀ (s u : State) (fails : Nat), u = { s with pins := { s.pins with rstN := true, perstN := true } } →
    (s.phase ≠ .held → exec (.resetRelease fails) s = .next u) ∧
    (s.phase = .held → s.mgmt.lands = .functional → exec (.resetRelease fails) s = .next (u.powerUp fails)) ∧
    (s.phase = .held → s.mgmt.lands ≠ .functional → exec (.resetRelease fails) s = .next { u with phase := .tapHeld })) ∧
  (∀ (s : State) (fails : Nat), s.phase ≠ .tapHeld → NextWith (exec (.testLogicReset fails) s) (fun t =>
    t.mgmt.tapInstr = 1 ∧ t.mgmt.tapData = idcodeValue ∧ t.mgmt.lands = .functional ∧ t.phase = s.phase ∧
    t.regs = s.regs)) ∧
  (∀ (s u : State) (fails : Nat), s.phase = .tapHeld → u = { s with mgmt := { s.mgmt with
      tapInstr := 1, tapRefused := false, tapData := idcodeValue, lands := .functional } } →
    exec (.testLogicReset fails) s = .next (u.powerUp fails)) ∧
  (∀ (s t : State) (f : Fn) (v fails : Nat), s.writeRow f .RST_CTRL 0 0 [] v = some t →
    (bits v 0 8 = 0xA5 → bit v 8 = true → exec (.pkgReset f v fails) s = .next ((t.packageReset 3).powerUp fails)) ∧
    (bits v 0 8 ≠ 0xA5 ∨ bit v 8 = false → exec (.pkgReset f v fails) s = .next t)) ∧
  (∀ (s u : State) (lost : Bool) (fails : Nat), u = { s with pins := { s.pins with refclk := s.pins.refclk && !lost } } →
    (s.flag Fld.CLK_STATUS_LOCKED = true → exec (.pllUnlock lost fails) s = .next ((u.packageReset 4).powerUp fails)) ∧
    (s.flag Fld.CLK_STATUS_LOCKED = false → exec (.pllUnlock lost fails) s = .next s)) ∧
  (∀ (s u : State) (fails : Nat), u = { s with pins := { s.pins with refclk := true } } →
    exec (.refclkReturn fails) s = .next (if s.phase = .noClock then u.powerUp fails else u)) ∧
  ∀ (s : State) (fails : Nat), (s.pins.refclk = false → s.powerUp fails = { s with phase := .noClock }) ∧
    (s.pins.refclk = true → s.firmwareOk s.fuses.active = none → s.firmwareOk (1 - s.fuses.active) = none →
      s.powerUp fails = { s with phase := .rom })

/-- R366, R371-R376: the power-up test masks the cores and leaves out the groves that fail it and goes on to the start
from flash; a self-test is requested for a set of groves, one request at a time, and each grove's end is counted, its
failing cores masked; a calibration that falls due waits for its entry, and one that waits four intervals is reported
once. -/
def Obligations.Tests : Prop :=
  (∀ (s : State) (cores groves : List Nat), s.phase = .starting 7 → s.flag Fld.PWR_VID_APPLIED = true →
    exec (.powerUpGroveTest cores groves) s = .next ((distinct (groves.filter (· < 24))).foldl State.groveOut
      ((cores.filter (· < 82944)).foldl State.maskCore s)).startFromFlash) ∧
  (∀ (s : State) (cores groves : List Nat), s.phase ≠ .starting 7 →
    exec (.powerUpGroveTest cores groves) s = .next s) ∧
  (∀ (s : State) (v : Nat), (s.maskCore v).fld Fld.VEC_CORE_MASK_OUT (v / 864) (v % 864 / 64) =
    s.fld Fld.VEC_CORE_MASK_OUT (v / 864) (v % 864 / 64) ||| 2 ^ (v % 864 % 64)) ∧
  (∀ (s t u w : State) (f : Fn) (v : Nat), s.writeRow f .RST_TEST_CTRL 0 0 [] v = some t →
    (bit v 28 = false → exec (.selfTest f v) s = .next t) ∧
    (bit v 28 = true → t.fld Fld.RST_TEST_STATUS_STATE = 1 ∨ t.fld Fld.RST_TEST_STATUS_STATE = 2 →
      exec (.selfTest f v) s = .next (t.setFld Fld.RST_TEST_STATUS_OVERRUN 0 0 1)) ∧
    (bit v 28 = true → t.fld Fld.RST_TEST_STATUS_STATE ≠ 1 → t.fld Fld.RST_TEST_STATUS_STATE ≠ 2 →
      u = { (t.setFld Fld.RST_TEST_STATUS_RESULT 0 0 0).setFld Fld.RST_TEST_STATUS_FAILED 0 0 0 with
        tests := { logic := bit v 24, sram := bit v 25, hbm := bit v 26 } } →
      w = (bitsOf 24 v).foldl (fun (t : State) g => t.admitTest g (bit v 27)) u →
      exec (.selfTest f v) s = .next ((List.range 24).foldl (fun (t : State) n => if (t.stand n).cond = .running then
        t.testIdle n else t) (w.setFld Fld.RST_TEST_STATUS_STATE 0 0 (if w.underTest ≠ 0 then 2
          else if w.tests.waiting ≠ 0 then 1 else 3))))) ∧
  (∀ (s : State) (g : Nat), g < 24 → s.underTest.testBit g = true → (s.testEnd g 0).groveStand g = none →
    exec (.selfTestDone g [] [] []) s = .next ([4 * g, 4 * g + 1, 4 * g + 2, 4 * g + 3].foldl (fun s c =>
      (List.range 14).foldl (fun (s : State) j => s.resetReg .VEC_CORE_MASK c j) s)
        ((s.testEnd g 0).setFld Fld.RST_GROVE_STATUS_OUT_OF_SERVICE 0 0
          (if ((s.testEnd g 0).fld Fld.RST_GROVE_STATUS_OUT_OF_SERVICE).testBit g then
            (s.testEnd g 0).fld Fld.RST_GROVE_STATUS_OUT_OF_SERVICE - 2 ^ g
          else (s.testEnd g 0).fld Fld.RST_GROVE_STATUS_OUT_OF_SERVICE)))) ∧
  (∀ (s : State) (g : Nat) (cores clusters channels : List Nat), 24 ≤ g ∨ s.underTest.testBit g = false →
    exec (.selfTestDone g cores clusters channels) s = .next s) ∧
  (∀ (s : State) (kind u : Nat) (failing : List Nat), s.phase = .running → kind ≤ 3 → (if kind = 0 then u < 16 else u < 2) →
    s.calDue.get? (32 * kind + u) = none → s.calFits kind u = true →
    exec (.calibrationDue kind u failing) s =
      .next { s with calDue := s.calDue.set (32 * kind + u) { failing := failing } }) ∧
  ∀ (s : State) (kind u : Nat) (failing : List Nat), s.phase ≠ .running → exec (.calibrationDue kind u failing) s = .next s

/-- R369, R370, R423, Table 16.9: a stand reset is refused for a stand that is reset, replaced or absent, and begins
with its drain otherwise; each stage ends as its event says, in its stage alone; a function-level reset clears its
function's windows and resets its stand without a drain. -/
def Obligations.StandResets : Prop :=
  (∀ (s t : State) (f : Fn) (v : Nat), s.writeRow f .RST_STAND_CMD 0 0 [] v = some t →
    (bit v 5 = false → exec (.standReset f v) s = .next t) ∧
    (bit v 5 = true → t.replacing (bits v 0 5) = true ∨
        (t.standValid (bits v 0 5) = true ∧ (t.stand (bits v 0 5)).life.stage ≠ .steady) →
      exec (.standReset f v) s =
        .next ((t.setFld Fld.RST_STAND_CMD_RESULT 0 0 1).setFld Fld.RST_STAND_CMD_DONE 0 0 1)) ∧
    (bit v 5 = true → t.replacing (bits v 0 5) = false → t.standValid (bits v 0 5) = false →
      exec (.standReset f v) s =
        .next ((t.setFld Fld.RST_STAND_CMD_RESULT 0 0 2).setFld Fld.RST_STAND_CMD_DONE 0 0 1)) ∧
    (bit v 5 = true → t.replacing (bits v 0 5) = false → t.standValid (bits v 0 5) = true →
      (t.stand (bits v 0 5)).life.stage = .steady →
      exec (.standReset f v) s = .next ((((t.setFld Fld.RST_STAND_CMD_BUSY 0 0 1).setFld Fld.RST_STAND_CMD_RESULT 0 0 0).setFld
        Fld.RST_STAND_CMD_UNREPORTED 0 0 0).startReset (bits v 0 5) .command (bits v 8 16)).deliver)) ∧
  (∀ (s : State) (n : Nat),
    ((s.stand n).life.stage = .draining → s.replacing n = false →
      exec (.standDrainEnd n) s = .next (s.drainEnd n).deliver ∧ exec (.replaceDrainEnd n) s = .next s) ∧
    ((s.stand n).life.stage = .draining → s.replacing n = true →
      exec (.replaceDrainEnd n) s = .next (s.drainEnd n).deliver ∧ exec (.standDrainEnd n) s = .next s) ∧
    ((s.stand n).life.stage ≠ .draining → exec (.standDrainEnd n) s = .next s ∧ exec (.replaceDrainEnd n) s = .next s) ∧
    ((s.stand n).life.stage = .reporting → exec (.stateLostEntryWindowEnd n) s =
      .next (((s.unreported n (s.stand n).entriesWaiting).updStand n (fun st => { st with cqWaiting := [] })).startErase n)) ∧
    ((s.stand n).life.stage ≠ .reporting → exec (.stateLostEntryWindowEnd n) s = .next s) ∧
    ((s.stand n).life.stage = .erasing → exec (.relayConfirm n) s = .next (s.eraseConfirmed n)) ∧
    ((s.stand n).life.stage ≠ .erasing → exec (.relayConfirm n) s = .next s) ∧
    (n < 24 → (s.stand n).life.stage = .zeroing → exec (.zeroingDone n) s = .next (s.finishInstall n)) ∧
    (n < 24 → (s.stand n).life.stage ≠ .zeroing → exec (.zeroingDone n) s = .next s)) ∧
  (∀ s : State, s.flag Fld.GLB_HDM_STATUS_ZEROING = true → NextWith (exec (.zeroingDone 24) s) (fun t =>
    t.flag Fld.GLB_HDM_STATUS_ZEROING = false ∧ t.flag Fld.GLB_HDM_STATUS_BACKED = true)) ∧
  (∀ (s u v : State) (n : Nat), s.fnExists (.vf n) = true → s.flag Fld.GLB_LINK_STATUS_LINK_UP = true →
    u = State.resetRegs ({ s with host := { s.host with
      busMaster := if s.host.busMaster.testBit n then s.host.busMaster - 2 ^ n else s.host.busMaster,
      ats := if s.host.ats.testBit n then s.host.ats - 2 ^ n else s.host.ats,
      msixPending := s.host.msixPending.filter (fun k => k / 32 != n), copyMsgAt := s.host.copyMsgAt.del n } } : State)
        [.QW_APERTURE_BASE, .QW_COPY_RING, .QW_COPY_TAIL, .QW_COPY_HEAD, .QW_STATUS] n →
    v = { u with laps := u.laps.del (Reg.QW_COPY_RING.addr n 0) } →
    (v.standValid n = false → exec (.vfFlr n) s = .next v) ∧
    (v.standValid n = true → (v.stand n).life.stage = .steady → exec (.vfFlr n) s = .next (v.startReset n .flr 0).deliver) ∧
    (v.standValid n = true → (v.stand n).life.stage = .draining → v.replacing n = true →
      exec (.vfFlr n) s = .next (v.drainEnd n).deliver)) ∧
  ∀ (s : State) (n : Nat), s.flag Fld.GLB_LINK_STATUS_LINK_UP = false → exec (.vfFlr n) s = .next s

/-! Trust (14_trust_attestation.md) -/

/-- R323, Table 14.10: what every Heartwood command has in common, whatever it does: a write without GO starts none;
with GO on a BUSY mailbox sets OVERRUN; one that the mailbox may not use is NOT_PERMITTED, one whose LENGTH does not
cover its arguments BAD_COMMAND, and every one is answered TRY_LATER while firmware is applied. R296, R308, R310-R315:
commands that answer with data: quotes, logs, the certificate, the stand's KEM key, 1 to 256 random bytes; a key blob
is released to its stand alone, where its tag passes and the log has room, and the key is installed. -/
def Obligations.HeartAnswers : Prop :=
  (
∀ (s t u : State) (f : Fn) (m v fails op len : Nat) (use : BoxUse) (c : Instr),
    (c, op, len, use) ∈ [(Instr.getQuote f m v fails, 1, 33, BoxUse.all), (.getLog f m v, 2, 10, .all),
      (.getCert f m v, 3, 0, .all), (.getKemKey f m v, 4, 1, .all), (.installWeightKey f m v, 5, 1680, .stand),
      (.removeWeightKey f m v, 6, 2, .stand), (.jobTicket f m v, 7, 1680, .stand), (.jobJoin f m v, 8, 40, .stand),
      (.jobRemove f m v, 9, 2, .stand), (.hwdRandom f m v, 10, 4, .all), (.enrolOwner f m v, 0x10, 60, .pf),
      (.releaseOwner f m v, 0x11, 64, .pf), (.stageFw f m v, 0x12, 16, .pf), (.applyFw f m v, 0x13, 0, .pf),
      (.commitSvn f m v, 0x14, 0, .pf)] → m ≤ 24 → s.writeRow f .HWD_MB_CTRL m 0 [] v = some t →
    u = t.setFld Fld.HWD_MB_CTRL_BUSY m 0 1 →
    (bit v 0 = false → exec c s = .next t) ∧
    (bit v 0 = true → t.flag Fld.HWD_MB_CTRL_BUSY m = true →
      exec c s = .next (t.setFld Fld.HWD_MB_CTRL_OVERRUN m 0 1)) ∧
    (bit v 0 = true → t.flag Fld.HWD_MB_CTRL_BUSY m = false → bits (t.boxWord (heartBox m)) 0 8 = op →
      (u.fld Fld.HWD_STATUS_STATE = 2 → exec c s = .next (u.boxDone (heartBox m) { status := 1 })) ∧
      (u.fld Fld.HWD_STATUS_STATE ≠ 2 → use.allows m = false →
        exec c s = .next (u.boxDone (heartBox m) { status := 3 })) ∧
      (u.fld Fld.HWD_STATUS_STATE ≠ 2 → use.allows m = true → bits (t.boxWord (heartBox m)) 16 16 < len →
        exec c s = .next (u.boxDone (heartBox m) { status := 2 })))) ∧
  (
∀ (s t u : State) (f : Fn) (m v : Nat),
    (∀ fails, Commanded s t u f m v 1 33 .all → exec (.getQuote f m v fails) s = .next
      ((u.getQuote (boxMay m) fails (u.boxBytes (heartBox m) 8 33)).1.boxDone (heartBox m)
        (u.getQuote (boxMay m) fails (u.boxBytes (heartBox m) 8 33)).2)) ∧
    (Commanded s t u f m v 2 10 .all → exec (.getLog f m v) s = .next
      (u.boxDone (heartBox m) (u.getLog (boxMay m) (u.boxBytes (heartBox m) 8 10)).2)) ∧
    (Commanded s t u f m v 3 0 .all → exec (.getCert f m v) s = .next (u.boxDone (heartBox m) certReply)) ∧
    (Commanded s t u f m v 4 1 .all → exec (.getKemKey f m v) s = .next
      (u.boxDone (heartBox m) (u.getKemKey (boxMay m) (u.boxBytes (heartBox m) 8 1)).2)) ∧
    (∀ k, Commanded s t u f m v 10 4 .all → k = le (u.boxBytes (heartBox m) 8 4) 0 4 →
      (1 ≤ k → k ≤ 256 → ∃ bs w, u.randomBytes (ceilDiv k 8) = (bs, w) ∧ (bs.take k).length = k ∧
        exec (.hwdRandom f m v) s = .next (w.boxDone (heartBox m) { data := bs.take k })) ∧
      (k = 0 ∨ 256 < k → exec (.hwdRandom f m v) s = .next (u.boxDone (heartBox m) { status := 2 }))) ∧
    (∀ b p keyId, Commanded s t u f m v 5 1680 .stand → b = u.boxBytes (heartBox m) 8 1680 → keyId = le b 4 2 →
      le b 0 2 = 1 → le b 2 1 = 1 → le b 3 1 = m → le b 8 8 = Config.serial.toNat → (u.stand m).cond = .running → keyId ≠ 0 →
      (u.stand m).hasKey keyId = false → (u.stand m).weightKeys.length < 64 → u.openBlob m b = some p →
      u.standLogFull m = false → ∀ w, w = (u.measureStand m 3 4 keyId (sub b 0 16)).heartEvent 0x3001 (some m) [keyId, 1] →
      exec (.installWeightKey f m v) s = .next (((w.updStand m (fun st => { st with
        weightKeys := st.weightKeys.set keyId p })).updHeart (fun h => { h with
          relaySent := h.relaySent + w.hubOf m })).boxDone (heartBox m) {})) ∧
    (∀ b, Commanded s t u f m v 7 1680 .stand → b = u.boxBytes (heartBox m) 8 1680 →
      le b 0 2 ≠ 1 ∨ le b 2 1 ≠ 2 ∨ le b 3 1 ≠ m ∨ le b 8 8 ≠ Config.serial.toNat →
      exec (.jobTicket f m v) s = .next (u.boxDone (heartBox m) { status := 2 })) ∧
    (∀ b p k key w x, Commanded s t u f m v 7 1680 .stand → b = u.boxBytes (heartBox m) 8 1680 → k = le b 4 2 →
      le b 0 2 = 1 → le b 2 1 = 2 → le b 3 1 = m → le b 8 8 = Config.serial.toNat → (u.stand m).cond = .running → k ≠ 0 →
      (u.stand m).hasKey k = false → (u.stand m).jobKeys.length < 16 → u.openBlob m b = some p → u.standLogFull m = false →
      (le p 8 1).testBit 0 = true → w = (u.measureStand m 3 4 k (sub b 0 16)).heartEvent 0x3001 (some m) [k, 2] →
      w.randomBytes 4 = (key, x) → ∀ j : JobKey, j =
        { jobId := le p 0 8, originator := true, admission := sub p 32 32, key := some key, senders := (1, 2),
          pairs := [(Config.serial.toNat, 1)] } →
      exec (.jobTicket f m v) s = .next (((x.updStand m (fun st =>
        { st with jobKeys := st.jobKeys.set k j })).registerSapway m k).boxDone (heartBox m) {})))

/-- R299, R301, R314, R317-R320: commands about keys, owners and firmware: a key that is installed is removed, unless
a job key is in use; an owner is enrolled in the next slot where there is none; a staged package and a committed SVN
change the fuses' record; an unsigned release or package is refused. -/
def Obligations.HeartState : Prop :=
  ∀ (s t u : State) (f : Fn) (m v : Nat),
    (∀ k, Commanded s t u f m v 6 2 .stand → k = le (u.boxBytes (heartBox m) 8 2) 0 2 → (u.stand m).cond = .running →
      k ≠ 0 → (u.stand m).weightKeys.get? k ≠ none → u.standLogFull m = false → exec (.removeWeightKey f m v) s =
        .next ((((u.updStand m (fun st => { st with weightKeys := st.weightKeys.del k })).measureStand m 3 5 k
          (keyEvent 1 m k)).heartEvent 0x3002 (some m) [k]).boxDone (heartBox m) {})) ∧
    (∀ k j, Commanded s t u f m v 9 2 .stand → k = le (u.boxBytes (heartBox m) 8 2) 0 2 → (u.stand m).cond = .running →
      (u.stand m).jobKeys.get? k = some j → (j.key.isSome = true → u.keyInUse m k j = false) → u.standLogFull m = false →
      exec (.jobRemove f m v) s = .next (((((((j.inbox.toList ++ j.staging.toList).foldl (fun s i => s.revoke i none) u).updStand
        m (fun st => { st with jobKeys := st.jobKeys.del k })).measureStand m 3 5 k (keyEvent 2 m k)).heartEvent 0x3002 (some m)
          [k]).canopyCheck m).boxDone (heartBox m) {})) ∧
    (∀ k port peer nonce kem w x, Commanded s t u f m v 8 40 .stand → k = le (u.boxBytes (heartBox m) 8 40) 0 2 →
      port = le (u.boxBytes (heartBox m) 8 40) 2 1 → peer = sub (u.boxBytes (heartBox m) 8 40) 8 32 → port < 16 →
      peerClean peer = true → (u.stand m).cond = .running → ((u.stand m).jobKeys.get? k).any (fun j => j.key.isNone) = true →
      u.standLogFull m = false → u.randomBytes 4 = (nonce, w) → w.draw = (kem, x) →
      ∀ j : Join, j = { keyId := k, port := port, peer := peer, nonce := nonce, kem := kem.toNat } →
      exec (.jobJoin f m v) s = .next ((x.updStand m (fun st => { st with join := some j })).sendJoin m)) ∧
    (Commanded s t u f m v 0x10 60 .pf →
      (u.fuses.owner = none → u.fuses.owners.length < 8 → exec (.enrolOwner f m v) s = .next (((u.updFuses (fun x => { x with
        owners := x.owners ++ [sub (sha256 (sub (u.boxBytes (heartBox m) 8 60) 0 60)) 0 32] })).showFuses).boxDone
          (heartBox m) {})) ∧
      (u.fuses.owner.isSome = true → exec (.enrolOwner f m v) s = .next (u.boxDone (heartBox m) { status := 0x0B })) ∧
      (u.fuses.owner = none → 8 ≤ u.fuses.owners.length →
        exec (.enrolOwner f m v) s = .next (u.boxDone (heartBox m) { status := 0x0C }))) ∧
    (Commanded s t u f m v 0x11 64 .pf →
      (u.fuses.owner = none → exec (.releaseOwner f m v) s =
        .next ((u.badSignature 0x11 0 m).boxDone (heartBox m) { status := 9 })) ∧
      (∀ k h w, u.fuses.owner = some k → u.fuses.ownerHash = some h → sub (u.boxBytes (heartBox m) 8 64) 0 64 =
          toBytes 8 Config.serial.toNat ++ toBytes 8 (1 + k * 2 ^ 16) ++ zeros 48 → Config.ownerVerify h
          (sub (u.boxBytes (heartBox m) 8 64) 0 64) (u.boxBytes (heartBox m) 72 (bits (u.boxWord (heartBox m)) 16 16 - 64)) = true →
        w = ((((List.range 24).foldl State.releaseReset { u with image := { u.image with replace := none } }).deliver).updFuses
          (fun x => { x with revoked := x.revoked ||| 2 ^ k })).showFuses →
        exec (.releaseOwner f m v) s =
          .next ((State.waitForImage { w.stopOutputs with image := {} }).boxDone (heartBox m) {}))) ∧
    (∀ off len r p, Commanded s t u f m v 0x12 16 .pf → off = le (u.boxBytes (heartBox m) 8 16) 0 8 →
      len = le (u.boxBytes (heartBox m) 8 16) 8 8 → r = firmwareRange (1 - u.fuses.active) → u.phase = .running →
      u.flag Fld.GLB_HDM_STATUS_BACKED = true → len ≠ 0 → len ≤ r.commitAt → off + len ≤ halfStackSize →
      p = u.mem.bytes ((Space.hm (u.fld Fld.GLB_HDM_STATUS_HALF_STACK)).key off) len →
      (Config.fwSigned p = false → exec (.stageFw f m v) s =
        .next ((u.badSignature 0x12 0 m).boxDone (heartBox m) { status := 9 })) ∧
      (Config.fwSigned p = true → Config.fwSvn p < u.fuses.svn →
        exec (.stageFw f m v) s = .next (u.boxDone (heartBox m) { status := 0x0A })) ∧
      (Config.fwSigned p = true → u.fuses.svn ≤ Config.fwSvn p → exec (.stageFw f m v) s =
        .next ((((((u.flashForget r 0 r.size).flashWrite r 0 p).commitRange r len (Config.fwSvn p)).updFuses (fun x => { x with
          staged := some (1 - u.fuses.active) })).showFuses).boxDone (heartBox m) {}))) ∧
    (Commanded s t u f m v 0x13 0 .pf →
      (u.fuses.staged ≠ some (1 - u.fuses.active) →
        exec (.applyFw f m v) s = .next (u.boxDone (heartBox m) { status := 2 })) ∧
      (u.fuses.staged = some (1 - u.fuses.active) → u.heart.log.length < 4096 → exec (.applyFw f m v) s =
        .next (((u.setFld Fld.HWD_STATUS_STATE 0 0 2).retryMs true).boxDone (heartBox m) {}))) ∧
    (Commanded s t u f m v 0x14 0 .pf →
      (u.fuses.staged.isSome = true → exec (.commitSvn f m v) s = .next (u.boxDone (heartBox m) { status := 2 })) ∧
      (u.fuses.staged = none → exec (.commitSvn f m v) s = .next (((u.updFuses (fun x => { x with
        svn := max u.fuses.svn (min 64 (u.fld Fld.HWD_SVN_RUNNING_SVN)) })).showFuses).boxDone (heartBox m) {})))

/-- R297, R305, R316, R319: a join is tried five times in all and then has failed; a join message that is not
Heartwood's own is dropped; the built trees end TRY_LATER; a relay message is accepted once, intact and in order.
Heartwood restarts only when firmware is applied. -/
def Obligations.HeartEvents : Prop :=
  (∀ (s : State) (n : Nat) (x : Join), (s.stand n).join = some x →
    (x.tries < 4 → exec (.joinRetry n) s =
      .next ((s.updStand n (fun st => { st with join := some { x with tries := x.tries + 1 } })).sendJoin n)) ∧
    (4 ≤ x.tries → exec (.joinRetry n) s = .next (((s.updStand n (fun st => { st with join := none })).flagHwd
      Fld.HWD_ERROR_JOIN_FAILED 8 n x.keyId 0x0D).boxDone (heartBox n) { status := 0x0D }))) ∧
  (∀ (s : State) (n : Nat), (s.stand n).join = none → exec (.joinRetry n) s = .next s) ∧
  (∀ (s u : State) (p : Nat) (f : FabFrame), (s.heartReceive p f 1656 = (u, none) → exec (.joinRequest p f) s = .next u) ∧
    (s.heartReceive p f 1720 = (u, none) → exec (.joinResponse p f) s = .next u)) ∧
  (∀ (s u : State) (p : Nat) (f : FabFrame) (t : List Byte), s.heartReceive p f 1720 = (u, some t) →
    (u.joinOf t = none → exec (.joinResponse p f) s = .next u) ∧
    (∀ n x j, u.joinOf t = some (n, x, j) → le t 40 1 = 1 → exec (.joinResponse p f) s =
      .next ((u.updStand n (fun st => { st with join := none })).boxDone (heartBox n) { status := 0x0E })) ∧
    (∀ n x j b k w, u.joinOf t = some (n, x, j) → le t 40 1 ≠ 1 → gcmOpen (joinKey (Config.kemOpen x.kem (sub t 48 1568))
        j.admission j.jobId) (sub t 1616 12) [] (sub t 1632 56) = some b →
      k = { j with key := some (sub b 0 32), senders := (le b 32 2, le b 34 2) } →
      w = (((u.updStand n (fun st => { st with join := none })).updStand n (fun st => { st with
        jobKeys := st.jobKeys.set x.keyId k })).registerSapway n x.keyId).measureStand n 3 6 x.keyId (keyEvent 2 n x.keyId) →
      exec (.joinResponse p f) s = .next ((w.heartEvent 0x3003 (some n) [x.keyId, k.senders.1 + k.senders.2 * 2 ^ 16]).boxDone
        (heartBox n) {}))) ∧
  (∀ (s u : State) (p : Nat) (f : FabFrame) (t : List Byte), s.heartReceive p f 1656 = (u, some t) →
    (∀ n < 24, (u.stand n).cond ≠ .running) → exec (.joinRequest p f) s = .next u) ∧
  (∀ (s u w x : State) (p n keyId i : Nat) (f : FabFrame) (t iv ct ss resp : List Byte) (j : JobKey) (kd : Word),
    s.heartReceive p f 1656 = (u, some t) → (List.range 24).findSome? (fun n => if (u.stand n).cond = .running then
      ((u.stand n).jobKeys.find? (fun e => e.2.originator && e.2.jobId == le t 0 8 &&
        sub (hmac e.2.admission (t.take 1624)) 0 32 == t.drop 1624)).map (fun e => (n, e.1, e.2)) else none) =
          some (n, keyId, j) → u.draw = (kd, w) → w.randomBytes 2 = (iv, x) → j.pairFor (le t 8 8) = some i →
    Config.kemSeal (sub t 56 1568) kd.toNat = (ct, ss) → resp = toBytes 8 (le t 0 8) ++ sub t 24 32 ++ toBytes 8 0 ++
      sub ct 0 1568 ++ iv.take 16 ++ sub (gcmSeal (joinKey ss j.admission (le t 0 8)) (iv.take 12) [] ((j.key.getD []) ++
        toBytes 2 i ++ toBytes 2 (i + 1) ++ zeros 4)) 0 56 →
    exec (.joinRequest p f) s = .next ((x.updStand n (fun st => { st with
      jobKeys := st.jobKeys.set keyId { j with pairs := j.pairs.set (le t 8 8) i } })).heartSend p
        ⟨f.src, f.tag.2, f.tags == 1, (f.udp.map (·.src)).getD 0⟩ (resp ++ sub (hmac j.admission resp) 0 32))) ∧
  (∀ s : State, s.heartRuns = true → NextWith (exec .lmsTreeBuilt s) (fun t => t.heart.trees = true ∧
    (s.fld Fld.HWD_STATUS_STATE ≠ 2 → t.fld Fld.HWD_STATUS_RETRY_MS = 0))) ∧
  (∀ s : State, s.heartRuns = false → exec .lmsTreeBuilt s = .next s) ∧
  (∀ (s : State) (c : Nat), s.heartRuns = true → s.heart.relayLast < c → c ≤ s.heart.relaySent →
    NextWith (exec (.relayMessage c true) s) (fun t => t.heart.relayLast = c ∧ t.fld Fld.HWD_STATUS_RELAY_READY = 1)) ∧
  (∀ (s : State) (c : Nat) (i : Bool), i = false ∨ c ≤ s.heart.relayLast ∨ s.heart.relaySent < c →
    exec (.relayMessage c i) s = .next s) ∧
  (∀ (s : State) (fails : Nat), s.fld Fld.HWD_STATUS_STATE ≠ 2 → exec (.fwRestart fails) s = .next s) ∧
  ∀ (s u w : State) (fails i : Nat) (p : List Byte), s.fld Fld.HWD_STATUS_STATE = 2 → s.fuses.staged = some i →
    s.firmwareOk i = some p → u = ((s.updFuses (fun x => { x with active := i })).updHeart (fun h => { h with
      pmr := h.pmr.set 0 (List.replicate 32 0) })).measurePkg 0 7 0 (Config.fwPart p 0) →
    w = ((((u.setFld Fld.HWD_STATUS_FW_FALLBACK 0 0 0).setFld Fld.HWD_SVN_RUNNING_SVN 0 0 (Config.fwSvn p)).heartEvent 0x3005
      none [Config.fwSvn p, 0]).startLeaves fails) →
    exec (.fwRestart fails) s = .next (((w.setFld Fld.HWD_STATUS_STATE 0 0 1).showFuses).retryMs
      (!w.heart.trees))

/-! The image (16_configuration_image.md) -/

/-- R356-R360: an image command on a target that is unknown or in use, or of LENGTH 0, is BAD_COMMAND; an erased
target has open content; a write lies in its target below the commit sector; a commit of a package slot that passes
its checks writes its record and starts the package in WAITING; one that fails a check completes with its status, and
a cell's commit is answered TRY_LATER while a replacement goes on. -/
def Obligations.ImageCommands : Prop :=
  ∀ (s t u : State) (f : Fn) (v k len : Nat) (r : FlashRange),
    (∀ failed, Configured s t u f v 1 k len r → exec (.imageErase f v failed) s =
      .next ((u.flashForget r 0 r.size).boxDone cfgBox { status := if failed then 0x0C else 0 })) ∧
    (∀ failed, Configured s t u f v 2 k len r → u.writeSource len = none →
      exec (.imageWrite f v failed) s = .next (u.boxDone cfgBox { status := 2 })) ∧
    (∀ failed off bs, Configured s t u f v 2 k len r → u.writeSource len = some (off, bs) →
      (r.commitAt < off + bs.length → exec (.imageWrite f v failed) s = .next (u.boxDone cfgBox { status := 2 })) ∧
      (off + bs.length ≤ r.commitAt → exec (.imageWrite f v failed) s = .next (if failed then
        (u.flashForget r off bs.length).boxDone cfgBox { status := 0x0C } else (u.flashWrite r off bs).boxDone cfgBox {}))) ∧
    (∀ failed, Configured s t u f v 3 k len r → 2 ≤ k → u.image.replace.isSome = true →
      exec (.imageCommit f v failed) s = .next (u.boxDone cfgBox { status := 1 })) ∧
    (∀ failed, Configured s t u f v 3 k len r → k < 2 → u.packageStatus r ≠ 0 → u.packageStatus r ≠ 6 →
      exec (.imageCommit f v failed) s =
        .next ((u.showSlot k (u.packageStatus r)).boxDone cfgBox { status := u.packageStatus r })) ∧
    (∀ w, Configured s t u f v 3 k len r → k < 2 → u.packageStatus r = 0 →
      w = (u.commitImage r (u.imageIn r)).showSlot k 0 → exec (.imageCommit f v false) s =
        .next ((if w.phase = .waiting then w.startImage k else w).boxDone cfgBox {})) ∧
    (∀ failed op (c : Instr), (c, op) ∈ [(Instr.imageErase f v failed, 1), (.imageWrite f v failed, 2),
        (.imageCommit f v failed, 3)] → s.writeRow f .CFG_MB_CTRL 0 0 [] v = some t →
      (bit v 0 = false → exec c s = .next t) ∧
      (bit v 0 = true → t.flag Fld.CFG_MB_CTRL_BUSY 0 = true →
        exec c s = .next (t.setFld Fld.CFG_MB_CTRL_OVERRUN 0 0 1)) ∧
      (bit v 0 = true → t.flag Fld.CFG_MB_CTRL_BUSY 0 = false → bits (t.boxWord cfgBox) 0 8 = op →
        u = t.setFld Fld.CFG_MB_CTRL_BUSY 0 0 1 → targetRange (le (u.boxBytes cfgBox 8 1) 0 1) = none →
        exec c s = .next (u.boxDone cfgBox { status := 2 })))

/-! The host link and its windows (20_host_interface.md) -/

/-- R408, R419, R422, R423: the link trains to a width and a rate it has, narrows, and goes down with the
configuration state of every function; the physical function's reset does the same and keeps the link; a configuration
write takes effect and sends what waited; a session opens once and sets the one key set of both streams, which a
failure ends. -/
def Obligations.HostLink : Prop :=
  (∀ (s : State) (w r : Nat), s.phase = .running ∨ s.phase = .waiting ∨ s.phase = .packageFault ∨
      (∃ k, s.phase = .starting k ∧ 4 ≤ k) → s.pins.perstN = true → w ∈ [4, 8, 16] → r ∈ [8, 16, 32] →
    NextWith (exec (.cxlLinkUp w r) s) (fun t => t.flag Fld.GLB_LINK_STATUS_LINK_UP = true ∧
      t.fld Fld.GLB_LINK_STATUS_WIDTH = w ∧ t.fld Fld.GLB_LINK_STATUS_RATE_GTS = r ∧ t.stands = s.stands)) ∧
  (∀ (s : State) (w r : Nat), s.pins.perstN = false → exec (.cxlLinkUp w r) s = .next s) ∧
  (∀ s : State, s.flag Fld.GLB_LINK_STATUS_LINK_UP = true → NextWith (exec .cxlLinkDown s) (fun t =>
    t.flag Fld.GLB_LINK_STATUS_LINK_UP = false ∧ t.host.busMaster = 0 ∧ t.host.vfEnable = false ∧ t.host.session = false ∧
    t.host.ideKeys = none ∧ t.host.msixPending = [] ∧ t.stands = s.stands ∧ t.mem = s.mem)) ∧
  (∀ s : State, s.flag Fld.GLB_LINK_STATUS_LINK_UP = false → exec .cxlLinkDown s = .next s ∧ exec .pfFlr s = .next s) ∧
  (∀ s : State, s.flag Fld.GLB_LINK_STATUS_LINK_UP = true → NextWith (exec .pfFlr s) (fun t => t.host.busMaster = 0 ∧
    t.host.vfEnable = false ∧ t.host.numVfs = 0 ∧ t.host.hdmDecoder = false ∧ t.regs = s.regs ∧ t.stands = s.stands)) ∧
  (∀ (s : State) (w : Nat), s.flag Fld.GLB_LINK_STATUS_LINK_UP = true → w = 8 ∨ w = 4 →
    (w < s.fld Fld.GLB_LINK_STATUS_WIDTH → exec (.hostLinkDegraded w) s =
      .next ((s.setFld Fld.GLB_LINK_STATUS_WIDTH 0 0 w).event ⟨0x0402, none, 6, 43, [2, w]⟩)) ∧
    (s.fld Fld.GLB_LINK_STATUS_WIDTH ≤ w → exec (.hostLinkDegraded w) s = .next s)) ∧
  (∀ (s : State) (f : Fn) (on : Bool) (k : Nat), s.flag Fld.GLB_LINK_STATUS_LINK_UP = true →
    (s.fnExists f = true → exec (.busMasterEnableWrite (.busMaster f on)) s = .next (State.msixFlush { s with
      host := { s.host with busMaster := if on then s.host.busMaster ||| 2 ^ fnNum f else
        s.host.busMaster &&& (2 ^ 25 - 1 - 2 ^ fnNum f) } })) ∧
    (exec (.busMasterEnableWrite (.vfEnable false)) s = .next (State.msixFlush { s with
      host := { s.host with vfEnable := false, busMaster := s.host.busMaster &&& 2 ^ 24, ats := 0 } })) ∧
    (s.host.vfEnable = false → k ≤ 24 → exec (.busMasterEnableWrite (.numVfs k)) s =
      .next (State.msixFlush { s with host := { s.host with numVfs := k } })) ∧
    (s.host.vfEnable = true ∨ 24 < k → exec (.busMasterEnableWrite (.numVfs k)) s = .next s.msixFlush)) ∧
  (∀ s : State, s.flag Fld.GLB_LINK_STATUS_LINK_UP = true → s.host.session = false →
    exec (.pskExchange true) s = .next { s with host := { s.host with session := true } } ∧
    exec (.pskExchange false) s = .next s) ∧
  (∀ (s : State) (keys : List Byte) (io cm : Bool), s.host.session = true → s.flag Fld.GLB_LINK_STATUS_LINK_UP = true →
    NextWith (exec (.ideKm keys io cm) s) (fun t => t.host.ideKeys = some keys ∧ t.flag Fld.GLB_LINK_STATUS_IDE_IO = io ∧
      t.flag Fld.GLB_LINK_STATUS_IDE_CM = cm)) ∧
  (∀ (s : State) (keys : List Byte) (io cm : Bool), s.host.session = false → exec (.ideKm keys io cm) s = .next s) ∧
  (∀ s : State, s.flag Fld.GLB_LINK_STATUS_IDE_IO = true → exec (.ideIntegrityFailure true) s =
    .next ((s.setFld Fld.GLB_LINK_STATUS_IDE_IO 0 0 0).event ⟨0x0401, none, 6, 43, [2]⟩)) ∧
  ∀ s : State, s.flag Fld.GLB_LINK_STATUS_IDE_CM = true → exec (.ideIntegrityFailure false) s =
    .next ((s.setFld Fld.GLB_LINK_STATUS_IDE_CM 0 0 0).event ⟨0x0401, none, 6, 43, [2]⟩)

/-- R411, R414-R417: a doorbell of an open window sets a tail or a head within its queue, and one out of range is
counted; the aperture reads and writes the stand; a copy command is checked whole and then moves its units in order
until one cannot be; the staging window reads and writes its half-stack, and without one reads poison. -/
def Obligations.HostWindows : Prop :=
  (∀ (s : State) (n q v : Nat), s.windowOpen n = true → q < 16 →
    (s.flag Fld.SCH_SQ_BASE_ENABLE n q = true → s.flag Fld.SCH_SQ_BASE_TAIL_SOURCE n q = false →
      v % 2 ^ 16 < 2 ^ s.fld Fld.SCH_SQ_BASE_SIZE_LOG2 n q → exec (.qwDoorbellWrite n (0x1000 + 16 * q) v) s =
        .next (s.setFld Fld.SCH_SQ_TAIL_INDEX n q (v % 2 ^ 16))) ∧
    (s.flag Fld.SCH_SQ_BASE_ENABLE n q = false ∨ s.flag Fld.SCH_SQ_BASE_TAIL_SOURCE n q = true ∨
      2 ^ s.fld Fld.SCH_SQ_BASE_SIZE_LOG2 n q ≤ v % 2 ^ 16 →
        exec (.qwDoorbellWrite n (0x1000 + 16 * q) v) s = .next (s.badDoorbell n)) ∧
    (v % 2 ^ 20 < 2 ^ s.fld Fld.SCH_CQ_BASE_SIZE_LOG2 n q → exec (.qwDoorbellWrite n (0x1008 + 16 * q) v) s =
      .next ((s.setFld Fld.SCH_CQ_HEAD_INDEX n q (v % 2 ^ 20)).cqFlush n q)) ∧
    (2 ^ s.fld Fld.SCH_CQ_BASE_SIZE_LOG2 n q ≤ v % 2 ^ 20 → exec (.qwDoorbellWrite n (0x1008 + 16 * q) v) s =
      .next (s.badDoorbell n))) ∧
  (∀ (s : State) (n off v : Nat), s.windowOpen n = false → exec (.qwDoorbellWrite n off v) s = .next s) ∧
  (∀ (s : State) (n off : Nat) (bs : List Byte), s.windowOpen n = true → apertureAccess off bs.length = true →
    exec (.apertureWrite n off bs) s = .next (s.standWrite n (s.apertureAddr n off) bs)) ∧
  (∀ (s : State) (n off : Nat) (bs : List Byte), s.windowOpen n = false ∨ apertureAccess off bs.length = false →
    exec (.apertureWrite n off bs) s = .next s) ∧
  (∀ (s : State) (n off len : Nat) (late : Bool),
    (s.windowOpen n = false → exec (.apertureRead n off len late) s = .next (s.complete 0 false)) ∧
    (s.windowOpen n = true → apertureAccess off len = false ∨ late = true →
      exec (.apertureRead n off len late) s = .next (s.complete (2 ^ (8 * len) - 1) false)) ∧
    (s.windowOpen n = true → apertureAccess off len = true → late = false →
      (s.writableRange n (s.apertureAddr n off) len = false → exec (.apertureRead n off len late) s =
        .next ((s.flagUnmapped n (s.apertureAddr n off)).complete 0 false)) ∧
      (∀ bs t, s.writableRange n (s.apertureAddr n off) len = true → s.standRead n (s.apertureAddr n off) len = (.ok bs, t) →
        exec (.apertureRead n off len late) s = .next (t.complete (ofBytes bs) false)) ∧
      (∀ t, s.writableRange n (s.apertureAddr n off) len = true → s.standRead n (s.apertureAddr n off) len = (.poisoned, t) →
        exec (.apertureRead n off len late) s = .next (t.complete 0 true)))) ∧
  (∀ (s : State) (n op : Nat) (e : List Byte) (units : List HostRead) (c : Instr) (r : State × Nat),
    s.copyReady n = true → le e 0 1 = op → (c, op, r) ∈ [
      (Instr.copyIn n e units, 1, s.copyInUnits n (le e 16 6) (hostUnits (le e 4 4 / 64) units)),
      (.copyOut n e, 2, s.copyOutUnits n (le e 4 4 / 64) (le e 16 6) (le e 8 6))] →
    (s.copyBad n e = true → exec c s = .next (s.copyResult n 1)) ∧
    (s.copyBad n e = false → exec c s = .next (r.1.copyResult n r.2))) ∧
  (∀ (s : State) (n : Nat) (e : List Byte) (units : List HostRead), s.copyReady n = false →
    exec (.copyIn n e units) s = .next s ∧ exec (.copyOut n e) s = .next s) ∧
  (∀ (s : State) (n a : Nat) (bs : List Byte) (rest : List HostRead),
    (s.writableRange n a 64 = false → s.copyInUnits n a (.data bs :: rest) = (s.flagUnmapped n a, 2)) ∧
    (s.writableRange n a 64 = true → s.copyInUnits n a (.error :: rest) = (s, 4)) ∧
    (s.writableRange n a 64 = true →
      s.copyInUnits n a (.data bs :: rest) = (s.putBytes n a (sub bs 0 64)).copyInUnits n (a + 64) rest)) ∧
  (∀ (s : State) (off len k : Nat) (bs : List Byte), s.phase = .running → s.flag Fld.GLB_LINK_STATUS_LINK_UP = true →
    (s.hdmKey off = some k → exec (.hdmAccess off len bs true) s = .next { s with mem := s.mem.putList k bs } ∧
      exec (.hdmAccess off len bs false) s = .next (s.complete (ofBytes (s.mem.bytes k len)) false)) ∧
    (s.hdmKey off = none → exec (.hdmAccess off len bs true) s = .next s ∧
      exec (.hdmAccess off len bs false) s = .next (s.complete 0 true))) ∧
  ∀ (s : State) (off len : Nat) (bs : List Byte) (w : Bool), s.phase ≠ .running →
    exec (.hdmAccess off len bs w) s = .next s

/-! Management (21_address_map.md) -/

/-- R427-R429, Table 21.3: a target without an address takes the one it is given, by its identity or its static
address; the endpoint answers each message with its status and data, and Heartwood's commands as its mailbox would, or
with the reason why not; an absent endpoint answers nothing. -/
def Obligations.Management : Prop :=
  (∀ (s : State) (a : Nat), s.mgmt.i3cAddr = none → a < 128 →
    exec (.entdaa a) s = .next { s with mgmt := { s.mgmt with i3cAddr := some a, sentId := provisionalId } } ∧
    exec (.setdasa 0x3A a) s = .next { s with mgmt := { s.mgmt with i3cAddr := some a } }) ∧
  (∀ (s : State) (x a : Nat), s.mgmt.i3cAddr.isSome = true → exec (.entdaa a) s = .next s ∧
    exec (.setdasa x a) s = .next s) ∧
  (∀ (s : State) (x a : Nat), x ≠ 0x3A → exec (.setdasa x a) s = .next s) ∧
  (∀ s : State, s.endpoint = true →
    NextWith (exec .health s) (fun t => t.mgmt.response = mctpReply (if s.phase = .rom then 0x20 else 0) 0
      (healthRegs.flatMap (fun x => toBytes 8 (s.regRead x.1 x.2.1 x.2.2))) ∧ t.regs = s.regs) ∧
    NextWith (exec .getEndpointId s) (fun t => t.mgmt.response = toBytes 1 0 ++ toBytes 1 s.mgmt.eid ++ toBytes 2 0) ∧
    (∀ op eid, op < 2 → 8 ≤ eid → eid ≤ 254 → NextWith (exec (.setEndpointId op eid) s) (fun t => t.mgmt.eid = eid ∧
      t.mgmt.response = toBytes 1 0 ++ toBytes 1 0 ++ toBytes 1 eid ++ toBytes 1 0)) ∧
    (∀ op eid, 2 ≤ op ∨ eid < 8 ∨ 254 < eid → NextWith (exec (.setEndpointId op eid) s) (fun t => t.mgmt.eid = s.mgmt.eid ∧
      t.mgmt.response.head? = some 2)) ∧
    NextWith (exec .getMessageTypeSupport s) (fun t => t.mgmt.response = [0x00, 0x01, 0x7E]) ∧
    (∀ type, NextWith (exec (.getMctpVersionSupport type) s) (fun t => t.mgmt.response =
      if type = 0xFF ∨ type = 0x00 ∨ type = 0x7E then [0x00, 0x01, 0xF1, 0xF3, 0xF1, 0x00] else [0x80])) ∧
    (∀ k, NextWith (exec (.getVendorMessageSupport k) s) (fun t => t.mgmt.response =
      if k = 0 then [0x00, 0xFF, 0x00] ++ toBytesBE 2 Config.vendorId.toNat ++ [0x00, 0x00] else [0x02])) ∧
    (s.phase ≠ .rom → s.phase ≠ .packageFault → NextWith (exec .vidApplied s) (fun t =>
      t.flag Fld.PWR_VID_APPLIED = true ∧ t.mgmt.response = mctpReply 0 0 [])) ∧
    (s.phase = .rom → NextWith (exec .vidApplied s) (fun t => t.mgmt.response = mctpReply 0x20 0 [] ∧ t.regs = s.regs)) ∧
    (s.phase = .running → s.fld Fld.HWD_STATUS_STATE ≠ 2 → ∀ (w : Word) (u : State), s.draw = (w, u) →
      (∀ (args : List Byte) (fails : Nat), 33 ≤ args.length → exec (.mctpGetQuote args fails) s =
        .next ((u.getQuote (fun _ => true) fails args).1.mctpRespond (mctpReply (u.getQuote (fun _ => true) fails args).2.status
          (if (u.getQuote (fun _ => true) fails args).2.status = 1 then 1 + w.toNat % 65535 else 0)
          (u.getQuote (fun _ => true) fails args).2.data))) ∧
      (∀ args : List Byte, 10 ≤ args.length → exec (.mctpGetLog args) s =
        .next (u.mctpRespond (mctpReply (u.getLog (fun _ => true) args).2.status
          (if (u.getLog (fun _ => true) args).2.status = 1 then 1 + w.toNat % 65535 else 0)
          (u.getLog (fun _ => true) args).2.data))) ∧
      (∀ args : List Byte, 1 ≤ args.length → exec (.mctpGetKemKey args) s =
        .next (u.mctpRespond (mctpReply (u.getKemKey (fun _ => true) args).2.status
          (if (u.getKemKey (fun _ => true) args).2.status = 1 then 1 + w.toNat % 65535 else 0)
          (u.getKemKey (fun _ => true) args).2.data))) ∧
      exec .mctpGetCert s = .next (u.mctpRespond (mctpReply 0 0 certReply.data)))) ∧
  ∀ (s : State) (args : List Byte) (fails op eid k : Nat), s.endpoint = false → ∀ c ∈ [Instr.health, .vidApplied,
    .getEndpointId, .getMessageTypeSupport, .setEndpointId op eid, .getMctpVersionSupport k, .getVendorMessageSupport k,
    .mctpGetQuote args fails, .mctpGetLog args, .mctpGetCert, .mctpGetKemKey args],
    NextWith (exec c s) (fun t => t.mgmt = s.mgmt ∧ t.mem = s.mem ∧ t.stands = s.stands)

/-- R430, R431: the test-mode instructions take effect only while RST_N is low; one updated while RST_N is high acts
as BYPASS, and the next capture reads 1 in bit 7 and 01 in bits [1:0]. A package that leaves reset under one stays in
reset until Test-Logic-Reset, and then starts from step 1. No instruction of the chain reaches a register, a memory or
a key; IDCODE, SAMPLE/PRELOAD and BYPASS select their registers and leave the lands to the device. -/
def Obligations.BoundaryScan : Prop :=
  (∀ (s : State) (c : Instr) (code : Nat) (drive : LandDrive),
    (c, code, drive) ∈ [(Instr.extest, 3, LandDrive.boundary), (.extestPulse, 4, .boundary), (.extestTrain, 5, .boundary),
      (.clamp, 6, .boundary), (.highz, 7, .highZ)] →
    (s.pins.rstN = false → NextWith (exec c s) (fun t => t.mgmt.tapInstr = code ∧ t.mgmt.lands = drive ∧
      t.mgmt.tapRefused = false ∧ t.mgmt.tapData = s.mgmt.boundary)) ∧
    (s.pins.rstN = true → NextWith (exec c s) (fun t => t.mgmt.tapInstr = 0xFF ∧ t.mgmt.lands = .functional ∧
      t.mgmt.tapRefused = true ∧ t.mgmt.tapData = 0))) ∧
  (∀ s : State, NextWith (exec .idcode s) (fun t => t.mgmt.tapInstr = 1 ∧ t.mgmt.tapData = idcodeValue ∧
    t.mgmt.lands = .functional)) ∧
  (∀ (s : State) (x y : Nat), NextWith (exec (.samplePreload x y) s) (fun t => t.mgmt.tapInstr = 2 ∧ t.mgmt.tapData = x ∧
    t.mgmt.boundary = y ∧ t.mgmt.lands = .functional)) ∧
  (∀ s : State, NextWith (exec .bypass s) (fun t => t.mgmt.tapInstr = 0xFF ∧ t.mgmt.tapData = 0 ∧ t.mgmt.lands = .functional ∧
    t.mgmt.boundary = s.mgmt.boundary)) ∧
  (∀ (s : State) (c : Instr) (x y : Nat), c ∈ [Instr.idcode, .bypass, .samplePreload x y, .extest, .extestPulse, .extestTrain,
      .clamp, .highz] →
    NextWith (exec c s) (fun t => t.mgmt.tapCapture = 1 + (if s.mgmt.tapRefused then 128 else 0) ∧ t.regs = s.regs ∧
      t.mem = s.mem ∧ t.stands = s.stands ∧ t.heart = s.heart ∧ t.fuses = s.fuses ∧ t.phase = s.phase)) ∧
  (∀ (s : State) (fails : Nat), s.phase = .held → s.mgmt.lands ≠ .functional → NextWith (exec (.resetRelease fails) s)
    (fun t => t.phase = .tapHeld ∧ t.regs = s.regs ∧ t.mgmt = s.mgmt)) ∧
  ∀ (s : State) (fails : Nat), s.phase = .tapHeld → exec (.testLogicReset fails) s = .next (State.powerUp { s with mgmt :=
    { s.mgmt with tapInstr := 1, tapRefused := false, tapData := idcodeValue, lands := .functional } } fails)

/-! Error registers (03_matrix_cores.md R81, which the other error registers follow) -/

/-- R81: MXC_ERROR_INFO captures the context of an error only while every bit of MXC_ERROR is 0; an error that arrives
while any bit is set changes MXC_ERROR alone; clearing all its bits re-arms the capture. -/
def Obligations.ErrorContext : Prop :=
  (∀ (s : State) (c op wsd : Nat) (st : Step), ∀ f ∈ Reg.MXC_ERROR.fields,
    (s.reg .MXC_ERROR c 0 = 0 → (s.flagMxc f c st op wsd).reg .MXC_ERROR_INFO c 0 =
      (op % 2 ^ 16 + wsd % 2 ^ 16 * 2 ^ 16 + st.model * 2 ^ 32 + st.layers % 256 * 2 ^ 35) % 2 ^ 64) ∧
    (s.reg .MXC_ERROR c 0 ≠ 0 → s.flagMxc f c st op wsd = s.setFld f c 0 1) ∧
    (s.flagMxc f c st op wsd).fld f c = 1) ∧
  ∀ (s : State) (f : Fn) (c : Nat), c < 96 → s.right f .MXC_ERROR c 0 = .clear →
    s.reg .MXC_ERROR c 0 < 16 → regAt (Reg.MXC_ERROR.addr c 0) 4 = some (.MXC_ERROR, c, 0) →
    NextWith (exec (.registerWrite f (Reg.MXC_ERROR.addr c 0) 4 (s.reg .MXC_ERROR c 0)) s) (fun t =>
      t.reg .MXC_ERROR c 0 = 0 ∧ t.reg .MXC_ERROR_INFO c 0 = s.reg .MXC_ERROR_INFO c 0 ∧ t.mem = s.mem)
end

