-- ==== Sys2Proof/Laws/Bits.lean ====
section
/-! SUPPORT. Bit fields, byte strings and sparse tables: what a read answers after a write. -/

namespace Sys2Proof.Machine

open Sys2Proof

/-! Bit fields -/

theorem bits_lt (x lo w : Nat) : bits x lo w < 2 ^ w := Nat.mod_lt _ (Nat.two_pow_pos w)

/-- A number as what lies above a field, the field, and what lies below it. -/
theorem bits_split (x lo w : Nat) : x = x / 2 ^ (lo + w) * 2 ^ (lo + w) + (bits x lo w * 2 ^ lo + x % 2 ^ lo) := by
  have h1 := Nat.div_add_mod x (2 ^ lo)
  have h2 := Nat.div_add_mod (x / 2 ^ lo) (2 ^ w)
  rw [Nat.div_div_eq_div_mul, ← Nat.pow_add] at h2
  unfold bits
  generalize x / 2 ^ lo % 2 ^ w = b at *
  generalize x % 2 ^ lo = c at *
  generalize x / 2 ^ (lo + w) = a at *
  rw [← h1, ← h2, Nat.pow_add]
  grind

theorem bits_mul_le (x lo w : Nat) : bits x lo w * 2 ^ lo ≤ x := by
  have := bits_split x lo w
  omega

theorem setBits_split (x lo w v : Nat) :
    setBits x lo w v = x / 2 ^ (lo + w) * 2 ^ (lo + w) + (v % 2 ^ w * 2 ^ lo + x % 2 ^ lo) := by
  have h := bits_split x lo w
  unfold setBits
  omega

theorem field_lt {a c lo w : Nat} (ha : a < 2 ^ w) (hc : c < 2 ^ lo) : a * 2 ^ lo + c < 2 ^ (lo + w) := by
  have := Nat.mul_le_mul_right (2 ^ lo) (Nat.succ_le_of_lt ha)
  rw [Nat.succ_mul, ← Nat.pow_add, Nat.add_comm w lo] at this
  omega

/-- A field just set reads as the value, cut to the field's width. -/
theorem bits_setBits_self (x lo w v : Nat) : bits (setBits x lo w v) lo w = v % 2 ^ w := by
  rw [setBits_split, bits, Nat.pow_add]
  generalize x / (2 ^ lo * 2 ^ w) = a
  have hc := Nat.mod_lt x (Nat.two_pow_pos lo)
  have hv := Nat.mod_lt v (Nat.two_pow_pos w)
  generalize x % 2 ^ lo = c at *
  generalize v % 2 ^ w = b at *
  have e : a * (2 ^ lo * 2 ^ w) + (b * 2 ^ lo + c) = c + 2 ^ lo * (b + 2 ^ w * a) := by grind
  rw [e, Nat.add_mul_div_left _ _ (Nat.two_pow_pos lo), Nat.div_eq_of_lt hc, Nat.zero_add, Nat.add_mul_mod_self_left,
    Nat.mod_eq_of_lt hv]

/-- A field above the one that is set keeps its value. -/
theorem bits_setBits_above {x lo w v lo' w' : Nat} (h : lo + w ≤ lo') :
    bits (setBits x lo w v) lo' w' = bits x lo' w' := by
  obtain ⟨d, rfl⟩ := Nat.exists_eq_add_of_le h
  have e : setBits x lo w v / 2 ^ (lo + w) = x / 2 ^ (lo + w) := by
    rw [setBits_split, Nat.add_comm, Nat.add_mul_div_right _ _ (Nat.two_pow_pos _),
      Nat.div_eq_of_lt (field_lt (Nat.mod_lt _ (Nat.two_pow_pos w)) (Nat.mod_lt _ (Nat.two_pow_pos lo))), Nat.zero_add]
  simp only [bits, Nat.pow_add _ (lo + w) d, ← Nat.div_div_eq_div_mul, e]

/-- A field below the one that is set keeps its value. -/
theorem bits_setBits_below {x lo w v lo' w' : Nat} (h : lo' + w' ≤ lo) :
    bits (setBits x lo w v) lo' w' = bits x lo' w' := by
  have key : ∀ y : Nat, bits y lo' w' = bits (y % 2 ^ lo) lo' w' := by
    intro y
    obtain ⟨d, rfl⟩ := Nat.exists_eq_add_of_le h
    have e := Nat.div_add_mod y (2 ^ (lo' + w' + d))
    conv => lhs; rw [← e]
    simp only [bits]
    rw [Nat.pow_add, Nat.pow_add, Nat.mul_assoc, Nat.mul_assoc, Nat.add_comm, Nat.add_mul_div_left _ _ (Nat.two_pow_pos _),
      Nat.mul_assoc, Nat.add_mul_mod_self_left]
  rw [key, key x, setBits_split, Nat.pow_add]
  congr 1
  have e : x / (2 ^ lo * 2 ^ w) * (2 ^ lo * 2 ^ w) + (v % 2 ^ w * 2 ^ lo + x % 2 ^ lo) =
      x % 2 ^ lo + 2 ^ lo * (x / (2 ^ lo * 2 ^ w) * 2 ^ w + v % 2 ^ w) := by grind
  rw [e, Nat.add_mul_mod_self_left, Nat.mod_mod]

/-! Sparse tables -/

theorem SMap.get?_set {α : Type} (m : SMap α) (i j : Nat) (x : α) :
    (m.set i x).get? j = if j = i then some x else m.get? j := by
  induction m with
  | nil => simp only [SMap.set, SMap.get?]; grind
  | cons a t ih =>
    obtain ⟨k, v⟩ := a
    simp only [SMap.set]
    split
    · simp only [SMap.get?]; grind
    · split
      · simp only [SMap.get?]; grind
      · simp only [SMap.get?, ih]; grind

@[simp] theorem SMap.get?_set_self {α : Type} (m : SMap α) (i : Nat) (x : α) : (m.set i x).get? i = some x := by
  simp [SMap.get?_set]

theorem SMap.get?_set_ne {α : Type} (m : SMap α) {i j : Nat} (x : α) (h : j ≠ i) : (m.set i x).get? j = m.get? j := by
  simp [SMap.get?_set, h]

@[simp] theorem SMap.set_set {α : Type} (m : SMap α) (i : Nat) (x y : α) : (m.set i x).set i y = m.set i y := by
  induction m with
  | nil => simp [SMap.set]
  | cons a t ih =>
    obtain ⟨k, v⟩ := a
    simp only [SMap.set]
    split
    · simp [SMap.set]
    · split
      · simp [SMap.set]
      · simp [SMap.set, *]

theorem SMap.get?_del {α : Type} (m : SMap α) (i j : Nat) : (m.del i).get? j = if j = i then none else m.get? j := by
  induction m with
  | nil => simp [SMap.del, SMap.get?]
  | cons a t ih =>
    obtain ⟨k, v⟩ := a
    simp only [SMap.del] at ih
    simp only [SMap.del, List.filter_cons]
    by_cases hk : k = i
    · simp only [hk, bne_self_eq_false, Bool.false_eq_true, if_false, ih, SMap.get?]; grind
    · simp only [bne_iff_ne, ne_eq, hk, not_false_eq_true, if_true, SMap.get?, ih]; grind

/-! Byte strings -/

@[simp] theorem length_toBytes (n x : Nat) : (toBytes n x).length = n := by
  induction n generalizing x with
  | zero => rfl
  | succ n ih => simp [toBytes, ih]

/-- The number that the little-endian bytes of a number spell. -/
theorem ofBytes_toBytes (n x : Nat) : ofBytes (toBytes n x) = x % 256 ^ n := by
  induction n generalizing x with
  | zero => simp [toBytes, ofBytes, Nat.mod_one]
  | succ n ih =>
    rw [toBytes, ofBytes, ih, BitVec.toNat_ofNat, Nat.pow_succ' (m := 256), Nat.mod_mul]

end Sys2Proof.Machine
end

