-- ==== Sys2Proof/Laws/State.lean ====
section
/-! SUPPORT. One lemma for each field of the state and each named update of one component; and what registers, stands and
the other keyed components read as after an update. -/

namespace Sys2Proof.Machine

open Sys2Proof

/-! `State.setReg` changes `regs` alone -/

@[simp] theorem State.setReg_pending (s : State) (r : Reg) (i j v : Nat) : (s.setReg r i j v).pending = s.pending := rfl
@[simp] theorem State.setReg_freeCtr (s : State) (r : Reg) (i j v : Nat) : (s.setReg r i j v).freeCtr = s.freeCtr := rfl
@[simp] theorem State.setReg_timeNs (s : State) (r : Reg) (i j v : Nat) : (s.setReg r i j v).timeNs = s.timeNs := rfl
@[simp] theorem State.setReg_phase (s : State) (r : Reg) (i j v : Nat) : (s.setReg r i j v).phase = s.phase := rfl
@[simp] theorem State.setReg_pins (s : State) (r : Reg) (i j v : Nat) : (s.setReg r i j v).pins = s.pins := rfl
@[simp] theorem State.setReg_mem (s : State) (r : Reg) (i j v : Nat) : (s.setReg r i j v).mem = s.mem := rfl
@[simp] theorem State.setReg_laps (s : State) (r : Reg) (i j v : Nat) : (s.setReg r i j v).laps = s.laps := rfl
@[simp] theorem State.setReg_recorder (s : State) (r : Reg) (i j v : Nat) : (s.setReg r i j v).recorder = s.recorder := rfl
@[simp] theorem State.setReg_swyWaiting (s : State) (r : Reg) (i j v : Nat) : (s.setReg r i j v).swyWaiting = s.swyWaiting := rfl
@[simp] theorem State.setReg_host (s : State) (r : Reg) (i j v : Nat) : (s.setReg r i j v).host = s.host := rfl
@[simp] theorem State.setReg_mgmt (s : State) (r : Reg) (i j v : Nat) : (s.setReg r i j v).mgmt = s.mgmt := rfl
@[simp] theorem State.setReg_modules (s : State) (r : Reg) (i j v : Nat) : (s.setReg r i j v).modules = s.modules := rfl
@[simp] theorem State.setReg_cores (s : State) (r : Reg) (i j v : Nat) : (s.setReg r i j v).cores = s.cores := rfl
@[simp] theorem State.setReg_taskCount (s : State) (r : Reg) (i j v : Nat) : (s.setReg r i j v).taskCount = s.taskCount := rfl
@[simp] theorem State.setReg_search (s : State) (r : Reg) (i j v : Nat) : (s.setReg r i j v).search = s.search := rfl
@[simp] theorem State.setReg_searchResults (s : State) (r : Reg) (i j v : Nat) : (s.setReg r i j v).searchResults = s.searchResults := rfl
@[simp] theorem State.setReg_ports (s : State) (r : Reg) (i j v : Nat) : (s.setReg r i j v).ports = s.ports := rfl
@[simp] theorem State.setReg_hubs (s : State) (r : Reg) (i j v : Nat) : (s.setReg r i j v).hubs = s.hubs := rfl
@[simp] theorem State.setReg_arbs (s : State) (r : Reg) (i j v : Nat) : (s.setReg r i j v).arbs = s.arbs := rfl
@[simp] theorem State.setReg_conns (s : State) (r : Reg) (i j v : Nat) : (s.setReg r i j v).conns = s.conns := rfl
@[simp] theorem State.setReg_connPast (s : State) (r : Reg) (i j v : Nat) : (s.setReg r i j v).connPast = s.connPast := rfl
@[simp] theorem State.setReg_regions (s : State) (r : Reg) (i j v : Nat) : (s.setReg r i j v).regions = s.regions := rfl
@[simp] theorem State.setReg_packs (s : State) (r : Reg) (i j v : Nat) : (s.setReg r i j v).packs = s.packs := rfl
@[simp] theorem State.setReg_fabDone (s : State) (r : Reg) (i j v : Nat) : (s.setReg r i j v).fabDone = s.fabDone := rfl
@[simp] theorem State.setReg_records (s : State) (r : Reg) (i j v : Nat) : (s.setReg r i j v).records = s.records := rfl
@[simp] theorem State.setReg_members (s : State) (r : Reg) (i j v : Nat) : (s.setReg r i j v).members = s.members := rfl
@[simp] theorem State.setReg_comps (s : State) (r : Reg) (i j v : Nat) : (s.setReg r i j v).comps = s.comps := rfl
@[simp] theorem State.setReg_groups (s : State) (r : Reg) (i j v : Nat) : (s.setReg r i j v).groups = s.groups := rfl
@[simp] theorem State.setReg_fuses (s : State) (r : Reg) (i j v : Nat) : (s.setReg r i j v).fuses = s.fuses := rfl
@[simp] theorem State.setReg_heart (s : State) (r : Reg) (i j v : Nat) : (s.setReg r i j v).heart = s.heart := rfl
@[simp] theorem State.setReg_image (s : State) (r : Reg) (i j v : Nat) : (s.setReg r i j v).image = s.image := rfl
@[simp] theorem State.setReg_tests (s : State) (r : Reg) (i j v : Nat) : (s.setReg r i j v).tests = s.tests := rfl
@[simp] theorem State.setReg_power (s : State) (r : Reg) (i j v : Nat) : (s.setReg r i j v).power = s.power := rfl
@[simp] theorem State.setReg_calDue (s : State) (r : Reg) (i j v : Nat) : (s.setReg r i j v).calDue = s.calDue := rfl
@[simp] theorem State.setReg_calFailed (s : State) (r : Reg) (i j v : Nat) : (s.setReg r i j v).calFailed = s.calFailed := rfl
@[simp] theorem State.setReg_calMissing (s : State) (r : Reg) (i j v : Nat) : (s.setReg r i j v).calMissing = s.calMissing := rfl
@[simp] theorem State.setReg_sequencersOut (s : State) (r : Reg) (i j v : Nat) : (s.setReg r i j v).sequencersOut = s.sequencersOut := rfl
@[simp] theorem State.setReg_stands (s : State) (r : Reg) (i j v : Nat) : (s.setReg r i j v).stands = s.stands := rfl

/-! `State.setFld` changes `regs` alone -/

@[simp] theorem State.setFld_pending (s : State) (f : Field) (i j v : Nat) : (s.setFld f i j v).pending = s.pending := rfl
@[simp] theorem State.setFld_freeCtr (s : State) (f : Field) (i j v : Nat) : (s.setFld f i j v).freeCtr = s.freeCtr := rfl
@[simp] theorem State.setFld_timeNs (s : State) (f : Field) (i j v : Nat) : (s.setFld f i j v).timeNs = s.timeNs := rfl
@[simp] theorem State.setFld_phase (s : State) (f : Field) (i j v : Nat) : (s.setFld f i j v).phase = s.phase := rfl
@[simp] theorem State.setFld_pins (s : State) (f : Field) (i j v : Nat) : (s.setFld f i j v).pins = s.pins := rfl
@[simp] theorem State.setFld_mem (s : State) (f : Field) (i j v : Nat) : (s.setFld f i j v).mem = s.mem := rfl
@[simp] theorem State.setFld_laps (s : State) (f : Field) (i j v : Nat) : (s.setFld f i j v).laps = s.laps := rfl
@[simp] theorem State.setFld_recorder (s : State) (f : Field) (i j v : Nat) : (s.setFld f i j v).recorder = s.recorder := rfl
@[simp] theorem State.setFld_swyWaiting (s : State) (f : Field) (i j v : Nat) : (s.setFld f i j v).swyWaiting = s.swyWaiting := rfl
@[simp] theorem State.setFld_host (s : State) (f : Field) (i j v : Nat) : (s.setFld f i j v).host = s.host := rfl
@[simp] theorem State.setFld_mgmt (s : State) (f : Field) (i j v : Nat) : (s.setFld f i j v).mgmt = s.mgmt := rfl
@[simp] theorem State.setFld_modules (s : State) (f : Field) (i j v : Nat) : (s.setFld f i j v).modules = s.modules := rfl
@[simp] theorem State.setFld_cores (s : State) (f : Field) (i j v : Nat) : (s.setFld f i j v).cores = s.cores := rfl
@[simp] theorem State.setFld_taskCount (s : State) (f : Field) (i j v : Nat) : (s.setFld f i j v).taskCount = s.taskCount := rfl
@[simp] theorem State.setFld_search (s : State) (f : Field) (i j v : Nat) : (s.setFld f i j v).search = s.search := rfl
@[simp] theorem State.setFld_searchResults (s : State) (f : Field) (i j v : Nat) : (s.setFld f i j v).searchResults = s.searchResults := rfl
@[simp] theorem State.setFld_ports (s : State) (f : Field) (i j v : Nat) : (s.setFld f i j v).ports = s.ports := rfl
@[simp] theorem State.setFld_hubs (s : State) (f : Field) (i j v : Nat) : (s.setFld f i j v).hubs = s.hubs := rfl
@[simp] theorem State.setFld_arbs (s : State) (f : Field) (i j v : Nat) : (s.setFld f i j v).arbs = s.arbs := rfl
@[simp] theorem State.setFld_conns (s : State) (f : Field) (i j v : Nat) : (s.setFld f i j v).conns = s.conns := rfl
@[simp] theorem State.setFld_connPast (s : State) (f : Field) (i j v : Nat) : (s.setFld f i j v).connPast = s.connPast := rfl
@[simp] theorem State.setFld_regions (s : State) (f : Field) (i j v : Nat) : (s.setFld f i j v).regions = s.regions := rfl
@[simp] theorem State.setFld_packs (s : State) (f : Field) (i j v : Nat) : (s.setFld f i j v).packs = s.packs := rfl
@[simp] theorem State.setFld_fabDone (s : State) (f : Field) (i j v : Nat) : (s.setFld f i j v).fabDone = s.fabDone := rfl
@[simp] theorem State.setFld_records (s : State) (f : Field) (i j v : Nat) : (s.setFld f i j v).records = s.records := rfl
@[simp] theorem State.setFld_members (s : State) (f : Field) (i j v : Nat) : (s.setFld f i j v).members = s.members := rfl
@[simp] theorem State.setFld_comps (s : State) (f : Field) (i j v : Nat) : (s.setFld f i j v).comps = s.comps := rfl
@[simp] theorem State.setFld_groups (s : State) (f : Field) (i j v : Nat) : (s.setFld f i j v).groups = s.groups := rfl
@[simp] theorem State.setFld_fuses (s : State) (f : Field) (i j v : Nat) : (s.setFld f i j v).fuses = s.fuses := rfl
@[simp] theorem State.setFld_heart (s : State) (f : Field) (i j v : Nat) : (s.setFld f i j v).heart = s.heart := rfl
@[simp] theorem State.setFld_image (s : State) (f : Field) (i j v : Nat) : (s.setFld f i j v).image = s.image := rfl
@[simp] theorem State.setFld_tests (s : State) (f : Field) (i j v : Nat) : (s.setFld f i j v).tests = s.tests := rfl
@[simp] theorem State.setFld_power (s : State) (f : Field) (i j v : Nat) : (s.setFld f i j v).power = s.power := rfl
@[simp] theorem State.setFld_calDue (s : State) (f : Field) (i j v : Nat) : (s.setFld f i j v).calDue = s.calDue := rfl
@[simp] theorem State.setFld_calFailed (s : State) (f : Field) (i j v : Nat) : (s.setFld f i j v).calFailed = s.calFailed := rfl
@[simp] theorem State.setFld_calMissing (s : State) (f : Field) (i j v : Nat) : (s.setFld f i j v).calMissing = s.calMissing := rfl
@[simp] theorem State.setFld_sequencersOut (s : State) (f : Field) (i j v : Nat) : (s.setFld f i j v).sequencersOut = s.sequencersOut := rfl
@[simp] theorem State.setFld_stands (s : State) (f : Field) (i j v : Nat) : (s.setFld f i j v).stands = s.stands := rfl

/-! `State.addFld` changes `regs` alone -/

@[simp] theorem State.addFld_pending (s : State) (f : Field) (i j n : Nat) : (s.addFld f i j n).pending = s.pending := rfl
@[simp] theorem State.addFld_freeCtr (s : State) (f : Field) (i j n : Nat) : (s.addFld f i j n).freeCtr = s.freeCtr := rfl
@[simp] theorem State.addFld_timeNs (s : State) (f : Field) (i j n : Nat) : (s.addFld f i j n).timeNs = s.timeNs := rfl
@[simp] theorem State.addFld_phase (s : State) (f : Field) (i j n : Nat) : (s.addFld f i j n).phase = s.phase := rfl
@[simp] theorem State.addFld_pins (s : State) (f : Field) (i j n : Nat) : (s.addFld f i j n).pins = s.pins := rfl
@[simp] theorem State.addFld_mem (s : State) (f : Field) (i j n : Nat) : (s.addFld f i j n).mem = s.mem := rfl
@[simp] theorem State.addFld_laps (s : State) (f : Field) (i j n : Nat) : (s.addFld f i j n).laps = s.laps := rfl
@[simp] theorem State.addFld_recorder (s : State) (f : Field) (i j n : Nat) : (s.addFld f i j n).recorder = s.recorder := rfl
@[simp] theorem State.addFld_swyWaiting (s : State) (f : Field) (i j n : Nat) : (s.addFld f i j n).swyWaiting = s.swyWaiting := rfl
@[simp] theorem State.addFld_host (s : State) (f : Field) (i j n : Nat) : (s.addFld f i j n).host = s.host := rfl
@[simp] theorem State.addFld_mgmt (s : State) (f : Field) (i j n : Nat) : (s.addFld f i j n).mgmt = s.mgmt := rfl
@[simp] theorem State.addFld_modules (s : State) (f : Field) (i j n : Nat) : (s.addFld f i j n).modules = s.modules := rfl
@[simp] theorem State.addFld_cores (s : State) (f : Field) (i j n : Nat) : (s.addFld f i j n).cores = s.cores := rfl
@[simp] theorem State.addFld_taskCount (s : State) (f : Field) (i j n : Nat) : (s.addFld f i j n).taskCount = s.taskCount := rfl
@[simp] theorem State.addFld_search (s : State) (f : Field) (i j n : Nat) : (s.addFld f i j n).search = s.search := rfl
@[simp] theorem State.addFld_searchResults (s : State) (f : Field) (i j n : Nat) : (s.addFld f i j n).searchResults = s.searchResults := rfl
@[simp] theorem State.addFld_ports (s : State) (f : Field) (i j n : Nat) : (s.addFld f i j n).ports = s.ports := rfl
@[simp] theorem State.addFld_hubs (s : State) (f : Field) (i j n : Nat) : (s.addFld f i j n).hubs = s.hubs := rfl
@[simp] theorem State.addFld_arbs (s : State) (f : Field) (i j n : Nat) : (s.addFld f i j n).arbs = s.arbs := rfl
@[simp] theorem State.addFld_conns (s : State) (f : Field) (i j n : Nat) : (s.addFld f i j n).conns = s.conns := rfl
@[simp] theorem State.addFld_connPast (s : State) (f : Field) (i j n : Nat) : (s.addFld f i j n).connPast = s.connPast := rfl
@[simp] theorem State.addFld_regions (s : State) (f : Field) (i j n : Nat) : (s.addFld f i j n).regions = s.regions := rfl
@[simp] theorem State.addFld_packs (s : State) (f : Field) (i j n : Nat) : (s.addFld f i j n).packs = s.packs := rfl
@[simp] theorem State.addFld_fabDone (s : State) (f : Field) (i j n : Nat) : (s.addFld f i j n).fabDone = s.fabDone := rfl
@[simp] theorem State.addFld_records (s : State) (f : Field) (i j n : Nat) : (s.addFld f i j n).records = s.records := rfl
@[simp] theorem State.addFld_members (s : State) (f : Field) (i j n : Nat) : (s.addFld f i j n).members = s.members := rfl
@[simp] theorem State.addFld_comps (s : State) (f : Field) (i j n : Nat) : (s.addFld f i j n).comps = s.comps := rfl
@[simp] theorem State.addFld_groups (s : State) (f : Field) (i j n : Nat) : (s.addFld f i j n).groups = s.groups := rfl
@[simp] theorem State.addFld_fuses (s : State) (f : Field) (i j n : Nat) : (s.addFld f i j n).fuses = s.fuses := rfl
@[simp] theorem State.addFld_heart (s : State) (f : Field) (i j n : Nat) : (s.addFld f i j n).heart = s.heart := rfl
@[simp] theorem State.addFld_image (s : State) (f : Field) (i j n : Nat) : (s.addFld f i j n).image = s.image := rfl
@[simp] theorem State.addFld_tests (s : State) (f : Field) (i j n : Nat) : (s.addFld f i j n).tests = s.tests := rfl
@[simp] theorem State.addFld_power (s : State) (f : Field) (i j n : Nat) : (s.addFld f i j n).power = s.power := rfl
@[simp] theorem State.addFld_calDue (s : State) (f : Field) (i j n : Nat) : (s.addFld f i j n).calDue = s.calDue := rfl
@[simp] theorem State.addFld_calFailed (s : State) (f : Field) (i j n : Nat) : (s.addFld f i j n).calFailed = s.calFailed := rfl
@[simp] theorem State.addFld_calMissing (s : State) (f : Field) (i j n : Nat) : (s.addFld f i j n).calMissing = s.calMissing := rfl
@[simp] theorem State.addFld_sequencersOut (s : State) (f : Field) (i j n : Nat) : (s.addFld f i j n).sequencersOut = s.sequencersOut := rfl
@[simp] theorem State.addFld_stands (s : State) (f : Field) (i j n : Nat) : (s.addFld f i j n).stands = s.stands := rfl

/-! `State.satFld` changes `regs` alone -/

@[simp] theorem State.satFld_pending (s : State) (f : Field) (i j n : Nat) : (s.satFld f i j n).pending = s.pending := rfl
@[simp] theorem State.satFld_freeCtr (s : State) (f : Field) (i j n : Nat) : (s.satFld f i j n).freeCtr = s.freeCtr := rfl
@[simp] theorem State.satFld_timeNs (s : State) (f : Field) (i j n : Nat) : (s.satFld f i j n).timeNs = s.timeNs := rfl
@[simp] theorem State.satFld_phase (s : State) (f : Field) (i j n : Nat) : (s.satFld f i j n).phase = s.phase := rfl
@[simp] theorem State.satFld_pins (s : State) (f : Field) (i j n : Nat) : (s.satFld f i j n).pins = s.pins := rfl
@[simp] theorem State.satFld_mem (s : State) (f : Field) (i j n : Nat) : (s.satFld f i j n).mem = s.mem := rfl
@[simp] theorem State.satFld_laps (s : State) (f : Field) (i j n : Nat) : (s.satFld f i j n).laps = s.laps := rfl
@[simp] theorem State.satFld_recorder (s : State) (f : Field) (i j n : Nat) : (s.satFld f i j n).recorder = s.recorder := rfl
@[simp] theorem State.satFld_swyWaiting (s : State) (f : Field) (i j n : Nat) : (s.satFld f i j n).swyWaiting = s.swyWaiting := rfl
@[simp] theorem State.satFld_host (s : State) (f : Field) (i j n : Nat) : (s.satFld f i j n).host = s.host := rfl
@[simp] theorem State.satFld_mgmt (s : State) (f : Field) (i j n : Nat) : (s.satFld f i j n).mgmt = s.mgmt := rfl
@[simp] theorem State.satFld_modules (s : State) (f : Field) (i j n : Nat) : (s.satFld f i j n).modules = s.modules := rfl
@[simp] theorem State.satFld_cores (s : State) (f : Field) (i j n : Nat) : (s.satFld f i j n).cores = s.cores := rfl
@[simp] theorem State.satFld_taskCount (s : State) (f : Field) (i j n : Nat) : (s.satFld f i j n).taskCount = s.taskCount := rfl
@[simp] theorem State.satFld_search (s : State) (f : Field) (i j n : Nat) : (s.satFld f i j n).search = s.search := rfl
@[simp] theorem State.satFld_searchResults (s : State) (f : Field) (i j n : Nat) : (s.satFld f i j n).searchResults = s.searchResults := rfl
@[simp] theorem State.satFld_ports (s : State) (f : Field) (i j n : Nat) : (s.satFld f i j n).ports = s.ports := rfl
@[simp] theorem State.satFld_hubs (s : State) (f : Field) (i j n : Nat) : (s.satFld f i j n).hubs = s.hubs := rfl
@[simp] theorem State.satFld_arbs (s : State) (f : Field) (i j n : Nat) : (s.satFld f i j n).arbs = s.arbs := rfl
@[simp] theorem State.satFld_conns (s : State) (f : Field) (i j n : Nat) : (s.satFld f i j n).conns = s.conns := rfl
@[simp] theorem State.satFld_connPast (s : State) (f : Field) (i j n : Nat) : (s.satFld f i j n).connPast = s.connPast := rfl
@[simp] theorem State.satFld_regions (s : State) (f : Field) (i j n : Nat) : (s.satFld f i j n).regions = s.regions := rfl
@[simp] theorem State.satFld_packs (s : State) (f : Field) (i j n : Nat) : (s.satFld f i j n).packs = s.packs := rfl
@[simp] theorem State.satFld_fabDone (s : State) (f : Field) (i j n : Nat) : (s.satFld f i j n).fabDone = s.fabDone := rfl
@[simp] theorem State.satFld_records (s : State) (f : Field) (i j n : Nat) : (s.satFld f i j n).records = s.records := rfl
@[simp] theorem State.satFld_members (s : State) (f : Field) (i j n : Nat) : (s.satFld f i j n).members = s.members := rfl
@[simp] theorem State.satFld_comps (s : State) (f : Field) (i j n : Nat) : (s.satFld f i j n).comps = s.comps := rfl
@[simp] theorem State.satFld_groups (s : State) (f : Field) (i j n : Nat) : (s.satFld f i j n).groups = s.groups := rfl
@[simp] theorem State.satFld_fuses (s : State) (f : Field) (i j n : Nat) : (s.satFld f i j n).fuses = s.fuses := rfl
@[simp] theorem State.satFld_heart (s : State) (f : Field) (i j n : Nat) : (s.satFld f i j n).heart = s.heart := rfl
@[simp] theorem State.satFld_image (s : State) (f : Field) (i j n : Nat) : (s.satFld f i j n).image = s.image := rfl
@[simp] theorem State.satFld_tests (s : State) (f : Field) (i j n : Nat) : (s.satFld f i j n).tests = s.tests := rfl
@[simp] theorem State.satFld_power (s : State) (f : Field) (i j n : Nat) : (s.satFld f i j n).power = s.power := rfl
@[simp] theorem State.satFld_calDue (s : State) (f : Field) (i j n : Nat) : (s.satFld f i j n).calDue = s.calDue := rfl
@[simp] theorem State.satFld_calFailed (s : State) (f : Field) (i j n : Nat) : (s.satFld f i j n).calFailed = s.calFailed := rfl
@[simp] theorem State.satFld_calMissing (s : State) (f : Field) (i j n : Nat) : (s.satFld f i j n).calMissing = s.calMissing := rfl
@[simp] theorem State.satFld_sequencersOut (s : State) (f : Field) (i j n : Nat) : (s.satFld f i j n).sequencersOut = s.sequencersOut := rfl
@[simp] theorem State.satFld_stands (s : State) (f : Field) (i j n : Nat) : (s.satFld f i j n).stands = s.stands := rfl

/-! `State.resetReg` changes `regs` alone -/

@[simp] theorem State.resetReg_pending (s : State) (r : Reg) (i j : Nat) : (s.resetReg r i j).pending = s.pending := rfl
@[simp] theorem State.resetReg_freeCtr (s : State) (r : Reg) (i j : Nat) : (s.resetReg r i j).freeCtr = s.freeCtr := rfl
@[simp] theorem State.resetReg_timeNs (s : State) (r : Reg) (i j : Nat) : (s.resetReg r i j).timeNs = s.timeNs := rfl
@[simp] theorem State.resetReg_phase (s : State) (r : Reg) (i j : Nat) : (s.resetReg r i j).phase = s.phase := rfl
@[simp] theorem State.resetReg_pins (s : State) (r : Reg) (i j : Nat) : (s.resetReg r i j).pins = s.pins := rfl
@[simp] theorem State.resetReg_mem (s : State) (r : Reg) (i j : Nat) : (s.resetReg r i j).mem = s.mem := rfl
@[simp] theorem State.resetReg_laps (s : State) (r : Reg) (i j : Nat) : (s.resetReg r i j).laps = s.laps := rfl
@[simp] theorem State.resetReg_recorder (s : State) (r : Reg) (i j : Nat) : (s.resetReg r i j).recorder = s.recorder := rfl
@[simp] theorem State.resetReg_swyWaiting (s : State) (r : Reg) (i j : Nat) : (s.resetReg r i j).swyWaiting = s.swyWaiting := rfl
@[simp] theorem State.resetReg_host (s : State) (r : Reg) (i j : Nat) : (s.resetReg r i j).host = s.host := rfl
@[simp] theorem State.resetReg_mgmt (s : State) (r : Reg) (i j : Nat) : (s.resetReg r i j).mgmt = s.mgmt := rfl
@[simp] theorem State.resetReg_modules (s : State) (r : Reg) (i j : Nat) : (s.resetReg r i j).modules = s.modules := rfl
@[simp] theorem State.resetReg_cores (s : State) (r : Reg) (i j : Nat) : (s.resetReg r i j).cores = s.cores := rfl
@[simp] theorem State.resetReg_taskCount (s : State) (r : Reg) (i j : Nat) : (s.resetReg r i j).taskCount = s.taskCount := rfl
@[simp] theorem State.resetReg_search (s : State) (r : Reg) (i j : Nat) : (s.resetReg r i j).search = s.search := rfl
@[simp] theorem State.resetReg_searchResults (s : State) (r : Reg) (i j : Nat) : (s.resetReg r i j).searchResults = s.searchResults := rfl
@[simp] theorem State.resetReg_ports (s : State) (r : Reg) (i j : Nat) : (s.resetReg r i j).ports = s.ports := rfl
@[simp] theorem State.resetReg_hubs (s : State) (r : Reg) (i j : Nat) : (s.resetReg r i j).hubs = s.hubs := rfl
@[simp] theorem State.resetReg_arbs (s : State) (r : Reg) (i j : Nat) : (s.resetReg r i j).arbs = s.arbs := rfl
@[simp] theorem State.resetReg_conns (s : State) (r : Reg) (i j : Nat) : (s.resetReg r i j).conns = s.conns := rfl
@[simp] theorem State.resetReg_connPast (s : State) (r : Reg) (i j : Nat) : (s.resetReg r i j).connPast = s.connPast := rfl
@[simp] theorem State.resetReg_regions (s : State) (r : Reg) (i j : Nat) : (s.resetReg r i j).regions = s.regions := rfl
@[simp] theorem State.resetReg_packs (s : State) (r : Reg) (i j : Nat) : (s.resetReg r i j).packs = s.packs := rfl
@[simp] theorem State.resetReg_fabDone (s : State) (r : Reg) (i j : Nat) : (s.resetReg r i j).fabDone = s.fabDone := rfl
@[simp] theorem State.resetReg_records (s : State) (r : Reg) (i j : Nat) : (s.resetReg r i j).records = s.records := rfl
@[simp] theorem State.resetReg_members (s : State) (r : Reg) (i j : Nat) : (s.resetReg r i j).members = s.members := rfl
@[simp] theorem State.resetReg_comps (s : State) (r : Reg) (i j : Nat) : (s.resetReg r i j).comps = s.comps := rfl
@[simp] theorem State.resetReg_groups (s : State) (r : Reg) (i j : Nat) : (s.resetReg r i j).groups = s.groups := rfl
@[simp] theorem State.resetReg_fuses (s : State) (r : Reg) (i j : Nat) : (s.resetReg r i j).fuses = s.fuses := rfl
@[simp] theorem State.resetReg_heart (s : State) (r : Reg) (i j : Nat) : (s.resetReg r i j).heart = s.heart := rfl
@[simp] theorem State.resetReg_image (s : State) (r : Reg) (i j : Nat) : (s.resetReg r i j).image = s.image := rfl
@[simp] theorem State.resetReg_tests (s : State) (r : Reg) (i j : Nat) : (s.resetReg r i j).tests = s.tests := rfl
@[simp] theorem State.resetReg_power (s : State) (r : Reg) (i j : Nat) : (s.resetReg r i j).power = s.power := rfl
@[simp] theorem State.resetReg_calDue (s : State) (r : Reg) (i j : Nat) : (s.resetReg r i j).calDue = s.calDue := rfl
@[simp] theorem State.resetReg_calFailed (s : State) (r : Reg) (i j : Nat) : (s.resetReg r i j).calFailed = s.calFailed := rfl
@[simp] theorem State.resetReg_calMissing (s : State) (r : Reg) (i j : Nat) : (s.resetReg r i j).calMissing = s.calMissing := rfl
@[simp] theorem State.resetReg_sequencersOut (s : State) (r : Reg) (i j : Nat) : (s.resetReg r i j).sequencersOut = s.sequencersOut := rfl
@[simp] theorem State.resetReg_stands (s : State) (r : Reg) (i j : Nat) : (s.resetReg r i j).stands = s.stands := rfl

/-! `State.setStand` changes `stands` alone -/

@[simp] theorem State.setStand_pending (s : State) (n : Nat) (x : Stand) : (s.setStand n x).pending = s.pending := rfl
@[simp] theorem State.setStand_freeCtr (s : State) (n : Nat) (x : Stand) : (s.setStand n x).freeCtr = s.freeCtr := rfl
@[simp] theorem State.setStand_timeNs (s : State) (n : Nat) (x : Stand) : (s.setStand n x).timeNs = s.timeNs := rfl
@[simp] theorem State.setStand_phase (s : State) (n : Nat) (x : Stand) : (s.setStand n x).phase = s.phase := rfl
@[simp] theorem State.setStand_pins (s : State) (n : Nat) (x : Stand) : (s.setStand n x).pins = s.pins := rfl
@[simp] theorem State.setStand_regs (s : State) (n : Nat) (x : Stand) : (s.setStand n x).regs = s.regs := rfl
@[simp] theorem State.setStand_mem (s : State) (n : Nat) (x : Stand) : (s.setStand n x).mem = s.mem := rfl
@[simp] theorem State.setStand_laps (s : State) (n : Nat) (x : Stand) : (s.setStand n x).laps = s.laps := rfl
@[simp] theorem State.setStand_recorder (s : State) (n : Nat) (x : Stand) : (s.setStand n x).recorder = s.recorder := rfl
@[simp] theorem State.setStand_swyWaiting (s : State) (n : Nat) (x : Stand) : (s.setStand n x).swyWaiting = s.swyWaiting := rfl
@[simp] theorem State.setStand_host (s : State) (n : Nat) (x : Stand) : (s.setStand n x).host = s.host := rfl
@[simp] theorem State.setStand_mgmt (s : State) (n : Nat) (x : Stand) : (s.setStand n x).mgmt = s.mgmt := rfl
@[simp] theorem State.setStand_modules (s : State) (n : Nat) (x : Stand) : (s.setStand n x).modules = s.modules := rfl
@[simp] theorem State.setStand_cores (s : State) (n : Nat) (x : Stand) : (s.setStand n x).cores = s.cores := rfl
@[simp] theorem State.setStand_taskCount (s : State) (n : Nat) (x : Stand) : (s.setStand n x).taskCount = s.taskCount := rfl
@[simp] theorem State.setStand_search (s : State) (n : Nat) (x : Stand) : (s.setStand n x).search = s.search := rfl
@[simp] theorem State.setStand_searchResults (s : State) (n : Nat) (x : Stand) : (s.setStand n x).searchResults = s.searchResults := rfl
@[simp] theorem State.setStand_ports (s : State) (n : Nat) (x : Stand) : (s.setStand n x).ports = s.ports := rfl
@[simp] theorem State.setStand_hubs (s : State) (n : Nat) (x : Stand) : (s.setStand n x).hubs = s.hubs := rfl
@[simp] theorem State.setStand_arbs (s : State) (n : Nat) (x : Stand) : (s.setStand n x).arbs = s.arbs := rfl
@[simp] theorem State.setStand_conns (s : State) (n : Nat) (x : Stand) : (s.setStand n x).conns = s.conns := rfl
@[simp] theorem State.setStand_connPast (s : State) (n : Nat) (x : Stand) : (s.setStand n x).connPast = s.connPast := rfl
@[simp] theorem State.setStand_regions (s : State) (n : Nat) (x : Stand) : (s.setStand n x).regions = s.regions := rfl
@[simp] theorem State.setStand_packs (s : State) (n : Nat) (x : Stand) : (s.setStand n x).packs = s.packs := rfl
@[simp] theorem State.setStand_fabDone (s : State) (n : Nat) (x : Stand) : (s.setStand n x).fabDone = s.fabDone := rfl
@[simp] theorem State.setStand_records (s : State) (n : Nat) (x : Stand) : (s.setStand n x).records = s.records := rfl
@[simp] theorem State.setStand_members (s : State) (n : Nat) (x : Stand) : (s.setStand n x).members = s.members := rfl
@[simp] theorem State.setStand_comps (s : State) (n : Nat) (x : Stand) : (s.setStand n x).comps = s.comps := rfl
@[simp] theorem State.setStand_groups (s : State) (n : Nat) (x : Stand) : (s.setStand n x).groups = s.groups := rfl
@[simp] theorem State.setStand_fuses (s : State) (n : Nat) (x : Stand) : (s.setStand n x).fuses = s.fuses := rfl
@[simp] theorem State.setStand_heart (s : State) (n : Nat) (x : Stand) : (s.setStand n x).heart = s.heart := rfl
@[simp] theorem State.setStand_image (s : State) (n : Nat) (x : Stand) : (s.setStand n x).image = s.image := rfl
@[simp] theorem State.setStand_tests (s : State) (n : Nat) (x : Stand) : (s.setStand n x).tests = s.tests := rfl
@[simp] theorem State.setStand_power (s : State) (n : Nat) (x : Stand) : (s.setStand n x).power = s.power := rfl
@[simp] theorem State.setStand_calDue (s : State) (n : Nat) (x : Stand) : (s.setStand n x).calDue = s.calDue := rfl
@[simp] theorem State.setStand_calFailed (s : State) (n : Nat) (x : Stand) : (s.setStand n x).calFailed = s.calFailed := rfl
@[simp] theorem State.setStand_calMissing (s : State) (n : Nat) (x : Stand) : (s.setStand n x).calMissing = s.calMissing := rfl
@[simp] theorem State.setStand_sequencersOut (s : State) (n : Nat) (x : Stand) : (s.setStand n x).sequencersOut = s.sequencersOut := rfl

/-! `State.updStand` changes `stands` alone -/

@[simp] theorem State.updStand_pending (s : State) (n : Nat) (f : Stand → Stand) : (s.updStand n f).pending = s.pending := rfl
@[simp] theorem State.updStand_freeCtr (s : State) (n : Nat) (f : Stand → Stand) : (s.updStand n f).freeCtr = s.freeCtr := rfl
@[simp] theorem State.updStand_timeNs (s : State) (n : Nat) (f : Stand → Stand) : (s.updStand n f).timeNs = s.timeNs := rfl
@[simp] theorem State.updStand_phase (s : State) (n : Nat) (f : Stand → Stand) : (s.updStand n f).phase = s.phase := rfl
@[simp] theorem State.updStand_pins (s : State) (n : Nat) (f : Stand → Stand) : (s.updStand n f).pins = s.pins := rfl
@[simp] theorem State.updStand_regs (s : State) (n : Nat) (f : Stand → Stand) : (s.updStand n f).regs = s.regs := rfl
@[simp] theorem State.updStand_mem (s : State) (n : Nat) (f : Stand → Stand) : (s.updStand n f).mem = s.mem := rfl
@[simp] theorem State.updStand_laps (s : State) (n : Nat) (f : Stand → Stand) : (s.updStand n f).laps = s.laps := rfl
@[simp] theorem State.updStand_recorder (s : State) (n : Nat) (f : Stand → Stand) : (s.updStand n f).recorder = s.recorder := rfl
@[simp] theorem State.updStand_swyWaiting (s : State) (n : Nat) (f : Stand → Stand) : (s.updStand n f).swyWaiting = s.swyWaiting := rfl
@[simp] theorem State.updStand_host (s : State) (n : Nat) (f : Stand → Stand) : (s.updStand n f).host = s.host := rfl
@[simp] theorem State.updStand_mgmt (s : State) (n : Nat) (f : Stand → Stand) : (s.updStand n f).mgmt = s.mgmt := rfl
@[simp] theorem State.updStand_modules (s : State) (n : Nat) (f : Stand → Stand) : (s.updStand n f).modules = s.modules := rfl
@[simp] theorem State.updStand_cores (s : State) (n : Nat) (f : Stand → Stand) : (s.updStand n f).cores = s.cores := rfl
@[simp] theorem State.updStand_taskCount (s : State) (n : Nat) (f : Stand → Stand) : (s.updStand n f).taskCount = s.taskCount := rfl
@[simp] theorem State.updStand_search (s : State) (n : Nat) (f : Stand → Stand) : (s.updStand n f).search = s.search := rfl
@[simp] theorem State.updStand_searchResults (s : State) (n : Nat) (f : Stand → Stand) : (s.updStand n f).searchResults = s.searchResults := rfl
@[simp] theorem State.updStand_ports (s : State) (n : Nat) (f : Stand → Stand) : (s.updStand n f).ports = s.ports := rfl
@[simp] theorem State.updStand_hubs (s : State) (n : Nat) (f : Stand → Stand) : (s.updStand n f).hubs = s.hubs := rfl
@[simp] theorem State.updStand_arbs (s : State) (n : Nat) (f : Stand → Stand) : (s.updStand n f).arbs = s.arbs := rfl
@[simp] theorem State.updStand_conns (s : State) (n : Nat) (f : Stand → Stand) : (s.updStand n f).conns = s.conns := rfl
@[simp] theorem State.updStand_connPast (s : State) (n : Nat) (f : Stand → Stand) : (s.updStand n f).connPast = s.connPast := rfl
@[simp] theorem State.updStand_regions (s : State) (n : Nat) (f : Stand → Stand) : (s.updStand n f).regions = s.regions := rfl
@[simp] theorem State.updStand_packs (s : State) (n : Nat) (f : Stand → Stand) : (s.updStand n f).packs = s.packs := rfl
@[simp] theorem State.updStand_fabDone (s : State) (n : Nat) (f : Stand → Stand) : (s.updStand n f).fabDone = s.fabDone := rfl
@[simp] theorem State.updStand_records (s : State) (n : Nat) (f : Stand → Stand) : (s.updStand n f).records = s.records := rfl
@[simp] theorem State.updStand_members (s : State) (n : Nat) (f : Stand → Stand) : (s.updStand n f).members = s.members := rfl
@[simp] theorem State.updStand_comps (s : State) (n : Nat) (f : Stand → Stand) : (s.updStand n f).comps = s.comps := rfl
@[simp] theorem State.updStand_groups (s : State) (n : Nat) (f : Stand → Stand) : (s.updStand n f).groups = s.groups := rfl
@[simp] theorem State.updStand_fuses (s : State) (n : Nat) (f : Stand → Stand) : (s.updStand n f).fuses = s.fuses := rfl
@[simp] theorem State.updStand_heart (s : State) (n : Nat) (f : Stand → Stand) : (s.updStand n f).heart = s.heart := rfl
@[simp] theorem State.updStand_image (s : State) (n : Nat) (f : Stand → Stand) : (s.updStand n f).image = s.image := rfl
@[simp] theorem State.updStand_tests (s : State) (n : Nat) (f : Stand → Stand) : (s.updStand n f).tests = s.tests := rfl
@[simp] theorem State.updStand_power (s : State) (n : Nat) (f : Stand → Stand) : (s.updStand n f).power = s.power := rfl
@[simp] theorem State.updStand_calDue (s : State) (n : Nat) (f : Stand → Stand) : (s.updStand n f).calDue = s.calDue := rfl
@[simp] theorem State.updStand_calFailed (s : State) (n : Nat) (f : Stand → Stand) : (s.updStand n f).calFailed = s.calFailed := rfl
@[simp] theorem State.updStand_calMissing (s : State) (n : Nat) (f : Stand → Stand) : (s.updStand n f).calMissing = s.calMissing := rfl
@[simp] theorem State.updStand_sequencersOut (s : State) (n : Nat) (f : Stand → Stand) : (s.updStand n f).sequencersOut = s.sequencersOut := rfl

/-! `State.updPort` changes `ports` alone -/

@[simp] theorem State.updPort_pending (s : State) (p : Nat) (f : Port → Port) : (s.updPort p f).pending = s.pending := rfl
@[simp] theorem State.updPort_freeCtr (s : State) (p : Nat) (f : Port → Port) : (s.updPort p f).freeCtr = s.freeCtr := rfl
@[simp] theorem State.updPort_timeNs (s : State) (p : Nat) (f : Port → Port) : (s.updPort p f).timeNs = s.timeNs := rfl
@[simp] theorem State.updPort_phase (s : State) (p : Nat) (f : Port → Port) : (s.updPort p f).phase = s.phase := rfl
@[simp] theorem State.updPort_pins (s : State) (p : Nat) (f : Port → Port) : (s.updPort p f).pins = s.pins := rfl
@[simp] theorem State.updPort_regs (s : State) (p : Nat) (f : Port → Port) : (s.updPort p f).regs = s.regs := rfl
@[simp] theorem State.updPort_mem (s : State) (p : Nat) (f : Port → Port) : (s.updPort p f).mem = s.mem := rfl
@[simp] theorem State.updPort_laps (s : State) (p : Nat) (f : Port → Port) : (s.updPort p f).laps = s.laps := rfl
@[simp] theorem State.updPort_recorder (s : State) (p : Nat) (f : Port → Port) : (s.updPort p f).recorder = s.recorder := rfl
@[simp] theorem State.updPort_swyWaiting (s : State) (p : Nat) (f : Port → Port) : (s.updPort p f).swyWaiting = s.swyWaiting := rfl
@[simp] theorem State.updPort_host (s : State) (p : Nat) (f : Port → Port) : (s.updPort p f).host = s.host := rfl
@[simp] theorem State.updPort_mgmt (s : State) (p : Nat) (f : Port → Port) : (s.updPort p f).mgmt = s.mgmt := rfl
@[simp] theorem State.updPort_modules (s : State) (p : Nat) (f : Port → Port) : (s.updPort p f).modules = s.modules := rfl
@[simp] theorem State.updPort_cores (s : State) (p : Nat) (f : Port → Port) : (s.updPort p f).cores = s.cores := rfl
@[simp] theorem State.updPort_taskCount (s : State) (p : Nat) (f : Port → Port) : (s.updPort p f).taskCount = s.taskCount := rfl
@[simp] theorem State.updPort_search (s : State) (p : Nat) (f : Port → Port) : (s.updPort p f).search = s.search := rfl
@[simp] theorem State.updPort_searchResults (s : State) (p : Nat) (f : Port → Port) : (s.updPort p f).searchResults = s.searchResults := rfl
@[simp] theorem State.updPort_hubs (s : State) (p : Nat) (f : Port → Port) : (s.updPort p f).hubs = s.hubs := rfl
@[simp] theorem State.updPort_arbs (s : State) (p : Nat) (f : Port → Port) : (s.updPort p f).arbs = s.arbs := rfl
@[simp] theorem State.updPort_conns (s : State) (p : Nat) (f : Port → Port) : (s.updPort p f).conns = s.conns := rfl
@[simp] theorem State.updPort_connPast (s : State) (p : Nat) (f : Port → Port) : (s.updPort p f).connPast = s.connPast := rfl
@[simp] theorem State.updPort_regions (s : State) (p : Nat) (f : Port → Port) : (s.updPort p f).regions = s.regions := rfl
@[simp] theorem State.updPort_packs (s : State) (p : Nat) (f : Port → Port) : (s.updPort p f).packs = s.packs := rfl
@[simp] theorem State.updPort_fabDone (s : State) (p : Nat) (f : Port → Port) : (s.updPort p f).fabDone = s.fabDone := rfl
@[simp] theorem State.updPort_records (s : State) (p : Nat) (f : Port → Port) : (s.updPort p f).records = s.records := rfl
@[simp] theorem State.updPort_members (s : State) (p : Nat) (f : Port → Port) : (s.updPort p f).members = s.members := rfl
@[simp] theorem State.updPort_comps (s : State) (p : Nat) (f : Port → Port) : (s.updPort p f).comps = s.comps := rfl
@[simp] theorem State.updPort_groups (s : State) (p : Nat) (f : Port → Port) : (s.updPort p f).groups = s.groups := rfl
@[simp] theorem State.updPort_fuses (s : State) (p : Nat) (f : Port → Port) : (s.updPort p f).fuses = s.fuses := rfl
@[simp] theorem State.updPort_heart (s : State) (p : Nat) (f : Port → Port) : (s.updPort p f).heart = s.heart := rfl
@[simp] theorem State.updPort_image (s : State) (p : Nat) (f : Port → Port) : (s.updPort p f).image = s.image := rfl
@[simp] theorem State.updPort_tests (s : State) (p : Nat) (f : Port → Port) : (s.updPort p f).tests = s.tests := rfl
@[simp] theorem State.updPort_power (s : State) (p : Nat) (f : Port → Port) : (s.updPort p f).power = s.power := rfl
@[simp] theorem State.updPort_calDue (s : State) (p : Nat) (f : Port → Port) : (s.updPort p f).calDue = s.calDue := rfl
@[simp] theorem State.updPort_calFailed (s : State) (p : Nat) (f : Port → Port) : (s.updPort p f).calFailed = s.calFailed := rfl
@[simp] theorem State.updPort_calMissing (s : State) (p : Nat) (f : Port → Port) : (s.updPort p f).calMissing = s.calMissing := rfl
@[simp] theorem State.updPort_sequencersOut (s : State) (p : Nat) (f : Port → Port) : (s.updPort p f).sequencersOut = s.sequencersOut := rfl
@[simp] theorem State.updPort_stands (s : State) (p : Nat) (f : Port → Port) : (s.updPort p f).stands = s.stands := rfl

/-! `State.updHub` changes `hubs` alone -/

@[simp] theorem State.updHub_pending (s : State) (h : Nat) (f : Hub → Hub) : (s.updHub h f).pending = s.pending := rfl
@[simp] theorem State.updHub_freeCtr (s : State) (h : Nat) (f : Hub → Hub) : (s.updHub h f).freeCtr = s.freeCtr := rfl
@[simp] theorem State.updHub_timeNs (s : State) (h : Nat) (f : Hub → Hub) : (s.updHub h f).timeNs = s.timeNs := rfl
@[simp] theorem State.updHub_phase (s : State) (h : Nat) (f : Hub → Hub) : (s.updHub h f).phase = s.phase := rfl
@[simp] theorem State.updHub_pins (s : State) (h : Nat) (f : Hub → Hub) : (s.updHub h f).pins = s.pins := rfl
@[simp] theorem State.updHub_regs (s : State) (h : Nat) (f : Hub → Hub) : (s.updHub h f).regs = s.regs := rfl
@[simp] theorem State.updHub_mem (s : State) (h : Nat) (f : Hub → Hub) : (s.updHub h f).mem = s.mem := rfl
@[simp] theorem State.updHub_laps (s : State) (h : Nat) (f : Hub → Hub) : (s.updHub h f).laps = s.laps := rfl
@[simp] theorem State.updHub_recorder (s : State) (h : Nat) (f : Hub → Hub) : (s.updHub h f).recorder = s.recorder := rfl
@[simp] theorem State.updHub_swyWaiting (s : State) (h : Nat) (f : Hub → Hub) : (s.updHub h f).swyWaiting = s.swyWaiting := rfl
@[simp] theorem State.updHub_host (s : State) (h : Nat) (f : Hub → Hub) : (s.updHub h f).host = s.host := rfl
@[simp] theorem State.updHub_mgmt (s : State) (h : Nat) (f : Hub → Hub) : (s.updHub h f).mgmt = s.mgmt := rfl
@[simp] theorem State.updHub_modules (s : State) (h : Nat) (f : Hub → Hub) : (s.updHub h f).modules = s.modules := rfl
@[simp] theorem State.updHub_cores (s : State) (h : Nat) (f : Hub → Hub) : (s.updHub h f).cores = s.cores := rfl
@[simp] theorem State.updHub_taskCount (s : State) (h : Nat) (f : Hub → Hub) : (s.updHub h f).taskCount = s.taskCount := rfl
@[simp] theorem State.updHub_search (s : State) (h : Nat) (f : Hub → Hub) : (s.updHub h f).search = s.search := rfl
@[simp] theorem State.updHub_searchResults (s : State) (h : Nat) (f : Hub → Hub) : (s.updHub h f).searchResults = s.searchResults := rfl
@[simp] theorem State.updHub_ports (s : State) (h : Nat) (f : Hub → Hub) : (s.updHub h f).ports = s.ports := rfl
@[simp] theorem State.updHub_arbs (s : State) (h : Nat) (f : Hub → Hub) : (s.updHub h f).arbs = s.arbs := rfl
@[simp] theorem State.updHub_conns (s : State) (h : Nat) (f : Hub → Hub) : (s.updHub h f).conns = s.conns := rfl
@[simp] theorem State.updHub_connPast (s : State) (h : Nat) (f : Hub → Hub) : (s.updHub h f).connPast = s.connPast := rfl
@[simp] theorem State.updHub_regions (s : State) (h : Nat) (f : Hub → Hub) : (s.updHub h f).regions = s.regions := rfl
@[simp] theorem State.updHub_packs (s : State) (h : Nat) (f : Hub → Hub) : (s.updHub h f).packs = s.packs := rfl
@[simp] theorem State.updHub_fabDone (s : State) (h : Nat) (f : Hub → Hub) : (s.updHub h f).fabDone = s.fabDone := rfl
@[simp] theorem State.updHub_records (s : State) (h : Nat) (f : Hub → Hub) : (s.updHub h f).records = s.records := rfl
@[simp] theorem State.updHub_members (s : State) (h : Nat) (f : Hub → Hub) : (s.updHub h f).members = s.members := rfl
@[simp] theorem State.updHub_comps (s : State) (h : Nat) (f : Hub → Hub) : (s.updHub h f).comps = s.comps := rfl
@[simp] theorem State.updHub_groups (s : State) (h : Nat) (f : Hub → Hub) : (s.updHub h f).groups = s.groups := rfl
@[simp] theorem State.updHub_fuses (s : State) (h : Nat) (f : Hub → Hub) : (s.updHub h f).fuses = s.fuses := rfl
@[simp] theorem State.updHub_heart (s : State) (h : Nat) (f : Hub → Hub) : (s.updHub h f).heart = s.heart := rfl
@[simp] theorem State.updHub_image (s : State) (h : Nat) (f : Hub → Hub) : (s.updHub h f).image = s.image := rfl
@[simp] theorem State.updHub_tests (s : State) (h : Nat) (f : Hub → Hub) : (s.updHub h f).tests = s.tests := rfl
@[simp] theorem State.updHub_power (s : State) (h : Nat) (f : Hub → Hub) : (s.updHub h f).power = s.power := rfl
@[simp] theorem State.updHub_calDue (s : State) (h : Nat) (f : Hub → Hub) : (s.updHub h f).calDue = s.calDue := rfl
@[simp] theorem State.updHub_calFailed (s : State) (h : Nat) (f : Hub → Hub) : (s.updHub h f).calFailed = s.calFailed := rfl
@[simp] theorem State.updHub_calMissing (s : State) (h : Nat) (f : Hub → Hub) : (s.updHub h f).calMissing = s.calMissing := rfl
@[simp] theorem State.updHub_sequencersOut (s : State) (h : Nat) (f : Hub → Hub) : (s.updHub h f).sequencersOut = s.sequencersOut := rfl
@[simp] theorem State.updHub_stands (s : State) (h : Nat) (f : Hub → Hub) : (s.updHub h f).stands = s.stands := rfl

/-! `State.updArb` changes `arbs` alone -/

@[simp] theorem State.updArb_pending (s : State) (n : Nat) (f : Arb → Arb) : (s.updArb n f).pending = s.pending := rfl
@[simp] theorem State.updArb_freeCtr (s : State) (n : Nat) (f : Arb → Arb) : (s.updArb n f).freeCtr = s.freeCtr := rfl
@[simp] theorem State.updArb_timeNs (s : State) (n : Nat) (f : Arb → Arb) : (s.updArb n f).timeNs = s.timeNs := rfl
@[simp] theorem State.updArb_phase (s : State) (n : Nat) (f : Arb → Arb) : (s.updArb n f).phase = s.phase := rfl
@[simp] theorem State.updArb_pins (s : State) (n : Nat) (f : Arb → Arb) : (s.updArb n f).pins = s.pins := rfl
@[simp] theorem State.updArb_regs (s : State) (n : Nat) (f : Arb → Arb) : (s.updArb n f).regs = s.regs := rfl
@[simp] theorem State.updArb_mem (s : State) (n : Nat) (f : Arb → Arb) : (s.updArb n f).mem = s.mem := rfl
@[simp] theorem State.updArb_laps (s : State) (n : Nat) (f : Arb → Arb) : (s.updArb n f).laps = s.laps := rfl
@[simp] theorem State.updArb_recorder (s : State) (n : Nat) (f : Arb → Arb) : (s.updArb n f).recorder = s.recorder := rfl
@[simp] theorem State.updArb_swyWaiting (s : State) (n : Nat) (f : Arb → Arb) : (s.updArb n f).swyWaiting = s.swyWaiting := rfl
@[simp] theorem State.updArb_host (s : State) (n : Nat) (f : Arb → Arb) : (s.updArb n f).host = s.host := rfl
@[simp] theorem State.updArb_mgmt (s : State) (n : Nat) (f : Arb → Arb) : (s.updArb n f).mgmt = s.mgmt := rfl
@[simp] theorem State.updArb_modules (s : State) (n : Nat) (f : Arb → Arb) : (s.updArb n f).modules = s.modules := rfl
@[simp] theorem State.updArb_cores (s : State) (n : Nat) (f : Arb → Arb) : (s.updArb n f).cores = s.cores := rfl
@[simp] theorem State.updArb_taskCount (s : State) (n : Nat) (f : Arb → Arb) : (s.updArb n f).taskCount = s.taskCount := rfl
@[simp] theorem State.updArb_search (s : State) (n : Nat) (f : Arb → Arb) : (s.updArb n f).search = s.search := rfl
@[simp] theorem State.updArb_searchResults (s : State) (n : Nat) (f : Arb → Arb) : (s.updArb n f).searchResults = s.searchResults := rfl
@[simp] theorem State.updArb_ports (s : State) (n : Nat) (f : Arb → Arb) : (s.updArb n f).ports = s.ports := rfl
@[simp] theorem State.updArb_hubs (s : State) (n : Nat) (f : Arb → Arb) : (s.updArb n f).hubs = s.hubs := rfl
@[simp] theorem State.updArb_conns (s : State) (n : Nat) (f : Arb → Arb) : (s.updArb n f).conns = s.conns := rfl
@[simp] theorem State.updArb_connPast (s : State) (n : Nat) (f : Arb → Arb) : (s.updArb n f).connPast = s.connPast := rfl
@[simp] theorem State.updArb_regions (s : State) (n : Nat) (f : Arb → Arb) : (s.updArb n f).regions = s.regions := rfl
@[simp] theorem State.updArb_packs (s : State) (n : Nat) (f : Arb → Arb) : (s.updArb n f).packs = s.packs := rfl
@[simp] theorem State.updArb_fabDone (s : State) (n : Nat) (f : Arb → Arb) : (s.updArb n f).fabDone = s.fabDone := rfl
@[simp] theorem State.updArb_records (s : State) (n : Nat) (f : Arb → Arb) : (s.updArb n f).records = s.records := rfl
@[simp] theorem State.updArb_members (s : State) (n : Nat) (f : Arb → Arb) : (s.updArb n f).members = s.members := rfl
@[simp] theorem State.updArb_comps (s : State) (n : Nat) (f : Arb → Arb) : (s.updArb n f).comps = s.comps := rfl
@[simp] theorem State.updArb_groups (s : State) (n : Nat) (f : Arb → Arb) : (s.updArb n f).groups = s.groups := rfl
@[simp] theorem State.updArb_fuses (s : State) (n : Nat) (f : Arb → Arb) : (s.updArb n f).fuses = s.fuses := rfl
@[simp] theorem State.updArb_heart (s : State) (n : Nat) (f : Arb → Arb) : (s.updArb n f).heart = s.heart := rfl
@[simp] theorem State.updArb_image (s : State) (n : Nat) (f : Arb → Arb) : (s.updArb n f).image = s.image := rfl
@[simp] theorem State.updArb_tests (s : State) (n : Nat) (f : Arb → Arb) : (s.updArb n f).tests = s.tests := rfl
@[simp] theorem State.updArb_power (s : State) (n : Nat) (f : Arb → Arb) : (s.updArb n f).power = s.power := rfl
@[simp] theorem State.updArb_calDue (s : State) (n : Nat) (f : Arb → Arb) : (s.updArb n f).calDue = s.calDue := rfl
@[simp] theorem State.updArb_calFailed (s : State) (n : Nat) (f : Arb → Arb) : (s.updArb n f).calFailed = s.calFailed := rfl
@[simp] theorem State.updArb_calMissing (s : State) (n : Nat) (f : Arb → Arb) : (s.updArb n f).calMissing = s.calMissing := rfl
@[simp] theorem State.updArb_sequencersOut (s : State) (n : Nat) (f : Arb → Arb) : (s.updArb n f).sequencersOut = s.sequencersOut := rfl
@[simp] theorem State.updArb_stands (s : State) (n : Nat) (f : Arb → Arb) : (s.updArb n f).stands = s.stands := rfl

/-! `State.updPower` changes `power` alone -/

@[simp] theorem State.updPower_pending (s : State) (f : Power → Power) : (s.updPower f).pending = s.pending := rfl
@[simp] theorem State.updPower_freeCtr (s : State) (f : Power → Power) : (s.updPower f).freeCtr = s.freeCtr := rfl
@[simp] theorem State.updPower_timeNs (s : State) (f : Power → Power) : (s.updPower f).timeNs = s.timeNs := rfl
@[simp] theorem State.updPower_phase (s : State) (f : Power → Power) : (s.updPower f).phase = s.phase := rfl
@[simp] theorem State.updPower_pins (s : State) (f : Power → Power) : (s.updPower f).pins = s.pins := rfl
@[simp] theorem State.updPower_regs (s : State) (f : Power → Power) : (s.updPower f).regs = s.regs := rfl
@[simp] theorem State.updPower_mem (s : State) (f : Power → Power) : (s.updPower f).mem = s.mem := rfl
@[simp] theorem State.updPower_laps (s : State) (f : Power → Power) : (s.updPower f).laps = s.laps := rfl
@[simp] theorem State.updPower_recorder (s : State) (f : Power → Power) : (s.updPower f).recorder = s.recorder := rfl
@[simp] theorem State.updPower_swyWaiting (s : State) (f : Power → Power) : (s.updPower f).swyWaiting = s.swyWaiting := rfl
@[simp] theorem State.updPower_host (s : State) (f : Power → Power) : (s.updPower f).host = s.host := rfl
@[simp] theorem State.updPower_mgmt (s : State) (f : Power → Power) : (s.updPower f).mgmt = s.mgmt := rfl
@[simp] theorem State.updPower_modules (s : State) (f : Power → Power) : (s.updPower f).modules = s.modules := rfl
@[simp] theorem State.updPower_cores (s : State) (f : Power → Power) : (s.updPower f).cores = s.cores := rfl
@[simp] theorem State.updPower_taskCount (s : State) (f : Power → Power) : (s.updPower f).taskCount = s.taskCount := rfl
@[simp] theorem State.updPower_search (s : State) (f : Power → Power) : (s.updPower f).search = s.search := rfl
@[simp] theorem State.updPower_searchResults (s : State) (f : Power → Power) : (s.updPower f).searchResults = s.searchResults := rfl
@[simp] theorem State.updPower_ports (s : State) (f : Power → Power) : (s.updPower f).ports = s.ports := rfl
@[simp] theorem State.updPower_hubs (s : State) (f : Power → Power) : (s.updPower f).hubs = s.hubs := rfl
@[simp] theorem State.updPower_arbs (s : State) (f : Power → Power) : (s.updPower f).arbs = s.arbs := rfl
@[simp] theorem State.updPower_conns (s : State) (f : Power → Power) : (s.updPower f).conns = s.conns := rfl
@[simp] theorem State.updPower_connPast (s : State) (f : Power → Power) : (s.updPower f).connPast = s.connPast := rfl
@[simp] theorem State.updPower_regions (s : State) (f : Power → Power) : (s.updPower f).regions = s.regions := rfl
@[simp] theorem State.updPower_packs (s : State) (f : Power → Power) : (s.updPower f).packs = s.packs := rfl
@[simp] theorem State.updPower_fabDone (s : State) (f : Power → Power) : (s.updPower f).fabDone = s.fabDone := rfl
@[simp] theorem State.updPower_records (s : State) (f : Power → Power) : (s.updPower f).records = s.records := rfl
@[simp] theorem State.updPower_members (s : State) (f : Power → Power) : (s.updPower f).members = s.members := rfl
@[simp] theorem State.updPower_comps (s : State) (f : Power → Power) : (s.updPower f).comps = s.comps := rfl
@[simp] theorem State.updPower_groups (s : State) (f : Power → Power) : (s.updPower f).groups = s.groups := rfl
@[simp] theorem State.updPower_fuses (s : State) (f : Power → Power) : (s.updPower f).fuses = s.fuses := rfl
@[simp] theorem State.updPower_heart (s : State) (f : Power → Power) : (s.updPower f).heart = s.heart := rfl
@[simp] theorem State.updPower_image (s : State) (f : Power → Power) : (s.updPower f).image = s.image := rfl
@[simp] theorem State.updPower_tests (s : State) (f : Power → Power) : (s.updPower f).tests = s.tests := rfl
@[simp] theorem State.updPower_calDue (s : State) (f : Power → Power) : (s.updPower f).calDue = s.calDue := rfl
@[simp] theorem State.updPower_calFailed (s : State) (f : Power → Power) : (s.updPower f).calFailed = s.calFailed := rfl
@[simp] theorem State.updPower_calMissing (s : State) (f : Power → Power) : (s.updPower f).calMissing = s.calMissing := rfl
@[simp] theorem State.updPower_sequencersOut (s : State) (f : Power → Power) : (s.updPower f).sequencersOut = s.sequencersOut := rfl
@[simp] theorem State.updPower_stands (s : State) (f : Power → Power) : (s.updPower f).stands = s.stands := rfl

/-! `State.updHeart` changes `heart` alone -/

@[simp] theorem State.updHeart_pending (s : State) (f : Heartwood → Heartwood) : (s.updHeart f).pending = s.pending := rfl
@[simp] theorem State.updHeart_freeCtr (s : State) (f : Heartwood → Heartwood) : (s.updHeart f).freeCtr = s.freeCtr := rfl
@[simp] theorem State.updHeart_timeNs (s : State) (f : Heartwood → Heartwood) : (s.updHeart f).timeNs = s.timeNs := rfl
@[simp] theorem State.updHeart_phase (s : State) (f : Heartwood → Heartwood) : (s.updHeart f).phase = s.phase := rfl
@[simp] theorem State.updHeart_pins (s : State) (f : Heartwood → Heartwood) : (s.updHeart f).pins = s.pins := rfl
@[simp] theorem State.updHeart_regs (s : State) (f : Heartwood → Heartwood) : (s.updHeart f).regs = s.regs := rfl
@[simp] theorem State.updHeart_mem (s : State) (f : Heartwood → Heartwood) : (s.updHeart f).mem = s.mem := rfl
@[simp] theorem State.updHeart_laps (s : State) (f : Heartwood → Heartwood) : (s.updHeart f).laps = s.laps := rfl
@[simp] theorem State.updHeart_recorder (s : State) (f : Heartwood → Heartwood) : (s.updHeart f).recorder = s.recorder := rfl
@[simp] theorem State.updHeart_swyWaiting (s : State) (f : Heartwood → Heartwood) : (s.updHeart f).swyWaiting = s.swyWaiting := rfl
@[simp] theorem State.updHeart_host (s : State) (f : Heartwood → Heartwood) : (s.updHeart f).host = s.host := rfl
@[simp] theorem State.updHeart_mgmt (s : State) (f : Heartwood → Heartwood) : (s.updHeart f).mgmt = s.mgmt := rfl
@[simp] theorem State.updHeart_modules (s : State) (f : Heartwood → Heartwood) : (s.updHeart f).modules = s.modules := rfl
@[simp] theorem State.updHeart_cores (s : State) (f : Heartwood → Heartwood) : (s.updHeart f).cores = s.cores := rfl
@[simp] theorem State.updHeart_taskCount (s : State) (f : Heartwood → Heartwood) : (s.updHeart f).taskCount = s.taskCount := rfl
@[simp] theorem State.updHeart_search (s : State) (f : Heartwood → Heartwood) : (s.updHeart f).search = s.search := rfl
@[simp] theorem State.updHeart_searchResults (s : State) (f : Heartwood → Heartwood) : (s.updHeart f).searchResults = s.searchResults := rfl
@[simp] theorem State.updHeart_ports (s : State) (f : Heartwood → Heartwood) : (s.updHeart f).ports = s.ports := rfl
@[simp] theorem State.updHeart_hubs (s : State) (f : Heartwood → Heartwood) : (s.updHeart f).hubs = s.hubs := rfl
@[simp] theorem State.updHeart_arbs (s : State) (f : Heartwood → Heartwood) : (s.updHeart f).arbs = s.arbs := rfl
@[simp] theorem State.updHeart_conns (s : State) (f : Heartwood → Heartwood) : (s.updHeart f).conns = s.conns := rfl
@[simp] theorem State.updHeart_connPast (s : State) (f : Heartwood → Heartwood) : (s.updHeart f).connPast = s.connPast := rfl
@[simp] theorem State.updHeart_regions (s : State) (f : Heartwood → Heartwood) : (s.updHeart f).regions = s.regions := rfl
@[simp] theorem State.updHeart_packs (s : State) (f : Heartwood → Heartwood) : (s.updHeart f).packs = s.packs := rfl
@[simp] theorem State.updHeart_fabDone (s : State) (f : Heartwood → Heartwood) : (s.updHeart f).fabDone = s.fabDone := rfl
@[simp] theorem State.updHeart_records (s : State) (f : Heartwood → Heartwood) : (s.updHeart f).records = s.records := rfl
@[simp] theorem State.updHeart_members (s : State) (f : Heartwood → Heartwood) : (s.updHeart f).members = s.members := rfl
@[simp] theorem State.updHeart_comps (s : State) (f : Heartwood → Heartwood) : (s.updHeart f).comps = s.comps := rfl
@[simp] theorem State.updHeart_groups (s : State) (f : Heartwood → Heartwood) : (s.updHeart f).groups = s.groups := rfl
@[simp] theorem State.updHeart_fuses (s : State) (f : Heartwood → Heartwood) : (s.updHeart f).fuses = s.fuses := rfl
@[simp] theorem State.updHeart_image (s : State) (f : Heartwood → Heartwood) : (s.updHeart f).image = s.image := rfl
@[simp] theorem State.updHeart_tests (s : State) (f : Heartwood → Heartwood) : (s.updHeart f).tests = s.tests := rfl
@[simp] theorem State.updHeart_power (s : State) (f : Heartwood → Heartwood) : (s.updHeart f).power = s.power := rfl
@[simp] theorem State.updHeart_calDue (s : State) (f : Heartwood → Heartwood) : (s.updHeart f).calDue = s.calDue := rfl
@[simp] theorem State.updHeart_calFailed (s : State) (f : Heartwood → Heartwood) : (s.updHeart f).calFailed = s.calFailed := rfl
@[simp] theorem State.updHeart_calMissing (s : State) (f : Heartwood → Heartwood) : (s.updHeart f).calMissing = s.calMissing := rfl
@[simp] theorem State.updHeart_sequencersOut (s : State) (f : Heartwood → Heartwood) : (s.updHeart f).sequencersOut = s.sequencersOut := rfl
@[simp] theorem State.updHeart_stands (s : State) (f : Heartwood → Heartwood) : (s.updHeart f).stands = s.stands := rfl

/-! `State.updFuses` changes `fuses` alone -/

@[simp] theorem State.updFuses_pending (s : State) (f : Fuses → Fuses) : (s.updFuses f).pending = s.pending := rfl
@[simp] theorem State.updFuses_freeCtr (s : State) (f : Fuses → Fuses) : (s.updFuses f).freeCtr = s.freeCtr := rfl
@[simp] theorem State.updFuses_timeNs (s : State) (f : Fuses → Fuses) : (s.updFuses f).timeNs = s.timeNs := rfl
@[simp] theorem State.updFuses_phase (s : State) (f : Fuses → Fuses) : (s.updFuses f).phase = s.phase := rfl
@[simp] theorem State.updFuses_pins (s : State) (f : Fuses → Fuses) : (s.updFuses f).pins = s.pins := rfl
@[simp] theorem State.updFuses_regs (s : State) (f : Fuses → Fuses) : (s.updFuses f).regs = s.regs := rfl
@[simp] theorem State.updFuses_mem (s : State) (f : Fuses → Fuses) : (s.updFuses f).mem = s.mem := rfl
@[simp] theorem State.updFuses_laps (s : State) (f : Fuses → Fuses) : (s.updFuses f).laps = s.laps := rfl
@[simp] theorem State.updFuses_recorder (s : State) (f : Fuses → Fuses) : (s.updFuses f).recorder = s.recorder := rfl
@[simp] theorem State.updFuses_swyWaiting (s : State) (f : Fuses → Fuses) : (s.updFuses f).swyWaiting = s.swyWaiting := rfl
@[simp] theorem State.updFuses_host (s : State) (f : Fuses → Fuses) : (s.updFuses f).host = s.host := rfl
@[simp] theorem State.updFuses_mgmt (s : State) (f : Fuses → Fuses) : (s.updFuses f).mgmt = s.mgmt := rfl
@[simp] theorem State.updFuses_modules (s : State) (f : Fuses → Fuses) : (s.updFuses f).modules = s.modules := rfl
@[simp] theorem State.updFuses_cores (s : State) (f : Fuses → Fuses) : (s.updFuses f).cores = s.cores := rfl
@[simp] theorem State.updFuses_taskCount (s : State) (f : Fuses → Fuses) : (s.updFuses f).taskCount = s.taskCount := rfl
@[simp] theorem State.updFuses_search (s : State) (f : Fuses → Fuses) : (s.updFuses f).search = s.search := rfl
@[simp] theorem State.updFuses_searchResults (s : State) (f : Fuses → Fuses) : (s.updFuses f).searchResults = s.searchResults := rfl
@[simp] theorem State.updFuses_ports (s : State) (f : Fuses → Fuses) : (s.updFuses f).ports = s.ports := rfl
@[simp] theorem State.updFuses_hubs (s : State) (f : Fuses → Fuses) : (s.updFuses f).hubs = s.hubs := rfl
@[simp] theorem State.updFuses_arbs (s : State) (f : Fuses → Fuses) : (s.updFuses f).arbs = s.arbs := rfl
@[simp] theorem State.updFuses_conns (s : State) (f : Fuses → Fuses) : (s.updFuses f).conns = s.conns := rfl
@[simp] theorem State.updFuses_connPast (s : State) (f : Fuses → Fuses) : (s.updFuses f).connPast = s.connPast := rfl
@[simp] theorem State.updFuses_regions (s : State) (f : Fuses → Fuses) : (s.updFuses f).regions = s.regions := rfl
@[simp] theorem State.updFuses_packs (s : State) (f : Fuses → Fuses) : (s.updFuses f).packs = s.packs := rfl
@[simp] theorem State.updFuses_fabDone (s : State) (f : Fuses → Fuses) : (s.updFuses f).fabDone = s.fabDone := rfl
@[simp] theorem State.updFuses_records (s : State) (f : Fuses → Fuses) : (s.updFuses f).records = s.records := rfl
@[simp] theorem State.updFuses_members (s : State) (f : Fuses → Fuses) : (s.updFuses f).members = s.members := rfl
@[simp] theorem State.updFuses_comps (s : State) (f : Fuses → Fuses) : (s.updFuses f).comps = s.comps := rfl
@[simp] theorem State.updFuses_groups (s : State) (f : Fuses → Fuses) : (s.updFuses f).groups = s.groups := rfl
@[simp] theorem State.updFuses_heart (s : State) (f : Fuses → Fuses) : (s.updFuses f).heart = s.heart := rfl
@[simp] theorem State.updFuses_image (s : State) (f : Fuses → Fuses) : (s.updFuses f).image = s.image := rfl
@[simp] theorem State.updFuses_tests (s : State) (f : Fuses → Fuses) : (s.updFuses f).tests = s.tests := rfl
@[simp] theorem State.updFuses_power (s : State) (f : Fuses → Fuses) : (s.updFuses f).power = s.power := rfl
@[simp] theorem State.updFuses_calDue (s : State) (f : Fuses → Fuses) : (s.updFuses f).calDue = s.calDue := rfl
@[simp] theorem State.updFuses_calFailed (s : State) (f : Fuses → Fuses) : (s.updFuses f).calFailed = s.calFailed := rfl
@[simp] theorem State.updFuses_calMissing (s : State) (f : Fuses → Fuses) : (s.updFuses f).calMissing = s.calMissing := rfl
@[simp] theorem State.updFuses_sequencersOut (s : State) (f : Fuses → Fuses) : (s.updFuses f).sequencersOut = s.sequencersOut := rfl
@[simp] theorem State.updFuses_stands (s : State) (f : Fuses → Fuses) : (s.updFuses f).stands = s.stands := rfl

/-! `State.setTask` changes `cores` alone -/

@[simp] theorem State.setTask_pending (s : State) (v : Nat) (t : Option VTask) : (s.setTask v t).pending = s.pending := rfl
@[simp] theorem State.setTask_freeCtr (s : State) (v : Nat) (t : Option VTask) : (s.setTask v t).freeCtr = s.freeCtr := rfl
@[simp] theorem State.setTask_timeNs (s : State) (v : Nat) (t : Option VTask) : (s.setTask v t).timeNs = s.timeNs := rfl
@[simp] theorem State.setTask_phase (s : State) (v : Nat) (t : Option VTask) : (s.setTask v t).phase = s.phase := rfl
@[simp] theorem State.setTask_pins (s : State) (v : Nat) (t : Option VTask) : (s.setTask v t).pins = s.pins := rfl
@[simp] theorem State.setTask_regs (s : State) (v : Nat) (t : Option VTask) : (s.setTask v t).regs = s.regs := rfl
@[simp] theorem State.setTask_mem (s : State) (v : Nat) (t : Option VTask) : (s.setTask v t).mem = s.mem := rfl
@[simp] theorem State.setTask_laps (s : State) (v : Nat) (t : Option VTask) : (s.setTask v t).laps = s.laps := rfl
@[simp] theorem State.setTask_recorder (s : State) (v : Nat) (t : Option VTask) : (s.setTask v t).recorder = s.recorder := rfl
@[simp] theorem State.setTask_swyWaiting (s : State) (v : Nat) (t : Option VTask) : (s.setTask v t).swyWaiting = s.swyWaiting := rfl
@[simp] theorem State.setTask_host (s : State) (v : Nat) (t : Option VTask) : (s.setTask v t).host = s.host := rfl
@[simp] theorem State.setTask_mgmt (s : State) (v : Nat) (t : Option VTask) : (s.setTask v t).mgmt = s.mgmt := rfl
@[simp] theorem State.setTask_modules (s : State) (v : Nat) (t : Option VTask) : (s.setTask v t).modules = s.modules := rfl
@[simp] theorem State.setTask_taskCount (s : State) (v : Nat) (t : Option VTask) : (s.setTask v t).taskCount = s.taskCount := rfl
@[simp] theorem State.setTask_search (s : State) (v : Nat) (t : Option VTask) : (s.setTask v t).search = s.search := rfl
@[simp] theorem State.setTask_searchResults (s : State) (v : Nat) (t : Option VTask) : (s.setTask v t).searchResults = s.searchResults := rfl
@[simp] theorem State.setTask_ports (s : State) (v : Nat) (t : Option VTask) : (s.setTask v t).ports = s.ports := rfl
@[simp] theorem State.setTask_hubs (s : State) (v : Nat) (t : Option VTask) : (s.setTask v t).hubs = s.hubs := rfl
@[simp] theorem State.setTask_arbs (s : State) (v : Nat) (t : Option VTask) : (s.setTask v t).arbs = s.arbs := rfl
@[simp] theorem State.setTask_conns (s : State) (v : Nat) (t : Option VTask) : (s.setTask v t).conns = s.conns := rfl
@[simp] theorem State.setTask_connPast (s : State) (v : Nat) (t : Option VTask) : (s.setTask v t).connPast = s.connPast := rfl
@[simp] theorem State.setTask_regions (s : State) (v : Nat) (t : Option VTask) : (s.setTask v t).regions = s.regions := rfl
@[simp] theorem State.setTask_packs (s : State) (v : Nat) (t : Option VTask) : (s.setTask v t).packs = s.packs := rfl
@[simp] theorem State.setTask_fabDone (s : State) (v : Nat) (t : Option VTask) : (s.setTask v t).fabDone = s.fabDone := rfl
@[simp] theorem State.setTask_records (s : State) (v : Nat) (t : Option VTask) : (s.setTask v t).records = s.records := rfl
@[simp] theorem State.setTask_members (s : State) (v : Nat) (t : Option VTask) : (s.setTask v t).members = s.members := rfl
@[simp] theorem State.setTask_comps (s : State) (v : Nat) (t : Option VTask) : (s.setTask v t).comps = s.comps := rfl
@[simp] theorem State.setTask_groups (s : State) (v : Nat) (t : Option VTask) : (s.setTask v t).groups = s.groups := rfl
@[simp] theorem State.setTask_fuses (s : State) (v : Nat) (t : Option VTask) : (s.setTask v t).fuses = s.fuses := rfl
@[simp] theorem State.setTask_heart (s : State) (v : Nat) (t : Option VTask) : (s.setTask v t).heart = s.heart := rfl
@[simp] theorem State.setTask_image (s : State) (v : Nat) (t : Option VTask) : (s.setTask v t).image = s.image := rfl
@[simp] theorem State.setTask_tests (s : State) (v : Nat) (t : Option VTask) : (s.setTask v t).tests = s.tests := rfl
@[simp] theorem State.setTask_power (s : State) (v : Nat) (t : Option VTask) : (s.setTask v t).power = s.power := rfl
@[simp] theorem State.setTask_calDue (s : State) (v : Nat) (t : Option VTask) : (s.setTask v t).calDue = s.calDue := rfl
@[simp] theorem State.setTask_calFailed (s : State) (v : Nat) (t : Option VTask) : (s.setTask v t).calFailed = s.calFailed := rfl
@[simp] theorem State.setTask_calMissing (s : State) (v : Nat) (t : Option VTask) : (s.setTask v t).calMissing = s.calMissing := rfl
@[simp] theorem State.setTask_sequencersOut (s : State) (v : Nat) (t : Option VTask) : (s.setTask v t).sequencersOut = s.sequencersOut := rfl
@[simp] theorem State.setTask_stands (s : State) (v : Nat) (t : Option VTask) : (s.setTask v t).stands = s.stands := rfl

/-! `State.copyMem` changes `mem` alone -/

@[simp] theorem State.copyMem_pending (s : State) (dst src len : Nat) : (s.copyMem dst src len).pending = s.pending := rfl
@[simp] theorem State.copyMem_freeCtr (s : State) (dst src len : Nat) : (s.copyMem dst src len).freeCtr = s.freeCtr := rfl
@[simp] theorem State.copyMem_timeNs (s : State) (dst src len : Nat) : (s.copyMem dst src len).timeNs = s.timeNs := rfl
@[simp] theorem State.copyMem_phase (s : State) (dst src len : Nat) : (s.copyMem dst src len).phase = s.phase := rfl
@[simp] theorem State.copyMem_pins (s : State) (dst src len : Nat) : (s.copyMem dst src len).pins = s.pins := rfl
@[simp] theorem State.copyMem_regs (s : State) (dst src len : Nat) : (s.copyMem dst src len).regs = s.regs := rfl
@[simp] theorem State.copyMem_laps (s : State) (dst src len : Nat) : (s.copyMem dst src len).laps = s.laps := rfl
@[simp] theorem State.copyMem_recorder (s : State) (dst src len : Nat) : (s.copyMem dst src len).recorder = s.recorder := rfl
@[simp] theorem State.copyMem_swyWaiting (s : State) (dst src len : Nat) : (s.copyMem dst src len).swyWaiting = s.swyWaiting := rfl
@[simp] theorem State.copyMem_host (s : State) (dst src len : Nat) : (s.copyMem dst src len).host = s.host := rfl
@[simp] theorem State.copyMem_mgmt (s : State) (dst src len : Nat) : (s.copyMem dst src len).mgmt = s.mgmt := rfl
@[simp] theorem State.copyMem_modules (s : State) (dst src len : Nat) : (s.copyMem dst src len).modules = s.modules := rfl
@[simp] theorem State.copyMem_cores (s : State) (dst src len : Nat) : (s.copyMem dst src len).cores = s.cores := rfl
@[simp] theorem State.copyMem_taskCount (s : State) (dst src len : Nat) : (s.copyMem dst src len).taskCount = s.taskCount := rfl
@[simp] theorem State.copyMem_search (s : State) (dst src len : Nat) : (s.copyMem dst src len).search = s.search := rfl
@[simp] theorem State.copyMem_searchResults (s : State) (dst src len : Nat) : (s.copyMem dst src len).searchResults = s.searchResults := rfl
@[simp] theorem State.copyMem_ports (s : State) (dst src len : Nat) : (s.copyMem dst src len).ports = s.ports := rfl
@[simp] theorem State.copyMem_hubs (s : State) (dst src len : Nat) : (s.copyMem dst src len).hubs = s.hubs := rfl
@[simp] theorem State.copyMem_arbs (s : State) (dst src len : Nat) : (s.copyMem dst src len).arbs = s.arbs := rfl
@[simp] theorem State.copyMem_conns (s : State) (dst src len : Nat) : (s.copyMem dst src len).conns = s.conns := rfl
@[simp] theorem State.copyMem_connPast (s : State) (dst src len : Nat) : (s.copyMem dst src len).connPast = s.connPast := rfl
@[simp] theorem State.copyMem_regions (s : State) (dst src len : Nat) : (s.copyMem dst src len).regions = s.regions := rfl
@[simp] theorem State.copyMem_packs (s : State) (dst src len : Nat) : (s.copyMem dst src len).packs = s.packs := rfl
@[simp] theorem State.copyMem_fabDone (s : State) (dst src len : Nat) : (s.copyMem dst src len).fabDone = s.fabDone := rfl
@[simp] theorem State.copyMem_records (s : State) (dst src len : Nat) : (s.copyMem dst src len).records = s.records := rfl
@[simp] theorem State.copyMem_members (s : State) (dst src len : Nat) : (s.copyMem dst src len).members = s.members := rfl
@[simp] theorem State.copyMem_comps (s : State) (dst src len : Nat) : (s.copyMem dst src len).comps = s.comps := rfl
@[simp] theorem State.copyMem_groups (s : State) (dst src len : Nat) : (s.copyMem dst src len).groups = s.groups := rfl
@[simp] theorem State.copyMem_fuses (s : State) (dst src len : Nat) : (s.copyMem dst src len).fuses = s.fuses := rfl
@[simp] theorem State.copyMem_heart (s : State) (dst src len : Nat) : (s.copyMem dst src len).heart = s.heart := rfl
@[simp] theorem State.copyMem_image (s : State) (dst src len : Nat) : (s.copyMem dst src len).image = s.image := rfl
@[simp] theorem State.copyMem_tests (s : State) (dst src len : Nat) : (s.copyMem dst src len).tests = s.tests := rfl
@[simp] theorem State.copyMem_power (s : State) (dst src len : Nat) : (s.copyMem dst src len).power = s.power := rfl
@[simp] theorem State.copyMem_calDue (s : State) (dst src len : Nat) : (s.copyMem dst src len).calDue = s.calDue := rfl
@[simp] theorem State.copyMem_calFailed (s : State) (dst src len : Nat) : (s.copyMem dst src len).calFailed = s.calFailed := rfl
@[simp] theorem State.copyMem_calMissing (s : State) (dst src len : Nat) : (s.copyMem dst src len).calMissing = s.calMissing := rfl
@[simp] theorem State.copyMem_sequencersOut (s : State) (dst src len : Nat) : (s.copyMem dst src len).sequencersOut = s.sequencersOut := rfl
@[simp] theorem State.copyMem_stands (s : State) (dst src len : Nat) : (s.copyMem dst src len).stands = s.stands := rfl

/-! Registers -/

theorem State.reg_setReg (s : State) (r r' : Reg) (i j i' j' v : Nat) :
    (s.setReg r i j v).reg r' i' j' = if r'.addr i' j' = r.addr i j then v % 2 ^ 64 else s.reg r' i' j' := by
  unfold State.reg State.setReg
  simp only [SMap.get?_set]
  by_cases h : r'.addr i' j' = r.addr i j
  · rw [if_pos h, if_pos h]; exact BitVec.toNat_ofNat v 64
  · rw [if_neg h, if_neg h]

/-- A register just set reads as the value, in 64 bits. -/
theorem State.reg_setReg_self (s : State) (r : Reg) (i j v : Nat) : (s.setReg r i j v).reg r i j = v % 2 ^ 64 := by
  rw [State.reg_setReg, if_pos rfl]

/-- A register at another address keeps its value. -/
theorem State.reg_setReg_ne {s : State} {r r' : Reg} {i j i' j' v : Nat} (h : r'.addr i' j' ≠ r.addr i j) :
    (s.setReg r i j v).reg r' i' j' = s.reg r' i' j' := by
  rw [State.reg_setReg, if_neg h]

theorem State.reg_setFld_ne {s : State} {f : Field} {r : Reg} {i j i' j' v : Nat} (h : r.addr i' j' ≠ f.reg.addr i j) :
    (s.setFld f i j v).reg r i' j' = s.reg r i' j' := State.reg_setReg_ne h

theorem bits_mod_word {x lo w : Nat} (h : lo + w ≤ 64) : bits (x % 2 ^ 64) lo w = bits x lo w := by
  apply Nat.eq_of_testBit_eq
  intro k
  simp only [bits, Nat.testBit_mod_two_pow, Nat.testBit_div_two_pow]
  by_cases hk : k < w
  · simp [hk, show k + lo < 64 by omega]
  · simp [hk]

/-- A field just set reads as the value, cut to its width. -/
theorem State.fld_setFld_self {s : State} {f : Field} {i j v : Nat} (h : f.lo + f.w ≤ 64) :
    (s.setFld f i j v).fld f i j = v % 2 ^ f.w := by
  unfold State.fld State.setFld
  rw [State.reg_setReg_self, bits_mod_word h, bits_setBits_self]

/-- A field of a register at another address keeps its value. -/
theorem State.fld_setFld_ne {s : State} {f g : Field} {i j i' j' v : Nat} (h : g.reg.addr i' j' ≠ f.reg.addr i j) :
    (s.setFld f i j v).fld g i' j' = s.fld g i' j' := by
  unfold State.fld
  rw [State.reg_setFld_ne h]

/-! Keyed components -/

theorem State.stand_setStand (s : State) (n m : Nat) (x : Stand) :
    (s.setStand n x).stand m = if m = n then x else s.stand m := by
  simp only [State.stand, State.setStand, SMap.get?_set]
  split <;> rfl

@[simp] theorem State.stand_setStand_self (s : State) (n : Nat) (x : Stand) : (s.setStand n x).stand n = x := by
  rw [State.stand_setStand, if_pos rfl]

@[simp] theorem State.stand_updStand_self (s : State) (n : Nat) (f : Stand → Stand) :
    (s.updStand n f).stand n = f (s.stand n) := State.stand_setStand_self s n _

theorem State.stand_updStand_ne {s : State} {n m : Nat} {f : Stand → Stand} (h : m ≠ n) :
    (s.updStand n f).stand m = s.stand m := by
  rw [State.updStand, State.stand_setStand, if_neg h]

@[simp] theorem State.stand_setReg (s : State) (r : Reg) (i j v n : Nat) : (s.setReg r i j v).stand n = s.stand n := rfl
@[simp] theorem State.stand_setFld (s : State) (f : Field) (i j v n : Nat) : (s.setFld f i j v).stand n = s.stand n := rfl
@[simp] theorem State.reg_updStand (s : State) (r : Reg) (i j n : Nat) (f : Stand → Stand) :
    (s.updStand n f).reg r i j = s.reg r i j := rfl
@[simp] theorem State.fld_updStand (s : State) (g : Field) (i j n : Nat) (f : Stand → Stand) :
    (s.updStand n f).fld g i j = s.fld g i j := rfl

@[simp] theorem State.port_updPort_self (s : State) (p : Nat) (f : Port → Port) : (s.updPort p f).port p = f (s.port p) := by
  simp [State.port, State.updPort]

theorem State.port_updPort_ne {s : State} {p q : Nat} {f : Port → Port} (h : q ≠ p) :
    (s.updPort p f).port q = s.port q := by
  simp [State.port, State.updPort, SMap.get?_set, h]

@[simp] theorem State.hub_updHub_self (s : State) (h : Nat) (f : Hub → Hub) : (s.updHub h f).hub h = f (s.hub h) := by
  simp [State.hub, State.updHub]

@[simp] theorem State.arb_updArb_self (s : State) (n : Nat) (f : Arb → Arb) : (s.updArb n f).arb n = f (s.arb n) := by
  simp [State.arb, State.updArb]

@[simp] theorem State.core_setTask_self (s : State) (v : Nat) (t : Option VTask) :
    (s.setTask v t).core v = { s.core v with task := t } := by
  simp [State.core, State.setTask]

@[simp] theorem State.task_setTask_self (s : State) (v : Nat) (t : Option VTask) : (s.setTask v t).task v = t := by
  simp [State.task]

@[simp] theorem State.setTask_setTask (s : State) (v : Nat) (t u : Option VTask) :
    (s.setTask v t).setTask v u = s.setTask v u := by
  unfold State.setTask State.core
  simp

theorem State.core_setTask_ne {s : State} {v u : Nat} {t : Option VTask} (h : u ≠ v) :
    (s.setTask v t).core u = s.core u := by
  simp [State.core, State.setTask, SMap.get?_set, h]

end Sys2Proof.Machine
end

