-- ==== Sys2Proof/Laws/Chisyn.lean ====
section
/-! SUPPORT. What the shared operations of the Chisyn instructions do: issue, elements of a vector register, masks and
scalar registers. -/

namespace Sys2Proof.Machine

open Sys2Proof

/-! Registers of a task -/

theorem VTask.vreg_setV (t : VTask) (r q : BitVec 5) (w : BitVec 512) :
    (t.setV r w).vreg q = if q = r then w else t.vreg q := by
  simp only [VTask.vreg, VTask.setV, SMap.get?_set, BitVec.toNat_inj]
  split <;> rfl

theorem VTask.xreg_setX (t : VTask) (r q : BitVec 5) (w : Word) :
    (t.setX r w).xreg q = if q = r ∧ r ≠ 0 then w else t.xreg q := by
  unfold VTask.xreg VTask.setX
  by_cases hr : r = 0
  · have hc : ¬ (q = r ∧ r ≠ 0) := fun h => h.2 hr
    rw [if_pos hr, if_neg hc]
  · rw [if_neg hr]
    by_cases hq : q = 0
    · have hc : ¬ (q = r ∧ r ≠ 0) := fun h => hr (h.1 ▸ hq)
      rw [if_pos hq, if_pos hq, if_neg hc]
    · rw [if_neg hq, if_neg hq, SMap.get?_set]
      by_cases h : q = r
      · rw [if_pos (by rw [h]), if_pos ⟨h, hr⟩]; rfl
      · rw [if_neg (fun e => h (BitVec.eq_of_toNat_eq e)), if_neg (fun e => h e.1)]

theorem VTask.mreg_setM (t : VTask) (r q : BitVec 3) (w : BitVec 16) :
    (t.setM r w).mreg q = if q = r ∧ r ≠ 0 then w else t.mreg q := by
  unfold VTask.mreg VTask.setM
  by_cases hr : r = 0
  · have hc : ¬ (q = r ∧ r ≠ 0) := fun h => h.2 hr
    rw [if_pos hr, if_neg hc]
  · rw [if_neg hr]
    by_cases hq : q = 0
    · have hc : ¬ (q = r ∧ r ≠ 0) := fun h => hr (h.1 ▸ hq)
      rw [if_pos hq, if_pos hq, if_neg hc]
    · rw [if_neg hq, if_neg hq, SMap.get?_set]
      by_cases h : q = r
      · rw [if_pos (by rw [h]), if_pos ⟨h, hr⟩]; rfl
      · rw [if_neg (fun e => h (BitVec.eq_of_toNat_eq e)), if_neg (fun e => h e.1)]

/-! Elements -/

theorem setBits_lt {x lo w v n : Nat} (hx : x < 2 ^ n) (h : lo + w ≤ n) : setBits x lo w v < 2 ^ n := by
  obtain ⟨d, rfl⟩ := Nat.exists_eq_add_of_le h
  rw [setBits_split]
  have hv := field_lt (Nat.mod_lt v (Nat.two_pow_pos w)) (Nat.mod_lt x (Nat.two_pow_pos lo))
  have hq : x / 2 ^ (lo + w) < 2 ^ d := Nat.div_lt_of_lt_mul (by rw [← Nat.pow_add]; exact hx)
  have := field_lt hq hv
  exact this

theorem element_setElement {x : BitVec 512} {w k j v : Nat} (hk : w * (k + 1) ≤ 512) :
    element (setElement x w k v) w j = if j = k then v % 2 ^ w else element x w j := by
  have hs : setBits x.toNat (w * k) w v < 2 ^ 512 := setBits_lt x.isLt (by rw [Nat.mul_succ] at hk; exact hk)
  have he : (setElement x w k v).toNat = setBits x.toNat (w * k) w v := Nat.mod_eq_of_lt hs
  unfold element
  rw [he]
  split
  · rename_i h; subst h; exact bits_setBits_self _ _ _ _
  · rename_i h
    rcases Nat.lt_or_gt_of_ne h with h | h
    · exact bits_setBits_below (by have := Nat.mul_le_mul_left w h; rw [Nat.mul_succ] at this; exact this)
    · exact bits_setBits_above (by have := Nat.mul_le_mul_left w h; rw [Nat.mul_succ] at this; exact this)

/-- Elements set one after another from a list of distinct places. -/
theorem element_foldl {w j : Nat} {l : List (Nat × Nat)} (hl : ∀ p ∈ l, w * (p.1 + 1) ≤ 512) (hn : (l.map (·.1)).Nodup)
    (x : BitVec 512) :
    element (l.foldl (fun x p => setElement x w p.1 p.2) x) w j =
      match l.find? (fun p => p.1 == j) with
      | some p => p.2 % 2 ^ w
      | none => element x w j := by
  induction l generalizing x with
  | nil => rfl
  | cons p l ih =>
    rw [List.map_cons, List.nodup_cons] at hn
    rw [List.foldl_cons, ih (fun q hq => hl q (List.mem_cons_of_mem _ hq)) hn.2, List.find?_cons]
    by_cases hp : p.1 = j
    · have : l.find? (fun q => q.1 == j) = none := by
        rw [List.find?_eq_none]
        intro q hq he
        exact hn.1 (List.mem_map.2 ⟨q, hq, by rw [hp]; exact eq_of_beq he⟩)
      simp only [this, hp, beq_self_eq_true]
      rw [element_setElement (hp ▸ hl p (List.mem_cons_self ..)), if_pos rfl]
    · have : (p.1 == j) = false := by simpa using hp
      simp only [this]
      cases l.find? (fun q => q.1 == j) with
      | some q => rfl
      | none => exact (element_setElement (hl p (List.mem_cons_self ..))).trans (if_neg (Ne.symm hp))

theorem find_lanes {t : VTask} {i : VWord} {w k : Nat} {f : Nat → Nat × Flags} (hk : k < 512 / w) :
    (((activeLanes t i w).map (fun k => (k, f k))).map (fun p => (p.1, p.2.1))).find? (fun p => p.1 == k) =
      if t.lane i (laneOf w k) then some (k, (f k).1) else none := by
  split
  · rename_i h
    have hm : (k, (f k).1) ∈ ((activeLanes t i w).map (fun k => (k, f k))).map (fun p => (p.1, p.2.1)) := by
      exact List.mem_map.2 ⟨_, List.mem_map.2 ⟨k, List.mem_filter.2 ⟨List.mem_range.2 hk, h⟩, rfl⟩, rfl⟩
    cases hf : (((activeLanes t i w).map (fun k => (k, f k))).map (fun p => (p.1, p.2.1))).find? (fun p => p.1 == k) with
    | none => exact absurd (beq_self_eq_true k) (by simpa using (List.find?_eq_none.1 hf) _ hm)
    | some p =>
      have h1 := List.find?_some hf
      have h2 := List.mem_of_find?_eq_some hf
      simp only [List.mem_map] at h2
      obtain ⟨q, ⟨j, _, rfl⟩, rfl⟩ := h2
      have : j = k := eq_of_beq h1
      subst this; rfl
  · rename_i h
    rw [List.find?_eq_none]
    intro p hp he
    simp only [List.mem_map, activeLanes, List.mem_filter] at hp
    obtain ⟨q, ⟨j, ⟨_, hj⟩, rfl⟩, rfl⟩ := hp
    have : j = k := eq_of_beq he
    subst this; exact h hj

/-- What an elementwise write leaves in the destination (R83). -/
theorem VTask.element_elementwise {t : VTask} {i : VWord} {w k : Nat} {f : Nat → Nat × Flags} (hw : w = 16 ∨ w = 32)
    (hk : k < 512 / w) :
    element ((t.elementwise i w f).vreg i.dst) w k =
      if t.lane i (laneOf w k) then (f k).1 % 2 ^ w else element (t.vreg i.dst) w k := by
  have e : (t.elementwise i w f).vreg i.dst =
      (((activeLanes t i w).map (fun k => (k, f k))).map (fun p => (p.1, p.2.1))).foldl
        (fun x p => setElement x w p.1 p.2) (t.vreg i.dst) := by
    rw [List.foldl_map]
    have := VTask.vreg_setV t i.dst i.dst
    simp only [VTask.elementwise, VTask.raise, VTask.vreg, VTask.setV, SMap.get?_set_self, Option.getD_some]
    rfl
  rw [e, element_foldl, find_lanes hk]
  · split <;> rename_i h <;> split at h <;> simp_all
    cases h; rfl
  · intro p hp
    simp only [List.mem_map, activeLanes, List.mem_filter, List.mem_range] at hp
    obtain ⟨q, ⟨j, ⟨hj, _⟩, rfl⟩, rfl⟩ := hp
    rcases hw with rfl | rfl <;> simp only [] <;> omega
  · rw [List.map_map, List.map_map]
    exact (List.map_id (activeLanes t i w)).symm ▸ (List.nodup_range).filter _

/-- An elementwise write changes the destination and the flags alone. -/
theorem VTask.elementwise_eq (t : VTask) (i : VWord) (w : Nat) (f : Nat → Nat × Flags) :
    t.elementwise i w f = { t with v := (t.elementwise i w f).v,
                                   flags := t.flags.or (Flags.all ((activeLanes t i w).map (fun k => (f k).2))) } := by
  simp only [VTask.elementwise, VTask.raise, VTask.setV, activeLanes, List.map_map]
  rfl

theorem VTask.vreg_elementwise_ne {t : VTask} {i : VWord} {w : Nat} {f : Nat → Nat × Flags} {r : BitVec 5}
    (h : r ≠ i.dst) : (t.elementwise i w f).vreg r = t.vreg r := by
  have e : ∀ fl, ((t.elementwise i w f).vreg r) = ({ t.setV i.dst ((t.elementwise i w f).vreg i.dst) with flags := fl }).vreg r := by
    intro fl
    simp only [VTask.elementwise, VTask.raise, VTask.vreg, VTask.setV, SMap.get?_set_self, Option.getD_some]
  rw [e t.flags]
  exact (VTask.vreg_setV ..).trans (if_neg h)

/-! Masks -/

theorem testBit_setBits_one (x k j : Nat) (b : Bool) :
    (setBits x k 1 (b01 b)).testBit j = if j = k then b else x.testBit j := by
  have key : ∀ y j : Nat, y.testBit j = (bits y j 1 == 1) := by
    intro y j
    simp only [bits, Nat.testBit, Nat.shiftRight_eq_div_pow, Nat.one_and_eq_mod_two, Nat.pow_one]
    rcases Nat.mod_two_eq_zero_or_one (y / 2 ^ j) with h | h <;> rw [h] <;> rfl
  rw [key, key x]
  split
  · rename_i h; subst h
    rw [bits_setBits_self]
    cases b <;> rfl
  · rename_i h
    rcases Nat.lt_or_gt_of_ne h with h | h
    · rw [bits_setBits_below (by omega)]
    · rw [bits_setBits_above (by omega)]

theorem testBit_foldl {l : List Nat} {f : Nat → Bool × Flags} (hn : l.Nodup) (x k : Nat) :
    ((l.map (fun k => (k, f k))).foldl (fun x r => setBits x r.1 1 (b01 r.2.1)) x).testBit k =
      if k ∈ l then (f k).1 else x.testBit k := by
  induction l generalizing x with
  | nil => rfl
  | cons a l ih =>
    rw [List.nodup_cons] at hn
    rw [List.map_cons, List.foldl_cons, ih hn.2, testBit_setBits_one]
    by_cases hk : k = a
    · subst hk; simp [hn.1]
    · simp [hk]

/-- What a write of a mask leaves in it (R83). -/
theorem VTask.mreg_maskwise {t : VTask} {i : VWord} {f : Nat → Bool × Flags} {k : Nat} (hk : k < 16) :
    ((t.maskwise i f).mreg (maskNum i.dst)).getLsbD k =
      if t.lane i k ∧ maskNum i.dst ≠ 0 then (f k).1 else (t.mreg (maskNum i.dst)).getLsbD k := by
  have e : (t.maskwise i f).mreg (maskNum i.dst) = (t.setM (maskNum i.dst) (BitVec.ofNat 16
      ((((List.range 16).filter (t.lane i)).map (fun k => (k, f k))).foldl (fun x r => setBits x r.1 1 (b01 r.2.1))
        (t.mreg (maskNum i.dst)).toNat))).mreg (maskNum i.dst) := rfl
  rw [e, VTask.mreg_setM]
  by_cases hd : maskNum i.dst = 0
  · rw [if_neg (fun h => h.2 hd), if_neg (fun h => h.2 hd)]
  · rw [if_pos ⟨rfl, hd⟩, BitVec.getLsbD_ofNat, testBit_foldl ((List.nodup_range).filter _)]
    simp only [hk, decide_true, Bool.true_and, List.mem_filter, List.mem_range, true_and]
    by_cases hl : t.lane i k = true
    · rw [if_pos hl, if_pos ⟨hl, hd⟩]
    · rw [if_neg hl, if_neg (fun h => hl h.1)]; rfl

theorem VTask.maskwise_eq (t : VTask) (i : VWord) (f : Nat → Bool × Flags) :
    t.maskwise i f = { t with m := (t.maskwise i f).m,
                              flags := t.flags.or (Flags.all (((List.range 16).filter (t.lane i)).map (fun k => (f k).2))) } := by
  simp only [VTask.maskwise, VTask.raise, VTask.setM, List.map_map]
  split <;> rfl

theorem VTask.mreg_maskwise_ne {t : VTask} {i : VWord} {f : Nat → Bool × Flags} {r : BitVec 3} (h : r ≠ maskNum i.dst) :
    (t.maskwise i f).mreg r = t.mreg r := by
  have e : (t.maskwise i f).mreg r = (t.setM (maskNum i.dst) (BitVec.ofNat 16
      ((((List.range 16).filter (t.lane i)).map (fun k => (k, f k))).foldl (fun x r => setBits x r.1 1 (b01 r.2.1))
        (t.mreg (maskNum i.dst)).toNat))).mreg r := rfl
  rw [e, VTask.mreg_setM, if_neg (fun h' => h h'.1)]

/-! Issue -/

/-- A ready task runs the instruction. -/
theorem State.vrun_ready {s : State} {v : Nat} {uses : List Nat} {t : VTask} {ok : Bool} {f : VTask → State → State}
    (h : Issues s v uses t) (hok : ok = true) : s.vrun v uses ok f = f t s := by
  unfold State.vrun
  rw [h.task]
  have hf : uses.all (fun r => !t.locked.contains r) = true := by
    rw [List.all_eq_true]
    intro r hr
    simpa using h.free r hr
  simp only [h.waits, hok, hf, and_self, if_true]

/-- An instruction that cannot issue changes nothing (log 16). -/
theorem State.vrun_idle {s : State} {v : Nat} {uses : List Nat} {ok : Bool} {f : VTask → State → State}
    (h : ∀ t, s.task v = some t → t.wait ≠ .none ∨ ok = false ∨ ∃ r ∈ uses, r ∈ t.locked) : s.vrun v uses ok f = s := by
  unfold State.vrun
  split
  · rename_i t ht
    split
    · rename_i hc
      obtain ⟨h1, h2, h3⟩ := hc
      rcases h t ht with h | h | ⟨r, hr, hl⟩
      · exact absurd h1 h
      · rw [h2] at h; cases h
      · rw [List.all_eq_true] at h3
        have := h3 r hr
        simp [hl] at this
    · rfl
  · rfl

/-- An instruction over the elements of V[DST] has its lane effect. -/
theorem lanes_of_vpure {s : State} {v : Nat} {i : VWord} {t : VTask} {uses : List Nat} {ok : Bool} {w : Nat}
    {f : Nat → Nat × Flags} {g : VTask → VTask} (h : Issues s v uses t) (hok : ok = true) (hw : w = 16 ∨ w = 32)
    (hg : g t = t.elementwise i w f) : LaneEffect s v i t w f (.next (s.vpure v uses ok g)) := by
  refine ⟨(g t).next, by rw [State.vpure, State.vrun_ready h hok], ?_, fun r hr => ?_, fun k hk => ?_⟩
  · rw [hg, VTask.next]
    rw [VTask.elementwise_eq]
  · rw [hg]; exact VTask.vreg_elementwise_ne hr
  · rw [hg]; exact VTask.element_elementwise hw hk

/-- The same for an instruction that draws an open value. -/
theorem lanes_of_vfree {s : State} {v : Nat} {i : VWord} {t : VTask} {uses : List Nat} {ok : Bool} {w : Nat}
    {f : Nat → Nat × Flags} {g : Nat → VTask → VTask} (h : Issues s v uses t) (hok : ok = true) (hw : w = 16 ∨ w = 32)
    (hg : g s.freeCtr t = t.elementwise i w f) :
    LaneEffect { s with freeCtr := s.freeCtr + 1 } v i t w f (.next (s.vfree v uses ok g)) := by
  refine ⟨(g s.freeCtr t).next, by rw [State.vfree, State.vrun_ready h hok], ?_, fun r hr => ?_, fun k hk => ?_⟩
  · rw [hg, VTask.next]
    rw [VTask.elementwise_eq]
  · rw [hg]; exact VTask.vreg_elementwise_ne hr
  · rw [hg]; exact VTask.element_elementwise hw hk

theorem masks_of_vpure {s : State} {v : Nat} {i : VWord} {t : VTask} {uses : List Nat} {ok : Bool}
    {f : Nat → Bool × Flags} {g : VTask → VTask} (h : Issues s v uses t) (hok : ok = true) (hg : g t = t.maskwise i f) :
    MaskEffect s v i t f (.next (s.vpure v uses ok g)) := by
  refine ⟨(g t).next, by rw [State.vpure, State.vrun_ready h hok], ?_, fun r hr => ?_, fun k hk => ?_⟩
  · rw [hg, VTask.next]
    rw [VTask.maskwise_eq]
  · rw [hg]; exact VTask.mreg_maskwise_ne hr
  · rw [hg]; exact VTask.mreg_maskwise hk

theorem masks_of_vfree {s : State} {v : Nat} {i : VWord} {t : VTask} {uses : List Nat} {ok : Bool}
    {f : Nat → Bool × Flags} {g : Nat → VTask → VTask} (h : Issues s v uses t) (hok : ok = true)
    (hg : g s.freeCtr t = t.maskwise i f) :
    MaskEffect { s with freeCtr := s.freeCtr + 1 } v i t f (.next (s.vfree v uses ok g)) := by
  refine ⟨(g s.freeCtr t).next, by rw [State.vfree, State.vrun_ready h hok], ?_, fun r hr => ?_, fun k hk => ?_⟩
  · rw [hg, VTask.next]
    rw [VTask.maskwise_eq]
  · rw [hg]; exact VTask.mreg_maskwise_ne hr
  · rw [hg]; exact VTask.mreg_maskwise hk

theorem scalar_of_setX {s : State} {v : Nat} {t : VTask} {r : BitVec 5} {w : Word} :
    ScalarEffect s v t r w (.next (s.setTask v (some (t.setX r w).next))) := by
  refine ⟨(t.setX r w).next, rfl, ?_, fun q => VTask.xreg_setX t r q w⟩
  unfold VTask.next VTask.setX
  split <;> rfl

theorem scalar_of_vpure {s : State} {v : Nat} {t : VTask} {uses : List Nat} {ok : Bool} {r : BitVec 5} {w : Word}
    {g : VTask → VTask} (h : Issues s v uses t) (hok : ok = true) (hg : g t = t.setX r w) :
    ScalarEffect s v t r w (.next (s.vpure v uses ok g)) := by
  rw [State.vpure, State.vrun_ready h hok, hg]
  exact scalar_of_setX

theorem scalar_of_vfree {s : State} {v : Nat} {t : VTask} {uses : List Nat} {ok : Bool} {r : BitVec 5} {w : Word}
    {g : Nat → VTask → VTask} (h : Issues s v uses t) (hok : ok = true) (hg : g s.freeCtr t = t.setX r w) :
    ScalarEffect { s with freeCtr := s.freeCtr + 1 } v t r w (.next (s.vfree v uses ok g)) := by
  rw [State.vfree, State.vrun_ready h hok, hg]
  exact scalar_of_setX

theorem VTask.raise_none (t : VTask) : t.raise {} = t := by
  unfold VTask.raise
  have : t.flags.or {} = t.flags := by cases t.flags; simp [Flags.or]
  rw [this]

/-- A reduction that has an unmasked lane writes its value to every unmasked lane. -/
theorem lanes_of_vreduce {s : State} {v : Nat} {i : VWord} {t : VTask} {flt : Fmt → List Nat → Nat × Flags} {int : List Nat → Nat}
   (h : Issues s v (vs [i.dst, i.src1]) t) (hty : (i.type != 3) = true) (hf : floatType i.type = none) (he : (t.activeElements i 32).isEmpty = false) :
   LaneEffect s v i t 32 (fun _ => (int (t.activeElements i 32), {})) (.next (s.vreduce v i flt int)) := by
  refine lanes_of_vpure h hty (.inr rfl) ?_
  simp only [hf, VTask.reduceInto, he]
  exact VTask.raise_none _

/-- A group of sixteen elements written under a mask: what each of them reads as. -/
theorem VTask.element_group (t : VTask) (i : VWord) (w g : Nat) (f : Nat → Nat × Flags) (h : (g + 16) * w ≤ 512) :
   let rs := ((List.range 16).filter (t.lane i)).map (fun k => (k, f k))
   let u := (t.setV i.dst (rs.foldl (fun x r => setElement x w (g + r.1) r.2.1) (t.vreg i.dst)))
   ∀ k, k < 16 → element (u.vreg i.dst) w (g + k) = if t.lane i k then (f k).1 % 2^w else element (t.vreg i.dst) w (g + k) := by
  intro rs u k hk
  have e : u.vreg i.dst = ((rs.map (fun r => (g + r.1, r.2.1))).foldl (fun x p => setElement x w p.1 p.2) (t.vreg i.dst)) := by
    rw [List.foldl_map]
    simp only [u, VTask.vreg, VTask.setV, SMap.get?_set_self, Option.getD_some]
  rw [e, element_foldl]
  · by_cases hl : t.lane i k = true
    · rw [if_pos hl]
      have hm : (g + k, (f k).1) ∈ rs.map (fun r => (g + r.1, r.2.1)) :=
        List.mem_map.2 ⟨(k, f k), List.mem_map.2 ⟨k, List.mem_filter.2 ⟨List.mem_range.2 hk, hl⟩, rfl⟩, rfl⟩
      cases hf : (rs.map (fun r => (g + r.1, r.2.1))).find? (fun p => p.1 == g + k) with
      | none => exact absurd (beq_self_eq_true (g + k)) (by simpa using (List.find?_eq_none.1 hf) _ hm)
      | some p =>
        have h1 := List.find?_some hf
        have h2 := List.mem_of_find?_eq_some hf
        obtain ⟨q, hq, rfl⟩ := List.mem_map.1 h2
        obtain ⟨j, _, rfl⟩ := List.mem_map.1 hq
        have : g + j = g + k := eq_of_beq h1
        have : j = k := by omega
        subst this; rfl
    · rw [if_neg hl]
      have : (rs.map (fun r => (g + r.1, r.2.1))).find? (fun p => p.1 == g + k) = none := by
        rw [List.find?_eq_none]
        intro p hp he
        obtain ⟨q, hq, rfl⟩ := List.mem_map.1 hp
        obtain ⟨j, hj, rfl⟩ := List.mem_map.1 hq
        have : g + j = g + k := eq_of_beq he
        have : j = k := by omega
        subst this
        exact hl (List.mem_filter.1 hj).2
      rw [this]
  · intro p hp
    obtain ⟨q, hq, rfl⟩ := List.mem_map.1 hp
    obtain ⟨j, hj, rfl⟩ := List.mem_map.1 hq
    have := List.mem_range.1 (List.mem_filter.1 hj).1
    calc w * (g + j + 1) ≤ w * (g + 16) := Nat.mul_le_mul_left _ (by omega)
      _ ≤ 512 := by rw [Nat.mul_comm]; exact h
  · rw [List.map_map, List.map_map]
    refine List.Pairwise.map _ (fun a b hab => ?_) ((List.nodup_range).filter _)
    simp only [Function.comp]
    omega

end Sys2Proof.Machine
end

