-- ==== Sys2Proof/Laws/Memory.lean ====
section
/-! SUPPORT. The byte map: every operation keeps its canonical form, and what a byte reads as after each. -/

namespace Sys2Proof.Machine

open Sys2Proof

/-! The canonical form as two facts about pairs of entries -/

theorem cellsWf_iff (l : List Host.Cell) :
    cellsWf l = true ↔ l.Pairwise (fun a b => a.1 < b.1) ∧ ∀ c ∈ l, c.2 ≠ 0 := by
  induction l with
  | nil => simp [cellsWf]
  | cons a t ih =>
    cases t with
    | nil => simp [cellsWf]
    | cons b u =>
      simp only [cellsWf, Bool.and_eq_true, bne_iff_ne, decide_eq_true_eq, ih, List.pairwise_cons,
        List.forall_mem_cons]
      constructor
      · rintro ⟨⟨ha, hab⟩, ⟨hb, hu⟩, hv⟩
        exact ⟨⟨⟨hab, fun c hc => Nat.lt_trans hab (hb c hc)⟩, hb, hu⟩, ha, hv⟩
      · rintro ⟨⟨⟨hab, _⟩, hb, hu⟩, ha, hv⟩
        exact ⟨⟨ha, hab⟩, ⟨hb, hu⟩, hv⟩

theorem rangesWf_iff (l : List UndefRange) :
    rangesWf l = true ↔ l.Pairwise (fun a b => a.hi ≤ b.lo) ∧ ∀ r ∈ l, r.lo < r.hi := by
  induction l with
  | nil => simp [rangesWf]
  | cons a t ih =>
    cases t with
    | nil => simp [rangesWf]
    | cons b u =>
      simp only [rangesWf, Bool.and_eq_true, decide_eq_true_eq, ih, List.pairwise_cons, List.forall_mem_cons]
      constructor
      · rintro ⟨⟨ha, hab⟩, ⟨hb, hu⟩, hlb, hv⟩
        exact ⟨⟨⟨hab, fun c hc => Nat.le_trans hab (Nat.le_trans (Nat.le_of_lt hlb) (hb c hc))⟩, hb, hu⟩, ha, hlb, hv⟩
      · rintro ⟨⟨⟨hab, _⟩, hb, hu⟩, ha, hlb, hv⟩
        exact ⟨⟨ha, hab⟩, ⟨hb, hu⟩, hlb, hv⟩

/-- The canonical form, in terms that survive an update: order, no zero, and no cell inside a run. -/
theorem Memory.wf_iff (m : Mem) :
    Memory.wf m = true ↔
      (m.cells.Pairwise (fun a b => a.1 < b.1) ∧ ∀ c ∈ m.cells, c.2 ≠ 0) ∧
      (m.undef.Pairwise (fun a b => a.hi ≤ b.lo) ∧ ∀ r ∈ m.undef, r.lo < r.hi) ∧
      ∀ c ∈ m.cells, ∀ r ∈ m.undef, c.1 < r.lo ∨ r.hi ≤ c.1 := by
  simp [Memory.wf, cellsWf_iff, rangesWf_iff, and_assoc]

/-! Cells -/

theorem mem_putCell {l : List Host.Cell} {i : Nat} {x : Byte} (h : l.Pairwise (fun a b => a.1 < b.1)) {c : Host.Cell} :
    c ∈ putCell l i x ↔ (c = (i, x) ∧ x ≠ 0) ∨ (c ∈ l ∧ c.1 ≠ i) := by
  induction l with
  | nil => simp only [putCell]; split <;> simp_all
  | cons a t ih =>
    obtain ⟨k, v⟩ := a
    rw [List.pairwise_cons] at h
    have hk : ∀ d ∈ t, d.1 ≠ k := fun d hd => Nat.ne_of_gt (h.1 d hd)
    rcases Nat.lt_trichotomy i k with hik | rfl | hik
    · have hi : ∀ d ∈ t, d.1 ≠ i := fun d hd => Nat.ne_of_gt (Nat.lt_trans hik (h.1 d hd))
      by_cases hx : x = 0 <;> simp only [putCell, hik, hx, if_true, if_false, List.mem_cons] <;>
        (constructor <;> rintro (h1 | h1)) <;> grind
    · by_cases hx : x = 0 <;> simp only [putCell, Nat.lt_irrefl, hx, if_true, if_false, List.mem_cons] <;> grind
    · simp only [putCell, Nat.not_lt_of_gt hik, Nat.ne_of_gt hik, if_false, List.mem_cons, ih h.2]
      grind

theorem putCell_pairwise {l : List Host.Cell} {i : Nat} {x : Byte} (h : l.Pairwise (fun a b => a.1 < b.1)) :
    (putCell l i x).Pairwise (fun a b => a.1 < b.1) := by
  induction l with
  | nil => simp only [putCell]; split <;> simp
  | cons a t ih =>
    obtain ⟨k, v⟩ := a
    have h' := h
    rw [List.pairwise_cons] at h
    rcases Nat.lt_trichotomy i k with hik | rfl | hik
    · simp only [putCell, if_pos hik]
      split
      · exact h'
      · exact List.pairwise_cons.2 ⟨List.forall_mem_cons.2 ⟨hik, fun c hc => Nat.lt_trans hik (h.1 c hc)⟩, h'⟩
    · simp only [putCell, if_neg (Nat.lt_irrefl i), if_pos]
      split
      · exact h.2
      · exact List.pairwise_cons.2 h
    · simp only [putCell, Nat.not_lt_of_gt hik, Nat.ne_of_gt hik, if_false, List.pairwise_cons]
      refine ⟨fun c hc => ?_, ih h.2⟩
      rcases (mem_putCell h.2).1 hc with ⟨rfl, _⟩ | ⟨hc, _⟩
      · exact hik
      · exact h.1 c hc

/-! Runs of open content -/

theorem mem_cut {lo hi : Nat} {r q : UndefRange} (hr : r.lo < r.hi) (h : q ∈ r.cut lo hi) :
    r.lo ≤ q.lo ∧ q.hi ≤ r.hi ∧ q.lo < q.hi ∧ (q.hi ≤ lo ∨ hi ≤ q.lo ∨ hi ≤ lo) := by
  unfold UndefRange.cut at h
  split at h
  · rcases List.mem_singleton.1 h with rfl; omega
  · rcases List.mem_append.1 h with h | h <;> split at h <;> simp at h <;> subst h <;> simp <;> omega

theorem cut_pairwise {lo hi : Nat} {r : UndefRange} : (r.cut lo hi).Pairwise (fun a b => a.hi ≤ b.lo) := by
  unfold UndefRange.cut
  split
  · simp
  · split <;> split <;> simp <;> omega

theorem flatMap_cut_wf {l : List UndefRange} {lo hi : Nat}
    (h : l.Pairwise (fun a b => a.hi ≤ b.lo) ∧ ∀ r ∈ l, r.lo < r.hi) :
    (l.flatMap (UndefRange.cut lo hi)).Pairwise (fun a b => a.hi ≤ b.lo) ∧
      ∀ r ∈ l.flatMap (UndefRange.cut lo hi), r.lo < r.hi := by
  refine ⟨?_, fun q hq => ?_⟩
  · rw [List.pairwise_flatMap]
    refine ⟨fun r _ => cut_pairwise, h.1.imp_of_mem fun {a b} ha hb hab x hx y hy => ?_⟩
    have := mem_cut (h.2 a ha) hx
    have := mem_cut (h.2 b hb) hy
    omega
  · obtain ⟨r, hr, hq⟩ := List.mem_flatMap.1 hq
    exact (mem_cut (h.2 r hr) hq).2.2.1

theorem mem_putRange {l : List UndefRange} {r q : UndefRange} : q ∈ putRange l r ↔ q = r ∨ q ∈ l := by
  induction l with
  | nil => simp [putRange]
  | cons a t ih =>
    simp only [putRange]
    split <;> simp [ih] <;> grind

theorem putRange_wf {l : List UndefRange} {r : UndefRange} (hr : r.lo < r.hi)
    (h : l.Pairwise (fun a b => a.hi ≤ b.lo) ∧ ∀ q ∈ l, q.lo < q.hi) (hd : ∀ q ∈ l, q.hi ≤ r.lo ∨ r.hi ≤ q.lo) :
    (putRange l r).Pairwise (fun a b => a.hi ≤ b.lo) ∧ ∀ q ∈ putRange l r, q.lo < q.hi := by
  refine ⟨?_, fun q hq => ?_⟩
  · obtain ⟨hp, hl⟩ := h
    induction l with
    | nil => simp [putRange]
    | cons a t ih =>
      simp only [List.forall_mem_cons] at hl hd
      have hp' := hp
      rw [List.pairwise_cons] at hp
      simp only [putRange]
      split
      · rw [List.pairwise_cons]
        refine ⟨fun q hq => ?_, hp'⟩
        rcases List.mem_cons.1 hq with rfl | hq
        · omega
        · have := hp.1 q hq; omega
      · rw [List.pairwise_cons]
        refine ⟨fun q hq => ?_, ih hd.2 hp.2 hl.2⟩
        rcases mem_putRange.1 hq with rfl | hq
        · omega
        · exact hp.1 q hq
  · rcases mem_putRange.1 hq with rfl | hq
    · exact hr
    · exact h.2 q hq

/-! The operations keep the canonical form -/

theorem Mem.put_wf {m : Mem} {k : Nat} {x : Byte} (h : Memory.wf m = true) : Memory.wf (m.put k x) = true := by
  rw [Memory.wf_iff] at h ⊢
  obtain ⟨hc, hu, hcu⟩ := h
  refine ⟨⟨putCell_pairwise hc.1, fun c h => ?_⟩, flatMap_cut_wf hu, fun c h q hq => ?_⟩
  · rcases (mem_putCell hc.1).1 h with ⟨rfl, hx⟩ | ⟨h, _⟩
    · exact hx
    · exact hc.2 c h
  · obtain ⟨r, hr, hq⟩ := List.mem_flatMap.1 hq
    have hq := mem_cut (hu.2 r hr) hq
    rcases (mem_putCell hc.1).1 h with ⟨rfl, hx⟩ | ⟨h, hne⟩
    · show k < q.lo ∨ q.hi ≤ k
      omega
    · have := hcu c h r hr
      omega

theorem Mem.putList_wf {bs : List Byte} {m : Mem} {k : Nat} (h : Memory.wf m = true) :
    Memory.wf (m.putList k bs) = true := by
  induction bs generalizing m k with
  | nil => exact h
  | cons b bs ih => exact ih (Mem.put_wf h)

theorem Mem.zero_wf {m : Mem} {lo hi : Nat} (h : Memory.wf m = true) : Memory.wf (m.zero lo hi) = true := by
  rw [Memory.wf_iff] at h ⊢
  obtain ⟨hc, hu, hcu⟩ := h
  refine ⟨⟨hc.1.filter _, fun c h => hc.2 c (List.mem_filter.1 h).1⟩, flatMap_cut_wf hu, fun c h q hq => ?_⟩
  obtain ⟨r, hr, hq⟩ := List.mem_flatMap.1 hq
  have hq := mem_cut (hu.2 r hr) hq
  have := hcu c (List.mem_filter.1 h).1 r hr
  omega

theorem Mem.forget_wf {m : Mem} {lo hi e : Nat} (h : Memory.wf m = true) : Memory.wf (m.forget lo hi e) = true := by
  unfold Mem.forget
  split
  · rename_i hlt
    have hz := (Memory.wf_iff _).1 (Mem.zero_wf (lo := lo) (hi := hi) h)
    have h := (Memory.wf_iff m).1 h
    refine (Memory.wf_iff _).2 ⟨hz.1, putRange_wf hlt hz.2.1 fun q hq => ?_, fun c hc q hq => ?_⟩
    · obtain ⟨r, hr, hq⟩ := List.mem_flatMap.1 hq
      have := mem_cut (h.2.1.2 r hr) hq
      show q.hi ≤ lo ∨ hi ≤ q.lo
      omega
    · rcases mem_putRange.1 hq with rfl | hq
      · simpa using (List.mem_filter.1 hc).2
      · exact hz.2.2 c hc q hq
  · exact h

theorem Mem.copy_wf {m : Mem} {dst src n : Nat} (h : Memory.wf m = true) : Memory.wf (m.copy dst src n) = true :=
  Mem.putList_wf h

/-! What a byte reads as after each operation -/

theorem cellAt_eq_some {l : List Host.Cell} (h : l.Pairwise (fun a b => a.1 < b.1)) {k : Nat} {v : Byte} :
    cellAt l k = some v ↔ (k, v) ∈ l := by
  induction l with
  | nil => simp [cellAt]
  | cons a t ih =>
    obtain ⟨k', v'⟩ := a
    rw [List.pairwise_cons] at h
    simp only [cellAt, List.mem_cons]
    split
    · rename_i he
      subst he
      constructor
      · intro h; simp_all
      · rintro (h1 | h1)
        · simp_all
        · exact absurd (h.1 _ h1) (Nat.lt_irrefl _)
    · rename_i hne
      rw [ih h.2]
      grind

theorem cellAt_putCell {l : List Host.Cell} (h : l.Pairwise (fun a b => a.1 < b.1)) {i j : Nat} {x : Byte} :
    cellAt (putCell l i x) j = if j = i then (if x = 0 then none else some x) else cellAt l j := by
  apply Option.ext
  intro v
  rw [cellAt_eq_some (putCell_pairwise h), mem_putCell h]
  split
  · subst_vars; split <;> simp_all; grind
  · rw [cellAt_eq_some h]; simp_all

theorem find_flatMap_cut {l : List UndefRange} {lo hi j : Nat} (h : ∀ r ∈ l, r.lo < r.hi) (hj : j < lo ∨ hi ≤ j) :
    ((l.flatMap (UndefRange.cut lo hi)).find? (fun r => r.lo ≤ j && j < r.hi)).map (·.epoch) =
      (l.find? (fun r => r.lo ≤ j && j < r.hi)).map (·.epoch) := by
  induction l with
  | nil => rfl
  | cons r t ih =>
    have hr := h r (by simp)
    have ih := ih (fun q hq => h q (by simp [hq]))
    simp only [List.flatMap_cons, List.find?_append, List.find?_cons]
    by_cases hin : r.lo ≤ j ∧ j < r.hi
    · have : ((r.cut lo hi).find? (fun r => r.lo ≤ j && j < r.hi)).map (·.epoch) = some r.epoch := by
        unfold UndefRange.cut
        split
        · simp [hin]
        · split <;> split <;> simp [List.find?_cons] <;> (repeat' split) <;> simp_all <;> omega
      cases hc : (r.cut lo hi).find? (fun r => r.lo ≤ j && j < r.hi) with
      | none => simp [hc] at this
      | some q => simp [hc] at this; simp [hin, this]
    · have : (r.cut lo hi).find? (fun r => r.lo ≤ j && j < r.hi) = none := by
        rw [List.find?_eq_none]
        intro q hq
        have := mem_cut hr hq
        simp; omega
      simp only [this, Option.none_or, ih]
      have : (decide (r.lo ≤ j) && decide (j < r.hi)) = false := by simp; omega
      simp [this]

/-- An unlisted byte outside every run of open content reads 0 (log 4). -/
def Mem.rest (u : List UndefRange) (k : Nat) : Byte :=
  match (u.find? (fun r => r.lo ≤ k && k < r.hi)).map (·.epoch) with
  | some e => Config.freeByte e k
  | none => 0

theorem Mem.byte_eq (m : Mem) (k : Nat) : m.byte k = (cellAt m.cells k).getD (Mem.rest m.undef k) := by
  unfold Mem.byte Mem.rest
  cases cellAt m.cells k with
  | some v => rfl
  | none => cases m.undef.find? (fun r => r.lo ≤ k && k < r.hi) <;> rfl

theorem rest_inside_cut {l : List UndefRange} {lo hi j : Nat} (h : ∀ r ∈ l, r.lo < r.hi) (hj : lo ≤ j ∧ j < hi) :
    Mem.rest (l.flatMap (UndefRange.cut lo hi)) j = 0 := by
  have : (l.flatMap (UndefRange.cut lo hi)).find? (fun r => r.lo ≤ j && j < r.hi) = none := by
    rw [List.find?_eq_none]
    intro q hq
    obtain ⟨r, hr, hq⟩ := List.mem_flatMap.1 hq
    have := mem_cut (h r hr) hq
    simp; omega
  simp [Mem.rest, this]

theorem rest_outside_cut {l : List UndefRange} {lo hi j : Nat} (h : ∀ r ∈ l, r.lo < r.hi) (hj : j < lo ∨ hi ≤ j) :
    Mem.rest (l.flatMap (UndefRange.cut lo hi)) j = Mem.rest l j := by
  simp only [Mem.rest, find_flatMap_cut h hj]

theorem Mem.byte_put {m : Mem} (h : Memory.wf m = true) (k j : Nat) (x : Byte) :
    (m.put k x).byte j = if j = k then x else m.byte j := by
  have h := (Memory.wf_iff m).1 h
  simp only [Mem.byte_eq, Mem.put, cellAt_putCell h.1.1]
  split
  · rename_i he
    subst he
    split
    · simp_all [rest_inside_cut h.2.1.2 (lo := j) (hi := j + 1) (j := j) (by omega)]
    · rfl
  · rw [rest_outside_cut h.2.1.2 (by omega)]

theorem Mem.byte_putList {bs : List Byte} {m : Mem} (h : Memory.wf m = true) (k j : Nat) :
    (m.putList k bs).byte j = if k ≤ j ∧ j < k + bs.length then bs.getD (j - k) 0 else m.byte j := by
  induction bs generalizing m k with
  | nil => exact (if_neg (fun h => absurd h.2 (by simp only [List.length_nil]; omega))).symm
  | cons b bs ih =>
    simp only [Mem.putList, ih (Mem.put_wf h), Mem.byte_put h, List.length_cons]
    rcases Nat.lt_trichotomy j k with hj | rfl | hj
    · simp [show ¬ k + 1 ≤ j by omega, show ¬ k ≤ j by omega, Nat.ne_of_lt hj]
    · simp [show ¬ j + 1 ≤ j by omega]
    · obtain ⟨d, rfl⟩ := Nat.exists_eq_add_of_lt hj
      simp only [show k + d + 1 ≠ k by omega, if_false, show k + d + 1 - (k + 1) = d by omega,
        show k + d + 1 - k = d + 1 by omega, List.getD_cons_succ]
      split <;> split <;> first | rfl | omega

/-- Bytes that are not written keep their value. -/
theorem Mem.byte_putList_frame {bs : List Byte} {m : Mem} (h : Memory.wf m = true) {k j : Nat}
    (hj : j < k ∨ k + bs.length ≤ j) : (m.putList k bs).byte j = m.byte j := by
  rw [Mem.byte_putList h, if_neg (by omega)]

/-- Bytes just written read back. -/
theorem Mem.bytes_putList {bs : List Byte} {m : Mem} (h : Memory.wf m = true) (k : Nat) :
    (m.putList k bs).bytes k bs.length = bs := by
  apply List.ext_getElem
  · simp [Mem.bytes]
  · intro i h1 h2
    simp [Mem.bytes, Mem.byte_putList h, h2]

end Sys2Proof.Machine
end

