-- ==== Sys2Proof/Laws/Kept.lean ====
section
/-! SUPPORT. What every command keeps (`Kept`): the queue, the canonical form of the byte map, and burnt fuses; and
    how the
relation passes through the forms that operations are built of. -/

namespace Sys2Proof.Machine

open Sys2Proof

/-- `t` comes from `s0` with the queue untouched, the canonical form of memory kept and no fuse bit unburnt. -/
def Kept (s0 t : State) : Prop :=
  t.pending = s0.pending ∧ (Memory.wf s0.mem = true → Memory.wf t.mem = true) ∧ Burnt s0.fuses t.fuses

theorem Burnt.refl (a : Fuses) : Burnt a a := ⟨List.prefix_refl _, id, Nat.and_self _, Nat.le_refl _, Nat.le_refl _⟩
theorem Kept.refl (s : State) : Kept s s := ⟨rfl, id, Burnt.refl _⟩
/-- A state literal, under a name that no other term unifies with. -/
def State.lit (pending : List Instr) (freeCtr : Nat) (timeNs : Nat) (phase : Phase) (pins : Pins) (regs : SMap
    Word) (mem : Mem) (laps : SMap Nat) (recorder : Recorder) (swyWaiting : SMap (List (List Byte))) (host :
    HostIf) (mgmt : Mgmt) (modules : SMap (Bool × Bool)) (cores : SMap VCore) (taskCount : Nat) (search : SMap
    SearchEntry) (searchResults : List (Option Nat)) (ports : SMap Port) (hubs : SMap Hub) (arbs : SMap Arb) (conns
    : SMap Conn) (connPast : SMap ConnPast) (regions : SMap Region) (packs : List Pack) (fabDone : List FabDone)
    (records : SMap CompRecord) (members : SMap Member) (comps : List Composition) (groups : SMap Group) (fuses :
    Fuses) (heart : Heartwood) (image : ImageState) (tests : TestRun) (power : Power) (calDue : SMap CalDue)
    (calFailed : List Nat) (calMissing : List Nat) (sequencersOut : Nat) (stands : SMap Stand) : State := State.mk
    pending freeCtr timeNs phase pins regs mem laps recorder swyWaiting host mgmt modules cores taskCount search
    searchResults ports hubs arbs conns connPast regions packs fabDone records members comps groups fuses heart
    image tests power calDue calFailed calMissing sequencersOut stands
theorem State.mk_lit (pending : List Instr) (freeCtr : Nat) (timeNs : Nat) (phase : Phase) (pins : Pins) (regs :
    SMap Word) (mem : Mem) (laps : SMap Nat) (recorder : Recorder) (swyWaiting : SMap (List (List Byte))) (host :
    HostIf) (mgmt : Mgmt) (modules : SMap (Bool × Bool)) (cores : SMap VCore) (taskCount : Nat) (search : SMap
    SearchEntry) (searchResults : List (Option Nat)) (ports : SMap Port) (hubs : SMap Hub) (arbs : SMap Arb) (conns
    : SMap Conn) (connPast : SMap ConnPast) (regions : SMap Region) (packs : List Pack) (fabDone : List FabDone)
    (records : SMap CompRecord) (members : SMap Member) (comps : List Composition) (groups : SMap Group) (fuses :
    Fuses) (heart : Heartwood) (image : ImageState) (tests : TestRun) (power : Power) (calDue : SMap CalDue)
    (calFailed : List Nat) (calMissing : List Nat) (sequencersOut : Nat) (stands : SMap Stand) : State.mk pending
    freeCtr timeNs phase pins regs mem laps recorder swyWaiting host mgmt modules cores taskCount search
    searchResults ports hubs arbs conns connPast regions packs fabDone records members comps groups fuses heart
    image tests power calDue calFailed calMissing sequencersOut stands = State.lit pending freeCtr timeNs phase
    pins regs mem laps recorder swyWaiting host mgmt modules cores taskCount search searchResults ports hubs arbs
    conns connPast regions packs fabDone records members comps groups fuses heart image tests power calDue
    calFailed calMissing sequencersOut stands := rfl

/-- A state literal that changes neither queue nor fuses, and memory only by an operation that keeps its form. -/
theorem Kept.lit {s0 e : State} {a1 a2 a3 a4 a5 a7 a8 a9 a10 a11 a12 a13 a14 a15 a16 a17 a18 a19 a20 a21 a22 a23
    a24 a25 a26 a27 a28 a30 a31 a32 a33 a34 a35 a36 a37 a38 m} (h : Kept s0 e) (hm : Memory.wf e.mem = true →
    Memory.wf m = true) :
  Kept s0 (State.lit e.pending a1 a2 a3 a4 a5 m a7 a8 a9 a10 a11 a12 a13 a14 a15 a16 a17 a18 a19 a20 a21 a22 a23
    a24 a25 a26 a27 a28 e.fuses a30 a31 a32 a33 a34 a35 a36 a37 a38) := ⟨h.1, hm ∘ h.2.1, h.2.2⟩
theorem Mem.put_kept {m0 m : Mem} {k x} (h : Memory.wf m0 = true → Memory.wf m = true) :
    Memory.wf m0 = true → Memory.wf (m.put k x) = true := fun hm => Mem.put_wf (h hm)
theorem Mem.putList_kept {m0 m : Mem} {k bs} (h : Memory.wf m0 = true → Memory.wf m = true) :
    Memory.wf m0 = true → Memory.wf (m.putList k bs) = true := fun hm => Mem.putList_wf (h hm)
theorem Mem.zero_kept {m0 m : Mem} {lo hi} (h : Memory.wf m0 = true → Memory.wf m = true) :
    Memory.wf m0 = true → Memory.wf (m.zero lo hi) = true := fun hm => Mem.zero_wf (h hm)
theorem Mem.forget_kept {m0 m : Mem} {lo hi e} (h : Memory.wf m0 = true → Memory.wf m = true) :
    Memory.wf m0 = true → Memory.wf (m.forget lo hi e) = true := fun hm => Mem.forget_wf (h hm)
theorem Mem.copy_kept {m0 m : Mem} {k j n} (h : Memory.wf m0 = true → Memory.wf m = true) :
    Memory.wf m0 = true → Memory.wf (m.copy k j n) = true := fun hm => Mem.copy_wf (h hm)

/-- A loop over a list. -/
theorem Kept.foldl {α : Type} {s0 s : State} {f : State → α → State} (h : Kept s0 s)
    (hf : ∀ s x, Kept s0 s → Kept s0 (f s x)) (l : List α) : Kept s0 (l.foldl f s) := by
  induction l generalizing s with
  | nil => exact h
  | cons a l ih => exact ih (hf s a h)

/-- A loop that carries a state and another value. -/
theorem Kept.foldl1 {α β : Type} {s0 : State} {s : State × β} {f : State × β → α → State × β} (h : Kept s0 s.1)
    (hf : ∀ s x, Kept s0 s.1 → Kept s0 (f s x).1) (l : List α) : Kept s0 (l.foldl f s).1 := by
  induction l generalizing s with
  | nil => exact h
  | cons a l ih => exact ih (hf s a h)

/-- A loop that carries another value and a state. -/
theorem Kept.foldl2 {α β : Type} {s0 : State} {s : β × State} {f : β × State → α → β × State} (h : Kept s0 s.2)
    (hf : ∀ s x, Kept s0 s.2 → Kept s0 (f s x).2) (l : List α) : Kept s0 (l.foldl f s).2 := by
  induction l generalizing s with
  | nil => exact h
  | cons a l ih => exact ih (hf s a h)

/-- The state out of a pair that an operation answered. -/
theorem Kept.fst {α : Type} {s0 s : State} {p : State × α} {a : α} (h : Kept s0 p.1) (e : p = (s, a)) : Kept s0 s
    := by
  subst e; exact h

/-- The state out of a pair, in second place. -/
theorem Kept.snd {α : Type} {s0 s : State} {p : α × State} {a : α} (h : Kept s0 p.2) (e : p = (a, s)) : Kept s0 s
    := by
  subst e; exact h
theorem Kept.ite {s0 a b : State} {c : Prop} [Decidable c] (ha : Kept s0 a) (hb : Kept s0 b) :
    Kept s0 (if c then a else b) := by split <;> assumption
theorem Kept.ite1 {α : Type} {s0 : State} {a b : State × α} {c : Prop} [Decidable c] (ha : Kept s0 a.1) (hb : Kept
    s0 b.1) :
    Kept s0 (if c then a else b).1 := by split <;> assumption

/-- A loop that may fail. -/
theorem Kept.foldlO {α : Type} {s0 s t : State} {f : Option State → α → Option State} {l : List α} (h : Kept s0 s)
    (hf : ∀ o x t, (∀ t, o = some t → Kept s0 t) → f o x = some t → Kept s0 t) (e : l.foldl f (some s) = some t) :
    Kept s0 t := by
  have hl : ∀ (l : List α) (o : Option State), (∀ t, o = some t → Kept s0 t) → ∀ t, l.foldl f o = some t → Kept s0
    t := by
    intro l
    induction l with
    | nil => exact fun o h => h
    | cons a l ih => exact fun o h => ih _ (fun t e => hf o a t h e)
  exact hl l _ (fun t e => by cases e; exact h) t e

/-- A loop that stops at the first failure. -/
theorem Kept.foldlM {α : Type} {s0 s t : State} {f : State → α → Option State} {l : List α} (h : Kept s0 s)
    (hf : ∀ s x t, Kept s0 s → f s x = some t → Kept s0 t) (e : l.foldlM f s = some t) : Kept s0 t := by
  induction l generalizing s with
  | nil => cases e; exact h
  | cons a l ih =>
    obtain ⟨u, hu, e⟩ := Option.bind_eq_some_iff.1 e
    exact ih (hf s a u h hu) e
theorem Option.absurd {α : Type} {a : α} {P : Prop} (e : none = some a) : P := by cases e
theorem Kept.someFst {α : Type} {s0 s : State} {o : Option (State × α)} {a : α} (h : ∀ t, o = some t → Kept s0 t.1)
    (e : o = some (s, a)) : Kept s0 s := h _ e
theorem Kept.ofO {s0 t : State} {o : Option State} (h : ∀ t, o = some t → Kept s0 t) (e : o = some t) : Kept s0 t
    := h t e
theorem Burnt.trans {a b c : Fuses} (h : Burnt a b) (g : Burnt b c) : Burnt a c where
  owners := h.owners.trans g.owners
  ownerSlots := g.ownerSlots ∘ h.ownerSlots
  revoked := by rw [← h.revoked, Nat.and_assoc, g.revoked]
  svn := Nat.le_trans h.svn g.svn
  blocks := Nat.le_trans h.blocks g.blocks

/-- A command whose next state keeps. -/
theorem Kept.next {s0 t : State} (h : Kept s0 t) : NextWith (.next t) (Kept s0) := ⟨t, rfl, h⟩

end Sys2Proof.Machine
end

