-- ==== Sys2Proof/Laws/KeptOps.lean ====
section
/-! SUPPORT. Every operation of registers, stand memory, events and rings keeps the queue, the canonical form of memory and burnt fuses
(`Kept`): one lemma for each. -/

namespace Sys2Proof.Machine

open Sys2Proof

set_option linter.unusedVariables false
set_option linter.tactic.unusedName false

theorem Kept.setReg {s0 s : State} {r : Reg} {i j v : Nat} (h_s : Kept s0 s) : Kept s0 (State.setReg s r i j v) := by
  unfold Sys2Proof.Machine.State.setReg
  exact Kept.lit h_s id

theorem Kept.setFld {s0 s : State} {f : Field} {i j v : Nat} (h_s : Kept s0 s) : Kept s0 (State.setFld s f i j v) := by
  unfold Sys2Proof.Machine.State.setFld
  exact Kept.setReg h_s

theorem Kept.addFld {s0 s : State} {f : Field} {i j n : Nat} (h_s : Kept s0 s) : Kept s0 (State.addFld s f i j n) := by
  unfold Sys2Proof.Machine.State.addFld
  exact Kept.setFld h_s

theorem Kept.satFld {s0 s : State} {f : Field} {i j n : Nat} (h_s : Kept s0 s) : Kept s0 (State.satFld s f i j n) := by
  unfold Sys2Proof.Machine.State.satFld
  exact Kept.setFld h_s

theorem Kept.resetReg {s0 s : State} {r : Reg} {i j : Nat} (h_s : Kept s0 s) : Kept s0 (State.resetReg s r i j) := by
  unfold Sys2Proof.Machine.State.resetReg
  exact Kept.lit h_s id

theorem Kept.resetRegs {s0 s : State} {rs : List Reg} {i : Nat} (h_s : Kept s0 s) : Kept s0 (State.resetRegs s rs i) := by
  unfold Sys2Proof.Machine.State.resetRegs
  exact Kept.foldl h_s (fun x x_1 x_2 => Kept.foldl x_2 (fun x x_3 x_4 => Kept.resetReg x_4) (List.range x_1.info.subCount)) rs

theorem Kept.flagError {s0 s : State} {f : Field} {i : Nat} {context : State → State} (h_s : Kept s0 s)
    (h_context : ∀ x0, Kept s0 x0 → Kept s0 (context x0)) :
    Kept s0 (State.flagError s f i context) := by
  unfold Sys2Proof.Machine.State.flagError
  repeat' first
    | with_reducible assumption
    | (extract_lets +onlyGivenNames x; refine (fun (hx : Kept s0 x) => ?_) ?_; clear_value x; rotate_left; dsimp only [x]; clear x)
    | with_reducible refine Kept.setFld ?_
    | with_reducible refine h_context _ ?_
    | with_reducible refine Kept.ite ?_ ?_

theorem Kept.idle {s0 s : State} (h_s : Kept s0 s) : Kept s0 (State.idle s) := by
  unfold Sys2Proof.Machine.State.idle
  exact Kept.ite (Kept.lit h_s id) h_s

theorem Kept.setStand {s0 s : State} {n : Nat} {x : Stand} (h_s : Kept s0 s) : Kept s0 (State.setStand s n x) := by
  unfold Sys2Proof.Machine.State.setStand
  exact Kept.lit h_s id

theorem Kept.updStand {s0 s : State} {n : Nat} {f : Stand → Stand} (h_s : Kept s0 s) : Kept s0 (State.updStand s n f) := by
  unfold Sys2Proof.Machine.State.updStand
  exact Kept.setStand h_s

theorem Kept.msix {s0 s : State} {f : Fn} {vec : Nat} (h_s : Kept s0 s) : Kept s0 (State.msix s f vec) := by
  unfold Sys2Proof.Machine.State.msix
  repeat' first
    | with_reducible assumption
    | with_reducible exact id
    | (extract_lets +onlyGivenNames x; clear_value x)
    | with_reducible refine Kept.ite ?_ ?_
    | (rewrite [State.mk_lit]; with_reducible refine Kept.lit ?_ ?_)

theorem Kept.msixFlush {s0 s : State} (h_s : Kept s0 s) : Kept s0 (State.msixFlush s) := by
  unfold Sys2Proof.Machine.State.msixFlush
  repeat' first
    | with_reducible assumption
    | with_reducible exact id
    | (extract_lets +onlyGivenNames x; have : ∀ a, x a = x a := fun _ => rfl; clear this; (try dsimp only [x]); clear x)
    | with_reducible refine Kept.msix ?_
    | with_reducible refine Kept.foldl ?_ (fun _ _ _ => ?_) _
    | (rewrite [State.mk_lit]; with_reducible refine Kept.lit ?_ ?_)

theorem Kept.hostWrite {s0 s : State} {f : Fn} {a : Nat} {bs : List Byte} (h_s : Kept s0 s) :
    Kept s0 (State.hostWrite s f a bs) := by
  unfold Sys2Proof.Machine.State.hostWrite
  exact Kept.ite (Kept.lit h_s (Mem.putList_kept id)) h_s

theorem Kept.touch {s0 s : State} {n a len : Nat} (h_s : Kept s0 s) : Kept s0 (State.touch s n a len) := by
  unfold Sys2Proof.Machine.State.touch
  repeat' first
    | with_reducible assumption
    | (extract_lets +onlyGivenNames x; clear_value x)
    | with_reducible refine Kept.updStand ?_

theorem Kept.flagUnmapped {s0 s : State} {n a : Nat} (h_s : Kept s0 s) : Kept s0 (State.flagUnmapped s n a) := by
  unfold Sys2Proof.Machine.State.flagUnmapped
  exact Kept.flagError h_s fun x0 a_1 => Kept.setReg (Kept.setReg a_1)

theorem Kept.noted {s0 s : State} {n a len : Nat} (h_s : Kept s0 s) : Kept s0 (State.noted s n a len) := by
  unfold Sys2Proof.Machine.State.noted
  repeat' first
    | with_reducible assumption
    | with_reducible refine Kept.flagUnmapped ?_
    | split

theorem Kept.flagRemote {s0 s : State} {n a len : Nat} (h_s : Kept s0 s) : Kept s0 (State.flagRemote s n a len) := by
  unfold Sys2Proof.Machine.State.flagRemote
  repeat' first
    | with_reducible assumption
    | intro _
    | with_reducible refine Kept.flagError ?_ ?_
    | with_reducible refine Kept.setReg ?_
    | split

theorem Kept.standRead {s0 s : State} {n a len : Nat} (h_s : Kept s0 s) : Kept s0 (State.standRead s n a len).2 := by
  unfold Sys2Proof.Machine.State.standRead
  repeat' first
    | with_reducible assumption
    | with_reducible refine Kept.flagRemote ?_
    | with_reducible refine Kept.flagUnmapped ?_
    | with_reducible refine Kept.touch ?_
    | split

theorem Kept.putByte {s0 s : State} {n a : Nat} {b : Byte} (h_s : Kept s0 s) : Kept s0 (State.putByte s n a b) := by
  unfold Sys2Proof.Machine.State.putByte
  repeat' first
    | with_reducible assumption
    | with_reducible exact id
    | with_reducible refine Mem.put_kept ?_
    | (extract_lets +onlyGivenNames x; refine (fun (hx : Kept s0 x) => ?_) ?_; clear_value x; rotate_left; dsimp only [x]; clear x)
    | (extract_lets +onlyGivenNames x; clear_value x)
    | with_reducible refine Kept.updStand ?_
    | with_reducible refine Kept.ite ?_ ?_
    | (rewrite [State.mk_lit]; with_reducible refine Kept.lit ?_ ?_)
    | split

theorem Kept.putBytes {s0 s : State} {n a0 : Nat} {a1 : List Byte} (h_s : Kept s0 s) :
    Kept s0 (State.putBytes s n a0 a1) := by
  induction a1 generalizing s n a0 with
  | nil =>
    unfold Sys2Proof.Machine.State.putBytes
    repeat' first
      | with_reducible assumption
      | with_reducible refine Kept.putByte ?_
  | cons b l ih =>
    unfold Sys2Proof.Machine.State.putBytes
    repeat' first
      | with_reducible assumption
      | with_reducible refine ih ?_
      | with_reducible refine Kept.putByte ?_

theorem Kept.standWrite {s0 s : State} {n a : Nat} {bs : List Byte} (h_s : Kept s0 s) :
    Kept s0 (State.standWrite s n a bs) := by
  unfold Sys2Proof.Machine.State.standWrite
  exact Kept.ite (Kept.flagRemote (Kept.putBytes h_s)) (Kept.flagUnmapped h_s)

theorem Kept.pokeLe {s0 s : State} {n a len v : Nat} (h_s : Kept s0 s) : Kept s0 (State.pokeLe s n a len v) := by
  unfold Sys2Proof.Machine.State.pokeLe
  exact Kept.standWrite h_s

theorem Kept.setHeader {s0 s : State} {n : Nat} {g : KvGroup} {t i : Nat} {h : PageHeader} (h_s : Kept s0 s) :
    Kept s0 (State.setHeader s n g t i h) := by
  unfold Sys2Proof.Machine.State.setHeader
  exact Kept.standWrite h_s

theorem Kept.setPt {s0 s : State} {n : Nat} {r : SeqRecord} {g : KvGroup} {k : Nat} {e : PtEntry} (h_s : Kept s0 s) :
    Kept s0 (State.setPt s n r g k e) := by
  unfold Sys2Proof.Machine.State.setPt
  exact Kept.standWrite h_s

theorem Kept.setLength {s0 s : State} {n : Nat} {p : Pool} {seq len : Nat} (h_s : Kept s0 s) :
    Kept s0 (State.setLength s n p seq len) := by
  unfold Sys2Proof.Machine.State.setLength
  exact Kept.standWrite h_s

theorem Kept.deviceCommand {s0 s : State} {n : Nat} {c : DeviceCommand} (h_s : Kept s0 s) :
    Kept s0 (State.deviceCommand s n c) := by
  unfold Sys2Proof.Machine.State.deviceCommand
  exact Kept.updStand h_s

theorem Kept.dropNodes {s0 s : State} {n : Nat} {gone : List Nat} (h_s : Kept s0 s) :
    Kept s0 (State.dropNodes s n gone) := by
  unfold Sys2Proof.Machine.State.dropNodes
  repeat' first
    | with_reducible assumption
    | (extract_lets +onlyGivenNames x; have : ∀ a, x a = x a := fun _ => rfl; clear this; (try dsimp only [x]); clear x)
    | (extract_lets +onlyGivenNames x; clear_value x)
    | with_reducible refine Kept.deviceCommand ?_
    | with_reducible refine Kept.updStand ?_
    | with_reducible refine Kept.foldl ?_ (fun _ _ _ => ?_) _

theorem Kept.canopyCheck {s0 s : State} {n : Nat} (h_s : Kept s0 s) : Kept s0 (State.canopyCheck s n) := by
  unfold Sys2Proof.Machine.State.canopyCheck
  exact Kept.ite h_s (Kept.dropNodes h_s)

theorem Kept.clearRc {s0 s : State} {r : Reg} {i j : Nat} (h_s : Kept s0 s) : Kept s0 (State.clearRc s r i j) := by
  unfold Sys2Proof.Machine.State.clearRc
  exact Kept.foldl h_s (fun x x_1 x_2 => Kept.setFld x_2) (List.filter (fun x => decide (x.acc = Access.rc)) r.fields)

theorem Kept.viewDrop {s0 s : State} {v : Nat} (h_s : Kept s0 s) : Kept s0 (State.viewDrop s v) := by
  unfold Sys2Proof.Machine.State.viewDrop
  exact Kept.ite (Kept.addFld h_s) (Kept.addFld h_s)

theorem Kept.wrapRing {s0 s : State} {ring : Nat} (h_s : Kept s0 s) : Kept s0 (State.wrapRing s ring) := by
  unfold Sys2Proof.Machine.State.wrapRing
  exact Kept.lit h_s id

theorem Kept.viewPut {s0 s : State} {v : Nat} {w : View} {unit : Nat} {bs : List Byte} (h_s : Kept s0 s) :
    Kept s0 (State.viewPut s v w unit bs) := by
  unfold Sys2Proof.Machine.State.viewPut
  repeat' first
    | with_reducible assumption
    | (extract_lets +onlyGivenNames x; clear_value x)
    | with_reducible refine Kept.hostWrite ?_
    | with_reducible refine Kept.standWrite ?_
    | with_reducible refine Kept.ite ?_ ?_

theorem Kept.viewWrite {s0 s : State} {v : Nat} {mk : Nat → List Byte} (h_s : Kept s0 s) :
    Kept s0 (State.viewWrite s v mk).1 := by
  unfold Sys2Proof.Machine.State.viewWrite
  repeat' first
    | with_reducible assumption
    | (extract_lets +onlyGivenNames x; have : ∀ a, x a = x a := fun _ => rfl; clear this; (try dsimp only [x]); clear x)
    | (extract_lets +onlyGivenNames x; clear_value x)
    | with_reducible refine Kept.flagUnmapped ?_
    | with_reducible refine Kept.msix ?_
    | with_reducible refine Kept.setFld ?_
    | with_reducible refine Kept.viewDrop ?_
    | with_reducible refine Kept.viewPut ?_
    | with_reducible refine Kept.wrapRing ?_
    | with_reducible refine Kept.ite ?_ ?_
    | with_reducible refine Kept.ite1 ?_ ?_

theorem Kept.setFlood {s0 s : State} {x : Flood} (h_s : Kept s0 s) : Kept s0 (State.setFlood s x) := by
  unfold Sys2Proof.Machine.State.setFlood
  repeat' first
    | with_reducible assumption
    | with_reducible exact id
    | (extract_lets +onlyGivenNames x; clear_value x)
    | (rewrite [State.mk_lit]; with_reducible refine Kept.lit ?_ ?_)

theorem Kept.viewRecord {s0 s : State} {v : Nat} {e : Event} {payload : List Byte} (h_s : Kept s0 s) :
    Kept s0 (State.viewRecord s v e payload) := by
  unfold Sys2Proof.Machine.State.viewRecord
  repeat' first
    | with_reducible assumption
    | (extract_lets +onlyGivenNames x; clear_value x)
    | with_reducible refine Kept.setFlood ?_
    | with_reducible refine Kept.viewWrite ?_
    | with_reducible refine Kept.ite ?_ ?_

theorem Kept.snapshot {s0 s : State} {e : Event} (h_s : Kept s0 s) : Kept s0 (State.snapshot s e) := by
  unfold Sys2Proof.Machine.State.snapshot
  repeat' first
    | with_reducible assumption
    | with_reducible exact id
    | (extract_lets +onlyGivenNames x; have : ∀ a, x a = x a := fun _ => rfl; clear this; (try dsimp only [x]); clear x)
    | (extract_lets +onlyGivenNames x; clear_value x)
    | with_reducible refine Kept.satFld ?_
    | with_reducible refine Kept.viewRecord ?_
    | with_reducible refine Kept.ite ?_ ?_
    | (rewrite [State.mk_lit]; with_reducible refine Kept.lit ?_ ?_)

theorem Kept.event {s0 s : State} {e : Event} (h_s : Kept s0 s) : Kept s0 (State.event s e) := by
  unfold Sys2Proof.Machine.State.event
  repeat' first
    | with_reducible assumption
    | (extract_lets +onlyGivenNames x; refine (fun (hx : Kept s0 x) => ?_) ?_; clear_value x; rotate_left; dsimp only [x]; clear x)
    | (extract_lets +onlyGivenNames x; clear_value x)
    | with_reducible refine Kept.snapshot ?_
    | with_reducible refine Kept.viewRecord ?_
    | split

theorem Kept.standEvent {s0 s : State} {n : Nat} {e : Event} (h_s : Kept s0 s) : Kept s0 (State.standEvent s n e) := by
  unfold Sys2Proof.Machine.State.standEvent
  exact Kept.snapshot (Kept.viewRecord h_s)

theorem Kept.sharedFault {s0 s : State} {stands : List Nat} {die unit kind number : Nat} (h_s : Kept s0 s) :
    Kept s0 (State.sharedFault s stands die unit kind number) := by
  unfold Sys2Proof.Machine.State.sharedFault
  exact Kept.foldl h_s (fun x x_1 x_2 => Kept.ite (Kept.standEvent x_2) x_2) stands

theorem Kept.eventOf {s0 s : State} {n code unit : Nat} {items : List Nat} (h_s : Kept s0 s) :
    Kept s0 (State.eventOf s n code unit items) := by
  unfold Sys2Proof.Machine.State.eventOf
  exact Kept.event h_s

theorem Kept.closeWindow {s0 s : State} (h_s : Kept s0 s) : Kept s0 (State.closeWindow s) := by
  unfold Sys2Proof.Machine.State.closeWindow
  repeat' first
    | with_reducible assumption
    | with_reducible exact id
    | (extract_lets +onlyGivenNames x; refine (fun (hx : Kept s0 x) => ?_) ?_; clear_value x; rotate_left; dsimp only [x]; clear x)
    | (extract_lets +onlyGivenNames x; clear_value x)
    | with_reducible refine Kept.viewWrite ?_
    | with_reducible refine Kept.foldl ?_ (fun _ _ _ => ?_) _
    | (rewrite [State.mk_lit]; with_reducible refine Kept.lit ?_ ?_)

theorem Kept.ringAdvance {s0 s : State} {r : Ring} {n : Nat} (h_s : Kept s0 s) : Kept s0 (State.ringAdvance s r n) := by
  unfold Sys2Proof.Machine.State.ringAdvance
  exact Kept.setFld h_s

theorem Kept.ringResult {s0 s : State} {r : Ring} {n bytes result : Nat} (h_s : Kept s0 s) :
    Kept s0 (State.ringResult s r n bytes result) := by
  unfold Sys2Proof.Machine.State.ringResult
  repeat' first
    | with_reducible assumption
    | with_reducible refine Kept.ringAdvance ?_
    | with_reducible refine Kept.standWrite ?_
    | split

theorem Kept.ringCommand {s0 s : State} {r : Ring} {n bytes op : Nat} {known : List Nat} {bad : State → State}
    {run : List Byte → State → State × Nat} (h_s : Kept s0 s) (h_bad : ∀ x0, Kept s0 x0 → Kept s0 (bad x0))
    (h_run : ∀ x0 x1, Kept s0 x1 → Kept s0 (run x0 x1).1) :
    Kept s0 (State.ringCommand s r n bytes op known bad run) := by
  unfold Sys2Proof.Machine.State.ringCommand
  repeat' first
    | with_reducible assumption
    | (extract_lets +onlyGivenNames x; clear_value x)
    | with_reducible refine Kept.ringResult ?_
    | with_reducible refine h_bad _ ?_
    | with_reducible refine h_run _ _ ?_
    | with_reducible refine Kept.ite ?_ ?_
    | split

theorem Kept.updPage {s0 s : State} {n p : Nat} {f : PageEntry → PageEntry} (h_s : Kept s0 s) :
    Kept s0 (State.updPage s n p f) := by
  unfold Sys2Proof.Machine.State.updPage
  exact Kept.updStand h_s

theorem Kept.copyMem {s0 s : State} {dst src len : Nat} (h_s : Kept s0 s) : Kept s0 (State.copyMem s dst src len) := by
  unfold Sys2Proof.Machine.State.copyMem
  exact Kept.lit h_s (Mem.copy_kept id)

theorem Kept.writeUnit {s0 s : State} {n p u : Nat} {o : TierObject} {c : PageCopy} (h_s : Kept s0 s) :
    Kept s0 (State.writeUnit s n p u o c) := by
  unfold Sys2Proof.Machine.State.writeUnit
  repeat' first
    | with_reducible assumption
    | (extract_lets +onlyGivenNames x; clear_value x)
    | with_reducible refine Kept.copyMem ?_

theorem Kept.tierContext {s0 : State} {n obj tier tag addr : Nat} {s : State} (h_s : Kept s0 s) :
    Kept s0 (tierContext n obj tier tag addr s) := by
  unfold Sys2Proof.Machine.tierContext
  exact Kept.setReg (Kept.setReg h_s)

theorem Kept.need {s0 s : State} {n p : Nat} {o : TierObject} (h_s : Kept s0 s) : Kept s0 (State.need s n p o) := by
  unfold Sys2Proof.Machine.State.need
  exact Kept.updStand h_s

theorem Kept.writeBack {s0 s : State} {n p : Nat} (h_s : Kept s0 s) : Kept s0 (State.writeBack s n p).1 := by
  unfold Sys2Proof.Machine.State.writeBack
  repeat' first
    | with_reducible assumption
    | intro _
    | (extract_lets +onlyGivenNames x; have : ∀ a, x a = x a := fun _ => rfl; clear this; (try dsimp only [x]); clear x)
    | (extract_lets +onlyGivenNames x; clear_value x)
    | with_reducible refine Kept.addFld ?_
    | with_reducible refine Kept.flagError ?_ ?_
    | with_reducible refine Kept.need ?_
    | with_reducible refine Kept.tierContext ?_
    | with_reducible refine Kept.updPage ?_
    | with_reducible refine Kept.writeUnit ?_
    | with_reducible refine Kept.ite1 ?_ ?_
    | with_reducible refine Kept.foldl ?_ (fun _ _ _ => ?_) _
    | split

theorem Kept.dropCopy {s0 s : State} {n p : Nat} (h_s : Kept s0 s) : Kept s0 (State.dropCopy s n p) := by
  unfold Sys2Proof.Machine.State.dropCopy
  exact Kept.updPage h_s

theorem Kept.evictCopy {s0 s : State} {n p : Nat} (h_s : Kept s0 s) : Kept s0 (State.evictCopy s n p).1 := by
  unfold Sys2Proof.Machine.State.evictCopy
  repeat' first
    | with_reducible assumption
    | with_reducible refine Kept.addFld ?_
    | with_reducible refine Kept.dropCopy ?_
    | with_reducible refine Kept.writeBack ?_
    | with_reducible refine Kept.ite1 ?_ ?_
    | split

theorem Kept.restHand {s0 s : State} {n g num : Nat} (h_s : Kept s0 s) : Kept s0 (State.restHand s n g num) := by
  unfold Sys2Proof.Machine.State.restHand
  exact Kept.updStand h_s

theorem Kept.takeFrame {s0 s : State} {n place a0 : Nat} (h_s : Kept s0 s) : Kept s0 (State.takeFrame s n place a0).1 := by
  induction a0 generalizing s n place with
  | zero =>
    unfold Sys2Proof.Machine.State.takeFrame
    repeat' first
      | with_reducible assumption
      | with_reducible refine Kept.evictCopy ?_
      | with_reducible refine Kept.restHand ?_
      | with_reducible refine Kept.ite1 ?_ ?_
      | split
  | succ k ih =>
    unfold Sys2Proof.Machine.State.takeFrame
    repeat' first
      | with_reducible assumption
      | with_reducible refine ih ?_
      | with_reducible refine Kept.evictCopy ?_
      | with_reducible refine Kept.restHand ?_
      | with_reducible refine Kept.ite1 ?_ ?_
      | split

theorem Kept.installCopy {s0 s : State} {n p : Nat} {o : TierObject} {f : Frame} (h_s : Kept s0 s) :
    Kept s0 (State.installCopy s n p o f) := by
  unfold Sys2Proof.Machine.State.installCopy
  repeat' first
    | with_reducible assumption
    | (extract_lets +onlyGivenNames x; refine (fun (hx : Kept s0 x) => ?_) ?_; clear_value x; rotate_left; dsimp only [x]; clear x)
    | (extract_lets +onlyGivenNames x; clear_value x)
    | with_reducible refine Kept.addFld ?_
    | with_reducible refine Kept.copyMem ?_
    | with_reducible refine Kept.updPage ?_
    | with_reducible refine Kept.foldl ?_ (fun _ _ _ => ?_) _

theorem Kept.fetchFailed {s0 s : State} {n p : Nat} (h_s : Kept s0 s) : Kept s0 (State.fetchFailed s n p) := by
  unfold Sys2Proof.Machine.State.fetchFailed
  repeat' first
    | with_reducible assumption
    | intro _
    | (extract_lets +onlyGivenNames x; refine (fun (hx : Kept s0 x) => ?_) ?_; clear_value x; rotate_left; dsimp only [x]; clear x)
    | with_reducible refine Kept.flagError ?_ ?_
    | with_reducible refine Kept.tierContext ?_
    | with_reducible refine Kept.updPage ?_
    | split

theorem Kept.promoteNow {s0 s : State} {n p : Nat} {o : TierObject} (h_s : Kept s0 s) :
    Kept s0 (State.promoteNow s n p o).1 := by
  unfold Sys2Proof.Machine.State.promoteNow
  repeat' first
    | with_reducible assumption
    | (extract_lets +onlyGivenNames x; clear_value x)
    | with_reducible refine Kept.fetchFailed ?_
    | with_reducible refine Kept.installCopy ?_
    | with_reducible refine Kept.need ?_
    | with_reducible refine Kept.takeFrame ?_
    | with_reducible refine Kept.ite1 ?_ ?_
    | with_reducible refine Kept.fst ?_ (by with_reducible assumption)
    | split

theorem Kept.flagBlock {s0 s : State} {n addr : Nat} {e : BlockError} (h_s : Kept s0 s) :
    Kept s0 (State.flagBlock s n addr e) := by
  unfold Sys2Proof.Machine.State.flagBlock
  exact Kept.flagError h_s fun x0 a => Kept.setReg a

theorem Kept.poisonEntry {s0 s : State} {n ea addr : Nat} {e : BlockError} (h_s : Kept s0 s) :
    Kept s0 (State.poisonEntry s n ea addr e) := by
  unfold Sys2Proof.Machine.State.poisonEntry
  repeat' first
    | with_reducible assumption
    | with_reducible refine Kept.flagBlock ?_
    | with_reducible refine Kept.putBytes ?_
    | split

theorem Kept.markPageBlocks {s0 s : State} {n p : Nat} {o : TierObject} (h_s : Kept s0 s) :
    Kept s0 (State.markPageBlocks s n p o) := by
  unfold Sys2Proof.Machine.State.markPageBlocks
  repeat' first
    | with_reducible assumption
    | (extract_lets +onlyGivenNames x; clear_value x)
    | with_reducible refine Kept.poisonEntry ?_
    | with_reducible refine Kept.ite ?_ ?_
    | with_reducible refine Kept.foldl ?_ (fun _ _ _ => ?_) _
    | split

theorem Kept.losePage {s0 s : State} {n p tier : Nat} (h_s : Kept s0 s) : Kept s0 (State.losePage s n p tier) := by
  unfold Sys2Proof.Machine.State.losePage
  repeat' first
    | with_reducible assumption
    | intro _
    | (extract_lets +onlyGivenNames x; refine (fun (hx : Kept s0 x) => ?_) ?_; clear_value x; rotate_left; dsimp only [x]; clear x)
    | with_reducible refine Kept.event ?_
    | with_reducible refine Kept.flagError ?_ ?_
    | with_reducible refine Kept.markPageBlocks ?_
    | with_reducible refine Kept.tierContext ?_
    | with_reducible refine Kept.updPage ?_
    | with_reducible refine Kept.updStand ?_
    | with_reducible refine Kept.ite ?_ ?_
    | split

theorem Kept.loseChannelPages {s0 s : State} {n : Nat} {grove half ddr : Option Nat} (h_s : Kept s0 s) :
    Kept s0 (State.loseChannelPages s n grove half ddr) := by
  unfold Sys2Proof.Machine.State.loseChannelPages
  repeat' first
    | with_reducible assumption
    | (extract_lets +onlyGivenNames x; clear_value x)
    | with_reducible refine Kept.dropCopy ?_
    | with_reducible refine Kept.losePage ?_
    | with_reducible refine Kept.ite ?_ ?_
    | with_reducible refine Kept.foldl ?_ (fun _ _ _ => ?_) _
    | split

theorem Kept.failHbm {s0 s : State} {i : Nat} (h_s : Kept s0 s) : Kept s0 (State.failHbm s i) := by
  unfold Sys2Proof.Machine.State.failHbm
  repeat' first
    | with_reducible assumption
    | (extract_lets +onlyGivenNames x; refine (fun (hx : Kept s0 x) => ?_) ?_; clear_value x; rotate_left; dsimp only [x]; clear x)
    | (extract_lets +onlyGivenNames x; clear_value x)
    | with_reducible refine Kept.event ?_
    | with_reducible refine Kept.loseChannelPages ?_
    | with_reducible refine Kept.setFld ?_
    | with_reducible refine Kept.ite ?_ ?_
    | with_reducible refine Kept.foldl ?_ (fun _ _ _ => ?_) _
    | split

theorem Kept.failDdr {s0 s : State} {k : Nat} (h_s : Kept s0 s) : Kept s0 (State.failDdr s k) := by
  unfold Sys2Proof.Machine.State.failDdr
  repeat' first
    | with_reducible assumption
    | (extract_lets +onlyGivenNames x; refine (fun (hx : Kept s0 x) => ?_) ?_; clear_value x; rotate_left; dsimp only [x]; clear x)
    | with_reducible refine Kept.event ?_
    | with_reducible refine Kept.loseChannelPages ?_
    | with_reducible refine Kept.setFld ?_
    | with_reducible refine Kept.ite ?_ ?_
    | with_reducible refine Kept.foldl ?_ (fun _ _ _ => ?_) _

theorem Kept.runTake {s0 s : State} {k : RunKind} {n i : Nat} (h_s : Kept s0 s) : Kept s0 (State.runTake s k n i) := by
  unfold Sys2Proof.Machine.State.runTake
  exact Kept.updStand h_s

theorem Kept.runDone {s0 s : State} {k : RunKind} {n i result : Nat} (h_s : Kept s0 s) :
    Kept s0 (State.runDone s k n i result) := by
  unfold Sys2Proof.Machine.State.runDone
  repeat' first
    | with_reducible assumption
    | (extract_lets +onlyGivenNames x; refine (fun (hx : Kept s0 x) => ?_) ?_; clear_value x; rotate_left; dsimp only [x]; clear x)
    | (extract_lets +onlyGivenNames x; clear_value x)
    | with_reducible refine Kept.setFld ?_
    | with_reducible refine Kept.standWrite ?_
    | with_reducible refine Kept.updStand ?_
    | with_reducible refine Kept.ite ?_ ?_

theorem Kept.runCommand {s0 s : State} {k : RunKind} {n op : Nat} {known : List Nat} {bad : State → State × Nat}
    {run : List Byte → Nat → State → State × Option Nat} (h_s : Kept s0 s) (h_bad : ∀ x0, Kept s0 x0 → Kept s0
    (bad x0).1) (h_run : ∀ x0 x1 x2, Kept s0 x2 → Kept s0 (run x0 x1 x2).1) :
    Kept s0 (State.runCommand s k n op known bad run) := by
  unfold Sys2Proof.Machine.State.runCommand
  repeat' first
    | with_reducible assumption
    | (extract_lets +onlyGivenNames x; clear_value x)
    | with_reducible refine Kept.runDone ?_
    | with_reducible refine Kept.runTake ?_
    | with_reducible refine h_bad _ ?_
    | with_reducible refine h_run _ _ _ ?_
    | with_reducible refine Kept.ite ?_ ?_
    | with_reducible refine Kept.fst ?_ (by with_reducible assumption)
    | split

end Sys2Proof.Machine
end

