-- ==== Sys2Proof/Laws/KeptUnits.lean ====
section
/-! SUPPORT. Every operation of search, ports, queues, register writes and shaping keeps the queue, the canonical form of memory and burnt fuses
(`Kept`): one lemma for each. -/

namespace Sys2Proof.Machine

open Sys2Proof

set_option linter.unusedVariables false
set_option linter.tactic.unusedName false

theorem Kept.countBank {s0 s : State} {b : Nat} (h_s : Kept s0 s) : Kept s0 (State.countBank s b) := by
  unfold Sys2Proof.Machine.State.countBank
  exact Kept.setFld h_s

theorem Kept.setTable {s0 s : State} {t : Table} {l : SMap SearchEntry} (h_s : Kept s0 s) :
    Kept s0 (State.setTable s t l) := by
  unfold Sys2Proof.Machine.State.setTable
  repeat' first
    | with_reducible assumption
    | with_reducible exact id
    | (extract_lets +onlyGivenNames x; clear_value x)
    | with_reducible refine Kept.countBank ?_
    | with_reducible refine Kept.foldl ?_ (fun _ _ _ => ?_) _
    | (rewrite [State.mk_lit]; with_reducible refine Kept.lit ?_ ?_)

theorem Kept.searched {s0 s : State} {hub : Nat} (h_s : Kept s0 s) : Kept s0 (State.searched s hub) := by
  unfold Sys2Proof.Machine.State.searched
  exact Kept.addFld h_s

theorem Kept.tableInsert {s0 s : State} {t : Table} {x : SearchEntry} (h_s : Kept s0 s) {t_ : State}
    (e_ : State.tableInsert s t x = some t_) :
    Kept s0 t_ := by
  unfold Sys2Proof.Machine.State.tableInsert at e_
  repeat' first
    | with_reducible assumption
    | (rewrite [Option.map_eq_some_iff] at e_; obtain ⟨_, _, rfl⟩ := e_)
    | (rewrite [Option.some.injEq] at e_; subst e_)
    | (split at e_)
    | dsimp only at e_
    | with_reducible refine Kept.setTable ?_

theorem Kept.tableDelete {s0 s : State} {t : Table} {data mask : Nat} (h_s : Kept s0 s) :
    Kept s0 (State.tableDelete s t data mask).1 := by
  unfold Sys2Proof.Machine.State.tableDelete
  repeat' first
    | with_reducible assumption
    | (extract_lets +onlyGivenNames x; clear_value x)
    | with_reducible refine Kept.setTable ?_
    | with_reducible refine Kept.ite1 ?_ ?_

theorem Kept.flagAsr {s0 s : State} {f : Field} {b slot : Nat} (h_s : Kept s0 s) : Kept s0 (State.flagAsr s f b slot) := by
  unfold Sys2Proof.Machine.State.flagAsr
  repeat' first
    | with_reducible assumption
    | intro _
    | (extract_lets +onlyGivenNames x; clear_value x)
    | with_reducible refine Kept.flagError ?_ ?_
    | with_reducible refine Kept.setReg ?_

theorem Kept.tableFull {s0 s : State} {t : Table} (h_s : Kept s0 s) : Kept s0 (State.tableFull s t) := by
  unfold Sys2Proof.Machine.State.tableFull
  exact Kept.flagAsr h_s

theorem Kept.repaired {s0 s : State} {b slot : Nat} (h_s : Kept s0 s) : Kept s0 (State.repaired s b slot) := by
  unfold Sys2Proof.Machine.State.repaired
  exact Kept.event (Kept.addFld h_s)

theorem Kept.entryLost {s0 s : State} {b slot : Nat} (h_s : Kept s0 s) : Kept s0 (State.entryLost s b slot) := by
  unfold Sys2Proof.Machine.State.entryLost
  repeat' first
    | with_reducible assumption
    | (extract_lets +onlyGivenNames x; refine (fun (hx : Kept s0 x) => ?_) ?_; clear_value x; rotate_left; dsimp only [x]; clear x)
    | with_reducible refine Kept.addFld ?_
    | with_reducible refine Kept.event ?_
    | with_reducible refine Kept.flagAsr ?_

theorem Kept.burst {s0 s : State} {hub : Nat} {a0 : List (Table × Nat × Bool)} {a1 : Nat} {a2 : List (Option Nat)}
    (h_s : Kept s0 s) :
    Kept s0 (State.burst s hub a0 a1 a2) := by
  induction a0 generalizing s hub a1 a2 with
  | nil =>
    unfold Sys2Proof.Machine.State.burst
    repeat' first
      | with_reducible assumption
      | with_reducible exact id
      | (extract_lets +onlyGivenNames x; refine (fun (hx : Kept s0 x) => ?_) ?_; clear_value x; rotate_left; dsimp only [x]; clear x)
      | with_reducible refine Kept.repaired ?_
      | with_reducible refine Kept.searched ?_
      | with_reducible refine Kept.ite ?_ ?_
      | (rewrite [State.mk_lit]; with_reducible refine Kept.lit ?_ ?_)
      | split
  | cons b l ih =>
    unfold Sys2Proof.Machine.State.burst
    repeat' first
      | with_reducible assumption
      | with_reducible refine ih ?_
      | with_reducible exact id
      | (extract_lets +onlyGivenNames x; refine (fun (hx : Kept s0 x) => ?_) ?_; clear_value x; rotate_left; dsimp only [x]; clear x)
      | with_reducible refine Kept.repaired ?_
      | with_reducible refine Kept.searched ?_
      | with_reducible refine Kept.ite ?_ ?_
      | (rewrite [State.mk_lit]; with_reducible refine Kept.lit ?_ ?_)
      | split

theorem Kept.execAsrSearch {s0 : State} {hub r : Nat} {l : List (Nat × Nat × Nat × Bool)} {s : State}
    (h_s : Kept s0 s) :
    NextWith (execAsrSearch hub r l s) (Kept s0) := by
  unfold Sys2Proof.Machine.execAsrSearch
  repeat' first
    | with_reducible assumption
    | (extract_lets +onlyGivenNames x; clear_value x)
    | with_reducible refine Kept.burst ?_
    | with_reducible refine Kept.ite ?_ ?_
    | with_reducible refine Kept.next ?_

theorem Kept.asrCommand {s0 s : State} {hub op : Nat} {cmd : List Byte} {record : HostRead}
    {run : List Byte → State → State × Nat} (h_s : Kept s0 s) (h_run : ∀ x0 x1, Kept s0 x1 → Kept s0 (run x0 x1).1) :
    Kept s0 (State.asrCommand s hub op cmd record run) := by
  unfold Sys2Proof.Machine.State.asrCommand
  repeat' first
    | with_reducible assumption
    | (extract_lets +onlyGivenNames x; clear_value x)
    | with_reducible refine Kept.hostWrite ?_
    | with_reducible refine Kept.setFld ?_
    | with_reducible refine h_run _ _ ?_
    | with_reducible refine Kept.ite ?_ ?_
    | with_reducible refine Kept.ite1 ?_ ?_
    | split

theorem Kept.execClassifierInsert {s0 : State} {hub : Nat} {cmd : List Byte} {record : HostRead} {s : State}
    (h_s : Kept s0 s) :
    NextWith (execClassifierInsert hub cmd record s) (Kept s0) := by
  unfold Sys2Proof.Machine.execClassifierInsert
  repeat' first
    | with_reducible assumption
    | intro _
    | with_reducible refine Kept.asrCommand ?_ ?_
    | with_reducible refine Kept.tableFull ?_
    | with_reducible refine Kept.tableInsert ?_ (by with_reducible assumption)
    | with_reducible refine Kept.ite1 ?_ ?_
    | with_reducible refine Kept.next ?_
    | split

theorem Kept.execClassifierDelete {s0 : State} {hub : Nat} {cmd : List Byte} {record : HostRead} {s : State}
    (h_s : Kept s0 s) :
    NextWith (execClassifierDelete hub cmd record s) (Kept s0) := by
  unfold Sys2Proof.Machine.execClassifierDelete
  exact Kept.next (Kept.asrCommand h_s fun x0 x1 a => Kept.tableDelete a)

theorem Kept.execClassifierRead {s0 : State} {hub : Nat} {cmd : List Byte} {record : HostRead} {s : State}
    (h_s : Kept s0 s) :
    NextWith (execClassifierRead hub cmd record s) (Kept s0) := by
  unfold Sys2Proof.Machine.execClassifierRead
  repeat' first
    | with_reducible assumption
    | intro _
    | (extract_lets +onlyGivenNames x; clear_value x)
    | with_reducible refine Kept.asrCommand ?_ ?_
    | with_reducible refine Kept.hostWrite ?_
    | with_reducible refine Kept.next ?_
    | split

theorem Kept.execAsrRespread {s0 : State} {hub kind stand run : Nat} {s : State} (h_s : Kept s0 s) :
    NextWith (execAsrRespread hub kind stand run s) (Kept s0) := by
  unfold Sys2Proof.Machine.execAsrRespread
  repeat' first
    | with_reducible assumption
    | (extract_lets +onlyGivenNames x; clear_value x)
    | with_reducible refine Kept.setTable ?_
    | with_reducible refine Kept.ite ?_ ?_
    | with_reducible refine Kept.next ?_

theorem Kept.execAsrScrubEntry {s0 : State} {b slot : Nat} {found : ScrubFinding} {s : State} (h_s : Kept s0 s) :
    NextWith (execAsrScrubEntry b slot found s) (Kept s0) := by
  unfold Sys2Proof.Machine.execAsrScrubEntry
  repeat' first
    | with_reducible assumption
    | with_reducible exact id
    | (extract_lets +onlyGivenNames x; refine (fun (hx : Kept s0 x) => ?_) ?_; clear_value x; rotate_left; dsimp only [x]; clear x)
    | with_reducible refine Kept.countBank ?_
    | with_reducible refine Kept.entryLost ?_
    | with_reducible refine Kept.repaired ?_
    | with_reducible refine Kept.setFld ?_
    | with_reducible refine Kept.ite ?_ ?_
    | (rewrite [State.mk_lit]; with_reducible refine Kept.lit ?_ ?_)
    | with_reducible refine Kept.next ?_
    | split

theorem Kept.reportLevel {s0 s : State} {l : Nat} (h_s : Kept s0 s) : Kept s0 (State.reportLevel s l) := by
  unfold Sys2Proof.Machine.State.reportLevel
  repeat' first
    | with_reducible assumption
    | (extract_lets +onlyGivenNames x; refine (fun (hx : Kept s0 x) => ?_) ?_; clear_value x; rotate_left; dsimp only [x]; clear x)
    | (extract_lets +onlyGivenNames x; clear_value x)
    | with_reducible refine Kept.event ?_
    | with_reducible refine Kept.setFld ?_
    | with_reducible refine Kept.standEvent ?_
    | with_reducible refine Kept.foldl ?_ (fun _ _ _ => ?_) _

theorem Kept.settleLevel {s0 s : State} (h_s : Kept s0 s) : Kept s0 (State.settleLevel s) := by
  unfold Sys2Proof.Machine.State.settleLevel
  repeat' first
    | with_reducible assumption
    | with_reducible exact id
    | (extract_lets +onlyGivenNames x; have : ∀ a, x a = x a := fun _ => rfl; clear this; (try dsimp only [x]); clear x)
    | (extract_lets +onlyGivenNames x; clear_value x)
    | with_reducible refine Kept.reportLevel ?_
    | with_reducible refine Kept.ite ?_ ?_
    | (rewrite [State.mk_lit]; with_reducible refine Kept.lit ?_ ?_)
    | split

theorem Kept.execSearchThrottle {s0 : State} {hub : Nat} {celsius : Int} {s : State} (h_s : Kept s0 s) :
    NextWith (execSearchThrottle hub celsius s) (Kept s0) := by
  unfold Sys2Proof.Machine.execSearchThrottle
  repeat' first
    | with_reducible assumption
    | (extract_lets +onlyGivenNames x; clear_value x)
    | with_reducible refine Kept.setFld ?_
    | with_reducible refine Kept.settleLevel ?_
    | with_reducible refine Kept.ite ?_ ?_
    | with_reducible refine Kept.next ?_

theorem Kept.reload {s0 s : State} {t : Table} {b : Nat} {a0 : List (Nat × SearchEntry)} (h_s : Kept s0 s) :
    Kept s0 (State.reload s t b a0) := by
  induction a0 generalizing s t b with
  | nil =>
    unfold Sys2Proof.Machine.State.reload
    repeat' first
      | with_reducible assumption
      | with_reducible refine Kept.entryLost ?_
      | with_reducible refine Kept.setTable ?_
      | split
  | cons b l ih =>
    unfold Sys2Proof.Machine.State.reload
    repeat' first
      | with_reducible assumption
      | with_reducible refine ih ?_
      | with_reducible refine Kept.entryLost ?_
      | with_reducible refine Kept.setTable ?_
      | split

theorem Kept.updPort {s0 s : State} {p : Nat} {f : Port → Port} (h_s : Kept s0 s) : Kept s0 (State.updPort s p f) := by
  unfold Sys2Proof.Machine.State.updPort
  exact Kept.lit h_s id

theorem Kept.updHub {s0 s : State} {h : Nat} {f : Hub → Hub} (h_s : Kept s0 s) : Kept s0 (State.updHub s h f) := by
  unfold Sys2Proof.Machine.State.updHub
  exact Kept.lit h_s id

theorem Kept.portTick {s0 s : State} {p : Nat} (h_s : Kept s0 s) : Kept s0 (State.portTick s p) := by
  unfold Sys2Proof.Machine.State.portTick
  repeat' first
    | with_reducible assumption
    | (extract_lets +onlyGivenNames x; have : ∀ a, x a = x a := fun _ => rfl; clear this; (try dsimp only [x]); clear x)
    | (extract_lets +onlyGivenNames x; clear_value x)
    | with_reducible refine Kept.updPort ?_

theorem Kept.enqueue {s0 s : State} {p c die conn : Nat} {f : FabFrame} (h_s : Kept s0 s) :
    Kept s0 (State.enqueue s p c die conn f) := by
  unfold Sys2Proof.Machine.State.enqueue
  exact Kept.updPort (Kept.portTick h_s)

theorem Kept.dropQueued {s0 s : State} {die conn : Nat} (h_s : Kept s0 s) : Kept s0 (State.dropQueued s die conn) := by
  unfold Sys2Proof.Machine.State.dropQueued
  exact Kept.foldl h_s (fun x x_1 x_2 => Kept.ite (Kept.updPort (Kept.portTick x_2)) x_2) (List.range 16)

theorem Kept.transmit {s0 s : State} {p : Nat} (h_s : Kept s0 s) : Kept s0 (State.transmit s p) := by
  unfold Sys2Proof.Machine.State.transmit
  repeat' first
    | with_reducible assumption
    | (extract_lets +onlyGivenNames x; refine (fun (hx : Kept s0 x) => ?_) ?_; clear_value x; rotate_left; dsimp only [x]; clear x)
    | (extract_lets +onlyGivenNames x; clear_value x)
    | with_reducible refine Kept.addFld ?_
    | with_reducible refine Kept.portTick ?_
    | with_reducible refine Kept.updPort ?_
    | with_reducible refine Kept.ite ?_ ?_
    | split

theorem Kept.afterWrite {s0 s old : State} {r : Reg} {i j : Nat} (h_s : Kept s0 s) (h_old : Kept s0 old) :
    Kept s0 (State.afterWrite s old r i j) := by
  unfold Sys2Proof.Machine.State.afterWrite
  repeat' first
    | with_reducible assumption
    | with_reducible refine Kept.updPort ?_
    | with_reducible refine Kept.ite ?_ ?_
    | split

theorem Kept.cqPut {s0 s : State} {n q : Nat} {e : List Byte} (h_s : Kept s0 s) : Kept s0 (State.cqPut s n q e) := by
  unfold Sys2Proof.Machine.State.cqPut
  repeat' first
    | with_reducible assumption
    | (extract_lets +onlyGivenNames x; have : ∀ a, x a = x a := fun _ => rfl; clear this; (try dsimp only [x]); clear x)
    | (extract_lets +onlyGivenNames x; clear_value x)
    | with_reducible refine Kept.hostWrite ?_
    | with_reducible refine Kept.setFld ?_
    | with_reducible refine Kept.standWrite ?_
    | with_reducible refine Kept.updStand ?_
    | with_reducible refine Kept.wrapRing ?_
    | with_reducible refine Kept.ite ?_ ?_

theorem Kept.cqDrain {s0 s : State} {n q : Nat} {a0 : List (List Byte)} (h_s : Kept s0 s) :
    Kept s0 (State.cqDrain s n q a0) := by
  induction a0 generalizing s n q with
  | nil =>
    unfold Sys2Proof.Machine.State.cqDrain
    repeat' first
      | with_reducible assumption
      | with_reducible refine Kept.cqPut ?_
      | with_reducible refine Kept.updStand ?_
      | with_reducible refine Kept.ite ?_ ?_
  | cons b l ih =>
    unfold Sys2Proof.Machine.State.cqDrain
    repeat' first
      | with_reducible assumption
      | with_reducible refine ih ?_
      | with_reducible refine Kept.cqPut ?_
      | with_reducible refine Kept.updStand ?_
      | with_reducible refine Kept.ite ?_ ?_

theorem Kept.cqFlush {s0 s : State} {n q : Nat} (h_s : Kept s0 s) : Kept s0 (State.cqFlush s n q) := by
  unfold Sys2Proof.Machine.State.cqFlush
  repeat' first
    | with_reducible assumption
    | with_reducible refine Kept.cqDrain ?_
    | split

theorem Kept.cqEntry {s0 s : State} {n q : Nat} {c : Completion} (h_s : Kept s0 s) : Kept s0 (State.cqEntry s n q c) := by
  unfold Sys2Proof.Machine.State.cqEntry
  exact Kept.cqDrain h_s

theorem Kept.cqInterrupts {s0 s : State} {n : Nat} (h_s : Kept s0 s) : Kept s0 (State.cqInterrupts s n) := by
  unfold Sys2Proof.Machine.State.cqInterrupts
  repeat' first
    | with_reducible assumption
    | (extract_lets +onlyGivenNames x; clear_value x)
    | with_reducible refine Kept.msix ?_
    | with_reducible refine Kept.updStand ?_
    | with_reducible refine Kept.foldl ?_ (fun _ _ _ => ?_) _

theorem Kept.swyPut {s0 s : State} {v : Nat} {e : List Byte} (h_s : Kept s0 s) : Kept s0 (State.swyPut s v e) := by
  unfold Sys2Proof.Machine.State.swyPut
  repeat' first
    | with_reducible assumption
    | (extract_lets +onlyGivenNames x; refine (fun (hx : Kept s0 x) => ?_) ?_; clear_value x; rotate_left; dsimp only [x]; clear x)
    | (extract_lets +onlyGivenNames x; clear_value x)
    | with_reducible refine Kept.hostWrite ?_
    | with_reducible refine Kept.msix ?_
    | with_reducible refine Kept.setFld ?_
    | with_reducible refine Kept.standWrite ?_
    | with_reducible refine Kept.wrapRing ?_
    | with_reducible refine Kept.ite ?_ ?_

theorem Kept.swyDrain {s0 s : State} {v : Nat} {a0 : List (List Byte)} (h_s : Kept s0 s) :
    Kept s0 (State.swyDrain s v a0) := by
  induction a0 generalizing s v with
  | nil =>
    unfold Sys2Proof.Machine.State.swyDrain
    repeat' first
      | with_reducible assumption
      | with_reducible exact id
      | with_reducible refine Kept.swyPut ?_
      | with_reducible refine Kept.ite ?_ ?_
      | (rewrite [State.mk_lit]; with_reducible refine Kept.lit ?_ ?_)
  | cons b l ih =>
    unfold Sys2Proof.Machine.State.swyDrain
    repeat' first
      | with_reducible assumption
      | with_reducible refine ih ?_
      | with_reducible exact id
      | with_reducible refine Kept.swyPut ?_
      | with_reducible refine Kept.ite ?_ ?_
      | (rewrite [State.mk_lit]; with_reducible refine Kept.lit ?_ ?_)

theorem Kept.swyFlush {s0 s : State} {v : Nat} (h_s : Kept s0 s) : Kept s0 (State.swyFlush s v) := by
  unfold Sys2Proof.Machine.State.swyFlush
  exact Kept.swyDrain h_s

theorem Kept.swyEvent {s0 s : State} {v kind requestId bundleId epoch arg : Nat} (h_s : Kept s0 s) :
    Kept s0 (State.swyEvent s v kind requestId bundleId epoch arg) := by
  unfold Sys2Proof.Machine.State.swyEvent
  repeat' first
    | with_reducible assumption
    | with_reducible exact id
    | (extract_lets +onlyGivenNames x; clear_value x)
    | with_reducible refine Kept.addFld ?_
    | with_reducible refine Kept.swyPut ?_
    | with_reducible refine Kept.ite ?_ ?_
    | (rewrite [State.mk_lit]; with_reducible refine Kept.lit ?_ ?_)

theorem Kept.swyEvtHead {s0 s : State} {v index : Nat} (h_s : Kept s0 s) : Kept s0 (State.swyEvtHead s v index) := by
  unfold Sys2Proof.Machine.State.swyEvtHead
  exact Kept.swyFlush (Kept.ite (Kept.setFld h_s) (Kept.setFld h_s))

theorem Kept.execSwyEvtHeadWrite {s0 : State} {f : Fn} {v index : Nat} {s : State} (h_s : Kept s0 s) :
    NextWith (execSwyEvtHeadWrite f v index s) (Kept s0) := by
  unfold Sys2Proof.Machine.execSwyEvtHeadWrite
  repeat' first
    | with_reducible assumption
    | (extract_lets +onlyGivenNames x; clear_value x)
    | with_reducible refine Kept.swyEvtHead ?_
    | with_reducible refine Kept.ite ?_ ?_
    | with_reducible refine Kept.next ?_

theorem Kept.writeBy {s0 s : State} {f : Fn} {r : Reg} {i j : Nat} {keep : List Field} {v : Nat} (h_s : Kept s0 s) :
    Kept s0 (State.writeBy s f r i j keep v) := by
  unfold Sys2Proof.Machine.State.writeBy
  repeat' first
    | with_reducible assumption
    | with_reducible refine Kept.setReg ?_
    | with_reducible refine Kept.ite ?_ ?_
    | split

theorem Kept.writeRow {s0 s : State} {f : Fn} {r : Reg} {i j : Nat} {own : List Field} {v : Nat} (h_s : Kept s0 s)
    {t_ : State} (e_ : State.writeRow s f r i j own v = some t_) :
    Kept s0 t_ := by
  unfold Sys2Proof.Machine.State.writeRow at e_
  repeat' first
    | with_reducible assumption
    | (rewrite [Option.some.injEq] at e_; subst e_)
    | with_reducible exact Option.absurd e_
    | (split at e_)
    | with_reducible refine Kept.writeBy ?_

theorem Kept.complete {s0 s : State} {data : Nat} {poisoned : Bool} (h_s : Kept s0 s) :
    Kept s0 (State.complete s data poisoned) := by
  unfold Sys2Proof.Machine.State.complete
  repeat' first
    | with_reducible assumption
    | with_reducible exact id
    | (extract_lets +onlyGivenNames x; clear_value x)
    | (rewrite [State.mk_lit]; with_reducible refine Kept.lit ?_ ?_)

theorem Kept.restartRing {s0 s : State} {r : Reg} {i j : Nat} (h_s : Kept s0 s) : Kept s0 (State.restartRing s r i j) := by
  unfold Sys2Proof.Machine.State.restartRing
  repeat' first
    | with_reducible assumption
    | with_reducible exact id
    | (extract_lets +onlyGivenNames x; refine (fun (hx : Kept s0 x) => ?_) ?_; clear_value x; rotate_left; dsimp only [x]; clear x)
    | with_reducible refine Kept.setFld ?_
    | with_reducible refine Kept.setReg ?_
    | with_reducible refine Kept.updStand ?_
    | with_reducible refine Kept.ite ?_ ?_
    | with_reducible refine Kept.foldl ?_ (fun _ _ _ => ?_) _
    | (rewrite [State.mk_lit]; with_reducible refine Kept.lit ?_ ?_)
    | split

theorem Kept.settleWrite {s0 s : State} {r : Reg} {i j : Nat} (h_s : Kept s0 s) : Kept s0 (State.settleWrite s r i j) := by
  unfold Sys2Proof.Machine.State.settleWrite
  repeat' first
    | with_reducible assumption
    | with_reducible refine Kept.canopyCheck ?_
    | with_reducible refine Kept.cqFlush ?_
    | with_reducible refine Kept.swyFlush ?_
    | split

theorem Kept.execRegisterWrite {s0 : State} {f : Fn} {off bytes v : Nat} {s : State} (h_s : Kept s0 s) :
    NextWith (execRegisterWrite f off bytes v s) (Kept s0) := by
  unfold Sys2Proof.Machine.execRegisterWrite
  repeat' first
    | with_reducible assumption
    | (extract_lets +onlyGivenNames x; refine (fun (hx : Kept s0 x) => ?_) ?_; clear_value x; rotate_left; dsimp only [x]; clear x)
    | with_reducible refine Kept.afterWrite ?_ ?_
    | with_reducible refine Kept.portTick ?_
    | with_reducible refine Kept.settleWrite ?_
    | with_reducible refine Kept.writeBy ?_
    | with_reducible refine Kept.ite ?_ ?_
    | with_reducible refine Kept.next ?_
    | split

theorem Kept.execRcRegisterRead {s0 : State} {f : Fn} {off bytes : Nat} {s : State} (h_s : Kept s0 s) :
    NextWith (execRcRegisterRead f off bytes s) (Kept s0) := by
  unfold Sys2Proof.Machine.execRcRegisterRead
  repeat' first
    | with_reducible assumption
    | (extract_lets +onlyGivenNames x; refine (fun (hx : Kept s0 x) => ?_) ?_; clear_value x; rotate_left; dsimp only [x]; clear x)
    | (extract_lets +onlyGivenNames x; clear_value x)
    | with_reducible refine Kept.clearRc ?_
    | with_reducible refine Kept.complete ?_
    | with_reducible refine Kept.ite ?_ ?_
    | with_reducible refine Kept.next ?_
    | split

theorem Kept.execRingRegisterWrite {s0 : State} {f : Fn} {off v : Nat} {s : State} (h_s : Kept s0 s) :
    NextWith (execRingRegisterWrite f off v s) (Kept s0) := by
  unfold Sys2Proof.Machine.execRingRegisterWrite
  repeat' first
    | with_reducible assumption
    | (extract_lets +onlyGivenNames x; refine (fun (hx : Kept s0 x) => ?_) ?_; clear_value x; rotate_left; dsimp only [x]; clear x)
    | with_reducible refine Kept.restartRing ?_
    | with_reducible refine Kept.settleWrite ?_
    | with_reducible refine Kept.writeBy ?_
    | with_reducible refine Kept.ite ?_ ?_
    | with_reducible refine Kept.next ?_
    | split

theorem Kept.showLink {s0 s : State} {i : Nat} (h_s : Kept s0 s) : Kept s0 (State.showLink s i) := by
  unfold Sys2Proof.Machine.State.showLink
  repeat' first
    | with_reducible assumption
    | (extract_lets +onlyGivenNames x; refine (fun (hx : Kept s0 x) => ?_) ?_; clear_value x; rotate_left; dsimp only [x]; clear x)
    | (extract_lets +onlyGivenNames x; clear_value x)
    | with_reducible refine Kept.setFld ?_

theorem Kept.calOutcome {s0 s : State} {kind u : Nat} {failing : List Nat} (h_s : Kept s0 s) :
    Kept s0 (State.calOutcome s kind u failing) := by
  unfold Sys2Proof.Machine.State.calOutcome
  repeat' first
    | with_reducible assumption
    | with_reducible exact id
    | (extract_lets +onlyGivenNames x; have : ∀ a, x a = x a := fun _ => rfl; clear this; (try dsimp only [x]); clear x)
    | with_reducible refine Kept.failDdr ?_
    | with_reducible refine Kept.failHbm ?_
    | with_reducible refine Kept.satFld ?_
    | with_reducible refine Kept.ite ?_ ?_
    | with_reducible refine Kept.foldl ?_ (fun _ _ _ => ?_) _
    | (rewrite [State.mk_lit]; with_reducible refine Kept.lit ?_ ?_)

theorem Kept.runCal {s0 s : State} {kind u : Nat} (h_s : Kept s0 s) : Kept s0 (State.runCal s kind u) := by
  unfold Sys2Proof.Machine.State.runCal
  repeat' first
    | with_reducible assumption
    | with_reducible exact id
    | (extract_lets +onlyGivenNames x; refine (fun (hx : Kept s0 x) => ?_) ?_; clear_value x; rotate_left; dsimp only [x]; clear x)
    | with_reducible refine Kept.calOutcome ?_
    | with_reducible refine Kept.ite ?_ ?_
    | (rewrite [State.mk_lit]; with_reducible refine Kept.lit ?_ ?_)
    | split

theorem Kept.calEntry {s0 s : State} {h : Nat} (h_s : Kept s0 s) : Kept s0 (State.calEntry s h) := by
  unfold Sys2Proof.Machine.State.calEntry
  repeat' first
    | with_reducible assumption
    | (extract_lets +onlyGivenNames x; clear_value x)
    | with_reducible refine Kept.runCal ?_
    | with_reducible refine Kept.ite ?_ ?_
    | with_reducible refine Kept.foldl ?_ (fun _ _ _ => ?_) _

theorem Kept.calPort {s0 s : State} {p : Nat} (h_s : Kept s0 s) : Kept s0 (State.calPort s p) := by
  unfold Sys2Proof.Machine.State.calPort
  repeat' first
    | with_reducible assumption
    | (extract_lets +onlyGivenNames x; clear_value x)
    | with_reducible refine Kept.runCal ?_
    | with_reducible refine Kept.ite ?_ ?_

theorem Kept.execCalibrationDue {s0 : State} {kind u : Nat} {failing : List Nat} {s : State} (h_s : Kept s0 s) :
    NextWith (execCalibrationDue kind u failing s) (Kept s0) := by
  unfold Sys2Proof.Machine.execCalibrationDue
  repeat' first
    | with_reducible assumption
    | with_reducible exact id
    | (extract_lets +onlyGivenNames x; refine (fun (hx : Kept s0 x) => ?_) ?_; clear_value x; rotate_left; dsimp only [x]; clear x)
    | (extract_lets +onlyGivenNames x; clear_value x)
    | with_reducible refine Kept.event ?_
    | with_reducible refine Kept.runCal ?_
    | with_reducible refine Kept.ite ?_ ?_
    | (rewrite [State.mk_lit]; with_reducible refine Kept.lit ?_ ?_)
    | with_reducible refine Kept.next ?_

theorem Kept.returnEnd {s0 s : State} {result : Nat} (h_s : Kept s0 s) : Kept s0 (State.returnEnd s result) := by
  unfold Sys2Proof.Machine.State.returnEnd
  repeat' first
    | with_reducible assumption
    | with_reducible exact id
    | (extract_lets +onlyGivenNames x; refine (fun (hx : Kept s0 x) => ?_) ?_; clear_value x; rotate_left; dsimp only [x]; clear x)
    | (extract_lets +onlyGivenNames x; clear_value x)
    | with_reducible refine Kept.event ?_
    | with_reducible refine Kept.setFld ?_
    | (rewrite [State.mk_lit]; with_reducible refine Kept.lit ?_ ?_)
    | split

theorem Kept.bringBack {s0 s : State} {kind idx : Nat} (h_s : Kept s0 s) : Kept s0 (State.bringBack s kind idx) := by
  unfold Sys2Proof.Machine.State.bringBack
  repeat' first
    | with_reducible assumption
    | with_reducible exact id
    | (extract_lets +onlyGivenNames x; refine (fun (hx : Kept s0 x) => ?_) ?_; clear_value x; rotate_left; dsimp only [x]; clear x)
    | (extract_lets +onlyGivenNames x; clear_value x)
    | with_reducible refine Kept.countBank ?_
    | with_reducible refine Kept.setFld ?_
    | with_reducible refine Kept.showLink ?_
    | (rewrite [State.mk_lit]; with_reducible refine Kept.lit ?_ ?_)
    | split

theorem Kept.joinUnit {s0 s : State} (h_s : Kept s0 s) : Kept s0 (State.joinUnit s) := by
  unfold Sys2Proof.Machine.State.joinUnit
  repeat' first
    | with_reducible assumption
    | with_reducible refine Kept.bringBack ?_
    | with_reducible refine Kept.returnEnd ?_
    | split

theorem Kept.joinAt {s0 s : State} {h : Nat} {mapSet : Bool} (h_s : Kept s0 s) : Kept s0 (State.joinAt s h mapSet) := by
  unfold Sys2Proof.Machine.State.joinAt
  repeat' first
    | with_reducible assumption
    | (extract_lets +onlyGivenNames x; clear_value x)
    | with_reducible refine Kept.joinUnit ?_
    | with_reducible refine Kept.ite ?_ ?_
    | split

theorem Kept.returnFault {s0 s : State} {kind idx : Nat} (h_s : Kept s0 s) : Kept s0 (State.returnFault s kind idx) := by
  unfold Sys2Proof.Machine.State.returnFault
  exact Kept.ite (Kept.returnEnd h_s) h_s

theorem Kept.execReturnToService {s0 : State} {f : Fn} {v : Nat} {s : State} (h_s : Kept s0 s) :
    NextWith (execReturnToService f v s) (Kept s0) := by
  unfold Sys2Proof.Machine.execReturnToService
  repeat' first
    | with_reducible assumption
    | with_reducible exact id
    | (extract_lets +onlyGivenNames x; clear_value x)
    | with_reducible refine Kept.setFld ?_
    | with_reducible refine Kept.writeRow ?_ (by with_reducible assumption)
    | with_reducible refine Kept.ite ?_ ?_
    | (rewrite [State.mk_lit]; with_reducible refine Kept.lit ?_ ?_)
    | with_reducible refine Kept.next ?_
    | split

theorem Kept.execReturnCheckDone {s0 : State} {ok : Bool} {s : State} (h_s : Kept s0 s) :
    NextWith (execReturnCheckDone ok s) (Kept s0) := by
  unfold Sys2Proof.Machine.execReturnCheckDone
  repeat' first
    | with_reducible assumption
    | with_reducible exact id
    | (extract_lets +onlyGivenNames x; clear_value x)
    | with_reducible refine Kept.joinUnit ?_
    | with_reducible refine Kept.returnEnd ?_
    | with_reducible refine Kept.ite ?_ ?_
    | (rewrite [State.mk_lit]; with_reducible refine Kept.lit ?_ ?_)
    | with_reducible refine Kept.next ?_
    | split

theorem Kept.execBankFailure {s0 : State} {b : Nat} {s : State} (h_s : Kept s0 s) :
    NextWith (execBankFailure b s) (Kept s0) := by
  unfold Sys2Proof.Machine.execBankFailure
  repeat' first
    | with_reducible assumption
    | with_reducible exact id
    | (extract_lets +onlyGivenNames x; refine (fun (hx : Kept s0 x) => ?_) ?_; clear_value x; rotate_left; dsimp only [x]; clear x)
    | (extract_lets +onlyGivenNames x; clear_value x)
    | with_reducible refine Kept.countBank ?_
    | with_reducible refine Kept.event ?_
    | with_reducible refine Kept.flagAsr ?_
    | with_reducible refine Kept.reload ?_
    | with_reducible refine Kept.returnEnd ?_
    | with_reducible refine Kept.setFld ?_
    | with_reducible refine Kept.sharedFault ?_
    | with_reducible refine Kept.ite ?_ ?_
    | (rewrite [State.mk_lit]; with_reducible refine Kept.lit ?_ ?_)
    | with_reducible refine Kept.next ?_

theorem Kept.execFrameTransmit {s0 : State} {p : Nat} {s : State} (h_s : Kept s0 s) :
    NextWith (execFrameTransmit p s) (Kept s0) := by
  unfold Sys2Proof.Machine.execFrameTransmit
  exact Kept.next (Kept.ite (Kept.transmit h_s) h_s)

theorem Kept.execPriorityFlowControlFrame {s0 : State} {p enable : Nat} {quanta : List Nat} {s : State}
    (h_s : Kept s0 s) :
    NextWith (execPriorityFlowControlFrame p enable quanta s) (Kept s0) := by
  unfold Sys2Proof.Machine.execPriorityFlowControlFrame
  repeat' first
    | with_reducible assumption
    | (extract_lets +onlyGivenNames x; clear_value x)
    | with_reducible refine Kept.addFld ?_
    | with_reducible refine Kept.updPort ?_
    | with_reducible refine Kept.ite ?_ ?_
    | with_reducible refine Kept.next ?_

theorem Kept.takeSync {s0 s : State} {h : Nat} {origin received : Int} (h_s : Kept s0 s) :
    Kept s0 (State.takeSync s h origin received) := by
  unfold Sys2Proof.Machine.State.takeSync
  repeat' first
    | with_reducible assumption
    | (extract_lets +onlyGivenNames x; refine (fun (hx : Kept s0 x) => ?_) ?_; clear_value x; rotate_left; dsimp only [x]; clear x)
    | (extract_lets +onlyGivenNames x; clear_value x)
    | with_reducible refine Kept.event ?_
    | with_reducible refine Kept.setFld ?_
    | with_reducible refine Kept.updHub ?_
    | with_reducible refine Kept.ite ?_ ?_

theorem Kept.execPtpMessage {s0 : State} {p : Nat} {udp : Bool} {m : PtpMessage} {s : State} (h_s : Kept s0 s) :
    NextWith (execPtpMessage p udp m s) (Kept s0) := by
  unfold Sys2Proof.Machine.execPtpMessage
  repeat' first
    | with_reducible assumption
    | (extract_lets +onlyGivenNames x; refine (fun (hx : Kept s0 x) => ?_) ?_; clear_value x; rotate_left; dsimp only [x]; clear x)
    | (extract_lets +onlyGivenNames x; clear_value x)
    | with_reducible refine Kept.addFld ?_
    | with_reducible refine Kept.takeSync ?_
    | with_reducible refine Kept.updHub ?_
    | with_reducible refine Kept.ite ?_ ?_
    | with_reducible refine Kept.next ?_
    | split

theorem Kept.execSyncLossTimeout {s0 : State} {h : Nat} {s : State} (h_s : Kept s0 s) :
    NextWith (execSyncLossTimeout h s) (Kept s0) := by
  unfold Sys2Proof.Machine.execSyncLossTimeout
  exact Kept.next (Kept.ite (Kept.updHub (Kept.setFld h_s)) h_s)

theorem Kept.execHoldoverExpiry {s0 : State} {h : Nat} {s : State} (h_s : Kept s0 s) :
    NextWith (execHoldoverExpiry h s) (Kept s0) := by
  unfold Sys2Proof.Machine.execHoldoverExpiry
  exact Kept.next (Kept.ite (Kept.event (Kept.setFld h_s)) h_s)

theorem Kept.operate {s0 s : State} {p : Nat} {l : GateList} (h_s : Kept s0 s) : Kept s0 (State.operate s p l) := by
  unfold Sys2Proof.Machine.State.operate
  repeat' first
    | with_reducible assumption
    | (extract_lets +onlyGivenNames x; refine (fun (hx : Kept s0 x) => ?_) ?_; clear_value x; rotate_left; dsimp only [x]; clear x)
    | with_reducible refine Kept.setFld ?_
    | with_reducible refine Kept.setReg ?_
    | with_reducible refine Kept.updPort ?_
    | with_reducible refine Kept.foldl ?_ (fun _ _ _ => ?_) _

theorem Kept.execGclConfigChange {s0 : State} {f : Fn} {p v : Nat} {s : State} (h_s : Kept s0 s) :
    NextWith (execGclConfigChange f p v s) (Kept s0) := by
  unfold Sys2Proof.Machine.execGclConfigChange
  repeat' first
    | with_reducible assumption
    | (extract_lets +onlyGivenNames x; refine (fun (hx : Kept s0 x) => ?_) ?_; clear_value x; rotate_left; dsimp only [x]; clear x)
    | (extract_lets +onlyGivenNames x; clear_value x)
    | with_reducible refine Kept.afterWrite ?_ ?_
    | with_reducible refine Kept.setFld ?_
    | with_reducible refine Kept.updPort ?_
    | with_reducible refine Kept.writeRow ?_ (by with_reducible assumption)
    | with_reducible refine Kept.ite ?_ ?_
    | with_reducible refine Kept.next ?_
    | split

theorem Kept.execGateCycleStart {s0 : State} {p : Nat} {s : State} (h_s : Kept s0 s) :
    NextWith (execGateCycleStart p s) (Kept s0) := by
  unfold Sys2Proof.Machine.execGateCycleStart
  repeat' first
    | with_reducible assumption
    | (extract_lets +onlyGivenNames x; refine (fun (hx : Kept s0 x) => ?_) ?_; clear_value x; rotate_left; dsimp only [x]; clear x)
    | with_reducible refine Kept.calPort ?_
    | with_reducible refine Kept.operate ?_
    | with_reducible refine Kept.portTick ?_
    | with_reducible refine Kept.updPort ?_
    | with_reducible refine Kept.ite ?_ ?_
    | with_reducible refine Kept.next ?_
    | split

theorem Kept.execGateEntryExpiry {s0 : State} {p : Nat} {s : State} (h_s : Kept s0 s) :
    NextWith (execGateEntryExpiry p s) (Kept s0) := by
  unfold Sys2Proof.Machine.execGateEntryExpiry
  exact Kept.next (Kept.ite (Kept.calPort (Kept.updPort (Kept.portTick h_s))) h_s)

theorem Kept.installHubList {s0 s : State} {h : Nat} {l : List Nat} (h_s : Kept s0 s) :
    Kept s0 (State.installHubList s h l) := by
  unfold Sys2Proof.Machine.State.installHubList
  repeat' first
    | with_reducible assumption
    | (extract_lets +onlyGivenNames x; refine (fun (hx : Kept s0 x) => ?_) ?_; clear_value x; rotate_left; dsimp only [x]; clear x)
    | with_reducible refine Kept.setReg ?_
    | with_reducible refine Kept.updHub ?_
    | with_reducible refine Kept.foldl ?_ (fun _ _ _ => ?_) _

theorem Kept.takeOwners {s0 s : State} {h : Nat} (h_s : Kept s0 s) : Kept s0 (State.takeOwners s h) := by
  unfold Sys2Proof.Machine.State.takeOwners
  repeat' first
    | with_reducible assumption
    | with_reducible refine Kept.setReg ?_
    | with_reducible refine Kept.updHub ?_
    | with_reducible refine Kept.foldl ?_ (fun _ _ _ => ?_) _
    | split

theorem Kept.execHubEntryExpiry {s0 : State} {h : Nat} {s : State} (h_s : Kept s0 s) :
    NextWith (execHubEntryExpiry h s) (Kept s0) := by
  unfold Sys2Proof.Machine.execHubEntryExpiry
  repeat' first
    | with_reducible assumption
    | with_reducible exact id
    | (extract_lets +onlyGivenNames x; refine (fun (hx : Kept s0 x) => ?_) ?_; clear_value x; rotate_left; dsimp only [x]; clear x)
    | (extract_lets +onlyGivenNames x; clear_value x)
    | with_reducible refine Kept.calEntry ?_
    | with_reducible refine Kept.installHubList ?_
    | with_reducible refine Kept.joinAt ?_
    | with_reducible refine Kept.setFld ?_
    | with_reducible refine Kept.takeOwners ?_
    | with_reducible refine Kept.updHub ?_
    | with_reducible refine Kept.ite ?_ ?_
    | (rewrite [State.mk_lit]; with_reducible refine Kept.lit ?_ ?_)
    | with_reducible refine Kept.next ?_
    | split

theorem Kept.updArb {s0 s : State} {n : Nat} {f : Arb → Arb} (h_s : Kept s0 s) : Kept s0 (State.updArb s n f) := by
  unfold Sys2Proof.Machine.State.updArb
  exact Kept.lit h_s id

theorem Kept.endGrant {s0 s : State} {n : Nat} (h_s : Kept s0 s) : Kept s0 (State.endGrant s n) := by
  unfold Sys2Proof.Machine.State.endGrant
  repeat' first
    | with_reducible assumption
    | (extract_lets +onlyGivenNames x; refine (fun (hx : Kept s0 x) => ?_) ?_; clear_value x; rotate_left; dsimp only [x]; clear x)
    | with_reducible refine Kept.setFld ?_
    | with_reducible refine Kept.updArb ?_
    | with_reducible refine Kept.ite ?_ ?_

theorem Kept.execArbiterGrant {s0 : State} {n raised : Nat} {s : State} (h_s : Kept s0 s) :
    NextWith (execArbiterGrant n raised s) (Kept s0) := by
  unfold Sys2Proof.Machine.execArbiterGrant
  repeat' first
    | with_reducible assumption
    | (extract_lets +onlyGivenNames x; refine (fun (hx : Kept s0 x) => ?_) ?_; clear_value x; rotate_left; dsimp only [x]; clear x)
    | (extract_lets +onlyGivenNames x; clear_value x)
    | with_reducible refine Kept.endGrant ?_
    | with_reducible refine Kept.setFld ?_
    | with_reducible refine Kept.ite ?_ ?_
    | with_reducible refine Kept.next ?_
    | split

theorem Kept.execBurstLimitExpiry {s0 : State} {n : Nat} {s : State} (h_s : Kept s0 s) :
    NextWith (execBurstLimitExpiry n s) (Kept s0) := by
  unfold Sys2Proof.Machine.execBurstLimitExpiry
  exact Kept.next (Kept.ite (Kept.endGrant h_s) h_s)

theorem Kept.execRequesterMaskRise {s0 : State} {n r : Nat} {s : State} (h_s : Kept s0 s) :
    NextWith (execRequesterMaskRise n r s) (Kept s0) := by
  unfold Sys2Proof.Machine.execRequesterMaskRise
  repeat' first
    | with_reducible assumption
    | (extract_lets +onlyGivenNames x; refine (fun (hx : Kept s0 x) => ?_) ?_; clear_value x; rotate_left; dsimp only [x]; clear x)
    | with_reducible refine Kept.endGrant ?_
    | with_reducible refine Kept.updArb ?_
    | with_reducible refine Kept.ite ?_ ?_
    | with_reducible refine Kept.next ?_

theorem Kept.unmask {s0 s : State} {n r : Nat} (h_s : Kept s0 s) : Kept s0 (State.unmask s n r) := by
  unfold Sys2Proof.Machine.State.unmask
  exact Kept.updArb h_s

theorem Kept.execFreeze {s0 : State} {f : Fn} {n v : Nat} {s : State} (h_s : Kept s0 s) :
    NextWith (execFreeze f n v s) (Kept s0) := by
  unfold Sys2Proof.Machine.execFreeze
  repeat' first
    | with_reducible assumption
    | (extract_lets +onlyGivenNames x; refine (fun (hx : Kept s0 x) => ?_) ?_; clear_value x; rotate_left; dsimp only [x]; clear x)
    | with_reducible refine Kept.setFld ?_
    | with_reducible refine Kept.writeRow ?_ (by with_reducible assumption)
    | with_reducible refine Kept.ite ?_ ?_
    | with_reducible refine Kept.next ?_
    | split

theorem Kept.execFreezeClear {s0 : State} {f : Fn} {n v : Nat} {s : State} (h_s : Kept s0 s) :
    NextWith (execFreezeClear f n v s) (Kept s0) := by
  unfold Sys2Proof.Machine.execFreezeClear
  repeat' first
    | with_reducible assumption
    | with_reducible refine Kept.setFld ?_
    | with_reducible refine Kept.writeRow ?_ (by with_reducible assumption)
    | with_reducible refine Kept.ite ?_ ?_
    | with_reducible refine Kept.next ?_
    | split

theorem Kept.execDrainTimeout {s0 : State} {n incomplete : Nat} {s : State} (h_s : Kept s0 s) :
    NextWith (execDrainTimeout n incomplete s) (Kept s0) := by
  unfold Sys2Proof.Machine.execDrainTimeout
  exact Kept.next (Kept.ite (Kept.addFld (Kept.setFld (Kept.endGrant h_s))) h_s)

theorem Kept.putSample {s0 s : State} {h i c : Nat} (h_s : Kept s0 s) : Kept s0 (State.putSample s h i c) := by
  unfold Sys2Proof.Machine.State.putSample
  repeat' first
    | with_reducible assumption
    | (extract_lets +onlyGivenNames x; refine (fun (hx : Kept s0 x) => ?_) ?_; clear_value x; rotate_left; dsimp only [x]; clear x)
    | (extract_lets +onlyGivenNames x; clear_value x)
    | with_reducible refine Kept.hostWrite ?_
    | with_reducible refine Kept.satFld ?_
    | with_reducible refine Kept.setFld ?_
    | with_reducible refine Kept.wrapRing ?_
    | with_reducible refine Kept.ite ?_ ?_

theorem Kept.execQueueSample {s0 : State} {h : Nat} {s : State} (h_s : Kept s0 s) :
    NextWith (execQueueSample h s) (Kept s0) := by
  unfold Sys2Proof.Machine.execQueueSample
  repeat' first
    | with_reducible assumption
    | (extract_lets +onlyGivenNames x; refine (fun (hx : Kept s0 x) => ?_) ?_; clear_value x; rotate_left; dsimp only [x]; clear x)
    | (extract_lets +onlyGivenNames x; clear_value x)
    | with_reducible refine Kept.portTick ?_
    | with_reducible refine Kept.putSample ?_
    | with_reducible refine Kept.updPort ?_
    | with_reducible refine Kept.ite ?_ ?_
    | with_reducible refine Kept.foldl ?_ (fun _ _ _ => ?_) _
    | with_reducible refine Kept.next ?_

end Sys2Proof.Machine
end

