-- ==== Sys2Proof/Laws/KeptTasks.lean ====
section
/-! SUPPORT. Every operation of the transport, power and tasks keeps the queue, the canonical form of memory and burnt fuses
(`Kept`): one lemma for each. -/

namespace Sys2Proof.Machine

open Sys2Proof

set_option linter.unusedVariables false
set_option linter.tactic.unusedName false

theorem Kept.draw {s0 s : State} (h_s : Kept s0 s) : Kept s0 (State.draw s).2 := by
  unfold Sys2Proof.Machine.State.draw
  exact Kept.lit h_s id

theorem Kept.updConn {s0 s : State} {k : Nat} {f : Conn → Conn} (h_s : Kept s0 s) : Kept s0 (State.updConn s k f) := by
  unfold Sys2Proof.Machine.State.updConn
  repeat' first
    | with_reducible assumption
    | with_reducible exact id
    | (rewrite [State.mk_lit]; with_reducible refine Kept.lit ?_ ?_)
    | split

theorem Kept.flagFab {s0 s : State} {f : Field} {n k op psn : Nat} (h_s : Kept s0 s) :
    Kept s0 (State.flagFab s f n k op psn) := by
  unfold Sys2Proof.Machine.State.flagFab
  exact Kept.flagError h_s fun x0 a => Kept.setReg a

theorem Kept.sendPacket {s0 s : State} {k : Nat} {c : Conn} {h : Header} {seq : Nat} {text : List Byte}
    (h_s : Kept s0 s) :
    Kept s0 (State.sendPacket s k c h seq text).1 := by
  unfold Sys2Proof.Machine.State.sendPacket
  repeat' first
    | with_reducible assumption
    | (extract_lets +onlyGivenNames x; clear_value x)
    | with_reducible refine Kept.addFld ?_
    | with_reducible refine Kept.enqueue ?_
    | with_reducible refine Kept.updConn ?_
    | split

theorem Kept.transmitOut {s0 s : State} {k : Nat} {o : OutPacket} (h_s : Kept s0 s) :
    Kept s0 (State.transmitOut s k o) := by
  unfold Sys2Proof.Machine.State.transmitOut
  repeat' first
    | with_reducible assumption
    | with_reducible refine Kept.sendPacket ?_
    | with_reducible refine Kept.updConn ?_
    | split

theorem Kept.outcomes {s0 s : State} {l : List FabDone} (h_s : Kept s0 s) : Kept s0 (State.outcomes s l) := by
  unfold Sys2Proof.Machine.State.outcomes
  exact Kept.lit h_s id

theorem Kept.fabIssue {s0 s : State} {k : Nat} {op : FabOp} (h_s : Kept s0 s) : Kept s0 (State.fabIssue s k op) := by
  unfold Sys2Proof.Machine.State.fabIssue
  repeat' first
    | with_reducible assumption
    | with_reducible refine Kept.outcomes ?_
    | with_reducible refine Kept.updConn ?_
    | split

theorem Kept.sendNext {s0 s : State} {k : Nat} (h_s : Kept s0 s) : Kept s0 (State.sendNext s k) := by
  unfold Sys2Proof.Machine.State.sendNext
  repeat' first
    | with_reducible assumption
    | (extract_lets +onlyGivenNames x; refine (fun (hx : Kept s0 x) => ?_) ?_; clear_value x; rotate_left; dsimp only [x]; clear x)
    | (extract_lets +onlyGivenNames x; clear_value x)
    | with_reducible refine Kept.addFld ?_
    | with_reducible refine Kept.flagFab ?_
    | with_reducible refine Kept.outcomes ?_
    | with_reducible refine Kept.transmitOut ?_
    | with_reducible refine Kept.updConn ?_
    | with_reducible refine Kept.ite ?_ ?_
    | split

theorem Kept.freeConn {s0 s : State} {k : Nat} (h_s : Kept s0 s) : Kept s0 (State.freeConn s k) := by
  unfold Sys2Proof.Machine.State.freeConn
  repeat' first
    | with_reducible assumption
    | with_reducible exact id
    | (extract_lets +onlyGivenNames x; refine (fun (hx : Kept s0 x) => ?_) ?_; clear_value x; rotate_left; dsimp only [x]; clear x)
    | with_reducible refine Kept.dropQueued ?_
    | with_reducible refine Kept.outcomes ?_
    | with_reducible refine Kept.runDone ?_
    | (rewrite [State.mk_lit]; with_reducible refine Kept.lit ?_ ?_)
    | split

theorem Kept.failConn {s0 s : State} {k psn : Nat} (h_s : Kept s0 s) : Kept s0 (State.failConn s k psn) := by
  unfold Sys2Proof.Machine.State.failConn
  repeat' first
    | with_reducible assumption
    | (extract_lets +onlyGivenNames x; refine (fun (hx : Kept s0 x) => ?_) ?_; clear_value x; rotate_left; dsimp only [x]; clear x)
    | (extract_lets +onlyGivenNames x; clear_value x)
    | with_reducible refine Kept.addFld ?_
    | with_reducible refine Kept.dropQueued ?_
    | with_reducible refine Kept.event ?_
    | with_reducible refine Kept.flagFab ?_
    | with_reducible refine Kept.outcomes ?_
    | with_reducible refine Kept.updConn ?_
    | split

theorem Kept.retransmit {s0 s : State} {k : Nat} {a0 : List Nat} (h_s : Kept s0 s) : Kept s0 (State.retransmit s k a0) := by
  induction a0 generalizing s k with
  | nil =>
    unfold Sys2Proof.Machine.State.retransmit
    repeat' first
      | with_reducible assumption
      | with_reducible refine Kept.addFld ?_
      | with_reducible refine Kept.failConn ?_
      | with_reducible refine Kept.transmitOut ?_
      | with_reducible refine Kept.ite ?_ ?_
      | split
  | cons b l ih =>
    unfold Sys2Proof.Machine.State.retransmit
    repeat' first
      | with_reducible assumption
      | with_reducible refine ih ?_
      | with_reducible refine Kept.addFld ?_
      | with_reducible refine Kept.failConn ?_
      | with_reducible refine Kept.transmitOut ?_
      | with_reducible refine Kept.ite ?_ ?_
      | split

theorem Kept.sendOneAck {s0 s : State} {k : Nat} {l : List (Nat × Nat × Nat)} (h_s : Kept s0 s) :
    Kept s0 (State.sendOneAck s k l) := by
  unfold Sys2Proof.Machine.State.sendOneAck
  repeat' first
    | with_reducible assumption
    | (extract_lets +onlyGivenNames x; clear_value x)
    | with_reducible refine Kept.sendPacket ?_
    | with_reducible refine Kept.updConn ?_
    | split

theorem Kept.sendAcks {s0 s : State} {k a0 : Nat} {a1 : List (Nat × Nat × Nat)} (h_s : Kept s0 s) :
    Kept s0 (State.sendAcks s k a0 a1) := by
  induction a0 generalizing s k a1 with
  | zero =>
    unfold Sys2Proof.Machine.State.sendAcks
    repeat' first
      | with_reducible assumption
      | with_reducible refine Kept.sendOneAck ?_
      | with_reducible refine Kept.ite ?_ ?_
  | succ k ih =>
    unfold Sys2Proof.Machine.State.sendAcks
    repeat' first
      | with_reducible assumption
      | with_reducible refine ih ?_
      | with_reducible refine Kept.sendOneAck ?_
      | with_reducible refine Kept.ite ?_ ?_

theorem Kept.ackNow {s0 s : State} {k : Nat} {more : List (Nat × Nat)} (h_s : Kept s0 s) :
    Kept s0 (State.ackNow s k more) := by
  unfold Sys2Proof.Machine.State.ackNow
  repeat' first
    | with_reducible assumption
    | (extract_lets +onlyGivenNames x; clear_value x)
    | with_reducible refine Kept.sendAcks ?_
    | with_reducible refine Kept.updConn ?_
    | split

theorem Kept.acceptPsn {s0 s : State} {k psn status : Nat} (h_s : Kept s0 s) :
    Kept s0 (State.acceptPsn s k psn status) := by
  unfold Sys2Proof.Machine.State.acceptPsn
  repeat' first
    | with_reducible assumption
    | (extract_lets +onlyGivenNames x; refine (fun (hx : Kept s0 x) => ?_) ?_; clear_value x; rotate_left; dsimp only [x]; clear x)
    | with_reducible refine Kept.ackNow ?_
    | with_reducible refine Kept.addFld ?_
    | with_reducible refine Kept.updConn ?_
    | with_reducible refine Kept.ite ?_ ?_
    | split

theorem Kept.applyAck {s0 s : State} {k first run status : Nat} (h_s : Kept s0 s) :
    Kept s0 (State.applyAck s k first run status) := by
  unfold Sys2Proof.Machine.State.applyAck
  repeat' first
    | with_reducible assumption
    | (extract_lets +onlyGivenNames x; refine (fun (hx : Kept s0 x) => ?_) ?_; clear_value x; rotate_left; dsimp only [x]; clear x)
    | (extract_lets +onlyGivenNames x; clear_value x)
    | with_reducible refine Kept.freeConn ?_
    | with_reducible refine Kept.outcomes ?_
    | with_reducible refine Kept.updConn ?_
    | with_reducible refine Kept.ite ?_ ?_
    | split

theorem Kept.rxDrop {s0 s : State} {p : Nat} (h_s : Kept s0 s) : Kept s0 (State.rxDrop s p) := by
  unfold Sys2Proof.Machine.State.rxDrop
  exact Kept.addFld h_s

theorem Kept.classify {s0 s : State} {p : Nat} {f : FabFrame} (h_s : Kept s0 s) : Kept s0 (State.classify s p f) := by
  unfold Sys2Proof.Machine.State.classify
  repeat' first
    | with_reducible assumption
    | (extract_lets +onlyGivenNames x; clear_value x)
    | with_reducible refine Kept.addFld ?_
    | with_reducible refine Kept.searched ?_
    | with_reducible refine Kept.ite ?_ ?_
    | split

theorem Kept.receive {s0 s : State} {p type : Nat} {f : FabFrame} (h_s : Kept s0 s) :
    Kept s0 (State.receive s p type f).1 := by
  unfold Sys2Proof.Machine.State.receive
  repeat' first
    | with_reducible assumption
    | (extract_lets +onlyGivenNames x; refine (fun (hx : Kept s0 x) => ?_) ?_; clear_value x; rotate_left; dsimp only [x]; clear x)
    | (extract_lets +onlyGivenNames x; clear_value x)
    | with_reducible refine Kept.addFld ?_
    | with_reducible refine Kept.classify ?_
    | with_reducible refine Kept.rxDrop ?_
    | with_reducible refine Kept.ite ?_ ?_
    | with_reducible refine Kept.ite1 ?_ ?_
    | split

theorem Kept.sequenced {s0 s : State} {p type : Nat} {f : FabFrame}
    {run : Nat → Conn → Header → Nat → List Byte → State → State} (h_s : Kept s0 s)
    (h_run : ∀ x0 x1 x2 x3 x4 x5, Kept s0 x5 → Kept s0 (run x0 x1 x2 x3 x4 x5)) :
    Kept s0 (State.sequenced s p type f run) := by
  unfold Sys2Proof.Machine.State.sequenced
  repeat' first
    | with_reducible assumption
    | (extract_lets +onlyGivenNames x; clear_value x)
    | with_reducible refine Kept.ackNow ?_
    | with_reducible refine Kept.addFld ?_
    | with_reducible refine Kept.receive ?_
    | with_reducible refine h_run _ _ _ _ _ _ ?_
    | with_reducible refine Kept.ite ?_ ?_
    | with_reducible refine Kept.fst ?_ (by with_reducible assumption)
    | split

theorem Kept.endDrain {s0 s : State} {idx : Nat} (h_s : Kept s0 s) : Kept s0 (State.endDrain s idx) := by
  unfold Sys2Proof.Machine.State.endDrain
  repeat' first
    | with_reducible assumption
    | with_reducible exact id
    | (extract_lets +onlyGivenNames x; refine (fun (hx : Kept s0 x) => ?_) ?_; clear_value x; rotate_left; dsimp only [x]; clear x)
    | with_reducible refine Kept.runDone ?_
    | with_reducible refine Kept.updStand ?_
    | with_reducible refine Kept.ite ?_ ?_
    | (rewrite [State.mk_lit]; with_reducible refine Kept.lit ?_ ?_)
    | split

theorem Kept.revoke {s0 s : State} {idx : Nat} {by_ : Option Nat} (h_s : Kept s0 s) : Kept s0 (State.revoke s idx by_) := by
  unfold Sys2Proof.Machine.State.revoke
  repeat' first
    | with_reducible assumption
    | with_reducible exact id
    | with_reducible refine Kept.endDrain ?_
    | with_reducible refine Kept.ite ?_ ?_
    | (rewrite [State.mk_lit]; with_reducible refine Kept.lit ?_ ?_)
    | split

theorem Kept.register {s0 s : State} {n h : Nat} {r : Region} (h_s : Kept s0 s) : Kept s0 (State.register s n h r).1 := by
  unfold Sys2Proof.Machine.State.register
  repeat' first
    | with_reducible assumption
    | with_reducible exact id
    | with_reducible refine Kept.draw ?_
    | with_reducible refine Kept.ite1 ?_ ?_
    | with_reducible refine Kept.snd ?_ (by with_reducible assumption)
    | (rewrite [State.mk_lit]; with_reducible refine Kept.lit ?_ ?_)
    | split

theorem Kept.lsPut {s0 s : State} {v a : Nat} {bs : List Byte} (h_s : Kept s0 s) : Kept s0 (State.lsPut s v a bs) := by
  unfold Sys2Proof.Machine.State.lsPut
  exact Kept.lit h_s (Mem.putList_kept id)

theorem Kept.lsForget {s0 s : State} {v lo n : Nat} (h_s : Kept s0 s) : Kept s0 (State.lsForget s v lo n) := by
  unfold Sys2Proof.Machine.State.lsForget
  exact Kept.lit h_s (Mem.forget_kept id)

theorem Kept.updPower {s0 s : State} {f : Power → Power} (h_s : Kept s0 s) : Kept s0 (State.updPower s f) := by
  unfold Sys2Proof.Machine.State.updPower
  exact Kept.lit h_s id

theorem Kept.work {s0 s : State} {u : PowerUnit} (h_s : Kept s0 s) : Kept s0 (State.work s u) := by
  unfold Sys2Proof.Machine.State.work
  exact Kept.updPower h_s

theorem Kept.rest {s0 s : State} {u : PowerUnit} (h_s : Kept s0 s) : Kept s0 (State.rest s u) := by
  unfold Sys2Proof.Machine.State.rest
  exact Kept.ite (Kept.updPower h_s) h_s

theorem Kept.matrixRequests {s0 s : State} {n : Nat} (h_s : Kept s0 s) : Kept s0 (State.matrixRequests s n) := by
  unfold Sys2Proof.Machine.State.matrixRequests
  exact Kept.foldl h_s (fun x x_1 x_2 => Kept.ite x_2 (Kept.updPower x_2)) (s.clusters n)

theorem Kept.matrixRest {s0 s : State} {n : Nat} (h_s : Kept s0 s) : Kept s0 (State.matrixRest s n) := by
  unfold Sys2Proof.Machine.State.matrixRest
  exact Kept.foldl h_s (fun x x_1 x_2 => Kept.rest x_2) (s.clusters n)

theorem Kept.testWipe {s0 s : State} {g : Nat} (h_s : Kept s0 s) : Kept s0 (State.testWipe s g) := by
  unfold Sys2Proof.Machine.State.testWipe
  repeat' first
    | with_reducible assumption
    | with_reducible exact id
    | with_reducible refine Mem.forget_kept ?_
    | (extract_lets +onlyGivenNames x; have : ∀ a, x a = x a := fun _ => rfl; clear this; (try dsimp only [x]); clear x)
    | with_reducible refine Kept.ite ?_ ?_
    | (rewrite [State.mk_lit]; with_reducible refine Kept.lit ?_ ?_)

theorem Kept.testBoundary {s0 s : State} {n : Nat} (h_s : Kept s0 s) : Kept s0 (State.testBoundary s n) := by
  unfold Sys2Proof.Machine.State.testBoundary
  repeat' first
    | with_reducible assumption
    | with_reducible exact id
    | (extract_lets +onlyGivenNames x; refine (fun (hx : Kept s0 x) => ?_) ?_; clear_value x; rotate_left; dsimp only [x]; clear x)
    | (extract_lets +onlyGivenNames x; clear_value x)
    | with_reducible refine Kept.setFld ?_
    | with_reducible refine Kept.testWipe ?_
    | with_reducible refine Kept.ite ?_ ?_
    | with_reducible refine Kept.foldl ?_ (fun _ _ _ => ?_) _
    | (rewrite [State.mk_lit]; with_reducible refine Kept.lit ?_ ?_)

theorem Kept.setTask {s0 s : State} {v : Nat} {t : Option VTask} (h_s : Kept s0 s) : Kept s0 (State.setTask s v t) := by
  unfold Sys2Proof.Machine.State.setTask
  repeat' first
    | with_reducible assumption
    | with_reducible exact id
    | (extract_lets +onlyGivenNames x; clear_value x)
    | (rewrite [State.mk_lit]; with_reducible refine Kept.lit ?_ ?_)

theorem Kept.account {s0 s : State} {n i k : Nat} (h_s : Kept s0 s) : Kept s0 (State.account s n i k) := by
  unfold Sys2Proof.Machine.State.account
  exact Kept.addFld h_s

theorem Kept.flagVec {s0 s : State} {f : Field} {v : Nat} {t : VTask} (h_s : Kept s0 s) :
    Kept s0 (State.flagVec s f v t) := by
  unfold Sys2Proof.Machine.State.flagVec
  exact Kept.flagError h_s fun x0 a => Kept.setReg a

theorem Kept.updStep {s0 s : State} {n : Nat} {f : Step → Step} (h_s : Kept s0 s) : Kept s0 (State.updStep s n f) := by
  unfold Sys2Proof.Machine.State.updStep
  exact Kept.updStand h_s

theorem Kept.updOp {s0 s : State} {n : Nat} {f : VOp → VOp} (h_s : Kept s0 s) : Kept s0 (State.updOp s n f) := by
  unfold Sys2Proof.Machine.State.updOp
  exact Kept.updStep h_s

theorem Kept.pokeOutside {s0 s : State} {n v : Nat} {inStand : Bool} {a : Nat} {bs : List Byte} (h_s : Kept s0 s) :
    Kept s0 (State.pokeOutside s n v inStand a bs) := by
  unfold Sys2Proof.Machine.State.pokeOutside
  exact Kept.ite (Kept.standWrite h_s) (Kept.lit h_s (Mem.putList_kept id))

theorem Kept.readUnit {s0 s : State} {n v : Nat} {t : VTask} {inStand : Bool} {a : Nat} (h_s : Kept s0 s) :
    Kept s0 (State.readUnit s n v t inStand a).2 := by
  unfold Sys2Proof.Machine.State.readUnit
  repeat' first
    | with_reducible assumption
    | with_reducible exact id
    | (extract_lets +onlyGivenNames x; clear_value x)
    | with_reducible refine Kept.touch ?_
    | with_reducible refine Kept.ite ?_ ?_
    | (rewrite [State.mk_lit]; with_reducible refine Kept.lit ?_ ?_)
    | split

theorem Kept.readUnits {s0 s : State} {n v : Nat} {t : VTask} {inStand : Bool} {a0 a1 : Nat} (h_s : Kept s0 s) :
    Kept s0 (State.readUnits s n v t inStand a0 a1).2 := by
  induction a0 generalizing s n v t inStand a1 with
  | zero =>
    unfold Sys2Proof.Machine.State.readUnits
    repeat' first
      | with_reducible assumption
      | with_reducible refine Kept.readUnit ?_
      | with_reducible refine Kept.snd ?_ (by with_reducible assumption)
      | split
  | succ k ih =>
    unfold Sys2Proof.Machine.State.readUnits
    repeat' first
      | with_reducible assumption
      | with_reducible refine ih ?_
      | with_reducible refine Kept.readUnit ?_
      | with_reducible refine Kept.snd ?_ (by with_reducible assumption)
      | split

theorem Kept.writeUnits {s0 s : State} {n v : Nat} {t : VTask} {inStand : Bool} {a : Nat} {bs : List Byte}
    (h_s : Kept s0 s) :
    Kept s0 (State.writeUnits s n v t inStand a bs) := by
  unfold Sys2Proof.Machine.State.writeUnits
  repeat' first
    | with_reducible assumption
    | (extract_lets +onlyGivenNames x; clear_value x)
    | with_reducible refine Kept.pokeOutside ?_
    | with_reducible refine Kept.updOp ?_

theorem Kept.applyAtomic {s0 s : State} {n v : Nat} {x : VAtomic} (h_s : Kept s0 s) :
    Kept s0 (State.applyAtomic s n v x).1 := by
  unfold Sys2Proof.Machine.State.applyAtomic
  repeat' first
    | with_reducible assumption
    | with_reducible refine Kept.pokeOutside ?_
    | split

theorem Kept.leftovers {s0 s : State} {v : Nat} {t : VTask} (h_s : Kept s0 s) : Kept s0 (State.leftovers s v t) := by
  unfold Sys2Proof.Machine.State.leftovers
  repeat' first
    | with_reducible assumption
    | with_reducible exact id
    | (extract_lets +onlyGivenNames x; refine (fun (hx : Kept s0 x) => ?_) ?_; clear_value x; rotate_left; dsimp only [x]; clear x)
    | (extract_lets +onlyGivenNames x; clear_value x)
    | with_reducible refine Kept.applyAtomic ?_
    | with_reducible refine Kept.writeUnits ?_
    | with_reducible refine Kept.ite ?_ ?_
    | with_reducible refine Kept.foldl ?_ (fun _ _ _ => ?_) _
    | (rewrite [State.mk_lit]; with_reducible refine Kept.lit ?_ ?_)

theorem Kept.respond {s0 s : State} {sv : Service} {bs : List Byte} (h_s : Kept s0 s) :
    Kept s0 (State.respond s sv bs) := by
  unfold Sys2Proof.Machine.State.respond
  exact Kept.fabIssue h_s

theorem Kept.takeService {s0 s : State} {n serial : Nat} (h_s : Kept s0 s) : Kept s0 (State.takeService s n serial).1 := by
  unfold Sys2Proof.Machine.State.takeService
  exact Kept.updStand h_s

theorem Kept.writeStatus {s0 s : State} {n : Nat} {op : VOp} {i status : Nat} (h_s : Kept s0 s) :
    Kept s0 (State.writeStatus s n op i status) := by
  unfold Sys2Proof.Machine.State.writeStatus
  exact Kept.ite h_s (Kept.standWrite h_s)

theorem Kept.testIdle {s0 s : State} {n : Nat} (h_s : Kept s0 s) : Kept s0 (State.testIdle s n) := by
  unfold Sys2Proof.Machine.State.testIdle
  exact Kept.ite (Kept.testBoundary h_s) h_s

theorem Kept.endTask {s0 s : State} {v : Nat} {t : VTask} {status : Nat} (h_s : Kept s0 s) :
    Kept s0 (State.endTask s v t status) := by
  unfold Sys2Proof.Machine.State.endTask
  repeat' first
    | with_reducible assumption
    | with_reducible refine Kept.account ?_
    | with_reducible refine Kept.addFld ?_
    | with_reducible refine Kept.draw ?_
    | with_reducible refine Kept.leftovers ?_
    | with_reducible refine Kept.rest ?_
    | with_reducible refine Kept.setTask ?_
    | with_reducible refine Kept.takeService ?_
    | with_reducible refine Kept.testIdle ?_
    | with_reducible refine Kept.updOp ?_
    | with_reducible refine Kept.writeStatus ?_
    | with_reducible refine Kept.ite ?_ ?_
    | split

theorem Kept.stopTasks {s0 s : State} {n : Nat} (h_s : Kept s0 s) : Kept s0 (State.stopTasks s n) := by
  unfold Sys2Proof.Machine.State.stopTasks
  repeat' first
    | with_reducible assumption
    | (extract_lets +onlyGivenNames x; refine (fun (hx : Kept s0 x) => ?_) ?_; clear_value x; rotate_left; dsimp only [x]; clear x)
    | with_reducible refine Kept.endTask ?_
    | with_reducible refine Kept.writeStatus ?_
    | with_reducible refine Kept.foldl ?_ (fun _ _ _ => ?_) _
    | split

theorem Kept.abandon {s0 s : State} {n cause opIndex : Nat} (h_s : Kept s0 s) :
    Kept s0 (State.abandon s n cause opIndex) := by
  unfold Sys2Proof.Machine.State.abandon
  repeat' first
    | with_reducible assumption
    | (extract_lets +onlyGivenNames x; refine (fun (hx : Kept s0 x) => ?_) ?_; clear_value x; rotate_left; dsimp only [x]; clear x)
    | with_reducible refine Kept.eventOf ?_
    | with_reducible refine Kept.matrixRest ?_
    | with_reducible refine Kept.setFld ?_
    | with_reducible refine Kept.stopTasks ?_
    | with_reducible refine Kept.updStep ?_
    | with_reducible refine Kept.ite ?_ ?_
    | split

theorem Kept.taskFault {s0 s : State} {v : Nat} {t : VTask} {f : Field} {status cause : Nat} (h_s : Kept s0 s) :
    Kept s0 (State.taskFault s v t f status cause) := by
  unfold Sys2Proof.Machine.State.taskFault
  repeat' first
    | with_reducible assumption
    | (extract_lets +onlyGivenNames x; refine (fun (hx : Kept s0 x) => ?_) ?_; clear_value x; rotate_left; dsimp only [x]; clear x)
    | (extract_lets +onlyGivenNames x; clear_value x)
    | with_reducible refine Kept.abandon ?_
    | with_reducible refine Kept.endTask ?_
    | with_reducible refine Kept.flagVec ?_
    | with_reducible refine Kept.ite ?_ ?_

theorem Kept.illegal {s0 s : State} {v : Nat} {t : VTask} (h_s : Kept s0 s) : Kept s0 (State.illegal s v t) := by
  unfold Sys2Proof.Machine.State.illegal
  exact Kept.taskFault h_s

theorem Kept.withhold {s0 s : State} {n req : Nat} {c : NoToken} (h_s : Kept s0 s) :
    Kept s0 (State.withhold s n req c) := by
  unfold Sys2Proof.Machine.State.withhold
  exact Kept.updStep h_s

theorem Kept.poisonedTask {s0 s : State} {v : Nat} {t : VTask} (h_s : Kept s0 s) : Kept s0 (State.poisonedTask s v t) := by
  unfold Sys2Proof.Machine.State.poisonedTask
  repeat' first
    | with_reducible assumption
    | (extract_lets +onlyGivenNames x; refine (fun (hx : Kept s0 x) => ?_) ?_; clear_value x; rotate_left; dsimp only [x]; clear x)
    | with_reducible refine Kept.endTask ?_
    | with_reducible refine Kept.flagVec ?_
    | with_reducible refine Kept.respond ?_
    | with_reducible refine Kept.takeService ?_
    | with_reducible refine Kept.taskFault ?_
    | with_reducible refine Kept.withhold ?_
    | with_reducible refine Kept.ite ?_ ?_
    | with_reducible refine Kept.fst ?_ (by with_reducible assumption)
    | split

theorem Kept.startTask {s0 s : State} {n v index : Nat} {d : List Byte} {service : Bool} (h_s : Kept s0 s) :
    Kept s0 (State.startTask s n v index d service) := by
  unfold Sys2Proof.Machine.State.startTask
  repeat' first
    | with_reducible assumption
    | with_reducible exact id
    | with_reducible refine Mem.putList_kept ?_
    | with_reducible refine Mem.zero_kept ?_
    | (extract_lets +onlyGivenNames x; refine (fun (hx : Kept s0 x) => ?_) ?_; clear_value x; rotate_left; dsimp only [x]; clear x)
    | (extract_lets +onlyGivenNames x; clear_value x)
    | with_reducible refine Kept.addFld ?_
    | with_reducible refine Kept.lsForget ?_
    | with_reducible refine Kept.work ?_
    | with_reducible refine Kept.ite ?_ ?_
    | (rewrite [State.mk_lit]; with_reducible refine Kept.lit ?_ ?_)

theorem Kept.vectorRequest {s0 s : State} {v : Nat} (h_s : Kept s0 s) : Kept s0 (State.vectorRequest s v) := by
  unfold Sys2Proof.Machine.State.vectorRequest
  exact Kept.updPower h_s

theorem Kept.placeNext {s0 s : State} {n : Nat} (h_s : Kept s0 s) : Kept s0 (State.placeNext s n).1 := by
  unfold Sys2Proof.Machine.State.placeNext
  repeat' first
    | with_reducible assumption
    | (extract_lets +onlyGivenNames x; clear_value x)
    | with_reducible refine Kept.abandon ?_
    | with_reducible refine Kept.startTask ?_
    | with_reducible refine Kept.updOp ?_
    | with_reducible refine Kept.vectorRequest ?_
    | with_reducible refine Kept.writeStatus ?_
    | with_reducible refine Kept.ite1 ?_ ?_
    | split

theorem Kept.placeAll {s0 : State} {a0 : Nat} {a1 : State} {a2 : Nat} (h_a1 : Kept s0 a1) :
    Kept s0 (State.placeAll a0 a1 a2) := by
  induction a0 generalizing a1 a2 with
  | zero =>
    unfold Sys2Proof.Machine.State.placeAll
    repeat' first
      | with_reducible assumption
      | with_reducible refine Kept.placeNext ?_
      | with_reducible refine Kept.fst ?_ (by with_reducible assumption)
      | split
  | succ k ih =>
    unfold Sys2Proof.Machine.State.placeAll
    repeat' first
      | with_reducible assumption
      | with_reducible refine ih ?_
      | with_reducible refine Kept.placeNext ?_
      | with_reducible refine Kept.fst ?_ (by with_reducible assumption)
      | split

end Sys2Proof.Machine
end

