-- ==== Sys2Proof/Laws/KeptChisyn.lean ====
section
/-! SUPPORT. Every operation of the Chisyn instructions on registers keeps the queue, the canonical form of memory and burnt fuses
(`Kept`): one lemma for each. -/

namespace Sys2Proof.Machine

open Sys2Proof

set_option linter.unusedVariables false
set_option linter.tactic.unusedName false

theorem Kept.vrun {s0 s : State} {v : Nat} {uses : List Nat} {ok : Bool} {f : VTask → State → State}
    (h_s : Kept s0 s) (h_f : ∀ x0 x1, Kept s0 x1 → Kept s0 (f x0 x1)) :
    Kept s0 (State.vrun s v uses ok f) := by
  unfold Sys2Proof.Machine.State.vrun
  repeat' first
    | with_reducible assumption
    | with_reducible refine h_f _ _ ?_
    | with_reducible refine Kept.ite ?_ ?_
    | split

theorem Kept.vpure {s0 s : State} {v : Nat} {uses : List Nat} {ok : Bool} {f : VTask → VTask} (h_s : Kept s0 s) :
    Kept s0 (State.vpure s v uses ok f) := by
  unfold Sys2Proof.Machine.State.vpure
  exact Kept.vrun h_s fun x0 x1 a => Kept.setTask a

theorem Kept.vfree {s0 s : State} {v : Nat} {uses : List Nat} {ok : Bool} {f : Nat → VTask → VTask}
    (h_s : Kept s0 s) :
    Kept s0 (State.vfree s v uses ok f) := by
  unfold Sys2Proof.Machine.State.vfree
  exact Kept.vrun h_s fun x0 x1 a => Kept.setTask (Kept.lit a id)

theorem Kept.vfloat2 {s0 s : State} {v : Nat} {i : VWord} {op : Fmt → Num → Num → Nat × Flags} (h_s : Kept s0 s) :
    Kept s0 (State.vfloat2 s v i op) := by
  unfold Sys2Proof.Machine.State.vfloat2
  exact Kept.vpure h_s

theorem Kept.vfloat1 {s0 s : State} {v : Nat} {i : VWord} {op : Fmt → Nat → Nat × Flags} (h_s : Kept s0 s) :
    Kept s0 (State.vfloat1 s v i op) := by
  unfold Sys2Proof.Machine.State.vfloat1
  exact Kept.vpure h_s

theorem Kept.execFma {s0 : State} {v : Nat} {i : VWord} {s : State} (h_s : Kept s0 s) :
    NextWith (execFma v i s) (Kept s0) := by
  unfold Sys2Proof.Machine.execFma
  exact Kept.next (Kept.vpure h_s)

theorem Kept.execAdd {s0 : State} {v : Nat} {i : VWord} {s : State} (h_s : Kept s0 s) :
    NextWith (execAdd v i s) (Kept s0) := by
  unfold Sys2Proof.Machine.execAdd
  exact Kept.next (Kept.vfloat2 h_s)

theorem Kept.execSub {s0 : State} {v : Nat} {i : VWord} {s : State} (h_s : Kept s0 s) :
    NextWith (execSub v i s) (Kept s0) := by
  unfold Sys2Proof.Machine.execSub
  exact Kept.next (Kept.vfloat2 h_s)

theorem Kept.execMul {s0 : State} {v : Nat} {i : VWord} {s : State} (h_s : Kept s0 s) :
    NextWith (execMul v i s) (Kept s0) := by
  unfold Sys2Proof.Machine.execMul
  exact Kept.next (Kept.vfloat2 h_s)

theorem Kept.execMin {s0 : State} {v : Nat} {i : VWord} {s : State} (h_s : Kept s0 s) :
    NextWith (execMin v i s) (Kept s0) := by
  unfold Sys2Proof.Machine.execMin
  exact Kept.next (Kept.vfloat2 h_s)

theorem Kept.execMax {s0 : State} {v : Nat} {i : VWord} {s : State} (h_s : Kept s0 s) :
    NextWith (execMax v i s) (Kept s0) := by
  unfold Sys2Proof.Machine.execMax
  exact Kept.next (Kept.vfloat2 h_s)

theorem Kept.execAbs {s0 : State} {v : Nat} {i : VWord} {s : State} (h_s : Kept s0 s) :
    NextWith (execAbs v i s) (Kept s0) := by
  unfold Sys2Proof.Machine.execAbs
  exact Kept.next (Kept.vfloat1 h_s)

theorem Kept.execNeg {s0 : State} {v : Nat} {i : VWord} {s : State} (h_s : Kept s0 s) :
    NextWith (execNeg v i s) (Kept s0) := by
  unfold Sys2Proof.Machine.execNeg
  exact Kept.next (Kept.vfloat1 h_s)

theorem Kept.execCpysgn {s0 : State} {v : Nat} {i : VWord} {s : State} (h_s : Kept s0 s) :
    NextWith (execCpysgn v i s) (Kept s0) := by
  unfold Sys2Proof.Machine.execCpysgn
  exact Kept.next (Kept.vpure h_s)

theorem Kept.vint2 {s0 s : State} {v : Nat} {i : VWord} {op : BitVec 32 → BitVec 32 → BitVec 32} (h_s : Kept s0 s) :
    Kept s0 (State.vint2 s v i op) := by
  unfold Sys2Proof.Machine.State.vint2
  exact Kept.vpure h_s

theorem Kept.vshift {s0 s : State} {v : Nat} {i : VWord} {op : BitVec 32 → Nat → BitVec 32} (h_s : Kept s0 s) :
    Kept s0 (State.vshift s v i op) := by
  unfold Sys2Proof.Machine.State.vshift
  exact Kept.vfree h_s

theorem Kept.execIadd {s0 : State} {v : Nat} {i : VWord} {s : State} (h_s : Kept s0 s) :
    NextWith (execIadd v i s) (Kept s0) := by
  unfold Sys2Proof.Machine.execIadd
  exact Kept.next (Kept.vint2 h_s)

theorem Kept.execIsub {s0 : State} {v : Nat} {i : VWord} {s : State} (h_s : Kept s0 s) :
    NextWith (execIsub v i s) (Kept s0) := by
  unfold Sys2Proof.Machine.execIsub
  exact Kept.next (Kept.vint2 h_s)

theorem Kept.execImul {s0 : State} {v : Nat} {i : VWord} {s : State} (h_s : Kept s0 s) :
    NextWith (execImul v i s) (Kept s0) := by
  unfold Sys2Proof.Machine.execImul
  exact Kept.next (Kept.vint2 h_s)

theorem Kept.execAnd {s0 : State} {v : Nat} {i : VWord} {s : State} (h_s : Kept s0 s) :
    NextWith (execAnd v i s) (Kept s0) := by
  unfold Sys2Proof.Machine.execAnd
  exact Kept.next (Kept.vint2 h_s)

theorem Kept.execOr {s0 : State} {v : Nat} {i : VWord} {s : State} (h_s : Kept s0 s) :
    NextWith (execOr v i s) (Kept s0) := by
  unfold Sys2Proof.Machine.execOr
  exact Kept.next (Kept.vint2 h_s)

theorem Kept.execXor {s0 : State} {v : Nat} {i : VWord} {s : State} (h_s : Kept s0 s) :
    NextWith (execXor v i s) (Kept s0) := by
  unfold Sys2Proof.Machine.execXor
  exact Kept.next (Kept.vint2 h_s)

theorem Kept.execShl {s0 : State} {v : Nat} {i : VWord} {s : State} (h_s : Kept s0 s) :
    NextWith (execShl v i s) (Kept s0) := by
  unfold Sys2Proof.Machine.execShl
  exact Kept.next (Kept.vshift h_s)

theorem Kept.execShr {s0 : State} {v : Nat} {i : VWord} {s : State} (h_s : Kept s0 s) :
    NextWith (execShr v i s) (Kept s0) := by
  unfold Sys2Proof.Machine.execShr
  exact Kept.next (Kept.vshift h_s)

theorem Kept.execSar {s0 : State} {v : Nat} {i : VWord} {s : State} (h_s : Kept s0 s) :
    NextWith (execSar v i s) (Kept s0) := by
  unfold Sys2Proof.Machine.execSar
  exact Kept.next (Kept.vshift h_s)

theorem Kept.execPopc {s0 : State} {v : Nat} {i : VWord} {s : State} (h_s : Kept s0 s) :
    NextWith (execPopc v i s) (Kept s0) := by
  unfold Sys2Proof.Machine.execPopc
  exact Kept.next (Kept.vpure h_s)

theorem Kept.execFcmp {s0 : State} {v : Nat} {i : VWord} {s : State} (h_s : Kept s0 s) :
    NextWith (execFcmp v i s) (Kept s0) := by
  unfold Sys2Proof.Machine.execFcmp
  exact Kept.next (Kept.vfree h_s)

theorem Kept.execIcmp {s0 : State} {v : Nat} {i : VWord} {s : State} (h_s : Kept s0 s) :
    NextWith (execIcmp v i s) (Kept s0) := by
  unfold Sys2Proof.Machine.execIcmp
  exact Kept.next (Kept.vpure h_s)

theorem Kept.execSel {s0 : State} {v : Nat} {i : VWord} {s : State} (h_s : Kept s0 s) :
    NextWith (execSel v i s) (Kept s0) := by
  unfold Sys2Proof.Machine.execSel
  exact Kept.next (Kept.vpure h_s)

theorem Kept.vmask2 {s0 s : State} {v : Nat} {i : VWord} {op : Bool → Bool → Bool} (h_s : Kept s0 s) :
    Kept s0 (State.vmask2 s v i op) := by
  unfold Sys2Proof.Machine.State.vmask2
  exact Kept.vpure h_s

theorem Kept.execMand {s0 : State} {v : Nat} {i : VWord} {s : State} (h_s : Kept s0 s) :
    NextWith (execMand v i s) (Kept s0) := by
  unfold Sys2Proof.Machine.execMand
  exact Kept.next (Kept.vmask2 h_s)

theorem Kept.execMor {s0 : State} {v : Nat} {i : VWord} {s : State} (h_s : Kept s0 s) :
    NextWith (execMor v i s) (Kept s0) := by
  unfold Sys2Proof.Machine.execMor
  exact Kept.next (Kept.vmask2 h_s)

theorem Kept.execMnot {s0 : State} {v : Nat} {i : VWord} {s : State} (h_s : Kept s0 s) :
    NextWith (execMnot v i s) (Kept s0) := by
  unfold Sys2Proof.Machine.execMnot
  exact Kept.next (Kept.vmask2 h_s)

theorem Kept.execExp {s0 : State} {v : Nat} {i : VWord} {s : State} (h_s : Kept s0 s) :
    NextWith (execExp v i s) (Kept s0) := by
  unfold Sys2Proof.Machine.execExp
  exact Kept.next (Kept.vfloat1 h_s)

theorem Kept.execLog {s0 : State} {v : Nat} {i : VWord} {s : State} (h_s : Kept s0 s) :
    NextWith (execLog v i s) (Kept s0) := by
  unfold Sys2Proof.Machine.execLog
  exact Kept.next (Kept.vfloat1 h_s)

theorem Kept.execRcp {s0 : State} {v : Nat} {i : VWord} {s : State} (h_s : Kept s0 s) :
    NextWith (execRcp v i s) (Kept s0) := by
  unfold Sys2Proof.Machine.execRcp
  exact Kept.next (Kept.vfloat1 h_s)

theorem Kept.execRsqrt {s0 : State} {v : Nat} {i : VWord} {s : State} (h_s : Kept s0 s) :
    NextWith (execRsqrt v i s) (Kept s0) := by
  unfold Sys2Proof.Machine.execRsqrt
  exact Kept.next (Kept.vfloat1 h_s)

theorem Kept.execTanh {s0 : State} {v : Nat} {i : VWord} {s : State} (h_s : Kept s0 s) :
    NextWith (execTanh v i s) (Kept s0) := by
  unfold Sys2Proof.Machine.execTanh
  exact Kept.next (Kept.vfloat1 h_s)

theorem Kept.execCvt {s0 : State} {v : Nat} {i : VWord} {s : State} (h_s : Kept s0 s) :
    NextWith (execCvt v i s) (Kept s0) := by
  unfold Sys2Proof.Machine.execCvt
  repeat' first
    | with_reducible assumption
    | (extract_lets +onlyGivenNames x; clear_value x)
    | with_reducible refine Kept.vpure ?_
    | with_reducible refine Kept.next ?_
    | split

theorem Kept.execQmx {s0 : State} {v : Nat} {i : VWord} {s : State} (h_s : Kept s0 s) :
    NextWith (execQmx v i s) (Kept s0) := by
  unfold Sys2Proof.Machine.execQmx
  repeat' first
    | with_reducible assumption
    | with_reducible refine Kept.vpure ?_
    | with_reducible refine Kept.next ?_
    | split

theorem Kept.execQf16s {s0 : State} {v : Nat} {i : VWord} {s : State} (h_s : Kept s0 s) :
    NextWith (execQf16s v i s) (Kept s0) := by
  unfold Sys2Proof.Machine.execQf16s
  repeat' first
    | with_reducible assumption
    | (extract_lets +onlyGivenNames x; have : ∀ a, x a = x a := fun _ => rfl; clear this; (try dsimp only [x]); clear x)
    | (extract_lets +onlyGivenNames x; clear_value x)
    | with_reducible refine Kept.vfree ?_
    | with_reducible refine Kept.next ?_
    | split

theorem Kept.execDq {s0 : State} {v : Nat} {i : VWord} {s : State} (h_s : Kept s0 s) :
    NextWith (execDq v i s) (Kept s0) := by
  unfold Sys2Proof.Machine.execDq
  repeat' first
    | with_reducible assumption
    | (extract_lets +onlyGivenNames x; clear_value x)
    | with_reducible refine Kept.vpure ?_
    | with_reducible refine Kept.next ?_
    | split

theorem Kept.execShuf {s0 : State} {v : Nat} {i : VWord} {s : State} (h_s : Kept s0 s) :
    NextWith (execShuf v i s) (Kept s0) := by
  unfold Sys2Proof.Machine.execShuf
  exact Kept.next (Kept.vfree h_s)

theorem Kept.execBcast {s0 : State} {v : Nat} {i : VWord} {s : State} (h_s : Kept s0 s) :
    NextWith (execBcast v i s) (Kept s0) := by
  unfold Sys2Proof.Machine.execBcast
  exact Kept.next (Kept.vpure h_s)

theorem Kept.vreduce {s0 s : State} {v : Nat} {i : VWord} {flt : Fmt → List Nat → Nat × Flags}
    {int : List Nat → Nat} (h_s : Kept s0 s) :
    Kept s0 (State.vreduce s v i flt int) := by
  unfold Sys2Proof.Machine.State.vreduce
  exact Kept.vpure h_s

theorem Kept.execRsum {s0 : State} {v : Nat} {i : VWord} {s : State} (h_s : Kept s0 s) :
    NextWith (execRsum v i s) (Kept s0) := by
  unfold Sys2Proof.Machine.execRsum
  exact Kept.next (Kept.vreduce h_s)

theorem Kept.execRmax {s0 : State} {v : Nat} {i : VWord} {s : State} (h_s : Kept s0 s) :
    NextWith (execRmax v i s) (Kept s0) := by
  unfold Sys2Proof.Machine.execRmax
  exact Kept.next (Kept.vreduce h_s)

theorem Kept.execRmin {s0 : State} {v : Nat} {i : VWord} {s : State} (h_s : Kept s0 s) :
    NextWith (execRmin v i s) (Kept s0) := by
  unfold Sys2Proof.Machine.execRmin
  exact Kept.next (Kept.vreduce h_s)

theorem Kept.execPscan {s0 : State} {v : Nat} {i : VWord} {s : State} (h_s : Kept s0 s) :
    NextWith (execPscan v i s) (Kept s0) := by
  unfold Sys2Proof.Machine.execPscan
  exact Kept.next (Kept.vpure h_s)

theorem Kept.execRng {s0 : State} {v : Nat} {i : VWord} {s : State} (h_s : Kept s0 s) :
    NextWith (execRng v i s) (Kept s0) := by
  unfold Sys2Proof.Machine.execRng
  exact Kept.next (Kept.vfree h_s)

theorem Kept.execScalarAlu {s0 : State} {v : Nat} {op : AluOp} {useImm : Bool} {i : VWord} {s : State}
    (h_s : Kept s0 s) :
    NextWith (execScalarAlu v op useImm i s) (Kept s0) := by
  unfold Sys2Proof.Machine.execScalarAlu
  exact Kept.next (Kept.vfree h_s)

theorem Kept.execBr {s0 : State} {v : Nat} {i : VWord} {s : State} (h_s : Kept s0 s) :
    NextWith (execBr v i s) (Kept s0) := by
  unfold Sys2Proof.Machine.execBr
  exact Kept.next (Kept.vrun h_s fun x0 x1 a => Kept.setTask a)

theorem Kept.execBrz {s0 : State} {v : Nat} {i : VWord} {s : State} (h_s : Kept s0 s) :
    NextWith (execBrz v i s) (Kept s0) := by
  unfold Sys2Proof.Machine.execBrz
  exact Kept.next (Kept.vrun h_s fun x0 x1 a => Kept.setTask a)

theorem Kept.execLoop {s0 : State} {v : Nat} {i : VWord} {s : State} (h_s : Kept s0 s) :
    NextWith (execLoop v i s) (Kept s0) := by
  unfold Sys2Proof.Machine.execLoop
  repeat' first
    | with_reducible assumption
    | intro _
    | (extract_lets +onlyGivenNames x; clear_value x)
    | with_reducible refine Kept.setTask ?_
    | with_reducible refine Kept.vrun ?_ ?_
    | with_reducible refine Kept.next ?_

theorem Kept.execSysrd {s0 : State} {v : Nat} {i : VWord} {s : State} (h_s : Kept s0 s) :
    NextWith (execSysrd v i s) (Kept s0) := by
  unfold Sys2Proof.Machine.execSysrd
  exact Kept.next (Kept.vfree h_s)

theorem Kept.execFlgrd {s0 : State} {v : Nat} {i : VWord} {s : State} (h_s : Kept s0 s) :
    NextWith (execFlgrd v i s) (Kept s0) := by
  unfold Sys2Proof.Machine.execFlgrd
  exact Kept.next (Kept.vpure h_s)

theorem Kept.execFlgclr {s0 : State} {v : Nat} {_i : VWord} {s : State} (h_s : Kept s0 s) :
    NextWith (execFlgclr v _i s) (Kept s0) := by
  unfold Sys2Proof.Machine.execFlgclr
  exact Kept.next (Kept.vpure h_s)

end Sys2Proof.Machine
end

