-- ==== Sys2Proof/Laws/KeptKv.lean ====
section
/-! SUPPORT. Every operation of the KV manager, the Chisyn instructions that reach memory, and fabric memory keeps the queue, the canonical form of memory and burnt fuses
(`Kept`): one lemma for each. -/

namespace Sys2Proof.Machine

open Sys2Proof

set_option linter.unusedVariables false
set_option linter.tactic.unusedName false

theorem Kept.flagKv {s0 s : State} {f : Field} {n seq layer d : Nat} (h_s : Kept s0 s) :
    Kept s0 (State.flagKv s f n seq layer d) := by
  unfold Sys2Proof.Machine.State.flagKv
  exact Kept.flagError h_s fun x0 a => Kept.setReg a

theorem Kept.dropPoisoned {s0 s : State} {n : Nat} {p : Pool} {g : KvGroup} {t i : Nat} (h_s : Kept s0 s) :
    Kept s0 (State.dropPoisoned s n p g t i) := by
  unfold Sys2Proof.Machine.State.dropPoisoned
  repeat' first
    | with_reducible assumption
    | (extract_lets +onlyGivenNames x; clear_value x)
    | with_reducible refine Kept.dropNodes ?_
    | with_reducible refine Kept.ite ?_ ?_

theorem Kept.poisonPage {s0 s : State} {n : Nat} {p : Pool} {seq : Nat} {g : KvGroup} {t i addr : Nat}
    {e : BlockError} (h_s : Kept s0 s) :
    Kept s0 (State.poisonPage s n p seq g t i addr e) := by
  unfold Sys2Proof.Machine.State.poisonPage
  repeat' first
    | with_reducible assumption
    | (extract_lets +onlyGivenNames x; refine (fun (hx : Kept s0 x) => ?_) ?_; clear_value x; rotate_left; dsimp only [x]; clear x)
    | (extract_lets +onlyGivenNames x; clear_value x)
    | with_reducible refine Kept.dropPoisoned ?_
    | with_reducible refine Kept.flagBlock ?_
    | with_reducible refine Kept.flagKv ?_
    | with_reducible refine Kept.setHeader ?_

theorem Kept.countDecoded {s0 s : State} {n k : Nat} (h_s : Kept s0 s) : Kept s0 (State.countDecoded s n k) := by
  unfold Sys2Proof.Machine.State.countDecoded
  exact Kept.addFld h_s

theorem Kept.openPage {s0 s : State} {n : Nat} {p : Pool} {g : KvGroup} {t i : Nat} (h_s : Kept s0 s) {t_ : State}
    (e_ : State.openPage s n p g t i = some t_) :
    Kept s0 t_ := by
  unfold Sys2Proof.Machine.State.openPage at e_
  repeat' first
    | with_reducible assumption
    | (rewrite [Option.map_eq_some_iff] at e_; obtain ⟨_, _, rfl⟩ := e_)
    | (extract_lets +onlyGivenNames x; clear_value x)
    | with_reducible refine Kept.setHeader ?_
    | with_reducible refine Kept.standWrite ?_

theorem Kept.newSet {s0 s : State} {n : Nat} {p : Pool} {g : KvGroup} (h_s : Kept s0 s) {t_}
    (e_ : State.newSet s n p g = some t_) :
    Kept s0 t_.1 := by
  unfold Sys2Proof.Machine.State.newSet at e_
  repeat' first
    | with_reducible assumption
    | (rewrite [Option.map_eq_some_iff] at e_; obtain ⟨_, _, rfl⟩ := e_)
    | (rewrite [Option.bind_eq_some_iff] at e_; obtain ⟨_, _, e_⟩ := e_)
    | with_reducible refine Kept.openPage ?_ (by with_reducible assumption)
    | with_reducible refine Kept.foldlO ?_ (fun _ _ _ _ e_ => ?_) (by with_reducible assumption)
    | with_reducible refine Kept.ofO (by with_reducible assumption) (by with_reducible assumption)

theorem Kept.dropPage {s0 s : State} {n : Nat} {g : KvGroup} {t i : Nat} (h_s : Kept s0 s) :
    Kept s0 (State.dropPage s n g t i) := by
  unfold Sys2Proof.Machine.State.dropPage
  repeat' first
    | with_reducible assumption
    | (extract_lets +onlyGivenNames x; clear_value x)
    | with_reducible refine Kept.setHeader ?_

theorem Kept.holdPage {s0 s : State} {n : Nat} {g : KvGroup} {t i : Nat} (h_s : Kept s0 s) :
    Kept s0 (State.holdPage s n g t i) := by
  unfold Sys2Proof.Machine.State.holdPage
  repeat' first
    | with_reducible assumption
    | (extract_lets +onlyGivenNames x; clear_value x)
    | with_reducible refine Kept.setHeader ?_

theorem Kept.copyPage {s0 s : State} {n : Nat} {p : Pool} {seq : Nat} {g : KvGroup} {t t' i : Nat}
    (h_s : Kept s0 s) {t_ : State} (e_ : State.copyPage s n p seq g t t' i = some t_) :
    Kept s0 t_ := by
  unfold Sys2Proof.Machine.State.copyPage at e_
  repeat' first
    | with_reducible assumption
    | (rewrite [Option.map_eq_some_iff] at e_; obtain ⟨_, _, rfl⟩ := e_)
    | (rewrite [Option.some.injEq] at e_; subst e_)
    | (split at e_)
    | dsimp only at e_
    | with_reducible refine Kept.dropPage ?_
    | with_reducible refine Kept.poisonPage ?_
    | with_reducible refine Kept.setHeader ?_
    | with_reducible refine Kept.standWrite ?_

theorem Kept.copySet {s0 s : State} {n : Nat} {p : Pool} {seq : Nat} {r : SeqRecord} {g : KvGroup} {k : Nat}
    {e : PtEntry} (h_s : Kept s0 s) {t_} (e_ : State.copySet s n p seq r g k e = some t_) :
    Kept s0 t_.1 := by
  unfold Sys2Proof.Machine.State.copySet at e_
  repeat' first
    | with_reducible assumption
    | (rewrite [Option.map_eq_some_iff] at e_; obtain ⟨_, _, rfl⟩ := e_)
    | (rewrite [Option.bind_eq_some_iff] at e_; obtain ⟨_, _, e_⟩ := e_)
    | (split at e_)
    | with_reducible refine Kept.addFld ?_
    | with_reducible refine Kept.copyPage ?_ (by with_reducible assumption)
    | with_reducible refine Kept.setHeader ?_
    | with_reducible refine Kept.setPt ?_
    | with_reducible refine Kept.foldlO ?_ (fun _ _ _ _ e_ => ?_) (by with_reducible assumption)
    | with_reducible refine Kept.ofO (by with_reducible assumption) (by with_reducible assumption)

theorem Kept.reopen {s0 s : State} {n : Nat} {p : Pool} {seq : Nat} {g : KvGroup} {t i : Nat} (h_s : Kept s0 s)
    {t_ : State} (e_ : State.reopen s n p seq g t i = some t_) :
    Kept s0 t_ := by
  unfold Sys2Proof.Machine.State.reopen at e_
  repeat' first
    | with_reducible assumption
    | (rewrite [Option.map_eq_some_iff] at e_; obtain ⟨_, _, rfl⟩ := e_)
    | (extract_lets +onlyGivenNames x; clear_value x)
    | with_reducible refine Kept.countDecoded ?_
    | with_reducible refine Kept.poisonPage ?_
    | with_reducible refine Kept.setHeader ?_
    | with_reducible refine Kept.standWrite ?_
    | split

theorem Kept.ready {s0 s : State} {n : Nat} {p : Pool} {seq : Nat} {r : SeqRecord} {g : KvGroup} {i k : Nat}
    (h_s : Kept s0 s) :
    Kept s0 (State.ready s n p seq r g i k).1 := by
  unfold State.ready
  dsimp only
  split
  · split
    · exact h_s
    · exact Kept.setPt (Kept.newSet h_s ‹_›)
  split
  · exact h_s
  split
  · exact h_s
  split
  · exact h_s
  rename_i u t hc
  have h : Kept s0 u := by
    split at hc
    · exact Kept.copySet h_s hc
    · cases hc; exact h_s
  split
  · split
    · exact h
    · exact Kept.reopen h ‹_›
  · exact h
  · exact h

theorem Kept.putHead {s0 s : State} {n : Nat} {g : KvGroup} {base slot h : Nat} {value : Bool} {xs : List Num}
    (h_s : Kept s0 s) :
    Kept s0 (State.putHead s n g base slot h value xs) := by
  unfold Sys2Proof.Machine.State.putHead
  repeat' first
    | with_reducible assumption
    | (extract_lets +onlyGivenNames x; clear_value x)
    | with_reducible refine Kept.standWrite ?_
    | with_reducible refine Kept.ite ?_ ?_

theorem Kept.markSeq {s0 s : State} {n seq : Nat} {c : NoToken} (h_s : Kept s0 s) : Kept s0 (State.markSeq s n seq c) := by
  unfold Sys2Proof.Machine.State.markSeq
  exact Kept.foldl h_s (fun x x_1 x_2 => Kept.withhold x_2) (s.seqRequests n seq)

theorem Kept.appendToken {s0 s : State} {n : Nat} {p : Pool} {a : AppendHeader} {g : KvGroup} {data : List Byte}
    {j : Nat} (h_s : Kept s0 s) :
    Kept s0 (State.appendToken s n p a g data j).1 := by
  unfold Sys2Proof.Machine.State.appendToken
  repeat' first
    | with_reducible assumption
    | (extract_lets +onlyGivenNames x; refine (fun (hx : Kept s0 x) => ?_) ?_; clear_value x; rotate_left; dsimp only [x]; clear x)
    | (extract_lets +onlyGivenNames x; clear_value x)
    | with_reducible refine Kept.flagKv ?_
    | with_reducible refine Kept.markSeq ?_
    | with_reducible refine Kept.putHead ?_
    | with_reducible refine Kept.ready ?_
    | with_reducible refine Kept.setHeader ?_
    | with_reducible refine Kept.updStep ?_
    | with_reducible refine Kept.fst ?_ (by with_reducible assumption)
    | with_reducible refine Kept.foldl ?_ (fun _ _ _ => ?_) _
    | split

theorem Kept.appendTokens {s0 s : State} {n : Nat} {p : Pool} {a : AppendHeader} {g : KvGroup} {data : List Byte}
    {a0 a1 : Nat} (h_s : Kept s0 s) :
    Kept s0 (State.appendTokens s n p a g data a0 a1) := by
  induction a0 generalizing s n p a g data a1 with
  | zero =>
    unfold Sys2Proof.Machine.State.appendTokens
    repeat' first
      | with_reducible assumption
      | with_reducible refine Kept.appendToken ?_
      | with_reducible refine Kept.fst ?_ (by with_reducible assumption)
      | split
  | succ k ih =>
    unfold Sys2Proof.Machine.State.appendTokens
    repeat' first
      | with_reducible assumption
      | with_reducible refine ih ?_
      | with_reducible refine Kept.appendToken ?_
      | with_reducible refine Kept.fst ?_ (by with_reducible assumption)
      | split

theorem Kept.appendRecord {s0 s : State} {n : Nat} {p : Pool} {a : AppendHeader} {data : List Byte}
    (h_s : Kept s0 s) :
    Kept s0 (State.appendRecord s n p a data) := by
  unfold Sys2Proof.Machine.State.appendRecord
  repeat' first
    | with_reducible assumption
    | (extract_lets +onlyGivenNames x; refine (fun (hx : Kept s0 x) => ?_) ?_; clear_value x; rotate_left; dsimp only [x]; clear x)
    | (extract_lets +onlyGivenNames x; clear_value x)
    | with_reducible refine Kept.appendTokens ?_
    | with_reducible refine Kept.flagKv ?_
    | with_reducible refine Kept.markSeq ?_
    | with_reducible refine Kept.updStep ?_
    | with_reducible refine Kept.ite ?_ ?_

theorem Kept.poisonKvAt {s0 s : State} {n seq a len : Nat} (h_s : Kept s0 s) :
    Kept s0 (State.poisonKvAt s n seq a len) := by
  unfold Sys2Proof.Machine.State.poisonKvAt
  repeat' first
    | with_reducible assumption
    | with_reducible refine Kept.poisonPage ?_
    | with_reducible refine Kept.foldl ?_ (fun _ _ _ => ?_) _
    | split

theorem Kept.decodeMet {s0 s : State} {n : Nat} {p : Pool} {seq a len : Nat}
    {x : KvGroup × Nat × Nat × PageHeader} (h_s : Kept s0 s) :
    Kept s0 (State.decodeMet s n p seq a len x).1 := by
  unfold Sys2Proof.Machine.State.decodeMet
  repeat' first
    | with_reducible assumption
    | (extract_lets +onlyGivenNames x; have : ∀ a, x a = x a := fun _ => rfl; clear this; (try dsimp only [x]); clear x)
    | with_reducible refine Kept.countDecoded ?_
    | with_reducible refine Kept.poisonPage ?_
    | split

theorem Kept.readSealed {s0 s : State} {n seq a len : Nat} (h_s : Kept s0 s) :
    Kept s0 (State.readSealed s n seq a len).1 := by
  unfold Sys2Proof.Machine.State.readSealed
  repeat' first
    | with_reducible assumption
    | with_reducible refine Kept.decodeMet ?_
    | with_reducible refine Kept.foldl1 ?_ (fun _ _ _ => ?_) _
    | split

theorem Kept.sealedOpen {s0 s : State} {n a : Nat} {bs : List Byte} (h_s : Kept s0 s) :
    Kept s0 (State.sealedOpen s n a bs).1 := by
  unfold Sys2Proof.Machine.State.sealedOpen
  repeat' first
    | with_reducible assumption
    | with_reducible exact id
    | (extract_lets +onlyGivenNames x; clear_value x)
    | with_reducible refine Kept.ite1 ?_ ?_
    | (rewrite [State.mk_lit]; with_reducible refine Kept.lit ?_ ?_)
    | split

theorem Kept.awaitRun {s0 s : State} {n : Nat} {pg : Nat × Nat} {on : Bool} (h_s : Kept s0 s) :
    Kept s0 (State.awaitRun s n pg on) := by
  unfold Sys2Proof.Machine.State.awaitRun
  exact Kept.updStand h_s

theorem Kept.sealPage {s0 s : State} {n : Nat} {p : Pool} {seq : Nat} {g : KvGroup} {t i : Nat} {first : Bool}
    (h_s : Kept s0 s) :
    Kept s0 (State.sealPage s n p seq g t i first) := by
  unfold Sys2Proof.Machine.State.sealPage
  repeat' first
    | with_reducible assumption
    | (extract_lets +onlyGivenNames x; have : ∀ a, x a = x a := fun _ => rfl; clear this; (try dsimp only [x]); clear x)
    | (extract_lets +onlyGivenNames x; clear_value x)
    | with_reducible refine Kept.addFld ?_
    | with_reducible refine Kept.awaitRun ?_
    | with_reducible refine Kept.poisonPage ?_
    | with_reducible refine Kept.setHeader ?_
    | with_reducible refine Kept.standWrite ?_
    | with_reducible refine Kept.ite ?_ ?_
    | split

theorem Kept.advance {s0 s : State} {n : Nat} {p : Pool} {seq len : Nat} (h_s : Kept s0 s) :
    Kept s0 (State.advance s n p seq len) := by
  unfold Sys2Proof.Machine.State.advance
  repeat' first
    | with_reducible assumption
    | (extract_lets +onlyGivenNames x; refine (fun (hx : Kept s0 x) => ?_) ?_; clear_value x; rotate_left; dsimp only [x]; clear x)
    | (extract_lets +onlyGivenNames x; clear_value x)
    | with_reducible refine Kept.sealPage ?_
    | with_reducible refine Kept.setLength ?_
    | with_reducible refine Kept.ite ?_ ?_
    | with_reducible refine Kept.foldl ?_ (fun _ _ _ => ?_) _

theorem Kept.sealWaiting {s0 s : State} {n : Nat} {p : Pool} (h_s : Kept s0 s) : Kept s0 (State.sealWaiting s n p) := by
  unfold Sys2Proof.Machine.State.sealWaiting
  repeat' first
    | with_reducible assumption
    | (extract_lets +onlyGivenNames x; clear_value x)
    | with_reducible refine Kept.sealPage ?_
    | with_reducible refine Kept.foldl ?_ (fun _ _ _ => ?_) _

theorem Kept.pruneOne {s0 s : State} {n : Nat} {r : SeqRecord} {g : KvGroup} {i : Nat} (h_s : Kept s0 s) :
    Kept s0 (State.pruneOne s n r g i).1 := by
  unfold Sys2Proof.Machine.State.pruneOne
  repeat' first
    | with_reducible assumption
    | (extract_lets +onlyGivenNames x; clear_value x)
    | with_reducible refine Kept.addFld ?_
    | with_reducible refine Kept.dropPage ?_
    | with_reducible refine Kept.setPt ?_
    | with_reducible refine Kept.ite1 ?_ ?_
    | split

theorem Kept.pruneLayer {s0 s : State} {n : Nat} {r : SeqRecord} {g : KvGroup} {i a0 : Nat} (h_s : Kept s0 s) :
    Kept s0 (State.pruneLayer s n r g i a0) := by
  induction a0 generalizing s n r g i with
  | zero =>
    unfold Sys2Proof.Machine.State.pruneLayer
    repeat' first
      | with_reducible assumption
      | with_reducible refine Kept.pruneOne ?_
      | with_reducible refine Kept.fst ?_ (by with_reducible assumption)
      | split
  | succ k ih =>
    unfold Sys2Proof.Machine.State.pruneLayer
    repeat' first
      | with_reducible assumption
      | with_reducible refine ih ?_
      | with_reducible refine Kept.pruneOne ?_
      | with_reducible refine Kept.fst ?_ (by with_reducible assumption)
      | split

theorem Kept.prune {s0 s : State} {n : Nat} {p : Pool} (h_s : Kept s0 s) : Kept s0 (State.prune s n p) := by
  unfold Sys2Proof.Machine.State.prune
  repeat' first
    | with_reducible assumption
    | (extract_lets +onlyGivenNames x; clear_value x)
    | with_reducible refine Kept.pruneLayer ?_
    | with_reducible refine Kept.foldl ?_ (fun _ _ _ => ?_) _

theorem Kept.dropEntry {s0 s : State} {n : Nat} {r : SeqRecord} {g : KvGroup} {k : Nat} (h_s : Kept s0 s) :
    Kept s0 (State.dropEntry s n r g k) := by
  unfold Sys2Proof.Machine.State.dropEntry
  repeat' first
    | with_reducible assumption
    | (extract_lets +onlyGivenNames x; refine (fun (hx : Kept s0 x) => ?_) ?_; clear_value x; rotate_left; dsimp only [x]; clear x)
    | (extract_lets +onlyGivenNames x; clear_value x)
    | with_reducible refine Kept.dropPage ?_
    | with_reducible refine Kept.setPt ?_
    | with_reducible refine Kept.ite ?_ ?_
    | with_reducible refine Kept.foldl ?_ (fun _ _ _ => ?_) _

theorem Kept.dropAll {s0 s : State} {n : Nat} {p : Pool} {seq : Nat} (h_s : Kept s0 s) :
    Kept s0 (State.dropAll s n p seq) := by
  unfold Sys2Proof.Machine.State.dropAll
  repeat' first
    | with_reducible assumption
    | (extract_lets +onlyGivenNames x; clear_value x)
    | with_reducible refine Kept.dropEntry ?_
    | with_reducible refine Kept.foldl ?_ (fun _ _ _ => ?_) _

theorem Kept.kvCreate {s0 s : State} {n : Nat} {p : Pool} {c : DeviceCommand} (h_s : Kept s0 s) :
    Kept s0 (State.kvCreate s n p c).1 := by
  unfold Sys2Proof.Machine.State.kvCreate
  repeat' first
    | with_reducible assumption
    | (extract_lets +onlyGivenNames x; refine (fun (hx : Kept s0 x) => ?_) ?_; clear_value x; rotate_left; dsimp only [x]; clear x)
    | (extract_lets +onlyGivenNames x; clear_value x)
    | with_reducible refine Kept.noted ?_
    | with_reducible refine Kept.standWrite ?_
    | with_reducible refine Kept.ite ?_ ?_
    | with_reducible refine Kept.ite1 ?_ ?_
    | with_reducible refine Kept.foldl ?_ (fun _ _ _ => ?_) _
    | split

theorem Kept.graftInto {s0 s : State} {n : Nat} {r : SeqRecord} {g : KvGroup} {es : List PtEntry} (h_s : Kept s0 s) :
    Kept s0 (State.graftInto s n r g es) := by
  unfold Sys2Proof.Machine.State.graftInto
  repeat' first
    | with_reducible assumption
    | (extract_lets +onlyGivenNames x; refine (fun (hx : Kept s0 x) => ?_) ?_; clear_value x; rotate_left; dsimp only [x]; clear x)
    | with_reducible refine Kept.dropEntry ?_
    | with_reducible refine Kept.holdPage ?_
    | with_reducible refine Kept.setPt ?_
    | with_reducible refine Kept.ite ?_ ?_
    | with_reducible refine Kept.foldl ?_ (fun _ _ _ => ?_) _

theorem Kept.kvGraft {s0 s : State} {n : Nat} {p : Pool} {c : DeviceCommand} (h_s : Kept s0 s) :
    Kept s0 (State.kvGraft s n p c).1 := by
  unfold Sys2Proof.Machine.State.kvGraft
  repeat' first
    | with_reducible assumption
    | (extract_lets +onlyGivenNames x; refine (fun (hx : Kept s0 x) => ?_) ?_; clear_value x; rotate_left; dsimp only [x]; clear x)
    | (extract_lets +onlyGivenNames x; have : ∀ a, x a = x a := fun _ => rfl; clear this; (try dsimp only [x]); clear x)
    | (extract_lets +onlyGivenNames x; clear_value x)
    | with_reducible refine Kept.graftInto ?_
    | with_reducible refine Kept.noted ?_
    | with_reducible refine Kept.setLength ?_
    | with_reducible refine Kept.ite ?_ ?_
    | with_reducible refine Kept.ite1 ?_ ?_
    | with_reducible refine Kept.foldl ?_ (fun _ _ _ => ?_) _
    | split

theorem Kept.kvRelease {s0 s : State} {n : Nat} {p : Pool} {seq : Nat} (h_s : Kept s0 s) :
    Kept s0 (State.kvRelease s n p seq).1 := by
  unfold Sys2Proof.Machine.State.kvRelease
  repeat' first
    | with_reducible assumption
    | (extract_lets +onlyGivenNames x; refine (fun (hx : Kept s0 x) => ?_) ?_; clear_value x; rotate_left; dsimp only [x]; clear x)
    | with_reducible refine Kept.dropAll ?_
    | with_reducible refine Kept.standWrite ?_
    | with_reducible refine Kept.updStand ?_
    | with_reducible refine Kept.ite1 ?_ ?_

theorem Kept.kvTruncate {s0 s : State} {n : Nat} {p : Pool} {seq count : Nat} (h_s : Kept s0 s) :
    Kept s0 (State.kvTruncate s n p seq count).1 := by
  unfold Sys2Proof.Machine.State.kvTruncate
  repeat' first
    | with_reducible assumption
    | (extract_lets +onlyGivenNames x; refine (fun (hx : Kept s0 x) => ?_) ?_; clear_value x; rotate_left; dsimp only [x]; clear x)
    | (extract_lets +onlyGivenNames x; clear_value x)
    | with_reducible refine Kept.dropEntry ?_
    | with_reducible refine Kept.setLength ?_
    | with_reducible refine Kept.ite ?_ ?_
    | with_reducible refine Kept.ite1 ?_ ?_
    | with_reducible refine Kept.foldl ?_ (fun _ _ _ => ?_) _

theorem Kept.kvHold {s0 s : State} {n : Nat} {p : Pool} {c : DeviceCommand} (h_s : Kept s0 s) :
    Kept s0 (State.kvHold s n p c).1 := by
  unfold Sys2Proof.Machine.State.kvHold
  repeat' first
    | with_reducible assumption
    | (extract_lets +onlyGivenNames x; refine (fun (hx : Kept s0 x) => ?_) ?_; clear_value x; rotate_left; dsimp only [x]; clear x)
    | (extract_lets +onlyGivenNames x; clear_value x)
    | with_reducible refine Kept.dropPage ?_
    | with_reducible refine Kept.setPt ?_
    | with_reducible refine Kept.standWrite ?_
    | with_reducible refine Kept.ite ?_ ?_
    | with_reducible refine Kept.ite1 ?_ ?_
    | with_reducible refine Kept.foldl ?_ (fun _ _ _ => ?_) _

theorem Kept.kvApply {s0 s : State} {n : Nat} {p : Pool} {c : DeviceCommand} (h_s : Kept s0 s) :
    Kept s0 (State.kvApply s n p c).1 := by
  unfold Sys2Proof.Machine.State.kvApply
  repeat' first
    | with_reducible assumption
    | with_reducible refine Kept.flagKv ?_
    | with_reducible refine Kept.kvCreate ?_
    | with_reducible refine Kept.kvGraft ?_
    | with_reducible refine Kept.kvHold ?_
    | with_reducible refine Kept.kvRelease ?_
    | with_reducible refine Kept.kvTruncate ?_
    | with_reducible refine Kept.ite1 ?_ ?_
    | split

theorem Kept.kvRingOne {s0 s : State} {n : Nat} {p : Pool} (h_s : Kept s0 s) : Kept s0 (State.kvRingOne s n p).1 := by
  unfold Sys2Proof.Machine.State.kvRingOne
  repeat' first
    | with_reducible assumption
    | (extract_lets +onlyGivenNames x; clear_value x)
    | with_reducible refine Kept.kvApply ?_
    | with_reducible refine Kept.ringResult ?_
    | with_reducible refine Kept.updStand ?_
    | split

theorem Kept.kvRingAll {s0 s : State} {n : Nat} {p : Pool} {a0 : Nat} (h_s : Kept s0 s) :
    Kept s0 (State.kvRingAll s n p a0) := by
  induction a0 generalizing s n p with
  | zero =>
    unfold Sys2Proof.Machine.State.kvRingAll
    repeat' first
      | with_reducible assumption
      | with_reducible refine Kept.kvRingOne ?_
      | with_reducible refine Kept.fst ?_ (by with_reducible assumption)
      | split
  | succ k ih =>
    unfold Sys2Proof.Machine.State.kvRingAll
    repeat' first
      | with_reducible assumption
      | with_reducible refine ih ?_
      | with_reducible refine Kept.kvRingOne ?_
      | with_reducible refine Kept.fst ?_ (by with_reducible assumption)
      | split

theorem Kept.kvDeviceAll {s0 s : State} {n : Nat} {p : Pool} {a0 : Nat} (h_s : Kept s0 s) :
    Kept s0 (State.kvDeviceAll s n p a0) := by
  induction a0 generalizing s n p with
  | zero =>
    unfold Sys2Proof.Machine.State.kvDeviceAll
    repeat' first
      | with_reducible assumption
      | with_reducible refine Kept.kvApply ?_
      | with_reducible refine Kept.updStand ?_
      | split
  | succ k ih =>
    unfold Sys2Proof.Machine.State.kvDeviceAll
    repeat' first
      | with_reducible assumption
      | with_reducible refine ih ?_
      | with_reducible refine Kept.kvApply ?_
      | with_reducible refine Kept.updStand ?_
      | split

theorem Kept.kvPoint {s0 s : State} {n : Nat} (h_s : Kept s0 s) : Kept s0 (State.kvPoint s n) := by
  unfold Sys2Proof.Machine.State.kvPoint
  repeat' first
    | with_reducible assumption
    | with_reducible refine Kept.kvDeviceAll ?_
    | with_reducible refine Kept.kvRingAll ?_
    | split

theorem Kept.kvSettle {s0 s : State} {n : Nat} (h_s : Kept s0 s) : Kept s0 (State.kvSettle s n) := by
  unfold Sys2Proof.Machine.State.kvSettle
  repeat' first
    | with_reducible assumption
    | with_reducible refine Kept.kvDeviceAll ?_
    | with_reducible refine Kept.ite ?_ ?_
    | split

theorem Kept.poolStart {s0 s : State} {n : Nat} {p : Pool} (h_s : Kept s0 s) : Kept s0 (State.poolStart s n p) := by
  unfold Sys2Proof.Machine.State.poolStart
  exact Kept.updStand h_s

theorem Kept.poolStop {s0 s : State} {n : Nat} (h_s : Kept s0 s) : Kept s0 (State.poolStop s n) := by
  unfold Sys2Proof.Machine.State.poolStop
  repeat' first
    | with_reducible assumption
    | (extract_lets +onlyGivenNames x; refine (fun (hx : Kept s0 x) => ?_) ?_; clear_value x; rotate_left; dsimp only [x]; clear x)
    | (extract_lets +onlyGivenNames x; clear_value x)
    | with_reducible refine Kept.revoke ?_
    | with_reducible refine Kept.updStand ?_
    | split

theorem Kept.poolBoundary {s0 s : State} {n : Nat} (h_s : Kept s0 s) : Kept s0 (State.poolBoundary s n) := by
  unfold Sys2Proof.Machine.State.poolBoundary
  repeat' first
    | with_reducible assumption
    | (extract_lets +onlyGivenNames x; refine (fun (hx : Kept s0 x) => ?_) ?_; clear_value x; rotate_left; dsimp only [x]; clear x)
    | with_reducible refine Kept.poolStart ?_
    | with_reducible refine Kept.poolStop ?_
    | with_reducible refine Kept.ite ?_ ?_
    | split

theorem Kept.registerPartial {s0 s : State} {n : Nat} {p : Pool} (h_s : Kept s0 s) :
    Kept s0 (State.registerPartial s n p) := by
  unfold Sys2Proof.Machine.State.registerPartial
  repeat' first
    | with_reducible assumption
    | (extract_lets +onlyGivenNames x; clear_value x)
    | with_reducible refine Kept.register ?_
    | with_reducible refine Kept.updStand ?_
    | with_reducible refine Kept.ite ?_ ?_

theorem Kept.rebuild {s0 s : State} {n : Nat} {p : Pool} (h_s : Kept s0 s) : Kept s0 (State.rebuild s n p) := by
  unfold Sys2Proof.Machine.State.rebuild
  repeat' first
    | with_reducible assumption
    | (extract_lets +onlyGivenNames x; clear_value x)
    | with_reducible refine Kept.flagKv ?_
    | with_reducible refine Kept.setHeader ?_
    | with_reducible refine Kept.foldl ?_ (fun _ _ _ => ?_) _

theorem Kept.withholdPoisoned {s0 s : State} {n : Nat} {p : Pool} (h_s : Kept s0 s) :
    Kept s0 (State.withholdPoisoned s n p) := by
  unfold Sys2Proof.Machine.State.withholdPoisoned
  repeat' first
    | with_reducible assumption
    | with_reducible refine Kept.withhold ?_
    | with_reducible refine Kept.ite ?_ ?_
    | with_reducible refine Kept.foldl ?_ (fun _ _ _ => ?_) _
    | split

theorem Kept.vls {s0 s : State} {v : Nat} {uses : List Nat} {ok : Bool} {acc : VTask → List (Nat × Nat)}
    {f : VTask → State → State × VTask} (h_s : Kept s0 s) (h_f : ∀ x0 x1, Kept s0 x1 → Kept s0 (f x0 x1).1) :
    Kept s0 (State.vls s v uses ok acc f) := by
  unfold Sys2Proof.Machine.State.vls
  repeat' first
    | with_reducible assumption
    | intro _
    | with_reducible refine Kept.illegal ?_
    | with_reducible refine Kept.setTask ?_
    | with_reducible refine Kept.vrun ?_ ?_
    | with_reducible refine h_f _ _ ?_
    | with_reducible refine Kept.ite ?_ ?_

theorem Kept.execLd {s0 : State} {v : Nat} {i : VWord} {s : State} (h_s : Kept s0 s) :
    NextWith (execLd v i s) (Kept s0) := by
  unfold Sys2Proof.Machine.execLd
  repeat' first
    | with_reducible assumption
    | intro _
    | (extract_lets +onlyGivenNames x; clear_value x)
    | with_reducible refine Kept.vls ?_ ?_
    | with_reducible refine Kept.ite1 ?_ ?_
    | with_reducible refine Kept.next ?_

theorem Kept.execSt {s0 : State} {v : Nat} {i : VWord} {s : State} (h_s : Kept s0 s) :
    NextWith (execSt v i s) (Kept s0) := by
  unfold Sys2Proof.Machine.execSt
  repeat' first
    | with_reducible assumption
    | intro _
    | (extract_lets +onlyGivenNames x; clear_value x)
    | with_reducible refine Kept.lsPut ?_
    | with_reducible refine Kept.vls ?_ ?_
    | with_reducible refine Kept.ite1 ?_ ?_
    | with_reducible refine Kept.foldl ?_ (fun _ _ _ => ?_) _
    | with_reducible refine Kept.next ?_

theorem Kept.execLds {s0 : State} {v : Nat} {i : VWord} {s : State} (h_s : Kept s0 s) :
    NextWith (execLds v i s) (Kept s0) := by
  unfold Sys2Proof.Machine.execLds
  exact Kept.next (Kept.vls h_s fun x0 x1 => id)

theorem Kept.execGld {s0 : State} {v : Nat} {i : VWord} {s : State} (h_s : Kept s0 s) :
    NextWith (execGld v i s) (Kept s0) := by
  unfold Sys2Proof.Machine.execGld
  exact Kept.next (Kept.vls h_s fun x0 x1 => id)

theorem Kept.execSst {s0 : State} {v : Nat} {i : VWord} {s : State} (h_s : Kept s0 s) :
    NextWith (execSst v i s) (Kept s0) := by
  unfold Sys2Proof.Machine.execSst
  repeat' first
    | with_reducible assumption
    | with_reducible exact id
    | intro _
    | (extract_lets +onlyGivenNames x; clear_value x)
    | with_reducible refine Kept.lsPut ?_
    | with_reducible refine Kept.vls ?_ ?_
    | with_reducible refine Kept.foldl ?_ (fun _ _ _ => ?_) _
    | (rewrite [State.mk_lit]; with_reducible refine Kept.lit ?_ ?_)
    | with_reducible refine Kept.next ?_

theorem Kept.issueTransfer {s0 s : State} {v : Nat} {t : VTask} {x : Transfer} (h_s : Kept s0 s) :
    Kept s0 (State.issueTransfer s v t x) := by
  unfold Sys2Proof.Machine.State.issueTransfer
  repeat' first
    | with_reducible assumption
    | (extract_lets +onlyGivenNames x; refine (fun (hx : Kept s0 x) => ?_) ?_; clear_value x; rotate_left; dsimp only [x]; clear x)
    | (extract_lets +onlyGivenNames x; clear_value x)
    | with_reducible refine Kept.lsForget ?_
    | with_reducible refine Kept.setTask ?_
    | with_reducible refine Kept.ite ?_ ?_

theorem Kept.vtransfer {s0 s : State} {v : Nat} {i : VWord} {out : Bool} (h_s : Kept s0 s) :
    Kept s0 (State.vtransfer s v i out) := by
  unfold Sys2Proof.Machine.State.vtransfer
  repeat' first
    | with_reducible assumption
    | intro _
    | (extract_lets +onlyGivenNames x; refine (fun (hx : Kept s0 x) => ?_) ?_; clear_value x; rotate_left; dsimp only [x]; clear x)
    | (extract_lets +onlyGivenNames x; clear_value x)
    | with_reducible refine Kept.flagUnmapped ?_
    | with_reducible refine Kept.illegal ?_
    | with_reducible refine Kept.issueTransfer ?_
    | with_reducible refine Kept.setTask ?_
    | with_reducible refine Kept.vrun ?_ ?_
    | with_reducible refine Kept.ite ?_ ?_

theorem Kept.execXin {s0 : State} {v : Nat} {i : VWord} {s : State} (h_s : Kept s0 s) :
    NextWith (execXin v i s) (Kept s0) := by
  unfold Sys2Proof.Machine.execXin
  exact Kept.next (Kept.vtransfer h_s)

theorem Kept.execXout {s0 : State} {v : Nat} {i : VWord} {s : State} (h_s : Kept s0 s) :
    NextWith (execXout v i s) (Kept s0) := by
  unfold Sys2Proof.Machine.execXout
  exact Kept.next (Kept.vtransfer h_s)

theorem Kept.landTag {s0 s : State} {v : Nat} {t : VTask} {tag : Nat} (h_s : Kept s0 s) :
    Kept s0 (State.landTag s v t tag).1 := by
  unfold Sys2Proof.Machine.State.landTag
  repeat' first
    | with_reducible assumption
    | (extract_lets +onlyGivenNames x; clear_value x)
    | with_reducible refine Kept.lsPut ?_
    | with_reducible refine Kept.foldl ?_ (fun _ _ _ => ?_) _

theorem Kept.settle {s0 s : State} {v : Nat} (h_s : Kept s0 s) : Kept s0 (State.settle s v) := by
  unfold Sys2Proof.Machine.State.settle
  repeat' first
    | with_reducible assumption
    | with_reducible refine Kept.endTask ?_
    | with_reducible refine Kept.issueTransfer ?_
    | with_reducible refine Kept.landTag ?_
    | with_reducible refine Kept.setTask ?_
    | with_reducible refine Kept.ite ?_ ?_
    | split

theorem Kept.execXwait {s0 : State} {v : Nat} {i : VWord} {s : State} (h_s : Kept s0 s) :
    NextWith (execXwait v i s) (Kept s0) := by
  unfold Sys2Proof.Machine.execXwait
  exact Kept.next (Kept.vrun h_s fun x0 x1 a => Kept.settle (Kept.setTask a))

theorem Kept.countWait {s0 s : State} {n o since : Nat} (h_s : Kept s0 s) : Kept s0 (State.countWait s n o since) := by
  unfold Sys2Proof.Machine.State.countWait
  repeat' first
    | with_reducible assumption
    | with_reducible refine Kept.addFld ?_
    | split

theorem Kept.execTransferComplete {s0 : State} {v k : Nat} {s : State} (h_s : Kept s0 s) :
    NextWith (execTransferComplete v k s) (Kept s0) := by
  unfold Sys2Proof.Machine.execTransferComplete
  repeat' first
    | with_reducible assumption
    | with_reducible exact id
    | (extract_lets +onlyGivenNames x; clear_value x)
    | with_reducible refine Kept.countWait ?_
    | with_reducible refine Kept.poisonKvAt ?_
    | with_reducible refine Kept.poisonedTask ?_
    | with_reducible refine Kept.readSealed ?_
    | with_reducible refine Kept.readUnits ?_
    | with_reducible refine Kept.sealedOpen ?_
    | with_reducible refine Kept.setTask ?_
    | with_reducible refine Kept.settle ?_
    | with_reducible refine Kept.writeUnits ?_
    | with_reducible refine Kept.ite ?_ ?_
    | with_reducible refine Kept.ite1 ?_ ?_
    | with_reducible refine Kept.snd ?_ (by with_reducible assumption)
    | (rewrite [State.mk_lit]; with_reducible refine Kept.lit ?_ ?_)
    | with_reducible refine Kept.next ?_
    | split

theorem Kept.vatomic {s0 s : State} {v : Nat} {i : VWord} {isMax : Bool} (h_s : Kept s0 s) :
    Kept s0 (State.vatomic s v i isMax) := by
  unfold Sys2Proof.Machine.State.vatomic
  repeat' first
    | with_reducible assumption
    | intro _
    | (extract_lets +onlyGivenNames x; refine (fun (hx : Kept s0 x) => ?_) ?_; clear_value x; rotate_left; dsimp only [x]; clear x)
    | (extract_lets +onlyGivenNames x; clear_value x)
    | with_reducible refine Kept.flagUnmapped ?_
    | with_reducible refine Kept.illegal ?_
    | with_reducible refine Kept.setTask ?_
    | with_reducible refine Kept.vrun ?_ ?_
    | with_reducible refine Kept.ite ?_ ?_

theorem Kept.execAadd {s0 : State} {v : Nat} {i : VWord} {s : State} (h_s : Kept s0 s) :
    NextWith (execAadd v i s) (Kept s0) := by
  unfold Sys2Proof.Machine.execAadd
  exact Kept.next (Kept.vatomic h_s)

theorem Kept.execAmax {s0 : State} {v : Nat} {i : VWord} {s : State} (h_s : Kept s0 s) :
    NextWith (execAmax v i s) (Kept s0) := by
  unfold Sys2Proof.Machine.execAmax
  exact Kept.next (Kept.vatomic h_s)

theorem Kept.execVectorAtomicApply {s0 : State} {v k : Nat} {s : State} (h_s : Kept s0 s) :
    NextWith (execVectorAtomicApply v k s) (Kept s0) := by
  unfold Sys2Proof.Machine.execVectorAtomicApply
  repeat' first
    | with_reducible assumption
    | (extract_lets +onlyGivenNames x; clear_value x)
    | with_reducible refine Kept.applyAtomic ?_
    | with_reducible refine Kept.poisonedTask ?_
    | with_reducible refine Kept.setTask ?_
    | with_reducible refine Kept.settle ?_
    | with_reducible refine Kept.ite ?_ ?_
    | with_reducible refine Kept.next ?_
    | split

theorem Kept.execChisynEnd {s0 : State} {v : Nat} {i : VWord} {s : State} (h_s : Kept s0 s) :
    NextWith (execChisynEnd v i s) (Kept s0) := by
  unfold Sys2Proof.Machine.execChisynEnd
  repeat' first
    | with_reducible assumption
    | intro _
    | (extract_lets +onlyGivenNames x; clear_value x)
    | with_reducible refine Kept.illegal ?_
    | with_reducible refine Kept.setTask ?_
    | with_reducible refine Kept.settle ?_
    | with_reducible refine Kept.vrun ?_ ?_
    | with_reducible refine Kept.ite ?_ ?_
    | with_reducible refine Kept.next ?_

theorem Kept.execTaskTimeout {s0 : State} {v : Nat} {s : State} (h_s : Kept s0 s) :
    NextWith (execTaskTimeout v s) (Kept s0) := by
  unfold Sys2Proof.Machine.execTaskTimeout
  repeat' first
    | with_reducible assumption
    | with_reducible refine Kept.taskFault ?_
    | with_reducible refine Kept.next ?_
    | split

theorem Kept.execLsUncorrectable {s0 : State} {v : Nat} {s : State} (h_s : Kept s0 s) :
    NextWith (execLsUncorrectable v s) (Kept s0) := by
  unfold Sys2Proof.Machine.execLsUncorrectable
  repeat' first
    | with_reducible assumption
    | with_reducible refine Kept.taskFault ?_
    | with_reducible refine Kept.next ?_
    | split

theorem Kept.execVcoreFault {s0 : State} {v : Nat} {s : State} (h_s : Kept s0 s) :
    NextWith (execVcoreFault v s) (Kept s0) := by
  unfold Sys2Proof.Machine.execVcoreFault
  repeat' first
    | with_reducible assumption
    | (extract_lets +onlyGivenNames x; refine (fun (hx : Kept s0 x) => ?_) ?_; clear_value x; rotate_left; dsimp only [x]; clear x)
    | (extract_lets +onlyGivenNames x; clear_value x)
    | with_reducible refine Kept.event ?_
    | with_reducible refine Kept.setFld ?_
    | with_reducible refine Kept.taskFault ?_
    | with_reducible refine Kept.ite ?_ ?_
    | with_reducible refine Kept.next ?_
    | split

theorem Kept.flagFmm {s0 s : State} {f : Field} {n faddr : Nat} (h_s : Kept s0 s) :
    Kept s0 (State.flagFmm s f n faddr) := by
  unfold Sys2Proof.Machine.State.flagFmm
  exact Kept.flagError h_s fun x0 a => Kept.setReg a

theorem Kept.flagMemStatus {s0 s : State} {n faddr status : Nat} (h_s : Kept s0 s) :
    Kept s0 (State.flagMemStatus s n faddr status) := by
  unfold Sys2Proof.Machine.State.flagMemStatus
  exact Kept.ite (Kept.flagFmm h_s) (Kept.ite (Kept.flagFmm h_s) (Kept.ite (Kept.flagFmm h_s) h_s))

theorem Kept.settleFence {s0 s : State} {v : Nat} (h_s : Kept s0 s) : Kept s0 (State.settleFence s v) := by
  unfold Sys2Proof.Machine.State.settleFence
  repeat' first
    | with_reducible assumption
    | (extract_lets +onlyGivenNames x; clear_value x)
    | with_reducible refine Kept.addFld ?_
    | with_reducible refine Kept.setTask ?_
    | with_reducible refine Kept.ite ?_ ?_
    | split

theorem Kept.taskMemDone {s0 s : State} {v serial dst : Nat} {o : MemOp} {status value : Nat} {data : List Byte}
    (h_s : Kept s0 s) :
    Kept s0 (State.taskMemDone s v serial dst o status value data) := by
  unfold Sys2Proof.Machine.State.taskMemDone
  repeat' first
    | with_reducible assumption
    | (extract_lets +onlyGivenNames x; clear_value x)
    | with_reducible refine Kept.setTask ?_
    | with_reducible refine Kept.settle ?_
    | with_reducible refine Kept.settleFence ?_
    | with_reducible refine Kept.ite ?_ ?_
    | split

theorem Kept.settleQueue {s0 s : State} {n : Nat} (h_s : Kept s0 s) : Kept s0 (State.settleQueue s n) := by
  unfold Sys2Proof.Machine.State.settleQueue
  repeat' first
    | with_reducible assumption
    | (extract_lets +onlyGivenNames x; clear_value x)
    | with_reducible refine Kept.addFld ?_
    | with_reducible refine Kept.runDone ?_
    | with_reducible refine Kept.updStand ?_
    | with_reducible refine Kept.ite ?_ ?_
    | split

theorem Kept.queueMemDone {s0 s : State} {n i : Nat} {o : MemOp} {status value : Nat} {data : List Byte}
    (h_s : Kept s0 s) :
    Kept s0 (State.queueMemDone s n i o status value data) := by
  unfold Sys2Proof.Machine.State.queueMemDone
  repeat' first
    | with_reducible assumption
    | (extract_lets +onlyGivenNames x; refine (fun (hx : Kept s0 x) => ?_) ?_; clear_value x; rotate_left; dsimp only [x]; clear x)
    | (extract_lets +onlyGivenNames x; clear_value x)
    | with_reducible refine Kept.runDone ?_
    | with_reducible refine Kept.settleQueue ?_
    | with_reducible refine Kept.standWrite ?_
    | with_reducible refine Kept.updStand ?_
    | with_reducible refine Kept.ite ?_ ?_

theorem Kept.memDone {s0 s : State} {o : MemOp} {status value : Nat} {data : List Byte} (h_s : Kept s0 s) :
    Kept s0 (State.memDone s o status value data) := by
  unfold Sys2Proof.Machine.State.memDone
  repeat' first
    | with_reducible assumption
    | (extract_lets +onlyGivenNames x; refine (fun (hx : Kept s0 x) => ?_) ?_; clear_value x; rotate_left; dsimp only [x]; clear x)
    | (extract_lets +onlyGivenNames x; clear_value x)
    | with_reducible refine Kept.flagMemStatus ?_
    | with_reducible refine Kept.queueMemDone ?_
    | with_reducible refine Kept.setFld ?_
    | with_reducible refine Kept.taskMemDone ?_
    | with_reducible refine Kept.ite ?_ ?_
    | split

theorem Kept.judge {s0 s : State} {gk m : Nat} (h_s : Kept s0 s) : Kept s0 (State.judge s gk m) := by
  unfold Sys2Proof.Machine.State.judge
  repeat' first
    | with_reducible assumption
    | with_reducible exact id
    | (extract_lets +onlyGivenNames x; refine (fun (hx : Kept s0 x) => ?_) ?_; clear_value x; rotate_left; dsimp only [x]; clear x)
    | (extract_lets +onlyGivenNames x; clear_value x)
    | with_reducible refine Kept.event ?_
    | with_reducible refine Kept.msix ?_
    | with_reducible refine Kept.ite ?_ ?_
    | (rewrite [State.mk_lit]; with_reducible refine Kept.lit ?_ ?_)
    | split

theorem Kept.answer {s0 s : State} {w : Waiter} {status value : Nat} (h_s : Kept s0 s) :
    Kept s0 (State.answer s w status value) := by
  unfold Sys2Proof.Machine.State.answer
  repeat' first
    | with_reducible assumption
    | with_reducible refine Kept.fabIssue ?_
    | with_reducible refine Kept.memDone ?_
    | split

theorem Kept.answerAll {s0 s : State} {status seq suspect : Nat} {l : List (Nat × Waiter)} (h_s : Kept s0 s) :
    Kept s0 (State.answerAll s status seq suspect l) := by
  unfold Sys2Proof.Machine.State.answerAll
  exact Kept.foldl h_s (fun x x_1 x_2 => Kept.answer x_2) l

theorem Kept.statistics {s0 s : State} {gk last : Nat} {timeout : Bool} (h_s : Kept s0 s) :
    Kept s0 (State.statistics s gk last timeout) := by
  unfold Sys2Proof.Machine.State.statistics
  repeat' first
    | with_reducible assumption
    | with_reducible exact id
    | (extract_lets +onlyGivenNames x; refine (fun (hx : Kept s0 x) => ?_) ?_; clear_value x; rotate_left; dsimp only [x]; clear x)
    | (extract_lets +onlyGivenNames x; clear_value x)
    | with_reducible refine Kept.judge ?_
    | with_reducible refine Kept.ite ?_ ?_
    | (rewrite [State.mk_lit]; with_reducible refine Kept.lit ?_ ?_)
    | split

theorem Kept.release {s0 s : State} {gk last : Nat} {timeout : Bool} (h_s : Kept s0 s) :
    Kept s0 (State.release s gk last timeout) := by
  unfold Sys2Proof.Machine.State.release
  repeat' first
    | with_reducible assumption
    | (extract_lets +onlyGivenNames x; refine (fun (hx : Kept s0 x) => ?_) ?_; clear_value x; rotate_left; dsimp only [x]; clear x)
    | with_reducible refine Kept.addFld ?_
    | with_reducible refine Kept.answerAll ?_
    | with_reducible refine Kept.flagFmm ?_
    | with_reducible refine Kept.standWrite ?_
    | with_reducible refine Kept.statistics ?_
    | with_reducible refine Kept.ite ?_ ?_
    | split

theorem Kept.arriveAt {s0 s : State} {h n a operand : Nat} {via : Option (Nat × Nat)} {w : Waiter} (h_s : Kept s0 s) :
    Kept s0 (State.arriveAt s h n a operand via w) := by
  unfold Sys2Proof.Machine.State.arriveAt
  repeat' first
    | with_reducible assumption
    | with_reducible exact id
    | (extract_lets +onlyGivenNames x; refine (fun (hx : Kept s0 x) => ?_) ?_; clear_value x; rotate_left; dsimp only [x]; clear x)
    | (extract_lets +onlyGivenNames x; clear_value x)
    | with_reducible refine Kept.answer ?_
    | with_reducible refine Kept.release ?_
    | with_reducible refine Kept.ite ?_ ?_
    | (rewrite [State.mk_lit]; with_reducible refine Kept.lit ?_ ?_)
    | split

theorem Kept.applyMem {s0 s : State} {n a : Nat} {o : MemOp} (h_s : Kept s0 s) : Kept s0 (State.applyMem s n a o).1 := by
  unfold Sys2Proof.Machine.State.applyMem
  repeat' first
    | with_reducible assumption
    | (extract_lets +onlyGivenNames x; refine (fun (hx : Kept s0 x) => ?_) ?_; clear_value x; rotate_left; dsimp only [x]; clear x)
    | (extract_lets +onlyGivenNames x; clear_value x)
    | with_reducible refine Kept.addFld ?_
    | with_reducible refine Kept.putBytes ?_
    | with_reducible refine Kept.standRead ?_
    | with_reducible refine Kept.ite1 ?_ ?_
    | with_reducible refine Kept.snd ?_ (by with_reducible assumption)
    | split

theorem Kept.applyAll {s0 s : State} {n base : Nat} {ops : List MemOp} (h_s : Kept s0 s) :
    Kept s0 (State.applyAll s n base ops).1 := by
  unfold Sys2Proof.Machine.State.applyAll
  repeat' first
    | with_reducible assumption
    | with_reducible exact id
    | (extract_lets +onlyGivenNames x; clear_value x)
    | with_reducible refine Kept.applyMem ?_
    | with_reducible refine Kept.foldl1 ?_ (fun _ _ _ => ?_) _
    | (rewrite [State.mk_lit]; with_reducible refine Kept.lit ?_ ?_)

theorem Kept.translate {s0 s : State} {h n faddr : Nat} (h_s : Kept s0 s) : Kept s0 (State.translate s h n faddr).1 := by
  unfold Sys2Proof.Machine.State.translate
  exact Kept.searched h_s

theorem Kept.sendPack {s0 s : State} {p : Pack} (h_s : Kept s0 s) : Kept s0 (State.sendPack s p) := by
  unfold Sys2Proof.Machine.State.sendPack
  exact Kept.fabIssue (Kept.lit h_s id)

theorem Kept.coalesce {s0 s : State} {p : Pack} {o : MemOp} (h_s : Kept s0 s) : Kept s0 (State.coalesce s p o) := by
  unfold Sys2Proof.Machine.State.coalesce
  repeat' first
    | with_reducible assumption
    | with_reducible exact id
    | (extract_lets +onlyGivenNames x; refine (fun (hx : Kept s0 x) => ?_) ?_; clear_value x; rotate_left; dsimp only [x]; clear x)
    | (extract_lets +onlyGivenNames x; clear_value x)
    | with_reducible refine Kept.fabIssue ?_
    | with_reducible refine Kept.sendPack ?_
    | with_reducible refine Kept.ite ?_ ?_
    | (rewrite [State.mk_lit]; with_reducible refine Kept.lit ?_ ?_)
    | split

theorem Kept.localMem {s0 s : State} {n : Nat} {e : RemoteEntry} {o : MemOp} (h_s : Kept s0 s) :
    Kept s0 (State.localMem s n e o) := by
  unfold Sys2Proof.Machine.State.localMem
  repeat' first
    | with_reducible assumption
    | (extract_lets +onlyGivenNames x; clear_value x)
    | with_reducible refine Kept.addFld ?_
    | with_reducible refine Kept.applyMem ?_
    | with_reducible refine Kept.arriveAt ?_
    | with_reducible refine Kept.memDone ?_
    | with_reducible refine Kept.ite ?_ ?_

theorem Kept.issueMem {s0 s : State} {h n : Nat} {o : MemOp} (h_s : Kept s0 s) : Kept s0 (State.issueMem s h n o) := by
  unfold Sys2Proof.Machine.State.issueMem
  repeat' first
    | with_reducible assumption
    | (extract_lets +onlyGivenNames x; refine (fun (hx : Kept s0 x) => ?_) ?_; clear_value x; rotate_left; dsimp only [x]; clear x)
    | (extract_lets +onlyGivenNames x; clear_value x)
    | with_reducible refine Kept.addFld ?_
    | with_reducible refine Kept.coalesce ?_
    | with_reducible refine Kept.localMem ?_
    | with_reducible refine Kept.memDone ?_
    | with_reducible refine Kept.translate ?_
    | with_reducible refine Kept.ite ?_ ?_
    | with_reducible refine Kept.fst ?_ (by with_reducible assumption)
    | split

theorem Kept.vfabric {s0 s : State} {v : Nat} {i : VWord} {opc dst : Nat} {uses : List Nat} (h_s : Kept s0 s) :
    Kept s0 (State.vfabric s v i opc dst uses) := by
  unfold Sys2Proof.Machine.State.vfabric
  repeat' first
    | with_reducible assumption
    | intro _
    | (extract_lets +onlyGivenNames x; clear_value x)
    | with_reducible refine Kept.illegal ?_
    | with_reducible refine Kept.issueMem ?_
    | with_reducible refine Kept.setTask ?_
    | with_reducible refine Kept.vrun ?_ ?_
    | with_reducible refine Kept.ite ?_ ?_

end Sys2Proof.Machine
end

