-- ==== Sys2Proof/Laws/KeptLayer.lean ====
section
/-! SUPPORT. Every operation of layer programs, the canopy, intake and Sapway as a sender keeps the queue, the canonical form of memory and burnt fuses
(`Kept`): one lemma for each. -/

namespace Sys2Proof.Machine

open Sys2Proof

set_option linter.unusedVariables false
set_option linter.tactic.unusedName false

theorem Kept.writePosition {s0 s : State} {n d g p a : Nat} {bs : List Byte} (h_s : Kept s0 s) :
    Kept s0 (State.writePosition s n d g p a bs) := by
  unfold Sys2Proof.Machine.State.writePosition
  exact Kept.foldl h_s (fun x x_1 x_2 => Kept.lit x_2 (Mem.putList_kept id)) (List.filter (fun x => x % g == p) (s.dieClusters n d))

theorem Kept.runBlock {s0 s : State} {n die : Nat} {o : MatmulOp} {d : Wsd} {sl b : Nat} {jobs : List RowJob}
    {segs : List (List (List Num))} (h_s : Kept s0 s) :
    Kept s0 (State.runBlock s n die o d sl b jobs segs) := by
  unfold Sys2Proof.Machine.State.runBlock
  repeat' first
    | with_reducible assumption
    | (extract_lets +onlyGivenNames x; clear_value x)
    | with_reducible refine Kept.writePosition ?_
    | with_reducible refine Kept.foldl ?_ (fun _ _ _ => ?_) _

theorem Kept.countPasses {s0 s : State} {n c wf v : Nat} (h_s : Kept s0 s) : Kept s0 (State.countPasses s n c wf v) := by
  unfold Sys2Proof.Machine.State.countPasses
  repeat' first
    | with_reducible assumption
    | (extract_lets +onlyGivenNames x; clear_value x)
    | with_reducible refine Kept.account ?_
    | with_reducible refine Kept.addFld ?_
    | with_reducible refine Kept.draw ?_

theorem Kept.countStreamed {s0 s : State} {n : Nat} {d : Wsd} {sl b rounds : Nat} (h_s : Kept s0 s) :
    Kept s0 (State.countStreamed s n d sl b rounds) := by
  unfold Sys2Proof.Machine.State.countStreamed
  repeat' first
    | with_reducible assumption
    | (extract_lets +onlyGivenNames x; clear_value x)
    | with_reducible refine Kept.addFld ?_
    | with_reducible refine Kept.ite ?_ ?_

theorem Kept.flagMxc {s0 s : State} {f : Field} {c : Nat} {st : Step} {op wsd : Nat} (h_s : Kept s0 s) :
    Kept s0 (State.flagMxc s f c st op wsd) := by
  unfold Sys2Proof.Machine.State.flagMxc
  exact Kept.flagError h_s fun x0 a => Kept.setReg a

theorem Kept.weightPoisoned {s0 s : State} {n c : Nat} {st : Step} {op wsd : Nat} {p : WeightPoison}
    (h_s : Kept s0 s) :
    Kept s0 (State.weightPoisoned s n c st op wsd p) := by
  unfold Sys2Proof.Machine.State.weightPoisoned
  repeat' first
    | with_reducible assumption
    | (extract_lets +onlyGivenNames x; refine (fun (hx : Kept s0 x) => ?_) ?_; clear_value x; rotate_left; dsimp only [x]; clear x)
    | with_reducible refine Kept.abandon ?_
    | with_reducible refine Kept.flagMxc ?_
    | with_reducible refine Kept.poisonEntry ?_
    | with_reducible refine Kept.updStand ?_
    | split

theorem Kept.streamDie {s0 s : State} {n die sl : Nat} {st : Step} {op : Nat} {o : MatmulOp} {d : Wsd}
    {rounds : Nat} {jobs : Nat → List RowJob} (h_s : Kept s0 s) :
    Kept s0 (State.streamDie s n die sl st op o d rounds jobs).1 := by
  unfold Sys2Proof.Machine.State.streamDie
  repeat' first
    | with_reducible assumption
    | (extract_lets +onlyGivenNames x; refine (fun (hx : Kept s0 x) => ?_) ?_; clear_value x; rotate_left; dsimp only [x]; clear x)
    | (extract_lets +onlyGivenNames x; clear_value x)
    | with_reducible refine Kept.countPasses ?_
    | with_reducible refine Kept.countStreamed ?_
    | with_reducible refine Kept.event ?_
    | with_reducible refine Kept.flagMxc ?_
    | with_reducible refine Kept.runBlock ?_
    | with_reducible refine Kept.weightPoisoned ?_
    | with_reducible refine Kept.ite ?_ ?_
    | with_reducible refine Kept.ite1 ?_ ?_
    | with_reducible refine Kept.foldl ?_ (fun _ _ _ => ?_) _
    | with_reducible refine Kept.foldl1 ?_ (fun _ _ _ => ?_) _
    | split

theorem Kept.runMatmul {s0 s : State} {n : Nat} {st : Step} {op : Nat} {o : MatmulOp} (h_s : Kept s0 s) :
    Kept s0 (State.runMatmul s n st op o).1 := by
  unfold Sys2Proof.Machine.State.runMatmul
  repeat' first
    | with_reducible assumption
    | (extract_lets +onlyGivenNames x; clear_value x)
    | with_reducible refine Kept.abandon ?_
    | with_reducible refine Kept.streamDie ?_
    | with_reducible refine Kept.ite1 ?_ ?_
    | with_reducible refine Kept.foldl1 ?_ (fun _ _ _ => ?_) _
    | split

theorem Kept.reduceScatter {s0 s : State} {n g : Nat} {o : LinkOp} (h_s : Kept s0 s) :
    Kept s0 (State.reduceScatter s n g o) := by
  unfold Sys2Proof.Machine.State.reduceScatter
  repeat' first
    | with_reducible assumption
    | (extract_lets +onlyGivenNames x; clear_value x)
    | with_reducible refine Kept.writePosition ?_
    | with_reducible refine Kept.foldl ?_ (fun _ _ _ => ?_) _

theorem Kept.allGather {s0 s : State} {n g : Nat} {o : LinkOp} (h_s : Kept s0 s) : Kept s0 (State.allGather s n g o) := by
  unfold Sys2Proof.Machine.State.allGather
  repeat' first
    | with_reducible assumption
    | (extract_lets +onlyGivenNames x; clear_value x)
    | with_reducible refine Kept.writePosition ?_
    | with_reducible refine Kept.foldl ?_ (fun _ _ _ => ?_) _

theorem Kept.checkpoint {s0 s : State} {n : Nat} (h_s : Kept s0 s) : Kept s0 (State.checkpoint s n) := by
  unfold Sys2Proof.Machine.State.checkpoint
  repeat' first
    | with_reducible assumption
    | (extract_lets +onlyGivenNames x; clear_value x)
    | with_reducible refine Kept.eventOf ?_
    | with_reducible refine Kept.ite ?_ ?_
    | with_reducible refine Kept.foldl ?_ (fun _ _ _ => ?_) _

theorem Kept.startOp {s0 s : State} {n cls op : Nat} {f : Step → Nat → List Byte → State → State}
    (h_s : Kept s0 s) (h_f : ∀ x0 x1 x2 x3, Kept s0 x3 → Kept s0 (f x0 x1 x2 x3)) :
    Kept s0 (State.startOp s n cls op f) := by
  unfold Sys2Proof.Machine.State.startOp
  repeat' first
    | with_reducible assumption
    | with_reducible refine Kept.updStep ?_
    | with_reducible refine h_f _ _ _ _ ?_
    | with_reducible refine Kept.ite ?_ ?_
    | split

theorem Kept.completeOp {s0 s : State} {n i : Nat} (h_s : Kept s0 s) : Kept s0 (State.completeOp s n i) := by
  unfold Sys2Proof.Machine.State.completeOp
  exact Kept.updStep h_s

theorem Kept.setMxcStatus {s0 s : State} {n g log2 state : Nat} (h_s : Kept s0 s) :
    Kept s0 (State.setMxcStatus s n g log2 state) := by
  unfold Sys2Proof.Machine.State.setMxcStatus
  repeat' first
    | with_reducible assumption
    | (extract_lets +onlyGivenNames x; clear_value x)
    | with_reducible refine Kept.setFld ?_
    | with_reducible refine Kept.foldl ?_ (fun _ _ _ => ?_) _

theorem Kept.execMatmul {s0 : State} {n : Nat} {actError : Option Nat} {s : State} (h_s : Kept s0 s) :
    NextWith (execMatmul n actError s) (Kept s0) := by
  unfold Sys2Proof.Machine.execMatmul
  repeat' first
    | with_reducible assumption
    | intro _
    | (extract_lets +onlyGivenNames x; refine (fun (hx : Kept s0 x) => ?_) ?_; clear_value x; rotate_left; dsimp only [x]; clear x)
    | (extract_lets +onlyGivenNames x; clear_value x)
    | with_reducible refine Kept.abandon ?_
    | with_reducible refine Kept.flagMxc ?_
    | with_reducible refine Kept.matrixRequests ?_
    | with_reducible refine Kept.runMatmul ?_
    | with_reducible refine Kept.setMxcStatus ?_
    | with_reducible refine Kept.startOp ?_ ?_
    | with_reducible refine Kept.work ?_
    | with_reducible refine Kept.ite ?_ ?_
    | with_reducible refine Kept.foldl ?_ (fun _ _ _ => ?_) _
    | with_reducible refine Kept.next ?_
    | split

theorem Kept.execVtasks {s0 : State} {n : Nat} {s : State} (h_s : Kept s0 s) : NextWith (execVtasks n s) (Kept s0) := by
  unfold Sys2Proof.Machine.execVtasks
  repeat' first
    | with_reducible assumption
    | intro _
    | (extract_lets +onlyGivenNames x; clear_value x)
    | with_reducible refine Kept.placeAll ?_
    | with_reducible refine Kept.startOp ?_ ?_
    | with_reducible refine Kept.updStep ?_
    | with_reducible refine Kept.next ?_

theorem Kept.execReduceScatter {s0 : State} {n : Nat} {s : State} (h_s : Kept s0 s) :
    NextWith (execReduceScatter n s) (Kept s0) := by
  unfold Sys2Proof.Machine.execReduceScatter
  exact Kept.next (Kept.startOp h_s fun x0 x1 x2 x3 a => Kept.reduceScatter a)

theorem Kept.execAllGather {s0 : State} {n : Nat} {s : State} (h_s : Kept s0 s) :
    NextWith (execAllGather n s) (Kept s0) := by
  unfold Sys2Proof.Machine.execAllGather
  exact Kept.next (Kept.startOp h_s fun x0 x1 x2 x3 a => Kept.allGather a)

theorem Kept.execWait {s0 : State} {n : Nat} {s : State} (h_s : Kept s0 s) : NextWith (execWait n s) (Kept s0) := by
  unfold Sys2Proof.Machine.execWait
  exact Kept.next (Kept.startOp h_s fun x0 x1 x2 x3 a => Kept.completeOp a)

theorem Kept.execOpEnd {s0 : State} {n : Nat} {s : State} (h_s : Kept s0 s) : NextWith (execOpEnd n s) (Kept s0) := by
  unfold Sys2Proof.Machine.execOpEnd
  exact Kept.next (Kept.startOp h_s fun x0 x1 x2 x3 a => Kept.setFld (Kept.updStep (Kept.completeOp a)))

theorem Kept.execOperationComplete {s0 : State} {n i : Nat} {s : State} (h_s : Kept s0 s) :
    NextWith (execOperationComplete n i s) (Kept s0) := by
  unfold Sys2Proof.Machine.execOperationComplete
  repeat' first
    | with_reducible assumption
    | (extract_lets +onlyGivenNames x; clear_value x)
    | with_reducible refine Kept.completeOp ?_
    | with_reducible refine Kept.matrixRest ?_
    | with_reducible refine Kept.setMxcStatus ?_
    | with_reducible refine Kept.updStep ?_
    | with_reducible refine Kept.ite ?_ ?_
    | with_reducible refine Kept.next ?_
    | split

theorem Kept.setComposition {s0 s : State} {c : Composition} (h_s : Kept s0 s) : Kept s0 (State.setComposition s c) := by
  unfold Sys2Proof.Machine.State.setComposition
  exact Kept.lit h_s id

theorem Kept.activeEpoch {s0 s : State} {h tenant model cls : Nat} (h_s : Kept s0 s) :
    Kept s0 (State.activeEpoch s h tenant model cls).1 := by
  unfold Sys2Proof.Machine.State.activeEpoch
  exact Kept.searched h_s

theorem Kept.swyEventAll {s0 s : State} {stands : List Nat} {kind requestId bundleId epoch arg : Nat}
    (h_s : Kept s0 s) :
    Kept s0 (State.swyEventAll s stands kind requestId bundleId epoch arg) := by
  unfold Sys2Proof.Machine.State.swyEventAll
  exact Kept.foldl (Kept.swyEvent h_s) (fun x x_1 x_2 => Kept.swyEvent x_2) stands

theorem Kept.bindEpoch {s0 s : State} {n : Nat} {r : Request} (h_s : Kept s0 s) : Kept s0 (State.bindEpoch s n r).1 := by
  unfold Sys2Proof.Machine.State.bindEpoch
  repeat' first
    | with_reducible assumption
    | (extract_lets +onlyGivenNames x; clear_value x)
    | with_reducible refine Kept.activeEpoch ?_
    | with_reducible refine Kept.swyEventAll ?_
    | with_reducible refine Kept.ite1 ?_ ?_
    | with_reducible refine Kept.fst ?_ (by with_reducible assumption)
    | split

theorem Kept.retireOn {s0 s : State} {h : Nat} {c : Composition} {e : Epoch} (h_s : Kept s0 s) :
    Kept s0 (State.retireOn s h c e) := by
  unfold Sys2Proof.Machine.State.retireOn
  repeat' first
    | with_reducible assumption
    | (extract_lets +onlyGivenNames x; clear_value x)
    | with_reducible refine Kept.setComposition ?_
    | with_reducible refine Kept.swyEventAll ?_
    | with_reducible refine Kept.ite ?_ ?_
    | split

theorem Kept.retireEpochs {s0 s : State} (h_s : Kept s0 s) : Kept s0 (State.retireEpochs s) := by
  unfold Sys2Proof.Machine.State.retireEpochs
  exact Kept.foldl h_s (fun x x_1 x_2 => Kept.foldl x_2 (fun x x_3 x_4 => Kept.retireOn (Kept.retireOn x_4)) x_1.epochs) s.comps

theorem Kept.canopyLookup {s0 s : State} {n : Nat} {r : Request} (h_s : Kept s0 s) :
    Kept s0 (State.canopyLookup s n r).1 := by
  unfold Sys2Proof.Machine.State.canopyLookup
  repeat' first
    | with_reducible assumption
    | (extract_lets +onlyGivenNames x; refine (fun (hx : Kept s0 x) => ?_) ?_; clear_value x; rotate_left; dsimp only [x]; clear x)
    | (extract_lets +onlyGivenNames x; have : ∀ a, x a = x a := fun _ => rfl; clear this; (try dsimp only [x]); clear x)
    | (extract_lets +onlyGivenNames x; clear_value x)
    | with_reducible refine Kept.addFld ?_
    | with_reducible refine Kept.deviceCommand ?_
    | with_reducible refine Kept.updStand ?_
    | with_reducible refine Kept.ite1 ?_ ?_
    | split

theorem Kept.pinPath {s0 s : State} {n i : Nat} {up : Bool} (h_s : Kept s0 s) : Kept s0 (State.pinPath s n i up) := by
  unfold Sys2Proof.Machine.State.pinPath
  exact Kept.updStand h_s

theorem Kept.evictLeaf {s0 s : State} {n : Nat} {keep : List Nat} (h_s : Kept s0 s) {t_ : State}
    (e_ : State.evictLeaf s n keep = some t_) :
    Kept s0 t_ := by
  unfold Sys2Proof.Machine.State.evictLeaf at e_
  repeat' first
    | with_reducible assumption
    | (rewrite [Option.some.injEq] at e_; subst e_)
    | with_reducible exact Option.absurd e_
    | (split at e_)
    | dsimp only at e_
    | with_reducible refine Kept.dropNodes ?_

theorem Kept.makeRoom {s0 s : State} {n k : Nat} {keep : List Nat} {a0 : Nat} (h_s : Kept s0 s) {t_ : State}
    (e_ : State.makeRoom s n k keep a0 = some t_) :
    Kept s0 t_ := by
  induction a0 generalizing s n k keep with
  | zero =>
    unfold Sys2Proof.Machine.State.makeRoom at e_
    repeat' first
      | with_reducible assumption
      | (rewrite [Option.map_eq_some_iff] at e_; obtain ⟨_, _, rfl⟩ := e_)
      | (rewrite [Option.bind_eq_some_iff] at e_; obtain ⟨_, _, e_⟩ := e_)
      | (rewrite [Option.some.injEq] at e_; subst e_)
      | with_reducible exact Option.absurd e_
      | (split at e_)
      | dsimp only at e_
      | with_reducible exact id
      | intro _
      | (extract_lets +onlyGivenNames x; refine (fun (hx : Kept s0 x) => ?_) ?_; clear_value x; rotate_left; dsimp only [x]; clear x)
      | (extract_lets +onlyGivenNames x; refine (fun (hx : Kept s0 x.1) => ?_) ?_; clear_value x; rotate_left; dsimp only [x]; clear x)
      | (extract_lets +onlyGivenNames x; refine (fun (hx : Kept s0 x.2) => ?_) ?_; clear_value x; rotate_left; dsimp only [x]; clear x)
      | (extract_lets +onlyGivenNames x; refine (fun (hx : ∀ t, x = some t → Kept s0 t) => ?_) ?_; clear_value x; rotate_left; intro t ht; dsimp only [x] at ht; clear x)
      | (extract_lets +onlyGivenNames x; have : ∀ a, x a = x a := fun _ => rfl; clear this; (try dsimp only [x]); clear x)
      | (extract_lets +onlyGivenNames x; clear_value x)
      | with_reducible refine Kept.evictLeaf ?_ (by with_reducible assumption)
      | with_reducible refine Kept.ite ?_ ?_
      | with_reducible refine Kept.ite1 ?_ ?_
      | with_reducible refine Kept.fst ?_ (by with_reducible assumption)
      | with_reducible refine Kept.snd ?_ (by with_reducible assumption)
      | (rewrite [State.mk_lit]; with_reducible refine Kept.lit ?_ ?_)
      | with_reducible refine Kept.next ?_
      | split
      | with_reducible rfl
      | dsimp only
  | succ k ih =>
    unfold Sys2Proof.Machine.State.makeRoom at e_
    repeat' first
      | with_reducible assumption
      | (rewrite [Option.map_eq_some_iff] at e_; obtain ⟨_, _, rfl⟩ := e_)
      | (rewrite [Option.bind_eq_some_iff] at e_; obtain ⟨_, _, e_⟩ := e_)
      | (rewrite [Option.some.injEq] at e_; subst e_)
      | with_reducible exact Option.absurd e_
      | (split at e_)
      | dsimp only at e_
      | with_reducible refine ih ?_ (by with_reducible assumption)
      | with_reducible exact id
      | intro _
      | (extract_lets +onlyGivenNames x; refine (fun (hx : Kept s0 x) => ?_) ?_; clear_value x; rotate_left; dsimp only [x]; clear x)
      | (extract_lets +onlyGivenNames x; refine (fun (hx : Kept s0 x.1) => ?_) ?_; clear_value x; rotate_left; dsimp only [x]; clear x)
      | (extract_lets +onlyGivenNames x; refine (fun (hx : Kept s0 x.2) => ?_) ?_; clear_value x; rotate_left; dsimp only [x]; clear x)
      | (extract_lets +onlyGivenNames x; refine (fun (hx : ∀ t, x = some t → Kept s0 t) => ?_) ?_; clear_value x; rotate_left; intro t ht; dsimp only [x] at ht; clear x)
      | (extract_lets +onlyGivenNames x; have : ∀ a, x a = x a := fun _ => rfl; clear this; (try dsimp only [x]); clear x)
      | (extract_lets +onlyGivenNames x; clear_value x)
      | with_reducible refine Kept.evictLeaf ?_ (by with_reducible assumption)
      | with_reducible refine Kept.ite ?_ ?_
      | with_reducible refine Kept.ite1 ?_ ?_
      | with_reducible refine Kept.fst ?_ (by with_reducible assumption)
      | with_reducible refine Kept.snd ?_ (by with_reducible assumption)
      | (rewrite [State.mk_lit]; with_reducible refine Kept.lit ?_ ?_)
      | with_reducible refine Kept.next ?_
      | split
      | with_reducible rfl
      | dsimp only

theorem Kept.addNodes {s0 s : State} {n m anchor : Nat} {a0 : Option Nat} {a1 : Nat} {a2 : List (List Byte)}
    (h_s : Kept s0 s) :
    Kept s0 (State.addNodes s n m anchor a0 a1 a2) := by
  induction a2 generalizing s n m anchor a0 a1 with
  | nil =>
    unfold Sys2Proof.Machine.State.addNodes
    repeat' first
      | with_reducible assumption
      | with_reducible refine Kept.updStand ?_
      | split
  | cons b l ih =>
    unfold Sys2Proof.Machine.State.addNodes
    repeat' first
      | with_reducible assumption
      | with_reducible refine ih ?_
      | with_reducible refine Kept.updStand ?_
      | split

theorem Kept.canopyInsert {s0 s : State} {n seq : Nat} (h_s : Kept s0 s) : Kept s0 (State.canopyInsert s n seq).1 := by
  unfold Sys2Proof.Machine.State.canopyInsert
  repeat' first
    | with_reducible assumption
    | (extract_lets +onlyGivenNames x; refine (fun (hx : Kept s0 x) => ?_) ?_; clear_value x; rotate_left; dsimp only [x]; clear x)
    | (extract_lets +onlyGivenNames x; clear_value x)
    | with_reducible refine Kept.addNodes ?_
    | with_reducible refine Kept.makeRoom ?_ (by with_reducible assumption)
    | with_reducible refine Kept.noted ?_
    | with_reducible refine Kept.ite1 ?_ ?_
    | split

theorem Kept.dropAnchor {s0 s : State} {n seq : Nat} (h_s : Kept s0 s) : Kept s0 (State.dropAnchor s n seq).1 := by
  unfold Sys2Proof.Machine.State.dropAnchor
  repeat' first
    | with_reducible assumption
    | (extract_lets +onlyGivenNames x; clear_value x)
    | with_reducible refine Kept.dropNodes ?_
    | with_reducible refine Kept.ite1 ?_ ?_

theorem Kept.settleDrops {s0 s : State} {n : Nat} (h_s : Kept s0 s) : Kept s0 (State.settleDrops s n) := by
  unfold Sys2Proof.Machine.State.settleDrops
  repeat' first
    | with_reducible assumption
    | with_reducible refine Kept.dropAnchor ?_
    | with_reducible refine Kept.runDone ?_
    | with_reducible refine Kept.updStand ?_
    | with_reducible refine Kept.fst ?_ (by with_reducible assumption)
    | with_reducible refine Kept.foldl ?_ (fun _ _ _ => ?_) _
    | split

theorem Kept.unpin {s0 s : State} {n i : Nat} (h_s : Kept s0 s) : Kept s0 (State.unpin s n i) := by
  unfold Sys2Proof.Machine.State.unpin
  exact Kept.settleDrops (Kept.pinPath h_s)

theorem Kept.keepDone {s0 s : State} {n id status : Nat} (h_s : Kept s0 s) : Kept s0 (State.keepDone s n id status) := by
  unfold Sys2Proof.Machine.State.keepDone
  exact Kept.updStand h_s

theorem Kept.finish {s0 s : State} {n : Nat} {r : Request} {status : Nat} (h_s : Kept s0 s) :
    Kept s0 (State.finish s n r status) := by
  unfold Sys2Proof.Machine.State.finish
  exact Kept.retireEpochs (Kept.keepDone (Kept.updStand h_s))

theorem Kept.endWith {s0 s : State} {n : Nat} {r : Request} {status : Nat} (h_s : Kept s0 s) :
    Kept s0 (State.endWith s n r status) := by
  unfold Sys2Proof.Machine.State.endWith
  repeat' first
    | with_reducible assumption
    | (extract_lets +onlyGivenNames x; clear_value x)
    | with_reducible refine Kept.cqEntry ?_
    | with_reducible refine Kept.finish ?_

theorem Kept.endCancelled {s0 s : State} {n : Nat} {r : Request} (h_s : Kept s0 s) :
    Kept s0 (State.endCancelled s n r) := by
  unfold Sys2Proof.Machine.State.endCancelled
  repeat' first
    | with_reducible assumption
    | (extract_lets +onlyGivenNames x; refine (fun (hx : Kept s0 x) => ?_) ?_; clear_value x; rotate_left; dsimp only [x]; clear x)
    | (extract_lets +onlyGivenNames x; clear_value x)
    | with_reducible refine Kept.account ?_
    | with_reducible refine Kept.cqEntry ?_
    | with_reducible refine Kept.finish ?_

theorem Kept.flagSch {s0 s : State} {f : Field} {n seq queue status : Nat} (h_s : Kept s0 s) :
    Kept s0 (State.flagSch s f n seq queue status) := by
  unfold Sys2Proof.Machine.State.flagSch
  exact Kept.flagError h_s fun x0 a => Kept.setReg a

theorem Kept.queueRequest {s0 s : State} {n : Nat} {r : Request} (h_s : Kept s0 s) :
    Kept s0 (State.queueRequest s n r) := by
  unfold Sys2Proof.Machine.State.queueRequest
  repeat' first
    | with_reducible assumption
    | (extract_lets +onlyGivenNames x; clear_value x)
    | with_reducible refine Kept.bindEpoch ?_
    | with_reducible refine Kept.canopyLookup ?_
    | with_reducible refine Kept.kvSettle ?_
    | with_reducible refine Kept.updStand ?_
    | with_reducible refine Kept.ite1 ?_ ?_

theorem Kept.takeNew {s0 s : State} {n q : Nat} {e : List Byte} (h_s : Kept s0 s) : Kept s0 (State.takeNew s n q e) := by
  unfold Sys2Proof.Machine.State.takeNew
  repeat' first
    | with_reducible assumption
    | (extract_lets +onlyGivenNames x; clear_value x)
    | with_reducible refine Kept.cqEntry ?_
    | with_reducible refine Kept.flagSch ?_
    | with_reducible refine Kept.queueRequest ?_
    | with_reducible refine Kept.ite ?_ ?_

theorem Kept.cancelArrival {s0 s : State} {n id : Nat} (h_s : Kept s0 s) {t_ : State}
    (e_ : State.cancelArrival s n id = some t_) :
    Kept s0 t_ := by
  unfold Sys2Proof.Machine.State.cancelArrival at e_
  repeat' first
    | with_reducible assumption
    | (rewrite [Option.some.injEq] at e_; subst e_)
    | with_reducible exact Option.absurd e_
    | (split at e_)
    | with_reducible refine Kept.updStand ?_

theorem Kept.takeCancel {s0 s : State} {n q : Nat} {e : List Byte} (h_s : Kept s0 s) :
    Kept s0 (State.takeCancel s n q e) := by
  unfold Sys2Proof.Machine.State.takeCancel
  repeat' first
    | with_reducible assumption
    | (extract_lets +onlyGivenNames x; have : ∀ a, x a = x a := fun _ => rfl; clear this; (try dsimp only [x]); clear x)
    | (extract_lets +onlyGivenNames x; clear_value x)
    | with_reducible refine Kept.cancelArrival ?_ (by with_reducible assumption)
    | with_reducible refine Kept.cqEntry ?_
    | with_reducible refine Kept.endCancelled ?_
    | with_reducible refine Kept.updStand ?_
    | with_reducible refine Kept.ite ?_ ?_
    | split

theorem Kept.sqAdvance {s0 s : State} {n q : Nat} (h_s : Kept s0 s) : Kept s0 (State.sqAdvance s n q) := by
  unfold Sys2Proof.Machine.State.sqAdvance
  repeat' first
    | with_reducible assumption
    | (extract_lets +onlyGivenNames x; clear_value x)
    | with_reducible refine Kept.setFld ?_
    | with_reducible refine Kept.updStand ?_

theorem Kept.intake {s0 s : State} {n : Nat} {which : List Byte → Bool} {take : Nat → List Byte → State → State}
    (h_s : Kept s0 s) (h_take : ∀ x0 x1 x2, Kept s0 x2 → Kept s0 (take x0 x1 x2)) :
    Kept s0 (State.intake s n which take) := by
  unfold Sys2Proof.Machine.State.intake
  repeat' first
    | with_reducible assumption
    | with_reducible refine Kept.flagSch ?_
    | with_reducible refine Kept.sqAdvance ?_
    | with_reducible refine h_take _ _ _ ?_
    | with_reducible refine Kept.ite ?_ ?_
    | split

theorem Kept.execNew {s0 : State} {n : Nat} {s : State} (h_s : Kept s0 s) : NextWith (execNew n s) (Kept s0) := by
  unfold Sys2Proof.Machine.execNew
  exact Kept.next (Kept.intake h_s fun x0 x1 x2 a => Kept.takeNew a)

theorem Kept.execCancel {s0 : State} {n : Nat} {s : State} (h_s : Kept s0 s) : NextWith (execCancel n s) (Kept s0) := by
  unfold Sys2Proof.Machine.execCancel
  exact Kept.next (Kept.intake h_s fun x0 x1 x2 a => Kept.takeCancel a)

theorem Kept.execDoneRecordExpiry {s0 : State} {n id : Nat} {s : State} (h_s : Kept s0 s) :
    NextWith (execDoneRecordExpiry n id s) (Kept s0) := by
  unfold Sys2Proof.Machine.execDoneRecordExpiry
  exact Kept.next (Kept.updStand h_s)

theorem Kept.execAcctSnap {s0 : State} {f : Fn} {n v : Nat} {s : State} (h_s : Kept s0 s) :
    NextWith (execAcctSnap f n v s) (Kept s0) := by
  unfold Sys2Proof.Machine.execAcctSnap
  repeat' first
    | with_reducible assumption
    | with_reducible refine Kept.setFld ?_
    | with_reducible refine Kept.writeRow ?_ (by with_reducible assumption)
    | with_reducible refine Kept.ite ?_ ?_
    | with_reducible refine Kept.foldl ?_ (fun _ _ _ => ?_) _
    | with_reducible refine Kept.next ?_
    | split

theorem Kept.execEnergyTick {s0 : State} {n : Nat} {s : State} (h_s : Kept s0 s) :
    NextWith (execEnergyTick n s) (Kept s0) := by
  unfold Sys2Proof.Machine.execEnergyTick
  repeat' first
    | with_reducible assumption
    | (extract_lets +onlyGivenNames x; refine (fun (hx : Kept s0 x) => ?_) ?_; clear_value x; rotate_left; dsimp only [x]; clear x)
    | (extract_lets +onlyGivenNames x; have : ∀ a, x a = x a := fun _ => rfl; clear this; (try dsimp only [x]); clear x)
    | with_reducible refine Kept.account ?_
    | with_reducible refine Kept.updStand ?_
    | with_reducible refine Kept.ite ?_ ?_
    | with_reducible refine Kept.next ?_

theorem Kept.newBundleId {s0 s : State} {n : Nat} (h_s : Kept s0 s) : Kept s0 (State.newBundleId s n).1 := by
  unfold Sys2Proof.Machine.State.newBundleId
  repeat' first
    | with_reducible assumption
    | with_reducible exact id
    | (extract_lets +onlyGivenNames x; clear_value x)
    | with_reducible refine Kept.updStand ?_
    | with_reducible refine Kept.ite1 ?_ ?_
    | (rewrite [State.mk_lit]; with_reducible refine Kept.lit ?_ ?_)

theorem Kept.nonce {s0 s : State} (h_s : Kept s0 s) : Kept s0 (State.nonce s).1 := by
  unfold Sys2Proof.Machine.State.nonce
  exact Kept.lit h_s id

theorem Kept.updSapway {s0 s : State} {n : Nat} {f : Sapway → Sapway} (h_s : Kept s0 s) :
    Kept s0 (State.updSapway s n f) := by
  unfold Sys2Proof.Machine.State.updSapway
  exact Kept.updStand h_s

theorem Kept.setSending {s0 s : State} {n : Nat} {b : Sending} (h_s : Kept s0 s) : Kept s0 (State.setSending s n b) := by
  unfold Sys2Proof.Machine.State.setSending
  exact Kept.updSapway h_s

theorem Kept.dropSending {s0 s : State} {n bid : Nat} (h_s : Kept s0 s) : Kept s0 (State.dropSending s n bid) := by
  unfold Sys2Proof.Machine.State.dropSending
  exact Kept.retireEpochs (Kept.updSapway h_s)

theorem Kept.flagSwy {s0 s : State} {f : Field} {n bid : Nat} (h_s : Kept s0 s) : Kept s0 (State.flagSwy s f n bid) := by
  unfold Sys2Proof.Machine.State.flagSwy
  exact Kept.flagError h_s fun x0 a => Kept.setReg a

theorem Kept.sendControl {s0 s : State} {k : Nat} {inbox : Nat × Nat × Nat} {type attempt status bid : Nat}
    {content : List Byte} (h_s : Kept s0 s) :
    Kept s0 (State.sendControl s k inbox type attempt status bid content) := by
  unfold Sys2Proof.Machine.State.sendControl
  exact Kept.ite h_s (Kept.fabIssue h_s)

theorem Kept.sendBytes {s0 s : State} {n : Nat} {b : Sending} {off : Nat} {bs : List Byte} (h_s : Kept s0 s) :
    Kept s0 (State.sendBytes s n b off bs) := by
  unfold Sys2Proof.Machine.State.sendBytes
  repeat' first
    | with_reducible assumption
    | (extract_lets +onlyGivenNames x; refine (fun (hx : Kept s0 x) => ?_) ?_; clear_value x; rotate_left; dsimp only [x]; clear x)
    | (extract_lets +onlyGivenNames x; clear_value x)
    | with_reducible refine Kept.addFld ?_
    | with_reducible refine Kept.fabIssue ?_
    | with_reducible refine Kept.setSending ?_
    | with_reducible refine Kept.foldl ?_ (fun _ _ _ => ?_) _
    | split

theorem Kept.sendSection {s0 s : State} {n : Nat} {b : Sending} {x : Planned} {total : Nat} {clear : List Byte}
    (h_s : Kept s0 s) :
    Kept s0 (State.sendSection s n b x total clear) := by
  unfold Sys2Proof.Machine.State.sendSection
  repeat' first
    | with_reducible assumption
    | (extract_lets +onlyGivenNames x; clear_value x)
    | with_reducible refine Kept.sendBytes ?_

theorem Kept.checkDone {s0 s : State} {n bid : Nat} (h_s : Kept s0 s) : Kept s0 (State.checkDone s n bid) := by
  unfold Sys2Proof.Machine.State.checkDone
  repeat' first
    | with_reducible assumption
    | with_reducible refine Kept.sendControl ?_
    | with_reducible refine Kept.setSending ?_
    | with_reducible refine Kept.ite ?_ ?_
    | split

theorem Kept.sendAbort {s0 s : State} {b : Sending} {status : Nat} (h_s : Kept s0 s) :
    Kept s0 (State.sendAbort s b status) := by
  unfold Sys2Proof.Machine.State.sendAbort
  repeat' first
    | with_reducible assumption
    | with_reducible refine Kept.sendControl ?_
    | split

theorem Kept.sendOffer {s0 s : State} {n : Nat} {b : Sending} (h_s : Kept s0 s) : Kept s0 (State.sendOffer s n b) := by
  unfold Sys2Proof.Machine.State.sendOffer
  repeat' first
    | with_reducible assumption
    | (extract_lets +onlyGivenNames x; clear_value x)
    | with_reducible refine Kept.sendControl ?_
    | with_reducible refine Kept.setSending ?_
    | split

theorem Kept.putBundle {s0 s : State} {n bid tokens ttl : Nat} {bs : List Byte} (h_s : Kept s0 s) {t_ : State}
    (e_ : State.putBundle s n bid tokens ttl bs = some t_) :
    Kept s0 t_ := by
  unfold Sys2Proof.Machine.State.putBundle at e_
  repeat' first
    | with_reducible assumption
    | (rewrite [Option.map_eq_some_iff] at e_; obtain ⟨_, _, rfl⟩ := e_)
    | with_reducible exact id
    | with_reducible refine Mem.put_kept ?_
    | (extract_lets +onlyGivenNames x; refine (fun (hx : Kept s0 x) => ?_) ?_; clear_value x; rotate_left; dsimp only [x]; clear x)
    | with_reducible refine Kept.updSapway ?_
    | with_reducible refine Kept.foldl ?_ (fun _ _ _ => ?_) _
    | (rewrite [State.mk_lit]; with_reducible refine Kept.lit ?_ ?_)

theorem Kept.keepDormant {s0 s : State} {n tier ttl : Nat} {b : Sending} (h_s : Kept s0 s) :
    Kept s0 (State.keepDormant s n tier ttl b).1 := by
  unfold Sys2Proof.Machine.State.keepDormant
  repeat' first
    | with_reducible assumption
    | (extract_lets +onlyGivenNames x; clear_value x)
    | with_reducible refine Kept.putBundle ?_ (by with_reducible assumption)
    | with_reducible refine Kept.ite1 ?_ ?_
    | split

theorem Kept.releaseSeq {s0 s : State} {n seq : Nat} (h_s : Kept s0 s) : Kept s0 (State.releaseSeq s n seq) := by
  unfold Sys2Proof.Machine.State.releaseSeq
  exact Kept.kvSettle (Kept.deviceCommand h_s)

theorem Kept.swyResult {s0 s : State} {n i result : Nat} (h_s : Kept s0 s) : Kept s0 (State.swyResult s n i result) := by
  unfold Sys2Proof.Machine.State.swyResult
  exact Kept.runDone (Kept.ite (Kept.flagSwy h_s) h_s)

theorem Kept.writeBundleId {s0 s : State} {n i bid : Nat} (h_s : Kept s0 s) : Kept s0 (State.writeBundleId s n i bid) := by
  unfold Sys2Proof.Machine.State.writeBundleId
  exact Kept.pokeLe h_s

theorem Kept.orphaned {s0 s : State} {n : Nat} {b : Sending} {bid holder : Nat} (h_s : Kept s0 s) :
    Kept s0 (State.orphaned s n b bid holder) := by
  unfold Sys2Proof.Machine.State.orphaned
  repeat' first
    | with_reducible assumption
    | (extract_lets +onlyGivenNames x; refine (fun (hx : Kept s0 x) => ?_) ?_; clear_value x; rotate_left; dsimp only [x]; clear x)
    | with_reducible refine Kept.addFld ?_
    | with_reducible refine Kept.flagSwy ?_
    | with_reducible refine Kept.runDone ?_
    | with_reducible refine Kept.swyEvent ?_
    | with_reducible refine Kept.writeBundleId ?_
    | split

theorem Kept.keepOrphan {s0 s : State} {n : Nat} {b : Sending} (h_s : Kept s0 s) : Kept s0 (State.keepOrphan s n b) := by
  unfold Sys2Proof.Machine.State.keepOrphan
  repeat' first
    | with_reducible assumption
    | (extract_lets +onlyGivenNames x; refine (fun (hx : Kept s0 x) => ?_) ?_; clear_value x; rotate_left; dsimp only [x]; clear x)
    | (extract_lets +onlyGivenNames x; clear_value x)
    | with_reducible refine Kept.dropSending ?_
    | with_reducible refine Kept.keepDormant ?_
    | with_reducible refine Kept.orphaned ?_
    | with_reducible refine Kept.releaseSeq ?_
    | with_reducible refine Kept.fst ?_ (by with_reducible assumption)
    | split

theorem Kept.attempt {s0 s : State} {n : Nat} {b : Sending} (h_s : Kept s0 s) : Kept s0 (State.attempt s n b) := by
  unfold Sys2Proof.Machine.State.attempt
  repeat' first
    | with_reducible assumption
    | (extract_lets +onlyGivenNames x; have : ∀ a, x a = x a := fun _ => rfl; clear this; (try dsimp only [x]); clear x)
    | (extract_lets +onlyGivenNames x; clear_value x)
    | with_reducible refine Kept.dropSending ?_
    | with_reducible refine Kept.keepOrphan ?_
    | with_reducible refine Kept.sendOffer ?_
    | with_reducible refine Kept.setSending ?_
    | with_reducible refine Kept.swyResult ?_
    | with_reducible refine Kept.ite ?_ ?_
    | split

theorem Kept.failAttempt {s0 s : State} {n : Nat} {b : Sending} {status : Nat} (h_s : Kept s0 s) :
    Kept s0 (State.failAttempt s n b status) := by
  unfold Sys2Proof.Machine.State.failAttempt
  exact Kept.attempt (Kept.sendAbort h_s)

theorem Kept.cancelMove {s0 s : State} {n : Nat} {b : Sending} {status : Nat} (h_s : Kept s0 s) :
    Kept s0 (State.cancelMove s n b status) := by
  unfold Sys2Proof.Machine.State.cancelMove
  exact Kept.dropSending (Kept.sendAbort h_s)

theorem Kept.loseMove {s0 s : State} {n : Nat} {b : Sending} (h_s : Kept s0 s) : Kept s0 (State.loseMove s n b) := by
  unfold Sys2Proof.Machine.State.loseMove
  repeat' first
    | with_reducible assumption
    | (extract_lets +onlyGivenNames x; refine (fun (hx : Kept s0 x) => ?_) ?_; clear_value x; rotate_left; dsimp only [x]; clear x)
    | with_reducible refine Kept.cancelMove ?_
    | with_reducible refine Kept.flagSwy ?_
    | with_reducible refine Kept.runDone ?_
    | with_reducible refine Kept.swyEvent ?_
    | split

theorem Kept.sendReady {s0 s : State} {n bid a0 : Nat} (h_s : Kept s0 s) : Kept s0 (State.sendReady s n bid a0) := by
  induction a0 generalizing s n bid with
  | zero =>
    unfold Sys2Proof.Machine.State.sendReady
    repeat' first
      | with_reducible assumption
      | (extract_lets +onlyGivenNames x; clear_value x)
      | with_reducible refine Kept.checkDone ?_
      | with_reducible refine Kept.loseMove ?_
      | with_reducible refine Kept.sendBytes ?_
      | with_reducible refine Kept.sendSection ?_
      | with_reducible refine Kept.ite ?_ ?_
      | split
  | succ k ih =>
    unfold Sys2Proof.Machine.State.sendReady
    repeat' first
      | with_reducible assumption
      | with_reducible refine ih ?_
      | (extract_lets +onlyGivenNames x; clear_value x)
      | with_reducible refine Kept.checkDone ?_
      | with_reducible refine Kept.loseMove ?_
      | with_reducible refine Kept.sendBytes ?_
      | with_reducible refine Kept.sendSection ?_
      | with_reducible refine Kept.ite ?_ ?_
      | split

theorem Kept.pushMove {s0 s : State} {n bid : Nat} (h_s : Kept s0 s) : Kept s0 (State.pushMove s n bid) := by
  unfold Sys2Proof.Machine.State.pushMove
  exact Kept.sendReady h_s

theorem Kept.sapwayDone {s0 s : State} {n tag status : Nat} (h_s : Kept s0 s) :
    Kept s0 (State.sapwayDone s n tag status) := by
  unfold Sys2Proof.Machine.State.sapwayDone
  repeat' first
    | with_reducible assumption
    | with_reducible refine Kept.checkDone ?_
    | with_reducible refine Kept.failAttempt ?_
    | with_reducible refine Kept.setSending ?_
    | with_reducible refine Kept.ite ?_ ?_
    | split

theorem Kept.startMove {s0 s : State} {n : Nat} {r : Request} {purpose : Purpose} {kind cls length : Nat}
    {final : Bool} (h_s : Kept s0 s) :
    Kept s0 (State.startMove s n r purpose kind cls length final) := by
  unfold Sys2Proof.Machine.State.startMove
  exact Kept.attempt (Kept.nonce (Kept.newBundleId h_s))

theorem Kept.startHandoff {s0 s : State} {n : Nat} {r : Request} (h_s : Kept s0 s) :
    Kept s0 (State.startHandoff s n r) := by
  unfold Sys2Proof.Machine.State.startHandoff
  exact Kept.startMove h_s

theorem Kept.startFallback {s0 s : State} {n : Nat} {r : Request} (h_s : Kept s0 s) :
    Kept s0 (State.startFallback s n r) := by
  unfold Sys2Proof.Machine.State.startFallback
  exact Kept.startMove h_s

theorem Kept.finishHandoff {s0 s : State} {n : Nat} {r : Request} (h_s : Kept s0 s) :
    Kept s0 (State.finishHandoff s n r) := by
  unfold Sys2Proof.Machine.State.finishHandoff
  repeat' first
    | with_reducible assumption
    | (extract_lets +onlyGivenNames x; refine (fun (hx : Kept s0 x) => ?_) ?_; clear_value x; rotate_left; dsimp only [x]; clear x)
    | (extract_lets +onlyGivenNames x; clear_value x)
    | with_reducible refine Kept.attempt ?_
    | with_reducible refine Kept.pushMove ?_
    | with_reducible refine Kept.setSending ?_
    | with_reducible refine Kept.ite ?_ ?_
    | split

theorem Kept.dropHandoff {s0 s : State} {n id : Nat} (h_s : Kept s0 s) : Kept s0 (State.dropHandoff s n id) := by
  unfold Sys2Proof.Machine.State.dropHandoff
  repeat' first
    | with_reducible assumption
    | with_reducible refine Kept.cancelMove ?_
    | split

theorem Kept.pushLayers {s0 s : State} {n layers : Nat} (h_s : Kept s0 s) : Kept s0 (State.pushLayers s n layers) := by
  unfold Sys2Proof.Machine.State.pushLayers
  repeat' first
    | with_reducible assumption
    | with_reducible refine Kept.pushMove ?_
    | with_reducible refine Kept.setSending ?_
    | with_reducible refine Kept.foldl ?_ (fun _ _ _ => ?_) _
    | split

theorem Kept.dormantMove {s0 s : State} {n seq ttl : Nat} {purpose : Purpose} (h_s : Kept s0 s) :
    Kept s0 (State.dormantMove s n seq ttl purpose).1 := by
  unfold Sys2Proof.Machine.State.dormantMove
  exact Kept.nonce (Kept.newBundleId h_s)

theorem Kept.suspendFull {s0 s : State} {n : Nat} {r : Request} (h_s : Kept s0 s) : Kept s0 (State.suspendFull s n r) := by
  unfold Sys2Proof.Machine.State.suspendFull
  repeat' first
    | with_reducible assumption
    | (extract_lets +onlyGivenNames x; clear_value x)
    | with_reducible refine Kept.dormantMove ?_
    | with_reducible refine Kept.keepDormant ?_
    | with_reducible refine Kept.releaseSeq ?_
    | with_reducible refine Kept.swyEvent ?_
    | with_reducible refine Kept.fst ?_ (by with_reducible assumption)
    | split

end Sys2Proof.Machine
end

