-- ==== Sys2Proof/Laws/KeptArrive.lean ====
section
/-! SUPPORT. Every operation of tiers, Sapway as a receiver and the fabric commands keeps the queue, the canonical form of memory and burnt fuses
(`Kept`): one lemma for each. -/

namespace Sys2Proof.Machine

open Sys2Proof

set_option linter.unusedVariables false
set_option linter.tactic.unusedName false

theorem Kept.tierBad {s0 s : State} {n obj : Nat} (h_s : Kept s0 s) : Kept s0 (State.tierBad s n obj) := by
  unfold Sys2Proof.Machine.State.tierBad
  repeat' first
    | with_reducible assumption
    | intro _
    | with_reducible refine Kept.flagError ?_ ?_
    | with_reducible refine Kept.tierContext ?_
    | split

theorem Kept.tierCommand {s0 s : State} {n op : Nat} {run : List Byte → State → State × Nat} (h_s : Kept s0 s)
    (h_run : ∀ x0 x1, Kept s0 x1 → Kept s0 (run x0 x1).1) :
    Kept s0 (State.tierCommand s n op run) := by
  unfold Sys2Proof.Machine.State.tierCommand
  repeat' first
    | with_reducible assumption
    | intro _
    | (extract_lets +onlyGivenNames x; have : ∀ a, x a = x a := fun _ => rfl; clear this; (try dsimp only [x]); clear x)
    | (extract_lets +onlyGivenNames x; clear_value x)
    | with_reducible refine Kept.ringCommand ?_ ?_ ?_
    | with_reducible refine Kept.tierBad ?_
    | with_reducible refine h_run _ _ ?_
    | with_reducible refine Kept.ite ?_ ?_
    | with_reducible refine Kept.ite1 ?_ ?_
    | split

theorem Kept.giveHomes {s0 s : State} {n : Nat} {o : TierObject} (h_s : Kept s0 s) : Kept s0 (State.giveHomes s n o) := by
  unfold Sys2Proof.Machine.State.giveHomes
  repeat' first
    | with_reducible assumption
    | (extract_lets +onlyGivenNames x; clear_value x)
    | with_reducible refine Kept.takeFrame ?_
    | with_reducible refine Kept.updPage ?_
    | with_reducible refine Kept.fst ?_ (by with_reducible assumption)
    | with_reducible refine Kept.foldl ?_ (fun _ _ _ => ?_) _
    | split

theorem Kept.pinPages {s0 s : State} {n : Nat} {o : TierObject} (h_s : Kept s0 s) : Kept s0 (State.pinPages s n o).1 := by
  unfold Sys2Proof.Machine.State.pinPages
  repeat' first
    | with_reducible assumption
    | (extract_lets +onlyGivenNames x; clear_value x)
    | with_reducible refine Kept.evictCopy ?_
    | with_reducible refine Kept.promoteNow ?_
    | with_reducible refine Kept.ite1 ?_ ?_
    | with_reducible refine Kept.foldl1 ?_ (fun _ _ _ => ?_) _

theorem Kept.clearT1Range {s0 s : State} {n lo hi : Nat} (h_s : Kept s0 s) : Kept s0 (State.clearT1Range s n lo hi).1 := by
  unfold Sys2Proof.Machine.State.clearT1Range
  repeat' first
    | with_reducible assumption
    | with_reducible refine Kept.evictCopy ?_
    | with_reducible refine Kept.ite1 ?_ ?_
    | with_reducible refine Kept.foldl1 ?_ (fun _ _ _ => ?_) _

theorem Kept.removeObject {s0 s : State} {n k : Nat} (h_s : Kept s0 s) : Kept s0 (State.removeObject s n k) := by
  unfold Sys2Proof.Machine.State.removeObject
  repeat' first
    | with_reducible assumption
    | (extract_lets +onlyGivenNames x; clear_value x)
    | with_reducible refine Kept.updStand ?_
    | split

theorem Kept.createObject {s0 s : State} {n k addr : Nat} (h_s : Kept s0 s) :
    Kept s0 (State.createObject s n k addr).1 := by
  unfold Sys2Proof.Machine.State.createObject
  repeat' first
    | with_reducible assumption
    | (extract_lets +onlyGivenNames x; refine (fun (hx : Kept s0 x) => ?_) ?_; clear_value x; rotate_left; dsimp only [x]; clear x)
    | (extract_lets +onlyGivenNames x; clear_value x)
    | with_reducible refine Kept.clearT1Range ?_
    | with_reducible refine Kept.giveHomes ?_
    | with_reducible refine Kept.noted ?_
    | with_reducible refine Kept.pinPages ?_
    | with_reducible refine Kept.removeObject ?_
    | with_reducible refine Kept.updStand ?_
    | with_reducible refine Kept.ite ?_ ?_
    | with_reducible refine Kept.ite1 ?_ ?_
    | split

theorem Kept.onRange {s0 s : State} {n : Nat} {e : List Byte} {run : TierObject → List Nat → State → State × Nat}
    (h_s : Kept s0 s) (h_run : ∀ x0 x1 x2, Kept s0 x2 → Kept s0 (run x0 x1 x2).1) :
    Kept s0 (State.onRange s n e run).1 := by
  unfold Sys2Proof.Machine.State.onRange
  repeat' first
    | with_reducible assumption
    | with_reducible refine h_run _ _ _ ?_
    | split

theorem Kept.overPages {s0 : State} {o : TierObject} {idx : List Nat} {s : State} {f : Nat → State → State × Nat}
    (h_s : Kept s0 s) (h_f : ∀ x0 x1, Kept s0 x1 → Kept s0 (f x0 x1).1) :
    Kept s0 (overPages o idx s f).1 := by
  unfold Sys2Proof.Machine.overPages
  repeat' first
    | with_reducible assumption
    | with_reducible refine h_f _ _ ?_
    | with_reducible refine Kept.foldl1 ?_ (fun _ _ _ => ?_) _

theorem Kept.repairPage {s0 s : State} {n p : Nat} {o : TierObject} (h_s : Kept s0 s) :
    Kept s0 (State.repairPage s n p o) := by
  unfold Sys2Proof.Machine.State.repairPage
  repeat' first
    | with_reducible assumption
    | with_reducible exact id
    | with_reducible refine Mem.forget_kept ?_
    | (extract_lets +onlyGivenNames x; have : ∀ a, x a = x a := fun _ => rfl; clear this; (try dsimp only [x]); clear x)
    | (extract_lets +onlyGivenNames x; clear_value x)
    | with_reducible refine Kept.updPage ?_
    | with_reducible refine Kept.ite ?_ ?_
    | with_reducible refine Kept.foldl ?_ (fun _ _ _ => ?_) _
    | (rewrite [State.mk_lit]; with_reducible refine Kept.lit ?_ ?_)
    | split

theorem Kept.execRepair {s0 : State} {n : Nat} {s : State} (h_s : Kept s0 s) : NextWith (execRepair n s) (Kept s0) := by
  unfold Sys2Proof.Machine.execRepair
  exact Kept.next (Kept.tierCommand h_s fun x0 x1 a => Kept.onRange a fun x0 x1 x2 a => Kept.overPages a fun x0_1 x1 a => Kept.repairPage a)

theorem Kept.loadBlock {s0 s : State} {n : Nat} {o src : TierObject} {ea b tables stored : Nat} {e : IndexEntry}
    (h_s : Kept s0 s) :
    Kept s0 (State.loadBlock s n o src ea b tables stored e) := by
  unfold Sys2Proof.Machine.State.loadBlock
  repeat' first
    | with_reducible assumption
    | (extract_lets +onlyGivenNames x; have : ∀ a, x a = x a := fun _ => rfl; clear this; (try dsimp only [x]); clear x)
    | (extract_lets +onlyGivenNames x; clear_value x)
    | with_reducible refine Kept.poisonEntry ?_
    | with_reducible refine Kept.putBytes ?_
    | with_reducible refine Kept.ite ?_ ?_
    | split

theorem Kept.loadRange {s0 s : State} {n : Nat} {o src : TierObject} {idx : List Nat} (h_s : Kept s0 s) :
    Kept s0 (State.loadRange s n o src idx).1 := by
  unfold Sys2Proof.Machine.State.loadRange
  repeat' first
    | with_reducible assumption
    | (extract_lets +onlyGivenNames x; refine (fun (hx : Kept s0 x) => ?_) ?_; clear_value x; rotate_left; dsimp only [x]; clear x)
    | (extract_lets +onlyGivenNames x; clear_value x)
    | with_reducible refine Kept.loadBlock ?_
    | with_reducible refine Kept.putBytes ?_
    | with_reducible refine Kept.ite1 ?_ ?_
    | with_reducible refine Kept.foldl ?_ (fun _ _ _ => ?_) _
    | split

theorem Kept.execTierLoad {s0 : State} {n : Nat} {s : State} (h_s : Kept s0 s) : NextWith (execTierLoad n s) (Kept s0) := by
  unfold Sys2Proof.Machine.execTierLoad
  repeat' first
    | with_reducible assumption
    | intro _
    | with_reducible refine Kept.loadRange ?_
    | with_reducible refine Kept.onRange ?_ ?_
    | with_reducible refine Kept.tierCommand ?_ ?_
    | with_reducible refine Kept.ite1 ?_ ?_
    | with_reducible refine Kept.next ?_
    | split

theorem Kept.execAgeSweep {s0 : State} {n : Nat} {s : State} (h_s : Kept s0 s) : NextWith (execAgeSweep n s) (Kept s0) := by
  unfold Sys2Proof.Machine.execAgeSweep
  exact Kept.next (Kept.updStand h_s)

theorem Kept.countError {s0 s : State} {n chan frame : Nat} (h_s : Kept s0 s) :
    Kept s0 (State.countError s n chan frame).1 := by
  unfold Sys2Proof.Machine.State.countError
  repeat' first
    | with_reducible assumption
    | (extract_lets +onlyGivenNames x; clear_value x)
    | with_reducible refine Kept.updStand ?_

theorem Kept.execMemoryUncorrectable {s0 : State} {n p u : Nat} {err : FrameError} {s : State} (h_s : Kept s0 s) :
    NextWith (execMemoryUncorrectable n p u err s) (Kept s0) := by
  unfold Sys2Proof.Machine.execMemoryUncorrectable
  repeat' first
    | with_reducible assumption
    | with_reducible refine Kept.copyMem ?_
    | with_reducible refine Kept.countError ?_
    | with_reducible refine Kept.dropCopy ?_
    | with_reducible refine Kept.failDdr ?_
    | with_reducible refine Kept.failHbm ?_
    | with_reducible refine Kept.losePage ?_
    | with_reducible refine Kept.satFld ?_
    | with_reducible refine Kept.ite ?_ ?_
    | with_reducible refine Kept.next ?_
    | split

theorem Kept.tierIssue {s0 s : State} {n : Nat} {o : TierObject} {op : FabOp} (h_s : Kept s0 s) :
    Kept s0 (State.tierIssue s n o op) := by
  unfold Sys2Proof.Machine.State.tierIssue
  exact Kept.ite (Kept.fabIssue h_s) (Kept.outcomes h_s)

theorem Kept.startTraffic {s0 s : State} {n p : Nat} {o : TierObject} (h_s : Kept s0 s) :
    Kept s0 (State.startTraffic s n p o) := by
  unfold Sys2Proof.Machine.State.startTraffic
  repeat' first
    | with_reducible assumption
    | (extract_lets +onlyGivenNames x; refine (fun (hx : Kept s0 x) => ?_) ?_; clear_value x; rotate_left; dsimp only [x]; clear x)
    | (extract_lets +onlyGivenNames x; clear_value x)
    | with_reducible refine Kept.tierIssue ?_
    | with_reducible refine Kept.updPage ?_
    | with_reducible refine Kept.foldl ?_ (fun _ _ _ => ?_) _
    | split

theorem Kept.trafficDone {s0 s : State} {n p status : Nat} (h_s : Kept s0 s) :
    Kept s0 (State.trafficDone s n p status) := by
  unfold Sys2Proof.Machine.State.trafficDone
  repeat' first
    | with_reducible assumption
    | (extract_lets +onlyGivenNames x; clear_value x)
    | with_reducible refine Kept.updPage ?_
    | split

theorem Kept.installPage {s0 s : State} {n : Nat} {p : Pool} {r : SeqRecord} {g : KvGroup} {i : Nat}
    {a : ArrivedPage} (h_s : Kept s0 s) {t_ : State} (e_ : State.installPage s n p r g i a = some t_) :
    Kept s0 t_ := by
  unfold State.installPage at e_
  dsimp only at e_
  obtain ⟨⟨u, d⟩, hu, e_⟩ := Option.bind_eq_some_iff.1 e_
  have h : Kept s0 u := by
    split at hu
    · cases hu; exact h_s
    · obtain ⟨t, _, ht⟩ := Option.map_eq_some_iff.1 hu
      cases ht
      exact Kept.foldl h_s (fun _ _ h => Kept.setHeader h) _
  clear hu
  dsimp only at e_
  split at e_
  · exact Option.absurd e_
  split at e_
  · obtain ⟨q, _, rfl⟩ := Option.map_eq_some_iff.1 e_
    exact Kept.setPt (Kept.setHeader (Kept.standWrite h))
  split at e_
  · rw [Option.some.injEq] at e_
    subst e_
    exact Kept.setPt (Kept.flagBlock (Kept.setHeader h))
  · obtain ⟨q, _, rfl⟩ := Option.map_eq_some_iff.1 e_
    exact Kept.setPt (Kept.setHeader (Kept.standWrite h))

theorem Kept.installPages {s0 s : State} {n : Nat} {p : Pool} {seq m : Nat} {l : List OpenSection}
    (h_s : Kept s0 s) {t_ : State} (e_ : State.installPages s n p seq m l = some t_) :
    Kept s0 t_ := by
  unfold Sys2Proof.Machine.State.installPages at e_
  repeat' first
    | with_reducible assumption
    | with_reducible exact Option.absurd e_
    | (split at e_)
    | dsimp only at e_
    | with_reducible refine Kept.installPage ?_ (by with_reducible assumption)
    | with_reducible refine Kept.foldlM ?_ (fun _ _ _ _ e_ => ?_) (by with_reducible assumption)

theorem Kept.setArrival {s0 s : State} {n : Nat} {a : Arrival} (h_s : Kept s0 s) : Kept s0 (State.setArrival s n a) := by
  unfold Sys2Proof.Machine.State.setArrival
  exact Kept.updSapway h_s

theorem Kept.endArrival {s0 s : State} {n : Nat} {a : Arrival} {release : Bool} (h_s : Kept s0 s) :
    Kept s0 (State.endArrival s n a release) := by
  unfold Sys2Proof.Machine.State.endArrival
  repeat' first
    | with_reducible assumption
    | (extract_lets +onlyGivenNames x; refine (fun (hx : Kept s0 x) => ?_) ?_; clear_value x; rotate_left; dsimp only [x]; clear x)
    | with_reducible refine Kept.releaseSeq ?_
    | with_reducible refine Kept.unpin ?_
    | with_reducible refine Kept.updSapway ?_
    | with_reducible refine Kept.ite ?_ ?_
    | split

theorem Kept.reply {s0 s : State} {a : Arrival} {type status : Nat} {content : List Byte} (h_s : Kept s0 s) :
    Kept s0 (State.reply s a type status content) := by
  unfold Sys2Proof.Machine.State.reply
  exact Kept.sendControl h_s

theorem Kept.tryAccept {s0 s : State} {n : Nat} {a : Arrival} (h_s : Kept s0 s) : Kept s0 (State.tryAccept s n a) := by
  unfold Sys2Proof.Machine.State.tryAccept
  repeat' first
    | with_reducible assumption
    | (extract_lets +onlyGivenNames x; have : ∀ a, x a = x a := fun _ => rfl; clear this; (try dsimp only [x]); clear x)
    | (extract_lets +onlyGivenNames x; clear_value x)
    | with_reducible refine Kept.deviceCommand ?_
    | with_reducible refine Kept.kvSettle ?_
    | with_reducible refine Kept.pinPath ?_
    | with_reducible refine Kept.reply ?_
    | with_reducible refine Kept.setArrival ?_
    | with_reducible refine Kept.ite ?_ ?_
    | split

theorem Kept.acceptMore {s0 s : State} {n : Nat} (h_s : Kept s0 s) : Kept s0 (State.acceptMore s n) := by
  unfold Sys2Proof.Machine.State.acceptMore
  repeat' first
    | with_reducible assumption
    | with_reducible refine Kept.tryAccept ?_
    | with_reducible refine Kept.foldl ?_ (fun _ _ _ => ?_) _
    | split

theorem Kept.takeOffer {s0 s : State} {n conn : Nat} {msg : List Byte} (h_s : Kept s0 s) :
    Kept s0 (State.takeOffer s n conn msg) := by
  unfold Sys2Proof.Machine.State.takeOffer
  repeat' first
    | with_reducible assumption
    | (extract_lets +onlyGivenNames x; clear_value x)
    | with_reducible refine Kept.eventOf ?_
    | with_reducible refine Kept.flagSwy ?_
    | with_reducible refine Kept.reply ?_
    | with_reducible refine Kept.tryAccept ?_
    | with_reducible refine Kept.updSapway ?_
    | with_reducible refine Kept.ite ?_ ?_

theorem Kept.commitArrival {s0 s : State} {n : Nat} {a : Arrival} {number : Nat} (h_s : Kept s0 s) :
    Kept s0 (State.commitArrival s n a number) := by
  unfold Sys2Proof.Machine.State.commitArrival
  repeat' first
    | with_reducible assumption
    | (extract_lets +onlyGivenNames x; refine (fun (hx : Kept s0 x) => ?_) ?_; clear_value x; rotate_left; dsimp only [x]; clear x)
    | with_reducible refine Kept.acceptMore ?_
    | with_reducible refine Kept.addFld ?_
    | with_reducible refine Kept.endArrival ?_
    | with_reducible refine Kept.reply ?_

theorem Kept.refuseArrival {s0 s : State} {n : Nat} {a : Arrival} {type status : Nat} (h_s : Kept s0 s) :
    Kept s0 (State.refuseArrival s n a type status) := by
  unfold Sys2Proof.Machine.State.refuseArrival
  exact Kept.acceptMore (Kept.endArrival (Kept.reply h_s))

theorem Kept.installHistory {s0 s : State} {n seq slot : Nat} {tokens : List Byte} (h_s : Kept s0 s) :
    Kept s0 (State.installHistory s n seq slot tokens) := by
  unfold Sys2Proof.Machine.State.installHistory
  exact Kept.updSapway (Kept.standWrite h_s)

theorem Kept.presentArrival {s0 s : State} {n : Nat} {a : Arrival} {h : BundleHeader} {sampler : List Byte}
    (h_s : Kept s0 s) :
    Kept s0 (State.presentArrival s n a h sampler) := by
  unfold Sys2Proof.Machine.State.presentArrival
  repeat' first
    | with_reducible assumption
    | (extract_lets +onlyGivenNames x; refine (fun (hx : Kept s0 x) => ?_) ?_; clear_value x; rotate_left; dsimp only [x]; clear x)
    | (extract_lets +onlyGivenNames x; clear_value x)
    | with_reducible refine Kept.commitArrival ?_
    | with_reducible refine Kept.queueRequest ?_
    | with_reducible refine Kept.refuseArrival ?_
    | with_reducible refine Kept.swyEvent ?_
    | with_reducible refine Kept.ite ?_ ?_

theorem Kept.installArrival {s0 s : State} {n : Nat} {a : Arrival} {b : List Byte} {l : List OpenSection}
    (h_s : Kept s0 s) :
    Kept s0 (State.installArrival s n a b l) := by
  unfold Sys2Proof.Machine.State.installArrival
  repeat' first
    | with_reducible assumption
    | (extract_lets +onlyGivenNames x; refine (fun (hx : Kept s0 x) => ?_) ?_; clear_value x; rotate_left; dsimp only [x]; clear x)
    | (extract_lets +onlyGivenNames x; clear_value x)
    | with_reducible refine Kept.commitArrival ?_
    | with_reducible refine Kept.installHistory ?_
    | with_reducible refine Kept.installPages ?_ (by with_reducible assumption)
    | with_reducible refine Kept.presentArrival ?_
    | with_reducible refine Kept.putBundle ?_ (by with_reducible assumption)
    | with_reducible refine Kept.refuseArrival ?_
    | with_reducible refine Kept.setLength ?_
    | with_reducible refine Kept.updSapway ?_
    | with_reducible refine Kept.ite ?_ ?_
    | split

theorem Kept.takeDone {s0 s : State} {n : Nat} {a : Arrival} {msg : List Byte} (h_s : Kept s0 s) :
    Kept s0 (State.takeDone s n a msg).1 := by
  unfold Sys2Proof.Machine.State.takeDone
  repeat' first
    | with_reducible assumption
    | (extract_lets +onlyGivenNames x; have : ∀ a, x a = x a := fun _ => rfl; clear this; (try dsimp only [x]); clear x)
    | (extract_lets +onlyGivenNames x; clear_value x)
    | with_reducible refine Kept.eventOf ?_
    | with_reducible refine Kept.flagSwy ?_
    | with_reducible refine Kept.installArrival ?_
    | with_reducible refine Kept.refuseArrival ?_
    | with_reducible refine Kept.ite ?_ ?_
    | with_reducible refine Kept.ite1 ?_ ?_
    | split

theorem Kept.takeAccept {s0 s : State} {n : Nat} {b : Sending} {msg : List Byte} (h_s : Kept s0 s) :
    Kept s0 (State.takeAccept s n b msg) := by
  unfold Sys2Proof.Machine.State.takeAccept
  repeat' first
    | with_reducible assumption
    | (extract_lets +onlyGivenNames x; clear_value x)
    | with_reducible refine Kept.pushMove ?_
    | with_reducible refine Kept.setSending ?_
    | with_reducible refine Kept.ite ?_ ?_

theorem Kept.takeCommitted {s0 s : State} {n : Nat} {b : Sending} {msg : List Byte} (h_s : Kept s0 s) :
    Kept s0 (State.takeCommitted s n b msg) := by
  unfold Sys2Proof.Machine.State.takeCommitted
  repeat' first
    | with_reducible assumption
    | (extract_lets +onlyGivenNames x; refine (fun (hx : Kept s0 x) => ?_) ?_; clear_value x; rotate_left; dsimp only [x]; clear x)
    | (extract_lets +onlyGivenNames x; clear_value x)
    | with_reducible refine Kept.addFld ?_
    | with_reducible refine Kept.deviceCommand ?_
    | with_reducible refine Kept.dropSending ?_
    | with_reducible refine Kept.kvSettle ?_
    | with_reducible refine Kept.orphaned ?_
    | with_reducible refine Kept.releaseSeq ?_
    | with_reducible refine Kept.runDone ?_
    | with_reducible refine Kept.swyEvent ?_
    | with_reducible refine Kept.writeBundleId ?_
    | split

theorem Kept.takeAbort {s0 s : State} {n conn bid status : Nat} (h_s : Kept s0 s) :
    Kept s0 (State.takeAbort s n conn bid status) := by
  unfold Sys2Proof.Machine.State.takeAbort
  repeat' first
    | with_reducible assumption
    | (extract_lets +onlyGivenNames x; clear_value x)
    | with_reducible refine Kept.acceptMore ?_
    | with_reducible refine Kept.endArrival ?_
    | with_reducible refine Kept.failAttempt ?_
    | with_reducible refine Kept.sendOffer ?_
    | with_reducible refine Kept.ite ?_ ?_
    | split

theorem Kept.dropMail {s0 s : State} {n : Nat} {m : Nat × List Byte} (h_s : Kept s0 s) :
    Kept s0 (State.dropMail s n m) := by
  unfold Sys2Proof.Machine.State.dropMail
  exact Kept.updSapway h_s

theorem Kept.cleanMail {s0 s : State} {n : Nat} (h_s : Kept s0 s) : Kept s0 (State.cleanMail s n) := by
  unfold Sys2Proof.Machine.State.cleanMail
  exact Kept.updSapway h_s

theorem Kept.takeMail {s0 s : State} {n type : Nat} {run : Nat → Nat → List Byte → State → State × Bool}
    (h_s : Kept s0 s) (h_run : ∀ x0 x1 x2 x3, Kept s0 x3 → Kept s0 (run x0 x1 x2 x3).1) :
    Kept s0 (State.takeMail s n type run) := by
  unfold Sys2Proof.Machine.State.takeMail
  repeat' first
    | with_reducible assumption
    | (extract_lets +onlyGivenNames x; refine (fun (hx : Kept s0 x) => ?_) ?_; clear_value x; rotate_left; dsimp only [x]; clear x)
    | with_reducible refine Kept.cleanMail ?_
    | with_reducible refine Kept.dropMail ?_
    | with_reducible refine h_run _ _ _ _ ?_
    | with_reducible refine Kept.fst ?_ (by with_reducible assumption)
    | split

theorem Kept.connLost {s0 s : State} {k : Nat} (h_s : Kept s0 s) : Kept s0 (State.connLost s k) := by
  unfold Sys2Proof.Machine.State.connLost
  repeat' first
    | with_reducible assumption
    | with_reducible exact id
    | (extract_lets +onlyGivenNames x; refine (fun (hx : Kept s0 x) => ?_) ?_; clear_value x; rotate_left; dsimp only [x]; clear x)
    | (extract_lets +onlyGivenNames x; clear_value x)
    | with_reducible refine Kept.failAttempt ?_
    | with_reducible refine Kept.swyEventAll ?_
    | with_reducible refine Kept.ite ?_ ?_
    | with_reducible refine Kept.foldl ?_ (fun _ _ _ => ?_) _
    | (rewrite [State.mk_lit]; with_reducible refine Kept.lit ?_ ?_)
    | split

theorem Kept.handDone {s0 s : State} {d : FabDone} (h_s : Kept s0 s) : Kept s0 (State.handDone s d) := by
  unfold Sys2Proof.Machine.State.handDone
  repeat' first
    | with_reducible assumption
    | with_reducible refine Kept.connLost ?_
    | with_reducible refine Kept.memDone ?_
    | with_reducible refine Kept.sapwayDone ?_
    | with_reducible refine Kept.trafficDone ?_
    | split

theorem Kept.deliverAll {s0 : State} {a0 : Nat} {a1 : State} (h_a1 : Kept s0 a1) : Kept s0 (State.deliverAll a0 a1) := by
  induction a0 generalizing a1 with
  | zero =>
    unfold Sys2Proof.Machine.State.deliverAll
    repeat' first
      | with_reducible assumption
      | with_reducible exact id
      | with_reducible refine Kept.handDone ?_
      | (rewrite [State.mk_lit]; with_reducible refine Kept.lit ?_ ?_)
      | split
  | succ k ih =>
    unfold Sys2Proof.Machine.State.deliverAll
    repeat' first
      | with_reducible assumption
      | with_reducible refine ih ?_
      | with_reducible exact id
      | with_reducible refine Kept.handDone ?_
      | (rewrite [State.mk_lit]; with_reducible refine Kept.lit ?_ ?_)
      | split

theorem Kept.deliver {s0 s : State} (h_s : Kept s0 s) : Kept s0 (State.deliver s) := by
  unfold Sys2Proof.Machine.State.deliver
  exact Kept.deliverAll h_s

theorem Kept.execPortLinkUp {s0 : State} {p : Nat} {s : State} (h_s : Kept s0 s) :
    NextWith (execPortLinkUp p s) (Kept s0) := by
  unfold Sys2Proof.Machine.execPortLinkUp
  repeat' first
    | with_reducible assumption
    | (extract_lets +onlyGivenNames x; refine (fun (hx : Kept s0 x) => ?_) ?_; clear_value x; rotate_left; dsimp only [x]; clear x)
    | with_reducible refine Kept.portTick ?_
    | with_reducible refine Kept.setFld ?_
    | with_reducible refine Kept.transmitOut ?_
    | with_reducible refine Kept.ite ?_ ?_
    | with_reducible refine Kept.foldl ?_ (fun _ _ _ => ?_) _
    | with_reducible refine Kept.next ?_

theorem Kept.execPortLinkDown {s0 : State} {p : Nat} {s : State} (h_s : Kept s0 s) :
    NextWith (execPortLinkDown p s) (Kept s0) := by
  unfold Sys2Proof.Machine.execPortLinkDown
  repeat' first
    | with_reducible assumption
    | (extract_lets +onlyGivenNames x; refine (fun (hx : Kept s0 x) => ?_) ?_; clear_value x; rotate_left; dsimp only [x]; clear x)
    | (extract_lets +onlyGivenNames x; clear_value x)
    | with_reducible refine Kept.deliver ?_
    | with_reducible refine Kept.event ?_
    | with_reducible refine Kept.portTick ?_
    | with_reducible refine Kept.retransmit ?_
    | with_reducible refine Kept.setFld ?_
    | with_reducible refine Kept.sharedFault ?_
    | with_reducible refine Kept.updPort ?_
    | with_reducible refine Kept.ite ?_ ?_
    | with_reducible refine Kept.foldl ?_ (fun _ _ _ => ?_) _
    | with_reducible refine Kept.next ?_

theorem Kept.fabRefuse {s0 s : State} {n k op result : Nat} (h_s : Kept s0 s) :
    Kept s0 (State.fabRefuse s n k op result).1 := by
  unfold Sys2Proof.Machine.State.fabRefuse
  repeat' first
    | with_reducible assumption
    | (extract_lets +onlyGivenNames x; clear_value x)
    | with_reducible refine Kept.flagFab ?_

theorem Kept.fabCommand {s0 s : State} {n op : Nat} {run : List Byte → Nat → State → State × Option Nat}
    (h_s : Kept s0 s) (h_run : ∀ x0 x1 x2, Kept s0 x2 → Kept s0 (run x0 x1 x2).1) :
    Kept s0 (State.fabCommand s n op run) := by
  unfold Sys2Proof.Machine.State.fabCommand
  repeat' first
    | with_reducible assumption
    | intro _
    | with_reducible refine Kept.deliver ?_
    | with_reducible refine Kept.fabRefuse ?_
    | with_reducible refine Kept.runCommand ?_ ?_ ?_

theorem Kept.execOpen {s0 : State} {n : Nat} {s : State} (h_s : Kept s0 s) : NextWith (execOpen n s) (Kept s0) := by
  unfold Sys2Proof.Machine.execOpen
  repeat' first
    | with_reducible assumption
    | with_reducible exact id
    | intro _
    | (extract_lets +onlyGivenNames x; refine (fun (hx : Kept s0 x) => ?_) ?_; clear_value x; rotate_left; dsimp only [x]; clear x)
    | (extract_lets +onlyGivenNames x; clear_value x)
    | with_reducible refine Kept.event ?_
    | with_reducible refine Kept.fabCommand ?_ ?_
    | with_reducible refine Kept.fabRefuse ?_
    | with_reducible refine Kept.noted ?_
    | with_reducible refine Kept.pokeLe ?_
    | with_reducible refine Kept.ite1 ?_ ?_
    | (rewrite [State.mk_lit]; with_reducible refine Kept.lit ?_ ?_)
    | with_reducible refine Kept.next ?_
    | split

theorem Kept.execConnect {s0 : State} {n : Nat} {s : State} (h_s : Kept s0 s) : NextWith (execConnect n s) (Kept s0) := by
  unfold Sys2Proof.Machine.execConnect
  repeat' first
    | with_reducible assumption
    | intro _
    | (extract_lets +onlyGivenNames x; clear_value x)
    | with_reducible refine Kept.fabCommand ?_ ?_
    | with_reducible refine Kept.fabRefuse ?_
    | with_reducible refine Kept.updConn ?_
    | with_reducible refine Kept.ite1 ?_ ?_
    | with_reducible refine Kept.next ?_
    | split

theorem Kept.execClose {s0 : State} {n : Nat} {s : State} (h_s : Kept s0 s) : NextWith (execClose n s) (Kept s0) := by
  unfold Sys2Proof.Machine.execClose
  repeat' first
    | with_reducible assumption
    | intro _
    | (extract_lets +onlyGivenNames x; clear_value x)
    | with_reducible refine Kept.fabCommand ?_ ?_
    | with_reducible refine Kept.fabRefuse ?_
    | with_reducible refine Kept.freeConn ?_
    | with_reducible refine Kept.outcomes ?_
    | with_reducible refine Kept.updConn ?_
    | with_reducible refine Kept.ite1 ?_ ?_
    | with_reducible refine Kept.next ?_
    | split

theorem Kept.reuse {s0 s : State} {n die key : Nat} {r : Region} (h_s : Kept s0 s) :
    Kept s0 (State.reuse s n die key r).1 := by
  unfold Sys2Proof.Machine.State.reuse
  repeat' first
    | with_reducible assumption
    | with_reducible exact id
    | (extract_lets +onlyGivenNames x; clear_value x)
    | with_reducible refine Kept.ite1 ?_ ?_
    | (rewrite [State.mk_lit]; with_reducible refine Kept.lit ?_ ?_)
    | split

theorem Kept.execRegister {s0 : State} {n : Nat} {s : State} (h_s : Kept s0 s) : NextWith (execRegister n s) (Kept s0) := by
  unfold Sys2Proof.Machine.execRegister
  repeat' first
    | with_reducible assumption
    | intro _
    | (extract_lets +onlyGivenNames x; refine (fun (hx : Kept s0 x) => ?_) ?_; clear_value x; rotate_left; dsimp only [x]; clear x)
    | (extract_lets +onlyGivenNames x; clear_value x)
    | with_reducible refine Kept.fabCommand ?_ ?_
    | with_reducible refine Kept.fabRefuse ?_
    | with_reducible refine Kept.noted ?_
    | with_reducible refine Kept.pokeLe ?_
    | with_reducible refine Kept.register ?_
    | with_reducible refine Kept.reuse ?_
    | with_reducible refine Kept.ite1 ?_ ?_
    | with_reducible refine Kept.fst ?_ (by with_reducible assumption)
    | with_reducible refine Kept.next ?_
    | split

theorem Kept.execRevoke {s0 : State} {n : Nat} {s : State} (h_s : Kept s0 s) : NextWith (execRevoke n s) (Kept s0) := by
  unfold Sys2Proof.Machine.execRevoke
  repeat' first
    | with_reducible assumption
    | intro _
    | with_reducible refine Kept.fabCommand ?_ ?_
    | with_reducible refine Kept.fabRefuse ?_
    | with_reducible refine Kept.revoke ?_
    | with_reducible refine Kept.next ?_
    | split

theorem Kept.execRevokeDrainEnd {s0 : State} {idx : Nat} {s : State} (h_s : Kept s0 s) :
    NextWith (execRevokeDrainEnd idx s) (Kept s0) := by
  unfold Sys2Proof.Machine.execRevokeDrainEnd
  repeat' first
    | with_reducible assumption
    | with_reducible refine Kept.endDrain ?_
    | with_reducible refine Kept.next ?_

theorem Kept.execPacketSend {s0 : State} {k : Nat} {s : State} (h_s : Kept s0 s) :
    NextWith (execPacketSend k s) (Kept s0) := by
  unfold Sys2Proof.Machine.execPacketSend
  repeat' first
    | with_reducible assumption
    | with_reducible refine Kept.deliver ?_
    | with_reducible refine Kept.sendNext ?_
    | with_reducible refine Kept.next ?_

theorem Kept.execAckDelayExpiry {s0 : State} {k : Nat} {s : State} (h_s : Kept s0 s) :
    NextWith (execAckDelayExpiry k s) (Kept s0) := by
  unfold Sys2Proof.Machine.execAckDelayExpiry
  repeat' first
    | with_reducible assumption
    | with_reducible refine Kept.ackNow ?_
    | with_reducible refine Kept.next ?_

theorem Kept.execRetransmitTimeout {s0 : State} {k : Nat} {s : State} (h_s : Kept s0 s) :
    NextWith (execRetransmitTimeout k s) (Kept s0) := by
  unfold Sys2Proof.Machine.execRetransmitTimeout
  repeat' first
    | with_reducible assumption
    | (extract_lets +onlyGivenNames x; refine (fun (hx : Kept s0 x) => ?_) ?_; clear_value x; rotate_left; dsimp only [x]; clear x)
    | with_reducible refine Kept.deliver ?_
    | with_reducible refine Kept.freeConn ?_
    | with_reducible refine Kept.retransmit ?_
    | with_reducible refine Kept.updConn ?_
    | with_reducible refine Kept.ite ?_ ?_
    | with_reducible refine Kept.next ?_
    | split

theorem Kept.execCoalesceExpiry {s0 : State} {i : Nat} {s : State} (h_s : Kept s0 s) :
    NextWith (execCoalesceExpiry i s) (Kept s0) := by
  unfold Sys2Proof.Machine.execCoalesceExpiry
  repeat' first
    | with_reducible assumption
    | with_reducible refine Kept.deliver ?_
    | with_reducible refine Kept.sendPack ?_
    | with_reducible refine Kept.next ?_
    | split

theorem Kept.wrote {s0 s : State} {k : Nat} {c : Conn} {idx off : Nat} {bs : List Byte} (h_s : Kept s0 s) :
    Kept s0 (State.wrote s k c idx off bs) := by
  unfold Sys2Proof.Machine.State.wrote
  repeat' first
    | with_reducible assumption
    | (extract_lets +onlyGivenNames x; refine (fun (hx : Kept s0 x) => ?_) ?_; clear_value x; rotate_left; dsimp only [x]; clear x)
    | with_reducible refine Kept.updSapway ?_
    | with_reducible refine Kept.ite ?_ ?_
    | split

theorem Kept.execWrite {s0 : State} {p : Nat} {f : FabFrame} {s : State} (h_s : Kept s0 s) :
    NextWith (execWrite p f s) (Kept s0) := by
  unfold Sys2Proof.Machine.execWrite
  repeat' first
    | with_reducible assumption
    | intro _
    | (extract_lets +onlyGivenNames x; refine (fun (hx : Kept s0 x) => ?_) ?_; clear_value x; rotate_left; dsimp only [x]; clear x)
    | (extract_lets +onlyGivenNames x; clear_value x)
    | with_reducible refine Kept.acceptPsn ?_
    | with_reducible refine Kept.deliver ?_
    | with_reducible refine Kept.putBytes ?_
    | with_reducible refine Kept.sequenced ?_ ?_
    | with_reducible refine Kept.updStand ?_
    | with_reducible refine Kept.wrote ?_
    | with_reducible refine Kept.ite ?_ ?_
    | with_reducible refine Kept.next ?_

theorem Kept.execReadReq {s0 : State} {p : Nat} {f : FabFrame} {s : State} (h_s : Kept s0 s) :
    NextWith (execReadReq p f s) (Kept s0) := by
  unfold Sys2Proof.Machine.execReadReq
  repeat' first
    | with_reducible assumption
    | intro _
    | (extract_lets +onlyGivenNames x; refine (fun (hx : Kept s0 x) => ?_) ?_; clear_value x; rotate_left; dsimp only [x]; clear x)
    | (extract_lets +onlyGivenNames x; clear_value x)
    | with_reducible refine Kept.acceptPsn ?_
    | with_reducible refine Kept.deliver ?_
    | with_reducible refine Kept.fabIssue ?_
    | with_reducible refine Kept.sequenced ?_ ?_
    | with_reducible refine Kept.ite ?_ ?_
    | with_reducible refine Kept.foldl ?_ (fun _ _ _ => ?_) _
    | with_reducible refine Kept.next ?_

theorem Kept.takeReadResp {s0 s : State} {k : Nat} {c : Conn} {r : ReadWait} {status off : Nat} {text : List Byte}
    (h_s : Kept s0 s) :
    Kept s0 (State.takeReadResp s k c r status off text) := by
  unfold Sys2Proof.Machine.State.takeReadResp
  repeat' first
    | with_reducible assumption
    | with_reducible exact id
    | with_reducible refine Mem.putList_kept ?_
    | (extract_lets +onlyGivenNames x; refine (fun (hx : Kept s0 x) => ?_) ?_; clear_value x; rotate_left; dsimp only [x]; clear x)
    | (extract_lets +onlyGivenNames x; clear_value x)
    | with_reducible refine Kept.outcomes ?_
    | with_reducible refine Kept.standWrite ?_
    | with_reducible refine Kept.updConn ?_
    | with_reducible refine Kept.ite ?_ ?_
    | (rewrite [State.mk_lit]; with_reducible refine Kept.lit ?_ ?_)
    | split

theorem Kept.execReadResp {s0 : State} {p : Nat} {f : FabFrame} {s : State} (h_s : Kept s0 s) :
    NextWith (execReadResp p f s) (Kept s0) := by
  unfold Sys2Proof.Machine.execReadResp
  repeat' first
    | with_reducible assumption
    | intro _
    | (extract_lets +onlyGivenNames x; refine (fun (hx : Kept s0 x) => ?_) ?_; clear_value x; rotate_left; dsimp only [x]; clear x)
    | with_reducible refine Kept.acceptPsn ?_
    | with_reducible refine Kept.deliver ?_
    | with_reducible refine Kept.sequenced ?_ ?_
    | with_reducible refine Kept.takeReadResp ?_
    | with_reducible refine Kept.next ?_
    | split

theorem Kept.execAck {s0 : State} {p : Nat} {f : FabFrame} {s : State} (h_s : Kept s0 s) :
    NextWith (execAck p f s) (Kept s0) := by
  unfold Sys2Proof.Machine.execAck
  repeat' first
    | with_reducible assumption
    | (extract_lets +onlyGivenNames x; clear_value x)
    | with_reducible refine Kept.applyAck ?_
    | with_reducible refine Kept.deliver ?_
    | with_reducible refine Kept.receive ?_
    | with_reducible refine Kept.fst ?_ (by with_reducible assumption)
    | with_reducible refine Kept.foldl ?_ (fun _ _ _ => ?_) _
    | with_reducible refine Kept.next ?_
    | split

theorem Kept.execMemReq {s0 : State} {p : Nat} {f : FabFrame} {s : State} (h_s : Kept s0 s) :
    NextWith (execMemReq p f s) (Kept s0) := by
  unfold Sys2Proof.Machine.execMemReq
  repeat' first
    | with_reducible assumption
    | intro _
    | (extract_lets +onlyGivenNames x; clear_value x)
    | with_reducible refine Kept.acceptPsn ?_
    | with_reducible refine Kept.addFld ?_
    | with_reducible refine Kept.applyAll ?_
    | with_reducible refine Kept.applyMem ?_
    | with_reducible refine Kept.arriveAt ?_
    | with_reducible refine Kept.deliver ?_
    | with_reducible refine Kept.fabIssue ?_
    | with_reducible refine Kept.sequenced ?_ ?_
    | with_reducible refine Kept.ite ?_ ?_
    | with_reducible refine Kept.next ?_
    | split

theorem Kept.execMemResp {s0 : State} {p : Nat} {f : FabFrame} {s : State} (h_s : Kept s0 s) :
    NextWith (execMemResp p f s) (Kept s0) := by
  unfold Sys2Proof.Machine.execMemResp
  repeat' first
    | with_reducible assumption
    | intro _
    | (extract_lets +onlyGivenNames x; refine (fun (hx : Kept s0 x) => ?_) ?_; clear_value x; rotate_left; dsimp only [x]; clear x)
    | with_reducible refine Kept.acceptPsn ?_
    | with_reducible refine Kept.deliver ?_
    | with_reducible refine Kept.outcomes ?_
    | with_reducible refine Kept.sequenced ?_ ?_
    | with_reducible refine Kept.updConn ?_
    | with_reducible refine Kept.next ?_
    | split

theorem Kept.execFrameUnclassified {s0 : State} {p : Nat} {f : FabFrame} {s : State} (h_s : Kept s0 s) :
    NextWith (execFrameUnclassified p f s) (Kept s0) := by
  unfold Sys2Proof.Machine.execFrameUnclassified
  repeat' first
    | with_reducible assumption
    | (extract_lets +onlyGivenNames x; refine (fun (hx : Kept s0 x) => ?_) ?_; clear_value x; rotate_left; dsimp only [x]; clear x)
    | (extract_lets +onlyGivenNames x; clear_value x)
    | with_reducible refine Kept.addFld ?_
    | with_reducible refine Kept.classify ?_
    | with_reducible refine Kept.rxDrop ?_
    | with_reducible refine Kept.ite ?_ ?_
    | with_reducible refine Kept.next ?_

theorem Kept.execFld {s0 : State} {v : Nat} {i : VWord} {s : State} (h_s : Kept s0 s) :
    NextWith (execFld v i s) (Kept s0) := by
  unfold Sys2Proof.Machine.execFld
  repeat' first
    | with_reducible assumption
    | with_reducible refine Kept.deliver ?_
    | with_reducible refine Kept.vfabric ?_
    | with_reducible refine Kept.next ?_

theorem Kept.execFst {s0 : State} {v : Nat} {i : VWord} {s : State} (h_s : Kept s0 s) :
    NextWith (execFst v i s) (Kept s0) := by
  unfold Sys2Proof.Machine.execFst
  repeat' first
    | with_reducible assumption
    | with_reducible refine Kept.deliver ?_
    | with_reducible refine Kept.vfabric ?_
    | with_reducible refine Kept.next ?_

theorem Kept.execFatom {s0 : State} {v : Nat} {i : VWord} {s : State} (h_s : Kept s0 s) :
    NextWith (execFatom v i s) (Kept s0) := by
  unfold Sys2Proof.Machine.execFatom
  repeat' first
    | with_reducible assumption
    | with_reducible refine Kept.deliver ?_
    | with_reducible refine Kept.vfabric ?_
    | with_reducible refine Kept.next ?_

theorem Kept.execFence {s0 : State} {v : Nat} {i : VWord} {s : State} (h_s : Kept s0 s) :
    NextWith (execFence v i s) (Kept s0) := by
  unfold Sys2Proof.Machine.execFence
  repeat' first
    | with_reducible assumption
    | intro _
    | with_reducible refine Kept.setTask ?_
    | with_reducible refine Kept.settleFence ?_
    | with_reducible refine Kept.vrun ?_ ?_
    | with_reducible refine Kept.next ?_

theorem Kept.fmmRefuse {s0 s : State} {n faddr result : Nat} (h_s : Kept s0 s) :
    Kept s0 (State.fmmRefuse s n faddr result).1 := by
  unfold Sys2Proof.Machine.State.fmmRefuse
  repeat' first
    | with_reducible assumption
    | with_reducible refine Kept.flagFmm ?_

theorem Kept.fmmCommand {s0 s : State} {n op : Nat} {run : List Byte → Nat → State → State × Option Nat}
    (h_s : Kept s0 s) (h_run : ∀ x0 x1 x2, Kept s0 x2 → Kept s0 (run x0 x1 x2).1) :
    Kept s0 (State.fmmCommand s n op run) := by
  unfold Sys2Proof.Machine.State.fmmCommand
  repeat' first
    | with_reducible assumption
    | intro _
    | with_reducible refine Kept.deliver ?_
    | with_reducible refine Kept.fmmRefuse ?_
    | with_reducible refine Kept.runCommand ?_ ?_ ?_
    | with_reducible refine Kept.ite ?_ ?_

theorem Kept.fmmMem {s0 s : State} {n opc : Nat} {e : List Byte} {i : Nat} (h_s : Kept s0 s) :
    Kept s0 (State.fmmMem s n opc e i).1 := by
  unfold Sys2Proof.Machine.State.fmmMem
  repeat' first
    | with_reducible assumption
    | (extract_lets +onlyGivenNames x; have : ∀ a, x a = x a := fun _ => rfl; clear this; (try dsimp only [x]); clear x)
    | (extract_lets +onlyGivenNames x; clear_value x)
    | with_reducible refine Kept.fmmRefuse ?_
    | with_reducible refine Kept.issueMem ?_
    | with_reducible refine Kept.standRead ?_
    | with_reducible refine Kept.updStand ?_
    | with_reducible refine Kept.ite1 ?_ ?_
    | with_reducible refine Kept.snd ?_ (by with_reducible assumption)
    | split

theorem Kept.execFmmLoad {s0 : State} {n : Nat} {s : State} (h_s : Kept s0 s) : NextWith (execFmmLoad n s) (Kept s0) := by
  unfold Sys2Proof.Machine.execFmmLoad
  repeat' first
    | with_reducible assumption
    | intro _
    | with_reducible refine Kept.fmmCommand ?_ ?_
    | with_reducible refine Kept.fmmMem ?_
    | with_reducible refine Kept.next ?_

theorem Kept.execFmmStore {s0 : State} {n : Nat} {s : State} (h_s : Kept s0 s) : NextWith (execFmmStore n s) (Kept s0) := by
  unfold Sys2Proof.Machine.execFmmStore
  repeat' first
    | with_reducible assumption
    | intro _
    | with_reducible refine Kept.fmmCommand ?_ ?_
    | with_reducible refine Kept.fmmMem ?_
    | with_reducible refine Kept.next ?_

theorem Kept.execFmmAtomic {s0 : State} {n : Nat} {s : State} (h_s : Kept s0 s) :
    NextWith (execFmmAtomic n s) (Kept s0) := by
  unfold Sys2Proof.Machine.execFmmAtomic
  repeat' first
    | with_reducible assumption
    | intro _
    | with_reducible refine Kept.fmmCommand ?_ ?_
    | with_reducible refine Kept.fmmMem ?_
    | with_reducible refine Kept.next ?_

theorem Kept.execFmmFence {s0 : State} {n : Nat} {s : State} (h_s : Kept s0 s) : NextWith (execFmmFence n s) (Kept s0) := by
  unfold Sys2Proof.Machine.execFmmFence
  repeat' first
    | with_reducible assumption
    | intro _
    | with_reducible refine Kept.fmmCommand ?_ ?_
    | with_reducible refine Kept.settleQueue ?_
    | with_reducible refine Kept.updStand ?_
    | with_reducible refine Kept.next ?_

theorem Kept.countMap {s0 s : State} {n : Nat} (h_s : Kept s0 s) : Kept s0 (State.countMap s n) := by
  unfold Sys2Proof.Machine.State.countMap
  repeat' first
    | with_reducible assumption
    | with_reducible refine Kept.setFld ?_

theorem Kept.execMap {s0 : State} {n : Nat} {s : State} (h_s : Kept s0 s) : NextWith (execMap n s) (Kept s0) := by
  unfold Sys2Proof.Machine.execMap
  repeat' first
    | with_reducible assumption
    | intro _
    | (extract_lets +onlyGivenNames x; refine (fun (hx : Kept s0 x) => ?_) ?_; clear_value x; rotate_left; dsimp only [x]; clear x)
    | (extract_lets +onlyGivenNames x; have : ∀ a, x a = x a := fun _ => rfl; clear this; (try dsimp only [x]); clear x)
    | (extract_lets +onlyGivenNames x; clear_value x)
    | with_reducible refine Kept.countMap ?_
    | with_reducible refine Kept.fmmCommand ?_ ?_
    | with_reducible refine Kept.fmmRefuse ?_
    | with_reducible refine Kept.noted ?_
    | with_reducible refine Kept.tableInsert ?_ (by with_reducible assumption)
    | with_reducible refine Kept.updStand ?_
    | with_reducible refine Kept.ite1 ?_ ?_
    | with_reducible refine Kept.next ?_
    | with_reducible refine Kept.foldlM ?_ (fun _ _ _ _ e_ => ?_) (by with_reducible assumption)
    | split

theorem Kept.execUnmap {s0 : State} {n : Nat} {s : State} (h_s : Kept s0 s) : NextWith (execUnmap n s) (Kept s0) := by
  unfold Sys2Proof.Machine.execUnmap
  repeat' first
    | with_reducible assumption
    | intro _
    | (extract_lets +onlyGivenNames x; refine (fun (hx : Kept s0 x) => ?_) ?_; clear_value x; rotate_left; dsimp only [x]; clear x)
    | (extract_lets +onlyGivenNames x; clear_value x)
    | with_reducible refine Kept.countMap ?_
    | with_reducible refine Kept.flagMemStatus ?_
    | with_reducible refine Kept.fmmCommand ?_ ?_
    | with_reducible refine Kept.tableDelete ?_
    | with_reducible refine Kept.updStand ?_
    | with_reducible refine Kept.foldl ?_ (fun _ _ _ => ?_) _
    | with_reducible refine Kept.next ?_
    | split

theorem Kept.countGroups {s0 s : State} {n : Nat} (h_s : Kept s0 s) : Kept s0 (State.countGroups s n) := by
  unfold Sys2Proof.Machine.State.countGroups
  repeat' first
    | with_reducible assumption
    | with_reducible refine Kept.setFld ?_

theorem Kept.execGroupCreate {s0 : State} {n : Nat} {s : State} (h_s : Kept s0 s) :
    NextWith (execGroupCreate n s) (Kept s0) := by
  unfold Sys2Proof.Machine.execGroupCreate
  repeat' first
    | with_reducible assumption
    | with_reducible exact id
    | intro _
    | (extract_lets +onlyGivenNames x; refine (fun (hx : Kept s0 x) => ?_) ?_; clear_value x; rotate_left; dsimp only [x]; clear x)
    | (extract_lets +onlyGivenNames x; clear_value x)
    | with_reducible refine Kept.countGroups ?_
    | with_reducible refine Kept.fmmCommand ?_ ?_
    | with_reducible refine Kept.fmmRefuse ?_
    | with_reducible refine Kept.noted ?_
    | with_reducible refine Kept.ite1 ?_ ?_
    | (rewrite [State.mk_lit]; with_reducible refine Kept.lit ?_ ?_)
    | with_reducible refine Kept.next ?_
    | split

theorem Kept.execGroupDelete {s0 : State} {n : Nat} {s : State} (h_s : Kept s0 s) :
    NextWith (execGroupDelete n s) (Kept s0) := by
  unfold Sys2Proof.Machine.execGroupDelete
  repeat' first
    | with_reducible assumption
    | with_reducible exact id
    | intro _
    | (extract_lets +onlyGivenNames x; clear_value x)
    | with_reducible refine Kept.answerAll ?_
    | with_reducible refine Kept.countGroups ?_
    | with_reducible refine Kept.fmmCommand ?_ ?_
    | with_reducible refine Kept.fmmRefuse ?_
    | with_reducible refine Kept.ite1 ?_ ?_
    | (rewrite [State.mk_lit]; with_reducible refine Kept.lit ?_ ?_)
    | with_reducible refine Kept.next ?_
    | split

theorem Kept.execBarrierTimeout {s0 : State} {gk : Nat} {s : State} (h_s : Kept s0 s) :
    NextWith (execBarrierTimeout gk s) (Kept s0) := by
  unfold Sys2Proof.Machine.execBarrierTimeout
  repeat' first
    | with_reducible assumption
    | (extract_lets +onlyGivenNames x; clear_value x)
    | with_reducible refine Kept.deliver ?_
    | with_reducible refine Kept.release ?_
    | with_reducible refine Kept.ite ?_ ?_
    | with_reducible refine Kept.next ?_
    | split

end Sys2Proof.Machine
end

