-- ==== Sys2Proof/Laws/KeptStart.lean ====
section
/-! SUPPORT. Every operation of the host, management, Heartwood, the image and the start keeps the queue, the canonical form of memory and burnt fuses
(`Kept`): one lemma for each. -/

namespace Sys2Proof.Machine

open Sys2Proof

set_option linter.unusedVariables false
set_option linter.tactic.unusedName false

theorem Kept.execEntdaa {s0 : State} {addr : Nat} {s : State} (h_s : Kept s0 s) :
    NextWith (execEntdaa addr s) (Kept s0) := by
  unfold Sys2Proof.Machine.execEntdaa
  repeat' first
    | with_reducible assumption
    | with_reducible exact id
    | (extract_lets +onlyGivenNames x; clear_value x)
    | with_reducible refine Kept.ite ?_ ?_
    | (rewrite [State.mk_lit]; with_reducible refine Kept.lit ?_ ?_)
    | with_reducible refine Kept.next ?_

theorem Kept.execSetdasa {s0 : State} {static addr : Nat} {s : State} (h_s : Kept s0 s) :
    NextWith (execSetdasa static addr s) (Kept s0) := by
  unfold Sys2Proof.Machine.execSetdasa
  repeat' first
    | with_reducible assumption
    | with_reducible exact id
    | (extract_lets +onlyGivenNames x; clear_value x)
    | with_reducible refine Kept.ite ?_ ?_
    | (rewrite [State.mk_lit]; with_reducible refine Kept.lit ?_ ?_)
    | with_reducible refine Kept.next ?_

theorem Kept.mctpRespond {s0 s : State} {r : List Byte} (h_s : Kept s0 s) : Kept s0 (State.mctpRespond s r) := by
  unfold Sys2Proof.Machine.State.mctpRespond
  repeat' first
    | with_reducible assumption
    | with_reducible exact id
    | (extract_lets +onlyGivenNames x; clear_value x)
    | with_reducible refine Kept.ite ?_ ?_
    | (rewrite [State.mk_lit]; with_reducible refine Kept.lit ?_ ?_)

theorem Kept.execHealth {s0 s : State} (h_s : Kept s0 s) : NextWith (execHealth s) (Kept s0) := by
  unfold Sys2Proof.Machine.execHealth
  exact Kept.next (Kept.mctpRespond h_s)

theorem Kept.applyVid {s0 s : State} (h_s : Kept s0 s) : Kept s0 (State.applyVid s) := by
  unfold Sys2Proof.Machine.State.applyVid
  exact Kept.setFld h_s

theorem Kept.execVidApplied {s0 s : State} (h_s : Kept s0 s) : NextWith (execVidApplied s) (Kept s0) := by
  unfold Sys2Proof.Machine.execVidApplied
  repeat' first
    | with_reducible assumption
    | with_reducible refine Kept.applyVid ?_
    | with_reducible refine Kept.mctpRespond ?_
    | with_reducible refine Kept.ite ?_ ?_
    | with_reducible refine Kept.next ?_
    | split

theorem Kept.execSetEndpointId {s0 : State} {op eid : Nat} {s : State} (h_s : Kept s0 s) :
    NextWith (execSetEndpointId op eid s) (Kept s0) := by
  unfold Sys2Proof.Machine.execSetEndpointId
  repeat' first
    | with_reducible assumption
    | with_reducible exact id
    | (extract_lets +onlyGivenNames x; refine (fun (hx : Kept s0 x) => ?_) ?_; clear_value x; rotate_left; dsimp only [x]; clear x)
    | (extract_lets +onlyGivenNames x; clear_value x)
    | with_reducible refine Kept.mctpRespond ?_
    | with_reducible refine Kept.ite ?_ ?_
    | (rewrite [State.mk_lit]; with_reducible refine Kept.lit ?_ ?_)
    | with_reducible refine Kept.next ?_

theorem Kept.execGetEndpointId {s0 s : State} (h_s : Kept s0 s) : NextWith (execGetEndpointId s) (Kept s0) := by
  unfold Sys2Proof.Machine.execGetEndpointId
  exact Kept.next (Kept.mctpRespond h_s)

theorem Kept.execGetMctpVersionSupport {s0 : State} {type : Nat} {s : State} (h_s : Kept s0 s) :
    NextWith (execGetMctpVersionSupport type s) (Kept s0) := by
  unfold Sys2Proof.Machine.execGetMctpVersionSupport
  exact Kept.next (Kept.mctpRespond h_s)

theorem Kept.execGetMessageTypeSupport {s0 s : State} (h_s : Kept s0 s) :
    NextWith (execGetMessageTypeSupport s) (Kept s0) := by
  unfold Sys2Proof.Machine.execGetMessageTypeSupport
  exact Kept.next (Kept.mctpRespond h_s)

theorem Kept.execGetVendorMessageSupport {s0 : State} {selector : Nat} {s : State} (h_s : Kept s0 s) :
    NextWith (execGetVendorMessageSupport selector s) (Kept s0) := by
  unfold Sys2Proof.Machine.execGetVendorMessageSupport
  exact Kept.next (Kept.mctpRespond h_s)

theorem Kept.tapUpdate {s0 s : State} {code : Nat} {refused : Bool} {f : Mgmt → Mgmt} (h_s : Kept s0 s) :
    Kept s0 (State.tapUpdate s code refused f) := by
  unfold Sys2Proof.Machine.State.tapUpdate
  repeat' first
    | with_reducible assumption
    | with_reducible exact id
    | (extract_lets +onlyGivenNames x; clear_value x)
    | (rewrite [State.mk_lit]; with_reducible refine Kept.lit ?_ ?_)

theorem Kept.testMode {s0 s : State} {code : Nat} {drive : LandDrive} (h_s : Kept s0 s) :
    Kept s0 (State.testMode s code drive) := by
  unfold Sys2Proof.Machine.State.testMode
  exact Kept.ite (Kept.tapUpdate h_s) (Kept.tapUpdate h_s)

theorem Kept.execIdcode {s0 s : State} (h_s : Kept s0 s) : NextWith (execIdcode s) (Kept s0) := by
  unfold Sys2Proof.Machine.execIdcode
  exact Kept.next (Kept.tapUpdate h_s)

theorem Kept.execSamplePreload {s0 : State} {sampled preload : Nat} {s : State} (h_s : Kept s0 s) :
    NextWith (execSamplePreload sampled preload s) (Kept s0) := by
  unfold Sys2Proof.Machine.execSamplePreload
  exact Kept.next (Kept.tapUpdate h_s)

theorem Kept.execExtest {s0 s : State} (h_s : Kept s0 s) : NextWith (execExtest s) (Kept s0) := by
  unfold Sys2Proof.Machine.execExtest
  exact Kept.next (Kept.testMode h_s)

theorem Kept.execExtestPulse {s0 s : State} (h_s : Kept s0 s) : NextWith (execExtestPulse s) (Kept s0) := by
  unfold Sys2Proof.Machine.execExtestPulse
  exact Kept.next (Kept.testMode h_s)

theorem Kept.execExtestTrain {s0 s : State} (h_s : Kept s0 s) : NextWith (execExtestTrain s) (Kept s0) := by
  unfold Sys2Proof.Machine.execExtestTrain
  exact Kept.next (Kept.testMode h_s)

theorem Kept.execClamp {s0 s : State} (h_s : Kept s0 s) : NextWith (execClamp s) (Kept s0) := by
  unfold Sys2Proof.Machine.execClamp
  exact Kept.next (Kept.testMode h_s)

theorem Kept.execHighz {s0 s : State} (h_s : Kept s0 s) : NextWith (execHighz s) (Kept s0) := by
  unfold Sys2Proof.Machine.execHighz
  exact Kept.next (Kept.testMode h_s)

theorem Kept.execBypass {s0 s : State} (h_s : Kept s0 s) : NextWith (execBypass s) (Kept s0) := by
  unfold Sys2Proof.Machine.execBypass
  exact Kept.next (Kept.tapUpdate h_s)

theorem Kept.execCxlLinkUp {s0 : State} {width rate : Nat} {s : State} (h_s : Kept s0 s) :
    NextWith (execCxlLinkUp width rate s) (Kept s0) := by
  unfold Sys2Proof.Machine.execCxlLinkUp
  repeat' first
    | with_reducible assumption
    | (extract_lets +onlyGivenNames x; clear_value x)
    | with_reducible refine Kept.setFld ?_
    | with_reducible refine Kept.ite ?_ ?_
    | with_reducible refine Kept.next ?_

theorem Kept.linkDown {s0 s : State} (h_s : Kept s0 s) : Kept s0 (State.linkDown s) := by
  unfold Sys2Proof.Machine.State.linkDown
  repeat' first
    | with_reducible assumption
    | with_reducible exact id
    | (extract_lets +onlyGivenNames x; refine (fun (hx : Kept s0 x) => ?_) ?_; clear_value x; rotate_left; dsimp only [x]; clear x)
    | (extract_lets +onlyGivenNames x; clear_value x)
    | with_reducible refine Kept.setReg ?_
    | (rewrite [State.mk_lit]; with_reducible refine Kept.lit ?_ ?_)

theorem Kept.execCxlLinkDown {s0 s : State} (h_s : Kept s0 s) : NextWith (execCxlLinkDown s) (Kept s0) := by
  unfold Sys2Proof.Machine.execCxlLinkDown
  exact Kept.next (Kept.ite (Kept.linkDown h_s) h_s)

theorem Kept.execHostLinkDegraded {s0 : State} {width : Nat} {s : State} (h_s : Kept s0 s) :
    NextWith (execHostLinkDegraded width s) (Kept s0) := by
  unfold Sys2Proof.Machine.execHostLinkDegraded
  exact Kept.next (Kept.ite (Kept.event (Kept.setFld h_s)) h_s)

theorem Kept.execPfFlr {s0 s : State} (h_s : Kept s0 s) : NextWith (execPfFlr s) (Kept s0) := by
  unfold Sys2Proof.Machine.execPfFlr
  exact Kept.next (Kept.ite (Kept.lit h_s id) h_s)

theorem Kept.execBusMasterEnableWrite {s0 : State} {w : CfgWrite} {s : State} (h_s : Kept s0 s) :
    NextWith (execBusMasterEnableWrite w s) (Kept s0) := by
  unfold Sys2Proof.Machine.execBusMasterEnableWrite
  repeat' first
    | with_reducible assumption
    | with_reducible exact id
    | (extract_lets +onlyGivenNames x; have : ∀ a, x a = x a := fun _ => rfl; clear this; (try dsimp only [x]); clear x)
    | with_reducible refine Kept.msixFlush ?_
    | with_reducible refine Kept.ite ?_ ?_
    | (rewrite [State.mk_lit]; with_reducible refine Kept.lit ?_ ?_)
    | with_reducible refine Kept.next ?_

theorem Kept.execPskExchange {s0 : State} {accepted : Bool} {s : State} (h_s : Kept s0 s) :
    NextWith (execPskExchange accepted s) (Kept s0) := by
  unfold Sys2Proof.Machine.execPskExchange
  repeat' first
    | with_reducible assumption
    | with_reducible exact id
    | (extract_lets +onlyGivenNames x; clear_value x)
    | with_reducible refine Kept.ite ?_ ?_
    | (rewrite [State.mk_lit]; with_reducible refine Kept.lit ?_ ?_)
    | with_reducible refine Kept.next ?_

theorem Kept.execIdeKm {s0 : State} {keys : List Byte} {io cm : Bool} {s : State} (h_s : Kept s0 s) :
    NextWith (execIdeKm keys io cm s) (Kept s0) := by
  unfold Sys2Proof.Machine.execIdeKm
  repeat' first
    | with_reducible assumption
    | with_reducible exact id
    | (extract_lets +onlyGivenNames x; refine (fun (hx : Kept s0 x) => ?_) ?_; clear_value x; rotate_left; dsimp only [x]; clear x)
    | (extract_lets +onlyGivenNames x; clear_value x)
    | with_reducible refine Kept.setFld ?_
    | with_reducible refine Kept.ite ?_ ?_
    | (rewrite [State.mk_lit]; with_reducible refine Kept.lit ?_ ?_)
    | with_reducible refine Kept.next ?_

theorem Kept.execIdeIntegrityFailure {s0 : State} {io : Bool} {s : State} (h_s : Kept s0 s) :
    NextWith (execIdeIntegrityFailure io s) (Kept s0) := by
  unfold Sys2Proof.Machine.execIdeIntegrityFailure
  exact Kept.next (Kept.ite (Kept.event (Kept.setFld h_s)) h_s)

theorem Kept.badDoorbell {s0 s : State} {n : Nat} (h_s : Kept s0 s) : Kept s0 (State.badDoorbell s n) := by
  unfold Sys2Proof.Machine.State.badDoorbell
  exact Kept.satFld h_s

theorem Kept.execQwDoorbellWrite {s0 : State} {n off v : Nat} {s : State} (h_s : Kept s0 s) :
    NextWith (execQwDoorbellWrite n off v s) (Kept s0) := by
  unfold Sys2Proof.Machine.execQwDoorbellWrite
  repeat' first
    | with_reducible assumption
    | (extract_lets +onlyGivenNames x; clear_value x)
    | with_reducible refine Kept.badDoorbell ?_
    | with_reducible refine Kept.cqFlush ?_
    | with_reducible refine Kept.setFld ?_
    | with_reducible refine Kept.swyEvtHead ?_
    | with_reducible refine Kept.ite ?_ ?_
    | with_reducible refine Kept.next ?_

theorem Kept.execApertureWrite {s0 : State} {n off : Nat} {bs : List Byte} {s : State} (h_s : Kept s0 s) :
    NextWith (execApertureWrite n off bs s) (Kept s0) := by
  unfold Sys2Proof.Machine.execApertureWrite
  exact Kept.next (Kept.ite (Kept.standWrite h_s) h_s)

theorem Kept.execApertureRead {s0 : State} {n off len : Nat} {late : Bool} {s : State} (h_s : Kept s0 s) :
    NextWith (execApertureRead n off len late s) (Kept s0) := by
  unfold Sys2Proof.Machine.execApertureRead
  repeat' first
    | with_reducible assumption
    | with_reducible refine Kept.complete ?_
    | with_reducible refine Kept.flagUnmapped ?_
    | with_reducible refine Kept.standRead ?_
    | with_reducible refine Kept.ite ?_ ?_
    | with_reducible refine Kept.snd ?_ (by with_reducible assumption)
    | with_reducible refine Kept.next ?_
    | split

theorem Kept.copyResult {s0 s : State} {n res : Nat} (h_s : Kept s0 s) : Kept s0 (State.copyResult s n res) := by
  unfold Sys2Proof.Machine.State.copyResult
  repeat' first
    | with_reducible assumption
    | with_reducible exact id
    | (extract_lets +onlyGivenNames x; refine (fun (hx : Kept s0 x) => ?_) ?_; clear_value x; rotate_left; dsimp only [x]; clear x)
    | (extract_lets +onlyGivenNames x; clear_value x)
    | with_reducible refine Kept.hostWrite ?_
    | with_reducible refine Kept.msix ?_
    | with_reducible refine Kept.setFld ?_
    | with_reducible refine Kept.ite ?_ ?_
    | (rewrite [State.mk_lit]; with_reducible refine Kept.lit ?_ ?_)

theorem Kept.copyInUnits {s0 s : State} {n a0 : Nat} {a1 : List HostRead} (h_s : Kept s0 s) :
    Kept s0 (State.copyInUnits s n a0 a1).1 := by
  induction a1 generalizing s n a0 with
  | nil =>
    unfold Sys2Proof.Machine.State.copyInUnits
    repeat' first
      | with_reducible assumption
      | with_reducible refine Kept.flagUnmapped ?_
      | with_reducible refine Kept.putBytes ?_
      | with_reducible refine Kept.ite1 ?_ ?_
      | split
  | cons b l ih =>
    unfold Sys2Proof.Machine.State.copyInUnits
    repeat' first
      | with_reducible assumption
      | with_reducible refine ih ?_
      | with_reducible refine Kept.flagUnmapped ?_
      | with_reducible refine Kept.putBytes ?_
      | with_reducible refine Kept.ite1 ?_ ?_
      | split

theorem Kept.copyOutUnits {s0 s : State} {n a0 a1 a2 : Nat} (h_s : Kept s0 s) :
    Kept s0 (State.copyOutUnits s n a0 a1 a2).1 := by
  induction a0 generalizing s n a1 a2 with
  | zero =>
    unfold Sys2Proof.Machine.State.copyOutUnits
    repeat' first
      | with_reducible assumption
      | with_reducible refine Kept.flagUnmapped ?_
      | with_reducible refine Kept.hostWrite ?_
      | with_reducible refine Kept.standRead ?_
      | with_reducible refine Kept.ite1 ?_ ?_
      | with_reducible refine Kept.snd ?_ (by with_reducible assumption)
      | split
  | succ k ih =>
    unfold Sys2Proof.Machine.State.copyOutUnits
    repeat' first
      | with_reducible assumption
      | with_reducible refine ih ?_
      | with_reducible refine Kept.flagUnmapped ?_
      | with_reducible refine Kept.hostWrite ?_
      | with_reducible refine Kept.standRead ?_
      | with_reducible refine Kept.ite1 ?_ ?_
      | with_reducible refine Kept.snd ?_ (by with_reducible assumption)
      | split

theorem Kept.copyCommand {s0 s : State} {n op : Nat} {e : List Byte} {run : State → State × Nat} (h_s : Kept s0 s)
    (h_run : ∀ x0, Kept s0 x0 → Kept s0 (run x0).1) :
    Kept s0 (State.copyCommand s n op e run) := by
  unfold Sys2Proof.Machine.State.copyCommand
  repeat' first
    | with_reducible assumption
    | (extract_lets +onlyGivenNames x; clear_value x)
    | with_reducible refine Kept.copyResult ?_
    | with_reducible refine h_run _ ?_
    | with_reducible refine Kept.ite ?_ ?_

theorem Kept.execCopyIn {s0 : State} {n : Nat} {e : List Byte} {units : List HostRead} {s : State} (h_s : Kept s0 s) :
    NextWith (execCopyIn n e units s) (Kept s0) := by
  unfold Sys2Proof.Machine.execCopyIn
  exact Kept.next (Kept.copyCommand h_s fun x0 a => Kept.copyInUnits a)

theorem Kept.execCopyOut {s0 : State} {n : Nat} {e : List Byte} {s : State} (h_s : Kept s0 s) :
    NextWith (execCopyOut n e s) (Kept s0) := by
  unfold Sys2Proof.Machine.execCopyOut
  exact Kept.next (Kept.copyCommand h_s fun x0 a => Kept.copyOutUnits a)

theorem Kept.execHdmAccess {s0 : State} {off len : Nat} {bs : List Byte} {write : Bool} {s : State}
    (h_s : Kept s0 s) :
    NextWith (execHdmAccess off len bs write s) (Kept s0) := by
  unfold Sys2Proof.Machine.execHdmAccess
  repeat' first
    | with_reducible assumption
    | with_reducible exact id
    | with_reducible refine Mem.putList_kept ?_
    | with_reducible refine Kept.complete ?_
    | with_reducible refine Kept.ite ?_ ?_
    | (rewrite [State.mk_lit]; with_reducible refine Kept.lit ?_ ?_)
    | with_reducible refine Kept.next ?_
    | split

theorem Kept.flashWrite {s0 s : State} {r : FlashRange} {off : Nat} {bs : List Byte} (h_s : Kept s0 s) :
    Kept s0 (State.flashWrite s r off bs) := by
  unfold Sys2Proof.Machine.State.flashWrite
  exact Kept.lit h_s (Mem.putList_kept id)

theorem Kept.flashForget {s0 s : State} {r : FlashRange} {off n : Nat} (h_s : Kept s0 s) :
    Kept s0 (State.flashForget s r off n) := by
  unfold Sys2Proof.Machine.State.flashForget
  repeat' first
    | with_reducible assumption
    | with_reducible exact id
    | with_reducible refine Mem.forget_kept ?_
    | (extract_lets +onlyGivenNames x; clear_value x)
    | (rewrite [State.mk_lit]; with_reducible refine Kept.lit ?_ ?_)

theorem Kept.commitRange {s0 s : State} {r : FlashRange} {len seq : Nat} (h_s : Kept s0 s) :
    Kept s0 (State.commitRange s r len seq) := by
  unfold Sys2Proof.Machine.State.commitRange
  exact Kept.flashWrite h_s

theorem Kept.updHeart {s0 s : State} {f : Heartwood → Heartwood} (h_s : Kept s0 s) : Kept s0 (State.updHeart s f) := by
  unfold Sys2Proof.Machine.State.updHeart
  exact Kept.lit h_s id

theorem Kept.updFuses {s0 s : State} {f : Fuses → Fuses} (h_s : Kept s0 s) (hb : Burnt s.fuses (f s.fuses)) :
    Kept s0 (State.updFuses s f) := by
  exact ⟨h_s.1, h_s.2.1, h_s.2.2.trans hb⟩

theorem Kept.heartEvent {s0 s : State} {code : Nat} {about : Option Nat} {items : List Nat} (h_s : Kept s0 s) :
    Kept s0 (State.heartEvent s code about items) := by
  unfold Sys2Proof.Machine.State.heartEvent
  exact Kept.event h_s

theorem Kept.showFuses {s0 s : State} (h_s : Kept s0 s) : Kept s0 (State.showFuses s) := by
  unfold Sys2Proof.Machine.State.showFuses
  repeat' first
    | with_reducible assumption
    | (extract_lets +onlyGivenNames x; refine (fun (hx : Kept s0 x) => ?_) ?_; clear_value x; rotate_left; dsimp only [x]; clear x)
    | (extract_lets +onlyGivenNames x; clear_value x)
    | with_reducible refine Kept.setFld ?_

theorem Kept.measurePkg {s0 s : State} {r event id : Nat} {text : List Byte} (h_s : Kept s0 s) :
    Kept s0 (State.measurePkg s r event id text) := by
  unfold Sys2Proof.Machine.State.measurePkg
  repeat' first
    | with_reducible assumption
    | (extract_lets +onlyGivenNames x; clear_value x)
    | with_reducible refine Kept.updHeart ?_

theorem Kept.measureStand {s0 s : State} {n r event id : Nat} {text : List Byte} (h_s : Kept s0 s) :
    Kept s0 (State.measureStand s n r event id text) := by
  unfold Sys2Proof.Machine.State.measureStand
  repeat' first
    | with_reducible assumption
    | (extract_lets +onlyGivenNames x; clear_value x)
    | with_reducible refine Kept.updStand ?_

theorem Kept.flagHwd {s0 s : State} {f : Field} {op m keyId status : Nat} (h_s : Kept s0 s) :
    Kept s0 (State.flagHwd s f op m keyId status) := by
  unfold Sys2Proof.Machine.State.flagHwd
  exact Kept.flagError h_s fun x0 a => Kept.setReg a

theorem Kept.setBlocks {s0 s : State} {b : Nat} (h_s : Kept s0 s) (hb : s.fuses.blocks ≤ b) :
    Kept s0 (State.setBlocks s b) := by
  unfold State.setBlocks
  have h := Kept.showFuses (Kept.updFuses (f := fun f => { f with blocks := b }) h_s
    ⟨List.prefix_refl _, id, Nat.and_self _, Nat.le_refl _, hb⟩)
  exact Kept.ite (Kept.heartEvent h) h

theorem Kept.reserveBlock {s0 s : State} {fails : Nat} (h_s : Kept s0 s) : Kept s0 (State.reserveBlock s fails).1 := by
  unfold State.reserveBlock
  dsimp only
  split
  · exact Kept.setFld h_s
  split
  · exact Kept.flagHwd (Kept.updHeart (Kept.setBlocks h_s (by omega)))
  split
  · exact Kept.setFld (Kept.setBlocks h_s (by omega))
  · exact Kept.setFld (Kept.updHeart (Kept.updFuses (Kept.setBlocks h_s (by omega))
      ⟨List.prefix_refl _, id, Nat.and_self _, Nat.le_refl _, Nat.le_refl _⟩))

theorem Kept.repairMirror {s0 s : State} (h_s : Kept s0 s) : Kept s0 (State.repairMirror s) := by
  unfold Sys2Proof.Machine.State.repairMirror
  repeat' first
    | with_reducible assumption
    | (extract_lets +onlyGivenNames x; clear_value x)
    | with_reducible refine Kept.heartEvent ?_
    | with_reducible refine Kept.setFld ?_
    | with_reducible refine Kept.updFuses ?_ ?_
    | (refine Burnt.mk ?_ ?_ ?_ ?_ ?_ <;> simp <;> omega)

theorem Kept.startLeaves {s0 s : State} {fails : Nat} (h_s : Kept s0 s) : Kept s0 (State.startLeaves s fails) := by
  unfold Sys2Proof.Machine.State.startLeaves
  repeat' first
    | with_reducible assumption
    | (extract_lets +onlyGivenNames x; refine (fun (hx : Kept s0 x) => ?_) ?_; clear_value x; rotate_left; dsimp only [x]; clear x)
    | (extract_lets +onlyGivenNames x; clear_value x)
    | with_reducible refine Kept.repairMirror ?_
    | with_reducible refine Kept.reserveBlock ?_
    | with_reducible refine Kept.updFuses ?_ ?_
    | with_reducible refine Kept.ite ?_ ?_
    | (refine Burnt.mk ?_ ?_ ?_ ?_ ?_ <;> simp <;> omega)
    | split

theorem Kept.sign {s0 s : State} {fails : Nat} {text : List Byte} (h_s : Kept s0 s) :
    Kept s0 (State.sign s fails text).1 := by
  unfold Sys2Proof.Machine.State.sign
  repeat' first
    | with_reducible assumption
    | (extract_lets +onlyGivenNames x; clear_value x)
    | with_reducible refine Kept.reserveBlock ?_
    | with_reducible refine Kept.setFld ?_
    | with_reducible refine Kept.ite1 ?_ ?_

theorem Kept.getQuote {s0 s : State} {may : Nat → Bool} {fails : Nat} {args : List Byte} (h_s : Kept s0 s) :
    Kept s0 (State.getQuote s may fails args).1 := by
  unfold Sys2Proof.Machine.State.getQuote
  repeat' first
    | with_reducible assumption
    | (extract_lets +onlyGivenNames x; clear_value x)
    | with_reducible refine Kept.sign ?_
    | with_reducible refine Kept.ite1 ?_ ?_

theorem Kept.getLog {s0 s : State} {may : Nat → Bool} {args : List Byte} (h_s : Kept s0 s) :
    Kept s0 (State.getLog s may args).1 := by
  unfold Sys2Proof.Machine.State.getLog
  repeat' first
    | with_reducible assumption
    | (extract_lets +onlyGivenNames x; clear_value x)
    | with_reducible refine Kept.ite1 ?_ ?_

theorem Kept.getKemKey {s0 s : State} {may : Nat → Bool} {args : List Byte} (h_s : Kept s0 s) :
    Kept s0 (State.getKemKey s may args).1 := by
  unfold Sys2Proof.Machine.State.getKemKey
  repeat' first
    | with_reducible assumption
    | (extract_lets +onlyGivenNames x; clear_value x)
    | with_reducible refine Kept.ite1 ?_ ?_
    | split

theorem Kept.boxDone {s0 s : State} {b : Box} {r : Reply} (h_s : Kept s0 s) : Kept s0 (State.boxDone s b r) := by
  unfold Sys2Proof.Machine.State.boxDone
  repeat' first
    | with_reducible assumption
    | (extract_lets +onlyGivenNames x; clear_value x)
    | with_reducible refine Kept.draw ?_
    | with_reducible refine Kept.msix ?_
    | with_reducible refine Kept.resetReg ?_
    | with_reducible refine Kept.setFld ?_
    | with_reducible refine Kept.setReg ?_
    | with_reducible refine Kept.ite ?_ ?_
    | with_reducible refine Kept.foldl ?_ (fun _ _ _ => ?_) _

theorem Kept.boxWrite {s0 s : State} {b : Box} {f : Fn} {v op : Nat} {known : List Nat}
    {run : Nat → State → State × Option Reply} (h_s : Kept s0 s) (h_run : ∀ x0 x1, Kept s0 x1 → Kept s0
    (run x0 x1).1) :
    Kept s0 (State.boxWrite s b f v op known run) := by
  unfold Sys2Proof.Machine.State.boxWrite
  repeat' first
    | with_reducible assumption
    | (extract_lets +onlyGivenNames x; clear_value x)
    | with_reducible refine Kept.boxDone ?_
    | with_reducible refine Kept.setFld ?_
    | with_reducible refine Kept.writeRow ?_ (by with_reducible assumption)
    | with_reducible refine h_run _ _ ?_
    | with_reducible refine Kept.ite ?_ ?_
    | with_reducible refine Kept.fst ?_ (by with_reducible assumption)
    | split

theorem Kept.heartCommand {s0 s : State} {f : Fn} {m v op args : Nat} {use : BoxUse}
    {run : List Byte → State → State × Option Reply} (h_s : Kept s0 s) (h_run : ∀ x0 x1, Kept s0 x1 → Kept s0
    (run x0 x1).1) :
    Kept s0 (State.heartCommand s f m v op args use run) := by
  unfold Sys2Proof.Machine.State.heartCommand
  repeat' first
    | with_reducible assumption
    | intro _
    | with_reducible refine Kept.boxWrite ?_ ?_
    | with_reducible refine h_run _ _ ?_
    | with_reducible refine Kept.ite ?_ ?_
    | with_reducible refine Kept.ite1 ?_ ?_

theorem Kept.loadPackage {s0 s : State} {pkg : List Byte} (h_s : Kept s0 s) : Kept s0 (State.loadPackage s pkg) := by
  unfold Sys2Proof.Machine.State.loadPackage
  repeat' first
    | with_reducible assumption
    | with_reducible exact id
    | (extract_lets +onlyGivenNames x; refine (fun (hx : Kept s0 x) => ?_) ?_; clear_value x; rotate_left; dsimp only [x]; clear x)
    | (extract_lets +onlyGivenNames x; clear_value x)
    | with_reducible refine Kept.setFld ?_
    | with_reducible refine Kept.setReg ?_
    | with_reducible refine Kept.foldl ?_ (fun _ _ _ => ?_) _
    | (rewrite [State.mk_lit]; with_reducible refine Kept.lit ?_ ?_)

theorem Kept.trainDdr {s0 s : State} {pkg : List Byte} (h_s : Kept s0 s) : Kept s0 (State.trainDdr s pkg) := by
  unfold Sys2Proof.Machine.State.trainDdr
  repeat' first
    | with_reducible assumption
    | (extract_lets +onlyGivenNames x; clear_value x)
    | with_reducible refine Kept.setReg ?_
    | with_reducible refine Kept.ite ?_ ?_
    | with_reducible refine Kept.foldl ?_ (fun _ _ _ => ?_) _

theorem Kept.recompose {s0 s : State} (h_s : Kept s0 s) : Kept s0 (State.recompose s) := by
  unfold Sys2Proof.Machine.State.recompose
  repeat' first
    | with_reducible assumption
    | (extract_lets +onlyGivenNames x; clear_value x)
    | with_reducible refine Kept.updHub ?_
    | with_reducible refine Kept.foldl ?_ (fun _ _ _ => ?_) _

theorem Kept.updLife {s0 s : State} {n : Nat} {f : Life → Life} (h_s : Kept s0 s) : Kept s0 (State.updLife s n f) := by
  unfold Sys2Proof.Machine.State.updLife
  exact Kept.updStand h_s

theorem Kept.replacePhase {s0 s : State} {k : Nat} (h_s : Kept s0 s) : Kept s0 (State.replacePhase s k) := by
  unfold Sys2Proof.Machine.State.replacePhase
  exact Kept.setFld h_s

theorem Kept.testEnd {s0 s : State} {g result : Nat} (h_s : Kept s0 s) : Kept s0 (State.testEnd s g result) := by
  unfold Sys2Proof.Machine.State.testEnd
  repeat' first
    | with_reducible assumption
    | with_reducible exact id
    | (extract_lets +onlyGivenNames x; have : ∀ a, x a = x a := fun _ => rfl; clear this; (try dsimp only [x]); clear x)
    | with_reducible refine Kept.setFld ?_
    | with_reducible refine Kept.ite ?_ ?_
    | (rewrite [State.mk_lit]; with_reducible refine Kept.lit ?_ ?_)

theorem Kept.testsAborted {s0 s : State} {gs : List Nat} (h_s : Kept s0 s) : Kept s0 (State.testsAborted s gs) := by
  unfold Sys2Proof.Machine.State.testsAborted
  exact Kept.foldl h_s (fun x x_1 x_2 => Kept.testEnd x_2) gs

theorem Kept.failMoves {s0 s : State} {n : Nat} (h_s : Kept s0 s) : Kept s0 (State.failMoves s n) := by
  unfold Sys2Proof.Machine.State.failMoves
  repeat' first
    | with_reducible assumption
    | (extract_lets +onlyGivenNames x; have : ∀ a, x a = x a := fun _ => rfl; clear this; (try dsimp only [x]); clear x)
    | with_reducible refine Kept.cancelMove ?_
    | with_reducible refine Kept.dropSending ?_
    | with_reducible refine Kept.endArrival ?_
    | with_reducible refine Kept.loseMove ?_
    | with_reducible refine Kept.reply ?_
    | with_reducible refine Kept.ite ?_ ?_
    | with_reducible refine Kept.foldl ?_ (fun _ _ _ => ?_) _
    | split

theorem Kept.unreported {s0 s : State} {n k : Nat} (h_s : Kept s0 s) : Kept s0 (State.unreported s n k) := by
  unfold Sys2Proof.Machine.State.unreported
  exact Kept.ite (Kept.satFld h_s) (Kept.satFld h_s)

theorem Kept.endJoin {s0 s : State} {n status : Nat} (h_s : Kept s0 s) : Kept s0 (State.endJoin s n status) := by
  unfold Sys2Proof.Machine.State.endJoin
  repeat' first
    | with_reducible assumption
    | with_reducible refine Kept.boxDone ?_
    | with_reducible refine Kept.updStand ?_
    | split

theorem Kept.forgetDdr {s0 s : State} {chans : List Nat} (h_s : Kept s0 s) : Kept s0 (State.forgetDdr s chans) := by
  unfold Sys2Proof.Machine.State.forgetDdr
  exact Kept.foldl h_s (fun x x_1 x_2 => Kept.lit x_2 (Mem.forget_kept id)) chans

theorem Kept.eraseKeys {s0 s : State} {n : Nat} (h_s : Kept s0 s) : Kept s0 (State.eraseKeys s n) := by
  unfold Sys2Proof.Machine.State.eraseKeys
  repeat' first
    | with_reducible assumption
    | (extract_lets +onlyGivenNames x; refine (fun (hx : Kept s0 x) => ?_) ?_; clear_value x; rotate_left; dsimp only [x]; clear x)
    | with_reducible refine Kept.canopyCheck ?_
    | with_reducible refine Kept.endJoin ?_
    | with_reducible refine Kept.forgetDdr ?_
    | with_reducible refine Kept.updHeart ?_
    | with_reducible refine Kept.updStand ?_

theorem Kept.commandDone {s0 s : State} (h_s : Kept s0 s) : Kept s0 (State.commandDone s) := by
  unfold Sys2Proof.Machine.State.commandDone
  repeat' first
    | with_reducible assumption
    | (extract_lets +onlyGivenNames x; clear_value x)
    | with_reducible refine Kept.setFld ?_

theorem Kept.takeOver {s0 s : State} {n : Nat} (h_s : Kept s0 s) : Kept s0 (State.takeOver s n) := by
  unfold Sys2Proof.Machine.State.takeOver
  repeat' first
    | with_reducible assumption
    | (extract_lets +onlyGivenNames x; refine (fun (hx : Kept s0 x) => ?_) ?_; clear_value x; rotate_left; dsimp only [x]; clear x)
    | (extract_lets +onlyGivenNames x; clear_value x)
    | with_reducible refine Kept.commandDone ?_
    | with_reducible refine Kept.updLife ?_
    | with_reducible refine Kept.ite ?_ ?_

theorem Kept.startErase {s0 s : State} {n : Nat} (h_s : Kept s0 s) : Kept s0 (State.startErase s n) := by
  unfold Sys2Proof.Machine.State.startErase
  repeat' first
    | with_reducible assumption
    | (extract_lets +onlyGivenNames x; refine (fun (hx : Kept s0 x) => ?_) ?_; clear_value x; rotate_left; dsimp only [x]; clear x)
    | with_reducible refine Kept.eraseKeys ?_
    | with_reducible refine Kept.replacePhase ?_
    | with_reducible refine Kept.takeOver ?_
    | with_reducible refine Kept.updLife ?_
    | with_reducible refine Kept.ite ?_ ?_

theorem Kept.drainEnd {s0 s : State} {n : Nat} (h_s : Kept s0 s) : Kept s0 (State.drainEnd s n) := by
  unfold Sys2Proof.Machine.State.drainEnd
  repeat' first
    | with_reducible assumption
    | with_reducible refine Kept.abandon ?_
    | with_reducible refine Kept.cqInterrupts ?_
    | with_reducible refine Kept.endWith ?_
    | with_reducible refine Kept.failMoves ?_
    | with_reducible refine Kept.finish ?_
    | with_reducible refine Kept.startErase ?_
    | with_reducible refine Kept.testsAborted ?_
    | with_reducible refine Kept.updLife ?_
    | with_reducible refine Kept.updStand ?_
    | with_reducible refine Kept.ite ?_ ?_
    | with_reducible refine Kept.foldl ?_ (fun _ _ _ => ?_) _
    | split

theorem Kept.startReset {s0 s : State} {n : Nat} {cause : LifeCause} {drainMs : Nat} (h_s : Kept s0 s) :
    Kept s0 (State.startReset s n cause drainMs) := by
  unfold Sys2Proof.Machine.State.startReset
  repeat' first
    | with_reducible assumption
    | (extract_lets +onlyGivenNames x; refine (fun (hx : Kept s0 x) => ?_) ?_; clear_value x; rotate_left; dsimp only [x]; clear x)
    | with_reducible refine Kept.drainEnd ?_
    | with_reducible refine Kept.updLife ?_
    | with_reducible refine Kept.ite ?_ ?_

theorem Kept.resetClusters {s0 s : State} {cs : List Nat} (h_s : Kept s0 s) : Kept s0 (State.resetClusters s cs) := by
  unfold Sys2Proof.Machine.State.resetClusters
  exact Kept.foldl h_s (fun x x_1 x_2 => Kept.foldl x_2 (fun x x_3 x_4 => Kept.resetReg x_4) clusterRegs) cs

theorem Kept.releaseStand {s0 s : State} {n : Nat} (h_s : Kept s0 s) : Kept s0 (State.releaseStand s n) := by
  unfold Sys2Proof.Machine.State.releaseStand
  repeat' first
    | with_reducible assumption
    | with_reducible exact id
    | (extract_lets +onlyGivenNames x; refine (fun (hx : Kept s0 x) => ?_) ?_; clear_value x; rotate_left; dsimp only [x]; clear x)
    | (extract_lets +onlyGivenNames x; clear_value x)
    | with_reducible refine Kept.dropQueued ?_
    | with_reducible refine Kept.resetClusters ?_
    | with_reducible refine Kept.setTable ?_
    | with_reducible refine Kept.foldl ?_ (fun _ _ _ => ?_) _
    | (rewrite [State.mk_lit]; with_reducible refine Kept.lit ?_ ?_)

theorem Kept.stageHdm {s0 s : State} (h_s : Kept s0 s) : Kept s0 (State.stageHdm s) := by
  unfold Sys2Proof.Machine.State.stageHdm
  repeat' first
    | with_reducible assumption
    | (extract_lets +onlyGivenNames x; refine (fun (hx : Kept s0 x) => ?_) ?_; clear_value x; rotate_left; dsimp only [x]; clear x)
    | (extract_lets +onlyGivenNames x; clear_value x)
    | with_reducible refine Kept.setFld ?_
    | with_reducible refine Kept.ite ?_ ?_
    | split

theorem Kept.zeroHalf {s0 s : State} {h : Nat} (h_s : Kept s0 s) : Kept s0 (State.zeroHalf s h) := by
  unfold Sys2Proof.Machine.State.zeroHalf
  exact Kept.lit h_s (Mem.zero_kept id)

theorem Kept.zeroGrove {s0 s : State} {g : Nat} (h_s : Kept s0 s) : Kept s0 (State.zeroGrove s g) := by
  unfold Sys2Proof.Machine.State.zeroGrove
  exact Kept.lit h_s (Mem.zero_kept id)

theorem Kept.startZeroing {s0 s : State} {n : Nat} (h_s : Kept s0 s) : Kept s0 (State.startZeroing s n) := by
  unfold Sys2Proof.Machine.State.startZeroing
  repeat' first
    | with_reducible assumption
    | (extract_lets +onlyGivenNames x; refine (fun (hx : Kept s0 x) => ?_) ?_; clear_value x; rotate_left; dsimp only [x]; clear x)
    | (extract_lets +onlyGivenNames x; clear_value x)
    | with_reducible refine Kept.replacePhase ?_
    | with_reducible refine Kept.stageHdm ?_
    | with_reducible refine Kept.testsAborted ?_
    | with_reducible refine Kept.updStand ?_
    | with_reducible refine Kept.ite ?_ ?_

theorem Kept.createProgram {s0 s : State} {n : Nat} {sec : List Byte} {blobs : List (List Byte)} (h_s : Kept s0 s) :
    Kept s0 (State.createProgram s n sec blobs) := by
  unfold Sys2Proof.Machine.State.createProgram
  repeat' first
    | with_reducible assumption
    | (extract_lets +onlyGivenNames x; refine (fun (hx : Kept s0 x) => ?_) ?_; clear_value x; rotate_left; dsimp only [x]; clear x)
    | (extract_lets +onlyGivenNames x; clear_value x)
    | with_reducible refine Kept.giveHomes ?_
    | with_reducible refine Kept.putBytes ?_
    | with_reducible refine Kept.updStand ?_

theorem Kept.loadAllotments {s0 s : State} {n : Nat} {sec : List Byte} (h_s : Kept s0 s) :
    Kept s0 (State.loadAllotments s n sec) := by
  unfold Sys2Proof.Machine.State.loadAllotments
  exact Kept.setFld (Kept.setFld (Kept.setFld (Kept.setReg h_s)))

theorem Kept.measureInstall {s0 s : State} {n : Nat} {sec : List Byte} {blobs : List (List Byte)} (h_s : Kept s0 s) :
    Kept s0 (State.measureInstall s n sec blobs) := by
  unfold Sys2Proof.Machine.State.measureInstall
  repeat' first
    | with_reducible assumption
    | (extract_lets +onlyGivenNames x; refine (fun (hx : Kept s0 x) => ?_) ?_; clear_value x; rotate_left; dsimp only [x]; clear x)
    | (extract_lets +onlyGivenNames x; clear_value x)
    | with_reducible refine Kept.measureStand ?_
    | with_reducible refine Kept.updStand ?_
    | with_reducible refine Kept.foldl ?_ (fun _ _ _ => ?_) _

theorem Kept.install {s0 s : State} {n : Nat} (h_s : Kept s0 s) : Kept s0 (State.install s n) := by
  unfold Sys2Proof.Machine.State.install
  repeat' first
    | with_reducible assumption
    | (extract_lets +onlyGivenNames x; refine (fun (hx : Kept s0 x) => ?_) ?_; clear_value x; rotate_left; dsimp only [x]; clear x)
    | (extract_lets +onlyGivenNames x; clear_value x)
    | with_reducible refine Kept.createProgram ?_
    | with_reducible refine Kept.draw ?_
    | with_reducible refine Kept.forgetDdr ?_
    | with_reducible refine Kept.loadAllotments ?_
    | with_reducible refine Kept.measureInstall ?_
    | with_reducible refine Kept.resetClusters ?_
    | with_reducible refine Kept.setReg ?_
    | with_reducible refine Kept.updHeart ?_
    | with_reducible refine Kept.updPower ?_
    | with_reducible refine Kept.updStand ?_
    | with_reducible refine Kept.zeroGrove ?_
    | with_reducible refine Kept.zeroHalf ?_
    | with_reducible refine Kept.ite ?_ ?_
    | with_reducible refine Kept.foldl ?_ (fun _ _ _ => ?_) _
    | split

theorem Kept.removeStand {s0 s : State} {n : Nat} (h_s : Kept s0 s) : Kept s0 (State.removeStand s n) := by
  unfold Sys2Proof.Machine.State.removeStand
  repeat' first
    | with_reducible assumption
    | with_reducible exact id
    | (extract_lets +onlyGivenNames x; refine (fun (hx : Kept s0 x) => ?_) ?_; clear_value x; rotate_left; dsimp only [x]; clear x)
    | (extract_lets +onlyGivenNames x; clear_value x)
    | with_reducible refine Kept.recompose ?_
    | with_reducible refine Kept.setReg ?_
    | with_reducible refine Kept.stageHdm ?_
    | with_reducible refine Kept.updStand ?_
    | (rewrite [State.mk_lit]; with_reducible refine Kept.lit ?_ ?_)

theorem Kept.resetEvent {s0 s : State} {n : Nat} (h_s : Kept s0 s) : Kept s0 (State.resetEvent s n) := by
  unfold Sys2Proof.Machine.State.resetEvent
  repeat' first
    | with_reducible assumption
    | (extract_lets +onlyGivenNames x; clear_value x)
    | with_reducible refine Kept.eventOf ?_
    | with_reducible refine Kept.ite ?_ ?_

theorem Kept.completeInstall {s0 s : State} {n : Nat} (h_s : Kept s0 s) : Kept s0 (State.completeInstall s n) := by
  unfold Sys2Proof.Machine.State.completeInstall
  repeat' first
    | with_reducible assumption
    | with_reducible exact id
    | (extract_lets +onlyGivenNames x; refine (fun (hx : Kept s0 x) => ?_) ?_; clear_value x; rotate_left; dsimp only [x]; clear x)
    | (extract_lets +onlyGivenNames x; clear_value x)
    | with_reducible refine Kept.commandDone ?_
    | with_reducible refine Kept.eventOf ?_
    | with_reducible refine Kept.install ?_
    | with_reducible refine Kept.recompose ?_
    | with_reducible refine Kept.replacePhase ?_
    | with_reducible refine Kept.resetEvent ?_
    | with_reducible refine Kept.updLife ?_
    | with_reducible refine Kept.ite ?_ ?_
    | (rewrite [State.mk_lit]; with_reducible refine Kept.lit ?_ ?_)
    | split

theorem Kept.stopEvents {s0 s : State} {n : Nat} (h_s : Kept s0 s) : Kept s0 (State.stopEvents s n) := by
  unfold Sys2Proof.Machine.State.stopEvents
  repeat' first
    | with_reducible assumption
    | (extract_lets +onlyGivenNames x; clear_value x)
    | with_reducible refine Kept.event ?_
    | with_reducible refine Kept.eventOf ?_
    | with_reducible refine Kept.ite ?_ ?_
    | with_reducible refine Kept.foldl ?_ (fun _ _ _ => ?_) _
    | split

theorem Kept.abandonInstall {s0 s : State} {n : Nat} (h_s : Kept s0 s) : Kept s0 (State.abandonInstall s n) := by
  unfold Sys2Proof.Machine.State.abandonInstall
  repeat' first
    | with_reducible assumption
    | with_reducible exact id
    | (extract_lets +onlyGivenNames x; refine (fun (hx : Kept s0 x) => ?_) ?_; clear_value x; rotate_left; dsimp only [x]; clear x)
    | (extract_lets +onlyGivenNames x; clear_value x)
    | with_reducible refine Kept.commandDone ?_
    | with_reducible refine Kept.removeStand ?_
    | with_reducible refine Kept.replacePhase ?_
    | with_reducible refine Kept.stopEvents ?_
    | with_reducible refine Kept.ite ?_ ?_
    | (rewrite [State.mk_lit]; with_reducible refine Kept.lit ?_ ?_)

theorem Kept.reinstall {s0 s : State} {n : Nat} (h_s : Kept s0 s) : Kept s0 (State.reinstall s n) := by
  unfold Sys2Proof.Machine.State.reinstall
  exact Kept.ite (Kept.startZeroing h_s) (Kept.abandonInstall h_s)

theorem Kept.finishInstall {s0 s : State} {n : Nat} (h_s : Kept s0 s) : Kept s0 (State.finishInstall s n) := by
  unfold Sys2Proof.Machine.State.finishInstall
  exact Kept.ite (Kept.testIdle (Kept.completeInstall h_s)) (Kept.abandonInstall h_s)

theorem Kept.eraseConfirmed {s0 s : State} {n : Nat} (h_s : Kept s0 s) : Kept s0 (State.eraseConfirmed s n) := by
  unfold Sys2Proof.Machine.State.eraseConfirmed
  repeat' first
    | with_reducible assumption
    | with_reducible exact id
    | (extract_lets +onlyGivenNames x; refine (fun (hx : Kept s0 x) => ?_) ?_; clear_value x; rotate_left; dsimp only [x]; clear x)
    | (extract_lets +onlyGivenNames x; clear_value x)
    | with_reducible refine Kept.reinstall ?_
    | with_reducible refine Kept.releaseStand ?_
    | with_reducible refine Kept.removeStand ?_
    | with_reducible refine Kept.replacePhase ?_
    | with_reducible refine Kept.resetEvent ?_
    | with_reducible refine Kept.updStand ?_
    | (rewrite [State.mk_lit]; with_reducible refine Kept.lit ?_ ?_)
    | split

theorem Kept.stopStand {s0 s : State} {n cause : Nat} (h_s : Kept s0 s) : Kept s0 (State.stopStand s n cause) := by
  unfold Sys2Proof.Machine.State.stopStand
  repeat' first
    | with_reducible assumption
    | (extract_lets +onlyGivenNames x; refine (fun (hx : Kept s0 x) => ?_) ?_; clear_value x; rotate_left; dsimp only [x]; clear x)
    | (extract_lets +onlyGivenNames x; clear_value x)
    | with_reducible refine Kept.commandDone ?_
    | with_reducible refine Kept.drainEnd ?_
    | with_reducible refine Kept.eventOf ?_
    | with_reducible refine Kept.startReset ?_
    | with_reducible refine Kept.updLife ?_
    | with_reducible refine Kept.updStand ?_
    | with_reducible refine Kept.ite ?_ ?_
    | split

theorem Kept.packageReset {s0 s : State} {cause : Nat} (h_s : Kept s0 s) : Kept s0 (State.packageReset s cause) := by
  unfold Sys2Proof.Machine.State.packageReset
  repeat' first
    | with_reducible assumption
    | with_reducible exact id
    | with_reducible refine Mem.forget_kept ?_
    | (extract_lets +onlyGivenNames x; refine (fun (hx : Kept s0 x) => ?_) ?_; clear_value x; rotate_left; dsimp only [x]; clear x)
    | (extract_lets +onlyGivenNames x; clear_value x)
    | with_reducible refine Kept.setReg ?_
    | (rewrite [State.mk_lit]; with_reducible refine Kept.lit ?_ ?_)

theorem Kept.retryMs {s0 s : State} {on : Bool} (h_s : Kept s0 s) : Kept s0 (State.retryMs s on) := by
  unfold Sys2Proof.Machine.State.retryMs
  exact Kept.ite (Kept.setFld (Kept.draw h_s)) (Kept.setFld h_s)

theorem Kept.startFirmware {s0 s : State} {i : Nat} {p : List Byte} {fails : Nat} (h_s : Kept s0 s) :
    Kept s0 (State.startFirmware s i p fails) := by
  unfold Sys2Proof.Machine.State.startFirmware
  repeat' first
    | with_reducible assumption
    | with_reducible exact id
    | (extract_lets +onlyGivenNames x; refine (fun (hx : Kept s0 x) => ?_) ?_; clear_value x; rotate_left; dsimp only [x]; clear x)
    | with_reducible refine Kept.measurePkg ?_
    | with_reducible refine Kept.retryMs ?_
    | with_reducible refine Kept.setFld ?_
    | with_reducible refine Kept.showFuses ?_
    | with_reducible refine Kept.showLink ?_
    | with_reducible refine Kept.startLeaves ?_
    | with_reducible refine Kept.updFuses ?_ ?_
    | with_reducible refine Kept.updHeart ?_
    | with_reducible refine Kept.ite ?_ ?_
    | with_reducible refine Kept.foldl ?_ (fun _ _ _ => ?_) _
    | (rewrite [State.mk_lit]; with_reducible refine Kept.lit ?_ ?_)
    | (refine Burnt.mk ?_ ?_ ?_ ?_ ?_ <;> simp <;> omega)

theorem Kept.powerUp {s0 s : State} {fails : Nat} (h_s : Kept s0 s) : Kept s0 (State.powerUp s fails) := by
  unfold Sys2Proof.Machine.State.powerUp
  repeat' first
    | with_reducible assumption
    | with_reducible exact id
    | (extract_lets +onlyGivenNames x; clear_value x)
    | with_reducible refine Kept.startFirmware ?_
    | with_reducible refine Kept.ite ?_ ?_
    | (rewrite [State.mk_lit]; with_reducible refine Kept.lit ?_ ?_)
    | split

theorem Kept.maskCore {s0 s : State} {v : Nat} (h_s : Kept s0 s) : Kept s0 (State.maskCore s v) := by
  unfold Sys2Proof.Machine.State.maskCore
  repeat' first
    | with_reducible assumption
    | (extract_lets +onlyGivenNames x; clear_value x)
    | with_reducible refine Kept.setFld ?_

theorem Kept.groveOut {s0 s : State} {g : Nat} (h_s : Kept s0 s) : Kept s0 (State.groveOut s g) := by
  unfold Sys2Proof.Machine.State.groveOut
  exact Kept.event (Kept.setFld h_s)

theorem Kept.showSlot {s0 s : State} {i status : Nat} (h_s : Kept s0 s) : Kept s0 (State.showSlot s i status) := by
  unfold Sys2Proof.Machine.State.showSlot
  repeat' first
    | with_reducible assumption
    | (extract_lets +onlyGivenNames x; clear_value x)
    | with_reducible refine Kept.setReg ?_
    | split

theorem Kept.chooseSlot {s0 s : State} {first : Bool} {a0 : List Nat} (h_s : Kept s0 s) :
    Kept s0 (State.chooseSlot s first a0).1 := by
  induction a0 generalizing s first with
  | nil =>
    unfold Sys2Proof.Machine.State.chooseSlot
    repeat' first
      | with_reducible assumption
      | (extract_lets +onlyGivenNames x; refine (fun (hx : Kept s0 x) => ?_) ?_; clear_value x; rotate_left; dsimp only [x]; clear x)
      | (extract_lets +onlyGivenNames x; clear_value x)
      | with_reducible refine Kept.flagHwd ?_
      | with_reducible refine Kept.heartEvent ?_
      | with_reducible refine Kept.setFld ?_
      | with_reducible refine Kept.showSlot ?_
      | with_reducible refine Kept.ite ?_ ?_
      | with_reducible refine Kept.ite1 ?_ ?_
  | cons b l ih =>
    unfold Sys2Proof.Machine.State.chooseSlot
    repeat' first
      | with_reducible assumption
      | with_reducible refine ih ?_
      | (extract_lets +onlyGivenNames x; refine (fun (hx : Kept s0 x) => ?_) ?_; clear_value x; rotate_left; dsimp only [x]; clear x)
      | (extract_lets +onlyGivenNames x; clear_value x)
      | with_reducible refine Kept.flagHwd ?_
      | with_reducible refine Kept.heartEvent ?_
      | with_reducible refine Kept.setFld ?_
      | with_reducible refine Kept.showSlot ?_
      | with_reducible refine Kept.ite ?_ ?_
      | with_reducible refine Kept.ite1 ?_ ?_

theorem Kept.overlay {s0 s : State} {n : Nat} {a0 : List Nat} (h_s : Kept s0 s) : Kept s0 (State.overlay s n a0) := by
  induction a0 generalizing s n with
  | nil =>
    unfold Sys2Proof.Machine.State.overlay
    repeat' first
      | with_reducible assumption
      | with_reducible exact id
      | (extract_lets +onlyGivenNames x; refine (fun (hx : Kept s0 x) => ?_) ?_; clear_value x; rotate_left; dsimp only [x]; clear x)
      | (extract_lets +onlyGivenNames x; clear_value x)
      | with_reducible refine Kept.flagHwd ?_
      | with_reducible refine Kept.heartEvent ?_
      | with_reducible refine Kept.ite ?_ ?_
      | (rewrite [State.mk_lit]; with_reducible refine Kept.lit ?_ ?_)
  | cons b l ih =>
    unfold Sys2Proof.Machine.State.overlay
    repeat' first
      | with_reducible assumption
      | with_reducible refine ih ?_
      | with_reducible exact id
      | (extract_lets +onlyGivenNames x; refine (fun (hx : Kept s0 x) => ?_) ?_; clear_value x; rotate_left; dsimp only [x]; clear x)
      | (extract_lets +onlyGivenNames x; clear_value x)
      | with_reducible refine Kept.flagHwd ?_
      | with_reducible refine Kept.heartEvent ?_
      | with_reducible refine Kept.ite ?_ ?_
      | (rewrite [State.mk_lit]; with_reducible refine Kept.lit ?_ ?_)

theorem Kept.activate {s0 s : State} {i : Nat} (h_s : Kept s0 s) : Kept s0 (State.activate s i) := by
  unfold Sys2Proof.Machine.State.activate
  repeat' first
    | with_reducible assumption
    | with_reducible exact id
    | (extract_lets +onlyGivenNames x; refine (fun (hx : Kept s0 x) => ?_) ?_; clear_value x; rotate_left; dsimp only [x]; clear x)
    | (extract_lets +onlyGivenNames x; clear_value x)
    | with_reducible refine Kept.overlay ?_
    | with_reducible refine Kept.foldl ?_ (fun _ _ _ => ?_) _
    | (rewrite [State.mk_lit]; with_reducible refine Kept.lit ?_ ?_)

theorem Kept.startLists {s0 s : State} (h_s : Kept s0 s) : Kept s0 (State.startLists s) := by
  unfold Sys2Proof.Machine.State.startLists
  repeat' first
    | with_reducible assumption
    | (extract_lets +onlyGivenNames x; refine (fun (hx : Kept s0 x) => ?_) ?_; clear_value x; rotate_left; dsimp only [x]; clear x)
    | (extract_lets +onlyGivenNames x; clear_value x)
    | with_reducible refine Kept.installHubList ?_
    | with_reducible refine Kept.operate ?_
    | with_reducible refine Kept.setReg ?_
    | with_reducible refine Kept.foldl ?_ (fun _ _ _ => ?_) _

theorem Kept.startImage {s0 s : State} {i : Nat} (h_s : Kept s0 s) : Kept s0 (State.startImage s i) := by
  unfold Sys2Proof.Machine.State.startImage
  repeat' first
    | with_reducible assumption
    | with_reducible exact id
    | (extract_lets +onlyGivenNames x; refine (fun (hx : Kept s0 x) => ?_) ?_; clear_value x; rotate_left; dsimp only [x]; clear x)
    | (extract_lets +onlyGivenNames x; clear_value x)
    | with_reducible refine Kept.activate ?_
    | with_reducible refine Kept.loadPackage ?_
    | with_reducible refine Kept.measurePkg ?_
    | with_reducible refine Kept.reinstall ?_
    | with_reducible refine Kept.setFld ?_
    | with_reducible refine Kept.stageHdm ?_
    | with_reducible refine Kept.startLists ?_
    | with_reducible refine Kept.trainDdr ?_
    | with_reducible refine Kept.updLife ?_
    | with_reducible refine Kept.foldl ?_ (fun _ _ _ => ?_) _
    | (rewrite [State.mk_lit]; with_reducible refine Kept.lit ?_ ?_)

theorem Kept.waitForImage {s0 s : State} (h_s : Kept s0 s) : Kept s0 (State.waitForImage s) := by
  unfold Sys2Proof.Machine.State.waitForImage
  repeat' first
    | with_reducible assumption
    | with_reducible exact id
    | (extract_lets +onlyGivenNames x; refine (fun (hx : Kept s0 x) => ?_) ?_; clear_value x; rotate_left; dsimp only [x]; clear x)
    | with_reducible refine Kept.setFld ?_
    | (rewrite [State.mk_lit]; with_reducible refine Kept.lit ?_ ?_)

theorem Kept.startFromFlash {s0 s : State} (h_s : Kept s0 s) : Kept s0 (State.startFromFlash s) := by
  unfold Sys2Proof.Machine.State.startFromFlash
  repeat' first
    | with_reducible assumption
    | (extract_lets +onlyGivenNames x; refine (fun (hx : Kept s0 x) => ?_) ?_; clear_value x; rotate_left; dsimp only [x]; clear x)
    | with_reducible refine Kept.chooseSlot ?_
    | with_reducible refine Kept.setFld ?_
    | with_reducible refine Kept.showSlot ?_
    | with_reducible refine Kept.startImage ?_
    | with_reducible refine Kept.waitForImage ?_
    | with_reducible refine Kept.fst ?_ (by with_reducible assumption)
    | with_reducible refine Kept.foldl ?_ (fun _ _ _ => ?_) _
    | split

theorem Kept.stopOutputs {s0 s : State} (h_s : Kept s0 s) : Kept s0 (State.stopOutputs s) := by
  unfold Sys2Proof.Machine.State.stopOutputs
  repeat' first
    | with_reducible assumption
    | with_reducible exact id
    | (extract_lets +onlyGivenNames x; refine (fun (hx : Kept s0 x) => ?_) ?_; clear_value x; rotate_left; dsimp only [x]; clear x)
    | (extract_lets +onlyGivenNames x; clear_value x)
    | with_reducible refine Kept.resetReg ?_
    | with_reducible refine Kept.setReg ?_
    | with_reducible refine Kept.updPort ?_
    | with_reducible refine Kept.foldl ?_ (fun _ _ _ => ?_) _
    | (rewrite [State.mk_lit]; with_reducible refine Kept.lit ?_ ?_)

end Sys2Proof.Machine
end

