-- ==== Sys2Proof/Laws/KeptTrust.lean ====
section
/-! SUPPORT. Every operation of trust, image, reset, power and fault commands keeps the queue, the canonical form of memory and burnt fuses
(`Kept`): one lemma for each. -/

namespace Sys2Proof.Machine

open Sys2Proof

set_option linter.unusedVariables false
set_option linter.tactic.unusedName false

theorem Kept.replied {s0 : State} {x : State × Reply} (h_x : Kept s0 x.1) : Kept s0 (replied x).1 := by
  unfold Sys2Proof.Machine.replied
  exact h_x

theorem Kept.refusedWith {s0 s : State} {status : Nat} (h_s : Kept s0 s) : Kept s0 (refusedWith s status).1 := by
  unfold Sys2Proof.Machine.refusedWith
  exact h_s

theorem Kept.execGetQuote {s0 : State} {f : Fn} {m v fails : Nat} {s : State} (h_s : Kept s0 s) :
    NextWith (execGetQuote f m v fails s) (Kept s0) := by
  unfold Sys2Proof.Machine.execGetQuote
  exact Kept.next (Kept.heartCommand h_s fun x0 x1 a => Kept.replied (Kept.getQuote a))

theorem Kept.execGetLog {s0 : State} {f : Fn} {m v : Nat} {s : State} (h_s : Kept s0 s) :
    NextWith (execGetLog f m v s) (Kept s0) := by
  unfold Sys2Proof.Machine.execGetLog
  exact Kept.next (Kept.heartCommand h_s fun x0 x1 a => Kept.replied (Kept.getLog a))

theorem Kept.execGetCert {s0 : State} {f : Fn} {m v : Nat} {s : State} (h_s : Kept s0 s) :
    NextWith (execGetCert f m v s) (Kept s0) := by
  unfold Sys2Proof.Machine.execGetCert
  exact Kept.next (Kept.heartCommand h_s fun x0 x1 => id)

theorem Kept.execGetKemKey {s0 : State} {f : Fn} {m v : Nat} {s : State} (h_s : Kept s0 s) :
    NextWith (execGetKemKey f m v s) (Kept s0) := by
  unfold Sys2Proof.Machine.execGetKemKey
  exact Kept.next (Kept.heartCommand h_s fun x0 x1 a => Kept.replied (Kept.getKemKey a))

theorem Kept.randomBytes {s0 : State} {a0 : Nat} {a1 : State} (h_a1 : Kept s0 a1) :
    Kept s0 (State.randomBytes a0 a1).2 := by
  induction a0 generalizing a1 with
  | zero =>
    unfold Sys2Proof.Machine.State.randomBytes
    repeat' first
      | with_reducible assumption
      | with_reducible refine Kept.draw ?_
  | succ k ih =>
    unfold Sys2Proof.Machine.State.randomBytes
    repeat' first
      | with_reducible assumption
      | with_reducible refine ih ?_
      | with_reducible refine Kept.draw ?_

theorem Kept.execHwdRandom {s0 : State} {f : Fn} {m v : Nat} {s : State} (h_s : Kept s0 s) :
    NextWith (execHwdRandom f m v s) (Kept s0) := by
  unfold Sys2Proof.Machine.execHwdRandom
  repeat' first
    | with_reducible assumption
    | intro _
    | (extract_lets +onlyGivenNames x; clear_value x)
    | with_reducible refine Kept.heartCommand ?_ ?_
    | with_reducible refine Kept.randomBytes ?_
    | with_reducible refine Kept.refusedWith ?_
    | with_reducible refine Kept.ite1 ?_ ?_
    | with_reducible refine Kept.next ?_

theorem Kept.logFull {s0 s : State} {op m keyId : Nat} (h_s : Kept s0 s) : Kept s0 (State.logFull s op m keyId).1 := by
  unfold Sys2Proof.Machine.State.logFull
  exact Kept.flagHwd h_s

theorem Kept.releaseKey {s0 s : State} {n op kind slots used : Nat} {b : List Byte}
    {put : Nat → List Byte → State → State} (h_s : Kept s0 s) (h_put : ∀ x0 x1 x2, Kept s0 x2 → Kept s0
    (put x0 x1 x2)) :
    Kept s0 (State.releaseKey s n op kind slots used b put).1 := by
  unfold Sys2Proof.Machine.State.releaseKey
  repeat' first
    | with_reducible assumption
    | (extract_lets +onlyGivenNames x; refine (fun (hx : Kept s0 x) => ?_) ?_; clear_value x; rotate_left; dsimp only [x]; clear x)
    | (extract_lets +onlyGivenNames x; clear_value x)
    | with_reducible refine Kept.flagHwd ?_
    | with_reducible refine Kept.heartEvent ?_
    | with_reducible refine Kept.logFull ?_
    | with_reducible refine Kept.measureStand ?_
    | with_reducible refine Kept.refusedWith ?_
    | with_reducible refine h_put _ _ _ ?_
    | with_reducible refine Kept.ite1 ?_ ?_
    | split

theorem Kept.execInstallWeightKey {s0 : State} {f : Fn} {m v : Nat} {s : State} (h_s : Kept s0 s) :
    NextWith (execInstallWeightKey f m v s) (Kept s0) := by
  unfold Sys2Proof.Machine.execInstallWeightKey
  exact Kept.next (Kept.heartCommand h_s fun x0 x1 a => Kept.releaseKey a fun x0 x1 x2 a => Kept.updHeart (Kept.updStand a))

theorem Kept.execRemoveWeightKey {s0 : State} {f : Fn} {m v : Nat} {s : State} (h_s : Kept s0 s) :
    NextWith (execRemoveWeightKey f m v s) (Kept s0) := by
  unfold Sys2Proof.Machine.execRemoveWeightKey
  repeat' first
    | with_reducible assumption
    | intro _
    | (extract_lets +onlyGivenNames x; refine (fun (hx : Kept s0 x) => ?_) ?_; clear_value x; rotate_left; dsimp only [x]; clear x)
    | (extract_lets +onlyGivenNames x; clear_value x)
    | with_reducible refine Kept.heartCommand ?_ ?_
    | with_reducible refine Kept.heartEvent ?_
    | with_reducible refine Kept.logFull ?_
    | with_reducible refine Kept.measureStand ?_
    | with_reducible refine Kept.refusedWith ?_
    | with_reducible refine Kept.updStand ?_
    | with_reducible refine Kept.ite1 ?_ ?_
    | with_reducible refine Kept.next ?_
    | split

theorem Kept.sapwayArea {s0 s : State} {n keyId base units : Nat} (h_s : Kept s0 s) :
    Kept s0 (State.sapwayArea s n keyId base units).1 := by
  unfold Sys2Proof.Machine.State.sapwayArea
  repeat' first
    | with_reducible assumption
    | (extract_lets +onlyGivenNames x; clear_value x)
    | with_reducible refine Kept.register ?_
    | with_reducible refine Kept.ite1 ?_ ?_

theorem Kept.registerSapway {s0 s : State} {n keyId : Nat} (h_s : Kept s0 s) :
    Kept s0 (State.registerSapway s n keyId) := by
  unfold Sys2Proof.Machine.State.registerSapway
  repeat' first
    | with_reducible assumption
    | with_reducible refine Kept.sapwayArea ?_
    | with_reducible refine Kept.updStand ?_
    | with_reducible refine Kept.fst ?_ (by with_reducible assumption)
    | split

theorem Kept.execJobTicket {s0 : State} {f : Fn} {m v : Nat} {s : State} (h_s : Kept s0 s) :
    NextWith (execJobTicket f m v s) (Kept s0) := by
  unfold Sys2Proof.Machine.execJobTicket
  repeat' first
    | with_reducible assumption
    | intro _
    | (extract_lets +onlyGivenNames x; clear_value x)
    | with_reducible refine Kept.heartCommand ?_ ?_
    | with_reducible refine Kept.randomBytes ?_
    | with_reducible refine Kept.registerSapway ?_
    | with_reducible refine Kept.releaseKey ?_ ?_
    | with_reducible refine Kept.updStand ?_
    | with_reducible refine Kept.ite ?_ ?_
    | with_reducible refine Kept.next ?_

theorem Kept.heartSend {s0 s : State} {p : Nat} {peer : Peer} {text : List Byte} (h_s : Kept s0 s) :
    Kept s0 (State.heartSend s p peer text) := by
  unfold Sys2Proof.Machine.State.heartSend
  repeat' first
    | with_reducible assumption
    | (extract_lets +onlyGivenNames x; clear_value x)
    | with_reducible refine Kept.enqueue ?_
    | with_reducible refine Kept.ite ?_ ?_

theorem Kept.sendJoin {s0 s : State} {n : Nat} (h_s : Kept s0 s) : Kept s0 (State.sendJoin s n) := by
  unfold Sys2Proof.Machine.State.sendJoin
  repeat' first
    | with_reducible assumption
    | with_reducible refine Kept.heartSend ?_
    | split

theorem Kept.execJobJoin {s0 : State} {f : Fn} {m v : Nat} {s : State} (h_s : Kept s0 s) :
    NextWith (execJobJoin f m v s) (Kept s0) := by
  unfold Sys2Proof.Machine.execJobJoin
  repeat' first
    | with_reducible assumption
    | intro _
    | (extract_lets +onlyGivenNames x; clear_value x)
    | with_reducible refine Kept.draw ?_
    | with_reducible refine Kept.heartCommand ?_ ?_
    | with_reducible refine Kept.logFull ?_
    | with_reducible refine Kept.randomBytes ?_
    | with_reducible refine Kept.refusedWith ?_
    | with_reducible refine Kept.sendJoin ?_
    | with_reducible refine Kept.updStand ?_
    | with_reducible refine Kept.ite1 ?_ ?_
    | with_reducible refine Kept.next ?_
    | split

theorem Kept.heartReceive {s0 s : State} {p : Nat} {f : FabFrame} {len : Nat} (h_s : Kept s0 s) :
    Kept s0 (State.heartReceive s p f len).1 := by
  unfold Sys2Proof.Machine.State.heartReceive
  repeat' first
    | with_reducible assumption
    | (extract_lets +onlyGivenNames x; refine (fun (hx : Kept s0 x) => ?_) ?_; clear_value x; rotate_left; dsimp only [x]; clear x)
    | (extract_lets +onlyGivenNames x; clear_value x)
    | with_reducible refine Kept.addFld ?_
    | with_reducible refine Kept.classify ?_
    | with_reducible refine Kept.rxDrop ?_
    | with_reducible refine Kept.ite1 ?_ ?_

theorem Kept.execJoinRequest {s0 : State} {p : Nat} {f : FabFrame} {s : State} (h_s : Kept s0 s) :
    NextWith (execJoinRequest p f s) (Kept s0) := by
  unfold Sys2Proof.Machine.execJoinRequest
  repeat' first
    | with_reducible assumption
    | (extract_lets +onlyGivenNames x; clear_value x)
    | with_reducible refine Kept.draw ?_
    | with_reducible refine Kept.heartReceive ?_
    | with_reducible refine Kept.heartSend ?_
    | with_reducible refine Kept.randomBytes ?_
    | with_reducible refine Kept.updStand ?_
    | with_reducible refine Kept.fst ?_ (by with_reducible assumption)
    | with_reducible refine Kept.next ?_
    | split

theorem Kept.execJoinResponse {s0 : State} {p : Nat} {f : FabFrame} {s : State} (h_s : Kept s0 s) :
    NextWith (execJoinResponse p f s) (Kept s0) := by
  unfold Sys2Proof.Machine.execJoinResponse
  repeat' first
    | with_reducible assumption
    | (extract_lets +onlyGivenNames x; have : ∀ a, x a = x a := fun _ => rfl; clear this; (try dsimp only [x]); clear x)
    | with_reducible refine Kept.boxDone ?_
    | with_reducible refine Kept.heartEvent ?_
    | with_reducible refine Kept.heartReceive ?_
    | with_reducible refine Kept.measureStand ?_
    | with_reducible refine Kept.registerSapway ?_
    | with_reducible refine Kept.updStand ?_
    | with_reducible refine Kept.ite ?_ ?_
    | with_reducible refine Kept.fst ?_ (by with_reducible assumption)
    | with_reducible refine Kept.next ?_
    | split

theorem Kept.execJoinRetry {s0 : State} {n : Nat} {s : State} (h_s : Kept s0 s) :
    NextWith (execJoinRetry n s) (Kept s0) := by
  unfold Sys2Proof.Machine.execJoinRetry
  repeat' first
    | with_reducible assumption
    | with_reducible refine Kept.boxDone ?_
    | with_reducible refine Kept.flagHwd ?_
    | with_reducible refine Kept.sendJoin ?_
    | with_reducible refine Kept.updStand ?_
    | with_reducible refine Kept.ite ?_ ?_
    | with_reducible refine Kept.next ?_
    | split

theorem Kept.execJobRemove {s0 : State} {f : Fn} {m v : Nat} {s : State} (h_s : Kept s0 s) :
    NextWith (execJobRemove f m v s) (Kept s0) := by
  unfold Sys2Proof.Machine.execJobRemove
  repeat' first
    | with_reducible assumption
    | intro _
    | (extract_lets +onlyGivenNames x; refine (fun (hx : Kept s0 x) => ?_) ?_; clear_value x; rotate_left; dsimp only [x]; clear x)
    | (extract_lets +onlyGivenNames x; clear_value x)
    | with_reducible refine Kept.canopyCheck ?_
    | with_reducible refine Kept.heartCommand ?_ ?_
    | with_reducible refine Kept.heartEvent ?_
    | with_reducible refine Kept.logFull ?_
    | with_reducible refine Kept.measureStand ?_
    | with_reducible refine Kept.refusedWith ?_
    | with_reducible refine Kept.revoke ?_
    | with_reducible refine Kept.updStand ?_
    | with_reducible refine Kept.ite1 ?_ ?_
    | with_reducible refine Kept.foldl ?_ (fun _ _ _ => ?_) _
    | with_reducible refine Kept.next ?_
    | split

theorem Kept.execEnrolOwner {s0 : State} {f : Fn} {m v : Nat} {s : State} (h_s : Kept s0 s) :
    NextWith (execEnrolOwner f m v s) (Kept s0) := by
  unfold Sys2Proof.Machine.execEnrolOwner
  repeat' first
    | with_reducible assumption
    | (refine Burnt.mk ⟨_, rfl⟩ (fun _ => by simp; omega) (Nat.and_self _) (Nat.le_refl _) (Nat.le_refl _))
    | with_reducible exact id
    | intro _
    | (extract_lets +onlyGivenNames x; refine (fun (hx : Kept s0 x) => ?_) ?_; clear_value x; rotate_left; dsimp only [x]; clear x)
    | (extract_lets +onlyGivenNames x; refine (fun (hx : Kept s0 x.1) => ?_) ?_; clear_value x; rotate_left; dsimp only [x]; clear x)
    | (extract_lets +onlyGivenNames x; refine (fun (hx : Kept s0 x.2) => ?_) ?_; clear_value x; rotate_left; dsimp only [x]; clear x)
    | (extract_lets +onlyGivenNames x; refine (fun (hx : ∀ t, x = some t → Kept s0 t) => ?_) ?_; clear_value x; rotate_left; intro t ht; dsimp only [x] at ht; clear x)
    | (extract_lets +onlyGivenNames x; have : ∀ a, x a = x a := fun _ => rfl; clear this; (try dsimp only [x]); clear x)
    | (extract_lets +onlyGivenNames x; clear_value x)
    | with_reducible refine Kept.heartCommand ?_ ?_
    | with_reducible refine Kept.refusedWith ?_
    | with_reducible refine Kept.showFuses ?_
    | with_reducible refine Kept.updFuses ?_ ?_
    | with_reducible refine Kept.fst ?_ (by with_reducible assumption)
    | with_reducible refine Kept.snd ?_ (by with_reducible assumption)
    | (rewrite [State.mk_lit]; with_reducible refine Kept.lit ?_ ?_)
    | with_reducible refine Kept.next ?_
    | (refine Burnt.mk ?_ ?_ ?_ ?_ ?_ <;> simp <;> omega)
    | split
    | with_reducible rfl
    | dsimp only

theorem Kept.releaseReset {s0 s : State} {n : Nat} (h_s : Kept s0 s) : Kept s0 (State.releaseReset s n) := by
  unfold Sys2Proof.Machine.State.releaseReset
  repeat' first
    | with_reducible assumption
    | (extract_lets +onlyGivenNames x; have : ∀ a, x a = x a := fun _ => rfl; clear this; (try dsimp only [x]); clear x)
    | (extract_lets +onlyGivenNames x; clear_value x)
    | with_reducible refine Kept.commandDone ?_
    | with_reducible refine Kept.drainEnd ?_
    | with_reducible refine Kept.removeStand ?_
    | with_reducible refine Kept.resetEvent ?_
    | with_reducible refine Kept.startReset ?_
    | with_reducible refine Kept.updLife ?_
    | with_reducible refine Kept.ite ?_ ?_
    | split

theorem Kept.badSignature {s0 s : State} {op cfg m : Nat} (h_s : Kept s0 s) : Kept s0 (State.badSignature s op cfg m) := by
  unfold Sys2Proof.Machine.State.badSignature
  exact Kept.heartEvent (Kept.flagHwd h_s)

theorem Kept.execReleaseOwner {s0 : State} {f : Fn} {m v : Nat} {s : State} (h_s : Kept s0 s) :
    NextWith (execReleaseOwner f m v s) (Kept s0) := by
  unfold Sys2Proof.Machine.execReleaseOwner
  repeat' first
    | with_reducible assumption
    | (refine Burnt.mk (List.prefix_refl _) id ((by apply Nat.eq_of_testBit_eq; intro i; simp; cases x.fuses.revoked.testBit i <;> simp)) (Nat.le_refl _) (Nat.le_refl _))
    | with_reducible exact id
    | with_reducible refine Mem.put_kept ?_
    | with_reducible refine Mem.zero_kept ?_
    | intro _
    | (extract_lets +onlyGivenNames x; refine (fun (hx : Kept s0 x) => ?_) ?_; clear_value x; rotate_left; dsimp only [x]; clear x)
    | (extract_lets +onlyGivenNames x; refine (fun (hx : Kept s0 x.1) => ?_) ?_; clear_value x; rotate_left; dsimp only [x]; clear x)
    | (extract_lets +onlyGivenNames x; refine (fun (hx : Kept s0 x.2) => ?_) ?_; clear_value x; rotate_left; dsimp only [x]; clear x)
    | (extract_lets +onlyGivenNames x; refine (fun (hx : ∀ t, x = some t → Kept s0 t) => ?_) ?_; clear_value x; rotate_left; intro t ht; dsimp only [x] at ht; clear x)
    | (extract_lets +onlyGivenNames x; have : ∀ a, x a = x a := fun _ => rfl; clear this; (try dsimp only [x]); clear x)
    | (extract_lets +onlyGivenNames x; clear_value x)
    | with_reducible refine Kept.badSignature ?_
    | with_reducible refine Kept.deliver ?_
    | with_reducible refine Kept.heartCommand ?_ ?_
    | with_reducible refine Kept.releaseReset ?_
    | with_reducible refine Kept.showFuses ?_
    | with_reducible refine Kept.stopOutputs ?_
    | with_reducible refine Kept.updFuses ?_ ?_
    | with_reducible refine Kept.waitForImage ?_
    | with_reducible refine Kept.fst ?_ (by with_reducible assumption)
    | with_reducible refine Kept.snd ?_ (by with_reducible assumption)
    | with_reducible refine Kept.foldl ?_ (fun _ _ _ => ?_) _
    | with_reducible refine Kept.foldl1 ?_ (fun _ _ _ => ?_) _
    | with_reducible refine Kept.foldl2 ?_ (fun _ _ _ => ?_) _
    | (rewrite [State.mk_lit]; with_reducible refine Kept.lit ?_ ?_)
    | with_reducible refine Kept.next ?_
    | (refine Burnt.mk ?_ ?_ ?_ ?_ ?_ <;> simp <;> omega)
    | split
    | with_reducible rfl
    | dsimp only

theorem Kept.execStageFw {s0 : State} {f : Fn} {m v : Nat} {s : State} (h_s : Kept s0 s) :
    NextWith (execStageFw f m v s) (Kept s0) := by
  unfold Sys2Proof.Machine.execStageFw
  repeat' first
    | with_reducible assumption
    | intro _
    | (extract_lets +onlyGivenNames x; refine (fun (hx : Kept s0 x) => ?_) ?_; clear_value x; rotate_left; dsimp only [x]; clear x)
    | (extract_lets +onlyGivenNames x; clear_value x)
    | with_reducible refine Kept.badSignature ?_
    | with_reducible refine Kept.commitRange ?_
    | with_reducible refine Kept.flashForget ?_
    | with_reducible refine Kept.flashWrite ?_
    | with_reducible refine Kept.heartCommand ?_ ?_
    | with_reducible refine Kept.refusedWith ?_
    | with_reducible refine Kept.showFuses ?_
    | with_reducible refine Kept.updFuses ?_ ?_
    | with_reducible refine Kept.ite1 ?_ ?_
    | with_reducible refine Kept.next ?_
    | (refine Burnt.mk ?_ ?_ ?_ ?_ ?_ <;> simp <;> omega)

theorem Kept.execApplyFw {s0 : State} {f : Fn} {m v : Nat} {s : State} (h_s : Kept s0 s) :
    NextWith (execApplyFw f m v s) (Kept s0) := by
  unfold Sys2Proof.Machine.execApplyFw
  exact Kept.next (Kept.heartCommand h_s fun x0 x1 a => Kept.ite1 (Kept.refusedWith a) (Kept.ite1 (Kept.logFull a) (Kept.retryMs (Kept.setFld a))))

theorem Kept.execFwRestart {s0 : State} {fails : Nat} {s : State} (h_s : Kept s0 s) :
    NextWith (execFwRestart fails s) (Kept s0) := by
  unfold Sys2Proof.Machine.execFwRestart
  repeat' first
    | with_reducible assumption
    | (extract_lets +onlyGivenNames x; refine (fun (hx : Kept s0 x) => ?_) ?_; clear_value x; rotate_left; dsimp only [x]; clear x)
    | (extract_lets +onlyGivenNames x; clear_value x)
    | with_reducible refine Kept.heartEvent ?_
    | with_reducible refine Kept.measurePkg ?_
    | with_reducible refine Kept.retryMs ?_
    | with_reducible refine Kept.setFld ?_
    | with_reducible refine Kept.showFuses ?_
    | with_reducible refine Kept.startLeaves ?_
    | with_reducible refine Kept.updFuses ?_ ?_
    | with_reducible refine Kept.updHeart ?_
    | with_reducible refine Kept.ite ?_ ?_
    | with_reducible refine Kept.next ?_
    | (refine Burnt.mk ?_ ?_ ?_ ?_ ?_ <;> simp <;> omega)

theorem Kept.execCommitSvn {s0 : State} {f : Fn} {m v : Nat} {s : State} (h_s : Kept s0 s) :
    NextWith (execCommitSvn f m v s) (Kept s0) := by
  unfold Sys2Proof.Machine.execCommitSvn
  repeat' first
    | with_reducible assumption
    | (refine Burnt.mk (List.prefix_refl _) id (Nat.and_self _) (Nat.le_max_left _ _) (Nat.le_refl _))
    | with_reducible exact id
    | intro _
    | with_reducible refine Kept.heartCommand ?_ ?_
    | with_reducible refine Kept.refusedWith ?_
    | with_reducible refine Kept.showFuses ?_
    | with_reducible refine Kept.updFuses ?_ ?_
    | with_reducible refine Kept.fst ?_ (by with_reducible assumption)
    | with_reducible refine Kept.snd ?_ (by with_reducible assumption)
    | (rewrite [State.mk_lit]; with_reducible refine Kept.lit ?_ ?_)
    | with_reducible refine Kept.next ?_
    | (refine Burnt.mk ?_ ?_ ?_ ?_ ?_ <;> simp <;> omega)
    | split
    | with_reducible rfl
    | dsimp only

theorem Kept.execLmsTreeBuilt {s0 s : State} (h_s : Kept s0 s) : NextWith (execLmsTreeBuilt s) (Kept s0) := by
  unfold Sys2Proof.Machine.execLmsTreeBuilt
  repeat' first
    | with_reducible assumption
    | (extract_lets +onlyGivenNames x; refine (fun (hx : Kept s0 x) => ?_) ?_; clear_value x; rotate_left; dsimp only [x]; clear x)
    | with_reducible refine Kept.retryMs ?_
    | with_reducible refine Kept.updHeart ?_
    | with_reducible refine Kept.ite ?_ ?_
    | with_reducible refine Kept.next ?_

theorem Kept.execRelayMessage {s0 : State} {counter : Nat} {intact : Bool} {s : State} (h_s : Kept s0 s) :
    NextWith (execRelayMessage counter intact s) (Kept s0) := by
  unfold Sys2Proof.Machine.execRelayMessage
  exact Kept.next (Kept.ite (Kept.setFld (Kept.updHeart h_s)) h_s)

theorem Kept.mctpHeart {s0 s : State} {ofStand : Bool} {args : List Byte} {len : Nat}
    {run : State → State × Reply} (h_s : Kept s0 s) (h_run : ∀ x0, Kept s0 x0 → Kept s0 (run x0).1) :
    Kept s0 (State.mctpHeart s ofStand args len run) := by
  unfold Sys2Proof.Machine.State.mctpHeart
  repeat' first
    | with_reducible assumption
    | with_reducible refine Kept.draw ?_
    | with_reducible refine Kept.mctpRespond ?_
    | with_reducible refine h_run _ ?_
    | with_reducible refine Kept.ite ?_ ?_

theorem Kept.execMctpGetQuote {s0 : State} {args : List Byte} {fails : Nat} {s : State} (h_s : Kept s0 s) :
    NextWith (execMctpGetQuote args fails s) (Kept s0) := by
  unfold Sys2Proof.Machine.execMctpGetQuote
  exact Kept.next (Kept.mctpHeart h_s fun x0 a => Kept.getQuote a)

theorem Kept.execMctpGetLog {s0 : State} {args : List Byte} {s : State} (h_s : Kept s0 s) :
    NextWith (execMctpGetLog args s) (Kept s0) := by
  unfold Sys2Proof.Machine.execMctpGetLog
  exact Kept.next (Kept.mctpHeart h_s fun x0 a => Kept.getLog a)

theorem Kept.execMctpGetCert {s0 s : State} (h_s : Kept s0 s) : NextWith (execMctpGetCert s) (Kept s0) := by
  unfold Sys2Proof.Machine.execMctpGetCert
  exact Kept.next (Kept.mctpHeart h_s fun x0 => id)

theorem Kept.execMctpGetKemKey {s0 : State} {args : List Byte} {s : State} (h_s : Kept s0 s) :
    NextWith (execMctpGetKemKey args s) (Kept s0) := by
  unfold Sys2Proof.Machine.execMctpGetKemKey
  exact Kept.next (Kept.mctpHeart h_s fun x0 a => Kept.getKemKey a)

theorem Kept.cfgCommand {s0 s : State} {f : Fn} {v op : Nat}
    {run : Nat → FlashRange → Nat → State → State × Option Reply} (h_s : Kept s0 s)
    (h_run : ∀ x0 x1 x2 x3, Kept s0 x3 → Kept s0 (run x0 x1 x2 x3).1) :
    Kept s0 (State.cfgCommand s f v op run) := by
  unfold Sys2Proof.Machine.State.cfgCommand
  repeat' first
    | with_reducible assumption
    | intro _
    | (extract_lets +onlyGivenNames x; clear_value x)
    | with_reducible refine Kept.boxWrite ?_ ?_
    | with_reducible refine Kept.refusedWith ?_
    | with_reducible refine h_run _ _ _ _ ?_
    | with_reducible refine Kept.ite1 ?_ ?_
    | split

theorem Kept.execImageErase {s0 : State} {f : Fn} {v : Nat} {failed : Bool} {s : State} (h_s : Kept s0 s) :
    NextWith (execImageErase f v failed s) (Kept s0) := by
  unfold Sys2Proof.Machine.execImageErase
  exact Kept.next (Kept.cfgCommand h_s fun x0 x1 x2 x3 a => Kept.flashForget a)

theorem Kept.execImageWrite {s0 : State} {f : Fn} {v : Nat} {failed : Bool} {s : State} (h_s : Kept s0 s) :
    NextWith (execImageWrite f v failed s) (Kept s0) := by
  unfold Sys2Proof.Machine.execImageWrite
  repeat' first
    | with_reducible assumption
    | intro _
    | with_reducible refine Kept.cfgCommand ?_ ?_
    | with_reducible refine Kept.flashForget ?_
    | with_reducible refine Kept.flashWrite ?_
    | with_reducible refine Kept.refusedWith ?_
    | with_reducible refine Kept.ite1 ?_ ?_
    | with_reducible refine Kept.next ?_
    | split

theorem Kept.startReplace {s0 s : State} {n k seq : Nat} {sec : List Byte} (h_s : Kept s0 s) :
    Kept s0 (State.startReplace s n k seq sec) := by
  unfold Sys2Proof.Machine.State.startReplace
  repeat' first
    | with_reducible assumption
    | with_reducible exact id
    | (extract_lets +onlyGivenNames x; refine (fun (hx : Kept s0 x) => ?_) ?_; clear_value x; rotate_left; dsimp only [x]; clear x)
    | (extract_lets +onlyGivenNames x; clear_value x)
    | with_reducible refine Kept.eraseConfirmed ?_
    | with_reducible refine Kept.recompose ?_
    | with_reducible refine Kept.reinstall ?_
    | with_reducible refine Kept.replacePhase ?_
    | with_reducible refine Kept.setReg ?_
    | with_reducible refine Kept.startReset ?_
    | with_reducible refine Kept.takeOver ?_
    | with_reducible refine Kept.updLife ?_
    | with_reducible refine Kept.ite ?_ ?_
    | (rewrite [State.mk_lit]; with_reducible refine Kept.lit ?_ ?_)
    | split

theorem Kept.commitImage {s0 s : State} {r : FlashRange} {b : List Byte} (h_s : Kept s0 s) :
    Kept s0 (State.commitImage s r b) := by
  unfold Sys2Proof.Machine.State.commitImage
  exact Kept.commitRange h_s

theorem Kept.execImageCommit {s0 : State} {f : Fn} {v : Nat} {failed : Bool} {s : State} (h_s : Kept s0 s) :
    NextWith (execImageCommit f v failed s) (Kept s0) := by
  unfold Sys2Proof.Machine.execImageCommit
  repeat' first
    | with_reducible assumption
    | intro _
    | (extract_lets +onlyGivenNames x; refine (fun (hx : Kept s0 x) => ?_) ?_; clear_value x; rotate_left; dsimp only [x]; clear x)
    | (extract_lets +onlyGivenNames x; clear_value x)
    | with_reducible refine Kept.badSignature ?_
    | with_reducible refine Kept.cfgCommand ?_ ?_
    | with_reducible refine Kept.commitImage ?_
    | with_reducible refine Kept.deliver ?_
    | with_reducible refine Kept.flashForget ?_
    | with_reducible refine Kept.refusedWith ?_
    | with_reducible refine Kept.showSlot ?_
    | with_reducible refine Kept.startImage ?_
    | with_reducible refine Kept.startReplace ?_
    | with_reducible refine Kept.ite ?_ ?_
    | with_reducible refine Kept.ite1 ?_ ?_
    | with_reducible refine Kept.next ?_

theorem Kept.holdReset {s0 s : State} {cause : Nat} (h_s : Kept s0 s) : Kept s0 (State.holdReset s cause) := by
  unfold Sys2Proof.Machine.State.holdReset
  repeat' first
    | with_reducible assumption
    | with_reducible exact id
    | (extract_lets +onlyGivenNames x; refine (fun (hx : Kept s0 x) => ?_) ?_; clear_value x; rotate_left; dsimp only [x]; clear x)
    | with_reducible refine Kept.packageReset ?_
    | (rewrite [State.mk_lit]; with_reducible refine Kept.lit ?_ ?_)

theorem Kept.restart {s0 s : State} {cause fails : Nat} (h_s : Kept s0 s) : Kept s0 (State.restart s cause fails) := by
  unfold Sys2Proof.Machine.State.restart
  exact Kept.powerUp (Kept.packageReset h_s)

theorem Kept.execPwrokRise {s0 : State} {fails : Nat} {s : State} (h_s : Kept s0 s) :
    NextWith (execPwrokRise fails s) (Kept s0) := by
  unfold Sys2Proof.Machine.execPwrokRise
  repeat' first
    | with_reducible assumption
    | with_reducible exact id
    | (extract_lets +onlyGivenNames x; refine (fun (hx : Kept s0 x) => ?_) ?_; clear_value x; rotate_left; dsimp only [x]; clear x)
    | (extract_lets +onlyGivenNames x; clear_value x)
    | with_reducible refine Kept.powerUp ?_
    | with_reducible refine Kept.ite ?_ ?_
    | (rewrite [State.mk_lit]; with_reducible refine Kept.lit ?_ ?_)
    | with_reducible refine Kept.next ?_

theorem Kept.execPwrokFall {s0 s : State} (h_s : Kept s0 s) : NextWith (execPwrokFall s) (Kept s0) := by
  unfold Sys2Proof.Machine.execPwrokFall
  repeat' first
    | with_reducible assumption
    | with_reducible exact id
    | (extract_lets +onlyGivenNames x; refine (fun (hx : Kept s0 x) => ?_) ?_; clear_value x; rotate_left; dsimp only [x]; clear x)
    | (extract_lets +onlyGivenNames x; clear_value x)
    | with_reducible refine Kept.packageReset ?_
    | with_reducible refine Kept.ite ?_ ?_
    | (rewrite [State.mk_lit]; with_reducible refine Kept.lit ?_ ?_)
    | with_reducible refine Kept.next ?_

theorem Kept.execRstNLow {s0 s : State} (h_s : Kept s0 s) : NextWith (execRstNLow s) (Kept s0) := by
  unfold Sys2Proof.Machine.execRstNLow
  repeat' first
    | with_reducible assumption
    | with_reducible exact id
    | (extract_lets +onlyGivenNames x; refine (fun (hx : Kept s0 x) => ?_) ?_; clear_value x; rotate_left; dsimp only [x]; clear x)
    | (extract_lets +onlyGivenNames x; clear_value x)
    | with_reducible refine Kept.holdReset ?_
    | with_reducible refine Kept.ite ?_ ?_
    | (rewrite [State.mk_lit]; with_reducible refine Kept.lit ?_ ?_)
    | with_reducible refine Kept.next ?_

theorem Kept.execPerstNLow {s0 s : State} (h_s : Kept s0 s) : NextWith (execPerstNLow s) (Kept s0) := by
  unfold Sys2Proof.Machine.execPerstNLow
  repeat' first
    | with_reducible assumption
    | with_reducible exact id
    | (extract_lets +onlyGivenNames x; clear_value x)
    | with_reducible refine Kept.holdReset ?_
    | with_reducible refine Kept.ite ?_ ?_
    | (rewrite [State.mk_lit]; with_reducible refine Kept.lit ?_ ?_)
    | with_reducible refine Kept.next ?_

theorem Kept.execResetRelease {s0 : State} {fails : Nat} {s : State} (h_s : Kept s0 s) :
    NextWith (execResetRelease fails s) (Kept s0) := by
  unfold Sys2Proof.Machine.execResetRelease
  repeat' first
    | with_reducible assumption
    | with_reducible exact id
    | (extract_lets +onlyGivenNames x; clear_value x)
    | with_reducible refine Kept.powerUp ?_
    | with_reducible refine Kept.ite ?_ ?_
    | (rewrite [State.mk_lit]; with_reducible refine Kept.lit ?_ ?_)
    | with_reducible refine Kept.next ?_

theorem Kept.execTestLogicReset {s0 : State} {fails : Nat} {s : State} (h_s : Kept s0 s) :
    NextWith (execTestLogicReset fails s) (Kept s0) := by
  unfold Sys2Proof.Machine.execTestLogicReset
  repeat' first
    | with_reducible assumption
    | with_reducible exact id
    | (extract_lets +onlyGivenNames x; clear_value x)
    | with_reducible refine Kept.powerUp ?_
    | with_reducible refine Kept.ite ?_ ?_
    | (rewrite [State.mk_lit]; with_reducible refine Kept.lit ?_ ?_)
    | with_reducible refine Kept.next ?_

theorem Kept.execPkgReset {s0 : State} {f : Fn} {v fails : Nat} {s : State} (h_s : Kept s0 s) :
    NextWith (execPkgReset f v fails s) (Kept s0) := by
  unfold Sys2Proof.Machine.execPkgReset
  repeat' first
    | with_reducible assumption
    | with_reducible refine Kept.restart ?_
    | with_reducible refine Kept.writeRow ?_ (by with_reducible assumption)
    | with_reducible refine Kept.ite ?_ ?_
    | with_reducible refine Kept.next ?_
    | split

theorem Kept.execPllUnlock {s0 : State} {refclkLost : Bool} {fails : Nat} {s : State} (h_s : Kept s0 s) :
    NextWith (execPllUnlock refclkLost fails s) (Kept s0) := by
  unfold Sys2Proof.Machine.execPllUnlock
  repeat' first
    | with_reducible assumption
    | with_reducible exact id
    | (extract_lets +onlyGivenNames x; clear_value x)
    | with_reducible refine Kept.restart ?_
    | with_reducible refine Kept.ite ?_ ?_
    | (rewrite [State.mk_lit]; with_reducible refine Kept.lit ?_ ?_)
    | with_reducible refine Kept.next ?_

theorem Kept.execRefclkReturn {s0 : State} {fails : Nat} {s : State} (h_s : Kept s0 s) :
    NextWith (execRefclkReturn fails s) (Kept s0) := by
  unfold Sys2Proof.Machine.execRefclkReturn
  repeat' first
    | with_reducible assumption
    | with_reducible exact id
    | (extract_lets +onlyGivenNames x; clear_value x)
    | with_reducible refine Kept.powerUp ?_
    | with_reducible refine Kept.ite ?_ ?_
    | (rewrite [State.mk_lit]; with_reducible refine Kept.lit ?_ ?_)
    | with_reducible refine Kept.next ?_

theorem Kept.execDdrAlertN {s0 : State} {k : Nat} {low : Bool} {s : State} (h_s : Kept s0 s) :
    NextWith (execDdrAlertN k low s) (Kept s0) := by
  unfold Sys2Proof.Machine.execDdrAlertN
  repeat' first
    | with_reducible assumption
    | with_reducible exact id
    | (extract_lets +onlyGivenNames x; clear_value x)
    | with_reducible refine Kept.ite ?_ ?_
    | (rewrite [State.mk_lit]; with_reducible refine Kept.lit ?_ ?_)
    | with_reducible refine Kept.next ?_

theorem Kept.execPwrVidApplied {s0 : State} {f : Fn} {v : Nat} {s : State} (h_s : Kept s0 s) :
    NextWith (execPwrVidApplied f v s) (Kept s0) := by
  unfold Sys2Proof.Machine.execPwrVidApplied
  repeat' first
    | with_reducible assumption
    | with_reducible refine Kept.applyVid ?_
    | with_reducible refine Kept.writeRow ?_ (by with_reducible assumption)
    | with_reducible refine Kept.ite ?_ ?_
    | with_reducible refine Kept.next ?_
    | split

theorem Kept.execPowerUpGroveTest {s0 : State} {cores groves : List Nat} {s : State} (h_s : Kept s0 s) :
    NextWith (execPowerUpGroveTest cores groves s) (Kept s0) := by
  unfold Sys2Proof.Machine.execPowerUpGroveTest
  repeat' first
    | with_reducible assumption
    | (extract_lets +onlyGivenNames x; refine (fun (hx : Kept s0 x) => ?_) ?_; clear_value x; rotate_left; dsimp only [x]; clear x)
    | with_reducible refine Kept.groveOut ?_
    | with_reducible refine Kept.maskCore ?_
    | with_reducible refine Kept.startFromFlash ?_
    | with_reducible refine Kept.ite ?_ ?_
    | with_reducible refine Kept.foldl ?_ (fun _ _ _ => ?_) _
    | with_reducible refine Kept.next ?_

theorem Kept.execStandReset {s0 : State} {f : Fn} {v : Nat} {s : State} (h_s : Kept s0 s) :
    NextWith (execStandReset f v s) (Kept s0) := by
  unfold Sys2Proof.Machine.execStandReset
  repeat' first
    | with_reducible assumption
    | (extract_lets +onlyGivenNames x; have : ∀ a, x a = x a := fun _ => rfl; clear this; (try dsimp only [x]); clear x)
    | (extract_lets +onlyGivenNames x; clear_value x)
    | with_reducible refine Kept.deliver ?_
    | with_reducible refine Kept.setFld ?_
    | with_reducible refine Kept.startReset ?_
    | with_reducible refine Kept.writeRow ?_ (by with_reducible assumption)
    | with_reducible refine Kept.ite ?_ ?_
    | with_reducible refine Kept.next ?_
    | split

theorem Kept.execStandDrainEnd {s0 : State} {n : Nat} {s : State} (h_s : Kept s0 s) :
    NextWith (execStandDrainEnd n s) (Kept s0) := by
  unfold Sys2Proof.Machine.execStandDrainEnd
  exact Kept.next (Kept.ite (Kept.deliver (Kept.drainEnd h_s)) h_s)

theorem Kept.execReplaceDrainEnd {s0 : State} {n : Nat} {s : State} (h_s : Kept s0 s) :
    NextWith (execReplaceDrainEnd n s) (Kept s0) := by
  unfold Sys2Proof.Machine.execReplaceDrainEnd
  exact Kept.next (Kept.ite (Kept.deliver (Kept.drainEnd h_s)) h_s)

theorem Kept.execStateLostEntryWindowEnd {s0 : State} {n : Nat} {s : State} (h_s : Kept s0 s) :
    NextWith (execStateLostEntryWindowEnd n s) (Kept s0) := by
  unfold Sys2Proof.Machine.execStateLostEntryWindowEnd
  repeat' first
    | with_reducible assumption
    | (extract_lets +onlyGivenNames x; refine (fun (hx : Kept s0 x) => ?_) ?_; clear_value x; rotate_left; dsimp only [x]; clear x)
    | with_reducible refine Kept.startErase ?_
    | with_reducible refine Kept.unreported ?_
    | with_reducible refine Kept.updStand ?_
    | with_reducible refine Kept.ite ?_ ?_
    | with_reducible refine Kept.next ?_

theorem Kept.execRelayConfirm {s0 : State} {n : Nat} {s : State} (h_s : Kept s0 s) :
    NextWith (execRelayConfirm n s) (Kept s0) := by
  unfold Sys2Proof.Machine.execRelayConfirm
  exact Kept.next (Kept.ite (Kept.eraseConfirmed h_s) h_s)

theorem Kept.execZeroingDone {s0 : State} {n : Nat} {s : State} (h_s : Kept s0 s) :
    NextWith (execZeroingDone n s) (Kept s0) := by
  unfold Sys2Proof.Machine.execZeroingDone
  exact Kept.next (Kept.ite (Kept.ite (Kept.finishInstall h_s) h_s) (Kept.ite (Kept.setFld (Kept.setFld (Kept.zeroHalf h_s))) h_s))

theorem Kept.execVfFlr {s0 : State} {n : Nat} {s : State} (h_s : Kept s0 s) : NextWith (execVfFlr n s) (Kept s0) := by
  unfold Sys2Proof.Machine.execVfFlr
  repeat' first
    | with_reducible assumption
    | with_reducible exact id
    | (extract_lets +onlyGivenNames x; have : ∀ a, x a = x a := fun _ => rfl; clear this; (try dsimp only [x]); clear x)
    | with_reducible refine Kept.commandDone ?_
    | with_reducible refine Kept.deliver ?_
    | with_reducible refine Kept.drainEnd ?_
    | with_reducible refine Kept.resetRegs ?_
    | with_reducible refine Kept.startReset ?_
    | with_reducible refine Kept.updLife ?_
    | with_reducible refine Kept.ite ?_ ?_
    | (rewrite [State.mk_lit]; with_reducible refine Kept.lit ?_ ?_)
    | with_reducible refine Kept.next ?_
    | split

theorem Kept.stopCluster {s0 s : State} {c : Nat} (h_s : Kept s0 s) : Kept s0 (State.stopCluster s c) := by
  unfold Sys2Proof.Machine.State.stopCluster
  exact Kept.updPower h_s

theorem Kept.coreFailed {s0 s : State} {c : Nat} (h_s : Kept s0 s) : Kept s0 (State.coreFailed s c) := by
  unfold Sys2Proof.Machine.State.coreFailed
  repeat' first
    | with_reducible assumption
    | (extract_lets +onlyGivenNames x; refine (fun (hx : Kept s0 x) => ?_) ?_; clear_value x; rotate_left; dsimp only [x]; clear x)
    | (extract_lets +onlyGivenNames x; clear_value x)
    | with_reducible refine Kept.abandon ?_
    | with_reducible refine Kept.event ?_
    | with_reducible refine Kept.flagMxc ?_
    | with_reducible refine Kept.groveOut ?_
    | with_reducible refine Kept.setFld ?_
    | with_reducible refine Kept.stopCluster ?_
    | with_reducible refine Kept.stopStand ?_
    | with_reducible refine Kept.foldl ?_ (fun _ _ _ => ?_) _
    | split

theorem Kept.execCoreFailure {s0 : State} {c : Nat} {s : State} (h_s : Kept s0 s) :
    NextWith (execCoreFailure c s) (Kept s0) := by
  unfold Sys2Proof.Machine.execCoreFailure
  exact Kept.next (Kept.ite (Kept.deliver (Kept.coreFailed h_s)) h_s)

theorem Kept.admitTest {s0 s : State} {g : Nat} {drain : Bool} (h_s : Kept s0 s) : Kept s0 (State.admitTest s g drain) := by
  unfold Sys2Proof.Machine.State.admitTest
  repeat' first
    | with_reducible assumption
    | with_reducible exact id
    | (extract_lets +onlyGivenNames x; have : ∀ a, x a = x a := fun _ => rfl; clear this; (try dsimp only [x]); clear x)
    | with_reducible refine Kept.setFld ?_
    | with_reducible refine Kept.testWipe ?_
    | with_reducible refine Kept.ite ?_ ?_
    | (rewrite [State.mk_lit]; with_reducible refine Kept.lit ?_ ?_)

theorem Kept.execSelfTest {s0 : State} {f : Fn} {v : Nat} {s : State} (h_s : Kept s0 s) :
    NextWith (execSelfTest f v s) (Kept s0) := by
  unfold Sys2Proof.Machine.execSelfTest
  repeat' first
    | with_reducible assumption
    | with_reducible exact id
    | (extract_lets +onlyGivenNames x; refine (fun (hx : Kept s0 x) => ?_) ?_; clear_value x; rotate_left; dsimp only [x]; clear x)
    | (extract_lets +onlyGivenNames x; clear_value x)
    | with_reducible refine Kept.admitTest ?_
    | with_reducible refine Kept.setFld ?_
    | with_reducible refine Kept.testIdle ?_
    | with_reducible refine Kept.writeRow ?_ (by with_reducible assumption)
    | with_reducible refine Kept.ite ?_ ?_
    | with_reducible refine Kept.foldl ?_ (fun _ _ _ => ?_) _
    | (rewrite [State.mk_lit]; with_reducible refine Kept.lit ?_ ?_)
    | with_reducible refine Kept.next ?_
    | split

theorem Kept.execSelfTestDone {s0 : State} {g : Nat} {cores clusters channels : List Nat} {s : State}
    (h_s : Kept s0 s) :
    NextWith (execSelfTestDone g cores clusters channels s) (Kept s0) := by
  unfold Sys2Proof.Machine.execSelfTestDone
  repeat' first
    | with_reducible assumption
    | (extract_lets +onlyGivenNames x; refine (fun (hx : Kept s0 x) => ?_) ?_; clear_value x; rotate_left; dsimp only [x]; clear x)
    | (extract_lets +onlyGivenNames x; clear_value x)
    | with_reducible refine Kept.coreFailed ?_
    | with_reducible refine Kept.deliver ?_
    | with_reducible refine Kept.event ?_
    | with_reducible refine Kept.failHbm ?_
    | with_reducible refine Kept.groveOut ?_
    | with_reducible refine Kept.maskCore ?_
    | with_reducible refine Kept.resetReg ?_
    | with_reducible refine Kept.setFld ?_
    | with_reducible refine Kept.testEnd ?_
    | with_reducible refine Kept.ite ?_ ?_
    | with_reducible refine Kept.foldl ?_ (fun _ _ _ => ?_) _
    | with_reducible refine Kept.next ?_
    | split

theorem Kept.execGovernorGrant {s0 s : State} (h_s : Kept s0 s) : NextWith (execGovernorGrant s) (Kept s0) := by
  unfold Sys2Proof.Machine.execGovernorGrant
  repeat' first
    | with_reducible assumption
    | with_reducible refine Kept.updPower ?_
    | with_reducible refine Kept.next ?_
    | split

theorem Kept.execBallastTimeout {s0 : State} {matrix : Bool} {k : Nat} {s : State} (h_s : Kept s0 s) :
    NextWith (execBallastTimeout matrix k s) (Kept s0) := by
  unfold Sys2Proof.Machine.execBallastTimeout
  repeat' first
    | with_reducible assumption
    | (extract_lets +onlyGivenNames x; clear_value x)
    | with_reducible refine Kept.updPower ?_
    | with_reducible refine Kept.ite ?_ ?_
    | with_reducible refine Kept.next ?_

theorem Kept.execSealedClusterStart {s0 : State} {n : Nat} {s : State} (h_s : Kept s0 s) :
    NextWith (execSealedClusterStart n s) (Kept s0) := by
  unfold Sys2Proof.Machine.execSealedClusterStart
  repeat' first
    | with_reducible assumption
    | (extract_lets +onlyGivenNames x; clear_value x)
    | with_reducible refine Kept.stopCluster ?_
    | with_reducible refine Kept.updPower ?_
    | with_reducible refine Kept.ite ?_ ?_
    | with_reducible refine Kept.next ?_
    | split

theorem Kept.showThermal {s0 s : State} {r : List (List Nat)} (h_s : Kept s0 s) : Kept s0 (State.showThermal s r) := by
  unfold Sys2Proof.Machine.State.showThermal
  repeat' first
    | with_reducible assumption
    | (extract_lets +onlyGivenNames x; refine (fun (hx : Kept s0 x) => ?_) ?_; clear_value x; rotate_left; dsimp only [x]; clear x)
    | (extract_lets +onlyGivenNames x; clear_value x)
    | with_reducible refine Kept.setFld ?_
    | with_reducible refine Kept.foldl ?_ (fun _ _ _ => ?_) _

theorem Kept.execThermalSample {s0 : State} {readings : List (List Nat)} {fails : Nat} {s : State} (h_s : Kept s0 s) :
    NextWith (execThermalSample readings fails s) (Kept s0) := by
  unfold Sys2Proof.Machine.execThermalSample
  repeat' first
    | with_reducible assumption
    | with_reducible exact id
    | (extract_lets +onlyGivenNames x; refine (fun (hx : Kept s0 x) => ?_) ?_; clear_value x; rotate_left; dsimp only [x]; clear x)
    | (extract_lets +onlyGivenNames x; clear_value x)
    | with_reducible refine Kept.restart ?_
    | with_reducible refine Kept.satFld ?_
    | with_reducible refine Kept.showThermal ?_
    | with_reducible refine Kept.updPower ?_
    | with_reducible refine Kept.ite ?_ ?_
    | (rewrite [State.mk_lit]; with_reducible refine Kept.lit ?_ ?_)
    | with_reducible refine Kept.next ?_

theorem Kept.showRails {s0 s : State} {rails : List (Nat × Nat)} (h_s : Kept s0 s) : Kept s0 (State.showRails s rails) := by
  unfold Sys2Proof.Machine.State.showRails
  repeat' first
    | with_reducible assumption
    | (extract_lets +onlyGivenNames x; refine (fun (hx : Kept s0 x) => ?_) ?_; clear_value x; rotate_left; dsimp only [x]; clear x)
    | (extract_lets +onlyGivenNames x; clear_value x)
    | with_reducible refine Kept.addFld ?_
    | with_reducible refine Kept.setFld ?_
    | with_reducible refine Kept.updPower ?_
    | with_reducible refine Kept.foldl ?_ (fun _ _ _ => ?_) _

theorem Kept.countBallast {s0 s : State} (h_s : Kept s0 s) : Kept s0 (State.countBallast s) := by
  unfold Sys2Proof.Machine.State.countBallast
  exact Kept.ite (Kept.addFld (Kept.draw h_s)) h_s

theorem Kept.execThrottleEval {s0 : State} {rails : List (Nat × Nat)} {settled : Bool} {s : State} (h_s : Kept s0 s) :
    NextWith (execThrottleEval rails settled s) (Kept s0) := by
  unfold Sys2Proof.Machine.execThrottleEval
  repeat' first
    | with_reducible assumption
    | (extract_lets +onlyGivenNames x; refine (fun (hx : Kept s0 x) => ?_) ?_; clear_value x; rotate_left; dsimp only [x]; clear x)
    | (extract_lets +onlyGivenNames x; clear_value x)
    | with_reducible refine Kept.countBallast ?_
    | with_reducible refine Kept.setFld ?_
    | with_reducible refine Kept.settleLevel ?_
    | with_reducible refine Kept.showRails ?_
    | with_reducible refine Kept.testsAborted ?_
    | with_reducible refine Kept.updPower ?_
    | with_reducible refine Kept.ite ?_ ?_
    | with_reducible refine Kept.next ?_

theorem Kept.faultStop {s0 s : State} (h_s : Kept s0 s) : Kept s0 (State.faultStop s) := by
  unfold Sys2Proof.Machine.State.faultStop
  exact Kept.testsAborted (Kept.updPower h_s)

theorem Kept.dropStands {s0 s : State} (h_s : Kept s0 s) : Kept s0 (State.dropStands s) := by
  unfold Sys2Proof.Machine.State.dropStands
  exact Kept.foldl h_s (fun x x_1 x_2 => Kept.removeStand (Kept.releaseStand (Kept.eventOf (Kept.eraseKeys x_2)))) s.allStands

theorem Kept.failPackage {s0 s : State} {block : Nat} (h_s : Kept s0 s) : Kept s0 (State.failPackage s block) := by
  unfold Sys2Proof.Machine.State.failPackage
  repeat' first
    | with_reducible assumption
    | with_reducible exact id
    | (extract_lets +onlyGivenNames x; refine (fun (hx : Kept s0 x) => ?_) ?_; clear_value x; rotate_left; dsimp only [x]; clear x)
    | with_reducible refine Kept.dropStands ?_
    | with_reducible refine Kept.event ?_
    | with_reducible refine Kept.faultStop ?_
    | with_reducible refine Kept.setFld ?_
    | with_reducible refine Kept.stopOutputs ?_
    | with_reducible refine Kept.ite ?_ ?_
    | (rewrite [State.mk_lit]; with_reducible refine Kept.lit ?_ ?_)

theorem Kept.execPackageFault {s0 : State} {block : Nat} {s : State} (h_s : Kept s0 s) :
    NextWith (execPackageFault block s) (Kept s0) := by
  unfold Sys2Proof.Machine.execPackageFault
  exact Kept.next (Kept.ite (Kept.failPackage h_s) h_s)

theorem Kept.execStewardFailure {s0 : State} {core handlers : Nat} {s : State} (h_s : Kept s0 s) :
    NextWith (execStewardFailure core handlers s) (Kept s0) := by
  unfold Sys2Proof.Machine.execStewardFailure
  repeat' first
    | with_reducible assumption
    | (extract_lets +onlyGivenNames x; refine (fun (hx : Kept s0 x) => ?_) ?_; clear_value x; rotate_left; dsimp only [x]; clear x)
    | (extract_lets +onlyGivenNames x; clear_value x)
    | with_reducible refine Kept.event ?_
    | with_reducible refine Kept.failPackage ?_
    | with_reducible refine Kept.returnEnd ?_
    | with_reducible refine Kept.setFld ?_
    | with_reducible refine Kept.sharedFault ?_
    | with_reducible refine Kept.ite ?_ ?_
    | with_reducible refine Kept.next ?_

theorem Kept.execSequencerFailure {s0 : State} {q : Nat} {s : State} (h_s : Kept s0 s) :
    NextWith (execSequencerFailure q s) (Kept s0) := by
  unfold Sys2Proof.Machine.execSequencerFailure
  repeat' first
    | with_reducible assumption
    | with_reducible exact id
    | (extract_lets +onlyGivenNames x; refine (fun (hx : Kept s0 x) => ?_) ?_; clear_value x; rotate_left; dsimp only [x]; clear x)
    | with_reducible refine Kept.deliver ?_
    | with_reducible refine Kept.event ?_
    | with_reducible refine Kept.returnEnd ?_
    | with_reducible refine Kept.stopStand ?_
    | with_reducible refine Kept.ite ?_ ?_
    | (rewrite [State.mk_lit]; with_reducible refine Kept.lit ?_ ?_)
    | with_reducible refine Kept.next ?_
    | split

theorem Kept.stopCutOff {s0 s : State} (h_s : Kept s0 s) : Kept s0 (State.stopCutOff s) := by
  unfold Sys2Proof.Machine.State.stopCutOff
  exact Kept.foldl h_s (fun x x_1 x_2 => Kept.stopStand x_2) (List.filter (fun n => (s.diesOf n).any fun d => !s.reachable (s.hubOf n) d) s.allStands)

theorem Kept.execDlinkLaneFault {s0 : State} {link module : Nat} {upper : Bool} {s : State} (h_s : Kept s0 s) :
    NextWith (execDlinkLaneFault link module upper s) (Kept s0) := by
  unfold Sys2Proof.Machine.execDlinkLaneFault
  repeat' first
    | with_reducible assumption
    | with_reducible exact id
    | (extract_lets +onlyGivenNames x; refine (fun (hx : Kept s0 x) => ?_) ?_; clear_value x; rotate_left; dsimp only [x]; clear x)
    | (extract_lets +onlyGivenNames x; clear_value x)
    | with_reducible refine Kept.deliver ?_
    | with_reducible refine Kept.event ?_
    | with_reducible refine Kept.returnFault ?_
    | with_reducible refine Kept.sharedFault ?_
    | with_reducible refine Kept.showLink ?_
    | with_reducible refine Kept.stopCutOff ?_
    | with_reducible refine Kept.ite ?_ ?_
    | (rewrite [State.mk_lit]; with_reducible refine Kept.lit ?_ ?_)
    | with_reducible refine Kept.next ?_

theorem Kept.execFloodWindowEnd {s0 s : State} (h_s : Kept s0 s) : NextWith (execFloodWindowEnd s) (Kept s0) := by
  unfold Sys2Proof.Machine.execFloodWindowEnd
  exact Kept.next (Kept.closeWindow h_s)

end Sys2Proof.Machine
end

