-- ==== Sys2Proof/Laws/KeptSched.lean ====
section
/-! SUPPORT. Every operation of KV, Sapway, scheduler and tier commands keeps the queue, the canonical form of memory and burnt fuses
(`Kept`): one lemma for each. -/

namespace Sys2Proof.Machine

open Sys2Proof

set_option linter.unusedVariables false
set_option linter.tactic.unusedName false

theorem Kept.execMaskRead {s0 : State} {n id : Nat} {data : HostRead} {s : State} (h_s : Kept s0 s) :
    NextWith (execMaskRead n id data s) (Kept s0) := by
  unfold Sys2Proof.Machine.execMaskRead
  repeat' first
    | with_reducible assumption
    | (extract_lets +onlyGivenNames x; clear_value x)
    | with_reducible refine Kept.updStep ?_
    | with_reducible refine Kept.withhold ?_
    | with_reducible refine Kept.ite ?_ ?_
    | with_reducible refine Kept.next ?_
    | split

theorem Kept.execMaskWaitExpiry {s0 : State} {n id : Nat} {s : State} (h_s : Kept s0 s) :
    NextWith (execMaskWaitExpiry n id s) (Kept s0) := by
  unfold Sys2Proof.Machine.execMaskWaitExpiry
  exact Kept.next (Kept.ite (Kept.withhold h_s) h_s)

theorem Kept.execPoolEnable {s0 : State} {f : Fn} {n v : Nat} {s : State} (h_s : Kept s0 s) :
    NextWith (execPoolEnable f n v s) (Kept s0) := by
  unfold Sys2Proof.Machine.execPoolEnable
  repeat' first
    | with_reducible assumption
    | with_reducible refine Kept.flagKv ?_
    | with_reducible refine Kept.poolStart ?_
    | with_reducible refine Kept.setFld ?_
    | with_reducible refine Kept.updStand ?_
    | with_reducible refine Kept.writeRow ?_ (by with_reducible assumption)
    | with_reducible refine Kept.ite ?_ ?_
    | with_reducible refine Kept.next ?_
    | split

theorem Kept.execPoolDisable {s0 : State} {f : Fn} {n v : Nat} {s : State} (h_s : Kept s0 s) :
    NextWith (execPoolDisable f n v s) (Kept s0) := by
  unfold Sys2Proof.Machine.execPoolDisable
  repeat' first
    | with_reducible assumption
    | (extract_lets +onlyGivenNames x; refine (fun (hx : Kept s0 x) => ?_) ?_; clear_value x; rotate_left; dsimp only [x]; clear x)
    | with_reducible refine Kept.poolStop ?_
    | with_reducible refine Kept.updStand ?_
    | with_reducible refine Kept.writeRow ?_ (by with_reducible assumption)
    | with_reducible refine Kept.ite ?_ ?_
    | with_reducible refine Kept.next ?_
    | split

theorem Kept.execPoolRebuildDone {s0 : State} {n : Nat} {s : State} (h_s : Kept s0 s) :
    NextWith (execPoolRebuildDone n s) (Kept s0) := by
  unfold Sys2Proof.Machine.execPoolRebuildDone
  repeat' first
    | with_reducible assumption
    | (extract_lets +onlyGivenNames x; refine (fun (hx : Kept s0 x) => ?_) ?_; clear_value x; rotate_left; dsimp only [x]; clear x)
    | with_reducible refine Kept.kvSettle ?_
    | with_reducible refine Kept.rebuild ?_
    | with_reducible refine Kept.registerPartial ?_
    | with_reducible refine Kept.updStand ?_
    | with_reducible refine Kept.ite ?_ ?_
    | with_reducible refine Kept.next ?_
    | split

theorem Kept.execAppendRecord {s0 : State} {v k : Nat} {s : State} (h_s : Kept s0 s) :
    NextWith (execAppendRecord v k s) (Kept s0) := by
  unfold Sys2Proof.Machine.execAppendRecord
  repeat' first
    | with_reducible assumption
    | with_reducible exact id
    | (extract_lets +onlyGivenNames x; refine (fun (hx : Kept s0 x) => ?_) ?_; clear_value x; rotate_left; dsimp only [x]; clear x)
    | (extract_lets +onlyGivenNames x; clear_value x)
    | with_reducible refine Kept.appendRecord ?_
    | with_reducible refine Kept.illegal ?_
    | with_reducible refine Kept.setTask ?_
    | with_reducible refine Kept.settle ?_
    | with_reducible refine Kept.ite ?_ ?_
    | (rewrite [State.mk_lit]; with_reducible refine Kept.lit ?_ ?_)
    | with_reducible refine Kept.next ?_
    | split

theorem Kept.kvCommand {s0 s : State} {n op : Nat} (h_s : Kept s0 s) : Kept s0 (State.kvCommand s n op) := by
  unfold Sys2Proof.Machine.State.kvCommand
  repeat' first
    | with_reducible assumption
    | (extract_lets +onlyGivenNames x; clear_value x)
    | with_reducible refine Kept.kvRingOne ?_
    | with_reducible refine Kept.kvSettle ?_
    | with_reducible refine Kept.ite ?_ ?_
    | split

theorem Kept.execKvCreate {s0 : State} {n : Nat} {s : State} (h_s : Kept s0 s) : NextWith (execKvCreate n s) (Kept s0) := by
  unfold Sys2Proof.Machine.execKvCreate
  exact Kept.next (Kept.kvCommand h_s)

theorem Kept.execKvGraft {s0 : State} {n : Nat} {s : State} (h_s : Kept s0 s) : NextWith (execKvGraft n s) (Kept s0) := by
  unfold Sys2Proof.Machine.execKvGraft
  exact Kept.next (Kept.kvCommand h_s)

theorem Kept.execKvRelease {s0 : State} {n : Nat} {s : State} (h_s : Kept s0 s) :
    NextWith (execKvRelease n s) (Kept s0) := by
  unfold Sys2Proof.Machine.execKvRelease
  exact Kept.next (Kept.kvCommand h_s)

theorem Kept.execKvTruncate {s0 : State} {n : Nat} {s : State} (h_s : Kept s0 s) :
    NextWith (execKvTruncate n s) (Kept s0) := by
  unfold Sys2Proof.Machine.execKvTruncate
  exact Kept.next (Kept.kvCommand h_s)

theorem Kept.judgePartial {s0 s : State} {n slot status : Nat} (h_s : Kept s0 s) :
    Kept s0 (State.judgePartial s n slot status) := by
  unfold Sys2Proof.Machine.State.judgePartial
  repeat' first
    | with_reducible assumption
    | with_reducible refine Kept.flagKv ?_
    | with_reducible refine Kept.updStep ?_
    | with_reducible refine Kept.withhold ?_
    | with_reducible refine Kept.ite ?_ ?_
    | split

theorem Kept.resolvePartial {s0 s : State} {n b : Nat} {r : RemotePending} {status : Nat} (h_s : Kept s0 s) :
    Kept s0 (State.resolvePartial s n b r status) := by
  unfold Sys2Proof.Machine.State.resolvePartial
  repeat' first
    | with_reducible assumption
    | (extract_lets +onlyGivenNames x; clear_value x)
    | with_reducible refine Kept.judgePartial ?_
    | with_reducible refine Kept.updStand ?_

theorem Kept.sendRequest {s0 s : State} {n : Nat} {p : Pool} {bs : List Byte} (h_s : Kept s0 s) :
    Kept s0 (State.sendRequest s n p bs) := by
  unfold Sys2Proof.Machine.State.sendRequest
  repeat' first
    | with_reducible assumption
    | (extract_lets +onlyGivenNames x; have : ∀ a, x a = x a := fun _ => rfl; clear this; (try dsimp only [x]); clear x)
    | with_reducible refine Kept.addFld ?_
    | with_reducible refine Kept.fabIssue ?_
    | with_reducible refine Kept.resolvePartial ?_
    | with_reducible refine Kept.updStand ?_
    | with_reducible refine Kept.ite ?_ ?_
    | split

theorem Kept.execRemoteRequestSend {s0 : State} {v k : Nat} {s : State} (h_s : Kept s0 s) :
    NextWith (execRemoteRequestSend v k s) (Kept s0) := by
  unfold Sys2Proof.Machine.execRemoteRequestSend
  repeat' first
    | with_reducible assumption
    | with_reducible exact id
    | (extract_lets +onlyGivenNames x; refine (fun (hx : Kept s0 x) => ?_) ?_; clear_value x; rotate_left; dsimp only [x]; clear x)
    | (extract_lets +onlyGivenNames x; clear_value x)
    | with_reducible refine Kept.respond ?_
    | with_reducible refine Kept.sendRequest ?_
    | with_reducible refine Kept.setTask ?_
    | with_reducible refine Kept.settle ?_
    | with_reducible refine Kept.ite ?_ ?_
    | (rewrite [State.mk_lit]; with_reducible refine Kept.lit ?_ ?_)
    | with_reducible refine Kept.next ?_
    | split

theorem Kept.serviceDescriptor {s0 s : State} (h_s : Kept s0 s) : Kept s0 (State.serviceDescriptor s).2 := by
  unfold Sys2Proof.Machine.State.serviceDescriptor
  exact Kept.draw (Kept.draw h_s)

theorem Kept.placeService {s0 s : State} {n : Nat} (h_s : Kept s0 s) : Kept s0 (State.placeService s n).1 := by
  unfold Sys2Proof.Machine.State.placeService
  repeat' first
    | with_reducible assumption
    | with_reducible refine Kept.serviceDescriptor ?_
    | with_reducible refine Kept.startTask ?_
    | with_reducible refine Kept.updStand ?_
    | with_reducible refine Kept.vectorRequest ?_
    | with_reducible refine Kept.ite1 ?_ ?_
    | split

theorem Kept.placeServices {s0 : State} {n a0 : Nat} {a1 : State} (h_a1 : Kept s0 a1) :
    Kept s0 (State.placeServices n a0 a1) := by
  induction a0 generalizing n a1 with
  | zero =>
    unfold Sys2Proof.Machine.State.placeServices
    repeat' first
      | with_reducible assumption
      | with_reducible refine Kept.placeService ?_
      | with_reducible refine Kept.fst ?_ (by with_reducible assumption)
      | split
  | succ k ih =>
    unfold Sys2Proof.Machine.State.placeServices
    repeat' first
      | with_reducible assumption
      | with_reducible refine ih ?_
      | with_reducible refine Kept.placeService ?_
      | with_reducible refine Kept.fst ?_ (by with_reducible assumption)
      | split

theorem Kept.execTaskPlace {s0 : State} {n : Nat} {s : State} (h_s : Kept s0 s) :
    NextWith (execTaskPlace n s) (Kept s0) := by
  unfold Sys2Proof.Machine.execTaskPlace
  exact Kept.next (Kept.placeService (Kept.placeNext h_s))

theorem Kept.execRemoteRequestArrive {s0 : State} {n a len conn : Nat} {s : State} (h_s : Kept s0 s) :
    NextWith (execRemoteRequestArrive n a len conn s) (Kept s0) := by
  unfold Sys2Proof.Machine.execRemoteRequestArrive
  repeat' first
    | with_reducible assumption
    | (extract_lets +onlyGivenNames x; refine (fun (hx : Kept s0 x) => ?_) ?_; clear_value x; rotate_left; dsimp only [x]; clear x)
    | (extract_lets +onlyGivenNames x; clear_value x)
    | with_reducible refine Kept.placeServices ?_
    | with_reducible refine Kept.updStand ?_
    | with_reducible refine Kept.ite ?_ ?_
    | with_reducible refine Kept.next ?_
    | split

theorem Kept.execRemoteResponse {s0 : State} {n : Nat} {s : State} (h_s : Kept s0 s) :
    NextWith (execRemoteResponse n s) (Kept s0) := by
  unfold Sys2Proof.Machine.execRemoteResponse
  repeat' first
    | with_reducible assumption
    | (extract_lets +onlyGivenNames x; refine (fun (hx : Kept s0 x) => ?_) ?_; clear_value x; rotate_left; dsimp only [x]; clear x)
    | with_reducible refine Kept.addFld ?_
    | with_reducible refine Kept.resolvePartial ?_
    | with_reducible refine Kept.standWrite ?_
    | with_reducible refine Kept.updStand ?_
    | with_reducible refine Kept.next ?_
    | split

theorem Kept.execRemoteBudgetExpiry {s0 : State} {n b : Nat} {s : State} (h_s : Kept s0 s) :
    NextWith (execRemoteBudgetExpiry n b s) (Kept s0) := by
  unfold Sys2Proof.Machine.execRemoteBudgetExpiry
  repeat' first
    | with_reducible assumption
    | (extract_lets +onlyGivenNames x; clear_value x)
    | with_reducible refine Kept.resolvePartial ?_
    | with_reducible refine Kept.standWrite ?_
    | with_reducible refine Kept.ite ?_ ?_
    | with_reducible refine Kept.next ?_
    | split

theorem Kept.flagResult {s0 s : State} {n bid result : Nat} (h_s : Kept s0 s) :
    Kept s0 (State.flagResult s n bid result) := by
  unfold Sys2Proof.Machine.State.flagResult
  repeat' first
    | with_reducible assumption
    | with_reducible refine Kept.flagSwy ?_
    | split

theorem Kept.swyCommand {s0 s : State} {n op : Nat} {run : List Byte → Nat → State → State × Option Nat}
    (h_s : Kept s0 s) (h_run : ∀ x0 x1 x2, Kept s0 x2 → Kept s0 (run x0 x1 x2).1) :
    Kept s0 (State.swyCommand s n op run) := by
  unfold Sys2Proof.Machine.State.swyCommand
  repeat' first
    | with_reducible assumption
    | intro _
    | with_reducible refine Kept.deliver ?_
    | with_reducible refine Kept.flagResult ?_
    | with_reducible refine Kept.kvSettle ?_
    | with_reducible refine Kept.runCommand ?_ ?_ ?_
    | with_reducible refine h_run _ _ _ ?_
    | with_reducible refine Kept.ite ?_ ?_
    | with_reducible refine Kept.fst ?_ (by with_reducible assumption)
    | split

theorem Kept.suspendHere {s0 s : State} {n i target ttl seq : Nat} {back : SMap (List Byte)} (h_s : Kept s0 s) :
    Kept s0 (State.suspendHere s n i target ttl seq back).1 := by
  unfold Sys2Proof.Machine.State.suspendHere
  repeat' first
    | with_reducible assumption
    | with_reducible refine Kept.dormantMove ?_
    | with_reducible refine Kept.keepDormant ?_
    | with_reducible refine Kept.releaseSeq ?_
    | with_reducible refine Kept.swyEvent ?_
    | with_reducible refine Kept.writeBundleId ?_
    | with_reducible refine Kept.fst ?_ (by with_reducible assumption)
    | split

theorem Kept.suspendThere {s0 s : State} {n i ttl seq a : Nat} {back : SMap (List Byte)} (h_s : Kept s0 s) :
    Kept s0 (State.suspendThere s n i ttl seq a back).1 := by
  unfold Sys2Proof.Machine.State.suspendThere
  repeat' first
    | with_reducible assumption
    | (extract_lets +onlyGivenNames x; clear_value x)
    | with_reducible refine Kept.activeEpoch ?_
    | with_reducible refine Kept.attempt ?_
    | with_reducible refine Kept.dormantMove ?_
    | with_reducible refine Kept.noted ?_
    | with_reducible refine Kept.ite1 ?_ ?_
    | with_reducible refine Kept.fst ?_ (by with_reducible assumption)
    | split

theorem Kept.suspend {s0 s : State} {n : Nat} {back : HostRead} {e : List Byte} {i : Nat} (h_s : Kept s0 s) :
    Kept s0 (State.suspend s n back e i).1 := by
  unfold Sys2Proof.Machine.State.suspend
  repeat' first
    | with_reducible assumption
    | (extract_lets +onlyGivenNames x; clear_value x)
    | with_reducible refine Kept.suspendHere ?_
    | with_reducible refine Kept.suspendThere ?_
    | with_reducible refine Kept.ite1 ?_ ?_
    | split

theorem Kept.execSuspend {s0 : State} {n : Nat} {back : HostRead} {s : State} (h_s : Kept s0 s) :
    NextWith (execSuspend n back s) (Kept s0) := by
  unfold Sys2Proof.Machine.execSuspend
  exact Kept.next (Kept.swyCommand h_s fun x0 x1 x2 a => Kept.suspend a)

theorem Kept.resumeInto {s0 s : State} {n : Nat} {p : Pool} {seq m : Nat} {h : BundleHeader}
    {l : List OpenSection} (h_s : Kept s0 s) :
    Kept s0 (State.resumeInto s n p seq m h l).1 := by
  unfold Sys2Proof.Machine.State.resumeInto
  repeat' first
    | with_reducible assumption
    | (extract_lets +onlyGivenNames x; refine (fun (hx : Kept s0 x) => ?_) ?_; clear_value x; rotate_left; dsimp only [x]; clear x)
    | (extract_lets +onlyGivenNames x; clear_value x)
    | with_reducible refine Kept.addFld ?_
    | with_reducible refine Kept.installHistory ?_
    | with_reducible refine Kept.installPages ?_ (by with_reducible assumption)
    | with_reducible refine Kept.kvCreate ?_
    | with_reducible refine Kept.setLength ?_
    | with_reducible refine Kept.ite ?_ ?_
    | with_reducible refine Kept.fst ?_ (by with_reducible assumption)
    | split

theorem Kept.resume {s0 s : State} {n : Nat} {fetched : Fetched} {e : List Byte} (h_s : Kept s0 s) :
    Kept s0 (State.resume s n fetched e).1 := by
  unfold Sys2Proof.Machine.State.resume
  repeat' first
    | with_reducible assumption
    | (extract_lets +onlyGivenNames x; clear_value x)
    | with_reducible refine Kept.eventOf ?_
    | with_reducible refine Kept.resumeInto ?_
    | with_reducible refine Kept.ite1 ?_ ?_
    | split

theorem Kept.execResume {s0 : State} {n : Nat} {fetched : Fetched} {s : State} (h_s : Kept s0 s) :
    NextWith (execResume n fetched s) (Kept s0) := by
  unfold Sys2Proof.Machine.execResume
  exact Kept.next (Kept.swyCommand h_s fun x0 x1 x2 a => Kept.resume a)

theorem Kept.freeBundle {s0 s : State} {n bid : Nat} (h_s : Kept s0 s) : Kept s0 (State.freeBundle s n bid) := by
  unfold Sys2Proof.Machine.State.freeBundle
  exact Kept.updSapway h_s

theorem Kept.execDiscard {s0 : State} {n status : Nat} {s : State} (h_s : Kept s0 s) :
    NextWith (execDiscard n status s) (Kept s0) := by
  unfold Sys2Proof.Machine.execDiscard
  repeat' first
    | with_reducible assumption
    | intro _
    | (extract_lets +onlyGivenNames x; clear_value x)
    | with_reducible refine Kept.freeBundle ?_
    | with_reducible refine Kept.swyCommand ?_ ?_
    | with_reducible refine Kept.ite1 ?_ ?_
    | with_reducible refine Kept.next ?_

theorem Kept.holdPages {s0 s : State} {n : Nat} {e : List Byte} {i : Nat} (h_s : Kept s0 s) :
    Kept s0 (State.holdPages s n e i).1 := by
  unfold Sys2Proof.Machine.State.holdPages
  repeat' first
    | with_reducible assumption
    | (extract_lets +onlyGivenNames x; clear_value x)
    | with_reducible refine Kept.dormantMove ?_
    | with_reducible refine Kept.sendOffer ?_
    | with_reducible refine Kept.ite1 ?_ ?_
    | split

theorem Kept.execHold {s0 : State} {n : Nat} {s : State} (h_s : Kept s0 s) : NextWith (execHold n s) (Kept s0) := by
  unfold Sys2Proof.Machine.execHold
  exact Kept.next (Kept.swyCommand h_s fun x0 x1 x2 a => Kept.holdPages a)

theorem Kept.execCanopyInsert {s0 : State} {n : Nat} {s : State} (h_s : Kept s0 s) :
    NextWith (execCanopyInsert n s) (Kept s0) := by
  unfold Sys2Proof.Machine.execCanopyInsert
  exact Kept.next (Kept.swyCommand h_s fun x0 x1 x2 a => Kept.canopyInsert a)

theorem Kept.execCanopyDrop {s0 : State} {n : Nat} {s : State} (h_s : Kept s0 s) :
    NextWith (execCanopyDrop n s) (Kept s0) := by
  unfold Sys2Proof.Machine.execCanopyDrop
  repeat' first
    | with_reducible assumption
    | intro _
    | (extract_lets +onlyGivenNames x; clear_value x)
    | with_reducible refine Kept.dropAnchor ?_
    | with_reducible refine Kept.swyCommand ?_ ?_
    | with_reducible refine Kept.updSapway ?_
    | with_reducible refine Kept.ite1 ?_ ?_
    | with_reducible refine Kept.fst ?_ (by with_reducible assumption)
    | with_reducible refine Kept.next ?_
    | split

theorem Kept.execJobRegions {s0 : State} {n : Nat} {s : State} (h_s : Kept s0 s) :
    NextWith (execJobRegions n s) (Kept s0) := by
  unfold Sys2Proof.Machine.execJobRegions
  repeat' first
    | with_reducible assumption
    | intro _
    | (extract_lets +onlyGivenNames x; clear_value x)
    | with_reducible refine Kept.standWrite ?_
    | with_reducible refine Kept.swyCommand ?_ ?_
    | with_reducible refine Kept.ite1 ?_ ?_
    | with_reducible refine Kept.next ?_

theorem Kept.swypCommand {s0 s : State} {op : Nat} {cmd : List Byte} {run : State → State × Nat} (h_s : Kept s0 s)
    (h_run : ∀ x0, Kept s0 x0 → Kept s0 (run x0).1) :
    Kept s0 (State.swypCommand s op cmd run) := by
  unfold Sys2Proof.Machine.State.swypCommand
  repeat' first
    | with_reducible assumption
    | (extract_lets +onlyGivenNames x; clear_value x)
    | with_reducible refine Kept.deliver ?_
    | with_reducible refine Kept.hostWrite ?_
    | with_reducible refine Kept.retireEpochs ?_
    | with_reducible refine Kept.setFld ?_
    | with_reducible refine h_run _ ?_
    | with_reducible refine Kept.ite ?_ ?_
    | with_reducible refine Kept.ite1 ?_ ?_

theorem Kept.takeContent {s0 s : State} {c : CompContent} (h_s : Kept s0 s) : Kept s0 (State.takeContent s c) := by
  unfold Sys2Proof.Machine.State.takeContent
  exact Kept.lit h_s id

theorem Kept.mapSet {s0 s : State} {cls model tenant num record : Nat} (h_s : Kept s0 s) :
    Kept s0 (State.mapSet s cls model tenant num record).1 := by
  unfold Sys2Proof.Machine.State.mapSet
  repeat' first
    | with_reducible assumption
    | (extract_lets +onlyGivenNames x; refine (fun (hx : Kept s0 x) => ?_) ?_; clear_value x; rotate_left; dsimp only [x]; clear x)
    | (extract_lets +onlyGivenNames x; clear_value x)
    | with_reducible refine Kept.joinAt ?_
    | with_reducible refine Kept.setComposition ?_
    | with_reducible refine Kept.tableFull ?_
    | with_reducible refine Kept.tableInsert ?_ (by with_reducible assumption)
    | with_reducible refine Kept.ite1 ?_ ?_
    | split

theorem Kept.execMapSet {s0 : State} {cmd : List Byte} {key : HostRead} {content : CompContent} {s : State}
    (h_s : Kept s0 s) :
    NextWith (execMapSet cmd key content s) (Kept s0) := by
  unfold Sys2Proof.Machine.execMapSet
  repeat' first
    | with_reducible assumption
    | intro _
    | with_reducible refine Kept.mapSet ?_
    | with_reducible refine Kept.swypCommand ?_ ?_
    | with_reducible refine Kept.takeContent ?_
    | with_reducible refine Kept.next ?_
    | split

theorem Kept.execMemberState {s0 : State} {cmd : List Byte} {content : CompContent} {s : State} (h_s : Kept s0 s) :
    NextWith (execMemberState cmd content s) (Kept s0) := by
  unfold Sys2Proof.Machine.execMemberState
  repeat' first
    | with_reducible assumption
    | with_reducible exact id
    | intro _
    | (extract_lets +onlyGivenNames x; refine (fun (hx : Kept s0 x) => ?_) ?_; clear_value x; rotate_left; dsimp only [x]; clear x)
    | with_reducible refine Kept.swypCommand ?_ ?_
    | with_reducible refine Kept.takeContent ?_
    | with_reducible refine Kept.ite1 ?_ ?_
    | (rewrite [State.mk_lit]; with_reducible refine Kept.lit ?_ ?_)
    | with_reducible refine Kept.next ?_
    | split

theorem Kept.execMapDelete {s0 : State} {cmd : List Byte} {key : HostRead} {s : State} (h_s : Kept s0 s) :
    NextWith (execMapDelete cmd key s) (Kept s0) := by
  unfold Sys2Proof.Machine.execMapDelete
  repeat' first
    | with_reducible assumption
    | intro _
    | (extract_lets +onlyGivenNames x; refine (fun (hx : Kept s0 x) => ?_) ?_; clear_value x; rotate_left; dsimp only [x]; clear x)
    | (extract_lets +onlyGivenNames x; clear_value x)
    | with_reducible refine Kept.setComposition ?_
    | with_reducible refine Kept.swypCommand ?_ ?_
    | with_reducible refine Kept.tableDelete ?_
    | with_reducible refine Kept.ite1 ?_ ?_
    | with_reducible refine Kept.next ?_
    | split

theorem Kept.swyMail {s0 s : State} {n type : Nat} {run : Nat → Nat → List Byte → State → State × Bool}
    (h_s : Kept s0 s) (h_run : ∀ x0 x1 x2 x3, Kept s0 x3 → Kept s0 (run x0 x1 x2 x3).1) :
    Kept s0 (State.swyMail s n type run) := by
  unfold Sys2Proof.Machine.State.swyMail
  exact Kept.deliver (Kept.kvSettle (Kept.takeMail h_s h_run))

theorem Kept.execOffer {s0 : State} {n : Nat} {s : State} (h_s : Kept s0 s) : NextWith (execOffer n s) (Kept s0) := by
  unfold Sys2Proof.Machine.execOffer
  exact Kept.next (Kept.swyMail h_s fun x0 x1 x2 x3 a => Kept.takeOffer a)

theorem Kept.execAccept {s0 : State} {n : Nat} {s : State} (h_s : Kept s0 s) : NextWith (execAccept n s) (Kept s0) := by
  unfold Sys2Proof.Machine.execAccept
  repeat' first
    | with_reducible assumption
    | intro _
    | with_reducible refine Kept.swyMail ?_ ?_
    | with_reducible refine Kept.takeAccept ?_
    | with_reducible refine Kept.next ?_
    | split

theorem Kept.execRefuse {s0 : State} {n : Nat} {s : State} (h_s : Kept s0 s) : NextWith (execRefuse n s) (Kept s0) := by
  unfold Sys2Proof.Machine.execRefuse
  repeat' first
    | with_reducible assumption
    | intro _
    | with_reducible refine Kept.failAttempt ?_
    | with_reducible refine Kept.swyMail ?_ ?_
    | with_reducible refine Kept.next ?_
    | split

theorem Kept.execDone {s0 : State} {n : Nat} {s : State} (h_s : Kept s0 s) : NextWith (execDone n s) (Kept s0) := by
  unfold Sys2Proof.Machine.execDone
  repeat' first
    | with_reducible assumption
    | intro _
    | with_reducible refine Kept.swyMail ?_ ?_
    | with_reducible refine Kept.takeDone ?_
    | with_reducible refine Kept.next ?_
    | split

theorem Kept.execCommitted {s0 : State} {n : Nat} {s : State} (h_s : Kept s0 s) :
    NextWith (execCommitted n s) (Kept s0) := by
  unfold Sys2Proof.Machine.execCommitted
  repeat' first
    | with_reducible assumption
    | intro _
    | with_reducible refine Kept.swyMail ?_ ?_
    | with_reducible refine Kept.takeCommitted ?_
    | with_reducible refine Kept.ite ?_ ?_
    | with_reducible refine Kept.next ?_
    | split

theorem Kept.execAbort {s0 : State} {n : Nat} {s : State} (h_s : Kept s0 s) : NextWith (execAbort n s) (Kept s0) := by
  unfold Sys2Proof.Machine.execAbort
  exact Kept.next (Kept.swyMail h_s fun x0 x1 x2 x3 a => Kept.takeAbort a)

theorem Kept.execHandoffTimeout {s0 : State} {n bid : Nat} {s : State} (h_s : Kept s0 s) :
    NextWith (execHandoffTimeout n bid s) (Kept s0) := by
  unfold Sys2Proof.Machine.execHandoffTimeout
  repeat' first
    | with_reducible assumption
    | with_reducible refine Kept.deliver ?_
    | with_reducible refine Kept.failAttempt ?_
    | with_reducible refine Kept.kvSettle ?_
    | with_reducible refine Kept.ite ?_ ?_
    | with_reducible refine Kept.next ?_
    | split

theorem Kept.execReceiverTimeout {s0 : State} {n conn bid : Nat} {s : State} (h_s : Kept s0 s) :
    NextWith (execReceiverTimeout n conn bid s) (Kept s0) := by
  unfold Sys2Proof.Machine.execReceiverTimeout
  repeat' first
    | with_reducible assumption
    | (extract_lets +onlyGivenNames x; refine (fun (hx : Kept s0 x) => ?_) ?_; clear_value x; rotate_left; dsimp only [x]; clear x)
    | (extract_lets +onlyGivenNames x; clear_value x)
    | with_reducible refine Kept.acceptMore ?_
    | with_reducible refine Kept.deliver ?_
    | with_reducible refine Kept.endArrival ?_
    | with_reducible refine Kept.flagSwy ?_
    | with_reducible refine Kept.kvSettle ?_
    | with_reducible refine Kept.swyEvent ?_
    | with_reducible refine Kept.next ?_
    | split

theorem Kept.execBundleExpiry {s0 : State} {n : Nat} {hold : Bool} {id : Nat} {s : State} (h_s : Kept s0 s) :
    NextWith (execBundleExpiry n hold id s) (Kept s0) := by
  unfold Sys2Proof.Machine.execBundleExpiry
  repeat' first
    | with_reducible assumption
    | (extract_lets +onlyGivenNames x; refine (fun (hx : Kept s0 x) => ?_) ?_; clear_value x; rotate_left; dsimp only [x]; clear x)
    | with_reducible refine Kept.freeBundle ?_
    | with_reducible refine Kept.releaseSeq ?_
    | with_reducible refine Kept.swyEvent ?_
    | with_reducible refine Kept.updSapway ?_
    | with_reducible refine Kept.ite ?_ ?_
    | with_reducible refine Kept.next ?_

theorem Kept.execLayerMark {s0 : State} {n : Nat} {s : State} (h_s : Kept s0 s) :
    NextWith (execLayerMark n s) (Kept s0) := by
  unfold Sys2Proof.Machine.execLayerMark
  repeat' first
    | with_reducible assumption
    | intro _
    | (extract_lets +onlyGivenNames x; refine (fun (hx : Kept s0 x) => ?_) ?_; clear_value x; rotate_left; dsimp only [x]; clear x)
    | with_reducible refine Kept.checkpoint ?_
    | with_reducible refine Kept.completeOp ?_
    | with_reducible refine Kept.deliver ?_
    | with_reducible refine Kept.pushLayers ?_
    | with_reducible refine Kept.startOp ?_ ?_
    | with_reducible refine Kept.updStep ?_
    | with_reducible refine Kept.ite ?_ ?_
    | with_reducible refine Kept.next ?_

theorem Kept.refuseModel {s0 s : State} {n code m : Nat} (h_s : Kept s0 s) : Kept s0 (State.refuseModel s n code m) := by
  unfold Sys2Proof.Machine.State.refuseModel
  exact Kept.eventOf h_s

theorem Kept.loadModel {s0 s : State} {n m : Nat} (h_s : Kept s0 s) : Kept s0 (State.loadModel s n m).1 := by
  unfold Sys2Proof.Machine.State.loadModel
  repeat' first
    | with_reducible assumption
    | with_reducible refine Kept.refuseModel ?_
    | with_reducible refine Kept.updStand ?_
    | with_reducible refine Kept.ite1 ?_ ?_
    | split

theorem Kept.loadModels {s0 s : State} {n : Nat} {l : List Nat} (h_s : Kept s0 s) : Kept s0 (State.loadModels s n l).1 := by
  unfold Sys2Proof.Machine.State.loadModels
  repeat' first
    | with_reducible assumption
    | with_reducible refine Kept.loadModel ?_
    | with_reducible refine Kept.foldl1 ?_ (fun _ _ _ => ?_) _

theorem Kept.chooseStep {s0 s : State} {n : Nat} {a0 : List Turn} (h_s : Kept s0 s) :
    Kept s0 (State.chooseStep s n a0).1 := by
  induction a0 generalizing s n with
  | nil =>
    unfold Sys2Proof.Machine.State.chooseStep
    repeat' first
      | with_reducible assumption
      | with_reducible refine Kept.loadModels ?_
      | with_reducible refine Kept.ite1 ?_ ?_
      | split
  | cons b l ih =>
    unfold Sys2Proof.Machine.State.chooseStep
    repeat' first
      | with_reducible assumption
      | with_reducible refine ih ?_
      | with_reducible refine Kept.loadModels ?_
      | with_reducible refine Kept.ite1 ?_ ?_
      | split

theorem Kept.admitOnly {s0 s : State} {n : Nat} {a0 : List Turn} (h_s : Kept s0 s) : Kept s0 (State.admitOnly s n a0) := by
  induction a0 generalizing s n with
  | nil =>
    unfold Sys2Proof.Machine.State.admitOnly
    repeat' first
      | with_reducible assumption
      | (extract_lets +onlyGivenNames x; clear_value x)
      | with_reducible refine Kept.loadModels ?_
      | with_reducible refine Kept.updStand ?_
      | with_reducible refine Kept.ite ?_ ?_
  | cons b l ih =>
    unfold Sys2Proof.Machine.State.admitOnly
    repeat' first
      | with_reducible assumption
      | with_reducible refine ih ?_
      | (extract_lets +onlyGivenNames x; clear_value x)
      | with_reducible refine Kept.loadModels ?_
      | with_reducible refine Kept.updStand ?_
      | with_reducible refine Kept.ite ?_ ?_

theorem Kept.startStep {s0 s : State} {n : Nat} {t : Turn} {mode : StepMode} {run : Nat} {c : Composing}
    (h_s : Kept s0 s) :
    Kept s0 (State.startStep s n t mode run c) := by
  unfold Sys2Proof.Machine.State.startStep
  repeat' first
    | with_reducible assumption
    | with_reducible exact id
    | (extract_lets +onlyGivenNames x; refine (fun (hx : Kept s0 x) => ?_) ?_; clear_value x; rotate_left; dsimp only [x]; clear x)
    | (extract_lets +onlyGivenNames x; clear_value x)
    | with_reducible refine Kept.account ?_
    | with_reducible refine Kept.addFld ?_
    | with_reducible refine Kept.setFld ?_
    | with_reducible refine Kept.standWrite ?_
    | with_reducible refine Kept.startHandoff ?_
    | with_reducible refine Kept.updStand ?_
    | with_reducible refine Kept.ite ?_ ?_
    | with_reducible refine Kept.foldl ?_ (fun _ _ _ => ?_) _
    | (rewrite [State.mk_lit]; with_reducible refine Kept.lit ?_ ?_)
    | split

theorem Kept.execStepCompose {s0 : State} {n : Nat} {s : State} (h_s : Kept s0 s) :
    NextWith (execStepCompose n s) (Kept s0) := by
  unfold Sys2Proof.Machine.execStepCompose
  repeat' first
    | with_reducible assumption
    | (extract_lets +onlyGivenNames x; refine (fun (hx : Kept s0 x) => ?_) ?_; clear_value x; rotate_left; dsimp only [x]; clear x)
    | with_reducible refine Kept.admitOnly ?_
    | with_reducible refine Kept.chooseStep ?_
    | with_reducible refine Kept.deliver ?_
    | with_reducible refine Kept.flagSch ?_
    | with_reducible refine Kept.refuseModel ?_
    | with_reducible refine Kept.startStep ?_
    | with_reducible refine Kept.ite ?_ ?_
    | with_reducible refine Kept.fst ?_ (by with_reducible assumption)
    | with_reducible refine Kept.foldl ?_ (fun _ _ _ => ?_) _
    | with_reducible refine Kept.next ?_
    | split

theorem Kept.updRequest {s0 s : State} {n id : Nat} {f : Request → Request} (h_s : Kept s0 s) :
    Kept s0 (State.updRequest s n id f) := by
  unfold Sys2Proof.Machine.State.updRequest
  exact Kept.updStand h_s

theorem Kept.putTokens {s0 s : State} {n : Nat} {degraded first : Bool} {pos : Nat} {a0 : List (Nat × Bool)}
    {a1 : Request} (h_s : Kept s0 s) :
    Kept s0 (State.putTokens s n degraded first pos a0 a1).1 := by
  induction a0 generalizing s n degraded first pos a1 with
  | nil =>
    unfold Sys2Proof.Machine.State.putTokens
    repeat' first
      | with_reducible assumption
      | (extract_lets +onlyGivenNames x; refine (fun (hx : Kept s0 x) => ?_) ?_; clear_value x; rotate_left; dsimp only [x]; clear x)
      | (extract_lets +onlyGivenNames x; clear_value x)
      | with_reducible refine Kept.account ?_
      | with_reducible refine Kept.addFld ?_
      | with_reducible refine Kept.cqEntry ?_
      | with_reducible refine Kept.standWrite ?_
      | with_reducible refine Kept.updStep ?_
      | with_reducible refine Kept.ite1 ?_ ?_
  | cons b l ih =>
    unfold Sys2Proof.Machine.State.putTokens
    repeat' first
      | with_reducible assumption
      | with_reducible refine ih ?_
      | (extract_lets +onlyGivenNames x; refine (fun (hx : Kept s0 x) => ?_) ?_; clear_value x; rotate_left; dsimp only [x]; clear x)
      | (extract_lets +onlyGivenNames x; clear_value x)
      | with_reducible refine Kept.account ?_
      | with_reducible refine Kept.addFld ?_
      | with_reducible refine Kept.cqEntry ?_
      | with_reducible refine Kept.standWrite ?_
      | with_reducible refine Kept.updStep ?_
      | with_reducible refine Kept.ite1 ?_ ?_

theorem Kept.commitTokens {s0 s : State} {n : Nat} {st : Step} {r : Request} (h_s : Kept s0 s) :
    Kept s0 (State.commitTokens s n st r) := by
  unfold Sys2Proof.Machine.State.commitTokens
  repeat' first
    | with_reducible assumption
    | (extract_lets +onlyGivenNames x; have : ∀ a, x a = x a := fun _ => rfl; clear this; (try dsimp only [x]); clear x)
    | (extract_lets +onlyGivenNames x; clear_value x)
    | with_reducible refine Kept.advance ?_
    | with_reducible refine Kept.dropHandoff ?_
    | with_reducible refine Kept.endWith ?_
    | with_reducible refine Kept.finish ?_
    | with_reducible refine Kept.finishHandoff ?_
    | with_reducible refine Kept.putTokens ?_
    | with_reducible refine Kept.updRequest ?_
    | with_reducible refine Kept.updSapway ?_
    | with_reducible refine Kept.ite ?_ ?_
    | split

theorem Kept.commitRequest {s0 s : State} {n : Nat} {st : Step} {id : Nat} (h_s : Kept s0 s) :
    Kept s0 (State.commitRequest s n st id) := by
  unfold Sys2Proof.Machine.State.commitRequest
  repeat' first
    | with_reducible assumption
    | (extract_lets +onlyGivenNames x; refine (fun (hx : Kept s0 x) => ?_) ?_; clear_value x; rotate_left; dsimp only [x]; clear x)
    | with_reducible refine Kept.account ?_
    | with_reducible refine Kept.commitTokens ?_
    | with_reducible refine Kept.dropHandoff ?_
    | with_reducible refine Kept.endCancelled ?_
    | with_reducible refine Kept.endWith ?_
    | with_reducible refine Kept.suspendFull ?_
    | with_reducible refine Kept.updRequest ?_
    | with_reducible refine Kept.ite ?_ ?_
    | split

theorem Kept.settleDeadline {s0 s : State} {n : Nat} {missed : SMap Nat} {r : Request} (h_s : Kept s0 s) :
    Kept s0 (State.settleDeadline s n missed r) := by
  unfold Sys2Proof.Machine.State.settleDeadline
  repeat' first
    | with_reducible assumption
    | (extract_lets +onlyGivenNames x; refine (fun (hx : Kept s0 x) => ?_) ?_; clear_value x; rotate_left; dsimp only [x]; clear x)
    | (extract_lets +onlyGivenNames x; clear_value x)
    | with_reducible refine Kept.dropHandoff ?_
    | with_reducible refine Kept.endWith ?_
    | with_reducible refine Kept.flagSch ?_
    | with_reducible refine Kept.startFallback ?_
    | with_reducible refine Kept.updRequest ?_
    | with_reducible refine Kept.ite ?_ ?_
    | split

theorem Kept.writeLevels {s0 s : State} {n : Nat} {l : SMap Levels} (h_s : Kept s0 s) :
    Kept s0 (State.writeLevels s n l) := by
  unfold Sys2Proof.Machine.State.writeLevels
  repeat' first
    | with_reducible assumption
    | with_reducible refine Kept.standWrite ?_
    | with_reducible refine Kept.foldl ?_ (fun _ _ _ => ?_) _
    | split

theorem Kept.openTraffic {s0 s : State} {n : Nat} (h_s : Kept s0 s) : Kept s0 (State.openTraffic s n) := by
  unfold Sys2Proof.Machine.State.openTraffic
  exact Kept.foldl h_s (fun x x_1 x_2 => Kept.account (Kept.draw x_2)) [2, 3, 4, 6]

theorem Kept.kvCommit {s0 s : State} {n : Nat} (h_s : Kept s0 s) : Kept s0 (State.kvCommit s n) := by
  unfold Sys2Proof.Machine.State.kvCommit
  repeat' first
    | with_reducible assumption
    | (extract_lets +onlyGivenNames x; refine (fun (hx : Kept s0 x) => ?_) ?_; clear_value x; rotate_left; dsimp only [x]; clear x)
    | with_reducible refine Kept.kvPoint ?_
    | with_reducible refine Kept.poolBoundary ?_
    | with_reducible refine Kept.prune ?_
    | with_reducible refine Kept.sealWaiting ?_
    | with_reducible refine Kept.updStand ?_
    | split

theorem Kept.commit {s0 s : State} {n : Nat} {st : Step} (h_s : Kept s0 s) : Kept s0 (State.commit s n st) := by
  unfold Sys2Proof.Machine.State.commit
  repeat' first
    | with_reducible assumption
    | (extract_lets +onlyGivenNames x; refine (fun (hx : Kept s0 x) => ?_) ?_; clear_value x; rotate_left; dsimp only [x]; clear x)
    | (extract_lets +onlyGivenNames x; clear_value x)
    | with_reducible refine Kept.acceptMore ?_
    | with_reducible refine Kept.account ?_
    | with_reducible refine Kept.commitRequest ?_
    | with_reducible refine Kept.cqInterrupts ?_
    | with_reducible refine Kept.endCancelled ?_
    | with_reducible refine Kept.kvCommit ?_
    | with_reducible refine Kept.kvSettle ?_
    | with_reducible refine Kept.openTraffic ?_
    | with_reducible refine Kept.setFld ?_
    | with_reducible refine Kept.settleDeadline ?_
    | with_reducible refine Kept.testBoundary ?_
    | with_reducible refine Kept.updStand ?_
    | with_reducible refine Kept.withholdPoisoned ?_
    | with_reducible refine Kept.writeLevels ?_
    | with_reducible refine Kept.ite ?_ ?_
    | with_reducible refine Kept.foldl ?_ (fun _ _ _ => ?_) _
    | split

theorem Kept.execCommitPhase {s0 : State} {n : Nat} {s : State} (h_s : Kept s0 s) :
    NextWith (execCommitPhase n s) (Kept s0) := by
  unfold Sys2Proof.Machine.execCommitPhase
  repeat' first
    | with_reducible assumption
    | with_reducible refine Kept.commit ?_
    | with_reducible refine Kept.deliver ?_
    | with_reducible refine Kept.ite ?_ ?_
    | with_reducible refine Kept.next ?_
    | split

theorem Kept.withFabric {s0 s : State} {n : Nat} {run : State → State} (h_s : Kept s0 s)
    (h_run : ∀ x0, Kept s0 x0 → Kept s0 (run x0)) :
    Kept s0 (State.withFabric s n run) := by
  unfold Sys2Proof.Machine.State.withFabric
  repeat' first
    | with_reducible assumption
    | (extract_lets +onlyGivenNames x; refine (fun (hx : Kept s0 x) => ?_) ?_; clear_value x; rotate_left; dsimp only [x]; clear x)
    | (extract_lets +onlyGivenNames x; clear_value x)
    | with_reducible refine Kept.deliver ?_
    | with_reducible refine Kept.startTraffic ?_
    | with_reducible refine h_run _ ?_
    | with_reducible refine Kept.foldl ?_ (fun _ _ _ => ?_) _
    | split

theorem Kept.execTierCreate {s0 : State} {n : Nat} {s : State} (h_s : Kept s0 s) :
    NextWith (execTierCreate n s) (Kept s0) := by
  unfold Sys2Proof.Machine.execTierCreate
  exact Kept.next (Kept.withFabric h_s fun x0 a => Kept.tierCommand a fun x0 x1 a => Kept.createObject a)

theorem Kept.execTierDelete {s0 : State} {n : Nat} {s : State} (h_s : Kept s0 s) :
    NextWith (execTierDelete n s) (Kept s0) := by
  unfold Sys2Proof.Machine.execTierDelete
  repeat' first
    | with_reducible assumption
    | intro _
    | with_reducible refine Kept.removeObject ?_
    | with_reducible refine Kept.tierCommand ?_ ?_
    | with_reducible refine Kept.ite ?_ ?_
    | with_reducible refine Kept.next ?_
    | split

theorem Kept.execTierFlush {s0 : State} {n : Nat} {s : State} (h_s : Kept s0 s) :
    NextWith (execTierFlush n s) (Kept s0) := by
  unfold Sys2Proof.Machine.execTierFlush
  exact Kept.next (Kept.withFabric h_s fun x0 a => Kept.tierCommand a fun x0 x1 a => Kept.onRange a fun x0 x1 x2 a => Kept.overPages a fun x0 x1 a => Kept.writeBack a)

theorem Kept.execSetHint {s0 : State} {n : Nat} {s : State} (h_s : Kept s0 s) : NextWith (execSetHint n s) (Kept s0) := by
  unfold Sys2Proof.Machine.execSetHint
  repeat' first
    | with_reducible assumption
    | intro _
    | (extract_lets +onlyGivenNames x; have : ∀ a, x a = x a := fun _ => rfl; clear this; (try dsimp only [x]); clear x)
    | (extract_lets +onlyGivenNames x; clear_value x)
    | with_reducible refine Kept.pinPages ?_
    | with_reducible refine Kept.tierCommand ?_ ?_
    | with_reducible refine Kept.updStand ?_
    | with_reducible refine Kept.withFabric ?_ ?_
    | with_reducible refine Kept.ite ?_ ?_
    | with_reducible refine Kept.ite1 ?_ ?_
    | with_reducible refine Kept.next ?_
    | split

theorem Kept.execPrefetch {s0 : State} {n : Nat} {s : State} (h_s : Kept s0 s) : NextWith (execPrefetch n s) (Kept s0) := by
  unfold Sys2Proof.Machine.execPrefetch
  exact Kept.next (Kept.withFabric h_s fun x0 a => Kept.tierCommand a fun x0 x1 a => Kept.onRange a fun x0 x1 x2 a => Kept.ite1 a (Kept.overPages a fun x0_1 x1 a => Kept.promoteNow a))

theorem Kept.execEvict {s0 : State} {n : Nat} {s : State} (h_s : Kept s0 s) : NextWith (execEvict n s) (Kept s0) := by
  unfold Sys2Proof.Machine.execEvict
  repeat' first
    | with_reducible assumption
    | intro _
    | with_reducible refine Kept.evictCopy ?_
    | with_reducible refine Kept.onRange ?_ ?_
    | with_reducible refine Kept.overPages ?_ ?_
    | with_reducible refine Kept.tierCommand ?_ ?_
    | with_reducible refine Kept.withFabric ?_ ?_
    | with_reducible refine Kept.ite1 ?_ ?_
    | with_reducible refine Kept.next ?_
    | split

theorem Kept.execPromotion {s0 : State} {n p : Nat} {streaming : Bool} {s : State} (h_s : Kept s0 s) :
    NextWith (execPromotion n p streaming s) (Kept s0) := by
  unfold Sys2Proof.Machine.execPromotion
  repeat' first
    | with_reducible assumption
    | (extract_lets +onlyGivenNames x; have : ∀ a, x a = x a := fun _ => rfl; clear this; (try dsimp only [x]); clear x)
    | (extract_lets +onlyGivenNames x; clear_value x)
    | with_reducible refine Kept.deliver ?_
    | with_reducible refine Kept.restHand ?_
    | with_reducible refine Kept.startTraffic ?_
    | with_reducible refine Kept.updPage ?_
    | with_reducible refine Kept.ite ?_ ?_
    | with_reducible refine Kept.next ?_
    | split

theorem Kept.execPageMoveDone {s0 : State} {n p : Nat} {s : State} (h_s : Kept s0 s) :
    NextWith (execPageMoveDone n p s) (Kept s0) := by
  unfold Sys2Proof.Machine.execPageMoveDone
  repeat' first
    | with_reducible assumption
    | intro _
    | (extract_lets +onlyGivenNames x; refine (fun (hx : Kept s0 x) => ?_) ?_; clear_value x; rotate_left; dsimp only [x]; clear x)
    | (extract_lets +onlyGivenNames x; clear_value x)
    | with_reducible refine Kept.evictCopy ?_
    | with_reducible refine Kept.fetchFailed ?_
    | with_reducible refine Kept.installCopy ?_
    | with_reducible refine Kept.need ?_
    | with_reducible refine Kept.updPage ?_
    | with_reducible refine Kept.withFabric ?_ ?_
    | with_reducible refine Kept.ite ?_ ?_
    | with_reducible refine Kept.foldl ?_ (fun _ _ _ => ?_) _
    | with_reducible refine Kept.next ?_
    | split

end Sys2Proof.Machine
end

