-- ==== Sys2Proof/WellFormed.lean ====
section
/-! DEFINITION. Well-formed commands: operands in the ranges that the part has. A command out of them changes nothing, or
is refused by the rule of its row. -/

namespace Sys2Proof

/-- `x` is below `k`. -/
def below (k x : Nat) : Bool := decide (x < k)

/-- `x` fits in `w` bits. -/
def fits (w x : Nat) : Bool := below (2 ^ w) x

/-- Stand 0-23 (01_organisation.md R24). -/
def standOk (n : Nat) : Bool := below 24 n

/-- Fabric port 0-15, or DDR5 channel 0-15. -/
def portOk (p : Nat) : Bool := below 16 p

/-- Vector core 0-82,943 (01_organisation.md Table 1.4). -/
def coreOk (v : Nat) : Bool := below 82944 v

/-- Cluster 0-95. -/
def clusterOk (c : Nat) : Bool := below 96 c

/-- Hub die 0 or 1. -/
def hubOk (h : Nat) : Bool := below 2 h

/-- Arbiter 0-36 (12_shaping_arbitration.md Table 12.5). -/
def arbOk (n : Nat) : Bool := below 37 n

/-- A connection: hub die and number. -/
def connOk (k : Nat) : Bool := below 131072 k

/-- A virtual function is that of one of the 24 stands (20_host_interface.md R409). -/
def fnOk : Fn → Bool
  | .vf n => standOk n
  | .pf => true

/-- An access of 4 or 8 bytes, naturally aligned (00_scope.md R7). -/
def accessOk (off bytes : Nat) : Bool := (bytes == 4 || bytes == 8) && off % bytes == 0

/-- An access of 1 to 64 bytes. -/
def accessLen (k : Nat) : Bool := below 64 (k - 1) && k != 0

/-- A command entry of 64 bytes. -/
def entryOk (e : List Byte) : Bool := e.length == 64

/-- A command is well formed. -/
def Instr.wf : Instr → Bool
  | .registerWrite f off bytes v => fnOk f && accessOk off bytes && fits (8 * bytes) v
  | .rcRegisterRead f off bytes => fnOk f && accessOk off bytes
  | .ringRegisterWrite f off v => fnOk f && accessOk off 8 && fits 64 v
  | .dlinkLaneFault link module _ => below 11 link && below 8 module
  | .opMatmul n _ => standOk n
  | .opVtasks n => standOk n
  | .opReduceScatter n => standOk n
  | .opAllGather n => standOk n
  | .opLayerMark n => standOk n
  | .opWait n => standOk n
  | .opEnd n => standOk n
  | .operationComplete n i => standOk n && below 65536 i
  | .coreFailure c => clusterOk c
  | .vFma v _ => coreOk v
  | .vAdd v _ => coreOk v
  | .vSub v _ => coreOk v
  | .vMul v _ => coreOk v
  | .vMin v _ => coreOk v
  | .vMax v _ => coreOk v
  | .vAbs v _ => coreOk v
  | .vNeg v _ => coreOk v
  | .vCpysgn v _ => coreOk v
  | .vIadd v _ => coreOk v
  | .vIsub v _ => coreOk v
  | .vImul v _ => coreOk v
  | .vAnd v _ => coreOk v
  | .vOr v _ => coreOk v
  | .vXor v _ => coreOk v
  | .vShl v _ => coreOk v
  | .vShr v _ => coreOk v
  | .vSar v _ => coreOk v
  | .vPopc v _ => coreOk v
  | .vFcmp v _ => coreOk v
  | .vIcmp v _ => coreOk v
  | .vSel v _ => coreOk v
  | .vMand v _ => coreOk v
  | .vMor v _ => coreOk v
  | .vMnot v _ => coreOk v
  | .vExp v _ => coreOk v
  | .vLog v _ => coreOk v
  | .vRcp v _ => coreOk v
  | .vRsqrt v _ => coreOk v
  | .vTanh v _ => coreOk v
  | .vCvt v _ => coreOk v
  | .vQmx v _ => coreOk v
  | .vQf16s v _ => coreOk v
  | .vDq v _ => coreOk v
  | .vShuf v _ => coreOk v
  | .vBcast v _ => coreOk v
  | .vRsum v _ => coreOk v
  | .vRmax v _ => coreOk v
  | .vRmin v _ => coreOk v
  | .vPscan v _ => coreOk v
  | .vLd v _ => coreOk v
  | .vSt v _ => coreOk v
  | .vLds v _ => coreOk v
  | .vGld v _ => coreOk v
  | .vSst v _ => coreOk v
  | .vXin v _ => coreOk v
  | .vXout v _ => coreOk v
  | .vXwait v _ => coreOk v
  | .transferComplete v _ => coreOk v
  | .vAadd v _ => coreOk v
  | .vAmax v _ => coreOk v
  | .vectorAtomicApply v _ => coreOk v
  | .vFld v _ => coreOk v
  | .vFst v _ => coreOk v
  | .vFatom v _ => coreOk v
  | .vFence v _ => coreOk v
  | .vRng v _ => coreOk v
  | .scalarAlu v _ _ _ => coreOk v
  | .vBr v _ => coreOk v
  | .vBrz v _ => coreOk v
  | .vLoop v _ => coreOk v
  | .vSysrd v _ => coreOk v
  | .vFlgrd v _ => coreOk v
  | .vFlgclr v _ => coreOk v
  | .chisynEnd v _ => coreOk v
  | .taskPlace n => standOk n
  | .taskTimeout v => coreOk v
  | .lsUncorrectable v => coreOk v
  | .vcoreFault v => coreOk v
  | .maskRead n _ _ => standOk n
  | .maskWaitExpiry n _ => standOk n
  | .poolEnable f n v => fnOk f && standOk n && fits 64 v
  | .poolDisable f n v => fnOk f && standOk n && fits 64 v
  | .poolRebuildDone n => standOk n
  | .appendRecord v _ => coreOk v
  | .kvCreate n => standOk n
  | .kvGraft n => standOk n
  | .kvRelease n => standOk n
  | .kvTruncate n => standOk n
  | .remoteRequestSend v _ => coreOk v
  | .remoteRequestArrive n _ _ _ => standOk n
  | .remoteResponse n => standOk n
  | .remoteBudgetExpiry n _ => standOk n
  | .tierCreate n => standOk n
  | .tierDelete n => standOk n
  | .tierFlush n => standOk n
  | .tierSetHint n => standOk n
  | .tierPrefetch n => standOk n
  | .tierEvict n => standOk n
  | .tierLoad n => standOk n
  | .tierRepair n => standOk n
  | .promotion n _ _ => standOk n
  | .pageMoveDone n _ => standOk n
  | .ageSweep n => standOk n
  | .memoryUncorrectable n _ _ _ => standOk n
  | .sqNew n => standOk n
  | .sqCancel n => standOk n
  | .stepCompose n => standOk n
  | .commitPhase n => standOk n
  | .doneRecordExpiry n _ => standOk n
  | .acctSnap f n v => fnOk f && standOk n && fits 64 v
  | .energyTick n => standOk n
  | .swySuspend n _ => standOk n
  | .swyResume n _ => standOk n
  | .swyDiscard n _ => standOk n
  | .swyHold n => standOk n
  | .canopyInsert n => standOk n
  | .canopyDrop n => standOk n
  | .jobRegions n => standOk n
  | .mapSet cmd _ _ => entryOk cmd
  | .memberState cmd _ => entryOk cmd
  | .mapDelete cmd _ => entryOk cmd
  | .swyOffer n => standOk n
  | .swyAccept n => standOk n
  | .swyRefuse n => standOk n
  | .swyDone n => standOk n
  | .swyCommitted n => standOk n
  | .swyAbort n => standOk n
  | .handoffTimeout n _ => standOk n
  | .receiverTimeout n _ _ => standOk n
  | .bundleExpiry n _ _ => standOk n
  | .swyEvtHeadWrite f v index => fnOk f && below 25 v && fits 64 index
  | .portLinkUp p => portOk p
  | .portLinkDown p => portOk p
  | .fabOpen n => standOk n
  | .fabConnect n => standOk n
  | .fabClose n => standOk n
  | .fabRegister n => standOk n
  | .fabRevoke n => standOk n
  | .revokeDrainEnd _ => true
  | .packetSend k => connOk k
  | .pktWrite p _ => portOk p
  | .pktReadReq p _ => portOk p
  | .pktReadResp p _ => portOk p
  | .pktAck p _ => portOk p
  | .pktMemReq p _ => portOk p
  | .pktMemResp p _ => portOk p
  | .ackDelayExpiry k => connOk k
  | .retransmitTimeout k => connOk k
  | .frameTransmit p => portOk p
  | .frameUnclassified p _ => portOk p
  | .coalesceExpiry _ => true
  | .fmmLoad n => standOk n
  | .fmmStore n => standOk n
  | .fmmAtomic n => standOk n
  | .fmmFence n => standOk n
  | .fmmMap n => standOk n
  | .fmmUnmap n => standOk n
  | .fmmGroupCreate n => standOk n
  | .fmmGroupDelete n => standOk n
  | .barrierTimeout gk => below 2048 gk
  | .ptpMessage p _ _ => portOk p
  | .syncLossTimeout h => hubOk h
  | .holdoverExpiry h => hubOk h
  | .gateCycleStart p => portOk p
  | .gateEntryExpiry p => portOk p
  | .gclConfigChange f p v => fnOk f && portOk p && fits 64 v
  | .hubEntryExpiry h => hubOk h
  | .queueSample h => hubOk h
  | .arbiterGrant n _ => arbOk n
  | .burstLimitExpiry n => arbOk n
  | .requesterMaskRise n _ => arbOk n
  | .arbFreeze f n v => fnOk f && arbOk n && fits 64 v
  | .arbFreezeClear f n v => fnOk f && arbOk n && fits 64 v
  | .drainTimeout n _ => arbOk n
  | .asrSearch hub _ _ => hubOk hub
  | .classifierInsert hub cmd _ => hubOk hub && entryOk cmd
  | .classifierDelete hub cmd _ => hubOk hub && entryOk cmd
  | .classifierRead hub cmd _ => hubOk hub && entryOk cmd
  | .asrRespread hub _ _ _ => hubOk hub
  | .asrScrubEntry b slot _ => below 64 b && below 4096 slot
  | .searchThrottle hub _ => hubOk hub
  | .bankFailure b => below 64 b
  | .getQuote f m v _ => fnOk f && below 25 m && fits 64 v
  | .getLog f m v => fnOk f && below 25 m && fits 64 v
  | .getCert f m v => fnOk f && below 25 m && fits 64 v
  | .getKemKey f m v => fnOk f && below 25 m && fits 64 v
  | .installWeightKey f m v => fnOk f && below 25 m && fits 64 v
  | .removeWeightKey f m v => fnOk f && below 25 m && fits 64 v
  | .jobTicket f m v => fnOk f && below 25 m && fits 64 v
  | .jobJoin f m v => fnOk f && below 25 m && fits 64 v
  | .jobRemove f m v => fnOk f && below 25 m && fits 64 v
  | .hwdRandom f m v => fnOk f && below 25 m && fits 64 v
  | .enrolOwner f m v => fnOk f && below 25 m && fits 64 v
  | .releaseOwner f m v => fnOk f && below 25 m && fits 64 v
  | .stageFw f m v => fnOk f && below 25 m && fits 64 v
  | .applyFw f m v => fnOk f && below 25 m && fits 64 v
  | .fwRestart _ => true
  | .commitSvn f m v => fnOk f && below 25 m && fits 64 v
  | .joinRequest p _ => portOk p
  | .joinResponse p _ => portOk p
  | .joinRetry n => standOk n
  | .relayConfirm n => standOk n
  | .imageErase f v _ => fnOk f && fits 64 v
  | .imageWrite f v _ => fnOk f && fits 64 v
  | .imageCommit f v _ => fnOk f && fits 64 v
  | .replaceDrainEnd n => standOk n
  | .zeroingDone n => below 25 n
  | .pwrokRise _ => true
  | .resetRelease _ => true
  | .pkgReset f v _ => fnOk f && fits 64 v
  | .pwrVidApplied f v => fnOk f && fits 64 v
  | .powerUpGroveTest cores groves => cores.all coreOk && groves.all (below 24)
  | .standReset f v => fnOk f && fits 64 v
  | .standDrainEnd n => standOk n
  | .selfTest f v => fnOk f && fits 64 v
  | .selfTestDone g _ _ _ => below 24 g
  | .calibrationDue kind u _ => below 4 kind && below 16 u
  | .ballastTimeout _ k => below 82944 k
  | .sealedClusterStart n => standOk n
  | .thermalSample readings _ => below 9 readings.length
  | .throttleEval _ _ => true
  | .stewardFailure core _ => below 64 core
  | .sequencerFailure q => below 24 q
  | .packageFault block => below 11 block
  | .returnToService f v => fnOk f && fits 64 v
  | .returnCheckDone _ => true
  | .cxlLinkUp _ _ => true
  | .vfFlr n => standOk n
  | .qwDoorbellWrite n _ v => standOk n && fits 32 v
  | .apertureWrite n _ bs => standOk n && accessLen bs.length
  | .apertureRead n _ len _ => standOk n && accessLen len
  | .copyIn n e _ => standOk n && entryOk e
  | .copyOut n e => standOk n && entryOk e
  | .hdmAccess _ len _ _ => accessLen len
  | .mctpGetQuote _ _ => true
  | .mctpGetLog _ => true
  | .mctpGetKemKey _ => true
  | .setEndpointId _ eid => fits 8 eid
  | .stateLostEntryWindowEnd n => standOk n
  | .busMasterEnableWrite _ => true
  | .priorityFlowControlFrame p enable quanta => portOk p && fits 16 enable && quanta.all (fits 16)
  | .relayMessage _ _ => true
  | .pllUnlock _ _ => true
  | .refclkReturn _ => true
  | .ideKm _ _ _ => true
  | .getMctpVersionSupport type => fits 8 type
  | .getVendorMessageSupport selector => fits 8 selector
  | .entdaa addr => below 128 addr
  | .setdasa static addr => below 128 static && below 128 addr
  | .samplePreload _ _ => true
  | .testLogicReset _ => true
  | .hostLinkDegraded _ => true
  | .ideIntegrityFailure _ => true
  | .pskExchange _ => true
  | .ddrAlertN k _ => portOk k
  | .lmsTreeBuilt => true
  | .pwrokFall => true
  | .rstNLow => true
  | .perstNLow => true
  | .governorGrant => true
  | .floodWindowEnd => true
  | .cxlLinkDown => true
  | .pfFlr => true
  | .health => true
  | .vidApplied => true
  | .mctpGetCert => true
  | .getEndpointId => true
  | .getMessageTypeSupport => true
  | .idcode => true
  | .extest => true
  | .extestPulse => true
  | .extestTrain => true
  | .clamp => true
  | .highz => true
  | .bypass => true

end Sys2Proof
end

