-- ==== Sys2Proof/Tests/Slice0.lean ====
section
/-! SUPPORT. Tests of the model's own work: ill-formed commands, and for the statements witnesses of their hypotheses:
each theorem `witness_<Statement>` names states and operands that meet them together. Clauses whose hypotheses rest on
an opaque constant (a verified signature, a KEM secret) have no concrete witness. -/

namespace Sys2Proof.Tests

open Sys2Proof Sys2Proof.Machine

set_option Elab.async false

/-! Well-formed commands -/

/-- Each row's operand just out of its range. -/
theorem test_ill_formed_numbers : ([.opWait 24, .portLinkUp 16, .ddrAlertN 16 true, .coreFailure 96, .vBr 82944 {},
    .hubEntryExpiry 2, .burstLimitExpiry 37, .packetSend 131072, .barrierTimeout 2048, .bankFailure 64, .zeroingDone 25,
    .stewardFailure 64 0, .sequencerFailure 24, .packageFault 11, .selfTestDone 24 [] [] [], .calibrationDue 4 0 [],
    .calibrationDue 0 16 [], .dlinkLaneFault 11 0 true, .dlinkLaneFault 0 8 true, .operationComplete 0 65536,
    .ballastTimeout false 82944, .entdaa 128, .setdasa 128 0, .setdasa 0 128] : List Instr).all (fun c => !c.wf) = true := by
  decide +kernel

/-- Functions, values, accesses and entries out of their form. -/
theorem test_ill_formed_forms : ([.registerWrite (.vf 24) 0 4 0, .registerWrite .pf 2 4 0, .registerWrite .pf 0 2 0,
    .registerWrite .pf 0 4 (2 ^ 32), .rcRegisterRead .pf 4 8, .ringRegisterWrite .pf 0 (2 ^ 64), .poolEnable .pf 24 0,
    .acctSnap .pf 0 (2 ^ 64), .swyEvtHeadWrite .pf 25 0, .getQuote .pf 25 0 0, .imageErase (.vf 24) 0 false,
    .mapSet [] .error {}, .copyIn 0 [] [], .classifierRead 2 (zeros 64) .error, .asrScrubEntry 0 4096 .same,
    .asrScrubEntry 64 0 .same, .apertureWrite 0 0 [], .apertureRead 0 0 65 false, .hdmAccess 0 0 [] true,
    .qwDoorbellWrite 0 0 (2 ^ 32), .setEndpointId 0 256, .getMctpVersionSupport 256, .getVendorMessageSupport 256,
    .priorityFlowControlFrame 0 (2 ^ 16) [], .priorityFlowControlFrame 0 0 [2 ^ 16], .powerUpGroveTest [82944] [],
    .powerUpGroveTest [] [24], .thermalSample (List.replicate 9 []) 0] : List Instr).all (fun c => !c.wf) = true := by
  decide +kernel

/-! States -/

/-- A running package with stand 0 of four groves, one half-stack and one DDR5 channel, and the host link up. -/
def live : State := { State.reset with
  phase := .running, pins := { pwrok := true }, host := { busMaster := 2 ^ 25 - 1, vfEnable := true, numVfs := 24 },
  regs := [(Reg.GLB_STAND.addr 0 0, BitVec.ofNat 64 (0xF + 2 ^ 24 + 2 ^ 33 + 2 ^ 41)),
    (Reg.GLB_LINK_STATUS.addr 0 0, BitVec.ofNat 64 (2 ^ Fld.GLB_LINK_STATUS_LINK_UP.lo))],
  stands := [(0, { cond := .running })] }

/-- An object of 16 pages of 64 KiB at stand address 0, of a home and a hint. -/
def object (home hint : Nat) : TierObject := ⟨0, home, hint, 0, 0, 16, 0, 0, 0, 0, 0, 0, 0, false⟩

/-- The same with one object of 16 pages at stand address 0, at home in T1. -/
def mapped : State := live.updStand 0 (fun st => { st with tiers := { objects := [(0, object 1 0)] } })

/-- An entry alone in a ring of two at stand address 0. -/
def ringed (s : State) (r : Ring) (e : List Byte) : State :=
  ((s.setFld r.size 0 0 1).setFld r.tail 0 0 1).standWrite 0 0 e

/-- A function may write a whole register. -/
def writes (f : Fn) (r : Reg) (i j v : Nat) : Bool := (live.writeRow f r i j [] v).isSome

/-! The block -/

theorem witness_StepRunsFront : ({ live with pending := [.idcode, .bypass] } : State).pending = .idcode :: [.bypass] ∧
    live.pending = [] := by decide +kernel

theorem witness_MemoryStaysCanonical : MemInv live ∧ ∃ t, step { live with pending := [.idcode] } = .next t :=
  ⟨by unfold MemInv; decide +kernel, _, rfl⟩

theorem witness_FusesOnlyBurn : ∃ t, step { live with pending := [.vBr 0 {}] } = .next t := ⟨_, rfl⟩

/-! Registers -/

theorem witness_RegisterWrites : badAccess 2 4 = true ∧ badAccess (Reg.SHP_CBS.addr 15 7) Reg.SHP_CBS.bytes = false ∧
    regAt (Reg.SHP_CBS.addr 15 7) Reg.SHP_CBS.bytes = some (.SHP_CBS, 15, 7) ∧
    (live.portTick 15).right .pf .SHP_CBS 15 7 = .full ∧ Reg.SHP_CBS.writeAdmits 0 = true ∧
    regAt (Reg.FAB_PORT_CTRL.addr 0 0) Reg.FAB_PORT_CTRL.bytes = some (.FAB_PORT_CTRL, 0, 0) ∧
    live.right .pf .FAB_PORT_CTRL 0 0 = .full ∧ live.right (.vf 0) .MXC_ERROR 0 0 = .clear ∧
    live.right (.vf 1) .MXC_ERROR 0 0 = .none ∧ live.areaBusy .FAB_PORT_CTRL 0 = false := by decide +kernel

theorem witness_RegisterReads : badAccess 0x0FFFFFF0 8 = false ∧ regAt 0x0FFFFFF0 8 = none ∧
    regAt (Reg.KVM_CMD_RING.addr 23 0) 8 = some (.KVM_CMD_RING, 23, 0) ∧ Reg.KVM_CMD_RING ∈ ringRegs ∧
    regAt (Reg.KVM_CMD_RING.addr 0 0) 8 = some (.KVM_CMD_RING, 0, 0) ∧ live.right (.vf 0) .KVM_CMD_RING 0 0 = .full ∧
    Reg.KVM_CMD_RING.writeAdmits (4096 + 4 * 2 ^ 48) = true ∧ live.right (.vf 0) .SWY_EVT_HEAD 0 0 = .full ∧
    live.right .pf .SWYP_EVT_HEAD 0 0 = .full ∧ live.right .pf .SCH_ACCT_SNAP 23 0 = .full ∧
    Reg.SCH_ACCT_SNAP.writeAdmits 1 = true ∧ live.right .pf .PWR_VID 0 0 = .full ∧
    Reg.PWR_VID.writeAdmits (Reg.PWR_VID.resetValue 0 0 + 2 ^ 10) = true := by decide +kernel

theorem witness_ErrorContext : live.right (.vf 0) .MXC_ERROR 3 0 = .clear ∧ live.reg .MXC_ERROR 3 0 < 16 ∧
    regAt (Reg.MXC_ERROR.addr 3 0) 4 = some (.MXC_ERROR, 3, 0) ∧
    (live.setFld Fld.MXC_ERROR_ACT_POISONED 3 0 1).reg .MXC_ERROR 3 0 ≠ 0 := by decide +kernel

/-! Vector cores -/

/-- A task on core 0 of stand 0, with nothing outstanding. -/
def task0 : VTask := { stand := 0, index := 0, kernel := 0, seqValid := false, seq := 0 }

/-- Core 0 runs a task. -/
def runsTask (t : VTask) : State := mapped.setTask 0 (some t)

/-- An instruction of any registers issues in it. -/
theorem witness_Issues (uses : List Nat) : Issues (runsTask task0) 0 uses task0 :=
  ⟨by decide +kernel, rfl, fun _ _ => List.not_mem_nil⟩

theorem witness_ChisynFloat : floatType 1 = some .bf16 ∧ floatType 0 = some .fp32 ∧
    Issues (runsTask task0) 0 (vs [31, 0, 31, 0]) task0 := ⟨rfl, rfl, witness_Issues _⟩

theorem witness_ChisynSpecial : Fmt.fp32.decode 0x7FC00000 = .nan false ∧ Fmt.fp32.decode 0xFF800000 = .inf true ∧
    Fmt.bf16.decode 0x8000 = .fin true 0 (-133) ∧ Fmt.fp32.decode 0x80000001 = .fin true 1 (-149) := by decide +kernel

theorem witness_ChisynInteger : ({ type := 2 } : VWord).type = 2 ∧ Issues (runsTask task0) 0 (vs [0, 1, 2]) task0 :=
  ⟨rfl, witness_Issues _⟩

theorem witness_ChisynMasks : floatType ({ type := 1 } : VWord).type = some .bf16 ∧ Issues (runsTask task0) 0 [] task0 :=
  ⟨rfl, witness_Issues _⟩

/-- CVT of group 1 of BF16 to BF16, the end of its register; QMX to E2M1; QF16S to E4M3; DQ. -/
theorem witness_ChisynConversions : plainElem (typeCode { type := 1 }) = some (.flt .bf16) ∧
    plainElem (immBits { imm := 0x420 } 5 5) = some (.flt .bf16) ∧ (16 * immBits { imm := 0x420 } 10 3 + 16) * 16 ≤ 512 ∧
    formatOf (immBits { imm := 0x0E } 0 5) = some (.flt .e2m1, .mx) ∧
    (∃ k < 32, formatOf k = some (.flt .e4m3, .f16s)) ∧
    srcNum { task0 with v := [(3, 0x3F800000)] } .fp32 3 0 = .fin false (8388607 + 1) (-23) ∧
    srcNum task0 .fp32 3 0 = .fin false 0 (-149) := by decide +kernel

theorem witness_ChisynCrossLane : ({ type := 2 } : VWord).type ≠ 3 ∧ task0.activeElements { type := 2 } 32 ≠ [] ∧
    floatType ({ type := 0 } : VWord).type = some .fp32 ∧ Issues (runsTask task0) 0 (vs [1, 2]) task0 :=
  ⟨by decide, by decide +kernel, rfl, witness_Issues _⟩

theorem witness_ChisynScalar : immBits { imm := 4 } 0 3 < 5 ∧ immBits { imm := 5 } 0 3 = 5 ∧
    Issues (runsTask task0) 0 (xs [31, 0, 1]) task0 := ⟨by decide, by decide, witness_Issues _⟩

/-- The last vector of the local store, and an address past it. -/
theorem witness_ChisynLocalStore : Memory.wf (runsTask task0).mem = true ∧
    lsOk (VTask.lsAddr { task0 with x := [(1, 0xBFC0)] } { src1 := 1 }) 64 = true ∧
    lsOk (VTask.lsAddr { task0 with x := [(1, 0xBFF8)] } { src1 := 1, src3 := 8 }) 8 = true ∧
    (∀ p ∈ task0.strided {}, lsOk p.2 4 = true) ∧ (∀ p ∈ task0.indexed {}, lsOk p.2 4 = true) ∧
    ∃ p ∈ VTask.indexed { task0 with x := [(1, 0xC000)] } { src1 := 1 }, lsOk p.2 4 = false := by decide +kernel

/-- A task with one transfer to the activation store, 64 B from the start of the local store. -/
def oneOut (out : Bool) : VTask :=
  { task0 with transfers := [{ tag := 7, out := out, ls := 0, addr := 0, len := 64, inStand := false,
                               held := if out then zeros 64 else [] }] }

theorem witness_ChisynTransfers : (runsTask task0).transferOk 0 { tag := 7, out := true, ls := 0xBFC0, addr := 0, len := 64, inStand := false } =
      true ∧ (runsTask task0).transferOk 0 { tag := 0, out := true, ls := 32, addr := 0, len := 64, inStand := false } = false ∧
    (task0.transfers.filter (·.tag == 7)).length < 16 ∧ (oneOut true).transfers.any (·.tag == 7) = true ∧
    16 ≤ ((List.replicate 16 (oneOut true).transfers).flatten.filter (·.tag == 7)).length ∧
    (runsTask (oneOut true)).task 0 = some (oneOut true) ∧ 0 + 64 ≤ spaceSize ∧
    (runsTask (oneOut true)).lsBytes 0 0 64 = zeros 64 ∧ (runsTask (oneOut false)).vop 0 = none := by decide +kernel

theorem witness_ChisynAtomics : (runsTask task0).outsideOk 0 false true (task0.xreg 1).toNat 4 = true ∧
    (task0.xreg 1).toNat % 4 = 0 ∧ (runsTask { task0 with atomics := [⟨true, true, 60, false, 5⟩] }).task 0 =
      some { task0 with atomics := [⟨true, true, 60, false, 5⟩] } ∧
    (∀ y ∈ ([⟨true, true, 60, false, 5⟩] : List VAtomic).take 0, y.addr ≠ 60 ∨ y.inStand ≠ false) := by decide +kernel

theorem witness_ChisynFabric : memKnown 2 (immBits { imm := 0x81 } 0 2) (immBits { imm := 0x81 } 4 4) = true ∧
    immBits { imm := 0x81 } 2 2 = 0 ∧ (0x81 : BitVec 27).toNat / 2 ^ 8 = 0 ∧ (task0.xreg 1).toNat % memSize 1 = 0 ∧
    (VTask.xreg { task0 with x := [(1, 4)] } 1).toNat % memSize 1 ≠ 0 ∧ (runsTask task0).fabDone = [] := by decide +kernel

/-- A VTASKS operation of one task, whose descriptor at stand address 0 lets it run anywhere. -/
def placing : State := mapped.updStand 0 (fun st => { st with step := some { model := 0, vop := some ⟨0, 0, 64, 1, 100, 0, 0, []⟩ } })

theorem witness_TaskEnds : (runsTask task0).task 0 = some task0 ∧ immBits { imm := 0x8000 } 0 16 = 0x8000 ∧
    (oneOut true).transfers ≠ [] ∧ (runsTask task0).coreInService 82943 = true ∧
    (runsTask task0).groveStand (0 / 864 / 4) = some 0 ∧
    (placing.vop 0).map (fun op => (op.next, op.count)) = some (0, 1) ∧ (placing.lowestFreeCore 0 none).isSome = true ∧
    placing.peek 0 0 32 = .ok (zeros 32) ∧ placing.descriptorValid 0 (zeros 32) = true ∧
    placing.lowestFreeCore 0 (some 7) = none := by decide +kernel

/-! Layer programs and the steward -/

/-- A running step of model 0, whose program has two operations with the given words 0. -/
def program (w0 w1 : Nat) (st : Step) : State :=
  ((mapped.updStand 0 (fun x => { x with cfg := { models := [(0, { program := 0x1000, vocab := 8 })], reqMax := 2 }, step := some st })).standWrite 0
    0x1000 ([0, 0, 2, 0] ++ zeros 12 ++ toBytes 6 0x2000)).standWrite 0 0x2000 (toBytes 8 w0 ++ zeros 24 ++ toBytes 8 w1)

/-- Every matrix core of the package clocked. -/
def clocked (s : State) : State :=
  s.updPower (fun p => { p with matrix := (List.range 96).map (fun c => (c, Clock.work)) })

theorem witness_LayerOperations : ∀ op ∈ [1, 4, 7], Starts (program op 6 { model := 0 }) 0 0 op { model := 0 } := by
  intro op h
  refine ⟨?_, ?_, ?_, ?_, fun j hj => absurd hj (Nat.not_lt_zero j)⟩ <;> revert op <;> decide +kernel

/-- MATMUL's wait for one signal of counter 1, and a second MATMUL behind an earlier one. -/
theorem witness_LayerOperations_wait : (program (1 + 2 ^ 8 + 2 ^ 16) 6 { model := 0 }).running 0 = some { model := 0 } ∧
    (program (1 + 2 ^ 8 + 2 ^ 16) 6 { model := 0 }).nextOp 0 { model := 0 } 0 = some 0 ∧
    waitHolds { model := 0 } ((program (1 + 2 ^ 8 + 2 ^ 16) 6 { model := 0 }).opBytes 0 0 0) = false ∧
    (program 1 1 { model := 0, started := [0] }).nextOp 0 { model := 0, started := [0] } 0 = some 1 ∧
    opClass ((program 1 1 { model := 0, started := [0] }).opcode 0 0 0) = opClass 1 ∧
    (clocked (program 1 6 { model := 0 })).matrixReady 0 = true := by decide +kernel

theorem witness_OperationCompletes : (program 1 2 { model := 0, started := [0, 1], vop := some ⟨1, 0, 0, 2, 100, 2, 2, []⟩ }).running 0 =
      some { model := 0, started := [0, 1], vop := some ⟨1, 0, 0, 2, 100, 2, 2, []⟩ } ∧
    (program 1 2 { model := 0, started := [0, 1] }).opcode 0 0 0 = 1 ∧ (program 1 2 { model := 0, started := [0, 1] }).opcode 0 0 1 = 2 ∧
    (program 1 2 { model := 0 }).groveStand 0 = some 0 ∧ (program 1 2 { model := 0 }).groveStand 23 = none ∧
    ((program 1 2 { model := 0 }).fld Fld.RST_GROVE_STATUS_OUT_OF_SERVICE).testBit 23 = false := by decide +kernel

/-- Request 5, whose submission entry asks for a grammar mask. -/
def masked : State := (program 1 2 { model := 0, rows := [⟨5, 0, 0, 0, 0, .decode, true⟩] }).updStand 0 (fun st =>
  { st with requests := [{ id := 5, entry := toBytes 8 (2 ^ 8) ++ toBytes 8 5 ++ List.replicate 112 1, state := .generating }] })

theorem witness_GrammarMasks : (masked.awaitsMask 0 5).isSome = true ∧ masked.hostReach (.vf 0) = true ∧
    (masked.awaitsMask 0 5).map (fun r => (((masked.stand 0).cfg.models.get? r.model).map (·.vocab)).getD 0) = some 8 := by
  decide +kernel

/-! Attention state and memory tiers -/

/-- A pool of one frame and four sequences; its group 0 has one head of 32 elements in one layer. -/
def pool : Pool := ⟨0x20000, 1, 4, 0x10000, 0x11000, 2 ^ 36, 0x18000, 0, 0, 0⟩

/-- Its descriptor at stand address 0x8000. -/
def described (s : State) : State := s.standWrite 0 0x8000 (toBytes 8 0x20000 ++ toBytes 4 1 ++ toBytes 4 4 ++
  toBytes 8 0x10000 ++ toBytes 8 0x11000 ++ toBytes 8 (2 ^ 36) ++ toBytes 8 0x18000 ++ zeros 16)

/-- The pool in use; sequence 0 is VALID and empty. -/
def pooled (s : State) : State :=
  ((s.updStand 0 (fun st => { st with kv := { pool := some pool } })).standWrite 0 0x10000
    (toBytes 4 0 ++ toBytes 4 1 ++ toBytes 6 0x12000 ++ toBytes 2 1)).standWrite 0 0x11000
      (toBytes 8 (0x12 + 2 ^ 5 + 2 ^ 16 + 2 ^ 24 + 32 * 2 ^ 32))

theorem witness_PoolLife : (0x8000 + 2 ^ 48).testBit 48 = true ∧ (described mapped).right (.vf 0) .KVM_POOL 0 0 = .full ∧
    Reg.KVM_POOL.writeAdmits (0x8000 + 2 ^ 48) = true ∧ (described mapped).flag Fld.KVM_POOL_ENABLE 0 = false ∧
    (((described mapped).rowWritten .KVM_POOL 0 (0x8000 + 2 ^ 48)).readPool 0 0x8000).any
      (((described mapped).rowWritten .KVM_POOL 0 (0x8000 + 2 ^ 48)).poolOk 0) = true ∧
    (described mapped).readPool 0 0x8001 = none ∧ ((pooled mapped).stand 0).kv.pool.isSome = true ∧
    ((pooled mapped).setFld Fld.KVM_POOL_ENABLE 0 0 1).flag Fld.KVM_POOL_ENABLE 0 = true := by decide +kernel

/-- An XOUT of 192 B to the append window at the start of the aperture: one BF16 token of sequence 0 at position `pos`. -/
def appending (pos : Nat) : State :=
  let bs := toBytes 8 (2 ^ 48 + 2 ^ 56) ++ toBytes 4 pos ++ toBytes 2 1 ++ zeros 178
  ((pooled mapped).setTask 0 (some { task0 with transfers := [⟨0, true, 0, 2 ^ 36, 192, true, 0, bs⟩] })).lsPut 0 0 bs

theorem witness_Appends : ∀ pos ∈ [0, 1, 512 * 16], ((appending pos).windowOut 0 0 .append).any (fun w =>
    let a := AppendHeader.ofBytes w.2
    (appending pos).appendOk 0 pool a w.2.length == (pos != 512 * 16) &&
      ((appending pos).appendNext 0 pool a a.head == a.pos) == (pos == 0)) = true := by decide +kernel

theorem witness_KvRing : (pooled mapped).kvActive 0 = some pool ∧
    (ringed (pooled mapped) kvRing (toBytes 32 3)).ringFront kvRing 0 32 = some (toBytes 32 3) ∧
    le (toBytes 32 3) 0 1 = 3 ∧ (pooled mapped).seqValid 0 pool 0 = true ∧ (pooled mapped).seqValid 0 pool 3 = false ∧
    ((pooled mapped).stand 0).step = none := by decide +kernel

/-- A connection of stand 0 that is OPEN or in another state, of number 1 on hub die 0 and window 4. -/
def conn0 (state : ConnState) : Conn := { stand := 0, state := state, udp := false, jumbo := false, tclass := 0, ports := 1, peers := [], peerConn := 1, window := 4, rto := 100, retry := 3, keyId := 5, peerSender := 9, inc := 1 }

/-- One remote request of slot 0, head 0 is pending, and a response of 64 B for it has arrived. -/
def asked : State := (pooled mapped).updStand 0 (fun st => { st with kv := { st.kv with remotes := [(0, ⟨0, 0, 0, 0, 0, 0, 5, [], none, 0⟩)], arrived := [(0, zeros 64)] } })

theorem witness_RemoteAttention :
    (((pooled mapped).setTask 0 (some { task0 with transfers := [⟨0, true, 0, 2 ^ 36 + 2 ^ 30, 64, true, 0, zeros 64⟩] })).windowOut 0 0
      .request).isSome = true ∧ ({ mapped with conns := [(1, conn0 .open_)] } : State).conn 1 = some (conn0 .open_) ∧
    mapped.peek 0 0 64 = .ok (zeros 64) ∧ (asked.stand 0).kv.arrived = [(0, zeros 64)] ∧
    (asked.pendingFor 0 pool 0 (zeros 64)).isSome = true ∧ asked.pendingFor 0 pool 8192 (zeros 64) = none ∧
    (((asked.stand 0).kv.remotes.get? 0).any (fun r => r.resolved == none)) = true := by decide +kernel

theorem witness_TierCommands : ∀ op ∈ [1, 2, 8], (ringed mapped tierRing (toBytes 32 op)).ringFront tierRing 0 32 = some (toBytes 32 op) ∧
    le (toBytes 32 op) 0 1 = op ∧ le (toBytes 32 op) 4 2 ≠ programObject ∧ (mapped.stand 0).step = none ∧
    ((mapped.stand 0).tiers.objects.get? 0).isSome = true ∧ mapped.frontMoves 0 = false ∧ mapped.frontMoves 0 = false := by
  decide +kernel

/-- An object of T2 home at stand address 0, of one page with a copy in frame 3 of T1. -/
def copied (home hint dirty : Nat) (held : Bool) : State := live.updStand 0 (fun st => { st with tiers := { objects := [(0, object home hint)], pages := [(0, { copy := some { frame := ⟨1, 0, 3⟩, dirty := dirty, held := held } })] } })

theorem witness_PageMoves : ((copied 2 0 1 false).pageObject 0 0) = some (0, object 2 0) ∧ bitsOf 16 1 ≠ [] ∧ bitsOf 16 0 = [] ∧
    (((copied 2 0 1 true).stand 0).tiers.page 0).copy = some { frame := ⟨1, 0, 3⟩, dirty := 1, held := true } ∧
    ((((copied 2 0 0 false).updPage 0 0 (fun e => { e with move := .evicting })).stand 0).tiers.page 0).move = .evicting ∧
    ((copied 2 0 0 false).evictCopy 0 0).2 = true ∧ (((copied 2 0 0 false).stand 0).tiers.page 1).copy = none ∧
    ((copied 2 0 0 false).freeCopyFrame 0 (object 2 0) 1).isSome = true ∧ ((copied 2 0 0 false).stand 0).tiers.moves < 64 ∧
    (copied 2 0 0 false).pageObject 0 1 = some (0, object 2 0) ∧ (copied 2 0 0 false).pageObject 0 16 = none := by
  decide +kernel

/-! The scheduler -/

/-- A submission entry of 128 B alone in queue 0, at stand address 0x4000. -/
def submitted (e : List Byte) : State :=
  ((((((pooled mapped).updStand 0 (fun st => { st with cfg := { reqMax := 1, models := [(0, {})] } })).setFld Fld.SCH_SQ_BASE_ENABLE 0 0 1).setFld Fld.SCH_SQ_BASE_SIZE_LOG2 0
    0 4).setFld Fld.SCH_SQ_BASE_ADDR 0 0 0x4000).setFld Fld.SCH_SQ_TAIL_INDEX 0 0 1).standWrite 0 0x4000 e

theorem witness_Intake : ((submitted (toBytes 8 2 ++ zeros 120)).intakeNext 0).map (·.1) = some 0 ∧
    ((submitted (zeros 128)).stand 0).cond = .running ∧ ((submitted (zeros 128)).stand 0).life.stage = .steady ∧
    ((submitted (zeros 128)).stand 0).requests.length < ((submitted (zeros 128)).stand 0).cfg.reqMax ∧
    (submitted (zeros 128)).refusal 0 .host (zeros 128) = 7 ∧
    ((submitted (zeros 128)).updStand 0 (fun st => { st with done := [⟨0, 0, 0⟩] })).refusal 0 .host (zeros 128) = 5 ∧
    (le (toBytes 8 2 ++ zeros 120) 0 1 = 2) ∧ (submitted (zeros 128)).cancelArrival 0 0 = none := by decide +kernel

theorem witness_Steps : live.atBoundary 0 = true ∧ live.atBoundary 1 = false ∧ (live.chooseStep 0 (live.stand 0).turns).2.isNone = true ∧
    (∀ j < 2, [7, 8, 9][j]? = [7, 8, 5][j]? ∧ [7, 8, 9][j]?.isSome = true) ∧ [7, 8, 9][2]? ≠ [7, 8, 5][2]? ∧
    live.standValid 0 = true ∧ live.standValid 24 = false ∧ (live.stand 0).done.length ≤ 131072 := by decide +kernel

/-! Sapway -/

/-- A bundle header of bundle 7, of nothing else. -/
def header7 : BundleHeader := ⟨0, false, false, 7, 0, 0, 0, 0, 0, 0, 0, 0, 0, 0, 0, 0, 0, [], 0, []⟩

/-- Stand 0's Sapway sends bundle 7 on connection 1, receives bundle 8 there, stores bundle 9 and holds sequence 2; a
message of a type has arrived. -/
def sapway (type : Nat) : State :=
  let m := toBytes 252 type
  mapped.updStand 0 (fun st => { st with sapway := { mail := [(1, m ++ toBytes 4 (crc32c m))], sending := [{ purpose := .handoff, header := header7, seq := 0, conn := some 1 }], arrivals := [⟨1, 8, 0, zeros 112, [], 0, (0, 0, 0), false, 0, 0, none, none, (0, 0), none, 0, false, false⟩], store := [(9, ⟨0, 256, 0, 5⟩)], holds := [(2, 5)] } })

theorem witness_SwyRing : (ringed (pooled mapped) swyRing (toBytes 32 3)).swyHeld 0 = false ∧
    (ringed (pooled mapped) swyRing (toBytes 32 3)).runFront .swy 0 = some (0, toBytes 32 3) ∧ le (toBytes 32 3) 0 1 = 3 ∧
    ((ringed (pooled mapped) swyRing (toBytes 32 3)).updStand 0 (fun st => { st with swyRun := { next := 0, busy := [0] } })).swyHeld 0 = true ∧
    (pooled mapped).seqValid 0 pool 0 = true ∧ (pooled mapped).seqPoisoned 0 pool 0 = false ∧
    (pooled mapped).seqValid 0 pool 3 = false ∧ ((sapway 1).stand 0).sapway.store.get? 9 = some ⟨0, 256, 0, 5⟩ ∧ (sapway 1).nowS < 5 ∧
    ({ sapway 1 with timeNs := 5000000000 } : State).nowS = 5 := by decide +kernel

/-- A package ring of two with an entry in it, and a key of one ACTIVE epoch. -/
def keyed : State := { (live.setFld Fld.SWYP_CMD_RING_SIZE_LOG2 0 0 1).setFld Fld.SWYP_CMD_TAIL_INDEX 0 0 1 with
  comps := [⟨0, 0, 0, [⟨4, 0, true, 3⟩]⟩] }

theorem witness_PackageRing : keyed.fld Fld.SWYP_CMD_HEAD_INDEX % 2 ^ keyed.fld Fld.SWYP_CMD_RING_SIZE_LOG2 = 0 ∧
    keyed.fld Fld.SWYP_CMD_TAIL_INDEX % 2 ^ keyed.fld Fld.SWYP_CMD_RING_SIZE_LOG2 = 1 ∧ keyed.hostReach .pf = true ∧
    le (toBytes 32 3) 0 1 = 3 ∧ le (toBytes 32 3) 16 6 % 8 = 0 ∧ keyOf (zeros 8) = (0, 0, 0) ∧
    (keyed.composition 0 0 0).any (fun c => c.epochs.any (·.active) && decide (c.epochs.length ≤ 3)) = true := by decide +kernel

theorem witness_SwyMessages : ∀ type ∈ [1, 2, 3, 4, 5, 6], (((sapway type).cleanMail 0).mailOf 0 type).isSome = true ∧
    ((sapway type).sending 0 7).any (fun b => b.conn.isSome && b.phase != .accepted) = true ∧ ((sapway type).arrival 0 1 8).isSome = true ∧
    (((sapway type).stand 0).sapway.store.get? 9).isSome = true ∧ (((sapway type).stand 0).sapway.holds.get? 2).isSome = true := by
  decide +kernel

/-! The fabric -/

/-- A header with every field at its largest. -/
theorem witness_PacketHeaders : (Header.parse (List.replicate 40 0)).clean = true ∧
    ∃ h : Header, h.version = 15 ∧ h.dstInc = 2047 ∧ h.psn = 2 ^ 32 - 1 ∧ h.offset = 2 ^ 48 - 1 ∧ h.clean = true :=
  ⟨by decide +kernel, { Header.parse (zeros 40) with version := 15, dstInc := 2047, psn := 2 ^ 32 - 1, offset := 2 ^ 48 - 1 }, by
    decide +kernel⟩

/-- A frame without a packet. -/
def frame : FabFrame := { dst := 0, src := 0, etherType := 0x88B5, packet := [] }

/-- Port 15 up with one frame of class 7, and the links of every port. -/
def wired (s : State) : State := { (s.setFld Fld.FAB_PORT_STATUS_LINK_UP 15 0 1).setFld Fld.FAB_PORT_STATUS_LINK_UP 0 0 1 with
  ports := [(15, { queues := [(7, [⟨1, 1, frame, 0⟩])] })] }

theorem witness_PortLinks : live.flag Fld.FAB_PORT_STATUS_LINK_UP 3 = false ∧ live.conns = [] ∧
    (live.setFld Fld.FAB_PORT_CTRL_ENABLE 3 0 1).flag Fld.FAB_PORT_CTRL_ENABLE 3 = true ∧
    (wired live).flag Fld.FAB_PORT_STATUS_LINK_UP 15 = true ∧ ((wired live).port 15).freeAt ≤ (wired live).timeNs ∧
    ((wired live).portTick 15).classEligible 15 7 = true ∧ (∀ k < 8, 7 < k → ((wired live).portTick 15).classEligible 15 k = false) ∧
    ((wired live).port 15).queue 7 = [⟨1, 1, frame, 0⟩] ∧ (∀ c < 8, ((wired live).portTick 0).classEligible 0 c = false) ∧
    (wired live).isRamuha 0 { frame with etherType := 0x800 } = false := by decide +kernel

/-- A stand's fabric ring holds one entry of an operation; connection 1 is in a state. -/
def fabric (e : List Byte) (c : Conn) : State := { ringed mapped fabRing e with
  conns := [(1, c)], regions := [(3, ⟨0, 4096, .active, true, true, true, 0, 0, 0, 5, none⟩)] }

theorem witness_FabricRing : (fabric (toBytes 32 (2 + 2 ^ 32)) (conn0 .bound)).runFront .fab 0 = some (0, toBytes 32 (2 + 2 ^ 32)) ∧
    le (toBytes 32 (2 + 2 ^ 32)) 4 4 % 2 ^ 17 = 1 ∧
    ((fabric (toBytes 32 2) (conn0 .bound)).runTake .fab 0 0).conn 1 = some (conn0 .bound) ∧
    (conn0 .bound).stand = 0 ∧ (conn0 .open_).state = .open_ ∧ (conn0 .open_).out = [] ∧
    ((fabric (toBytes 32 5) (conn0 .bound)).runTake .fab 0 0).activeRegion 0 3 = some 3 ∧
    ((fabric (toBytes 32 5) (conn0 .bound)).runTake .fab 0 0).activeRegion 0 4 = none ∧
    (fabric (toBytes 32 5) (conn0 .bound)).nextInc 1 5 = some (1, 1) ∧
    ({ mapped with connPast := [(1, ⟨2, 5, 3⟩)] } : State).nextInc 1 5 = none := by decide +kernel

/-- The descriptors of OPEN and REGISTER at stand addresses 0x100 and 0x200, within what the stand is allotted; KEY_ID 5 is
a job key. -/
def allotted : State :=
  ((((mapped.updStand 0 (fun st => { st with jobKeys := [(5, { jobId := 1, originator := true, admission := zeros 32, key := some (zeros 32) })] })).setFld
    Fld.FAB_ALLOT_CONN_COUNT_HD0 0 0 4).setFld Fld.FAB_REGIONS_QUOTA 0 0 2).standWrite 0 0x100
      (toBytes 8 (1 + 2 ^ 22 + 2 ^ 30) ++ toBytes 8 (5 * 2 ^ 23) ++ toBytes 8 0x140)).standWrite 0 0x200
        (toBytes 8 0 ++ toBytes 8 4096 ++ toBytes 8 (7 + 5 * 2 ^ 16))

theorem witness_FabricRing_descriptors : ((allotted.descriptor 0 0x100 32).bind (allotted.readConn 0)).any (fun x =>
      x.1 == 1 && x.2.keyId == 5 && (allotted.jobKey 0 x.2.keyId).isSome) = true ∧
    ((allotted.descriptor 0 0x200 32).bind (allotted.readRegion 0)).any (fun x =>
      x.1 == 0 && !x.2.1 && (allotted.jobKey 0 x.2.2.2.keyId).isSome) = true ∧
    allotted.regionsUsed 0 < allotted.fld Fld.FAB_REGIONS_QUOTA 0 := by decide +kernel

/-- An operation that waits, and connections at and below their window, with their last PSN, and with a running timer. -/
theorem witness_Sending :
    let op : FabOp := .memReq 0 0 []
    let s (c : Conn) : State := { mapped with conns := [(1, c)], packs := [⟨0, 0, 1, 0, 0, []⟩] }
    let c := { conn0 .open_ with waiting := [op] }
    (s c).conn 1 = some c ∧ c.nextPsn < c.u + c.window ∧ c.nextPsn < 2 ^ 48 ∧
    (let d := { c with nextPsn := 4, out := [{ psn := 0, op := op }] }; d.u + d.window ≤ d.nextPsn) ∧
    (let d := { c with nextPsn := 2 ^ 48 }; d.nextPsn < d.u + d.window ∧ 2 ^ 48 ≤ d.nextPsn) ∧
    { c with timer := some 2048 }.timer = some 2048 ∧ c.timer = none ∧ c.state ≠ .closing ∧
    (s c).packs[0]? = some ⟨0, 0, 1, 0, 0, []⟩ ∧ (s c).packs[1]? = none ∧
    c.e ≤ 3 ∧ c.accepted.get? 3 = none := by decide +kernel

/-- A WRITE of 16 zero bytes at PSN 1 to region 3, under the key of 32 zero bytes: ciphertext and tag from OpenSSL's AES-256
and Python's hashlib. -/
def writePacket : FabFrame :=
  { frame with packet := [17, 0, 0, 1, 0, 1, 0, 1, 0, 0, 0, 5, 0, 0, 0, 1, 0, 0, 0, 0, 0, 0, 0, 3] ++ zeros 9 ++ [16] ++ zeros 6 ++
      [32, 149, 203, 201, 61, 212, 205, 158, 31, 183, 121, 210, 7, 160, 99, 172, 111, 195, 187, 71, 176, 253, 222, 247, 185, 155, 96,
       130, 244, 230, 145, 60] }

/-- Connection 1 OPEN on port 0 with PSN 0 accepted. -/
def receiving : State := { wired allotted with
  conns := [(1, { conn0 .open_ with e := 1 })], regions := [(3, ⟨0, 4096, .active, true, true, true, 0, 0, 0, 5, none⟩)] }

theorem witness_Receiving : (receiving.receive 0 1 writePacket).2.any (fun x => x.1 == 1 && x.2.2.1.psn == 1 && x.2.2.2 == zeros 16) = true ∧
    nearest 1 1 = 1 ∧ (receiving.regionCheck 0 0 5 3 0 0 16 false true false = 0) ∧
    (receiving.receive 0 1 frame).2 = none ∧ receiving.fabDone = [] := by decide +kernel

/-! Fabric memory, shaping and search -/

/-- A remote map entry of the upper half of the fabric addresses, and a member group. -/
def half : RemoteEntry := ⟨2 ^ 63, 16, false, true, true, true, 1, 0, 3, 0, 0⟩
def group0 : Group := { stand := 0, members := [(1, 0, false), (0, 0, true)], threshold := 1, timeoutUs := 5, block := 4096 }

theorem witness_FabricQueue : ∀ op ∈ [1, 4, 6], ((mapped.stand 0).fmm.fence = none) ∧
    (ringed mapped fmmRing (toBytes 32 op)).runFront .fmm 0 = some (0, toBytes 32 op) ∧
    ((ringed mapped fmmRing (toBytes 32 op)).runTake .fmm 0 0).groups = [] ∧
    ((mapped.updStand 0 (fun st => { st with fmm := { st.fmm with fence := some 0 } })).stand 0).fmm.fence.isSome = true ∧
    readRemote (toBytes 8 (2 ^ 63) ++ toBytes 8 (16 + 7 * 2 ^ 8) ++ zeros 16) = some { half with conn := 0, key := 0 } := by
  decide +kernel

/-- Search bank 3 of hub die 0 serves the remote map of stand 0, which holds the entry. -/
def translating : State :=
  let s := ((mapped.setFld Fld.ASR_BANK_CFG_KIND 0 3 kindRemote).setFld Fld.FMM_STATUS_MAP_ALLOTTED 0 0 4).updStand 0 (fun st =>
    { st with remoteMap := [(0, half)] })
  (s.tableInsert (remoteTable 0 0) (half.search 0 0)).getD s

theorem witness_FabricIssue : (translating.translate 0 0 (2 ^ 63)).2 = some half ∧ (translating.translate 0 0 0).2 = none ∧
    2 ^ 63 % 2 ^ (64 - half.len) + memSize 2 ≤ 2 ^ (64 - half.len) ∧ 2 ^ (64 - half.len) < (2 ^ 48 - 32) + memSize 2 ∧
    memKnown 3 0 0 = false ∧ ([(3, group0)] : SMap Group).find? (fun g => g.1 / 1024 == 0 && g.2.stand == 0 && g.2.block == 4096) =
      some (3, group0) ∧ group0.members[2]? = none ∧ group0.members[0]? = some (1, 0, false) ∧
    (0 < 32 ∧ 2 ^ 32 - 1 < 2 ^ 32) := by decide +kernel

theorem witness_NetworkTime : (wired live).flag Fld.FAB_PORT_STATUS_LINK_UP 15 = true ∧
    (wired live).fld Fld.SHP_TIME_CTRL_TIME_PORT 0 = 0 ∧ (wired live).fld Fld.SHP_TIME_CTRL_TIME_PORT 1 ≠ 15 % 8 ∧
    (wired live).flag Fld.SHP_TIME_CTRL_TRANSPORT 0 = false ∧
    ({ live with hubs := [(1, { good := 7, syncAt := some 50 })] } : State).timeState 1 ≠ 1 ∧
    ¬((({ live with hubs := [(1, { good := 7 })] } : State).hub 1).wasLocked = true ∧ live.timeState 1 = 0) ∧
    ((({ live with hubs := [(1, { good := 7 })] } : State).hub 1).good = 7) ∧
    (live.setFld Fld.SHP_TIME_STATUS_STATE 1 0 2).timeState 1 = 2 ∧ (live.setFld Fld.SHP_TIME_STATUS_STATE 1 0 1).timeState 1 = 1 := by
  decide +kernel

theorem witness_GateLists : writes .pf .GCL_CTRL 15 0 2 = true ∧ live.gateListOk 15 ⟨0, 1000, [32 * 2 ^ 32]⟩ = true ∧
    live.gateListOk 15 ⟨0, 999, [32 * 2 ^ 32]⟩ = false ∧
    ({ (live.setFld Fld.GCL_CTRL_ENABLE 15 0 1).setFld Fld.GCL_CTRL_OPER_LENGTH 15 0 2 with ports := [(15, { running := true })] } : State).gated 15 = true ∧
    (live.setFld Fld.GCL_HUB_CTRL_LENGTH 1 0 2).fld Fld.GCL_HUB_CTRL_ENTRY 1 + 1 < (live.setFld Fld.GCL_HUB_CTRL_LENGTH 1 0 2).fld Fld.GCL_HUB_CTRL_LENGTH 1 ∧
    (live.setFld Fld.GCL_HUB_CTRL_LENGTH 1 0 1).fld Fld.GCL_HUB_CTRL_LENGTH 1 ≤ (live.setFld Fld.GCL_HUB_CTRL_LENGTH 1 0 1).fld Fld.GCL_HUB_CTRL_ENTRY 1 + 1 ∧
    (live.setFld Fld.SHP_SAMPLE_RING_ENABLE 1 0 1).flag Fld.SHP_SAMPLE_RING_ENABLE 1 = true := by decide +kernel

/-- Arbiter 36 granted to requester 31, and frozen. -/
def owned : State := (live.setFld Fld.ARB_STATUS_GRANTED 36 0 1).setFld Fld.ARB_STATUS_OWNER 36 0 31

theorem witness_Arbiters : owned.flag Fld.ARB_STATUS_GRANTED 36 = true ∧ (2 ^ 31).testBit (owned.fld Fld.ARB_STATUS_OWNER 36) = true ∧
    live.nextGrant 0 (2 ^ 31 + 1) = some 0 ∧ ({ live with arbs := [(0, { last := some 0, masked := 2 })] } : State).nextGrant 0 (2 ^ 31 + 3) = some 31 ∧
    writes .pf .ARB_CTRL 36 0 (2 ^ 17 + 1) = true ∧ writes .pf .ARB_CTRL 36 0 (2 ^ 17) = true ∧
    (owned.setFld Fld.ARB_CTRL_BURST_LIMIT 36 0 1).fld Fld.ARB_CTRL_BURST_LIMIT 36 ≠ 0 ∧ (live.setFld Fld.ARB_CTRL_BURST_LIMIT 3 0 0).fld Fld.ARB_CTRL_BURST_LIMIT 3 = 0 ∧
    (owned.setFld Fld.ARB_STATUS_FROZEN 36 0 1).flag Fld.ARB_STATUS_FROZEN 36 = true ∧ owned.flag Fld.ARB_STATUS_DRAINED 36 = false := by
  decide +kernel

theorem witness_SearchCommands : winner true 5 [(0, ⟨5, 7, 1, 10⟩), (9, ⟨1, 1, 2, 11⟩)] = some (9, ⟨1, 1, 2, 11⟩) ∧
    winner false 5 [(0, ⟨5, 7, 1, 10⟩), (9, ⟨1, 1, 2, 11⟩)] = some (0, ⟨5, 7, 1, 10⟩) ∧ winner false 4 [(9, ⟨1, 1, 2, 11⟩)] = none ∧
    (live.setFld Fld.ARB_STATUS_GRANTED 12 0 1).flag Fld.ARB_STATUS_GRANTED (11 + 1) = true ∧
    (translating.lookup (remoteTable 0 0) (2 ^ 63)).isSome = true ∧
    ((live.setFld Fld.ASR_CMD_RING_SIZE_LOG2 1 0 1).setFld Fld.ASR_CMD_TAIL_INDEX 1 0 1).fld Fld.ASR_CMD_TAIL_INDEX 1 % 2 ^ 1 = 1 ∧
    live.hostReach .pf = true ∧ le (toBytes 32 3) 8 6 % 64 = 0 ∧ translating.search.length = 1 ∧ 0 < live.bankSlots 63 ∧
    (2 ≤ (live.setFld Fld.ASR_CTRL_HOLE_INTERVAL 0 0 32).fld Fld.ASR_CTRL_HOLE_INTERVAL 0 ∧
      256 - 253 < 256 / 32 / 2) := by decide +kernel

/-! Power, faults and start -/

/-- A start of matrix core 95 is requested in an empty window. -/
def requesting : State := (live.setFld Fld.PWR_VID_APPLIED 0 0 1).updPower (fun p => { p with rampW := 100, slewA := 1, waiting := [⟨false, .matrix 95, 0⟩], matrix := [(3, .ballast)], vector := [(82943, .ballast)], sealed := [(0, { starting := [1] }), (1, { stopping := [2] })] })

theorem witness_PowerGovernor : requesting.admits ⟨false, .matrix 95, 0⟩ = true ∧ live.power.considered.find? live.admits = none ∧
    requesting.power.considered.find? requesting.admits = some ⟨false, .matrix 95, 0⟩ ∧ requesting.power.matrix.get? 3 = some .ballast ∧
    requesting.patterned 3 = false ∧ requesting.patterned 1 = true ∧ requesting.power.vector.get? 82943 = some .ballast ∧
    requesting.patterned (82943 / 864) = false ∧ requesting.power.sealed.get? 0 = some { starting := [1] } ∧
    requesting.power.sealed.get? 1 = some { stopping := [2] } ∧ requesting.power.sealed.get? 2 = none ∧
    requesting.flag Fld.PWR_VID_APPLIED = true := by decide +kernel

/-- Heartwood runs. -/
def heart : State := live.setFld Fld.HWD_STATUS_STATE 0 0 1

theorem witness_PowerGovernor_samples : heart.heartRuns = true ∧ live.heartRuns = false ∧
    (let r := (List.range 8).map (fun d => ([[112]].getD d []).take (sensorsOf d));
      r.zipIdx.flatMap (fun x => (x.1.zipIdx.filter (fun y => decide (112 ≤ y.1))).map (fun y => 32 * x.2 + y.2)) = [0]) ∧
    ((heart.showRails [(900, 1)]).countBallast).phase = .running ∧
    ((heart.showRails [(900, 1)]).countBallast).fld Fld.PWR_STATUS_STATE = 0 ∧
    ((heart.showRails [(900, 1)]).countBallast).fld Fld.THM_STATUS_MAX_COMPUTE_C < 106 := by decide +kernel

theorem witness_UnitFaults : (heart.fld Fld.EVR_STEWARD_OUT_OUT).testBit 63 = false ∧
    ({ heart with recorder := { returning := some (2, 63) } } : State).recorder.returning = some (2, 63) ∧
    heart.sequencersOut.testBit 23 = false ∧ heart.allStands.find? (fun n => heart.layout Fld.GLB_STAND_SEQUENCER n == 0) = some 0 ∧
    writes .pf .EVR_RETURN_CMD 0 0 (2 ^ 16 + 6) = true ∧ writes .pf .EVR_RETURN_CMD 0 0 0 = true ∧
    ({ heart with sequencersOut := 2 ^ 23 } : State).unitOut 6 23 = true ∧ heart.unitOut 6 23 = false ∧
    3 < linkModules 9 ∧ (heart.moduleFaults 9 3) = (false, false) ∧
    ({ heart with modules := [(16 * 9 + 3, (true, false))] } : State).moduleFaults 9 3 = (true, false) ∧
    (({ heart with modules := [(147, (true, true))] } : State).showLink 9).linkWorks 9 = true ∧
    (({ heart with modules := (List.range 4).map (fun m => (144 + m, (true, true))) } : State).showLink 9).linkWorks 9 = false ∧
    heart.bank Fld.ASR_BANK_CFG_IN_SERVICE 63 = 1 := by decide +kernel

/-- Both firmware slots without a commit record. -/
def unfirm : State := (live.flashWrite (firmwareRange 0) (firmwareRange 0).commitAt (zeros 64)).flashWrite (firmwareRange 1)
  (firmwareRange 1).commitAt (zeros 64)

theorem witness_PackageResets : live.pins.pwrok = true ∧ State.reset.pins.pwrok = false ∧ live.pins.rstN = true ∧ live.pins.perstN = true ∧
    writes .pf .RST_CTRL 0 0 0x1A5 = true ∧ bits 0x1A5 0 8 = 0xA5 ∧ bit 0x1A5 8 = true ∧
    ({ live with phase := .tapHeld } : State).phase = .tapHeld ∧ (live.setFld Fld.CLK_STATUS_LOCKED 0 0 1).flag Fld.CLK_STATUS_LOCKED = true ∧
    unfirm.firmwareOk unfirm.fuses.active = none ∧ unfirm.firmwareOk (1 - unfirm.fuses.active) = none := by decide +kernel

theorem witness_Tests : ({ requesting with phase := .starting 7 } : State).flag Fld.PWR_VID_APPLIED = true ∧
    writes .pf .RST_TEST_CTRL 0 0 (2 ^ 28 + 2 ^ 24 + 1) = true ∧ writes .pf .RST_TEST_CTRL 0 0 0 = true ∧
    live.fld Fld.RST_TEST_STATUS_STATE = 0 ∧ (live.setFld Fld.RST_GROVE_STATUS_UNDER_TEST 0 0 (2 ^ 23)).underTest.testBit 23 = true ∧
    ((live.setFld Fld.RST_GROVE_STATUS_UNDER_TEST 0 0 (2 ^ 23)).testEnd 23 0).groveStand 23 = none ∧ live.calDue.get? 0 = none ∧
    ({ ((live.setFld Fld.GCL_CTRL_ENABLE 15 0 1).setFld Fld.GCL_CTRL_OPER_LENGTH 15 0 1).setReg .GCL_OPER_ENTRY 15 0 (2 ^ 63 + 2 ^ 8) with
      ports := [(15, { running := true })] } : State).calFits 0 15 = true := by decide +kernel

/-- Stand 0 in a stage. -/
def staged (x : LifeStage) : State := live.updStand 0 (fun st => { st with life := { st.life with stage := x } })

theorem witness_StandResets : writes .pf .RST_STAND_CMD 0 0 (2 ^ 5) = true ∧ live.replacing 0 = false ∧ live.standValid 23 = false ∧
    ({ live with image := { replace := some ⟨0, 0, 0, none⟩ } } : State).replacing 0 = true ∧
    ((staged .draining).stand 0).life.stage = .draining ∧ ((staged .reporting).stand 0).life.stage = .reporting ∧
    ((staged .erasing).stand 0).life.stage = .erasing ∧ ((staged .zeroing).stand 0).life.stage = .zeroing ∧
    (live.setFld Fld.GLB_HDM_STATUS_ZEROING 0 0 1).flag Fld.GLB_HDM_STATUS_ZEROING = true ∧ live.fnExists (.vf 0) = true ∧
    live.flag Fld.GLB_LINK_STATUS_LINK_UP = true := by decide +kernel

/-! Trust, image and host -/

/-- Heartwood takes commands; the data area of mailbox `m` holds OP and LENGTH. -/
def boxed (m op len : Nat) : State := (heart.setReg .HWD_MB_DATA m 0 (op + len * 2 ^ 16)).setReg .HWD_MB_DATA m 1 5

/-- A command with GO that Heartwood takes, with LENGTH just what it asks for. -/
theorem witness_Commanded (f : Fn) (m op len : Nat) (use : BoxUse) (h : (f, m, op, len, use) ∈ [(.vf 0, 0, 1, 33, BoxUse.all),
    (.pf, 24, 10, 4, .all), (.vf 0, 0, 5, 1680, .stand), (.vf 0, 0, 6, 2, .stand), (.pf, 24, 0x10, 60, .pf), (.pf, 24, 0x13, 0, .pf)]) :
    ∃ t u, Commanded (boxed m op len) t u f m 1 op len use := by
  refine ⟨((boxed m op len).writeRow f .HWD_MB_CTRL m 0 [] 1).getD live, _, ?_, ?_, ?_, ?_, ?_, rfl, ?_, ?_, ?_⟩ <;>
    revert h <;> simp only [List.mem_cons, List.not_mem_nil, or_false, Prod.mk.injEq] <;>
    rintro (⟨rfl, rfl, rfl, rfl, rfl⟩ | ⟨rfl, rfl, rfl, rfl, rfl⟩ | ⟨rfl, rfl, rfl, rfl, rfl⟩ | ⟨rfl, rfl, rfl, rfl, rfl⟩ |
      ⟨rfl, rfl, rfl, rfl, rfl⟩ | ⟨rfl, rfl, rfl, rfl, rfl⟩) <;> decide +kernel

theorem witness_HeartAnswers : writes (.vf 0) .HWD_MB_CTRL 0 0 0 = true ∧ writes .pf .HWD_MB_CTRL 24 0 1 = true ∧
    (heart.setFld Fld.HWD_MB_CTRL_BUSY 0 0 1).flag Fld.HWD_MB_CTRL_BUSY 0 = true ∧ BoxUse.stand.allows 24 = false ∧
    BoxUse.pf.allows 23 = false ∧ bits ((boxed 0 1 32).boxWord (heartBox 0)) 16 16 < 33 ∧
    (heart.setFld Fld.HWD_STATUS_STATE 0 0 2).fld Fld.HWD_STATUS_STATE = 2 ∧ le ((boxed 0 10 4).boxBytes (heartBox 0) 8 4) 0 4 = 5 := by
  decide +kernel

theorem witness_HeartState : (live.stand 0).cond = .running ∧ live.fuses.owner = none ∧ live.fuses.owners.length < 8 ∧
    ({ live with fuses := { owners := [zeros 32] } } : State).fuses.owner = some 0 ∧
    ({ live with fuses := { owners := List.replicate 8 (zeros 32), revoked := 255 } } : State).fuses.owner = none ∧
    ({ live with fuses := { staged := some 1 } } : State).fuses.staged = some (1 - live.fuses.active) ∧ live.fuses.staged = none ∧
    peerClean (zeros 32) = true ∧ (((allotted.stand 0).jobKeys.get? 5).any (fun j => j.key.isSome)) = true ∧
    live.standLogFull 0 = false := by decide +kernel

/-- A join of KEY_ID 5 on port 0. -/
def joining (tries : Nat) : State := heart.updStand 0 (fun st => { st with join := some ⟨5, 0, [], [], 0, tries⟩ })

theorem witness_HeartEvents : ((joining 3).stand 0).join = some ⟨5, 0, [], [], 0, 3⟩ ∧ ((joining 4).stand 0).join = some ⟨5, 0, [], [], 0, 4⟩ ∧
    (heart.stand 0).join = none ∧ (heart.heartReceive 0 frame 1656).2 = none ∧
    (let s := wired heart; (s.heartReceive 0 { frame with packet := (joinHeader 1720).bytes ++ zeros 1720 ++ zeros 16 } 1720).2.isSome) = true ∧
    (({ heart with heart := { relaySent := 4, relayLast := 3 } } : State).heart.relayLast < 4) ∧ heart.fld Fld.HWD_STATUS_STATE ≠ 2 := by
  decide +kernel

/-- The configuration mailbox holds OP, LENGTH and TARGET. -/
def configured (op k : Nat) : State := ((live.setReg .CFG_MB_DATA 0 0 (op + 24 * 2 ^ 16)).setReg .CFG_MB_DATA 0 1 k)

theorem witness_ImageCommands : ∀ op ∈ [1, 2, 3], ∀ k ∈ [0, 16, 63], ((configured op k).writeRow .pf .CFG_MB_CTRL 0 0 [] 1).any (fun t =>
      let u := t.setFld Fld.CFG_MB_CTRL_BUSY 0 0 1
      !t.flag Fld.CFG_MB_CTRL_BUSY && bits (t.boxWord cfgBox) 0 8 == op && bits (t.boxWord cfgBox) 16 16 == 24 &&
        (targetRange (le (u.boxBytes cfgBox 8 1) 0 1)).isSome && u.image.active != some k && u.image.sections.isEmpty) = true ∧
    targetRange 15 = none ∧ targetRange 64 = none := by decide +kernel

theorem witness_HostLink : live.phase = .running ∧ live.pins.perstN = true ∧ live.flag Fld.GLB_LINK_STATUS_LINK_UP = true ∧
    State.reset.flag Fld.GLB_LINK_STATUS_LINK_UP = false ∧ 4 < (live.setFld Fld.GLB_LINK_STATUS_WIDTH 0 0 16).fld Fld.GLB_LINK_STATUS_WIDTH ∧
    live.fld Fld.GLB_LINK_STATUS_WIDTH ≤ 4 ∧ live.fnExists (.vf 23) = true ∧ live.host.session = false ∧
    ({ live with host := { live.host with session := true } } : State).host.session = true ∧
    (live.setFld Fld.GLB_LINK_STATUS_IDE_IO 0 0 1).flag Fld.GLB_LINK_STATUS_IDE_IO = true ∧ State.reset.host.vfEnable = false := by
  decide +kernel

/-- A copy ring of two with an entry in it, and the queue of doorbell 15 enabled with 16 entries. -/
def copying : State := ((((mapped.setFld Fld.QW_COPY_RING_ENABLE 0 0 1).setFld Fld.QW_COPY_RING_SIZE_LOG2 0 0 1).setFld Fld.QW_COPY_TAIL_INDEX 0 0
  1).setFld Fld.SCH_SQ_BASE_ENABLE 0 15 1).setFld Fld.SCH_SQ_BASE_SIZE_LOG2 0 15 4

theorem witness_HostWindows : copying.windowOpen 0 = true ∧ copying.windowOpen 1 = false ∧ copying.flag Fld.SCH_SQ_BASE_ENABLE 0 15 = true ∧
    copying.flag Fld.SCH_SQ_BASE_TAIL_SOURCE 0 15 = false ∧ 15 < 2 ^ copying.fld Fld.SCH_SQ_BASE_SIZE_LOG2 0 15 ∧
    2 ^ copying.fld Fld.SCH_SQ_BASE_SIZE_LOG2 0 15 ≤ 16 ∧ apertureAccess 0x8000 64 = true ∧ apertureAccess 0xFFF8 8 = true ∧
    apertureAccess 0x10000 8 = false ∧ copying.writableRange 0 (copying.apertureAddr 0 0x8000) 64 = true ∧ copying.copyReady 0 = true ∧
    mapped.copyReady 0 = false ∧ copying.copyBad 0 (toBytes 4 1 ++ toBytes 4 64 ++ zeros 56) = false ∧
    copying.copyBad 0 (toBytes 4 1 ++ toBytes 4 63 ++ zeros 56) = true ∧ copying.writableRange 0 (16 * 65536) 64 = false ∧
    (copying.setFld Fld.GLB_HDM_STATUS_BACKED 0 0 1).hdmKey (36 * 2 ^ 30 - 1) ≠ none ∧
    (copying.setFld Fld.GLB_HDM_STATUS_BACKED 0 0 1).hdmKey (36 * 2 ^ 30) = none := by decide +kernel

theorem witness_Management : live.mgmt.i3cAddr = none ∧ live.endpoint = true ∧ State.reset.endpoint = false ∧
    ({ live with phase := .rom } : State).endpoint = true ∧
    ({ live with mgmt := { i3cAddr := some 8 } } : State).mgmt.i3cAddr.isSome = true ∧ live.fld Fld.HWD_STATUS_STATE ≠ 2 := by decide +kernel

theorem witness_BoundaryScan : ({ live with pins := { live.pins with rstN := false } } : State).pins.rstN = false ∧ live.pins.rstN = true ∧
    ({ live with phase := .held, mgmt := { lands := .boundary } } : State).mgmt.lands ≠ .functional ∧
    ({ live with phase := .tapHeld } : State).phase = .tapHeld := by decide +kernel

/-! Single steps (the spec's rule or a hand calculation gives each result) -/

/-- R446: a value outside the stated range leaves the register. -/
theorem test_register_range : NextWith (exec (.registerWrite .pf (Reg.ARB_CTRL.addr 0 0) Reg.ARB_CTRL.bytes 0) live)
    (fun t => t.fld Fld.ARB_CTRL_BURST_LIMIT = 64) := ⟨_, rfl, by decide +kernel⟩

/-- Table 4.3: 3 + 4 in every INT32 lane. -/
theorem test_iadd : NextWith (exec (.vIadd 0 { dst := 3, src1 := 1, src2 := 2, type := 2 })
      (runsTask { task0 with v := [(1, 3), (2, 4)] }))
    (fun t => (t.task 0).any (fun u => element (u.vreg 3) 32 0 == 7 && element (u.vreg 3) 32 15 == 0 && u.pc == 1) = true) :=
  ⟨_, rfl, by decide +kernel⟩

/-- R431: EXTEST with RST_N high acts as BYPASS, and bit 7 of the next capture reads 1. -/
theorem test_extest_refused : NextWith (exec .extest live) (fun t => t.mgmt.tapInstr = 0xFF ∧
    NextWith (exec .idcode t) (fun u => u.mgmt.tapCapture = 0x81)) := ⟨_, rfl, by decide +kernel, _, rfl, by decide +kernel⟩

/-- R15: the last working module of a four-module link fails and takes the link down. -/
theorem test_link_down : NextWith (exec (.dlinkLaneFault 9 3 true)
      { heart with modules := [(144, (true, true)), (145, (true, true)), (146, (true, true)), (147, (true, false))] })
    (fun t => t.linkWorks 9 = false) := ⟨_, rfl, by decide +kernel⟩

end Sys2Proof.Tests
end

section
/-! Proofs: register accesses through a function (00_scope.md R5, R7, R445, R446). -/

namespace Sys2Proof.Machine

open Sys2Proof

/-! The table of fields -/

/-- Two fields share no bit. -/
def Field.Apart (f g : Field) : Prop := f.lo + f.w ≤ g.lo ∨ g.lo + g.w ≤ f.lo

/-- The fields of a register belong to it and lie within 64 bits. -/
theorem Reg.fields_place (r : Reg) : ∀ f ∈ r.fields, f.reg = r ∧ f.lo + f.w ≤ 64 := by
  cases r <;> decide

/-- The fields of a register are listed from the lowest bit up. -/
theorem Reg.fields_rise (r : Reg) : r.fields.Pairwise (fun f g => f.lo + f.w ≤ g.lo) := by
  cases r <;> decide

theorem Reg.fields_apart (r : Reg) : r.fields.Pairwise Field.Apart := r.fields_rise.imp Or.inl

/-- Two different members of a list of fields that share no bit pairwise share no bit. -/
theorem Field.apart_of_mem {l : List Field} (hl : l.Pairwise Field.Apart) {f g : Field} (hf : f ∈ l) (hg : g ∈ l)
    (h : f ≠ g) : f.Apart g := by
  induction hl with
  | nil => cases hf
  | cons ha _ ih =>
    cases hf with
    | head =>
      cases hg with
      | head => exact absurd rfl h
      | tail _ hg => exact ha g hg
    | tail _ hf =>
      cases hg with
      | head => exact (ha f hf).symm
      | tail _ hg => exact ih hf hg

/-- Two different fields of a register share no bit. -/
theorem Reg.apart_of_ne {r : Reg} {f g : Field} (hf : f ∈ r.fields) (hg : g ∈ r.fields) (h : f ≠ g) : f.Apart g :=
  Field.apart_of_mem r.fields_apart hf hg h

/-! Bits under writes of several fields -/

theorem bits_setBits_apart {f g : Field} (h : f.Apart g) (x v : Nat) :
    bits (setBits x f.lo f.w v) g.lo g.w = bits x g.lo g.w :=
  h.elim bits_setBits_above bits_setBits_below

/-- A field apart from every field that is set keeps its value. -/
theorem bits_foldl_setBits_apart {l : List Field} {g : Field} (h : ∀ f ∈ l, f.Apart g) (val : Field → Nat) (x : Nat) :
    bits (l.foldl (fun w f => setBits w f.lo f.w (val f)) x) g.lo g.w = bits x g.lo g.w := by
  induction l generalizing x with
  | nil => rfl
  | cons a l ih =>
    obtain ⟨ha, hl⟩ := List.forall_mem_cons.1 h
    rw [List.foldl_cons, ih hl, bits_setBits_apart ha]

/-- Of fields that share no bit, each reads as the value it was set to, cut to its width. -/
theorem bits_foldl_setBits_mem {l : List Field} (hl : l.Pairwise Field.Apart) (val : Field → Nat) (x : Nat) {g : Field}
    (hg : g ∈ l) : bits (l.foldl (fun w f => setBits w f.lo f.w (val f)) x) g.lo g.w = val g % 2 ^ g.w := by
  induction l generalizing x with
  | nil => cases hg
  | cons a l ih =>
    obtain ⟨ha, hl⟩ := List.pairwise_cons.1 hl
    rw [List.foldl_cons]
    cases hg with
    | head =>
      have hsym : ∀ f ∈ l, f.Apart g := fun f hf => (ha f hf).symm
      rw [bits_foldl_setBits_apart hsym, bits_setBits_self]
    | tail _ hg => exact ih hl _ hg

/-! What a write makes of a register (R5) -/

/-- The value of a written field fits the field. -/
theorem Field.written_lt (f : Field) (old v : Nat) : f.written old v < 2 ^ f.w := by
  have ho := bits_lt old f.lo f.w
  have hv := bits_lt v f.lo f.w
  cases h : f.acc <;> simp only [Field.written, h]
  case rw => exact hv
  case w1c => exact Nat.lt_of_le_of_lt Nat.and_le_left ho
  case w1s => exact Nat.or_lt_two_pow ho hv
  case ro | wo | rc => exact ho

/-- A field that is not kept holds after a write what its access type makes of it. -/
theorem Reg.bits_written {r : Reg} {keep : List Field} {f : Field} (hf : f ∈ r.fields) (hk : keep.contains f = false)
    (old v : Nat) : bits (r.written keep old v) f.lo f.w = f.written old v := by
  have h := bits_foldl_setBits_mem r.fields_apart
    (fun f => if keep.contains f then bits old f.lo f.w else f.written old v) old hf
  simp only [hk, Bool.false_eq_true, if_false, Nat.mod_eq_of_lt (f.written_lt old v)] at h
  exact h

/-! Register addresses -/

/-- Registers spaced alike from different bases never share an offset. -/
theorem Reg.addr_ne {r x : Reg} (h : x.info.stride = r.info.stride ∧ x.info.sub = r.info.sub ∧ x.info.base ≠ r.info.base)
    (i j : Nat) : x.addr i j ≠ r.addr i j := by
  obtain ⟨hstride, hsub, hbase⟩ := h
  unfold Reg.addr
  rw [hstride, hsub]
  omega

/-! Writes through a function (R7, R446) -/

theorem State.writeBy_full {s : State} {f : Fn} {r : Reg} {i j : Nat} (h : s.right f r i j = .full)
    (hb : s.areaBusy r i = false) (hp : r ≠ .GLB_IDE_PSK) (keep : List Field) (v : Nat) :
    s.writeBy f r i j keep v = if r.writeAdmits v then s.setReg r i j (r.written keep (s.reg r i j) v) else s := by
  simp only [State.writeBy, h, hb, Bool.false_or, if_neg hp]
  cases r.writeAdmits v <;> rfl

theorem State.writeBy_clear {s : State} {f : Fn} {r : Reg} {i j : Nat} (h : s.right f r i j = .clear) (keep : List Field)
    (v : Nat) : s.writeBy f r i j keep v = s.setReg r i j (r.cleared (s.reg r i j) v) := by
  simp only [State.writeBy, h]

theorem State.writeBy_none {s : State} {f : Fn} {r : Reg} {i j : Nat} (h : s.right f r i j = .none) (keep : List Field)
    (v : Nat) : s.writeBy f r i j keep v = s := by
  simp only [State.writeBy, h]

/-- A write through a function reaches no register at another offset. -/
theorem State.reg_writeBy_ne {s : State} {f : Fn} {r x : Reg} {i j i' j' : Nat} (h : x.addr i' j' ≠ r.addr i j)
    (keep : List Field) (v : Nat) : (s.writeBy f r i j keep v).reg x i' j' = s.reg x i' j' := by
  cases hr : s.right f r i j <;> simp only [State.writeBy, hr]
  case full =>
    split
    · rfl
    · split
      · split
        · rfl
        · exact State.reg_setReg_ne h
      · exact State.reg_setReg_ne h
  case clear => exact State.reg_setReg_ne h

/-- Only the data areas of the mailboxes are ever out of reach. -/
theorem State.areaBusy_eq_false {r : Reg} (h : r ≠ .HWD_MB_DATA) (g : r ≠ .CFG_MB_DATA) (s : State) (i : Nat) :
    s.areaBusy r i = false := by
  simp only [State.areaBusy, beq_eq_false_iff_ne.2 h, beq_eq_false_iff_ne.2 g, Bool.false_and, Bool.or_self]

theorem State.writeRow_full {s : State} {f : Fn} {r : Reg} {i j v : Nat} (h : s.right f r i j = .full)
    (hv : r.writeAdmits v = true) (own : List Field) :
    s.writeRow f r i j own v = some (s.writeBy f r i j (rowFields.filter (fun x => !own.contains x)) v) :=
  if_pos ⟨h, hv⟩

/-- A row that owns no field of the register writes it but for the fields with rows of their own. -/
theorem State.writeRow_full_nil {s : State} {f : Fn} {r : Reg} {i j v : Nat} (h : s.right f r i j = .full)
    (hv : r.writeAdmits v = true) : s.writeRow f r i j [] v = some (s.writeBy f r i j rowFields v) := by
  have hall : rowFields.filter (fun x => !([] : List Field).contains x) = rowFields :=
    List.filter_eq_self.2 (fun _ _ => rfl)
  rw [State.writeRow_full h hv [], hall]

/-! REGISTER_WRITE -/

theorem exec_registerWrite_bad {off bytes : Nat} (h : badAccess off bytes = true) (s : State) (f : Fn) (v : Nat) :
    exec (.registerWrite f off bytes v) s = .next s := by
  change execRegisterWrite f off bytes v s = _
  simp only [execRegisterWrite, h, if_true]

theorem exec_registerWrite_at {off bytes : Nat} {r : Reg} {i j : Nat} (hb : badAccess off bytes = false)
    (hr : regAt off bytes = some (r, i, j)) (hc : r ≠ .SHP_CBS) (s : State) (f : Fn) (v : Nat) :
    exec (.registerWrite f off bytes v) s =
      .next (((s.writeBy f r i j (keptFields r v) v).afterWrite s r i j).settleWrite r i j) := by
  change execRegisterWrite f off bytes v s = _
  simp only [execRegisterWrite, hb, hr, Bool.false_eq_true, if_false, if_neg hc]

/-- A write of a shaper first brings the port's credits up to now (R270). -/
theorem exec_registerWrite_shaper {off bytes : Nat} {p c : Nat} (hb : badAccess off bytes = false)
    (hr : regAt off bytes = some (.SHP_CBS, p, c)) (s : State) (f : Fn) (v : Nat) :
    exec (.registerWrite f off bytes v) s = .next (((s.portTick p).writeBy f .SHP_CBS p c (keptFields .SHP_CBS v) v).afterWrite
      (s.portTick p) .SHP_CBS p c) := by
  change execRegisterWrite f off bytes v s = _
  simp only [execRegisterWrite, hb, hr, Bool.false_eq_true, if_false, if_true, State.settleWrite]

/-- What a write brings about beside the register belongs to seven registers. -/
theorem State.settleWrite_afterWrite_other {r : Reg}
    (h : r ∉ [Reg.SHP_CBS, .GCL_CTRL, .SCH_CQ_HEAD, .SCH_CQ_BASE, .SWY_CONFIG, .SWY_EVT_RING, .SWYP_EVT_RING])
    (s t : State) (i j : Nat) : (t.afterWrite s r i j).settleWrite r i j = t := by
  simp only [List.mem_cons, List.not_mem_nil, or_false, not_or] at h
  obtain ⟨hcbs, hgcl, hhead, hbase, hconfig, hevt, hpevt⟩ := h
  have hafter : t.afterWrite s r i j = t := by
    unfold State.afterWrite
    split
    · exact absurd rfl hcbs
    · exact absurd rfl hgcl
    · rfl
  rw [hafter]
  unfold State.settleWrite
  split
  · exact absurd rfl hhead
  · exact absurd rfl hbase
  · exact absurd rfl hconfig
  · exact absurd rfl hevt
  · exact absurd rfl hpevt
  · rfl

/-- Settles O7: an access that R7 turns away does nothing; otherwise the write is `State.writeBy` under the function's
right, and each field holds what its access type makes of it because the fields of a register share no bit. -/
theorem registerWrites : Obligations.RegisterWrites := by
  refine ⟨⟨fun s f off bytes v hb => exec_registerWrite_bad hb s f v, ?_, ?_, fun s t r i j hr =>
    State.settleWrite_afterWrite_other hr s t i j⟩, ?_⟩
  · intro s f off bytes v r i j hb hr hbusy hcbs hpsk
    have hexec := exec_registerWrite_at hb hr hcbs s f v
    refine ⟨fun hfull => ?_, fun hclear => ?_, fun hnone => ?_⟩
    · rw [hexec, State.writeBy_full hfull hbusy hpsk]
    · rw [hexec, State.writeBy_clear hclear]
    · rw [hexec, State.writeBy_none hnone]
  · intro s f v p c hb hr hfull hv
    rw [exec_registerWrite_shaper hb hr, State.writeBy_full hfull (State.areaBusy_eq_false (by decide) (by decide) _ _)
      (by decide), if_pos hv]
  · intro r keep old v f hf hk
    exact Reg.bits_written hf hk old v

/-! Clearing RC fields (R5) -/

/-- A loop that leaves a component of the state alone at every turn leaves it alone. -/
theorem State.foldl_keeps {α β : Type} {g : State → β} {f : State → α → State} (h : ∀ s x, g (f s x) = g s) (l : List α)
    (s : State) : g (l.foldl f s) = g s := by
  induction l generalizing s with
  | nil => rfl
  | cons a l ih => rw [List.foldl_cons, ih, h]

/-- A field apart from the one that is set keeps its value. -/
theorem State.fld_setFld_apart {f g : Field} (hr : f.reg = g.reg) (hg : g.lo + g.w ≤ 64) (h : f.Apart g) (s : State)
    (i j v : Nat) : (s.setFld f i j v).fld g i j = s.fld g i j := by
  unfold State.fld State.setFld
  rw [← hr, State.reg_setReg_self, bits_mod_word hg, bits_setBits_apart h]

/-- Fields of one register cleared one after another: the listed ones read 0, one apart from them is as it was. -/
theorem State.fld_foldl_clear {g : Field} (hg : g.lo + g.w ≤ 64) {l : List Field}
    (hl : ∀ f ∈ l, f ≠ g → f.reg = g.reg ∧ f.Apart g) (s : State) (i j : Nat) :
    (l.foldl (fun s f => s.setFld f i j 0) s).fld g i j = if g ∈ l then 0 else s.fld g i j := by
  induction l generalizing s with
  | nil => simp only [List.foldl_nil, List.not_mem_nil, if_false]
  | cons a l ih =>
    obtain ⟨ha, hl⟩ := List.forall_mem_cons.1 hl
    rw [List.foldl_cons, ih hl]
    by_cases e : a = g
    · subst e
      simp only [State.fld_setFld_self hg, Nat.zero_mod, ite_self, List.mem_cons, true_or, if_true]
    · obtain ⟨hreg, hapart⟩ := ha e
      simp only [State.fld_setFld_apart hreg hg hapart, List.mem_cons, Ne.symm e, false_or]

/-- A read leaves the RC fields of a register 0 and the others as they were. -/
theorem State.fld_clearRc {r : Reg} {x : Field} (hx : x ∈ r.fields) (s : State) (i j : Nat) :
    (s.clearRc r i j).fld x i j = if x.acc = .rc then 0 else s.fld x i j := by
  obtain ⟨hxr, hx64⟩ := r.fields_place x hx
  have hothers : ∀ f ∈ r.fields.filter (·.acc = .rc), f ≠ x → f.reg = x.reg ∧ f.Apart x := by
    intro f hf hne
    have hf := (List.mem_filter.1 hf).1
    exact ⟨(r.fields_place f hf).1.trans hxr.symm, Reg.apart_of_ne hf hx hne⟩
  rw [State.clearRc, State.fld_foldl_clear hx64 hothers]
  simp only [List.mem_filter, hx, decide_eq_true_eq, true_and]

@[simp] theorem State.clearRc_mem (s : State) (r : Reg) (i j : Nat) : (s.clearRc r i j).mem = s.mem :=
  State.foldl_keeps (g := State.mem) (fun s f => s.setFld_mem f i j 0) _ s

@[simp] theorem State.clearRc_stands (s : State) (r : Reg) (i j : Nat) : (s.clearRc r i j).stands = s.stands :=
  State.foldl_keeps (g := State.stands) (fun s f => s.setFld_stands f i j 0) _ s

/-! RC_REGISTER_READ -/

theorem exec_rcRegisterRead_bad {off bytes : Nat} (h : badAccess off bytes = true) (s : State) (f : Fn) :
    exec (.rcRegisterRead f off bytes) s = .next (s.complete (2 ^ (8 * bytes) - 1) false) := by
  change execRcRegisterRead f off bytes s = _
  simp only [execRcRegisterRead, h, if_true]

theorem exec_rcRegisterRead_reserved {off bytes : Nat} (hb : badAccess off bytes = false) (hr : regAt off bytes = none)
    (s : State) (f : Fn) : exec (.rcRegisterRead f off bytes) s = .next (s.complete 0 false) := by
  change execRcRegisterRead f off bytes s = _
  simp only [execRcRegisterRead, hb, hr, Bool.false_eq_true, if_false]

theorem exec_rcRegisterRead_full {off bytes : Nat} {r : Reg} {i j : Nat} {s : State} {f : Fn}
    (hb : badAccess off bytes = false) (hr : regAt off bytes = some (r, i, j)) (hfull : s.right f r i j = .full)
    (hbusy : s.areaBusy r i = false) :
    exec (.rcRegisterRead f off bytes) s = .next ((s.clearRc r i j).complete (s.readValue r i j) false) := by
  change execRcRegisterRead f off bytes s = _
  simp only [execRcRegisterRead, State.readBy, hb, hr, hfull, hbusy, Bool.false_eq_true, if_false]

/-- A read through the full right: the completion carries the value before it, RC fields are 0 after it. -/
theorem nextWith_rcRegisterRead {off bytes : Nat} {r : Reg} {i j : Nat} {s : State} {f : Fn}
    (hb : badAccess off bytes = false) (hr : regAt off bytes = some (r, i, j)) (hfull : s.right f r i j = .full)
    (hbusy : s.areaBusy r i = false) :
    NextWith (exec (.rcRegisterRead f off bytes) s) (fun t => t.host.readData = s.readValue r i j ∧
      t.host.readPoisoned = false ∧
      (∀ x ∈ r.fields, bits (t.reg r i j) x.lo x.w = if x.acc = .rc then 0 else bits (s.reg r i j) x.lo x.w) ∧
      t.mem = s.mem ∧ t.stands = s.stands) := by
  refine ⟨_, exec_rcRegisterRead_full hb hr hfull hbusy, rfl, rfl, fun x hx => ?_, s.clearRc_mem r i j,
    s.clearRc_stands r i j⟩
  have h := State.fld_clearRc hx s i j
  simp only [State.fld, (r.fields_place x hx).1] at h
  exact h

/-! Rings that restart (R445) -/

/-- HEAD and TAIL stand beside their ring register, spaced as it is. -/
theorem ringIndices_place : ∀ r ∈ ringRegs, ∀ x ∈ ringIndices r,
    x.info.stride = r.info.stride ∧ x.info.sub = r.info.sub ∧ x.info.base ≠ r.info.base := by
  decide

theorem Reg.areaBusy_ring {r : Reg} (h : r ∈ ringRegs) (s : State) (i : Nat) : s.areaBusy r i = false :=
  State.areaBusy_eq_false (fun e => absurd (e ▸ h) (by decide)) (fun e => absurd (e ▸ h) (by decide)) s i

theorem Reg.ring_ne_psk {r : Reg} (h : r ∈ ringRegs) : r ≠ .GLB_IDE_PSK := fun e => absurd (e ▸ h) (by decide)

/-- Registers set to 0 one after another: those at a listed offset are 0, the others as they were. -/
theorem State.reg_foldl_zero (l : List Reg) (s : State) (i j : Nat) (x : Reg) :
    (l.foldl (fun s y => s.setReg y i j 0) s).reg x i j =
      if ∃ y ∈ l, x.addr i j = y.addr i j then 0 else s.reg x i j := by
  induction l generalizing s with
  | nil => simp only [List.foldl_nil, List.not_mem_nil, false_and, exists_false, if_false]
  | cons a l ih =>
    rw [List.foldl_cons, ih, State.reg_setReg]
    by_cases h : x.addr i j = a.addr i j
    · simp only [h, if_true, Nat.zero_mod, ite_self, List.mem_cons, exists_eq_or_imp, true_or]
    · simp only [h, if_false, List.mem_cons, exists_eq_or_imp, false_or]

/-- What a restart makes of the registers: HEAD and TAIL, and the sampler's own TAIL, are 0. -/
def State.indicesZeroed (s : State) (r : Reg) (i j : Nat) : State :=
  let t := (ringIndices r).foldl (fun s y => s.setReg y i j 0) s
  if r = .SHP_SAMPLE_RING then t.setFld Fld.SHP_SAMPLE_STATUS_TAIL i 0 0 else t

theorem State.restartRing_regs (s : State) (r : Reg) (i j : Nat) :
    (s.restartRing r i j).regs = (s.indicesZeroed r i j).regs := by
  simp only [State.restartRing, State.indicesZeroed]
  generalize (if r = .SHP_SAMPLE_RING then _ else _) = t
  split <;> rfl

theorem State.restartRing_mem (s : State) (r : Reg) (i j : Nat) : (s.restartRing r i j).mem = s.mem := by
  have hzeroed : (s.indicesZeroed r i j).mem = s.mem := by
    have hloop := State.foldl_keeps (g := State.mem) (fun s y => s.setReg_mem y i j 0) (ringIndices r) s
    unfold State.indicesZeroed
    split <;> exact hloop
  rw [← hzeroed]
  simp only [State.restartRing, State.indicesZeroed]
  generalize (if r = .SHP_SAMPLE_RING then _ else _) = t
  split <;> rfl

/-- Beside the sampler's own TAIL, a restart makes 0 of the registers at the offsets of HEAD and TAIL alone. -/
theorem State.reg_restartRing {r x : Reg} {i j : Nat}
    (h : r = .SHP_SAMPLE_RING → x.addr i j ≠ Reg.SHP_SAMPLE_STATUS.addr i 0) (s : State) :
    (s.restartRing r i j).reg x i j = if ∃ y ∈ ringIndices r, x.addr i j = y.addr i j then 0 else s.reg x i j := by
  have hzeroed : (s.indicesZeroed r i j).reg x i j =
      ((ringIndices r).foldl (fun s y => s.setReg y i j 0) s).reg x i j := by
    unfold State.indicesZeroed
    split
    · exact State.reg_setFld_ne (h ‹_›)
    · rfl
  rw [← State.reg_foldl_zero, ← hzeroed, State.reg, s.restartRing_regs r i j, State.reg]

/-- A restart puts HEAD and TAIL at 0. -/
theorem State.reg_restartRing_index {r x : Reg} (hx : x ∈ ringIndices r) (s : State) (i j : Nat) :
    (s.restartRing r i j).reg x i j = 0 := by
  have hsampler : r = .SHP_SAMPLE_RING → x.addr i j ≠ Reg.SHP_SAMPLE_STATUS.addr i 0 := by
    rintro rfl
    obtain rfl : x = .SHP_SAMPLE_HEAD := List.mem_singleton.1 hx
    simp only [Reg.addr, Reg.info]
    omega
  rw [State.reg_restartRing hsampler, if_pos ⟨x, hx, rfl⟩]

/-- A restart leaves the ring register itself. -/
theorem State.reg_restartRing_self {r : Reg} (hr : r ∈ ringRegs) (s : State) (i j : Nat) :
    (s.restartRing r i j).reg r i j = s.reg r i j := by
  have hsampler : r = .SHP_SAMPLE_RING → r.addr i j ≠ Reg.SHP_SAMPLE_STATUS.addr i 0 := by
    rintro rfl
    simp only [Reg.addr, Reg.info]
    omega
  have hindices : ¬ ∃ y ∈ ringIndices r, r.addr i j = y.addr i j := fun ⟨y, hy, e⟩ =>
    Reg.addr_ne (ringIndices_place r hr y hy) i j e.symm
  rw [State.reg_restartRing hsampler, if_neg hindices]

/-- The next slot written after a restart is of a lap with PHASE 1. -/
theorem State.ringPhase_restartRing (s : State) (r : Reg) (i j : Nat) :
    (s.restartRing r i j).ringPhase (r.addr i j) = 1 := by
  simp only [State.ringPhase, State.restartRing, SMap.get?_del, if_true, Option.getD_none]

/-! RING_REGISTER_WRITE -/

/-- A ring register written through the full right takes the value, restarts the ring where ADDR or SIZE_LOG2 is new, and
offers the ring to what waits for it. -/
theorem exec_ringRegisterWrite_full {off v : Nat} {r : Reg} {i j : Nat} {s : State} {f : Fn}
    (hoff : regAt off 8 = some (r, i, j)) (hr : r ∈ ringRegs) (hfull : s.right f r i j = .full)
    (hv : r.writeAdmits v = true) :
    exec (.ringRegisterWrite f off v) s = .next (
      (if bits (r.written rowFields (s.reg r i j) v) 0 53 = bits (s.reg r i j) 0 53 then
        s.setReg r i j (r.written rowFields (s.reg r i j) v)
      else (s.setReg r i j (r.written rowFields (s.reg r i j) v)).restartRing r i j).settleWrite r i j) := by
  have hcontains : ringRegs.contains r = true := List.contains_iff_mem.2 hr
  change execRingRegisterWrite f off v s = _
  simp only [execRingRegisterWrite, hoff, hcontains, Bool.not_true, Bool.false_eq_true, if_false,
    State.writeBy_full hfull (Reg.areaBusy_ring hr s i) (Reg.ring_ne_psk hr), hv, if_true, State.reg_setReg_self,
    bits_mod_word (show 0 + 53 ≤ 64 by decide)]

/-! SWY_EVT_HEAD_WRITE (R450) -/

theorem exec_swyEvtHeadWrite_stand {s : State} {f : Fn} {n : Nat} (hn : n < 24)
    (hfull : s.right f .SWY_EVT_HEAD n 0 = .full) (index : Nat) : exec (.swyEvtHeadWrite f n index) s =
      .next ((s.setFld Fld.SWY_EVT_HEAD_INDEX n 0 (index % 2 ^ 16)).swyFlush n) := by
  change execSwyEvtHeadWrite f n index s = _
  simp only [execSwyEvtHeadWrite, State.swyEvtHead, if_neg (Nat.ne_of_lt hn), hn, true_or, hfull, and_self, if_true]

theorem exec_swyEvtHeadWrite_package {s : State} {f : Fn} (hfull : s.right f .SWYP_EVT_HEAD 0 0 = .full) (index : Nat) :
    exec (.swyEvtHeadWrite f 24 index) s =
      .next ((s.setFld Fld.SWYP_EVT_HEAD_INDEX 0 0 (index % 2 ^ 16)).swyFlush 24) := by
  change execSwyEvtHeadWrite f 24 index s = _
  simp only [execSwyEvtHeadWrite, State.swyEvtHead, or_true, hfull, and_self, if_true]

/-! ACCT_SNAP (R184) -/

/-- The first `m` accounting snapshots of stand `n` set to the counters of `s`. -/
def State.snapCounters (s : State) (n m : Nat) (t : State) : State :=
  (List.range m).foldl (fun t i => t.setFld Fld.SCH_SNAP_COUNT n i (s.fld Fld.SCH_ACCT_COUNT n i)) t

theorem State.snapCounters_succ (s : State) (n m : Nat) (t : State) : s.snapCounters n (m + 1) t =
    (s.snapCounters n m t).setFld Fld.SCH_SNAP_COUNT n m (s.fld Fld.SCH_ACCT_COUNT n m) := by
  simp only [State.snapCounters, List.range_succ, List.foldl_append, List.foldl_cons, List.foldl_nil]

/-- Each snapshot taken holds its counter. -/
theorem State.fld_snapCounters_snap {i m : Nat} (h : i < m) (s : State) (n : Nat) (t : State) :
    (s.snapCounters n m t).fld Fld.SCH_SNAP_COUNT n i = s.fld Fld.SCH_ACCT_COUNT n i := by
  induction m with
  | zero => omega
  | succ m ih =>
    rw [State.snapCounters_succ]
    by_cases e : i = m
    · subst e
      rw [State.fld_setFld_self (by decide)]
      exact Nat.mod_eq_of_lt (bits_lt _ _ _)
    · have hne : Reg.SCH_SNAP.addr n i ≠ Reg.SCH_SNAP.addr n m := by
        simp only [Reg.addr, Reg.info]
        omega
      rw [State.fld_setFld_ne hne, ih (by omega)]

/-- The snapshots of a stand stand apart from its 17 counters. -/
theorem State.fld_snapCounters_acct {i : Nat} (h : i < 17) (s : State) (n m : Nat) (t : State) :
    (s.snapCounters n m t).fld Fld.SCH_ACCT_COUNT n i = t.fld Fld.SCH_ACCT_COUNT n i := by
  refine State.foldl_keeps (g := fun t => t.fld Fld.SCH_ACCT_COUNT n i) (fun t k => State.fld_setFld_ne ?_) _ t
  change Reg.SCH_ACCT.addr n i ≠ Reg.SCH_SNAP.addr n k
  simp only [Reg.addr, Reg.info]
  omega

theorem exec_acctSnap_full {s : State} {f : Fn} {n v : Nat} (hfull : s.right f .SCH_ACCT_SNAP n 0 = .full)
    (hv : Reg.SCH_ACCT_SNAP.writeAdmits v = true) (hsnap : v.testBit 0 = true) : exec (.acctSnap f n v) s =
      .next (s.snapCounters n 17 (s.writeBy f .SCH_ACCT_SNAP n 0 rowFields v)) := by
  change execAcctSnap f n v s = _
  simp only [execAcctSnap, State.writeRow_full_nil hfull hv, hsnap, if_true, State.snapCounters]

/-- SNAP 1 copies each of the 17 counters into its snapshot and leaves the counter. -/
theorem nextWith_acctSnap {s : State} {f : Fn} {n v i : Nat} (hfull : s.right f .SCH_ACCT_SNAP n 0 = .full)
    (hv : Reg.SCH_ACCT_SNAP.writeAdmits v = true) (hsnap : v.testBit 0 = true) (hi : i < 17) :
    NextWith (exec (.acctSnap f n v) s) (fun t => t.fld Fld.SCH_SNAP_COUNT n i = s.fld Fld.SCH_ACCT_COUNT n i ∧
      t.fld Fld.SCH_ACCT_COUNT n i = s.fld Fld.SCH_ACCT_COUNT n i) := by
  have hne : Reg.SCH_ACCT.addr n i ≠ Reg.SCH_ACCT_SNAP.addr n 0 := by
    simp only [Reg.addr, Reg.info]
    omega
  refine ⟨_, exec_acctSnap_full hfull hv hsnap, State.fld_snapCounters_snap hi s n _, ?_⟩
  rw [State.fld_snapCounters_acct hi]
  exact congrArg (bits · 0 64) (State.reg_writeBy_ne hne _ v)

/-! PWR_VID_APPLIED (R381) -/

theorem exec_pwrVidApplied_full {s : State} {f : Fn} {v : Nat} (hfull : s.right f .PWR_VID 0 0 = .full)
    (hset : bit v 10 = true) (hv : Reg.PWR_VID.writeAdmits v = true) : exec (.pwrVidApplied f v) s =
      .next (s.writeBy f .PWR_VID 0 0 rowFields v).applyVid := by
  change execPwrVidApplied f v s = _
  simp only [execPwrVidApplied, State.writeRow_full_nil hfull hv, hset, Bool.not_true, Bool.false_eq_true, if_false]

/-- Once applied, the voltage is marked as applied. -/
theorem State.flag_applyVid (s : State) : s.applyVid.flag Fld.PWR_VID_APPLIED = true := by
  rw [State.flag, State.applyVid, State.fld_setFld_self (by decide)]
  rfl

/-- Settles O8: a read clears the RC fields because the fields of a register share no bit; a restart touches HEAD and
TAIL alone because they stand apart from the ring register; snapshots and counters lie at different offsets. -/
theorem registerReads : Obligations.RegisterReads := by
  refine ⟨fun s f off bytes => ⟨fun hb => exec_rcRegisterRead_bad hb s f,
      fun hb hr => exec_rcRegisterRead_reserved hb hr s f,
      fun r i j hb hr hfull hbusy => nextWith_rcRegisterRead hb hr hfull hbusy⟩,
    ⟨fun s f off v r i j hoff hr hfull hv => exec_ringRegisterWrite_full hoff hr hfull hv,
      fun s r i j hr => ⟨fun x hx => State.reg_restartRing_index hx s i j, s.ringPhase_restartRing r i j,
        State.reg_restartRing_self hr s i j, s.restartRing_mem r i j⟩⟩,
    fun s f n index hn hfull => exec_swyEvtHeadWrite_stand hn hfull index,
    fun s f index hfull => exec_swyEvtHeadWrite_package hfull index,
    fun s f n v i hfull hv hsnap hi _ => nextWith_acctSnap hfull hv hsnap hi,
    fun s f v hfull hset hv => ⟨_, exec_pwrVidApplied_full hfull hset hv, State.flag_applyVid _⟩⟩

end Sys2Proof.Machine
end

section
/-! Proofs: error contexts and layer programs (03_matrix_cores.md R67-R81). -/

namespace Sys2Proof.Machine

open Sys2Proof

/-! Sticky errors and their context (R81) -/

/-- An error that finds its register at 0 writes its context. -/
theorem State.flagError_of_clear {s : State} {f : Field} {i : Nat} (h : s.reg f.reg i 0 = 0) (context : State → State) :
    s.flagError f i context = (context s).setFld f i 0 1 := by
  simp only [State.flagError, if_pos h]

/-- An error that finds a bit of its register set leaves the context. -/
theorem State.flagError_of_set {s : State} {f : Field} {i : Nat} (h : s.reg f.reg i 0 ≠ 0) (context : State → State) :
    s.flagError f i context = s.setFld f i 0 1 := by
  simp only [State.flagError, if_neg h]

/-- An error's bit is set, whatever the register held. -/
theorem State.fld_flagError {f : Field} (h : f.lo + f.w ≤ 64) (hw : 0 < f.w) (s : State) (i : Nat)
    (context : State → State) : (s.flagError f i context).fld f i = 1 :=
  (State.fld_setFld_self h).trans (Nat.one_mod_two_pow hw)

/-- MXC_ERROR and MXC_ERROR_INFO stand apart. -/
theorem mxcErrorInfo_addr_ne (c : Nat) : Reg.MXC_ERROR_INFO.addr c 0 ≠ Reg.MXC_ERROR.addr c 0 :=
  Reg.addr_ne (by decide) c 0

theorem mxcError_fields_width : ∀ f ∈ Reg.MXC_ERROR.fields, 0 < f.w := by decide

/-- A write of what MXC_ERROR holds clears every bit of it. -/
theorem mxcError_cleared_self : ∀ x < 16, Reg.MXC_ERROR.cleared x x = 0 := by decide

/-- An access of a register's own width at a multiple of it is not turned away. -/
theorem badAccess_eq_false {off bytes : Nat} {p : Reg × Nat × Nat} (hr : regAt off bytes = some p)
    (hw : bytes = 4 ∨ bytes = 8) (ha : off % bytes = 0) : badAccess off bytes = false := by
  unfold regAt at hr
  split at hr
  case h_2 => cases hr
  case h_1 r i j hfind =>
    split at hr
    case isFalse => cases hr
    case isTrue hbytes =>
      rcases hw with rfl | rfl <;> simp [badAccess, hfind, hbytes, ha]

/-- A write of what MXC_ERROR holds, through a right that clears its bits, leaves it 0 and touches nothing else. -/
theorem exec_registerWrite_mxcError {s : State} {f : Fn} {c : Nat} (hright : s.right f .MXC_ERROR c 0 = .clear)
    (hx : s.reg .MXC_ERROR c 0 < 16) (hreg : regAt (Reg.MXC_ERROR.addr c 0) 4 = some (.MXC_ERROR, c, 0)) :
    exec (.registerWrite f (Reg.MXC_ERROR.addr c 0) 4 (s.reg .MXC_ERROR c 0)) s = .next (s.setReg .MXC_ERROR c 0 0) := by
  have haligned : Reg.MXC_ERROR.addr c 0 % 4 = 0 := by
    simp only [Reg.addr, Reg.info]
    omega
  rw [exec_registerWrite_at (badAccess_eq_false hreg (.inl rfl) haligned) hreg (by decide),
    State.settleWrite_afterWrite_other (by decide), State.writeBy_clear hright, mxcError_cleared_self _ hx]

/-- Settles O59: an error writes its context only where MXC_ERROR reads 0, and a write of ones to the bits that are set
brings it back to 0 and leaves the context, which stands at an offset of its own. -/
theorem errorContext : Obligations.ErrorContext := by
  refine ⟨fun s c op wsd st f hf => ?_, fun s f c _ hright hx hreg => ?_⟩
  · obtain ⟨hfr, hf64⟩ := Reg.fields_place .MXC_ERROR f hf
    refine ⟨fun h => ?_, fun h => ?_, ?_⟩
    · rw [State.flagMxc, State.flagError_of_clear (hfr ▸ h), State.reg_setFld_ne (hfr ▸ mxcErrorInfo_addr_ne c),
        State.reg_setReg_self]
    · exact State.flagError_of_set (hfr ▸ h) _
    · exact State.fld_flagError hf64 (mxcError_fields_width f hf) s c _
  · refine ⟨_, exec_registerWrite_mxcError hright hx hreg, ?_, ?_, State.setReg_mem s _ c 0 0⟩
    · exact State.reg_setReg_self s _ c 0 0
    · exact State.reg_setReg_ne (mxcErrorInfo_addr_ne c)

/-! The start of an operation (R67) -/

/-- An operation may start just where its wait condition holds and every earlier operation of its class and every earlier
control operation has completed; for LAYER_MARK and END, every earlier operation. -/
theorem State.mayStart_iff {s : State} {n i : Nat} {st : Step} : s.mayStart n st i = true ↔
    waitHolds st (s.opBytes n st.model i) = true ∧ ∀ j, j < i → j ∉ st.done →
      opClass (s.opcode n st.model j) ≠ opClass (s.opcode n st.model i) ∧ opClass (s.opcode n st.model j) ≠ 3 ∧
      s.opcode n st.model i ≠ 5 ∧ s.opcode n st.model i ≠ 7 := by
  simp only [State.mayStart, Bool.and_eq_true, List.all_eq_true, List.mem_filter, List.mem_range, Bool.not_eq_true',
    bne_iff_ne, List.contains_eq_mem, decide_eq_false_iff_not, and_imp, and_assoc]

theorem Starts.mayStart {s : State} {n i op : Nat} {st : Step} (h : Starts s n i op st) : s.mayStart n st i = true :=
  State.mayStart_iff.2 ⟨h.wait, h.opcode ▸ h.order⟩

/-- An operation that may start is marked as started and has its effect. -/
theorem Starts.startOp {s : State} {n i op : Nat} {st : Step} (h : Starts s n i op st)
    (f : Step → Nat → List Byte → State → State) :
    s.startOp n (opClass op) op f = f st i (s.opBytes n st.model i) (s.begun n i) := by
  simp only [State.startOp, State.begun, h.running, h.next, h.opcode, h.mayStart, and_self, if_true]

/-- While the next operation of a class may not start, none of the class starts. -/
theorem State.startOp_held {s : State} {n cls op i : Nat} {st : Step} (hrun : s.running n = some st)
    (hnext : s.nextOp n st cls = some i) (hheld : s.opcode n st.model i = op → s.mayStart n st i ≠ true)
    (f : Step → Nat → List Byte → State → State) : s.startOp n cls op f = s := by
  simp only [State.startOp, hrun, hnext]
  exact if_neg fun ⟨hop, hmay⟩ => hheld hop hmay

/-- An operation whose wait condition does not hold, or with an operation before it that has not completed and is of its
class or a control operation, may not start. -/
theorem State.mayStart_held {s : State} {n i : Nat} {st : Step}
    (h : waitHolds st (s.opBytes n st.model i) = false ∨ ∃ j, j < i ∧ j ∉ st.done ∧
      (opClass (s.opcode n st.model j) = opClass (s.opcode n st.model i) ∨ opClass (s.opcode n st.model j) = 3)) :
    s.mayStart n st i ≠ true := by
  intro hmay
  obtain ⟨hwait, horder⟩ := State.mayStart_iff.1 hmay
  rcases h with hnowait | ⟨j, hj, hundone, hblocks⟩
  · exact absurd hwait (by rw [hnowait]; decide)
  · obtain ⟨hclass, hcontrol, _⟩ := horder j hj hundone
    exact hblocks.elim hclass hcontrol

/-! The commands of the operations -/

/-- What a MATMUL that starts does: its cores work, their groups stream, and it streams its tensor or meets the activation
error of a cluster of the stand. -/
def matmulEffect (n : Nat) (actError : Option Nat) (st : Step) (i : Nat) (b : List Byte) (s : State) : State :=
  let o := MatmulOp.ofBytes b
  let t := ((s.clusters n).foldl (fun s c => s.work (.matrix c)) s).setMxcStatus n o.g (bits (le b 0 8) 48 3) 1
  match actError with
  | some c =>
    if (t.clusters n).contains c then (t.flagMxc Fld.MXC_ERROR_ACT_POISONED c st i o.wsd).abandon n 0x33 i
    else (t.runMatmul n st i o).1
  | none => (t.runMatmul n st i o).1

/-- Once the matrix cores of the stand are clocked, a MATMUL starts as the other operations do (R77). -/
theorem exec_opMatmul_ready {s : State} {n : Nat} (h : s.matrixReady n = true) (actError : Option Nat) :
    exec (.opMatmul n actError) s = .next (s.startOp n 0 1 (matmulEffect n actError)) := by
  change execMatmul n actError s = _
  simp only [execMatmul, h, Bool.not_true, Bool.false_eq_true, if_false]
  rfl

/-- The command of each operation with the operation's opcode (Table 3.6). -/
def opCommands (n : Nat) : List (Instr × Nat) := [(Instr.opMatmul n none, 1), (.opVtasks n, 2), (.opReduceScatter n, 3),
  (.opAllGather n, 4), (.opLayerMark n, 5), (.opWait n, 6), (.opEnd n, 7)]

/-- Each command of an operation starts the next operation of its class where that may start, and does no more. -/
theorem exec_opCommand {s : State} {n op : Nat} {c : Instr} (hc : (c, op) ∈ opCommands n) (hready : s.matrixReady n = true) :
    ∃ f, exec c s = .next (s.startOp n (opClass op) op f) := by
  simp only [opCommands, List.mem_cons, List.not_mem_nil, or_false, Prod.mk.injEq] at hc
  rcases hc with ⟨rfl, rfl⟩ | ⟨rfl, rfl⟩ | ⟨rfl, rfl⟩ | ⟨rfl, rfl⟩ | ⟨rfl, rfl⟩ | ⟨rfl, rfl⟩ | ⟨rfl, rfl⟩
  case inl => exact ⟨_, exec_opMatmul_ready hready none⟩
  all_goals exact ⟨_, rfl⟩

/-- MATMUL streams its tensor on the clocked cores; an activation error of one of its clusters abandons the step. -/
theorem Starts.exec_opMatmul {s : State} {n i : Nat} {st : Step} (h : Starts s n i 1 st) (hready : s.matrixReady n = true)
    (actError : Option Nat) : exec (.opMatmul n actError) s =
      .next (matmulEffect n actError st i (s.opBytes n st.model i) (s.begun n i)) := by
  rw [exec_opMatmul_ready hready]
  exact congrArg Host.Outcome.next (h.startOp _)

/-- Settles O21: each command is `State.startOp` of its opcode, which has its effect where the operation may start and
otherwise changes nothing. -/
theorem layerOperations : Obligations.LayerOperations := by
  refine ⟨?_, ?_⟩
  · rintro s n i st b rfl
    refine ⟨fun h hready => ⟨h.exec_opMatmul hready none, fun c hc => ?_⟩, fun h => ?_, fun h => ?_, fun h => ?_,
      fun h => ?_, fun h => ?_, fun h => ?_⟩
    · rw [h.exec_opMatmul hready, matmulEffect]
      exact congrArg Host.Outcome.next (if_pos (List.contains_iff_mem.2 hc))
    all_goals exact congrArg Host.Outcome.next (h.startOp _)
  · intro s n i op st c hc hready hrun hnext hheld
    obtain ⟨f, hexec⟩ := exec_opCommand hc hready
    rw [hexec, State.startOp_held hrun hnext (by rintro rfl; exact State.mayStart_held hheld)]

/-! The end of an operation (R67, R94) -/

theorem State.step_updStep {s : State} {n : Nat} {st : Step} (h : (s.stand n).step = some st) (f : Step → Step) :
    ((s.updStep n f).stand n).step = some (f st) := by
  simp only [State.updStep, State.stand_updStand_self, h, Option.map_some]

section
variable {s : State} {n i : Nat} {st : Step} (hrun : s.running n = some st) (hstarted : i ∈ st.started)
  (hdone : i ∉ st.done)
include hrun hstarted hdone

/-- A MATMUL that completes leaves its groups idle and its matrix cores at rest. -/
theorem exec_operationComplete_matmul {g : Nat} (hop : s.opcode n st.model i = 1)
    (hg : g = bits (le (s.opBytes n st.model i) 0 8) 48 3) :
    exec (.operationComplete n i) s = .next (((s.setMxcStatus n (2 ^ g) g 0).matrixRest n).completeOp n i) := by
  change execOperationComplete n i s = _
  simp [execOperationComplete, hrun, hstarted, hdone, hop, hg]

/-- A VTASKS each of whose tasks has ended completes. -/
theorem exec_operationComplete_vtasks {op : VOp} (hop : s.opcode n st.model i = 2) (hvop : st.vop = some op)
    (hindex : op.index = i) (hplaced : op.next = op.count) (hended : op.ended = op.count) :
    exec (.operationComplete n i) s = .next ((s.completeOp n i).updStep n (fun st => { st with vop := none })) := by
  change execOperationComplete n i s = _
  simp [execOperationComplete, hrun, hstarted, hdone, hop, hvop, hindex, hplaced, hended]

/-- A VTASKS goes on while one of its tasks has not ended. -/
theorem exec_operationComplete_vtasks_waits {op : VOp} (hop : s.opcode n st.model i = 2) (hvop : st.vop = some op)
    (hended : op.ended ≠ op.count) : exec (.operationComplete n i) s = .next s := by
  change execOperationComplete n i s = _
  simp [execOperationComplete, hrun, hstarted, hdone, hop, hvop, hended]

/-- Any other operation completes and does no more. -/
theorem exec_operationComplete_other (hmatmul : s.opcode n st.model i ≠ 1) (hvtasks : s.opcode n st.model i ≠ 2) :
    exec (.operationComplete n i) s = .next (s.completeOp n i) := by
  change execOperationComplete n i s = _
  simp [execOperationComplete, hrun, hstarted, hdone, hmatmul, hvtasks]
end

/-! Matrix-core failures (R78, Table 19.1) -/

/-- A failure in a grove that is in service takes effect. -/
theorem exec_coreFailure_inService {s : State} {c : Nat} (hc : c < 96)
    (hin : (s.fld Fld.RST_GROVE_STATUS_OUT_OF_SERVICE).testBit (c / 4) = false) :
    exec (.coreFailure c) s = .next (s.coreFailed c).deliver := by
  change execCoreFailure c s = _
  simp only [execCoreFailure, hc, hin, Bool.not_false, and_self, if_true]

/-- Without a stand on the grove, the failure takes the grove out of service. -/
theorem State.coreFailed_free {s : State} {c : Nat} (h : s.groveStand (c / 4) = none) :
    s.coreFailed c = s.groveOut (c / 4) := by
  simp only [State.coreFailed, h]

/-- The error of a matrix core of cluster `c` recorded against stand `n`, whose step is `st` and whose grove is then out of
service. -/
def State.coreErrorRecorded (s : State) (n c : Nat) (st : Step) : State :=
  ((s.setFld Fld.RST_GROVE_STATUS_OUT_OF_SERVICE 0 0
    (s.fld Fld.RST_GROVE_STATUS_OUT_OF_SERVICE ||| 2 ^ (c / 4))).flagMxc Fld.MXC_ERROR_CORE_FAILED c st st.atOp 0).event
      ⟨0x0103, some n, c / 16, c % 16, [c]⟩

/-- A stand that holds the grove records the error, abandons its step, and stops with its cores. -/
theorem State.coreFailed_held {s : State} {c n : Nat} {st : Step} (hn : s.groveStand (c / 4) = some n)
    (hst : (s.stand n).step = some st) : s.coreFailed c =
      ((((s.coreErrorRecorded n c st).clusters n).foldl State.stopCluster
        ((s.coreErrorRecorded n c st).abandon n 0x38 st.atOp)).stopStand n 0x38) := by
  simp only [State.coreFailed, hn, State.stand_setFld, hst, Option.getD_some, State.coreErrorRecorded]

/-- Settles O22: OPERATION_COMPLETE acts by the opcode of the operation that it ends, and CORE_FAILURE by whether a stand
holds the grove. -/
theorem operationCompletes : Obligations.OperationCompletes := by
  refine ⟨⟨fun s n i st hst => State.step_updStep hst _, fun s n i st hrun hstarted hdone => ⟨?_, ?_, ?_⟩⟩, ?_⟩
  · exact fun hop g hg => exec_operationComplete_matmul hrun hstarted hdone hop hg
  · exact fun hop => ⟨fun op => exec_operationComplete_vtasks hrun hstarted hdone hop,
      fun op => exec_operationComplete_vtasks_waits hrun hstarted hdone hop⟩
  · exact fun hmatmul hvtasks => exec_operationComplete_other hrun hstarted hdone hmatmul hvtasks
  · intro s c hc hin
    refine ⟨fun hnone => ?_, fun n st hn hst => ?_⟩
    · rw [exec_coreFailure_inService hc hin, State.coreFailed_free hnone]
    · rw [exec_coreFailure_inService hc hin, State.coreFailed_held hn hst]
      rfl

end Sys2Proof.Machine
end

section
/-! Proofs: the Chisyn instructions on registers (04_vector_cores.md R82-R89; 02_number_formats.md R39-R52). -/

namespace Sys2Proof.Machine

open Sys2Proof

/-! The types of an instruction (Table 4.2) -/

theorem floatType_cases {ty : BitVec 2} {f : Fmt} (h : floatType ty = some f) :
    (ty = 0 ∧ f = .fp32) ∨ (ty = 1 ∧ f = .bf16) := by
  unfold floatType at h
  split at h
  · exact .inl ⟨‹_›, (Option.some.inj h).symm⟩
  · split at h
    · exact .inr ⟨‹_›, (Option.some.inj h).symm⟩
    · cases h

theorem floatType_isSome {ty : BitVec 2} {f : Fmt} (h : floatType ty = some f) : (floatType ty).isSome = true := by
  rw [h]; rfl

/-- FP32 and BF16 elements have 32 and 16 bits. -/
theorem floatType_width {ty : BitVec 2} {f : Fmt} (h : floatType ty = some f) : f.width = 16 ∨ f.width = 32 := by
  rcases floatType_cases h with ⟨_, rfl⟩ | ⟨_, rfl⟩
  · exact .inr rfl
  · exact .inl rfl

theorem floatType_ne_three {ty : BitVec 2} {f : Fmt} (h : floatType ty = some f) : (ty != 3) = true := by
  rcases floatType_cases h with ⟨rfl, _⟩ | ⟨rfl, _⟩ <;> rfl

/-! Floating instructions (R51, R83, R84) -/

section
variable {s : State} {v : Nat} {i : VWord} {t : VTask} {f : Fmt} (hf : floatType i.type = some f)
include hf

/-- An instruction that does an elementwise operation of its floating format has that lane effect. -/
theorem lanes_of_float {uses : List Nat} {g : Fmt → VTask → VTask} {op : Nat → Nat × Flags} (h : Issues s v uses t)
    (hg : g f t = t.elementwise i f.width op) :
    LaneEffect s v i t f.width op (.next (s.vpure v uses (floatType i.type).isSome (fun t =>
      match floatType i.type with
      | some f => g f t
      | none => t))) := by
  refine lanes_of_vpure h (floatType_isSome hf) (floatType_width hf) ?_
  simp only [hf]
  exact hg

theorem lanes_of_vfloat2 (h : Issues s v (vs [i.dst, i.src1, i.src2]) t) (op : Fmt → Num → Num → Nat × Flags) :
    LaneEffect s v i t f.width (fun k => op f (srcNum t f i.src1 k) (srcNum t f i.src2 k)) (.next (s.vfloat2 v i op)) :=
  lanes_of_float hf (g := fun f t => t.floatOp2 i f (op f)) h rfl

theorem lanes_of_vfloat1 (h : Issues s v (vs [i.dst, i.src1]) t) (op : Fmt → Nat → Nat × Flags) :
    LaneEffect s v i t f.width (fun k => op f (element (t.vreg i.src1) f.width k)) (.next (s.vfloat1 v i op)) :=
  lanes_of_float hf (g := fun f t => t.floatOp1 i f (op f)) h rfl

theorem lanes_of_cpysgn (h : Issues s v (vs [i.dst, i.src1, i.src2]) t) :
    LaneEffect s v i t f.width
      (fun k => f.signed (srcNum t f i.src1 k) ((element (t.vreg i.src2) f.width k).testBit f.magBits))
      (exec (.vCpysgn v i) s) :=
  lanes_of_float hf (g := fun f t => t.elementwise i f.width (fun k =>
    f.signed (srcNum t f i.src1 k) ((element (t.vreg i.src2) f.width k).testBit f.magBits))) h rfl

theorem lanes_of_fma (h : Issues s v (vs [i.dst, i.src1, i.src2, i.src3]) t) :
    LaneEffect s v i t f.width (fun k => f.fma (srcNum t f i.src1 k) (srcNum t f i.src2 k) (srcNum t f i.src3 k))
      (exec (.vFma v i) s) :=
  lanes_of_float hf (g := fun f t => t.elementwise i f.width (fun k =>
    f.fma (srcNum t f i.src1 k) (srcNum t f i.src2 k) (srcNum t f i.src3 k))) h rfl

end

/-- Settles O9: every floating instruction is an elementwise operation of the format that its TYPE names. -/
theorem chisynFloat : Obligations.ChisynFloat := by
  intro s v i t f hf
  refine ⟨lanes_of_fma hf, fun h => ⟨?_, ?_, ?_, ?_, ?_, lanes_of_cpysgn hf h⟩, fun h => ⟨?_, ?_⟩⟩
  · exact lanes_of_vfloat2 hf h Fmt.add
  · exact lanes_of_vfloat2 hf h Fmt.sub
  · exact lanes_of_vfloat2 hf h Fmt.mul
  · exact lanes_of_vfloat2 hf h (fun f => f.minMax false)
  · exact lanes_of_vfloat2 hf h (fun f => f.minMax true)
  · exact lanes_of_vfloat1 hf h (fun f x => f.signed (f.decode x) false)
  · exact lanes_of_vfloat1 hf h (fun f x => f.signed (f.decode x) (!x.testBit f.magBits))

/-! Special functions (R88, R89, Table 4.6) -/

section
variable {f : Fmt} {x : Nat}

/-- A NaN gives the canonical NaN and raises nothing (R30). -/
theorem Sfu.apply_nan {b : Bool} (h : f.decode x = .nan b) (fn : Sfu) : fn.apply f x = (f.nanCode, {}) := by
  cases fn <;> simp only [Sfu.apply, h]

theorem Sfu.exp_inf {neg : Bool} (h : f.decode x = .inf neg) :
    Sfu.exp.apply f x = (if neg then 0 else f.infCode, {}) := by
  simp only [Sfu.apply, h]

theorem Sfu.log_inf {neg : Bool} (h : f.decode x = .inf neg) :
    Sfu.log.apply f x = (if neg then (f.nanCode, { invalid := true }) else (f.infCode, {})) := by
  simp only [Sfu.apply, h, Fmt.nanResult]

theorem Sfu.rcp_inf {neg : Bool} (h : f.decode x = .inf neg) : Sfu.rcp.apply f x = (f.pack neg 0, {}) := by
  simp only [Sfu.apply, h]

theorem Sfu.rsqrt_inf {neg : Bool} (h : f.decode x = .inf neg) :
    Sfu.rsqrt.apply f x = (if neg then (f.nanCode, { invalid := true }) else (0, {})) := by
  simp only [Sfu.apply, h, Fmt.nanResult]

/-- The encoding of ±1 in FP32 and BF16 decodes to ±1. -/
theorem Fmt.decode_pack_one (hf : f = .fp32 ∨ f = .bf16) (neg : Bool) :
    f.decode (f.pack neg (f.pack false (f.code false 1 0).1)) = .fin neg (2 ^ f.fbits) (-f.fbits) := by
  rcases hf with rfl | rfl <;> cases neg <;> decide

/-- TANH of ±∞ is ±1. -/
theorem Sfu.tanh_inf {neg : Bool} (h : f.decode x = .inf neg) (hf : f = .fp32 ∨ f = .bf16) :
    ∃ one, f.decode one = .fin neg (2 ^ f.fbits) (-f.fbits) ∧ Sfu.tanh.apply f x = (one, {}) :=
  ⟨f.pack neg (f.pack false (f.code false 1 0).1), Fmt.decode_pack_one hf neg, by simp only [Sfu.apply, h]⟩

/-- LOG, RCP and RSQRT of a zero give an infinity and raise division by zero. -/
theorem Sfu.apply_zero {neg : Bool} {e : Int} (h : f.decode x = .fin neg 0 e) :
    Sfu.log.apply f x = (f.pack true f.infCode, { divZero := true }) ∧
      Sfu.rcp.apply f x = (f.pack neg f.infCode, { divZero := true }) ∧
      Sfu.rsqrt.apply f x = (f.pack neg f.infCode, { divZero := true }) := by
  simp only [Sfu.apply, h, and_self]

/-- LOG and RSQRT of a number below 0 give NaN and raise invalid operation. -/
theorem Sfu.apply_negative {m : Nat} {e : Int} (h : f.decode x = .fin true (m + 1) e) :
    Sfu.log.apply f x = (f.nanCode, { invalid := true }) ∧ Sfu.rsqrt.apply f x = (f.nanCode, { invalid := true }) := by
  simp only [Sfu.apply, h, Fmt.nanResult, and_self]

end

/-- Settles O10: the special functions act elementwise, and `Sfu.apply` answers the special inputs as Table 4.6 does. -/
theorem chisynSpecial : Obligations.ChisynSpecial := by
  refine ⟨fun s v i t f hf h => ⟨?_, ?_, ?_, ?_, ?_⟩, fun f x => ⟨fun b hx fn => ?_, fun neg hx => ?_, ?_, ?_⟩⟩
  · exact lanes_of_vfloat1 hf h Sfu.exp.apply
  · exact lanes_of_vfloat1 hf h Sfu.log.apply
  · exact lanes_of_vfloat1 hf h Sfu.rcp.apply
  · exact lanes_of_vfloat1 hf h Sfu.rsqrt.apply
  · exact lanes_of_vfloat1 hf h Sfu.tanh.apply
  · exact Sfu.apply_nan hx fn
  · exact ⟨Sfu.exp_inf hx, Sfu.log_inf hx, Sfu.rcp_inf hx, Sfu.rsqrt_inf hx, Sfu.tanh_inf hx⟩
  · exact fun neg e => Sfu.apply_zero
  · exact fun m e => Sfu.apply_negative

/-! Integer and logic instructions (R83, R84) -/

section
variable {s : State} {v : Nat} {i : VWord} {t : VTask} (hi : i.type = 2)
include hi

theorem lanes_of_vint2 (h : Issues s v (vs [i.dst, i.src1, i.src2]) t) (op : BitVec 32 → BitVec 32 → BitVec 32) :
    LaneEffect s v i t 32 (fun k => ((op (srcLane t i.src1 k) (srcLane t i.src2 k)).toNat, {}))
      (.next (s.vint2 v i op)) :=
  lanes_of_vpure h (beq_iff_eq.2 hi) (.inr rfl) rfl

/-- A shift by 32 or more leaves the lane that is drawn (log 13). -/
theorem lanes_of_vshift (h : Issues s v (vs [i.dst, i.src1, i.src2]) t) (op : BitVec 32 → Nat → BitVec 32) :
    LaneEffect { s with freeCtr := s.freeCtr + 1 } v i t 32 (fun k =>
      ((if (srcLane t i.src2 k).toNat < 32 then op (srcLane t i.src1 k) (srcLane t i.src2 k).toNat
        else Config.freeLane s.freeCtr k).toNat, {})) (.next (s.vshift v i op)) :=
  lanes_of_vfree h (beq_iff_eq.2 hi) (.inr rfl) rfl

theorem lanes_of_popc (h : Issues s v (vs [i.dst, i.src1]) t) :
    LaneEffect s v i t 32 (fun k => (popcount 32 (element (t.vreg i.src1) 32 k), {})) (exec (.vPopc v i) s) :=
  lanes_of_vpure h (beq_iff_eq.2 hi) (.inr rfl) rfl

end

/-- Settles O11: each instruction is an INT32 operation on every lane; what the three shifts leave open is one draw. -/
theorem chisynInteger : Obligations.ChisynInteger := by
  intro s v i t hi
  refine ⟨fun h => ⟨?_, ?_, ?_, ?_, ?_, ?_, Config.freeLane s.freeCtr, ?_, ?_, ?_⟩, lanes_of_popc hi⟩
  · exact lanes_of_vint2 hi h (· + ·)
  · exact lanes_of_vint2 hi h (· - ·)
  · exact lanes_of_vint2 hi h (· * ·)
  · exact lanes_of_vint2 hi h (· &&& ·)
  · exact lanes_of_vint2 hi h (· ||| ·)
  · exact lanes_of_vint2 hi h (· ^^^ ·)
  · exact lanes_of_vshift hi h (· <<< ·)
  · exact lanes_of_vshift hi h (· >>> ·)
  · exact lanes_of_vshift hi h (fun a k => a.sshiftRight k)

/-! Compares and masks (R83, Table 4.1) -/

/-- The two's complement value of a lane. -/
theorem toInt_srcLane (t : VTask) (r : BitVec 5) (k : Nat) :
    (srcLane t r k).toInt = signed 32 (element (t.vreg r) 32 k) := by
  simp only [srcLane, BitVec.toInt, BitVec.toNat_ofNat, signed]
  split <;> split <;> omega

section
variable {s : State} {v : Nat} {i : VWord} {t : VTask}

/-- In packed BF16 a bit on which the two compares of a lane differ is drawn (log 13). -/
theorem masks_of_fcmp {f : Fmt} (hf : floatType i.type = some f) (h : Issues s v (vs [i.src1, i.src2]) t) :
    let cmp := fun e => floatCompare (immBits i 0 3) (srcNum t f i.src1 e) (srcNum t f i.src2 e)
    MaskEffect { s with freeCtr := s.freeCtr + 1 } v i t (fun k =>
      if f.width = 32 then cmp k
      else (if (cmp (2 * k)).1 = (cmp (2 * k + 1)).1 then (cmp (2 * k)).1 else (Config.freeLane s.freeCtr k).getLsbD 0,
            (cmp (2 * k)).2.or (cmp (2 * k + 1)).2)) (exec (.vFcmp v i) s) := by
  refine masks_of_vfree h (floatType_isSome hf) ?_
  simp only [hf]
  rfl

theorem masks_of_icmp (hi : i.type = 2) (h : Issues s v (vs [i.src1, i.src2]) t) :
    MaskEffect s v i t (fun k =>
      (predicate (immBits i 0 3) ((srcLane t i.src1 k).toInt - (srcLane t i.src2 k).toInt) false, {}))
      (exec (.vIcmp v i) s) := by
  simp only [toInt_srcLane]
  exact masks_of_vpure h (beq_iff_eq.2 hi) rfl

theorem masks_of_vmask2 (h : Issues s v [] t) (op : Bool → Bool → Bool) :
    MaskEffect s v i t (fun k =>
      (op ((t.mreg (maskNum i.src1)).getLsbD k) ((t.mreg (maskNum i.src2)).getLsbD k), {})) (.next (s.vmask2 v i op)) :=
  masks_of_vpure h rfl rfl

end

/-- Settles O12: compares and mask operations write a mask lane by lane. -/
theorem chisynMasks : Obligations.ChisynMasks := by
  intro s v i t
  refine ⟨fun f hf h => ⟨fun k => (Config.freeLane s.freeCtr k).getLsbD 0, masks_of_fcmp hf h⟩, masks_of_icmp,
    fun h => ⟨?_, ?_, ?_⟩⟩
  · exact masks_of_vmask2 h (· && ·)
  · exact masks_of_vmask2 h (· || ·)
  · exact masks_of_vmask2 h (fun a _ => !a)

end Sys2Proof.Machine
end

section
/-! Proofs: conversions, cross-lane operations and the scalar side of Chisyn (04_vector_cores.md R82-R84;
02_number_formats.md R39, R43, R44, R52). -/

namespace Sys2Proof.Machine

open Sys2Proof

/-! Conversions (R39, R43, R44, R451) -/

/-- What CVT makes of element `ga + k` of SRC1. -/
def VTask.converted (t : VTask) (i : VWord) (a b : Elem) (ga k : Nat) : Nat × Flags :=
  b.convert i.rtz i.sat (a.decode (element (t.vreg i.src1) a.width (ga + k)))

/-- The task after CVT from format `a` to format `b`, where both groups fit. -/
def VTask.cvt (t : VTask) (i : VWord) (a b : Elem) : VTask :=
  let rs := ((List.range 16).filter (t.lane i)).map (fun k => (k, t.converted i a b (16 * immBits i 10 3) k))
  (t.setV i.dst (rs.foldl (fun x r => setElement x b.width (16 * immBits i 13 3 + r.1) r.2.1) (t.vreg i.dst))).raise
    (Flags.all (rs.map (·.2.2)))

section
variable {s : State} {v : Nat} {i : VWord} {t : VTask}

theorem exec_vCvt {a b : Elem} (ha : plainElem (typeCode i) = some a) (hb : plainElem (immBits i 5 5) = some b)
    (hfrom : (16 * immBits i 10 3 + 16) * a.width ≤ 512) (hto : (16 * immBits i 13 3 + 16) * b.width ≤ 512)
    (h : Issues s v (vs [i.dst, i.src1]) t) : exec (.vCvt v i) s = .next (s.setTask v (some (t.cvt i a b).next)) := by
  change execCvt v i s = _
  simp only [execCvt, ha, hb, State.vpure]
  rw [State.vrun_ready h (by simp only [hfrom, hto, decide_true, Bool.and_self])]
  rfl

theorem exec_vQmx {el : Elem} (hel : formatOf (immBits i 0 5) = some (el, .mx)) (hty : (floatType i.type).isSome = true)
    (h : Issues s v (vs [i.dst, i.src1, i.src2]) t) : exec (.vQmx v i) s = .next (s.setTask v (some
      (if i.type = 0 then t.putBlock i el.width (quantiseMx el
        ((List.range 16).map (srcNum t .fp32 i.src1) ++ (List.range 16).map (srcNum t .fp32 i.src2))) (· % 16)
      else t.putBlock i el.width (quantiseMx el ((List.range 32).map (srcNum t .bf16 i.src1))) (· / 2)).next)) := by
  change execQmx v i s = _
  simp only [execQmx, hel, State.vpure]
  rw [State.vrun_ready h hty]
  rfl

/-- The sixteen numbers that QF16S quantises. -/
def VTask.f16sSource (t : VTask) (i : VWord) : List Num :=
  (List.range 16).map (fun k =>
    if i.type = 0 then srcNum t .fp32 i.src1 k else srcNum t .bf16 i.src1 (16 * immBits i 5 1 + k))

/-- The lane of element `k` of the block that QF16S writes. -/
def f16sLane (i : VWord) (k : Nat) : Nat := if i.type = 0 then min k 15 else (16 * immBits i 5 1 + min k 15) / 2

theorem VTask.f16sSource_fp32 (hi : i.type = 0) : t.f16sSource i = (List.range 16).map (srcNum t .fp32 i.src1) := by
  simp only [VTask.f16sSource, hi, if_true]

theorem VTask.f16sSource_bf16 (hi : i.type = 1) :
    t.f16sSource i = (List.range 16).map (fun k => srcNum t .bf16 i.src1 (16 * immBits i 5 1 + k)) := by
  simp only [VTask.f16sSource, hi, show (1 : BitVec 2) ≠ 0 by decide, if_false]

theorem f16sLane_fp32 (hi : i.type = 0) : f16sLane i = (min · 15) := funext fun _ => if_pos hi

theorem f16sLane_bf16 (hi : i.type = 1) : f16sLane i = fun k => (16 * immBits i 5 1 + min k 15) / 2 :=
  funext fun _ => if_neg (by rw [hi]; decide)

/-- A positive finite tensor scale quantises. -/
theorem exec_vQf16s_scaled {f : Fmt} {m : Nat} {e : Int} (hf : formatOf (immBits i 0 5) = some (.flt f, .f16s))
    (hty : (floatType i.type).isSome = true) (h : Issues s v (vs [i.dst, i.src1, i.src2]) t)
    (hscale : srcNum t .fp32 i.src2 0 = .fin false (m + 1) e) :
    exec (.vQf16s v i) s = .next ({ s with freeCtr := s.freeCtr + 1 }.setTask v (some
      (t.putBlock i f.width (quantiseF16s f (m + 1) e (t.f16sSource i)) (f16sLane i)).next)) := by
  change execQf16s v i s = _
  simp only [execQf16s, hf, State.vfree]
  rw [State.vrun_ready h hty]
  change Fmt.fp32.decode (element (t.vreg i.src2) 32 0) = _ at hscale
  simp only [hscale]
  rfl

/-- Any other tensor scale leaves open lanes. -/
theorem lanes_of_vQf16s_unscaled {f : Fmt} (hf : formatOf (immBits i 0 5) = some (.flt f, .f16s))
    (hty : (floatType i.type).isSome = true) (h : Issues s v (vs [i.dst, i.src1, i.src2]) t)
    (hscale : ∀ m e, srcNum t .fp32 i.src2 0 ≠ .fin false (m + 1) e) :
    LaneEffect { s with freeCtr := s.freeCtr + 1 } v i t 32 (fun k => ((Config.freeLane s.freeCtr k).toNat, {}))
      (exec (.vQf16s v i) s) := by
  change LaneEffect _ v i t 32 _ (execQf16s v i s)
  simp only [execQf16s, hf]
  refine lanes_of_vfree h hty (.inr rfl) ?_
  unfold srcNum at hscale
  split
  · exact absurd ‹_› (hscale _ _)
  · rfl

/-- DQ in the width of its destination format: an element of the block, or the element that stood there. -/
theorem lanes_of_vDq {el : Elem} {sc : Scaling} {f : Fmt} (hel : formatOf (immBits i 0 5) = some (el, sc))
    (hsc : sc ≠ .plain) (hf : floatType i.type = some f) (h : Issues s v (vs [i.dst, i.src1, i.src2]) t) :
    let value := blockValue el sc (t.vreg i.src1) (srcNum t .fp32 i.src2 0)
    LaneEffect s v i t f.width (fun k =>
      if f.width = 32 then f.convert i.rtz i.sat (value (if sc = .mx then 16 * immBits i 5 1 + k else k))
      else if sc = .mx then f.convert i.rtz i.sat (value k)
      else if 16 * immBits i 5 1 ≤ k ∧ k < 16 * immBits i 5 1 + 16 then
        f.convert i.rtz i.sat (value (k - 16 * immBits i 5 1))
      else (element (t.vreg i.dst) f.width k, {})) (exec (.vDq v i) s) := by
  change LaneEffect s v i t f.width _ (execDq v i s)
  simp only [execDq, hel, hf]
  exact lanes_of_vpure h (bne_iff_ne.2 hsc) (floatType_width hf) rfl

end

/-- Settles O13: CVT writes one group element by element, the quantising instructions put a block, and DQ is elementwise
in the width of its destination format. -/
theorem chisynConversions : Obligations.ChisynConversions := by
  intro s v i t
  refine ⟨fun a b ha hb hfrom hto h => ?_, fun el hel h => ⟨fun hi => ?_, fun hi => ?_⟩,
    fun f hf h => ⟨fun m e hscale => ⟨fun hi => ?_, fun hi => ?_⟩, fun hscale hty => ?_⟩,
    fun el sc hel hsc h => ⟨fun hi => ?_, fun hi => ?_⟩⟩
  · refine ⟨(t.cvt i a b).next, exec_vCvt ha hb hfrom hto h, rfl, fun r hr => ?_, ?_, fun k hk => ?_⟩
    · exact (VTask.vreg_setV ..).trans (if_neg hr)
    · simp only [VTask.cvt, VTask.next, VTask.raise, VTask.setV, List.map_map]
      rfl
    · exact VTask.element_group t i b.width _ (t.converted i a b (16 * immBits i 10 3)) hto k hk
  · rw [exec_vQmx hel (by rw [hi]; rfl) h, if_pos hi]
  · rw [exec_vQmx hel (by rw [hi]; rfl) h, if_neg (by rw [hi]; decide)]
  · rw [exec_vQf16s_scaled hf (by rw [hi]; rfl) h hscale, VTask.f16sSource_fp32 hi, f16sLane_fp32 hi]
  · rw [exec_vQf16s_scaled hf (by rw [hi]; rfl) h hscale, VTask.f16sSource_bf16 hi, f16sLane_bf16 hi]
  · exact ⟨_, lanes_of_vQf16s_unscaled hf hty h hscale⟩
  · exact lanes_of_vDq hel hsc (by rw [hi]; rfl : floatType i.type = some .fp32) h
  · exact lanes_of_vDq hel hsc (by rw [hi]; rfl : floatType i.type = some .bf16) h

/-! Cross-lane operations (R84) -/

theorem laneOf_32 (k : Nat) : laneOf 32 k = k := Nat.mul_div_cancel_left k (by decide)

section
variable {s : State} {v : Nat} {i : VWord} {t : VTask}

/-- BCAST takes a BF16 element in packed BF16 and a lane otherwise. -/
theorem lanes_of_bcast (hi : i.type ≠ 3) (h : Issues s v (vs [i.dst, i.src1]) t) :
    LaneEffect s v i t (if i.type = 1 then 16 else 32) (fun _ =>
      (if i.type = 1 then element (t.vreg i.src1) 16 (immBits i 0 5)
        else element (t.vreg i.src1) 32 (immBits i 0 4), {}))
      (exec (.vBcast v i) s) := by
  by_cases h1 : i.type = 1
  · rw [if_pos h1]
    refine lanes_of_vpure h (bne_iff_ne.2 hi) (.inl rfl) ?_
    simp only [if_pos h1]
  · rw [if_neg h1]
    refine lanes_of_vpure h (bne_iff_ne.2 hi) (.inr rfl) ?_
    simp only [if_neg h1]

/-- A floating reduction writes its value where a lane is unmasked. -/
theorem vreduce_float {f : Fmt} (hf : floatType i.type = some f) (h : Issues s v (vs [i.dst, i.src1]) t)
    (flt : Fmt → List Nat → Nat × Flags) (int : List Nat → Nat) :
    s.vreduce v i flt int =
      s.setTask v (some (t.reduceInto i f.width (flt f (t.activeElements i f.width))).next) := by
  rw [State.vreduce, State.vpure, State.vrun_ready h (floatType_ne_three hf)]
  simp only [hf]

/-- An INT32 reduction with an unmasked lane writes its value to every unmasked lane. -/
theorem lanes_of_int_reduction (hi : i.type = 2) (h : Issues s v (vs [i.dst, i.src1]) t)
    (hactive : t.activeElements i 32 ≠ []) (flt : Fmt → List Nat → Nat × Flags) (int : List Nat → Nat) :
    LaneEffect s v i t 32 (fun _ => (int (t.activeElements i 32), {})) (.next (s.vreduce v i flt int)) :=
  lanes_of_vreduce h (by rw [hi]; rfl) (by rw [hi]; rfl) (by simpa using hactive)

theorem lanes_of_pscan_int (hi : i.type = 2) (h : Issues s v (vs [i.dst, i.src1]) t) :
    LaneEffect s v i t 32 (fun k =>
      (intSum (((List.range (k + 1)).filter (fun j => t.lane i j)).map (fun j => element (t.vreg i.src1) 32 j)), {}))
      (exec (.vPscan v i) s) := by
  refine lanes_of_vpure h (by rw [hi]; rfl) (.inr rfl) ?_
  have hint : floatType i.type = none := by rw [hi]; rfl
  simp only [hint, laneOf_32]

theorem lanes_of_pscan_float {f : Fmt} (hf : floatType i.type = some f) (h : Issues s v (vs [i.dst, i.src1]) t) :
    LaneEffect s v i t f.width (fun k =>
      floatSum f (((List.range (k + 1)).filter (fun j => t.lane i (laneOf f.width j))).map
        (fun j => element (t.vreg i.src1) f.width j))) (exec (.vPscan v i) s) := by
  refine lanes_of_vpure h (floatType_ne_three hf) (floatType_width hf) ?_
  simp only [hf]

end

/-- Settles O14: select, shuffle, broadcast, PSCAN and RNG are elementwise; a reduction writes one value to every
unmasked element. -/
theorem chisynCrossLane : Obligations.ChisynCrossLane := by
  intro s v i t
  refine ⟨fun hi h => ⟨?_, fun k => (Config.freeLane s.freeCtr k).toNat, ?_⟩, lanes_of_bcast,
    fun hi h => ⟨lanes_of_pscan_int hi h, fun hactive => ⟨?_, ?_, ?_⟩⟩,
    fun f hf h => ⟨lanes_of_pscan_float hf h, ?_, ?_, ?_⟩, fun h => ⟨fun k => (Config.freeLane s.freeCtr k).toNat, ?_⟩⟩
  · exact lanes_of_vpure h (bne_iff_ne.2 hi) (.inr rfl) rfl
  · exact lanes_of_vfree h (bne_iff_ne.2 hi) (.inr rfl) rfl
  · exact lanes_of_int_reduction hi h hactive floatSum intSum
  · exact lanes_of_int_reduction hi h hactive (fun f => floatExtreme f true) (intExtreme true)
  · exact lanes_of_int_reduction hi h hactive (fun f => floatExtreme f false) (intExtreme false)
  · exact congrArg Host.Outcome.next (vreduce_float hf h floatSum intSum)
  · exact congrArg Host.Outcome.next (vreduce_float hf h (fun f => floatExtreme f true) (intExtreme true))
  · exact congrArg Host.Outcome.next (vreduce_float hf h (fun f => floatExtreme f false) (intExtreme false))
  · exact lanes_of_vfree h rfl (.inr rfl) rfl

/-! Scalar and control instructions (R52, R82) -/

@[simp] theorem VTask.pc_setX (t : VTask) (r : BitVec 5) (w : Word) : (t.setX r w).pc = t.pc := by
  unfold VTask.setX
  split <;> rfl

section
variable {s : State} {v : Nat} {i : VWord} {t : VTask}

theorem exec_vBrz (h : Issues s v (xs [i.src1]) t) : exec (.vBrz v i) s =
    .next (s.setTask v (some { t with pc := t.pc + if t.xreg i.src1 = 0 then i.imm.truncate 12 else 1 })) := by
  change execBrz v i s = _
  rw [execBrz, State.vrun_ready h rfl]
  split <;> rfl

theorem exec_vLoop (h : Issues s v (xs [i.dst]) t) : exec (.vLoop v i) s =
    .next (s.setTask v (some { t.setX i.dst (t.xreg i.dst - 1) with
      pc := t.pc + if t.xreg i.dst - 1 = 0 then 1 else i.imm.truncate 12 })) := by
  change execLoop v i s = _
  rw [execLoop, State.vrun_ready h rfl]
  simp only [VTask.next, VTask.branch, VTask.pc_setX]
  split <;> rfl

end

/-- Settles O15: the scalar instructions write an X register, the others move PC or clear the flags. -/
theorem chisynScalar : Obligations.ChisynScalar := by
  intro s v i t
  refine ⟨fun op useImm h => ⟨s.freeCtr, scalar_of_vfree h rfl rfl⟩, fun h => ⟨?_, ?_⟩, exec_vBrz,
    fun h => ⟨exec_vLoop h, scalar_of_vpure h rfl rfl, fun hsel => ⟨Config.freeWord s.freeCtr, ?_⟩⟩⟩
  · exact congrArg Host.Outcome.next (State.vrun_ready h rfl)
  · exact congrArg Host.Outcome.next (State.vrun_ready h rfl)
  · refine scalar_of_vfree h (decide_eq_true hsel) ?_
    rfl

end Sys2Proof.Machine
end

section
/-! Proofs: the local store instructions (04_vector_cores.md R85, Table 4.4). -/

namespace Sys2Proof.Machine

open Sys2Proof

/-! Accesses to the local store -/

section
variable {s : State} {v : Nat} {i : VWord} {t : VTask} {uses : List Nat} {ok : Bool} {acc : VTask → List (Nat × Nat)}
  {f : VTask → State → State × VTask}

/-- An instruction each of whose accesses is aligned and within the store has its effect. -/
theorem State.vls_ok (h : Issues s v uses t) (hok : ok = true) (hacc : ∀ a ∈ acc t, lsOk a.1 a.2 = true) :
    s.vls v uses ok acc f = (f t s).1.setTask v (some (f t s).2.next) := by
  rw [State.vls, State.vrun_ready h hok]
  exact if_pos (List.all_eq_true.2 hacc)

/-- One with another access ends the task with TASK_FAULT. -/
theorem State.vls_bad (h : Issues s v uses t) (hok : ok = true) (hacc : ∃ a ∈ acc t, lsOk a.1 a.2 = false) :
    s.vls v uses ok acc f = s.illegal v t := by
  obtain ⟨a, ha, hbad⟩ := hacc
  rw [State.vls, State.vrun_ready h hok]
  refine if_neg fun hall => ?_
  rw [List.all_eq_true.1 hall a ha] at hbad
  cases hbad

/-- An elementwise result put in the task has its lane effect. -/
theorem lanes_of_elementwise {w : Nat} {g : Nat → Nat × Flags} (h : Issues s v uses t) (hw : w = 16 ∨ w = 32) :
    LaneEffect s v i t w g (.next (s.setTask v (some (t.elementwise i w g).next))) := by
  have hpure := lanes_of_vpure (ok := true) (i := i) (f := g) (g := fun t => t.elementwise i w g) h rfl hw rfl
  rwa [State.vpure, State.vrun_ready h rfl] at hpure

/-- A load whose result is elementwise has its lane effect. -/
theorem lanes_of_vls {g : Nat → Nat × Flags} (h : Issues s v uses t) (hok : ok = true)
    (hacc : ∀ a ∈ acc t, lsOk a.1 a.2 = true) (hf : f t s = (s, t.elementwise i 32 g)) :
    LaneEffect s v i t 32 g (.next (s.vls v uses ok acc f)) := by
  rw [State.vls_ok h hok hacc, hf]
  exact lanes_of_elementwise h (.inr rfl)

end

/-! Loads of lanes -/

theorem Flags.all_replicate_none (n : Nat) : Flags.all (List.replicate n {}) = {} := by
  induction n with
  | zero => rfl
  | succ n ih => exact ih

/-- The unmasked lanes of an instruction, each with an address. -/
def VTask.laneAddrs (t : VTask) (i : VWord) (addr : Nat → Nat) : List (Nat × Nat) :=
  ((List.range 16).filter (t.lane i)).map (fun k => (k, addr k))

theorem VTask.mem_laneAddrs {t : VTask} {i : VWord} {addr : Nat → Nat} {p : Nat × Nat} :
    p ∈ t.laneAddrs i addr ↔ (p.1 < 16 ∧ t.lane i p.1 = true) ∧ p.2 = addr p.1 := by
  simp only [VTask.laneAddrs, List.mem_map, List.mem_filter, List.mem_range]
  constructor
  · rintro ⟨k, hk, rfl⟩
    exact ⟨hk, rfl⟩
  · rintro ⟨hk, hp⟩
    exact ⟨p.1, hk, by rw [← hp]⟩

/-- Lanes loaded 4 B each are an elementwise result that raises no flag. -/
theorem State.loadLanes_eq_elementwise (s : State) (v : Nat) (t : VTask) (i : VWord) (addr : Nat → Nat) :
    s.loadLanes v t i (t.laneAddrs i addr) = t.elementwise i 32 (fun k => (ofBytes (s.lsBytes v (addr k) 4), {})) := by
  simp only [State.loadLanes, VTask.laneAddrs, VTask.elementwise, List.foldl_map, List.map_map, laneOf_32]
  have hflags : (List.filter (fun k => t.lane i k) (List.range (512 / 32))).map
      ((fun r : Nat × Nat × Flags => r.2.2) ∘ fun k => (k, ofBytes (s.lsBytes v (addr k) 4), {})) =
      List.replicate _ {} := List.map_const' ..
  rw [hflags, Flags.all_replicate_none, VTask.raise_none]

/-! Bytes of the local store -/

/-- An element within a list, by the library of core alone. -/
theorem getD_of_lt {α : Type} {l : List α} {k : Nat} (h : k < l.length) (d : α) : l.getD k d = l[k] := by
  rw [List.getD_eq_getElem?_getD, List.getElem?_eq_getElem h, Option.getD_some]

/-- The keys of a space rise with its addresses. -/
theorem Space.key_add (sp : Space) {a k : Nat} (h : a + k < spaceSize) : sp.key (a + k) = sp.key a + k := by
  simp only [Space.key, Nat.mod_eq_of_lt h, Nat.mod_eq_of_lt (Nat.lt_of_le_of_lt (Nat.le_add_right a k) h)]
  omega

theorem lsSize_lt_spaceSize : lsSize < spaceSize := by decide

/-- Byte `b` of the local store of core `v`. -/
def State.lsByte (s : State) (v b : Nat) : Byte := s.mem.byte ((Space.ls v).key b)

theorem State.lsBytes_eq_map {s : State} {v a n : Nat} (h : a + n ≤ lsSize) :
    s.lsBytes v a n = (List.range n).map (fun k => s.lsByte v (a + k)) := by
  have hlt := lsSize_lt_spaceSize
  refine List.map_congr_left fun k hk => ?_
  have hk := List.mem_range.1 hk
  rw [State.lsByte, Space.key_add _ (by omega)]

theorem State.lsBytes_one (s : State) (v b : Nat) : s.lsBytes v b 1 = [s.lsByte v b] := by
  simp [State.lsBytes, Mem.bytes, State.lsByte]

@[simp] theorem State.lsByte_setTask (s : State) (v u b : Nat) (t : Option VTask) :
    (s.setTask u t).lsByte v b = s.lsByte v b := rfl

theorem State.lsPut_memInv {s : State} (h : MemInv s) (v a : Nat) (bs : List Byte) : MemInv (s.lsPut v a bs) :=
  Mem.putList_wf h

/-- A byte of the local store after a write that lies within it. -/
theorem State.lsByte_lsPut {s : State} (h : MemInv s) {v a b : Nat} {bs : List Byte} (ha : a + bs.length ≤ lsSize)
    (hb : b < lsSize) :
    (s.lsPut v a bs).lsByte v b = if a ≤ b ∧ b < a + bs.length then bs.getD (b - a) 0 else s.lsByte v b := by
  have hlt := lsSize_lt_spaceSize
  have hkey : ∀ c, c ≤ lsSize → (Space.ls v).key c = (Space.ls v).key 0 + c := fun c hc => by
    rw [← Space.key_add _ (show 0 + c < spaceSize by omega), Nat.zero_add]
  simp only [State.lsByte, State.lsPut, Mem.byte_putList h, hkey a (by omega), hkey b (by omega),
    Nat.add_assoc, Nat.add_le_add_iff_left, Nat.add_lt_add_iff_left, Nat.add_sub_add_left]

/-! Stores of words -/

/-- Words stored one after another at the addresses of a list, each word given by its address and the state's draw. -/
def State.storeWords (s : State) (v : Nat) (word : Nat → Nat → Nat) (l : List (Nat × Nat)) : State :=
  l.foldl (fun s p => s.lsPut v p.2 (toBytes 4 (word s.freeCtr p.2))) s

theorem lsOk_iff {a width : Nat} : lsOk a width = true ↔ a % width = 0 ∧ a + width ≤ lsSize := by
  simp [lsOk]

/-- A byte of the store after aligned words were stored: a byte of the word at its place, if one was stored there. -/
theorem State.lsByte_storeWords {s : State} (h : MemInv s) {v b : Nat} {word : Nat → Nat → Nat} {l : List (Nat × Nat)}
    (hl : ∀ p ∈ l, lsOk p.2 4 = true) (hb : b < lsSize) :
    (s.storeWords v word l).lsByte v b =
      if b - b % 4 ∈ l.map (·.2) then (toBytes 4 (word s.freeCtr (b - b % 4))).getD (b % 4) 0 else s.lsByte v b := by
  induction l generalizing s with
  | nil => rfl
  | cons p l ih =>
    obtain ⟨hp, hl⟩ := List.forall_mem_cons.1 hl
    obtain ⟨haligned, hwithin⟩ := lsOk_iff.1 hp
    have hput := State.lsByte_lsPut h (v := v) (bs := toBytes 4 (word s.freeCtr p.2)) (by rwa [length_toBytes]) hb
    rw [length_toBytes] at hput
    have hstep : s.storeWords v word (p :: l) =
      (s.lsPut v p.2 (toBytes 4 (word s.freeCtr p.2))).storeWords v word l := rfl
    rw [hstep, ih (State.lsPut_memInv h _ _ _) hl, hput]
    change (if _ then (toBytes 4 (word s.freeCtr (b - b % 4))).getD (b % 4) 0 else _) = _
    simp only [List.map_cons, List.mem_cons]
    by_cases hmem : b - b % 4 ∈ l.map (·.2)
    · rw [if_pos hmem, if_pos (.inr hmem)]
    · rw [if_neg hmem]
      by_cases hat : b - b % 4 = p.2
      · rw [if_pos (by omega), if_pos (.inl hat), hat, show b - p.2 = b % 4 by omega]
      · rw [if_neg (by omega), if_neg (by simp [hat, hmem])]

/-- A stored word reads back. -/
theorem State.lsBytes_storeWords {s : State} (h : MemInv s) {v : Nat} {word : Nat → Nat → Nat} {l : List (Nat × Nat)}
    (hl : ∀ p ∈ l, lsOk p.2 4 = true) {p : Nat × Nat} (hp : p ∈ l) :
    (s.storeWords v word l).lsBytes v p.2 4 = toBytes 4 (word s.freeCtr p.2) := by
  obtain ⟨haligned, hwithin⟩ := lsOk_iff.1 (hl p hp)
  rw [State.lsBytes_eq_map hwithin]
  refine List.ext_getElem (by simp) fun k hk _ => ?_
  have hk : k < 4 := by simpa using hk
  rw [List.getElem_map, List.getElem_range, State.lsByte_storeWords h hl (by omega),
    show p.2 + k - (p.2 + k) % 4 = p.2 by omega, show (p.2 + k) % 4 = k by omega,
    if_pos (List.mem_map_of_mem hp), getD_of_lt (by rwa [length_toBytes])]

/-- A byte that no stored word covers keeps its value. -/
theorem State.lsByte_storeWords_frame {s : State} (h : MemInv s) {v b : Nat} {word : Nat → Nat → Nat}
    {l : List (Nat × Nat)} (hl : ∀ p ∈ l, lsOk p.2 4 = true) (hb : b < lsSize)
    (hout : ∀ p ∈ l, b < p.2 ∨ p.2 + 4 ≤ b) : (s.storeWords v word l).lsByte v b = s.lsByte v b := by
  rw [State.lsByte_storeWords h hl hb, if_neg]
  intro hmem
  obtain ⟨p, hp, heq⟩ := List.mem_map.1 hmem
  have := hout p hp
  omega

theorem take_one_drop {bs : List Byte} {k : Nat} (h : k < bs.length) : (bs.drop k).take 1 = [bs.getD k 0] := by
  rw [List.drop_eq_getElem_cons h, getD_of_lt h]
  rfl

/-! The instructions -/

section
variable {s : State} {v : Nat} {i : VWord} {t : VTask}

theorem lanes_of_vLd (hi : i.src3 = 0) (h : Issues s v (xs [i.src1] ++ vs [i.dst]) t)
    (hls : lsOk (t.lsAddr i) 64 = true) :
    LaneEffect s v i t 32 (fun k => (element (vecOf (s.lsBytes v (t.lsAddr i) 64)) 32 k, {})) (exec (.vLd v i) s) := by
  have hw : scalarWidth i = 0 := by rw [scalarWidth, hi]; rfl
  change LaneEffect s v i t 32 _ (execLd v i s)
  simp only [execLd, widthOk, hw, if_true]
  exact lanes_of_vls h rfl (by simpa using hls) rfl

/-- The lanes that a vector ST writes are the words of its 64 B. -/
theorem exec_vSt_vector (hi : i.src3 = 0) (h : Issues s v (xs [i.src1] ++ vs [i.dst]) t)
    (hls : lsOk (t.lsAddr i) 64 = true) : exec (.vSt v i) s =
      .next ((s.storeWords v (fun _ b => element (t.vreg i.dst) 32 ((b - t.lsAddr i) / 4))
        (t.laneAddrs i (fun k => t.lsAddr i + 4 * k))).setTask v (some t.next)) := by
  have hw : scalarWidth i = 0 := by rw [scalarWidth, hi]; rfl
  have hok : widthOk i = true := by rw [widthOk, hw]; rfl
  have hlane : ∀ k, (t.lsAddr i + 4 * k - t.lsAddr i) / 4 = k := fun k => by omega
  change execSt v i s = _
  simp only [execSt, hw, if_true]
  rw [State.vls_ok h hok (by simpa using hls)]
  simp only [State.storeWords, VTask.laneAddrs, List.foldl_map, hlane]

/-- A byte of the store after a vector ST: a byte of the lane that covers it, where that is unmasked. -/
theorem lsBytes_vSt {b : Nat} (hm : MemInv s) (hls : lsOk (t.lsAddr i) 64 = true) (hb : b < lsSize) :
    (s.storeWords v (fun _ b => element (t.vreg i.dst) 32 ((b - t.lsAddr i) / 4))
        (t.laneAddrs i (fun k => t.lsAddr i + 4 * k))).lsBytes v b 1 =
      if t.lsAddr i ≤ b ∧ b < t.lsAddr i + 64 ∧ t.lane i ((b - t.lsAddr i) / 4) then
        ((toBytes 4 (element (t.vreg i.dst) 32 ((b - t.lsAddr i) / 4))).drop ((b - t.lsAddr i) % 4)).take 1
      else s.lsBytes v b 1 := by
  obtain ⟨haligned, hwithin⟩ := lsOk_iff.1 hls
  have hwords : ∀ p ∈ t.laneAddrs i (fun k => t.lsAddr i + 4 * k), lsOk p.2 4 = true := fun p hp => by
    obtain ⟨⟨hk, _⟩, haddr⟩ := VTask.mem_laneAddrs.1 hp
    exact lsOk_iff.2 ⟨by omega, by omega⟩
  have hcovered : b - b % 4 ∈ (t.laneAddrs i (fun k => t.lsAddr i + 4 * k)).map (·.2) ↔
      t.lsAddr i ≤ b ∧ b < t.lsAddr i + 64 ∧ t.lane i ((b - t.lsAddr i) / 4) = true := by
    rw [List.mem_map]
    constructor
    · rintro ⟨p, hp, heq⟩
      obtain ⟨⟨hk, hlane⟩, haddr⟩ := VTask.mem_laneAddrs.1 hp
      exact ⟨by omega, by omega, by rwa [show (b - t.lsAddr i) / 4 = p.1 by omega]⟩
    · rintro ⟨hlo, hhi, hlane⟩
      have hlt : (b - t.lsAddr i) / 4 < 16 := by omega
      have haddr : b - b % 4 = t.lsAddr i + 4 * ((b - t.lsAddr i) / 4) := by omega
      exact ⟨((b - t.lsAddr i) / 4, b - b % 4), VTask.mem_laneAddrs.2 ⟨⟨hlt, hlane⟩, haddr⟩, rfl⟩
  rw [State.lsBytes_one, State.lsBytes_one, State.lsByte_storeWords hm hwords hb]
  by_cases hin : t.lsAddr i ≤ b ∧ b < t.lsAddr i + 64 ∧ t.lane i ((b - t.lsAddr i) / 4) = true
  · obtain ⟨hlo, _, _⟩ := id hin
    rw [if_pos (hcovered.2 hin), if_pos hin, take_one_drop (by rw [length_toBytes]; omega),
      show (b - b % 4 - t.lsAddr i) / 4 = (b - t.lsAddr i) / 4 by omega, show (b - t.lsAddr i) % 4 = b % 4 by omega]
  · rw [if_neg (mt hcovered.1 hin), if_neg hin]

section
variable (hi : i.src3 = 1 ∨ i.src3 = 2 ∨ i.src3 = 4 ∨ i.src3 = 8) (h : Issues s v (xs [i.src1] ++ xs [i.dst]) t)
  (hls : lsOk (t.lsAddr i) i.src3.toNat = true)

include hi in
/-- The widths of LD and ST of an X register. -/
theorem scalarWidth_cases : i.src3.toNat ≠ 0 ∧ widthOk i = true := by
  rcases hi with hi | hi | hi | hi <;> simp [widthOk, scalarWidth, hi]

include hi h hls

theorem scalar_of_vLd :
    ScalarEffect s v t i.dst (BitVec.ofNat 64 (ofBytes (s.lsBytes v (t.lsAddr i) i.src3.toNat)))
      (exec (.vLd v i) s) := by
  obtain ⟨hw, hok⟩ := scalarWidth_cases hi
  change ScalarEffect s v t i.dst _ (execLd v i s)
  simp only [execLd, scalarWidth, hw, if_false]
  rw [State.vls_ok h hok (by simpa using hls)]
  exact scalar_of_setX

theorem exec_vSt_scalar : exec (.vSt v i) s =
    .next ((s.lsPut v (t.lsAddr i) (toBytes i.src3.toNat (t.xreg i.dst).toNat)).setTask v (some t.next)) := by
  obtain ⟨hw, hok⟩ := scalarWidth_cases hi
  change execSt v i s = _
  simp only [execSt, scalarWidth, hw, if_false]
  rw [State.vls_ok h hok (by simpa using hls)]

end

/-- Every access of 4 B per lane that a list of lanes makes. -/
theorem wordAccesses_ok {l : List (Nat × Nat)} (h : ∀ p ∈ l, lsOk p.2 4 = true) :
    ∀ a ∈ l.map (fun p => (p.2, 4)), lsOk a.1 a.2 = true := List.forall_mem_map.2 h

theorem wordAccesses_bad {l : List (Nat × Nat)} (h : ∃ p ∈ l, lsOk p.2 4 = false) :
    ∃ a ∈ l.map (fun p => (p.2, 4)), lsOk a.1 a.2 = false := by
  obtain ⟨p, hp, hbad⟩ := h
  exact ⟨_, List.mem_map_of_mem hp, hbad⟩

theorem lanes_of_vLds (h : Issues s v (xs [i.src1, i.src2] ++ vs [i.dst]) t)
    (hls : ∀ p ∈ t.strided i, lsOk p.2 4 = true) :
    LaneEffect s v i t 32
      (fun k => (ofBytes (s.lsBytes v (t.xreg i.src1 + immX i + BitVec.ofNat 64 k * t.xreg i.src2).toNat 4), {}))
      (exec (.vLds v i) s) :=
  lanes_of_vls h rfl (wordAccesses_ok hls) (congrArg (Prod.mk s) (s.loadLanes_eq_elementwise v t i _))

section
variable (h : Issues s v (xs [i.src1] ++ vs [i.dst, i.src2]) t)
include h

theorem lanes_of_vGld (hls : ∀ p ∈ t.indexed i, lsOk p.2 4 = true) :
    LaneEffect s v i t 32
      (fun k => (ofBytes (s.lsBytes v (t.xreg i.src1 + immX i +
        BitVec.ofNat 64 (element (t.vreg i.src2) 32 k)).toNat 4), {})) (exec (.vGld v i) s) :=
  lanes_of_vls h rfl (wordAccesses_ok hls) (congrArg (Prod.mk s) (s.loadLanes_eq_elementwise v t i _))

/-- SST stores at each address the lane that wins it. -/
theorem exec_vSst (hls : ∀ p ∈ t.indexed i, lsOk p.2 4 = true) : exec (.vSst v i) s =
    .next ((State.storeWords { s with freeCtr := s.freeCtr + 1 } v
      (fun draw a => element (t.vreg i.dst) 32 (scatterWinner draw (t.indexed i) a)) (t.indexed i)).setTask v
        (some t.next)) :=
  congrArg Host.Outcome.next (State.vls_ok h rfl (wordAccesses_ok hls))

theorem indexed_bad (hbad : ∃ p ∈ t.indexed i, lsOk p.2 4 = false) :
    exec (.vGld v i) s = .next (s.illegal v t) ∧ exec (.vSst v i) s = .next (s.illegal v t) :=
  ⟨congrArg Host.Outcome.next (State.vls_bad h rfl (wordAccesses_bad hbad)),
    congrArg Host.Outcome.next (State.vls_bad h rfl (wordAccesses_bad hbad))⟩

end

end

/-- The lane that wins an address is one of those scattered to it. -/
theorem scatterWinner_mem (draw : Nat) {l : List (Nat × Nat)} {p : Nat × Nat} (hp : p ∈ l) :
    ∃ q ∈ l, q.2 = p.2 ∧ scatterWinner draw l p.2 = q.1 := by
  have hsame : p.1 ∈ (l.filter (·.2 == p.2)).map (·.1) :=
    List.mem_map_of_mem (List.mem_filter.2 ⟨hp, beq_self_eq_true _⟩)
  have hlt := Nat.mod_lt (Config.pick (draw + p.2) ((l.filter (·.2 == p.2)).map (·.1)).length)
    (List.length_pos_of_mem hsame)
  obtain ⟨q, hq, hwin⟩ := List.mem_map.1 (List.getElem_mem hlt)
  obtain ⟨hql, haddr⟩ := List.mem_filter.1 hq
  exact ⟨q, hql, eq_of_beq haddr, (getD_of_lt hlt _).trans hwin.symm⟩

/-- Settles O16: loads are lane effects of what the store holds; stores write the words of their lanes, of which each
address gets the word of one lane; a bad access faults before any effect. -/
theorem chisynLocalStore : Obligations.ChisynLocalStore := by
  intro s v i t hm
  refine ⟨fun hi h hls => ⟨lanes_of_vLd hi h hls, ?_⟩,
    fun hi h hls => ⟨scalar_of_vLd hi h hls, exec_vSt_scalar hi h hls⟩, lanes_of_vLds,
    fun h hls => ⟨lanes_of_vGld h hls, ?_⟩, indexed_bad⟩
  · exact ⟨_, exec_vSt_vector hi h hls, State.task_setTask_self .., fun b hb => lsBytes_vSt hm hls hb⟩
  · refine ⟨_, exec_vSst h hls, State.task_setTask_self .., fun p hp => ?_, fun b hb hout => ?_⟩
    · obtain ⟨q, hq, haddr, hwin⟩ := scatterWinner_mem (s.freeCtr + 1) hp
      refine ⟨q, hq, haddr, ?_⟩
      rw [← hwin]
      exact State.lsBytes_storeWords (s := { s with freeCtr := s.freeCtr + 1 }) hm hls hp
    · rw [State.lsBytes_one, State.lsBytes_one, State.lsByte_setTask,
        State.lsByte_storeWords_frame (s := { s with freeCtr := s.freeCtr + 1 }) hm hls hb hout]
      rfl

end Sys2Proof.Machine
end

section
/-! Proofs: transfers and atomics of the vector cores (04_vector_cores.md R86, R87). -/

namespace Sys2Proof.Machine

open Sys2Proof

/-! A waiting core goes on -/

section
variable {s : State} {v : Nat} {t : VTask} (ht : s.task v = some t)
include ht

/-- A core that waits for nothing stays as it is. -/
theorem State.settle_of_wait_none (hw : t.wait = .none) : s.settle v = s := by
  simp only [State.settle, ht, hw]

theorem State.settle_tag_busy {k : Nat} (hw : t.wait = .tag k) (hbusy : t.transfers.any (·.tag == k) = true) :
    s.settle v = s := by
  simp only [State.settle, ht, hw, hbusy, if_true]

theorem State.settle_tag_idle {k : Nat} (hw : t.wait = .tag k) (hidle : t.transfers.any (·.tag == k) = false) :
    s.settle v = (s.landTag v t k).1.setTask v (some { (s.landTag v t k).2 with wait := .none }.next) := by
  simp only [State.settle, ht, hw, hidle, Bool.false_eq_true, if_false]

end

/-- Where no XIN has landed, an idle tag lets the core go on and moves no byte. -/
theorem State.landTag_nothing {s : State} {v k : Nat} {t : VTask} (h : t.landed = []) : s.landTag v t k = (s, t) := by
  simp only [State.landTag, h, List.filter_nil, List.foldl_nil]
  rw [← h]

/-- The task of a core just set settles with nothing to wait for. -/
theorem State.settle_setTask {s : State} {v : Nat} {t : VTask} (hw : t.wait = .none) :
    (s.setTask v (some t)).settle v = s.setTask v (some t) :=
  State.settle_of_wait_none (State.task_setTask_self ..) hw

/-! XIN, XOUT and XWAIT -/

/-- The transfer that an XIN or XOUT asks for. -/
def VTask.transferOf (t : VTask) (i : VWord) (out : Bool) : Transfer :=
  { tag := (maskNum i.dst).toNat, out := out, ls := (t.xreg i.src1).toNat, addr := (t.xreg i.src2).toNat,
    len := (t.xreg i.src3).toNat, inStand := immBits i 0 1 == 1 }

section
variable {s : State} {v : Nat} {i : VWord} {t : VTask} {out : Bool}

theorem exec_transfer (s : State) (v : Nat) (i : VWord) (out : Bool) :
    exec (if out then .vXout v i else .vXin v i) s = .next (s.vtransfer v i out) := by
  cases out <;> rfl

section
variable (h : Issues s v (xs [i.src1, i.src2, i.src3]) t)
include h

theorem State.vtransfer_bad (hbad : s.transferOk t.stand (t.transferOf i out) = false) :
    s.vtransfer v i out = (if (t.transferOf i out).inStand ∧ (t.transferOf i out).addr % 64 = 0 then
      s.flagUnmapped t.stand (t.transferOf i out).addr else s).illegal v t := by
  rw [State.vtransfer, State.vrun_ready h rfl]
  change (if (!s.transferOk t.stand (t.transferOf i out)) = true then
    (if ((t.transferOf i out).inStand && (t.transferOf i out).addr % 64 == 0) = true then
      s.flagUnmapped t.stand (t.transferOf i out).addr else s).illegal v t else _) = _
  simp only [hbad, Bool.not_false, if_true, Bool.and_eq_true, beq_iff_eq]

variable (hok : s.transferOk t.stand (t.transferOf i out) = true)
include hok

theorem State.vtransfer_waits
    (hfull : 16 ≤ (t.transfers.filter (·.tag == (t.transferOf i out).tag)).length) :
    s.vtransfer v i out = s.setTask v (some { t with wait := .slot (t.transferOf i out) }) := by
  rw [State.vtransfer, State.vrun_ready h rfl]
  change (if (!s.transferOk t.stand (t.transferOf i out)) = true then _
    else if 16 ≤ (t.transfers.filter (·.tag == (t.transferOf i out).tag)).length then
      s.setTask v (some { t with wait := .slot (t.transferOf i out) }) else _) = _
  rw [if_neg (by simp [hok]), if_pos hfull]

theorem State.vtransfer_issued
    (hroom : (t.transfers.filter (·.tag == (t.transferOf i out).tag)).length < 16) :
    s.vtransfer v i out = s.issueTransfer v t (t.transferOf i out) := by
  rw [State.vtransfer, State.vrun_ready h rfl]
  change (if (!s.transferOk t.stand (t.transferOf i out)) = true then _
    else if 16 ≤ (t.transfers.filter (·.tag == (t.transferOf i out).tag)).length then _
    else s.issueTransfer v t (t.transferOf i out)) = _
  rw [if_neg (by simp [hok]), if_neg (Nat.not_le.2 hroom)]

end

theorem exec_vXwait (h : Issues s v [] t) : exec (.vXwait v i) s =
    .next ((s.setTask v (some { t with wait := .tag (maskNum i.dst).toNat })).settle v) :=
  congrArg Host.Outcome.next (State.vrun_ready h rfl)

/-- XWAIT on an idle tag passes to the next instruction and moves no byte where nothing has landed. -/
theorem exec_vXwait_idle (h : Issues s v [] t) (hidle : t.transfers.any (·.tag == (maskNum i.dst).toNat) = false)
    (hlanded : t.landed = []) :
    exec (.vXwait v i) s = .next (s.setTask v (some { t with pc := t.pc + 1 })) := by
  rw [exec_vXwait h, State.settle_tag_idle (k := (maskNum i.dst).toNat) (State.task_setTask_self ..)]
  case hw => rfl
  case hidle => exact hidle
  rw [State.landTag_nothing (by exact hlanded), State.setTask_setTask, VTask.next, ← h.waits]

end

/-! The activation store as the outside -/

theorem Mem.bytes_add (m : Mem) (k a b : Nat) : m.bytes k (a + b) = m.bytes k a ++ m.bytes (k + a) b := by
  simp only [Mem.bytes, List.range_add, List.map_append, List.map_map, Nat.add_assoc, Function.comp_def]

section
variable {s : State} {n v : Nat} {t : VTask}

/-- Without a VTASKS operation, a unit of the activation store reads as it stands. -/
theorem State.readUnit_act (hvop : s.vop n = none) (a : Nat) :
    s.readUnit n v t false a = (.ok (s.mem.bytes ((Space.act (v / 864)).key a) 64), s) := by
  simp only [State.readUnit, State.peekOutside, Bool.false_eq_true, if_false, hvop, List.isEmpty_nil, if_true]

theorem State.readUnits_act (hvop : s.vop n = none) {k a : Nat} (ha : a + 64 * k ≤ spaceSize) :
    s.readUnits n v t false k a = (.ok (s.mem.bytes ((Space.act (v / 864)).key a) (64 * k)), s) := by
  induction k generalizing a with
  | zero => rfl
  | succ k ih =>
    have hrest : s.mem.bytes ((Space.act (v / 864)).key (a + 64)) (64 * k) =
        s.mem.bytes ((Space.act (v / 864)).key a + 64) (64 * k) := by
      rcases Nat.eq_zero_or_pos k with rfl | hk
      · simp only [Nat.mul_zero, Mem.bytes, List.range_zero, List.map_nil]
      · rw [Space.key_add _ (by omega)]
    simp only [State.readUnits, State.readUnit_act hvop, ih (show a + 64 + 64 * k ≤ spaceSize by omega), hrest]
    rw [Nat.mul_succ, Nat.add_comm (64 * k) 64, Mem.bytes_add]

@[simp] theorem State.updOp_mem (s : State) (n : Nat) (f : VOp → VOp) : (s.updOp n f).mem = s.mem := rfl

/-- A write of units to the activation store puts its bytes there. -/
theorem State.writeUnits_act_mem (s : State) (n v : Nat) (t : VTask) (a : Nat) (bs : List Byte) :
    (s.writeUnits n v t false a bs).mem = s.mem.putList ((Space.act (v / 864)).key a) bs := rfl

end

/-- Where the local store did not change since the issue, an XOUT moves the bytes held. -/
theorem State.xoutBytes_unchanged {s : State} {v : Nat} {x : Transfer} (h : s.lsBytes v x.ls x.len = x.held) :
    s.xoutBytes v x = x.held := by
  rw [State.xoutBytes, h]
  exact List.ext_getElem (by simp) fun k hk _ => by simp

/-! TRANSFER_COMPLETE -/

section
variable {s : State} {v k : Nat} {t : VTask} {x : Transfer} (ht : s.task v = some t) (hw : t.wait = .none)
  (hx : t.transfers[k]? = some x) (hact : x.inStand = false)
include ht hw hx hact

/-- An XOUT to the activation store completes with its units written. -/
theorem exec_transferComplete_out (hout : x.out = true) : exec (.transferComplete v k) s =
    .next ((State.writeUnits { s with freeCtr := s.freeCtr + 1 } t.stand v t false x.addr (s.xoutBytes v x)).setTask v
      (some { t with transfers := listRemove t.transfers k })) := by
  change execTransferComplete v k s = _
  simp only [execTransferComplete, ht, hx, State.transferWindow, hact, hout, Bool.false_eq_true, if_false, if_true]
  rw [State.settle_setTask]
  exact hw

/-- An XIN from the activation store lands with the bytes that stand there. -/
theorem exec_transferComplete_in (hin : x.out = false) (hlen : x.len % 64 = 0) (hvop : s.vop t.stand = none)
    (hspace : x.addr + x.len ≤ spaceSize) : exec (.transferComplete v k) s =
    .next (s.setTask v (some { t with
      transfers := listRemove t.transfers k,
      landed := t.landed ++ [(x.tag, x.ls, s.mem.bytes ((Space.act (v / 864)).key x.addr) x.len)] })) := by
  have hunits : 64 * (x.len / 64) = x.len := by omega
  have hread := State.readUnits_act (v := v) (t := t) hvop (k := x.len / 64) (a := x.addr) (by rwa [hunits])
  rw [hunits] at hread
  change execTransferComplete v k s = _
  simp only [execTransferComplete, ht, hx, State.transferWindow, hact, hin, Bool.false_eq_true, if_false, Bool.not_true,
    hread]
  rw [State.settle_setTask]
  exact hw

end

/-- Settles O17: an XIN or XOUT is refused, made to wait or issued by the checks of R86, and a transfer with the
activation store completes with its bytes moved as one write or one read. -/
theorem chisynTransfers : Obligations.ChisynTransfers := by
  refine ⟨?_, fun s v k t x hm ht hw hx hact hspace => ⟨fun hout hheld hsame => ?_, fun hin hlen hvop => ?_⟩⟩
  · rintro s v i t out x rfl
    simp only [exec_transfer]
    refine ⟨fun h hok => ⟨fun hroom => ?_, fun hfull => ?_⟩, fun h hbad => ?_,
      fun h => ⟨fun hbusy => ?_, fun hidle hlanded => ?_⟩⟩
    · rw [State.vtransfer_issued h hok hroom]
      rfl
    · exact congrArg Host.Outcome.next (State.vtransfer_waits h hok hfull)
    · exact congrArg Host.Outcome.next (State.vtransfer_bad h hbad)
    · rw [exec_vXwait h, State.settle_tag_busy (k := (maskNum i.dst).toNat) (State.task_setTask_self ..)]
      case hw => rfl
      case hbusy => exact hbusy
    · exact ⟨_, exec_vXwait_idle h hidle hlanded, State.task_setTask_self .., rfl⟩
  · rw [exec_transferComplete_out ht hw hx hact hout, State.xoutBytes_unchanged hsame]
    refine ⟨_, rfl, ?_, fun a ha => ?_, State.task_setTask_self ..⟩
    · rw [← hheld]
      exact Mem.bytes_putList hm _
    · exact Mem.byte_putList_frame hm (by rwa [hheld])
  · exact ⟨_, exec_transferComplete_in ht hw hx hact hin hlen hvop hspace, rfl, State.task_setTask_self ..⟩

/-! Atomics (R87) -/

section
variable {s : State} {v : Nat} {i : VWord} {t : VTask} {isMax : Bool}

theorem exec_atomic (s : State) (v : Nat) (i : VWord) (isMax : Bool) :
    exec (if isMax then .vAmax v i else .vAadd v i) s = .next (s.vatomic v i isMax) := by
  cases isMax <;> rfl

/-- An atomic whose word is aligned and may be written joins the outstanding ones. -/
theorem State.vatomic_issued (hi : i.type = 0 ∨ i.type = 2) (h : Issues s v (xs [i.src1, i.src2]) t)
    (haligned : (t.xreg i.src1).toNat % 4 = 0)
    (hok : s.outsideOk t.stand (immBits i 0 1 == 1) true (t.xreg i.src1).toNat 4 = true) :
    s.vatomic v i isMax = s.setTask v (some { t with
      atomics := t.atomics ++ [{ isMax := isMax, int := i.type == 2, addr := (t.xreg i.src1).toNat,
                                 inStand := immBits i 0 1 == 1, operand := (t.xreg i.src2).toNat % 2 ^ 32 }],
      pc := t.pc + 1 }) := by
  rw [State.vatomic, State.vrun_ready h (by simpa using hi)]
  exact if_neg (by simp [haligned, hok])

/-- An atomic on the activation store is applied by a write of its word. -/
theorem State.applyAtomic_act {n : Nat} {x : VAtomic} (hact : x.inStand = false) :
    s.applyAtomic n v x = ({ s with
      mem := s.mem.putList ((Space.act (v / 864)).key x.addr)
        (toBytes 4 (x.apply (ofBytes (s.mem.bytes ((Space.act (v / 864)).key x.addr) 4)))) }, true) := by
  simp only [State.applyAtomic, State.peekOutside, State.pokeOutside, hact, Bool.false_eq_true, if_false]

theorem exec_vectorAtomicApply {k : Nat} {x : VAtomic} (ht : s.task v = some t) (hw : t.wait = .none)
    (hx : t.atomics[k]? = some x) (hact : x.inStand = false)
    (hfirst : ∀ y ∈ t.atomics.take k, y.addr ≠ x.addr ∨ y.inStand ≠ x.inStand) :
    exec (.vectorAtomicApply v k) s = .next ((s.applyAtomic t.stand v x).1.setTask v
      (some { t with atomics := listRemove t.atomics k })) := by
  have hnone : (t.atomics.take k).any (fun y => y.addr == x.addr && y.inStand == x.inStand) = false := by
    rw [List.any_eq_false]
    intro y hy hsame
    rw [Bool.and_eq_true, beq_iff_eq, beq_iff_eq] at hsame
    exact (hfirst y hy).elim (absurd hsame.1) (absurd hsame.2)
  change execVectorAtomicApply v k s = _
  simp only [execVectorAtomicApply, ht, hx, hnone, State.applyAtomic_act hact, Bool.true_or, Bool.false_eq_true,
    if_false, if_true]
  rw [State.settle_setTask]
  exact hw

end

/-- Settles O18: an atomic that passes the checks joins its task's list, and the first to its word is applied by one
write of that word. -/
theorem chisynAtomics : Obligations.ChisynAtomics := by
  intro s v i t isMax
  refine ⟨fun hi h haligned hok => ?_, fun k x hm ht hw hx hact _ hfirst => ?_⟩
  · rw [exec_atomic, State.vatomic_issued hi h haligned hok]
  · rw [exec_vectorAtomicApply ht hw hx hact hfirst, State.applyAtomic_act hact]
    refine ⟨_, rfl, ?_, fun a ha => ?_, State.task_setTask_self ..⟩
    · exact Mem.bytes_putList (bs := toBytes 4 _) hm _
    · exact Mem.byte_putList_frame hm (by rwa [length_toBytes])

end Sys2Proof.Machine
end

section
/-! Proofs: the end, the faults and the start of tasks (04_vector_cores.md R82, R93-R99). -/

namespace Sys2Proof.Machine

open Sys2Proof

/-! Operations that leave the cores as they are -/

theorem State.task_eq_of_cores_eq {s t : State} (h : t.cores = s.cores) (u : Nat) : t.task u = s.task u := by
  simp only [State.task, State.core, h]

theorem State.flagError_cores {s : State} {f : Field} {i : Nat} {context : State → State}
    (h : (context s).cores = s.cores) : (s.flagError f i context).cores = s.cores := by
  simp only [State.flagError, State.setFld_cores]
  split
  · exact h
  · rfl

@[simp] theorem State.flagUnmapped_cores (s : State) (n a : Nat) : (s.flagUnmapped n a).cores = s.cores :=
  State.flagError_cores rfl

@[simp] theorem State.flagRemote_cores (s : State) (n a len : Nat) : (s.flagRemote n a len).cores = s.cores := by
  unfold State.flagRemote
  split
  · rfl
  · split
    · rfl
    · exact State.flagError_cores rfl

@[simp] theorem State.putByte_cores (s : State) (n a : Nat) (b : Byte) : (s.putByte n a b).cores = s.cores := by
  unfold State.putByte
  split
  · rfl
  · split
    · rfl
    · simp only []
      split <;> rfl

@[simp] theorem State.putBytes_cores (s : State) (n a : Nat) (bs : List Byte) :
    (s.putBytes n a bs).cores = s.cores := by
  induction bs generalizing s a with
  | nil => rfl
  | cons b bs ih => rw [State.putBytes, ih, State.putByte_cores]

@[simp] theorem State.standWrite_cores (s : State) (n a : Nat) (bs : List Byte) :
    (s.standWrite n a bs).cores = s.cores := by
  unfold State.standWrite
  split <;> simp

@[simp] theorem State.updOp_cores (s : State) (n : Nat) (f : VOp → VOp) : (s.updOp n f).cores = s.cores := rfl

@[simp] theorem State.pokeOutside_cores (s : State) (n v : Nat) (inStand : Bool) (a : Nat) (bs : List Byte) :
    (s.pokeOutside n v inStand a bs).cores = s.cores := by
  unfold State.pokeOutside
  split
  · exact State.standWrite_cores ..
  · rfl

@[simp] theorem State.writeUnits_cores (s : State) (n v : Nat) (t : VTask) (inStand : Bool) (a : Nat) (bs : List Byte) :
    (s.writeUnits n v t inStand a bs).cores = s.cores := State.pokeOutside_cores ..

@[simp] theorem State.applyAtomic_cores (s : State) (n v : Nat) (x : VAtomic) :
    (s.applyAtomic n v x).1.cores = s.cores := by
  unfold State.applyAtomic
  split
  · exact State.pokeOutside_cores ..
  · rfl

/-- What a task leaves outstanding reaches no core (log 17). -/
@[simp] theorem State.leftovers_cores (s : State) (v : Nat) (t : VTask) : (s.leftovers v t).cores = s.cores := by
  unfold State.leftovers
  refine (State.foldl_keeps (g := State.cores) (fun s x => ?_) _ _).trans
    (State.foldl_keeps (g := State.cores) (fun s u => ?_) _ _)
  · simp only []
    split
    · rfl
    · exact State.applyAtomic_cores ..
  · simp only []
    split
    · rfl
    · exact State.writeUnits_cores ..

@[simp] theorem State.rest_cores (s : State) (u : PowerUnit) : (s.rest u).cores = s.cores := by
  unfold State.rest
  split <;> rfl

@[simp] theorem State.writeStatus_cores (s : State) (n : Nat) (op : VOp) (i status : Nat) :
    (s.writeStatus n op i status).cores = s.cores := by
  unfold State.writeStatus
  split
  · rfl
  · exact State.standWrite_cores ..

/-! Self-tests keep the tasks -/

/-- Entries of a sparse table changed without their keys. -/
theorem SMap.get?_map {α β : Type} {m : SMap α} {h : Nat × α → Nat × β} (hkey : ∀ e, (h e).1 = e.1) (i : Nat) :
    SMap.get? (m.map h) i = (m.get? i).map (fun x => (h (i, x)).2) := by
  induction m with
  | nil => rfl
  | cons e m ih =>
    obtain ⟨k, x⟩ := e
    have hcons : SMap.get? ((h (k, x)) :: m.map h) i =
      if (h (k, x)).1 = i then some (h (k, x)).2 else SMap.get? (m.map h) i := rfl
    rw [List.map_cons, hcons, hkey, ih, SMap.get?]
    split
    · subst ‹k = i›
      rfl
    · rfl

/-- The local stores of a grove under test lose their kernels' code and no task. -/
@[simp] theorem State.task_testWipe (s : State) (g u : Nat) : (s.testWipe g).task u = s.task u := by
  have hkernels : ∀ w : SMap VCore, ((SMap.get? (w.map (fun e =>
      if e.1 / 3456 = g then (e.1, { e.2 with kernel := none }) else e)) u).getD {}).task =
      ((w.get? u).getD {}).task := fun w => by
    rw [SMap.get?_map (fun e => by split <;> rfl)]
    cases w.get? u with
    | none => rfl
    | some x =>
      simp only [Option.map_some, Option.getD_some]
      split <;> rfl
  cases hsram : s.tests.sram <;> simp only [State.testWipe, hsram, if_true, Bool.false_eq_true, if_false]
  · split <;> rfl
  · split <;> exact hkernels s.cores

@[simp] theorem State.task_testBoundary (s : State) (n u : Nat) : (s.testBoundary n).task u = s.task u := by
  unfold State.testBoundary
  simp only []
  split
  · rfl
  · exact State.foldl_keeps (g := (State.task · u)) (fun s g => State.task_testWipe s g u) _ _

@[simp] theorem State.task_testIdle (s : State) (n u : Nat) : (s.testIdle n).task u = s.task u := by
  unfold State.testIdle
  split
  · exact State.task_testBoundary ..
  · rfl

/-! The end of a task (R93, R94, R96, R98) -/

theorem State.task_setTask (s : State) (v u : Nat) (t : Option VTask) :
    (s.setTask v t).task u = if u = v then t else s.task u := by
  split
  · subst ‹u = v›
    exact State.task_setTask_self ..
  · simp only [State.task, State.core_setTask_ne ‹u ≠ v›]

/-- The end of a task frees its core and keeps every other core's task. -/
theorem State.task_endTask (s : State) (v u : Nat) (t : VTask) (status : Nat) :
    (s.endTask v t status).task u = if u = v then none else s.task u := by
  have hfreed : ∀ w : State, w.cores = ((s.leftovers v t).setTask v none).cores →
      w.task u = if u = v then none else s.task u :=
    fun w hw => by
      rw [State.task_eq_of_cores_eq hw, State.task_setTask, State.task_eq_of_cores_eq (State.leftovers_cores s v t)]
  simp only [State.endTask, State.draw]
  split
  · rw [State.task_testIdle]
    refine hfreed _ ?_
    simp only [State.takeService, State.updStand_cores, State.account, State.addFld_cores, State.rest_cores]
    rfl
  · split
    · refine hfreed _ ?_
      simp only [State.account, State.addFld_cores, State.rest_cores]
      rfl
    · refine hfreed _ ?_
      simp only [State.updOp_cores, State.writeStatus_cores, State.account, State.addFld_cores, State.rest_cores]
      rfl

/-! END (R96) -/

section
variable {s : State} {v status : Nat} {t : VTask} (ht : s.task v = some t) (hw : t.wait = .ending status)
include ht hw

/-- A task that executed END ends once nothing of it is outstanding. -/
theorem State.settle_ending_done (htransfers : t.transfers = []) (hatomics : t.atomics = []) (hfab : t.fabOut = 0) :
    s.settle v = s.endTask v t status := by
  simp [State.settle, ht, hw, htransfers, hatomics, hfab]

theorem State.settle_ending_waits (hbusy : t.transfers ≠ [] ∨ t.atomics ≠ [] ∨ t.fabOut ≠ 0) : s.settle v = s := by
  have hnot : (t.transfers.isEmpty && t.atomics.isEmpty && t.fabOut == 0) = false := by
    rcases hbusy with h | h | h <;> simp [h]
  simp only [State.settle, ht, hw, hnot, Bool.false_eq_true, if_false]

end

/-- END with a status of success or of the kernel's own waits for what is outstanding. -/
theorem exec_chisynEnd {s : State} {v : Nat} {i : VWord} {t : VTask} (ht : s.task v = some t) (hw : t.wait = .none)
    (hstatus : immBits i 0 16 = 0 ∨ 0x8000 ≤ immBits i 0 16) : exec (.chisynEnd v i) s =
    .next ((s.setTask v (some { t with wait := .ending (immBits i 0 16) })).settle v) := by
  change execChisynEnd v i s = _
  rw [execChisynEnd, State.vrun_ready (uses := []) ⟨ht, hw, fun r hr => absurd hr List.not_mem_nil⟩ rfl]
  simp only [hstatus, if_true]

/-! Faults of tasks and cores (R98, R99) -/

section
variable {s : State} {v : Nat} {t : VTask} (ht : s.task v = some t)
include ht

theorem exec_taskTimeout :
    exec (.taskTimeout v) s = .next (s.taskFault v t Fld.VEC_ERROR_TASK_TIMEOUT 0x0003 0x35) := by
  change execTaskTimeout v s = _
  simp only [execTaskTimeout, ht]

theorem exec_lsUncorrectable :
    exec (.lsUncorrectable v) s = .next (s.taskFault v t Fld.VEC_ERROR_LS_POISONED 0x0004 0x36) := by
  change execLsUncorrectable v s = _
  simp only [execLsUncorrectable, ht]

end

/-- Two searches of a list whose tests agree on its elements find the same. -/
theorem find?_eq_of_agree {α : Type} {p q : α → Bool} {l : List α} (h : ∀ x ∈ l, p x = q x) :
    l.find? p = l.find? q := by
  induction l with
  | nil => rfl
  | cons x l ih =>
    obtain ⟨hx, hl⟩ := List.forall_mem_cons.1 h
    rw [List.find?_cons, List.find?_cons, hx, ih hl]

/-- The stand of a grove is read from GLB_STAND alone. -/
theorem State.groveStand_congr {s u : State} (h : ∀ n < 24, u.reg .GLB_STAND 0 n = s.reg .GLB_STAND 0 n) (g : Nat) :
    u.groveStand g = s.groveStand g := by
  refine find?_eq_of_agree fun n hn => ?_
  have hn := h n (List.mem_range.1 hn)
  simp only [State.standValid, State.groves, State.layout, State.fld, Fld.GLB_STAND_VALID, Fld.GLB_STAND_GROVES, hn]

/-- VEC_CORE_MASK stands above GLB_STAND, so a core that leaves service moves no grove. -/
theorem State.groveStand_setFld_coreMask (s : State) (c j x g : Nat) :
    (s.setFld Fld.VEC_CORE_MASK_OUT c j x).groveStand g = s.groveStand g := by
  refine State.groveStand_congr (fun n hn => State.reg_setFld_ne ?_) g
  simp only [Fld.VEC_CORE_MASK_OUT, Reg.addr, Reg.info]
  omega

/-- A fault in a core of a stand takes the core out of service, is recorded, and ends its task. -/
theorem exec_vcoreFault {s : State} {v n : Nat} {t : VTask} (ht : s.task v = some t) (hv : v < 82944)
    (hin : s.coreInService v = true) (hn : s.groveStand (v / 864 / 4) = some n) :
    exec (.vcoreFault v) s = .next (((s.setFld Fld.VEC_CORE_MASK_OUT (v / 864) (v % 864 / 64)
      (s.fld Fld.VEC_CORE_MASK_OUT (v / 864) (v % 864 / 64) ||| 2 ^ (v % 864 % 64))).event
        ⟨0x0104, some n, v / 864 / 16, v / 864 % 16, [v]⟩).taskFault v t Fld.VEC_ERROR_VCORE_FAILED 0x0005 0x37) := by
  have htask : ∀ x, (s.setFld Fld.VEC_CORE_MASK_OUT (v / 864) (v % 864 / 64) x).task v = some t := fun _ => ht
  change execVcoreFault v s = _
  simp only [execVcoreFault, hv, hin, and_self, if_true, htask, State.groveStand_setFld_coreMask, hn]

/-! The placement of tasks (R93, R94) -/

section
variable {s : State} {n : Nat} {op : VOp} {d : List Byte} (hop : s.vop n = some op) (hnext : op.next < op.count)
  (hpeek : s.peek n (op.table + 32 * op.next) 32 = .ok d) (hd : d ≠ []) (hvalid : s.descriptorValid n d = true)
include hop hnext hpeek hd hvalid

/-- A valid descriptor whose scope has no free core waits. -/
theorem State.placeNext_waits (hcore : s.lowestFreeCore n
      (if bits (le d 0 8) 12 1 = 1 then (s.dieOrder n)[bits (le d 0 8) 13 3]? else none) = none) :
    s.placeNext n = (s, false) := by
  simp only [State.placeNext, hop, Nat.not_le.2 hnext, hpeek, List.isEmpty_iff, hd, hvalid, Bool.not_true,
    Bool.false_eq_true, or_self, if_false, hcore]

/-- Otherwise the lowest free core of its scope, if clocked, starts the task. -/
theorem State.placeNext_starts {v : Nat} (hcore : s.lowestFreeCore n
      (if bits (le d 0 8) 12 1 = 1 then (s.dieOrder n)[bits (le d 0 8) 13 3]? else none) = some v)
    (hclocked : s.power.clocked (.vector v) = true) : s.placeNext n =
    ((s.startTask n v op.next d false).updOp n (fun op => { op with next := op.next + 1 }), true) := by
  simp only [State.placeNext, hop, Nat.not_le.2 hnext, hpeek, List.isEmpty_iff, hd, hvalid, Bool.not_true,
    Bool.false_eq_true, or_self, if_false, hcore, hclocked]

end

/-! The start of a task (R82, Table 4.1) -/

/-- The task that starts with descriptor `d`. -/
def startedTask (n index : Nat) (d : List Byte) (service : Bool) (serial : Nat) : VTask :=
  { stand := n, index := index, kernel := bits (le d 0 8) 0 12, seqValid := bits (le d 0 8) 16 1 == 1, seq := le d 4 4,
    service := service, serial := serial,
    x := [(1, BitVec.ofNat 64 index), (2, BitVec.ofNat 64 (le d 4 4)), (3, BitVec.ofNat 64 (le d 16 8)),
          (4, BitVec.ofNat 64 (le d 24 8))] }

theorem State.startTask_cores (s : State) (n v index : Nat) (d : List Byte) (service : Bool) :
    (s.startTask n v index d service).cores = s.cores.set v
      ⟨some (n, bits (le d 0 8) 0 12), some (startedTask n index d service s.taskCount)⟩ := by
  by_cases hkernel : (s.core v).kernel = some (n, bits (le d 0 8) 0 12)
  · simp only [State.startTask, if_pos hkernel]
    rfl
  · simp only [State.startTask, if_neg hkernel]
    rfl

theorem State.task_startTask (s : State) (n v index : Nat) (d : List Byte) (service : Bool) :
    (s.startTask n v index d service).task v = some (startedTask n index d service s.taskCount) := by
  simp only [State.task, State.core, State.startTask_cores, SMap.get?_set_self, Option.getD_some]

section
variable {n index serial : Nat} {d : List Byte} {service : Bool}

/-- A started task's X registers but X1 to X4 are 0. -/
theorem xreg_startedTask_rest {r : BitVec 5} (h1 : r ≠ 1) (h2 : r ≠ 2) (h3 : r ≠ 3) (h4 : r ≠ 4) :
    (startedTask n index d service serial).xreg r = 0 := by
  have hnum : ∀ q : BitVec 5, r ≠ q → ¬ q.toNat = r.toNat := fun q hq he => hq (BitVec.eq_of_toNat_eq he.symm)
  have h1 : ¬ 1 = r.toNat := hnum 1 h1
  have h2 : ¬ 2 = r.toNat := hnum 2 h2
  have h3 : ¬ 3 = r.toNat := hnum 3 h3
  have h4 : ¬ 4 = r.toNat := hnum 4 h4
  simp only [VTask.xreg, startedTask, SMap.get?, h1, h2, h3, h4, if_false, Option.getD_none, ite_self]

theorem mreg_startedTask {r : BitVec 3} (h : r ≠ 0) : (startedTask n index d service serial).mreg r = 0 := if_neg h

end

/-- Settles O20: END and the faults end a task through `State.endTask`, which frees its core alone; TASK_PLACE starts
the next task of the table on the lowest free core of its scope, with the registers of `startedTask`. -/
theorem taskEnds : Obligations.TaskEnds := by
  refine ⟨fun s v t ht => ⟨fun i hstatus hw => ⟨fun htransfers hatomics hfab => ?_, fun hbusy => ?_⟩,
      exec_taskTimeout ht, exec_lsUncorrectable ht, fun n hv hin hn => exec_vcoreFault ht hv hin hn⟩,
    fun s v t status => ⟨?_, fun u hu => ?_⟩, ?_, fun s n v index d service => ?_⟩
  · rw [exec_chisynEnd ht hw hstatus, State.settle_ending_done (State.task_setTask_self ..)]
    case hw => rfl
    case htransfers => exact htransfers
    case hatomics => exact hatomics
    case hfab => exact hfab
  · rw [exec_chisynEnd ht hw hstatus, State.settle_ending_waits (status := immBits i 0 16) (State.task_setTask_self ..)]
    case hw => rfl
    case hbusy => exact hbusy
  · rw [State.task_endTask, if_pos rfl]
  · rw [State.task_endTask, if_neg hu]
  · rintro s n op d hop hnext hpeek hd hvalid die rfl
    refine ⟨fun hcore => ?_, fun v hcore hclocked => ?_⟩
    · change Host.Outcome.next ((s.placeNext n).1.placeService n).1 = _
      rw [State.placeNext_waits hop hnext hpeek hd hvalid hcore]
    · change Host.Outcome.next ((s.placeNext n).1.placeService n).1 = _
      rw [State.placeNext_starts hop hnext hpeek hd hvalid hcore hclocked]
  · exact ⟨_, s.task_startTask n v index d service, rfl, rfl, rfl, rfl, rfl, rfl, rfl, fun r => xreg_startedTask_rest,
      fun r => rfl, fun r => mreg_startedTask⟩

end Sys2Proof.Machine
end

section
/-! Proofs: grammar masks (04_vector_cores.md R101). -/

namespace Sys2Proof.Machine

open Sys2Proof

/-- The vocabulary of a request's model on stand `n`. -/
def State.vocabOf (s : State) (n : Nat) (r : Request) : Nat :=
  (((s.stand n).cfg.models.get? r.model).map (·.vocab)).getD 0

/-- Bit `t` of a grammar mask. -/
def allowsToken (m : List Byte) (t : Nat) : Bool := (m.getD (t / 8) 0).toNat.testBit (t % 8)

section
variable {s : State} {n id : Nat} {r : Request} {b : List Byte} (hawaits : s.awaitsMask n id = some r)
include hawaits

/-- A mask of another position changes nothing. -/
theorem exec_maskRead_other (hposition : le b 0 4 ≠ s.nextPosition n id) :
    exec (.maskRead n id (.data b)) s = .next s := by
  change execMaskRead n id (.data b) s = _
  simp only [execMaskRead, hawaits, hposition, ne_eq, not_false_eq_true, or_true, if_true]

/-- The end of the wait withholds the token. -/
theorem exec_maskWaitExpiry : exec (.maskWaitExpiry n id) s = .next (s.withhold n id .maskLate) := by
  change execMaskWaitExpiry n id s = _
  simp only [execMaskWaitExpiry, hawaits, Option.isSome_some, if_true]

variable (hreach : s.hostReach (.vf n) = true) (hposition : le b 0 4 = s.nextPosition n id)
include hreach hposition

/-- A mask of another vocabulary withholds the token. -/
theorem exec_maskRead_invalid (hvocab : le b 4 4 ≠ s.vocabOf n r) :
    exec (.maskRead n id (.data b)) s = .next (s.withhold n id .maskInvalid) := by
  unfold State.vocabOf at hvocab
  change execMaskRead n id (.data b) s = _
  simp [execMaskRead, hawaits, hreach, hposition, hvocab]

/-- A mask of the awaited position and vocabulary is applied just where it allows a token of the vocabulary. -/
theorem exec_maskRead_awaited (hvocab : le b 4 4 = s.vocabOf n r) : exec (.maskRead n id (.data b)) s =
    .next (if ∃ t < s.vocabOf n r, allowsToken (sub b 64 (ceilDiv (s.vocabOf n r) 8)) t = true then
        s.updStep n (fun st => { st with masks := st.masks.set id (sub b 64 (ceilDiv (s.vocabOf n r) 8)) })
      else s.withhold n id .grammarEmpty) := by
  have hany : ∀ m, (List.range (s.vocabOf n r)).any (allowsToken m) = true ↔
      ∃ t < s.vocabOf n r, allowsToken m t = true := fun m => by simp only [List.any_eq_true, List.mem_range]
  simp only [← hany]
  unfold State.vocabOf at hvocab
  change execMaskRead n id (.data b) s = _
  simp only [execMaskRead, hawaits, hreach, hposition, hvocab, Bool.not_true, Bool.false_eq_true, ne_eq,
    not_true_eq_false, or_self, if_false]
  rfl

end

/-- Settles O23: MASK_READ judges the position first, then the vocabulary, then whether the mask allows a token. -/
theorem grammarMasks : Obligations.GrammarMasks := by
  rintro s n id vocab r b hawaits hreach rfl
  refine ⟨exec_maskRead_other hawaits, exec_maskRead_invalid hawaits hreach, fun hposition hvocab hempty => ?_,
    fun t hposition hvocab ht hallowed => ?_, exec_maskWaitExpiry hawaits⟩
  · rw [exec_maskRead_awaited hawaits hreach hposition hvocab, if_neg]
    rintro ⟨t, ht, hallowed⟩
    exact absurd hallowed (by rw [allowsToken, State.vocabOf, hempty t ht]; decide)
  · rw [exec_maskRead_awaited hawaits hreach hposition hvocab, if_pos ⟨t, ht, hallowed⟩]
    rfl

end Sys2Proof.Machine
end

section
/-! Proofs: the pool of attention state (05_attention_state.md R104, R105). -/

namespace Sys2Proof.Machine

open Sys2Proof

/-! The write of KVM_POOL -/

/-- What a write is told to keep matters for the register's own fields alone. -/
theorem Reg.written_of_disjoint {r : Reg} {keep : List Field} (h : ∀ f ∈ r.fields, keep.contains f = false)
    (old v : Nat) : r.written keep old v = r.written [] old v :=
  List.foldl_rel (r := Eq) rfl fun f hf _ _ hw => by rw [hw, h f hf, List.contains_nil]

/-- No field of KVM_POOL beside ENABLE has a row of its own. -/
theorem kvmPool_fields_own : ∀ f ∈ Reg.KVM_POOL.fields,
    (rowFields.filter (fun x => !([Fld.KVM_POOL_ENABLE] : List Field).contains x)).contains f = false := by
  decide

/-- A row that owns ENABLE writes every field of KVM_POOL. -/
theorem State.writeRow_kvmPool {s : State} {f : Fn} {n v : Nat} (hfull : s.right f .KVM_POOL n 0 = .full)
    (hv : Reg.KVM_POOL.writeAdmits v = true) :
    s.writeRow f .KVM_POOL n 0 [Fld.KVM_POOL_ENABLE] v = some (s.rowWritten .KVM_POOL n v) := by
  rw [State.writeRow_full hfull hv, State.writeBy_full hfull (State.areaBusy_eq_false (by decide) (by decide) s n)
    (by decide), if_pos hv, Reg.written_of_disjoint kvmPool_fields_own, State.rowWritten]

@[simp] theorem State.stand_rowWritten (s : State) (r : Reg) (n v m : Nat) :
    (s.rowWritten r n v).stand m = s.stand m := rfl

/-! POOL_ENABLE and POOL_DISABLE -/

section
variable {s t : State} {f : Fn} {n v : Nat} (hfull : s.right f .KVM_POOL n 0 = .full)
  (hv : Reg.KVM_POOL.writeAdmits v = true)
include hfull hv

section
variable (hset : v.testBit 48 = true) (hoff : s.flag Fld.KVM_POOL_ENABLE n = false)
  (ht : t = s.rowWritten .KVM_POOL n v)
include hset hoff ht

/-- A descriptor that passes its checks goes into use, or waits for the step boundary. -/
theorem exec_poolEnable_passes {p : Pool} (hread : t.readPool n (t.fld Fld.KVM_POOL_ADDR n) = some p)
    (hok : t.poolOk n p = true) : exec (.poolEnable f n v) s = .next (if (t.stand n).step.isSome then
        t.updStand n (fun st => { st with kv := { st.kv with enabling := some p } }) else t.poolStart n p) := by
  change execPoolEnable f n v s = _
  simp only [execPoolEnable, hset, State.writeRow_kvmPool hfull hv, hoff, ← ht, hread, hok, if_true,
    Bool.false_eq_true, if_false]

/-- A descriptor that cannot be read, or fails a check, leaves ENABLE at 0. -/
theorem exec_poolEnable_fails
    (hbad : ∀ p, t.readPool n (t.fld Fld.KVM_POOL_ADDR n) = some p → t.poolOk n p = false) :
    exec (.poolEnable f n v) s =
      .next ((t.setFld Fld.KVM_POOL_ENABLE n 0 0).flagKv Fld.KVM_ERROR_POOL_INVALID n noSeq 0 0) := by
  change execPoolEnable f n v s = _
  simp only [execPoolEnable, hset, State.writeRow_kvmPool hfull hv, hoff, ← ht, if_true, Bool.false_eq_true, if_false]
  split
  case h_1 p hread => rw [hbad p hread, if_neg Bool.false_ne_true]
  case h_2 => rfl

end

/-- The pool in use stops, or waits for the step boundary; an enable that waited is dropped. -/
theorem exec_poolDisable_inUse (hclear : v.testBit 48 = false) (hon : s.flag Fld.KVM_POOL_ENABLE n = true)
    (huse : (s.stand n).kv.pool.isSome = true)
    (ht : t = (s.rowWritten .KVM_POOL n v).updStand n (fun st => { st with kv := { st.kv with enabling := none } })) :
    exec (.poolDisable f n v) s = .next (if (s.stand n).step.isSome then
        t.updStand n (fun st => { st with kv := { st.kv with disabling := true } }) else t.poolStop n) := by
  have hstep : (t.stand n).step = (s.stand n).step := by simp only [ht, State.stand_updStand_self, State.stand_rowWritten]
  have hpool : (t.stand n).kv.pool.isNone = false := by
    simp only [ht, State.stand_updStand_self, State.stand_rowWritten, Option.isNone_eq_false_iff, huse]
  change execPoolDisable f n v s = _
  simp only [execPoolDisable, hclear, State.writeRow_kvmPool hfull hv, hon, ← ht, hpool, hstep, Bool.not_true,
    Bool.false_eq_true, if_false]

end

/-! POOL_REBUILD_DONE -/

theorem exec_poolRebuildDone_rebuilding {s : State} {n : Nat} {p : Pool} (hpool : (s.stand n).kv.pool = some p)
    (hrebuilding : (s.stand n).kv.rebuilding = true) : exec (.poolRebuildDone n) s =
      .next ((((s.rebuild n p).updStand n (fun st =>
        { st with kv := { st.kv with rebuilding := false } })).registerPartial n p).kvSettle n) := by
  change execPoolRebuildDone n s = _
  simp only [execPoolRebuildDone, hpool, hrebuilding, if_true]

/-- Settles O24: the write of KVM_POOL is made whole, and what follows is judged by the stand's step, which it leaves. -/
theorem poolLife : Obligations.PoolLife := by
  refine ⟨?_, ?_, fun s n p hpool hrebuilding => exec_poolRebuildDone_rebuilding hpool hrebuilding⟩
  · intro s t f n v hset hfull hv ht hoff
    refine ⟨fun p hread hok => ?_, exec_poolEnable_fails hfull hv hset hoff ht⟩
    have hexec := exec_poolEnable_passes hfull hv hset hoff ht hread hok
    refine ⟨fun hidle => ?_, fun hstep => ?_⟩
    · rw [hexec, hidle, if_neg (by decide)]
    · rw [hexec, if_pos hstep]
  · intro s t f n v hclear hfull hv hon huse ht
    have hexec := exec_poolDisable_inUse hfull hv hclear hon huse ht
    refine ⟨fun hidle => ?_, fun hstep => ?_⟩
    · rw [hexec, hidle, if_neg (by decide)]
    · rw [hexec, if_pos hstep]

end Sys2Proof.Machine
end

section
/-! Proofs: append records (05_attention_state.md R111, R112, R115). -/

namespace Sys2Proof.Machine

open Sys2Proof

/-! A record whose checks passed -/

section
variable {s : State} {n : Nat} {p : Pool} {a : AppendHeader}

/-- The group that a record of a sequence names. -/
def State.appendGroup (s : State) (n : Nat) (p : Pool) (a : AppendHeader) : KvGroup :=
  s.kvGroup n p (4 * (s.seqRecord n p a.seq).model + a.group)

/-- The heads that a record covers. -/
def AppendHeader.headList (a : AppendHeader) : List Nat := (List.range a.heads).map (a.head + ·)

/-- The sequences that have met KV_FULL in the step of stand `n`. -/
def State.fullSeqs (s : State) (n : Nat) : List Nat := ((s.stand n).step.map (·.kvFull)).getD []

/-- A sequence that met KV_FULL takes nothing more (R112). -/
theorem State.appendRecord_full (hfull : a.seq ∈ s.fullSeqs n) (data : List Byte) : s.appendRecord n p a data = s :=
  if_pos (List.contains_iff_mem.2 hfull)

variable (hroom : a.seq ∉ s.fullSeqs n)
include hroom

/-- A record elsewhere than its sequence's appends stand is refused (R115). -/
theorem State.appendRecord_elsewhere (helse : ∃ h ∈ a.headList, s.appendNext n p a h ≠ a.pos) (data : List Byte) :
    s.appendRecord n p a data = (s.markSeq n a.seq .segmentInvalid).flagKv Fld.KVM_ERROR_SEGMENT_INVALID n a.seq a.layer
      (s.appendGroup n p a).num := by
  have hany : a.headList.any (fun h => s.appendNext n p a h != a.pos) = true := by
    simpa only [List.any_eq_true, bne_iff_ne] using helse
  exact (if_neg (mt List.contains_iff_mem.1 hroom)).trans (if_pos hany)

/-- A record that stands next is written, and its sequence's appends stand behind it (R111). -/
theorem State.appendRecord_next (hnext : ∀ h ∈ a.headList, s.appendNext n p a h = a.pos) (data : List Byte) :
    s.appendRecord n p a data = (s.appendTokens n p a (s.appendGroup n p a) data a.count 0).updStep n (fun st =>
      { st with appendEnd := a.headList.foldl (fun m h => m.set (a.endKey h) (a.pos + a.count)) st.appendEnd }) := by
  have hany : ¬ a.headList.any (fun h => s.appendNext n p a h != a.pos) = true := by
    rw [List.any_eq_true]
    rintro ⟨h, hmem, hne⟩
    exact bne_iff_ne.1 hne (hnext h hmem)
  exact (if_neg (mt List.contains_iff_mem.1 hroom)).trans (if_neg hany)

end

/-! APPEND_RECORD -/

section
variable {s t : State} {v k : Nat} {task : VTask} {bs : List Byte} {p : Pool}
  (hout : s.windowOut v k .append = some (task, bs)) (ht : t = { s with freeCtr := s.freeCtr + 1 })
  (hpool : (s.stand task.stand).kv.pool = some p)
include hout ht hpool

/-- A record that fits the pool reaches it; one that does not ends its task with TASK_FAULT. -/
theorem exec_appendRecord_out : exec (.appendRecord v k) s =
    .next (if t.appendOk task.stand p (.ofBytes bs) bs.length then
        ((t.appendRecord task.stand p (.ofBytes bs) (bs.drop 64)).setTask v (some task)).settle v
      else (t.setTask v (some task)).illegal v task) := by
  have hpool' : (t.stand task.stand).kv.pool = some p := by rw [ht]; exact hpool
  change execAppendRecord v k s = _
  simp only [execAppendRecord, hout, ← ht, hpool']
  cases t.appendOk task.stand p (.ofBytes bs) bs.length <;> rfl

/-- What a record that fits the pool does is what it does to the pool. -/
theorem exec_appendRecord_fits {u : State} (hok : t.appendOk task.stand p (.ofBytes bs) bs.length = true)
    (hu : t.appendRecord task.stand p (.ofBytes bs) (bs.drop 64) = u) :
    exec (.appendRecord v k) s = .next ((u.setTask v (some task)).settle v) := by
  rw [exec_appendRecord_out hout ht hpool, if_pos hok, hu]

end

/-- Settles O25: the record is judged against the pool, then by whether its sequence met KV_FULL, then by where the
sequence's appends stand. -/
theorem appends : Obligations.Appends := by
  rintro s t v k task bs p hout ht hpool n a g hs rfl rfl rfl rfl
  have hfits := @exec_appendRecord_fits s t v k task bs p hout ht hpool
  refine ⟨fun hbad => ?_, fun hok hfull => hfits hok (State.appendRecord_full hfull _),
    fun hok hroom helse => hfits hok (State.appendRecord_elsewhere hroom helse _),
    fun hok hroom hnext => hfits hok (State.appendRecord_next hroom hnext _)⟩
  rw [exec_appendRecord_out hout ht hpool, hbad, if_neg Bool.false_ne_true]

end Sys2Proof.Machine
end

section
/-! Proofs: remote attention (05_attention_state.md R120-R124). -/

namespace Sys2Proof.Machine

open Sys2Proof

/-! REMOTE_REQUEST_SEND -/

section
variable {s t : State} {v k : Nat} {task : VTask} {bs : List Byte}
  (hout : s.windowOut v k .request = some (task, bs)) (ht : t = { s with freeCtr := s.freeCtr + 1 })
include hout ht

/-- A step's task asks the holder (R120). -/
theorem exec_remoteRequestSend_step {p : Pool} (hstep : task.service = false)
    (hpool : (s.stand task.stand).kv.pool = some p) : exec (.remoteRequestSend v k) s =
      .next (((t.sendRequest task.stand p bs).setTask v (some task)).settle v) := by
  have hpool' : (t.stand task.stand).kv.pool = some p := by rw [ht]; exact hpool
  change execRemoteRequestSend v k s = _
  simp only [execRemoteRequestSend, hout, ← ht, hstep, hpool', Bool.false_eq_true, if_false]

/-- A service task answers the request that it serves (R121). -/
theorem exec_remoteRequestSend_service {sv : Service} (hservice : task.service = true)
    (hserving : (s.stand task.stand).kv.serving.get? task.serial = some sv) : exec (.remoteRequestSend v k) s =
      .next (((t.respond sv bs).setTask v (some task)).settle v) := by
  have hserving' : (t.stand task.stand).kv.serving.get? task.serial = some sv := by rw [ht]; exact hserving
  change execRemoteRequestSend v k s = _
  simp only [execRemoteRequestSend, hout, ← ht, hservice, hserving', if_true]

end

/-! REMOTE_REQUEST_ARRIVE -/

/-- The service that a request record over a connection asks for. -/
def Service.ofRequest (conn : Nat) (bs : List Byte) : Service :=
  { conn := conn, key := le bs 32 8, gen := le bs 40 2, offset := le bs 42 6, words := sub bs 0 24 }

/-- A holder that runs no step queues the request behind those that wait, and offers free cores to all of them (R121). -/
theorem exec_remoteRequestArrive_idle {s : State} {n a len conn : Nat} {c : Conn} {bs : List Byte}
    (hconn : s.conn conn = some c) (hstand : c.stand = n) (hpeek : s.peek n a len = .ok bs) (hlen : 64 ≤ len)
    (hidle : (s.stand n).step = none) : exec (.remoteRequestArrive n a len conn) s =
      .next (State.placeServices n ((s.stand n).kv.waiting.length + 1) (s.updStand n (fun st =>
        { st with kv := { st.kv with waiting := st.kv.waiting ++ [Service.ofRequest conn bs] } }))) := by
  have htaken : ¬ (c.stand ≠ n ∨ len < 64 ∨ (s.stand n).step.isSome = true) := by
    simp only [hstand, hidle, Nat.not_lt.2 hlen, ne_eq, not_true_eq_false, Option.isSome_none, Bool.false_eq_true,
      or_self, not_false_eq_true]
  change execRemoteRequestArrive n a len conn s = _
  simp only [execRemoteRequestArrive, hconn, hpeek, if_neg htaken, State.stand_updStand_self, List.length_append,
    List.length_singleton, Service.ofRequest]

/-! REMOTE_RESPONSE -/

section
variable {s t : State} {n off : Nat} {p : Pool} {bs : List Byte} {rest : List (Nat × List Byte)}
  (hpool : (t.stand n).kv.pool = some p)
  (ht : t = s.updStand n (fun st => { st with kv := { st.kv with arrived := rest } }))
  (harrived : (s.stand n).kv.arrived = (off, bs) :: rest)
include hpool ht harrived

/-- The first response that arrived is applied to the request pending for it. -/
theorem exec_remoteResponse_pending {b : Nat} {r : RemotePending} (hpending : t.pendingFor n p off bs = some (b, r)) :
    exec (.remoteResponse n) s =
      .next ((t.standWrite n (p.partialAddr + off) bs).resolvePartial n b r (bits (le bs 24 8) 0 8)) := by
  change execRemoteResponse n s = _
  simp only [execRemoteResponse, harrived, ← ht, hpool, hpending]

/-- A response that no pending request matches is discarded and counted. -/
theorem exec_remoteResponse_late (hlate : t.pendingFor n p off bs = none) :
    exec (.remoteResponse n) s = .next (t.addFld Fld.KVM_REMOTE_LATE_COUNT n 0 1) := by
  change execRemoteResponse n s = _
  simp only [execRemoteResponse, harrived, ← ht, hpool, hlate]

end

/-! REMOTE_BUDGET_EXPIRY -/

/-- A buffer still pending when REMOTE_BUDGET passes takes a MISSING record (R123). -/
theorem exec_remoteBudgetExpiry_pending {s : State} {n b : Nat} {p : Pool} {r : RemotePending}
    (hpool : (s.stand n).kv.pool = some p) (hr : (s.stand n).kv.remotes.get? b = some r) (hpending : r.resolved = none) :
    exec (.remoteBudgetExpiry n b) s = .next ((s.standWrite n (p.partialAddr +
      (r.slot * (s.kvGroup n p (4 * (((s.stand n).step.map (·.model)).getD 0) + r.group)).heads + r.head) * 8192)
        (statusRecord r.words 1)).resolvePartial n b r 1) := by
  change execRemoteBudgetExpiry n b s = _
  simp only [execRemoteBudgetExpiry, hpool, hr, hpending, Option.isSome_none, Bool.false_eq_true, if_false]

/-- Settles O27: what an XOUT to the request window is turns on its task, what a response does on the request pending
for it. -/
theorem remoteAttention : Obligations.RemoteAttention := by
  refine ⟨⟨fun s t v k task bs hout ht => ⟨fun p => exec_remoteRequestSend_step hout ht,
      fun sv => exec_remoteRequestSend_service hout ht⟩, ?_⟩, ?_⟩
  · rintro s n a len conn c bs hconn hstand hpeek hlen hidle sv rfl
    exact exec_remoteRequestArrive_idle hconn hstand hpeek hlen hidle
  · intro s t n b off p r bs rest hpool ht
    have hpool' : (t.stand n).kv.pool = some p := by rw [ht, State.stand_updStand_self]; exact hpool
    refine ⟨fun harrived => exec_remoteResponse_pending hpool' ht harrived,
      fun harrived => exec_remoteResponse_late hpool' ht harrived, ?_⟩
    rintro hr hpending g rfl
    exact exec_remoteBudgetExpiry_pending hpool hr hpending

end Sys2Proof.Machine
end

section
/-! Proofs: page moves, ageing and memory errors (07_memory_tiers.md R153-R157, Tables 7.3 and 7.4;
19_faults_events.md R395). -/

namespace Sys2Proof.Machine

open Sys2Proof

/-! Page entries -/

@[simp] theorem Tiers.page_setPage_self (t : Tiers) (p : Nat) (e : PageEntry) : (t.setPage p e).page p = e := by
  simp only [Tiers.page, Tiers.setPage, SMap.get?_set_self, Option.getD_some]

@[simp] theorem State.page_updPage_self (s : State) (n p : Nat) (f : PageEntry → PageEntry) :
    ((s.updPage n p f).stand n).tiers.page p = f ((s.stand n).tiers.page p) := by
  simp only [State.updPage, State.stand_updStand_self, Tiers.page_setPage_self]

@[simp] theorem State.stand_addFld (s : State) (f : Field) (i j v n : Nat) : (s.addFld f i j v).stand n = s.stand n := rfl

theorem State.stand_flagError {s : State} {f : Field} {i n : Nat} {context : State → State}
    (h : (context s).stand n = s.stand n) : (s.flagError f i context).stand n = s.stand n := by
  simp only [State.flagError, State.stand_setFld]
  split
  · exact h
  · rfl

/-! Write-back (R154, R155) -/

section
variable {s : State} {n p k : Nat} {o : TierObject} {c : PageCopy} (hobj : s.pageObject n p = some (k, o))
  (hcopy : ((s.stand n).tiers.page p).copy = some c)
include hobj hcopy

theorem State.writeBack_clean (hclean : bitsOf 16 c.dirty = []) : s.writeBack n p = (s, true) := by
  simp only [State.writeBack, hobj, hcopy, hclean, List.isEmpty_nil, if_true]

/-- A dirty copy of a page at home in T1 or T2 is written back at once and stays, clean. -/
theorem State.writeBack_near (hhome : o.home ≠ 3) (hdirty : bitsOf 16 c.dirty ≠ []) : (s.writeBack n p).2 = true ∧
    (((s.writeBack n p).1.stand n).tiers.page p).copy = some { c with dirty := 0, sent := 0 } := by
  have hunits : (bitsOf 16 c.dirty).isEmpty = false := List.isEmpty_eq_false_iff.2 hdirty
  simp only [State.writeBack, hobj, hcopy, hunits, hhome, false_and, Bool.false_eq_true, if_false,
    State.page_updPage_self, and_self]

/-- A write-back to T3 whose fabric operations failed leaves the copy HELD. -/
theorem State.writeBack_failed (hhome : o.home = 3) (hdirty : bitsOf 16 c.dirty ≠ [])
    (hfailed : ((s.stand n).tiers.page p).traffic = .done false) : (s.writeBack n p).2 = false ∧
      (((s.writeBack n p).1.stand n).tiers.page p).copy = some { c with held := true, sent := 0 } := by
  have hunits : (bitsOf 16 c.dirty).isEmpty = false := List.isEmpty_eq_false_iff.2 hdirty
  simp only [State.writeBack, hobj, hcopy, hunits, hhome, hfailed, and_self, Bool.false_eq_true, if_false, if_true,
    true_and]
  rw [State.stand_flagError rfl, State.page_updPage_self]

theorem State.writeBack_near_succeeds (hhome : o.home ≠ 3) : (s.writeBack n p).2 = true := by
  by_cases hdirty : bitsOf 16 c.dirty = []
  · rw [State.writeBack_clean hobj hcopy hdirty]
  · exact (State.writeBack_near hobj hcopy hhome hdirty).1

end

/-! Eviction (R154, R155) -/

section
variable {s : State} {n p : Nat} {c : PageCopy} (hcopy : ((s.stand n).tiers.page p).copy = some c)
include hcopy

theorem State.evictCopy_held (hheld : c.held = true) : s.evictCopy n p = (s, false) := by
  simp only [State.evictCopy, hcopy, hheld, if_true]

/-- A copy whose write-back succeeds is dropped. -/
theorem State.evictCopy_written (hfree : c.held = false) (hwritten : (s.writeBack n p).2 = true) : s.evictCopy n p =
    (((s.writeBack n p).1.dropCopy n p).addFld Fld.TIER_EVICTED_COUNT n 0 1, true) := by
  simp only [State.evictCopy, hcopy, hfree, hwritten, Bool.false_eq_true, if_false, if_true]

end

@[simp] theorem State.page_dropCopy_self (s : State) (n p : Nat) : ((s.dropCopy n p).stand n).tiers.page p =
    { (s.stand n).tiers.page p with copy := none, move := .still } := State.page_updPage_self s n p _

/-! PROMOTION (R153, R157, R159, Table 7.3) -/

/-- An access to page `p` of the object starts no promotion: its home or hint forbids it, it has a copy, is LOST or moves,
or 64 pages of the stand move. -/
def State.promotionBarred (s : State) (n p : Nat) (o : TierObject) : Bool :=
  o.home == 0 || 1 < o.hint || (o.home == 1 && o.hint == 1) || ((s.stand n).tiers.page p).copy.isSome ||
    ((s.stand n).tiers.page p).lost || ((s.stand n).tiers.page p).moving || 64 ≤ (s.stand n).tiers.moves

theorem State.promotionBarred_iff {s : State} {n p : Nat} {o : TierObject} : s.promotionBarred n p o = true ↔
    o.home = 0 ∨ 1 < o.hint ∨ (o.home = 1 ∧ o.hint = 1) ∨ ((s.stand n).tiers.page p).copy.isSome ∨
      ((s.stand n).tiers.page p).lost = true ∨ ((s.stand n).tiers.page p).moving = true ∨ 64 ≤ (s.stand n).tiers.moves := by
  simp only [State.promotionBarred, Bool.or_eq_true, Bool.and_eq_true, beq_iff_eq, decide_eq_true_eq, or_assoc]

section
variable {s : State} {n p k : Nat} {o : TierObject} {b : Bool} (hobj : s.pageObject n p = some (k, o))
include hobj

theorem exec_promotion_barred (hbarred : s.promotionBarred n p o = true) :
    exec (.promotion n p b) s = .next s.deliver := by
  change execPromotion n p b s = _
  simp only [State.promotionBarred] at hbarred
  simp only [execPromotion, hobj, hbarred, if_true]

/-- A promotion from T1 or T2 begins in the free frame. -/
theorem exec_promotion_free {f : Frame} (hfree : s.promotionBarred n p o = false) (hhome : o.home ≠ 3)
    (hframe : s.freeCopyFrame n o (p - o.base / pageSize) = some f) : exec (.promotion n p b) s =
      .next ((s.updPage n p (fun e => { e with move := .promoting f })).updPage n p
        (fun e => { e with traffic := .none })).deliver := by
  change execPromotion n p b s = _
  simp only [State.promotionBarred] at hfree
  simp only [execPromotion, hobj, hfree, hframe, hhome, Bool.false_eq_true, if_false]

/-- A streaming access takes no frame that is not free. -/
theorem exec_promotion_streaming_full (hframe : s.freeCopyFrame n o (p - o.base / pageSize) = none) :
    exec (.promotion n p true) s = .next s.deliver := by
  by_cases hbarred : s.promotionBarred n p o = true
  · exact exec_promotion_barred hobj hbarred
  · simp only [Bool.not_eq_true, State.promotionBarred] at hbarred
    change execPromotion n p true s = _
    simp only [execPromotion, hobj, hbarred, hframe, Bool.true_or, Bool.false_eq_true, if_false, if_true]

end

/-! PAGE_MOVE_DONE (R157) -/

/-- A command tried is known by where it leads from this state. -/
theorem State.withFabric_congr {s : State} {n : Nat} {run run' : State → State} (h : run s = run' s) :
    s.withFabric n run = s.withFabric n run' := by
  simp only [State.withFabric, h]

section
variable {s : State} {n p k : Nat} {o : TierObject} (hobj : s.pageObject n p = some (k, o))
include hobj

/-- A promotion ends with the copy in its frame, once the copy of no other page lies there. -/
theorem exec_pageMoveDone_promoting {f : Frame} (hmove : ((s.stand n).tiers.page p).move = .promoting f)
    (hhome : o.home ≠ 3) (hclear : ∀ q ∈ (s.stand n).tiers.pages, q.1 ≠ p → ∀ c, q.2.copy = some c → c.frame ≠ f) :
    exec (.pageMoveDone n p) s = .next (s.withFabric n (fun _ => s.installCopy n p o f)) := by
  have hnone : (s.stand n).tiers.pages.any (fun q => q.1 != p && q.2.copy.any (fun c => c.frame == f)) = false := by
    simp only [List.any_eq_false, Bool.and_eq_true, bne_iff_ne, Option.any_eq_true, beq_iff_eq]
    rintro q hq ⟨hne, c, hc, hframe⟩
    exact hclear q hq hne c hc hframe
  have hfetched : s.fetched n p o = some true := by rw [State.fetched, if_pos hhome]
  change execPageMoveDone n p s = _
  refine congrArg Host.Outcome.next (State.withFabric_congr ?_)
  simp only [hmove, hobj, hnone, hfetched, Bool.false_eq_true, if_false]

/-- An eviction that succeeds ends with the copy gone. -/
theorem exec_pageMoveDone_evicting (hmove : ((s.stand n).tiers.page p).move = .evicting)
    (hevicted : (s.evictCopy n p).2 = true) :
    exec (.pageMoveDone n p) s = .next (s.withFabric n (fun _ => (s.evictCopy n p).1)) := by
  change execPageMoveDone n p s = _
  refine congrArg Host.Outcome.next (State.withFabric_congr ?_)
  simp only [hmove, hobj, hevicted, if_true]

end

/-! AGE_SWEEP (R156) -/

/-- A sweep of the entries of a stand ages the copy of each and nothing else. -/
theorem Tiers.page_swept (t : Tiers) (p : Nat) :
    ({ t with pages := t.pages.map (fun e => (e.1, { e.2 with copy := e.2.copy.map PageCopy.swept })) } : Tiers).page p =
      { t.page p with copy := (t.page p).copy.map PageCopy.swept } := by
  simp only [Tiers.page]
  rw [SMap.get?_map (fun e => by rfl)]
  cases t.pages.get? p with
  | none => rfl
  | some e => rfl

theorem exec_ageSweep (s : State) (n : Nat) : exec (.ageSweep n) s = .next (s.updStand n (fun st =>
    { st with tiers := { st.tiers with
      pages := st.tiers.pages.map (fun e => (e.1, { e.2 with copy := e.2.copy.map PageCopy.swept })) } })) := rfl

/-! MEMORY_UNCORRECTABLE (Table 7.4, R395) -/

@[simp] theorem State.stand_channelCounted (s : State) (chan n : Nat) : (s.channelCounted chan).stand n = s.stand n := by
  unfold State.channelCounted
  split <;> rfl

/-- An error recorded against its channel has no further effect before the fourth frame (R395). -/
theorem State.channelError_eq (s : State) (n chan frame : Nat) : s.channelError n chan frame =
    if !(s.countError n chan frame).2 then (s.countError n chan frame).1
    else if chan < 512 then (s.countError n chan frame).1.failHbm chan
    else (s.countError n chan frame).1.failDdr (chan - 512) := by
  unfold State.channelError
  cases (s.countError n chan frame).2 <;> rfl

section
variable {s : State} {n p u k chan frame : Nat} {o : TierObject} (hobj : s.pageObject n p = some (k, o))
include hobj

theorem exec_memoryUncorrectable_copy {c : PageCopy} {h : Bool} (hcopy : ((s.stand n).tiers.page p).copy = some c)
    (hchan : s.unitChannel n o p u (some c.frame) = (chan, frame)) : exec (.memoryUncorrectable n p u (.copy h)) s =
      .next (((s.channelCounted chan).copyError n p u o c h).channelError n chan frame) := by
  change execMemoryUncorrectable n p u (.copy h) s = _
  rw [State.channelError_eq, State.copyError, State.stand_channelCounted, State.channelCounted]
  simp only [execMemoryUncorrectable, hobj, hcopy, Option.isNone_some, Option.map_some, Bool.false_eq_true, and_false,
    if_false, hchan]

theorem exec_memoryUncorrectable_home (hhome : o.home ≠ 3) (hchan : s.unitChannel n o p u none = (chan, frame)) :
    exec (.memoryUncorrectable n p u .home) s = .next ((if ((s.stand n).tiers.page p).copy.isSome then
      s.channelCounted chan else (s.channelCounted chan).losePage n p o.home).channelError n chan frame) := by
  change execMemoryUncorrectable n p u .home s = _
  simp only [execMemoryUncorrectable, hobj, hhome, Option.map_none, false_and, if_false, hchan, State.channelError_eq,
    State.channelCounted]

theorem exec_memoryUncorrectable_remote (hhome : o.home = 3) : exec (.memoryUncorrectable n p u .home) s = .next s := by
  change execMemoryUncorrectable n p u .home s = _
  simp only [execMemoryUncorrectable, hobj, hhome, Option.isNone_none, and_self, if_true]

end

/-- Settles O29: write-back and eviction, the start and the end of a move, the sweep, and an uncorrectable error. -/
theorem pageMoves : Obligations.PageMoves := by
  refine ⟨fun s n p k o c hobj hcopy => ⟨State.writeBack_near hobj hcopy, State.writeBack_clean hobj hcopy,
      State.evictCopy_held hcopy, fun hhome hfree => ?_, State.writeBack_failed hobj hcopy⟩,
    fun s n p k o f hobj => ⟨fun b hbarred => exec_promotion_barred hobj (State.promotionBarred_iff.2 hbarred),
      fun b hkind hcopy hlost hstill hroom hframe => ?_, exec_promotion_streaming_full hobj,
      exec_pageMoveDone_promoting hobj, exec_pageMoveDone_evicting hobj⟩,
    fun s n p => ⟨_, exec_ageSweep s n, ?_, rfl, rfl⟩,
    fun s n p u k chan frame o hobj => ⟨fun c h => exec_memoryUncorrectable_copy hobj,
      exec_memoryUncorrectable_home hobj, exec_memoryUncorrectable_remote hobj⟩⟩
  · rw [State.evictCopy_written hcopy hfree (State.writeBack_near_succeeds hobj hcopy hhome)]
    exact ⟨rfl, by rw [State.stand_addFld, State.page_dropCopy_self]⟩
  · have hunbarred : s.promotionBarred n p o = false := by
      rw [Bool.eq_false_iff, Ne, State.promotionBarred_iff]
      simp only [hcopy, hlost, hstill, Option.isSome_none, Bool.false_eq_true, false_or]
      omega
    exact exec_promotion_free hobj hunbarred (by omega) hframe
  · rw [State.stand_updStand_self]
    exact Tiers.page_swept _ p

end Sys2Proof.Machine
end

section
/-! Proofs: the intake of submission entries (08_serving_scheduler.md R169, R170, R180, Table 8.3). -/

namespace Sys2Proof.Machine

open Sys2Proof

/-! The entry at the front (R169) -/

section
variable {s : State} {n q : Nat} {e : List Byte} {which : List Byte → Bool} {take : Nat → List Byte → State → State}
  (hcond : (s.stand n).cond = .running) (hstage : (s.stand n).life.stage = .steady) (hgoes : (s.stand n).stopped = false)
  (hfront : s.intakeNext n = some (q, e)) (hwhich : which e = true)
include hcond hstage hgoes hfront hwhich

/-- Intake with room for a request takes the entry, and HEAD passes it. -/
theorem State.intake_room (hroom : (s.stand n).requests.length < (s.stand n).cfg.reqMax) :
    s.intake n which take = (take q e s).sqAdvance n q := by
  simp only [State.intake, hcond, hstage, hgoes, hfront, hwhich, Nat.not_le.2 hroom, ne_eq, not_true_eq_false,
    Bool.not_true, Bool.false_eq_true, or_self, if_false]

/-- Intake without room leaves the entry where it is. -/
theorem State.intake_full (hfull : (s.stand n).cfg.reqMax ≤ (s.stand n).requests.length) :
    s.intake n which take = s.flagSch Fld.SCH_ERROR_INTAKE_PAUSED n 0 q 0 := by
  simp only [State.intake, hcond, hstage, hgoes, hfront, hwhich, hfull, ne_eq, not_true_eq_false, Bool.not_true,
    Bool.false_eq_true, or_self, if_false, if_true]

end

/-! CANCEL (R180) -/

/-- A CANCEL seen between steps ends the request that it names. -/
theorem State.takeCancel_between {s : State} {n q : Nat} {e : List Byte} {r : Request}
    (hactive : (s.stand n).requests.find? (·.id == le e 8 8) = some r) (hstep : (s.stand n).step = none) :
    s.takeCancel n q e = s.endCancelled n r := by
  simp only [State.takeCancel, hactive, hstep, Option.isNone_none, if_true]

/-- A CANCEL seen in a step marks the request that it names. -/
theorem State.takeCancel_inStep {s : State} {n q : Nat} {e : List Byte}
    (hactive : (s.stand n).requests.any (·.id == le e 8 8) = true) (hstep : (s.stand n).step.isSome = true) :
    s.takeCancel n q e = s.updStand n (fun st => { st with requests := st.requests.map (fun x =>
      if x.id = le e 8 8 then { x with cancel := true } else x) }) := by
  obtain ⟨r, hfind⟩ := Option.isSome_iff_exists.1 (List.find?_isSome.2 (List.any_eq_true.1 hactive))
  have hnone : (s.stand n).step.isNone = false := by rw [← Option.not_isSome, hstep, Bool.not_true]
  simp only [State.takeCancel, hfind, hnone, Bool.false_eq_true, if_false]

/-- A CANCEL of a request that is neither active nor arriving is answered in DEFAULT_CQ. -/
theorem State.takeCancel_inactive {s : State} {n q : Nat} {e : List Byte}
    (hactive : (s.stand n).requests.any (·.id == le e 8 8) = false) (harrival : s.cancelArrival n (le e 8 8) = none) :
    s.takeCancel n q e = s.cqEntry n (s.fld Fld.SCH_SQ_BASE_DEFAULT_CQ n q)
      { s.about n (le e 8 8) 0 (if (s.stand n).done.any (·.id == le e 8 8) then 3 else 4) with cancelReply := true } := by
  have hnone := List.find?_eq_none.2 (List.any_eq_false.1 hactive)
  simp only [State.takeCancel, hnone, harrival]

/-! The checks of a NEW entry (R169, Table 8.3) -/

theorem State.refusal_duplicate {s : State} {n : Nat} {o : Origin} {e : List Byte}
    (hactive : (s.stand n).requests.any (·.id == (requestOf e).id) = true) : s.refusal n o e = 5 := by
  simp only [State.refusal, hactive, true_or, if_true]

section
variable {s : State} {n : Nat} {o : Origin} {e : List Byte}
  (hactive : (s.stand n).requests.any (·.id == (requestOf e).id) = false)
  (hdone : (s.stand n).done.any (·.id == (requestOf e).id) = false)
include hactive hdone

/-- A new identifier leaves the validity checks and the customer. -/
theorem State.refusal_fresh : s.refusal n o e =
    if !entryClean e ∨ !samplerOk e ∨ !lengthsOk e ∨ ((s.stand n).cfg.models.get? (requestOf e).model).isNone ∨
      (((s.stand n).kv.pool).map (·.seqMax)).getD 0 ≤ (requestOf e).seq ∨ (requestOf e).history % 64 ≠ 0 ∨
      (s.loc n (requestOf e).history).isNone ∨ !s.flag Fld.SCH_CQ_BASE_ENABLE n (requestOf e).cq ∨
      !s.roleTakes n o (requestOf e) then 7
    else if !s.customerOn n (requestOf e).customer then 6
    else 0 := by
  simp only [State.refusal, hactive, hdone, Bool.false_eq_true, or_self, if_false]

theorem State.refusal_invalid (hbad : entryClean e = false ∨ samplerOk e = false ∨ lengthsOk e = false ∨
    (s.stand n).cfg.models.get? (requestOf e).model = none) : s.refusal n o e = 7 := by
  rw [State.refusal_fresh hactive hdone, if_pos]
  rcases hbad with h | h | h | h <;> simp [h]

theorem State.refusal_zero (h : s.refusal n o e = 0) : s.customerOn n (requestOf e).customer = true ∧
    entryClean e = true ∧ samplerOk e = true ∧ lengthsOk e = true ∧ s.roleTakes n o (requestOf e) = true := by
  rw [State.refusal_fresh hactive hdone] at h
  split at h
  · cases h
  next hvalid =>
    split at h
    · cases h
    next hcustomer =>
      simp only [not_or, Bool.not_eq_true', Bool.not_eq_false] at hvalid hcustomer
      obtain ⟨hclean, hsampler, hlengths, -, -, -, -, -, hrole⟩ := hvalid
      exact ⟨hcustomer, hclean, hsampler, hlengths, hrole⟩

end

theorem lengths_of_lengthsOk {e : List Byte} (h : lengthsOk e = true) :
    1 ≤ le e 32 4 ∧ le e 32 4 + le e 36 4 ≤ le e 96 4 := by
  simp only [lengthsOk, Bool.and_eq_true, decide_eq_true_eq] at h
  obtain ⟨⟨⟨⟨hprompt, -⟩, -⟩, -⟩, hfits⟩ := h
  exact ⟨hprompt, hfits⟩

/-! The commands -/

section
variable {s : State} {n q : Nat} {e : List Byte} (hcond : (s.stand n).cond = .running)
  (hstage : (s.stand n).life.stage = .steady) (hgoes : (s.stand n).stopped = false)
  (hfront : s.intakeNext n = some (q, e))
include hcond hstage hgoes hfront

theorem exec_sqNew_room (hnew : le e 0 1 ≠ 2) (hroom : (s.stand n).requests.length < (s.stand n).cfg.reqMax) :
    exec (.sqNew n) s = .next ((s.takeNew n q e).sqAdvance n q) :=
  congrArg Host.Outcome.next (State.intake_room hcond hstage hgoes hfront (bne_iff_ne.2 hnew) hroom)

theorem exec_sqNew_full (hnew : le e 0 1 ≠ 2) (hfull : (s.stand n).cfg.reqMax ≤ (s.stand n).requests.length) :
    exec (.sqNew n) s = .next (s.flagSch Fld.SCH_ERROR_INTAKE_PAUSED n 0 q 0) :=
  congrArg Host.Outcome.next (State.intake_full hcond hstage hgoes hfront (bne_iff_ne.2 hnew) hfull)

theorem exec_sqCancel_room (hcancel : le e 0 1 = 2) (hroom : (s.stand n).requests.length < (s.stand n).cfg.reqMax) :
    exec (.sqCancel n) s = .next ((s.takeCancel n q e).sqAdvance n q) :=
  congrArg Host.Outcome.next (State.intake_room hcond hstage hgoes hfront (beq_iff_eq.2 hcancel) hroom)

end

/-- Settles O30: NEW and CANCEL are intake's turn with the entry at the front, and the checks of a NEW entry come in the
order of R169. -/
theorem intake : Obligations.Intake := by
  refine ⟨fun s n q e hcond hstage hgoes hfront => ⟨fun hroom hnew => ⟨fun hok => ?_, fun hbad k hk => ?_⟩,
      fun hroom hcancel => ?_, fun hfull hnew => exec_sqNew_full hcond hstage hgoes hfront hnew hfull⟩,
    fun s n e o => ⟨State.refusal_duplicate, fun hactive hdone => ⟨State.refusal_invalid hactive hdone,
      State.refusal_zero hactive hdone⟩, lengths_of_lengthsOk⟩⟩
  · rw [exec_sqNew_room hcond hstage hgoes hfront hnew hroom, State.takeNew, if_pos hok]
  · rw [exec_sqNew_room hcond hstage hgoes hfront hnew hroom, State.takeNew, if_neg hbad, hk]
  · rw [exec_sqCancel_room hcond hstage hgoes hfront hcancel hroom]
    exact ⟨fun r hactive hstep => by rw [State.takeCancel_between hactive hstep],
      fun hactive hstep => by rw [State.takeCancel_inStep hactive hstep],
      fun hactive harrival => by rw [State.takeCancel_inactive hactive harrival]⟩

end Sys2Proof.Machine
end

section
/-! Proofs: steps composed and committed, done records and energy (08_serving_scheduler.md R171, R173, R180, R182,
R185). -/

namespace Sys2Proof.Machine

open Sys2Proof

/-! STEP_COMPOSE (R171) -/

theorem exec_stepCompose_within {s : State} {n : Nat} (hstep : s.atBoundary n = false) :
    exec (.stepCompose n) s = .next s := by
  change execStepCompose n s = _
  simp only [execStepCompose, hstep, Bool.not_false, if_true]

section
variable {s u : State} {n : Nat} (hboundary : s.atBoundary n = true)
include hboundary

theorem exec_stepCompose_noRows (hchoice : s.chooseStep n (s.stand n).turns = (u, none)) :
    exec (.stepCompose n) s = .next (u.admitOnly n (u.stand n).turns) := by
  change execStepCompose n s = _
  simp only [execStepCompose, hboundary, hchoice, Bool.not_true, Bool.false_eq_true, if_false]

/-- An offer that holds no request for its completion queue, of a model whose manifest range is usable, starts. -/
theorem exec_stepCompose_offer {t : Turn} {mode : StepMode} {run : Nat} {c : Composing}
    (hchoice : s.chooseStep n (s.stand n).turns = (u, some (t, mode, run, c))) (hheld : c.held = [])
    (hmanifest : u.manifestOk n t.model = true) :
    exec (.stepCompose n) s = .next (u.startStep n t mode run c).deliver := by
  change execStepCompose n s = _
  simp only [execStepCompose, hboundary, hchoice, hheld, hmanifest, List.foldl_nil, Bool.not_true, Bool.false_eq_true,
    if_false, if_true]

end

/-! The manifest (R173) -/

theorem length_sub (bs : List Byte) (off n : Nat) : (sub bs off n).length = n := by
  simp only [sub, List.length_append, List.length_take, List.length_replicate]
  omega

theorem Row.length_bytes (w : Row) : w.bytes.length = 16 := by
  simp only [Row.bytes, List.length_append, length_toBytes]

theorem length_samplerRecord (rs : List Request) (w : Row) (i : Nat) : (samplerRecord rs w i).length = 64 := by
  simp only [samplerRecord, List.length_append, length_sub, length_toBytes, zeros, List.length_replicate]

/-- Records of one size laid one after another. -/
theorem length_flatMap_of_length_eq {α : Type} {f : α → List Byte} {k : Nat} (h : ∀ a, (f a).length = k) (l : List α) :
    (l.flatMap f).length = l.length * k := by
  simp only [List.length_flatMap, h, List.map_const', List.sum_replicate_nat]

/-- A manifest is its header, 16 bytes for each row and 64 for each sampled one. -/
theorem length_manifestBytes (step model : Nat) (rs : List Request) (rows : List Row) (segments : Nat) :
    (manifestBytes step model rs rows segments).length =
      64 + rows.length * 16 + (rows.zipIdx.filter (fun e => e.1.sample)).length * 64 := by
  simp only [manifestBytes, List.length_append, length_toBytes, zeros, List.length_replicate,
    length_flatMap_of_length_eq Row.length_bytes,
    length_flatMap_of_length_eq (fun e : Row × Nat => length_samplerRecord rs e.1 e.2)]

theorem length_manifestBytes_le {rows : List Row} {budget : Nat} (hbudget : rows.length ≤ budget) (step model : Nat)
    (rs : List Request) (segments : Nat) :
    (manifestBytes step model rs rows segments).length ≤ manifestSize budget := by
  have hsampled := List.length_filter_le (fun e : Row × Nat => e.1.sample) rows.zipIdx
  rw [List.length_zipIdx] at hsampled
  rw [length_manifestBytes, manifestSize]
  omega

/-! COMMIT_PHASE (R180) -/

theorem exec_commitPhase_over {s : State} {n : Nat} {st : Step} (hstep : (s.stand n).step = some st)
    (hover : st.ended = true ∨ st.abandoned.isSome = true) :
    exec (.commitPhase n) s = .next (s.commit n st).deliver := by
  change execCommitPhase n s = _
  simp only [execCommitPhase, hstep, hover, if_true]

theorem exec_commitPhase_running {s : State} {n : Nat} {st : Step} (hstep : (s.stand n).step = some st)
    (hruns : st.ended = false) (hkept : st.abandoned = none) : exec (.commitPhase n) s = .next s := by
  change execCommitPhase n s = _
  simp only [execCommitPhase, hstep, hruns, hkept, Option.isSome_none, Bool.false_eq_true, or_self, if_false]

/-! The accepted drafts (R182) -/

/-- The tokens from number `i` on, each with whether its number lies below `k`. -/
def acceptedBelow (k i : Nat) (ts : List Nat) : List (Nat × Bool) :=
  (ts.zipIdx i).map (fun e => (e.1, decide (e.2 < k)))

theorem acceptedBelow_cons (k i t : Nat) (ts : List Nat) :
    acceptedBelow k i (t :: ts) = (t, decide (i < k)) :: acceptedBelow k (i + 1) ts := rfl

theorem acceptedBelow_succ (k i : Nat) (ts : List Nat) : acceptedBelow (k + 1) (i + 1) ts = acceptedBelow k i ts := by
  simp only [acceptedBelow, List.zipIdx_succ, List.map_map, Function.comp_def, Nat.add_lt_add_iff_right]

/-- The first `k` drafts equal the tokens drawn and the next one does not: they are accepted, and the run ends with the
token drawn in its place. -/
theorem acceptDrafts_eq {ts ds : List Nat} {k : Nat} (hequal : ∀ j < k, ts[j]? = ds[j]? ∧ ts[j]?.isSome = true)
    (hdiffers : ts[k]? = none ∨ ts[k]? ≠ ds[k]?) : acceptDrafts ts ds = acceptedBelow k 0 (ts.take (k + 1)) := by
  induction ts generalizing ds k with
  | nil => rfl
  | cons t ts ih =>
    cases k with
    | zero =>
      rw [List.take_succ_cons, List.take_zero, acceptedBelow_cons]
      cases ds with
      | nil => rfl
      | cons d ds =>
        have hne : t ≠ d := by simpa using hdiffers
        rw [acceptDrafts, if_neg hne]
        rfl
    | succ k =>
      have hfirst := (hequal 0 (Nat.succ_pos k)).1
      cases ds with
      | nil => cases hfirst
      | cons d ds =>
        have heq : t = d := by simpa using hfirst
        have hrest : ∀ j < k, ts[j]? = ds[j]? ∧ ts[j]?.isSome = true := fun j hj => hequal (j + 1) (Nat.succ_lt_succ hj)
        rw [acceptDrafts, if_pos heq, ih hrest hdiffers, List.take_succ_cons, acceptedBelow_cons, acceptedBelow_succ, heq,
          decide_eq_true (Nat.succ_pos k)]

/-! Done records (R180) -/

theorem nextWith_doneRecordExpiry (s : State) (n id : Nat) : NextWith (exec (.doneRecordExpiry n id) s) (fun t =>
    (t.stand n).done = (s.stand n).done.filter (·.id != id) ∧ (t.stand n).requests = (s.stand n).requests) :=
  ⟨s.updStand n (fun st => { st with done := st.done.filter (·.id != id) }), rfl, by rw [State.stand_updStand_self],
    by rw [State.stand_updStand_self]⟩

/-- A record kept takes the place of the oldest one where 131,072 are kept. -/
theorem State.length_done_keepDone_le {s : State} {n : Nat} (h : (s.stand n).done.length ≤ 131072) (id status : Nat) :
    ((s.keepDone n id status).stand n).done.length ≤ 131072 := by
  rw [State.keepDone, State.stand_updStand_self]
  split
  · exact h
  · rw [List.length_append, List.length_singleton]
    split
    · rw [List.length_drop]
      omega
    · omega

/-! ENERGY_TICK (R185) -/

@[simp] theorem State.stand_account (s : State) (n i k m : Nat) : (s.account n i k).stand m = s.stand m := rfl

theorem State.fld_account_self (s : State) (n i k : Nat) : (s.account n i k).fld Fld.SCH_ACCT_COUNT n i =
    (s.fld Fld.SCH_ACCT_COUNT n i + k) % 2 ^ 64 := State.fld_setFld_self (by decide)

/-- Entries set one after another from a function of their keys. -/
theorem SMap.get?_foldl_set {α : Type} (f : Nat → α) (l : List Nat) (m : SMap α) (i : Nat) :
    SMap.get? (l.foldl (fun m j => m.set j (f j)) m) i = if i ∈ l then some (f i) else m.get? i := by
  induction l generalizing m with
  | nil => rfl
  | cons j l ih =>
    rw [List.foldl_cons, ih, SMap.get?_set]
    grind

/-- The energy of a millisecond in 1/256 pJ, from the counters of `u` since the last one, with what that one left. -/
def State.tickEnergy (u : State) (n : Nat) : Nat :=
  (activityCounters.zipIdx.map (fun e => (u.fld Fld.SCH_ACCT_COUNT n e.1 + 2 ^ 64 -
    ((u.stand n).activity.get? e.1).getD 0) % 2 ^ 64 * energyCoef e.2)).foldl (· + ·) 0 + (u.stand n).energyRest

/-- The counters of stand `n` as the next millisecond counts from them. -/
def State.activityNow (u : State) (n : Nat) : SMap Nat :=
  activityCounters.foldl (fun (m : SMap Nat) i => m.set i (u.fld Fld.SCH_ACCT_COUNT n i)) []

theorem exec_energyTick_absent {s : State} {n : Nat} (hvalid : s.standValid n = false) :
    exec (.energyTick n) s = .next s := by
  change execEnergyTick n s = _
  simp only [execEnergyTick, hvalid, Bool.not_false, if_true]

theorem exec_energyTick_valid {s u : State} {n : Nat} (hvalid : s.standValid n = true)
    (hu : u = s.account n 8 (1000 * (s.groves n).length)) : exec (.energyTick n) s =
      .next ((u.account n 7 (u.tickEnergy n / 256000000)).updStand n
        (fun st => { st with energyRest := u.tickEnergy n % 256000000, activity := u.activityNow n })) := by
  subst hu
  change execEnergyTick n s = _
  simp only [execEnergyTick, hvalid, Bool.not_true, Bool.false_eq_true, if_false]
  rfl

/-- Whole microjoules go to ENERGY_UJ, the rest is carried, and the counters are kept for the next millisecond. -/
theorem nextWith_energyTick {s u : State} {n : Nat} (hvalid : s.standValid n = true)
    (hu : u = s.account n 8 (1000 * (s.groves n).length)) : NextWith (exec (.energyTick n) s) (fun t =>
      t.fld Fld.SCH_ACCT_COUNT n 7 = (u.fld Fld.SCH_ACCT_COUNT n 7 + u.tickEnergy n / 256000000) % 2 ^ 64 ∧
      (t.stand n).energyRest = u.tickEnergy n % 256000000 ∧
      ∀ i ∈ activityCounters, (t.stand n).activity.get? i = some (u.fld Fld.SCH_ACCT_COUNT n i)) := by
  refine ⟨_, exec_energyTick_valid hvalid hu, ?_, ?_, fun i hi => ?_⟩
  · rw [State.fld_updStand, State.fld_account_self]
  · rw [State.stand_updStand_self]
  · rw [State.stand_updStand_self]
    exact (SMap.get?_foldl_set _ _ _ i).trans (if_pos hi)

/-- Settles O31: what a boundary and a commit phase do, which drafts are accepted, the size of a manifest, the done
records and the millisecond's energy. -/
theorem steps : Obligations.Steps := by
  refine ⟨⟨fun s n => exec_stepCompose_within, fun s u n => exec_stepCompose_noRows,
      fun s u n run t mode c hboundary => exec_stepCompose_offer hboundary,
      fun s n st hstep => ⟨exec_commitPhase_over hstep, exec_commitPhase_running hstep⟩,
      fun ts ds k => acceptDrafts_eq,
      fun step model segments budget rs rows hbudget => length_manifestBytes_le hbudget step model rs segments⟩,
    nextWith_doneRecordExpiry, fun s n id status hlen => State.length_done_keepDone_le hlen id status,
    fun s u n pj hvalid hu hpj => ?_, fun s n => exec_energyTick_absent⟩
  have henergy : pj = u.tickEnergy n := by
    rw [hpj, State.tickEnergy, hu, State.stand_account]
  rw [henergy]
  exact nextWith_energyTick hvalid hu

end Sys2Proof.Machine
end

section
/-! Proofs: the commands of a stand's Sapway ring (09_state_movement.md R207, R209, R218, Table 9.7). -/

namespace Sys2Proof.Machine

open Sys2Proof

/-! Taking a command (R218) -/

theorem State.swyCommand_held {s : State} {n : Nat} (hheld : s.swyHeld n = true) (op : Nat)
    (run : List Byte → Nat → State → State × Option Nat) : s.swyCommand n op run = s := by
  rw [State.swyCommand, if_pos hheld]

/-- Each command of the ring is `State.swyCommand` of its OP. -/
theorem exec_swyCommand_of_mem {s : State} {n status : Nat} {back : HostRead} {got : Fetched} {c : Instr}
    (hc : c ∈ [Instr.swySuspend n back, .swyResume n got, .swyDiscard n status, .swyHold n, .canopyInsert n,
      .canopyDrop n, .jobRegions n]) : ∃ op run, exec c s = .next (s.swyCommand n op run) := by
  simp only [List.mem_cons, List.not_mem_nil, or_false] at hc
  rcases hc with rfl | rfl | rfl | rfl | rfl | rfl | rfl <;> exact ⟨_, _, rfl⟩

section
variable {s t : State} {n i op : Nat} {e : List Byte} {run : List Byte → Nat → State → State × Option Nat}
  (hfree : s.swyHeld n = false) (hfront : s.runFront .swy n = some (i, e)) (hop : le e 0 1 = op)
include hfree hfront hop

theorem State.swyCommand_completes {x : Nat} (hrun : run e i (s.runTake .swy n i) = (t, some x)) :
    s.swyCommand n op run =
      (((t.flagResult n (if op = 2 then le e 24 8 else 0) x).runDone .swy n i x).kvSettle n).deliver := by
  simp only [State.swyCommand, State.runCommand, hfree, hfront, hop, hrun, Bool.false_eq_true, if_true, if_false]

theorem State.swyCommand_inProgress (hrun : run e i (s.runTake .swy n i) = (t, none)) :
    s.swyCommand n op run = (t.kvSettle n).deliver := by
  simp only [State.swyCommand, State.runCommand, hfree, hfront, hop, hrun, Bool.false_eq_true, if_true, if_false]

/-- A command that is taken completes with what its run answers, or stays in progress where that is no result. -/
theorem exec_swyCommand_taken {c : Instr} {bid : Nat} {r : State × Option Nat}
    (hc : exec c s = .next (s.swyCommand n op run)) (hbid : bid = if op = 2 then le e 24 8 else 0)
    (hrun : run e i (s.runTake .swy n i) = r) :
    (∀ x, r.2 = some x → exec c s = .next (((r.1.flagResult n bid x).runDone .swy n i x).kvSettle n).deliver) ∧
      (r.2 = none → exec c s = .next (r.1.kvSettle n).deliver) := by
  obtain ⟨t, res⟩ := r
  refine ⟨fun x hx => ?_, fun hnone => ?_⟩
  · subst hx hbid
    rw [hc, State.swyCommand_completes hfree hfront hop hrun]
  · subst hnone
    rw [hc, State.swyCommand_inProgress hfree hfront hop hrun]

end

/-! CANOPY_DROP (R215) -/

/-- Pinned nodes stay, with everything else. -/
theorem State.dropAnchor_pinned {s : State} {n seq : Nat} (hpinned : (s.dropAnchor n seq).2 = false) :
    (s.dropAnchor n seq).1 = s := by
  rw [State.dropAnchor] at hpinned ⊢
  split at hpinned
  case isTrue h => rw [if_pos h]
  case isFalse => cases hpinned

/-- What CANOPY_DROP answers: NOT_FOUND where the canopy has no node of the anchor, its end where they go, and a wait,
noted as a drop, where one of them is pinned. -/
def State.dropRun (s : State) (n i seq : Nat) : State × Option Nat :=
  if ∀ x ∈ (s.stand n).canopy, x.2.anchor ≠ seq then (s, some 0x1A)
  else if (s.dropAnchor n seq).2 then ((s.dropAnchor n seq).1, some 0)
  else (s.updSapway n (fun w => { w with drops := w.drops ++ [(i, seq)] }), none)

/-- CANOPY_DROP is `State.swyCommand` of its OP with that answer. -/
theorem exec_canopyDrop (n : Nat) (s : State) : exec (.canopyDrop n) s =
    .next (s.swyCommand n 6 (fun e i s => s.dropRun n i (le e 4 4))) := by
  change execCanopyDrop n s = _
  rw [execCanopyDrop]
  congr 3
  funext e i u
  simp only [List.all_eq_true, bne_iff_ne, State.dropRun]
  split
  · rfl
  · rcases hdrop : u.dropAnchor n (le e 4 4) with ⟨v, _ | _⟩
    · have hkept : v = u := by rw [← u.dropAnchor_pinned (congrArg Prod.snd hdrop), hdrop]
      rw [hkept]
      rfl
    · rfl

/-! What SUSPEND checks first (R207) -/

/-- The fields of a SUSPEND that is in range, of a VALID sequence, pass its first check. -/
theorem suspend_inRange {s : State} {n : Nat} {e : List Byte} {p : Pool} (httl : 0 < le e 8 4)
    (httlMax : le e 8 4 ≤ 2592000) (htarget : le e 12 4 ≤ 2) (hvalid : s.seqValid n p (le e 4 4) = true) :
    ¬ (le e 8 4 = 0 ∨ 2592000 < le e 8 4 ∨ 2 < le e 12 4 ∨ s.seqValid n p (le e 4 4) = false) := by
  rw [hvalid, not_or, not_or, not_or]
  exact ⟨Nat.ne_of_gt httl, Nat.not_lt_of_le httlMax, Nat.not_lt_of_le htarget, nofun⟩

section
variable {s : State} {n i : Nat} {e : List Byte} {p : Pool} (hpool : s.kvActive n = some p)
include hpool

theorem State.suspend_badCommand (hbad : le e 8 4 = 0 ∨ 2592000 < le e 8 4 ∨ 2 < le e 12 4 ∨
    s.seqValid n p (le e 4 4) = false) (back : HostRead) : s.suspend n back e i = (s, some 0x10) := by
  simp only [State.suspend, hpool, Bool.not_eq_true', if_pos hbad]

section
variable (httl : 0 < le e 8 4) (httlMax : le e 8 4 ≤ 2592000) (htarget : le e 12 4 ≤ 2)
  (hvalid : s.seqValid n p (le e 4 4) = true)
include httl httlMax htarget hvalid

theorem State.suspend_busy (hused : (s.stand n).requests.any (·.seq == le e 4 4) = true) (back : HostRead) :
    s.suspend n back e i = (s, some 0x18) := by
  simp only [State.suspend, hpool, Bool.not_eq_true', if_neg (suspend_inRange httl httlMax htarget hvalid),
    if_pos hused]

theorem State.suspend_poisoned (hunused : (s.stand n).requests.any (·.seq == le e 4 4) = false)
    (hpoisoned : s.seqPoisoned n p (le e 4 4) = true) (back : HostRead) :
    s.suspend n back e i = (s, some 0x19) := by
  simp only [State.suspend, hpool, Bool.not_eq_true', if_neg (suspend_inRange httl httlMax htarget hvalid),
    hunused, hpoisoned, Bool.false_eq_true, if_true, if_false]

end

/-! What RESUME checks first (R209) -/

theorem State.resume_badCommand (hbad : p.seqMax ≤ le e 4 4 ∨ s.seqValid n p (le e 4 4) = true) (got : Fetched) :
    s.resume n got e = (s, 0x10) := by
  simp only [State.resume, hpool, if_pos hbad]

section
variable (hrange : le e 4 4 < p.seqMax) (hinvalid : s.seqValid n p (le e 4 4) = false)
include hrange hinvalid

theorem State.resume_noBundle {r : Nat} {got : Fetched}
    (hbundle : s.bundleFor n (le e 24 8) (le e 12 4) got = .error r) : s.resume n got e = (s, r) := by
  simp only [State.resume, hpool, hinvalid, Nat.not_le_of_lt hrange, Bool.false_eq_true, or_self, if_false, hbundle]

theorem State.resume_badHeader {b : List Byte} {got : Fetched}
    (hbundle : s.bundleFor n (le e 24 8) (le e 12 4) got = .ok b)
    (hbad : headerOk b = false ∨ (BundleHeader.ofBytes b).bundle ≠ le e 24 8) :
    s.resume n got e = (s.eventOf n 0x3009 32 [le e 24 8, 1], 0x1D) := by
  simp only [State.resume, hpool, hinvalid, Nat.not_le_of_lt hrange, Bool.false_eq_true, or_self, if_false, hbundle,
    Bool.not_eq_true', if_pos hbad]

end

end

/-! The bundle of a RESUME in the stand's own store (R209) -/

theorem State.bundleFor_absent {s : State} {n bid : Nat} (habsent : (s.stand n).sapway.store.get? bid = none)
    (got : Fetched) : s.bundleFor n bid noMember got = .error 0x1A := by
  simp only [State.bundleFor, if_true, habsent]

section
variable {s : State} {n bid : Nat} {d : Dormant} (hstored : (s.stand n).sapway.store.get? bid = some d)
include hstored

theorem State.bundleFor_expired (hexpired : d.expires ≤ s.nowS) (got : Fetched) :
    s.bundleFor n bid noMember got = .error 0x1B := by
  simp only [State.bundleFor, if_true, hstored, if_pos hexpired]

theorem State.bundleFor_stored (hlives : s.nowS < d.expires) (got : Fetched) :
    s.bundleFor n bid noMember got = .ok (s.storedBundle n d) := by
  simp only [State.bundleFor, if_true, hstored, if_neg (Nat.not_le_of_lt hlives)]

end

/-- Settles O32: a command that is held changes nothing, one that is taken is its run completed or left in progress, and
SUSPEND and RESUME make their checks in the order of R207 and R209. -/
theorem swyRingCommands : Obligations.SwyRing := by
  refine ⟨⟨fun s n back got status hheld c hc => ?_, ?_⟩, fun s n i e p back got hpool => ⟨
    fun hbad => State.suspend_badCommand hpool hbad back, fun httl httlMax htarget hvalid => ⟨
      fun hused => State.suspend_busy hpool httl httlMax htarget hvalid hused back,
      fun hunused hpoisoned => State.suspend_poisoned hpool httl httlMax htarget hvalid hunused hpoisoned back⟩,
    fun hbad => State.resume_badCommand hpool hbad got, fun hrange hinvalid hmember => ?_⟩⟩
  · obtain ⟨op, run, hexec⟩ := exec_swyCommand_of_mem (s := s) hc
    rw [hexec, State.swyCommand_held hheld]
  · rintro s u n i op bid e c back got status r hfree hfront rfl hop hc
    simp only [List.mem_cons, List.not_mem_nil, or_false, Prod.mk.injEq] at hc
    rcases hc with ⟨rfl, rfl, rfl, rfl⟩ | ⟨rfl, rfl, rfl, rfl⟩ | ⟨rfl, rfl, rfl, rfl⟩ | ⟨rfl, rfl, rfl, rfl⟩ |
      ⟨rfl, rfl, rfl, rfl⟩ | ⟨rfl, rfl, rfl, rfl⟩ | ⟨rfl, rfl, rfl, rfl⟩
    · exact exec_swyCommand_taken hfree hfront hop rfl rfl rfl
    · exact exec_swyCommand_taken hfree hfront hop rfl rfl rfl
    · exact exec_swyCommand_taken hfree hfront hop rfl rfl (ite_not _ _ _).symm
    · exact exec_swyCommand_taken hfree hfront hop rfl rfl rfl
    · exact exec_swyCommand_taken hfree hfront hop rfl rfl rfl
    · exact exec_swyCommand_taken hfree hfront hop (exec_canopyDrop n s) rfl rfl
    · refine exec_swyCommand_taken hfree hfront hop rfl rfl ?_
      simp only [Bool.not_eq_true']
  · refine ⟨fun habsent => ?_, fun d hstored hexpired => ?_, fun d hstored hlives hbad => ?_⟩
    · refine State.resume_noBundle hpool hrange hinvalid ?_
      rw [hmember, State.bundleFor_absent habsent]
    · refine State.resume_noBundle hpool hrange hinvalid ?_
      rw [hmember, State.bundleFor_expired hstored hexpired]
    · refine State.resume_badHeader hpool hrange hinvalid ?_ hbad
      rw [hmember, State.bundleFor_stored hstored hlives]

end Sys2Proof.Machine
end

section
/-! Proofs: Sapway messages and timers (09_state_movement.md R204, R205, R208, Table 9.4). -/

namespace Sys2Proof.Machine

open Sys2Proof

/-! Messages (Table 9.4) -/

/-- A message is handled by the run of its type in the mail without it; one that the run does not take up leaves the
mail as it is, less what its CRC discards. -/
theorem exec_swyMail {s u t : State} {n type k : Nat} {m : List Byte} {c : Instr}
    {run : Nat → Nat → List Byte → State → State × Bool} (hc : exec c s = .next (s.swyMail n type run))
    (hmail : (s.cleanMail n).mailOf n type = some (k, m)) (hu : u = (s.cleanMail n).dropMail n (k, m))
    (hrun : (if (run k (le m 8 8) m u).2 then (run k (le m 8 8) m u).1 else s.cleanMail n) = t) :
    exec c s = .next (t.kvSettle n).deliver := by
  subst hu hrun
  rw [hc]
  simp only [State.swyMail, State.takeMail, hmail]
  rcases run k (le m 8 8) m ((s.cleanMail n).dropMail n (k, m)) with ⟨t, _ | _⟩ <;> rfl

/-! Timers (R205, R208) -/

section
variable {s : State} {n bid : Nat} {b : Sending} (hsending : s.sending n bid = some b)
include hsending

theorem exec_handoffTimeout_fails (hconn : b.conn.isSome = true) (hphase : b.phase ≠ .accepted) :
    exec (.handoffTimeout n bid) s = .next ((s.failAttempt n b 0x23).kvSettle n).deliver := by
  have hopen : ¬ (b.conn.isNone = true ∨ b.phase = .accepted) := by
    rw [Option.isNone_iff_eq_none, not_or]
    exact ⟨Option.isSome_iff_ne_none.mp hconn, hphase⟩
  change execHandoffTimeout n bid s = _
  simp only [execHandoffTimeout, hsending, if_neg hopen]

theorem exec_handoffTimeout_passed (hpassed : b.conn = none ∨ b.phase = .accepted) :
    exec (.handoffTimeout n bid) s = .next s := by
  rw [← Option.isNone_iff_eq_none] at hpassed
  change execHandoffTimeout n bid s = _
  simp only [execHandoffTimeout, hsending, if_pos hpassed]

end

theorem exec_receiverTimeout {s : State} {n conn bid : Nat} {a : Arrival} {h : BundleHeader}
    (harrival : s.arrival n conn bid = some a) (hh : h = BundleHeader.ofBytes a.words) :
    exec (.receiverTimeout n conn bid) s = .next (((((s.endArrival n a true).flagSwy Fld.SWY_ERROR_STATE_LOST n
      bid).swyEvent n 6 h.request bid h.epoch (a.seq.getD 0)).acceptMore n).kvSettle n).deliver := by
  subst hh
  change execReceiverTimeout n conn bid s = _
  simp only [execReceiverTimeout, harrival]

theorem exec_bundleExpiry_store {s : State} {n id : Nat}
    (hstored : ((s.stand n).sapway.store.get? id).isSome = true) :
    exec (.bundleExpiry n false id) s = .next ((s.freeBundle n id).swyEvent n 4 0 id 0 0) := by
  change execBundleExpiry n false id s = _
  simp only [execBundleExpiry, Option.isNone_eq_false_iff.mpr hstored, Bool.false_eq_true, if_false]

theorem exec_bundleExpiry_hold {s : State} {n id : Nat} (hheld : ((s.stand n).sapway.holds.get? id).isSome = true) :
    exec (.bundleExpiry n true id) s = .next (((s.updSapway n (fun w =>
      { w with holds := w.holds.del id })).releaseSeq n id).swyEvent n 4 0 0 0 id) := by
  change execBundleExpiry n true id s = _
  simp only [execBundleExpiry, Option.isNone_eq_false_iff.mpr hheld, Bool.false_eq_true, if_true, if_false]

theorem State.store_freeBundle_self (s : State) (n id : Nat) :
    ((s.freeBundle n id).stand n).sapway.store.get? id = none := by
  rw [State.freeBundle, State.updSapway, State.stand_updStand_self]
  exact (SMap.get?_del _ id id).trans (if_pos rfl)

/-- Settles O34: a message is handled once by the run of its type, whose answers act on the move or the arrival that they
name, and each timer ends what it was set for. -/
theorem swyMessages : Obligations.SwyMessages := by
  refine ⟨fun s u n type k m c t hmail hu hc => ?_, fun s n bid b hsending => ⟨exec_handoffTimeout_fails hsending,
    exec_handoffTimeout_passed hsending⟩, fun s n conn bid a h => exec_receiverTimeout,
    fun s n id hstored => ⟨exec_bundleExpiry_store hstored, s.store_freeBundle_self n id⟩,
    fun s n id => exec_bundleExpiry_hold⟩
  simp only [List.mem_cons, List.not_mem_nil, or_false, Prod.mk.injEq] at hc
  rcases hc with ⟨rfl, rfl, rfl⟩ | ⟨rfl, rfl, rfl⟩ | ⟨rfl, rfl, rfl⟩ | ⟨rfl, rfl, rfl⟩ | ⟨rfl, rfl, rfl⟩ |
    ⟨rfl, rfl, rfl⟩
  · exact exec_swyMail rfl hmail hu rfl
  · exact exec_swyMail rfl hmail hu rfl
  · refine exec_swyMail rfl hmail hu ?_
    cases u.answered n k (le m 8 8) m <;> rfl
  · refine exec_swyMail rfl hmail hu ?_
    cases u.answered n k (le m 8 8) m <;> rfl
  · refine exec_swyMail rfl hmail hu ?_
    cases u.arrival n k (le m 8 8) <;> rfl
  · refine exec_swyMail rfl hmail hu ?_
    cases u.answered n k (le m 8 8) m <;> rfl

end Sys2Proof.Machine
end

section
/-! Proofs: packet headers (10_fabric_transport.md R225, Table 10.3). -/

namespace Sys2Proof.Machine

open Sys2Proof

/-! Big-endian fields laid one after another (R4) -/

@[simp] theorem length_toBytesBE (n x : Nat) : (toBytesBE n x).length = n := by
  rw [toBytesBE, List.length_reverse, length_toBytes]

/-- The field at the front of a string reads as its number. -/
theorem be_toBytesBE_append (n x : Nat) (t : List Byte) : be (toBytesBE n x ++ t) 0 n = x % 256 ^ n := by
  have hfront : sub (toBytesBE n x ++ t) 0 n = toBytesBE n x := by
    simp [sub]
  rw [be, hfront, toBytesBE, List.reverse_reverse, ofBytes_toBytes]

/-- A read behind a field does not see the field. -/
theorem be_toBytesBE_append_of_le {m off : Nat} (h : m ≤ off) (x n : Nat) (t : List Byte) :
    be (toBytesBE m x ++ t) off n = be t (off - m) n := by
  have hskip : (toBytesBE m x ++ t).drop off = t.drop (off - m) := by
    rw [List.drop_append, length_toBytesBE, List.drop_of_length_le (by simpa using h), List.nil_append]
  simp only [be, sub, hskip]

/-! The header (R225, Table 10.3) -/

theorem Header.length_bytes (h : Header) : h.bytes.length = 40 := by
  simp only [Header.bytes, List.length_append, length_toBytesBE, List.length_cons, List.length_nil]

/-- The fields of a header in the order of Table 10.3, with the reserved byte 35, before what follows it. -/
theorem Header.bytes_append (h : Header) (text : List Byte) : h.bytes ++ text =
    toBytesBE 1 (h.version * 16 + h.type) ++ (toBytesBE 1 (h.attempt * 16) ++ (toBytesBE 2 h.dstConn ++
    (toBytesBE 2 h.dstInc ++ (toBytesBE 2 h.srcConn ++ (toBytesBE 2 h.srcInc ++ (toBytesBE 2 h.keyId ++
    (toBytesBE 4 (h.psn % 2 ^ 32) ++ (toBytesBE 8 h.region ++ (toBytesBE 2 h.gen ++ (toBytesBE 6 (h.offset % 2 ^ 48) ++
    (toBytesBE 2 h.len ++ (toBytesBE 1 h.status ++ (toBytesBE 1 0 ++ (toBytesBE 4 h.request ++ text)))))))))))))) := by
  have hzero : toBytesBE 1 0 = [0] := rfl
  simp only [Header.bytes, List.append_assoc, hzero]

/-- What each field of a packet reads as, whatever its value: cut to the bytes that it takes. -/
theorem Header.parse_bytes_append (h : Header) (text : List Byte) : Header.parse (h.bytes ++ text) =
    { version := (h.version * 16 + h.type) % 2 ^ 8 / 16, type := (h.version * 16 + h.type) % 2 ^ 8 % 16,
      attempt := h.attempt * 16 % 2 ^ 8 / 16, dstConn := h.dstConn % 2 ^ 16, dstInc := h.dstInc % 2 ^ 16 % 2 ^ 11,
      srcConn := h.srcConn % 2 ^ 16, srcInc := h.srcInc % 2 ^ 16 % 2 ^ 11, keyId := h.keyId % 2 ^ 16,
      psn := h.psn % 2 ^ 32, region := h.region % 2 ^ 64, gen := h.gen % 2 ^ 16, offset := h.offset % 2 ^ 48,
      len := h.len % 2 ^ 16, status := h.status % 2 ^ 8, request := h.request % 2 ^ 32,
      clean := h.dstInc % 2 ^ 16 / 2 ^ 11 == 0 && h.srcInc % 2 ^ 16 / 2 ^ 11 == 0 } := by
  have hattempt : h.attempt * 16 % 256 % 16 = 0 := by omega
  rw [Header.bytes_append]
  simp [Header.parse, be_toBytesBE_append, be_toBytesBE_append_of_le, hattempt]

/-- Settles O35: the fields of a header lie in bytes of their own, and those in range lose nothing there. -/
theorem packetHeaders : Obligations.PacketHeaders := by
  intro h text hversion htype hattempt hdstConn hdstInc hsrcConn hsrcInc hkeyId hpsn hregion hgen hoffset hlen hstatus
    hrequest hclean
  refine ⟨h.length_bytes, ?_⟩
  have hdstInc16 : h.dstInc % 2 ^ 16 = h.dstInc := Nat.mod_eq_of_lt (by omega)
  have hsrcInc16 : h.srcInc % 2 ^ 16 = h.srcInc := Nat.mod_eq_of_lt (by omega)
  have hversion8 : (h.version * 16 + h.type) % 2 ^ 8 / 16 = h.version := by omega
  have htype8 : (h.version * 16 + h.type) % 2 ^ 8 % 16 = h.type := by omega
  have hattempt8 : h.attempt * 16 % 2 ^ 8 / 16 = h.attempt := by omega
  rw [Header.parse_bytes_append, hversion8, htype8, hattempt8, hdstInc16, hsrcInc16, Nat.mod_eq_of_lt hdstConn,
    Nat.mod_eq_of_lt hdstInc, Nat.mod_eq_of_lt hsrcConn, Nat.mod_eq_of_lt hsrcInc, Nat.mod_eq_of_lt hkeyId,
    Nat.mod_eq_of_lt hpsn, Nat.mod_eq_of_lt hregion, Nat.mod_eq_of_lt hgen, Nat.mod_eq_of_lt hoffset,
    Nat.mod_eq_of_lt hlen, Nat.mod_eq_of_lt hstatus, Nat.mod_eq_of_lt hrequest, Nat.div_eq_of_lt hdstInc,
    Nat.div_eq_of_lt hsrcInc]
  cases h
  cases hclean
  rfl

end Sys2Proof.Machine
end

section
/-! Proofs: the links of ports, pauses, and the frame that goes next (10_fabric_transport.md R221, R222, R233;
12_shaping_arbitration.md R269; 13_associative_search.md R285). -/

namespace Sys2Proof.Machine

open Sys2Proof

/-! Bringing the credits of a port up to now (R270) -/

@[simp] theorem State.fld_updPort (s : State) (p : Nat) (g : Port → Port) (f : Field) (i j : Nat) :
    (s.updPort p g).fld f i j = s.fld f i j := rfl

@[simp] theorem State.port_addFld (s : State) (f : Field) (i j n p : Nat) : (s.addFld f i j n).port p = s.port p := rfl

@[simp] theorem State.fld_portTick (s : State) (p : Nat) (f : Field) (i j : Nat) :
    (s.portTick p).fld f i j = s.fld f i j := rfl

@[simp] theorem State.flag_portTick (s : State) (p : Nat) (f : Field) (i j : Nat) :
    (s.portTick p).flag f i j = s.flag f i j := rfl

@[simp] theorem State.portRate_portTick (s : State) (p q : Nat) : (s.portTick p).portRate q = s.portRate q := rfl

@[simp] theorem State.timeNs_portTick (s : State) (p : Nat) : (s.portTick p).timeNs = s.timeNs := rfl

/-- Only the credits of the port change, and the time up to which they are brought. -/
theorem State.port_portTick (s : State) (p : Nat) : ∃ m, (s.portTick p).port p =
    { s.port p with credits := m, creditAt := s.timeNs } := ⟨_, s.port_updPort_self p _⟩

@[simp] theorem State.queue_portTick (s : State) (p c : Nat) : ((s.portTick p).port p).queue c = (s.port p).queue c := by
  obtain ⟨m, h⟩ := s.port_portTick p
  rw [h]
  rfl

@[simp] theorem State.freeAt_portTick (s : State) (p : Nat) : ((s.portTick p).port p).freeAt = (s.port p).freeAt := by
  obtain ⟨m, h⟩ := s.port_portTick p
  rw [h]

/-! PORT_LINK_UP and PORT_LINK_DOWN (R221, R233) -/

section
variable (s : State) (p v : Nat)

theorem State.linkUp_setMode : (s.setFld Fld.FAB_PORT_STATUS_MODE p 0 v).fld Fld.FAB_PORT_STATUS_LINK_UP p =
    s.fld Fld.FAB_PORT_STATUS_LINK_UP p := State.fld_setFld_apart (by rfl) (by decide) (.inr (by decide)) s p 0 v

theorem State.linkUp_setFecLock : (s.setFld Fld.FAB_PORT_STATUS_FEC_LOCK p 0 v).fld Fld.FAB_PORT_STATUS_LINK_UP p =
    s.fld Fld.FAB_PORT_STATUS_LINK_UP p := State.fld_setFld_apart (by rfl) (by decide) (.inr (by decide)) s p 0 v

theorem State.mode_setFecLock : (s.setFld Fld.FAB_PORT_STATUS_FEC_LOCK p 0 v).fld Fld.FAB_PORT_STATUS_MODE p =
    s.fld Fld.FAB_PORT_STATUS_MODE p := State.fld_setFld_apart (by rfl) (by decide) (.inr (by decide)) s p 0 v

end

theorem State.link_live {s : State} {p : Nat} (hp : p < 16) (hup : s.flag Fld.FAB_PORT_STATUS_LINK_UP p = true) :
    ¬ (16 ≤ p ∨ (!s.flag Fld.FAB_PORT_STATUS_LINK_UP p) = true) := by
  simp only [Nat.not_le_of_lt hp, hup, Bool.not_true, Bool.false_eq_true, or_self, not_false_eq_true]

/-- The link of a port comes up where no connection has anything to send. -/
theorem exec_portLinkUp_idle {s : State} {p : Nat} (hrunning : s.phase = .running) (hp : p < 16)
    (henabled : s.flag Fld.FAB_PORT_CTRL_ENABLE p = true) (hdown : s.flag Fld.FAB_PORT_STATUS_LINK_UP p = false)
    (hconns : s.conns = []) : exec (.portLinkUp p) s = .next ((((s.portTick p).setFld Fld.FAB_PORT_STATUS_LINK_UP p 0
      1).setFld Fld.FAB_PORT_STATUS_MODE p 0 (s.fld Fld.FAB_PORT_CTRL_MODE p)).setFld Fld.FAB_PORT_STATUS_FEC_LOCK p 0
        1) := by
  have hticked : (s.portTick p).conns = [] := hconns
  have hlive : ¬ (s.phase ≠ .running ∨ 16 ≤ p ∨ (!s.flag Fld.FAB_PORT_CTRL_ENABLE p) = true ∨
      s.flag Fld.FAB_PORT_STATUS_LINK_UP p = true) := by
    simp only [hrunning, Nat.not_le_of_lt hp, henabled, hdown, ne_eq, not_true_eq_false, Bool.not_true,
      Bool.false_eq_true, or_self, not_false_eq_true]
  change execPortLinkUp p s = _
  simp only [execPortLinkUp, if_neg hlive, State.setFld_conns, hticked, List.foldl_nil]

/-- A link that goes down empties the queues of its port, is recorded, and what left on it goes out again. -/
theorem exec_portLinkDown_up {s u : State} {p : Nat} {mine : List (Nat × Conn)} (hp : p < 16)
    (hup : s.flag Fld.FAB_PORT_STATUS_LINK_UP p = true)
    (hu : u = ((((s.portTick p).setFld Fld.FAB_PORT_STATUS_LINK_UP p 0 0).setFld Fld.FAB_PORT_STATUS_FEC_LOCK p 0
      0).setFld Fld.FAB_PORT_STATUS_DOWN_EVENT p 0 1).updPort p (fun q => { q with queues := [], sending := none }))
    (hmine : mine = (u.event ⟨0x0401, none, 6 + p / 8, 33, [p * 2 ^ 8]⟩).conns.filter
      (fun e => (connPorts e.1 e.2).contains p)) :
    exec (.portLinkDown p) s = .next (mine.foldl (fun s e =>
      s.retransmit e.1 ((e.2.out.filter (·.port == some p)).map (·.psn)))
        ((u.event ⟨0x0401, none, 6 + p / 8, 33, [p * 2 ^ 8]⟩).sharedFault (distinct (mine.map (·.2.stand))) (6 + p / 8) 33
          0 p)).deliver := by
  subst hu hmine
  change execPortLinkDown p s = _
  simp only [execPortLinkDown, if_neg (State.link_live hp hup)]

theorem exec_portLinkDown_down {s : State} {p : Nat} (hdown : s.flag Fld.FAB_PORT_STATUS_LINK_UP p = false) :
    exec (.portLinkDown p) s = .next s := by
  change execPortLinkDown p s = _
  simp only [execPortLinkDown, hdown, Bool.not_false, or_true, if_true]

/-! PRIORITY_FLOW_CONTROL_FRAME (R222) -/

/-- The pauses of a frame are set class by class. -/
theorem nextWith_priorityFlowControlFrame_paused {s : State} {p : Nat} (hp : p < 16)
    (hup : s.flag Fld.FAB_PORT_STATUS_LINK_UP p = true) (enable : Nat) (quanta : List Nat) :
    NextWith (exec (.priorityFlowControlFrame p enable quanta) s) (fun t => (t.port p).paused =
      ((bitsOf 8 enable).filter (fun c => (s.fld Fld.FAB_PORT_CTRL_PFC_CLASSES p).testBit c)).foldl
        (fun (m : SMap Nat) c => m.set c (s.timeNs + ceilDiv (quanta.getD c 0 % 2 ^ 16 * 512) (s.portRate p)))
          (s.port p).paused) := by
  refine ⟨_, congrArg Host.Outcome.next (if_pos ⟨hp, hup⟩), ?_⟩
  exact congrArg Port.paused ((State.port_addFld ..).trans (s.port_updPort_self p _))

/-- A class is paused for its quanta where the frame and the port's configuration name it. -/
theorem nextWith_priorityFlowControlFrame {s : State} {p c : Nat} (hp : p < 16)
    (hup : s.flag Fld.FAB_PORT_STATUS_LINK_UP p = true) (hc : c < 8) (enable : Nat) (quanta : List Nat) :
    NextWith (exec (.priorityFlowControlFrame p enable quanta) s) (fun t => (t.port p).paused.get? c =
      if enable.testBit c ∧ (s.fld Fld.FAB_PORT_CTRL_PFC_CLASSES p).testBit c
        then some (s.timeNs + ceilDiv (quanta.getD c 0 % 2 ^ 16 * 512) (s.portRate p))
        else (s.port p).paused.get? c) := by
  obtain ⟨t, hexec, hpaused⟩ := nextWith_priorityFlowControlFrame_paused hp hup enable quanta
  refine ⟨t, hexec, ?_⟩
  dsimp only
  rw [hpaused, SMap.get?_foldl_set]
  simp only [bitsOf, List.mem_filter, List.mem_range, hc, true_and]

/-! FRAME_TRANSMIT (R269) -/

theorem exec_frameTransmit {s : State} {p : Nat} (hp : p < 16) : exec (.frameTransmit p) s = .next (s.transmit p) :=
  congrArg Host.Outcome.next (if_pos hp)

/-- The search from class 7 down ends at the highest class that passes. -/
theorem find?_reverse_range {f : Nat → Bool} {n c : Nat} (hc : c < n) (hf : f c = true)
    (habove : ∀ k < n, c < k → f k = false) : (List.range n).reverse.find? f = some c := by
  induction n with
  | zero => omega
  | succ n ih =>
    rw [List.range_succ, List.reverse_append, List.reverse_singleton, List.singleton_append, List.find?_cons]
    rcases Nat.lt_or_eq_of_le (Nat.le_of_lt_succ hc) with hlt | rfl
    · rw [habove n (Nat.lt_succ_self n) hlt]
      exact ih hlt fun k hk => habove k (Nat.lt_succ_of_lt hk)
    · rw [hf]

/-- Nothing is sent while the link is down, the port is busy or no class is eligible. -/
theorem State.transmit_none {s : State} {p : Nat} (h : s.flag Fld.FAB_PORT_STATUS_LINK_UP p = false ∨
    s.timeNs < (s.port p).freeAt ∨ ∀ c < 8, (s.portTick p).classEligible p c = false) :
    s.transmit p = s.portTick p := by
  simp only [State.transmit, State.flag_portTick, State.freeAt_portTick, State.timeNs_portTick]
  rcases h with hdown | hbusy | hnone
  · simp only [hdown, Bool.not_false, Bool.true_or, if_true]
  · simp only [hbusy, decide_true, Bool.or_true, if_true]
  · have hfind : (List.range 8).reverse.find? ((s.portTick p).classEligible p) = none := by
      simpa using hnone
    rw [hfind]
    exact ite_self _

/-- A free port sends the head of its highest eligible class, which leaves its queue. -/
theorem State.transmit_head {s : State} {p c : Nat} {x : Queued} {rest : List Queued}
    (hup : s.flag Fld.FAB_PORT_STATUS_LINK_UP p = true) (hfree : (s.port p).freeAt ≤ s.timeNs) (hc : c < 8)
    (heligible : (s.portTick p).classEligible p c = true)
    (hhighest : ∀ k < 8, c < k → (s.portTick p).classEligible p k = false) (hqueue : (s.port p).queue c = x :: rest) :
    ∃ credits sojourn, (s.transmit p).port p = { (s.portTick p).port p with
      queues := ((s.portTick p).port p).queues.set c rest, sending := some c,
      freeAt := s.timeNs + ceilDiv (wireBits x.frame) (s.portRate p), credits := credits, sent := some x.frame,
      sojourn := sojourn } := by
  simp only [State.transmit, State.flag_portTick, State.freeAt_portTick, State.timeNs_portTick, hup, Bool.not_true,
    Bool.false_or, decide_eq_true_eq, Nat.not_lt_of_le hfree, if_false,
    find?_reverse_range hc heligible hhighest, State.queue_portTick, hqueue, State.portRate_portTick]
  exact ⟨_, _, (State.port_addFld ..).trans ((s.portTick p).port_updPort_self p _)⟩

theorem Port.queue_set (q : Port) (l : List Queued) (c k : Nat) :
    ({ q with queues := q.queues.set c l } : Port).queue k = if k = c then l else q.queue k := by
  rw [Port.queue, SMap.get?_set]
  split <;> rfl

/-! FRAME_UNCLASSIFIED (R222, R285) -/

/-- A frame that carries no Ramuha packet is counted, and classified where the MAC accepts it. -/
theorem exec_frameUnclassified_other {s u : State} {p : Nat} {f : FabFrame} (hp : p < 16)
    (hup : s.flag Fld.FAB_PORT_STATUS_LINK_UP p = true) (hs : s.isRamuha (p / 8) f = false)
    (hu : u = s.addFld Fld.FAB_PORT_RX_FRAMES_COUNT p 0 1) (hother : u.isRamuha (p / 8) f = false) :
    exec (.frameUnclassified p f) s = .next (if u.macAccepts p f then u.classify p f else u.rxDrop p) := by
  subst hu
  change execFrameUnclassified p f s = _
  simp only [execFrameUnclassified, if_neg (State.link_live hp hup), hs, hother, Bool.false_and, Bool.false_eq_true, if_false,
    Bool.not_false, if_true]
  cases (s.addFld Fld.FAB_PORT_RX_FRAMES_COUNT p 0 1).macAccepts p f <;> rfl

theorem exec_frameUnclassified_down {s : State} {p : Nat} (hdown : s.flag Fld.FAB_PORT_STATUS_LINK_UP p = false)
    (f : FabFrame) : exec (.frameUnclassified p f) s = .next s := by
  change execFrameUnclassified p f s = _
  simp only [execFrameUnclassified, hdown, Bool.not_false, or_true, if_true]

/-- Settles O36: a link sets and clears its own bits of FAB_PORT_STATUS, a pause sets the classes that both masks name, and
the search from class 7 down ends at the highest eligible class. -/
theorem portLinks : Obligations.PortLinks := by
  refine ⟨fun s p hrunning hp henabled hdown hconns => ?_, fun s u p mine => exec_portLinkDown_up,
    fun s p enable c quanta hp hup hc => nextWith_priorityFlowControlFrame hp hup hc enable quanta,
    fun s p hp h => ?_, fun s p c x rest hp hup hfree hc heligible hhighest hqueue => ?_,
    fun s u p f => exec_frameUnclassified_other,
    fun s p f hdown => ⟨exec_frameUnclassified_down hdown f, exec_portLinkDown_down hdown⟩⟩
  · refine ⟨_, exec_portLinkUp_idle hrunning hp henabled hdown hconns, ?_, ?_, rfl, rfl⟩
    · rw [State.flag, State.linkUp_setFecLock, State.linkUp_setMode, State.fld_setFld_self (by decide)]
      rfl
    · rw [State.mode_setFecLock, State.fld_setFld_self (by decide)]
      exact Nat.mod_eq_of_lt (bits_lt _ _ _)
  · rw [exec_frameTransmit hp, State.transmit_none h]
  · obtain ⟨credits, sojourn, hport⟩ := State.transmit_head hup hfree hc heligible hhighest hqueue
    refine ⟨_, exec_frameTransmit hp, ?_, ?_, ?_, fun k _ hk => ?_⟩ <;> rw [hport]
    · exact (Port.queue_set _ rest c c).trans (if_pos rfl)
    · exact (Port.queue_set _ rest c k).trans ((if_neg hk).trans (s.queue_portTick p k))

end Sys2Proof.Machine
end

section
/-! Proofs: the commands of a stand's fabric ring (10_fabric_transport.md R227, R228, R238, R239, R243, R246). -/

namespace Sys2Proof.Machine

open Sys2Proof

/-! Taking a command (R246) -/

section
variable {s t : State} {n i op x : Nat} {e : List Byte} {run : List Byte → Nat → State → State × Option Nat} {c : Instr}
  (hfront : s.runFront .fab n = some (i, e)) (hop : le e 0 1 = op) (hc : exec c s = .next (s.fabCommand n op run))
include hfront hop hc

theorem exec_fabCommand_completes (hrun : run e i (s.runTake .fab n i) = (t, some x)) :
    exec c s = .next (t.runDone .fab n i x).deliver := by
  simp only [hc, State.fabCommand, State.runCommand, hfront, hop, hrun, if_true]

theorem exec_fabCommand_inProgress (hrun : run e i (s.runTake .fab n i) = (t, none)) :
    exec c s = .next t.deliver := by
  simp only [hc, State.fabCommand, State.runCommand, hfront, hop, hrun, if_true]

end

section
variable {s u : State} {n i k a : Nat} {e : List Byte} (hfront : s.runFront .fab n = some (i, e))
  (hu : u = s.runTake .fab n i)
include hfront hu

/-! OPEN (R227, R243) -/

section
variable {v : State} {b : List Byte} {c : Conn} {q : Nat} (hop : le e 0 1 = 1) (ha : a = le e 16 6)
  (hfirst : (u.noted n a 32).descriptor n a 32 = some b)
  (hv : v = (u.noted n a 32).noted n (le b 16 6) (32 * bits (le b 0 8) 30 4))
  (hdescriptor : v.descriptor n a 32 = some b) (hconn : v.readConn n b = some (q, c)) (hkeyId : c.keyId ≠ 0)
  (hkey : (v.jobKey n c.keyId).isSome = true)
include hop ha hfirst hv hdescriptor hconn hkeyId hkey

theorem exec_fabOpen_opens {inc first : Nat} (hinc : v.nextInc q c.keyId = some (inc, first)) {w : State}
    (hw : w = { v with
      conns := v.conns.set q { c with inc := inc }, connPast := v.connPast.set q ⟨inc, c.keyId, first⟩ }) :
    exec (.fabOpen n) s = .next ((w.pokeLe n (a + 24) 8 (setBits (le b 24 8) 0 11 inc)).runDone .fab n i 0).deliver := by
  subst hw hu ha
  refine exec_fabCommand_completes hfront hop rfl ?_
  simp only [hfirst, Option.getD_some, ← hv, hdescriptor, Option.bind_some, hconn, Option.map_some, hkeyId, false_or,
    Option.isNone_eq_false_iff.mpr hkey, Bool.false_eq_true, if_false, hinc]

/-- An incarnation that would come round to the first one under its key refuses the OPEN. -/
theorem exec_fabOpen_spent (hinc : v.nextInc q c.keyId = none) :
    exec (.fabOpen n) s = .next ((v.fabRefuse n q 1 0x16).1.runDone .fab n i 0x16).deliver := by
  subst hu ha
  refine exec_fabCommand_completes hfront hop rfl ?_
  simp only [hfirst, Option.getD_some, ← hv, hdescriptor, Option.bind_some, hconn, Option.map_some, hkeyId, false_or,
    Option.isNone_eq_false_iff.mpr hkey, Bool.false_eq_true, if_false, hinc]
  rfl

end

/-! CONNECT and CLOSE (R228) -/

section
variable {c : Conn} (hk : k = le e 4 4 % 2 ^ 17) (hconn : u.conn k = some c)
include hk hconn

theorem exec_fabConnect_opens (hop : le e 0 1 = 2) (hstand : c.stand = n) (hstate : c.state = .bound) :
    exec (.fabConnect n) s = .next ((u.updConn k (fun c =>
      { c with state := .open_, peerInc := le e 8 8 % 2 ^ 11 })).runDone .fab n i 0).deliver := by
  subst hu hk
  refine exec_fabCommand_completes hfront hop rfl ?_
  simp only [hconn, hstand, hstate, and_self, if_true]

theorem exec_fabConnect_refused (hop : le e 0 1 = 2) (hbad : c.stand ≠ n ∨ c.state ≠ .bound) :
    exec (.fabConnect n) s = .next ((u.fabRefuse n k 2 0x10).1.runDone .fab n i 0x10).deliver := by
  have hclosed : ¬ (c.stand = n ∧ c.state = .bound) := fun ⟨hstand, hstate⟩ =>
    hbad.elim (absurd hstand) (absurd hstate)
  subst hu hk
  refine exec_fabCommand_completes hfront hop rfl ?_
  simp only [hconn, if_neg hclosed]
  rfl

variable (hop : le e 0 1 = 3) (hstand : c.stand = n) (hstate : c.state = .open_)
include hop hstand hstate

theorem exec_fabClose_frees (hout : c.out = []) : exec (.fabClose n) s =
    .next (((u.outcomes (c.waiting.flatMap (FabOp.failed 9))).freeConn k).runDone .fab n i 0).deliver := by
  subst hu hk
  refine exec_fabCommand_completes hfront hop rfl ?_
  simp only [hconn, hstand, hstate, hout, ne_eq, not_true_eq_false, reduceCtorEq, or_self, if_false,
    List.isEmpty_nil, or_true, if_true]

theorem exec_fabClose_closing (hout : c.out ≠ []) : exec (.fabClose n) s = .next (((u.updConn k (fun c =>
    { c with state := .closing, waiting := [], closer := some i })).outcomes
      (c.waiting.flatMap (FabOp.failed 9))).deliver) := by
  subst hu hk
  refine exec_fabCommand_inProgress hfront hop rfl ?_
  simp only [hconn, hstand, hstate, ne_eq, not_true_eq_false, reduceCtorEq, or_self, if_false,
    List.isEmpty_iff, hout]

end

/-! REGISTER and REVOKE (R238, R239) -/

theorem exec_fabRegister_registers {v w : State} {b : List Byte} {die key idx : Nat} {r : Region}
    (hop : le e 0 1 = 4) (ha : a = le e 16 6) (hv : v = u.noted n a 32) (hdescriptor : v.descriptor n a 32 = some b)
    (hregion : v.readRegion n b = some (die, false, key, r)) (hkey : (v.jobKey n r.keyId).isSome = true)
    (hregister : v.register n die r = (w, some idx)) : exec (.fabRegister n) s = .next ((((w.pokeLe n (a + 20) 2
      (((w.regions.get? idx).map (·.gen)).getD 0)).pokeLe n (a + 24) 8 (w.regionKey idx)).runDone .fab n i
        0).deliver) := by
  subst hu ha
  refine exec_fabCommand_completes hfront hop rfl ?_
  simp only [← hv, hdescriptor, Option.bind_some, hregion, Option.isNone_eq_false_iff.mpr hkey, Bool.false_eq_true,
    if_false, hregister]

theorem exec_fabRevoke_begins {idx : Nat} (hop : le e 0 1 = 5) (hregion : u.activeRegion n (le e 8 8) = some idx) :
    exec (.fabRevoke n) s = .next (u.revoke idx (some i)).deliver := by
  subst hu
  refine exec_fabCommand_inProgress hfront hop rfl ?_
  simp only [hregion]

theorem exec_fabRevoke_refused (hop : le e 0 1 = 5) (hregion : u.activeRegion n (le e 8 8) = none) :
    exec (.fabRevoke n) s = .next ((u.fabRefuse n 0 5 0x10).1.runDone .fab n i 0x10).deliver := by
  subst hu
  refine exec_fabCommand_completes hfront hop rfl ?_
  simp only [hregion]
  rfl

end

/-- Settles O37: a command that is taken is its run completed with its result, or left in progress without one. -/
theorem fabricRing : Obligations.FabricRing := by
  rintro s u n i op k a e hfront hu hop hk ha
  refine ⟨?_, ?_, ?_, ?_, ?_, ?_, ?_, ?_, fun idx => rfl⟩
  · rintro v b c q inc first rfl hfirst hv hdescriptor hconn
    exact ⟨fun hkeyId hkey hinc w hw =>
        exec_fabOpen_opens hfront hu hop ha hfirst hv hdescriptor hconn hkeyId hkey hinc hw,
      exec_fabOpen_spent hfront hu hop ha hfirst hv hdescriptor hconn⟩
  · rintro c rfl hconn
    exact exec_fabConnect_opens hfront hu hk hconn hop
  · rintro c rfl hconn
    exact exec_fabConnect_refused hfront hu hk hconn hop
  · rintro c rfl hconn
    exact exec_fabClose_frees hfront hu hk hconn hop
  · rintro c rfl hconn
    exact exec_fabClose_closing hfront hu hk hconn hop
  · rintro die key idx r v w b rfl hv hdescriptor hregion hkey hregister
    exact exec_fabRegister_registers hfront hu hop ha hv hdescriptor hregion hkey hregister
  · rintro idx rfl
    exact exec_fabRevoke_begins hfront hu hop
  · rintro rfl
    exact exec_fabRevoke_refused hfront hu hop

end Sys2Proof.Machine
end

section
/-! Proofs: sequenced packets as a connection sends, acknowledges and accepts them (10_fabric_transport.md R229-R232,
R237; 11_fabric_memory.md R254). -/

namespace Sys2Proof.Machine

open Sys2Proof

/-! Connections -/

theorem State.conn_updConn_self (s : State) (k : Nat) (f : Conn → Conn) : (s.updConn k f).conn k = (s.conn k).map f := by
  rw [State.updConn, State.conn]
  cases h : s.conns.get? k with
  | none => rw [State.conn, h, Option.map_none]
  | some c => rw [State.conn, SMap.get?_set_self, h, Option.map_some]

@[simp] theorem State.conn_addFld (s : State) (f : Field) (i j n k : Nat) : (s.addFld f i j n).conn k = s.conn k := rfl

@[simp] theorem State.conn_outcomes (s : State) (l : List FabDone) (k : Nat) : (s.outcomes l).conn k = s.conn k := rfl

@[simp] theorem State.conn_enqueue (s : State) (p c die conn : Nat) (f : FabFrame) (k : Nat) :
    (s.enqueue p c die conn f).conn k = s.conn k := rfl

/-! A transmission (R229) -/

section
variable {s : State} {k : Nat} {c : Conn} (hconn : s.conn k = some c)
include hconn

/-- A packet that is sent, or that no port can carry, leaves its connection as it is but for the rotation. -/
theorem State.conn_sendPacket (d : Conn) (h : Header) (seq : Nat) (text : List Byte) :
    ∃ sent, (s.sendPacket k d h seq text).1.conn k = some { c with sent := sent } := by
  rw [State.sendPacket]
  split
  · rw [State.conn_updConn_self, State.conn_enqueue, State.conn_addFld, hconn]
    exact ⟨_, rfl⟩
  · exact ⟨c.sent, hconn⟩

/-- A transmission notes the port that it left on and keeps the PSNs that are outstanding. -/
theorem State.conn_transmitOut (o : OutPacket) : ∃ sent out, (s.transmitOut k o).conn k =
    some { c with sent := sent, out := out } ∧ out.map (·.psn) = c.out.map (·.psn) := by
  rw [State.transmitOut, hconn]
  dsimp only
  cases s.packetOf k c o with
  | none => exact ⟨c.sent, c.out, hconn, rfl⟩
  | some x =>
    obtain ⟨sent, hsent⟩ := State.conn_sendPacket hconn c x.1 o.psn x.2
    refine ⟨sent, _, (State.conn_updConn_self ..).trans (congrArg (Option.map _) hsent), ?_⟩
    rw [List.map_map]
    refine List.map_congr_left fun y _ => ?_
    dsimp only [Function.comp_apply]
    split
    · exact Eq.symm ‹_›
    · rfl

end

/-! PACKET_SEND (R230, R243) -/

theorem Conn.free_to_send {c : Conn} (hopen : c.state = .open_) (hroom : c.nextPsn < c.u + c.window) :
    ¬ (c.state ≠ .open_ ∨ c.u + c.window ≤ c.nextPsn) :=
  not_or.mpr ⟨(· hopen), Nat.not_le_of_lt hroom⟩

section
variable {s : State} {k : Nat} {c : Conn} (hconn : s.conn k = some c)
  {op : FabOp} {rest : List FabOp} (hwaiting : c.waiting = op :: rest)
include hconn hwaiting

/-- Nothing is sent unless the connection is OPEN and its window has room. -/
theorem State.sendNext_held (hheld : c.state ≠ .open_ ∨ c.u + c.window ≤ c.nextPsn) : s.sendNext k = s := by
  simp only [State.sendNext, hconn, hwaiting, if_pos hheld]

variable (hopen : c.state = .open_) (hroom : c.nextPsn < c.u + c.window)
include hopen hroom

/-- A direction whose PSN would reach 2⁴⁸ fails its next operation. -/
theorem State.sendNext_spent (hspent : 2 ^ 48 ≤ c.nextPsn) : s.sendNext k =
    ((s.updConn k (fun c => { c with waiting := rest })).flagFab Fld.FAB_ERROR_REKEY_NEEDED c.stand k 0
      c.nextPsn).outcomes (op.failed 0x16) := by
  simp only [State.sendNext, hconn, hwaiting, if_neg (Conn.free_to_send hopen hroom), if_pos hspent]

/-- The first waiting operation becomes outstanding under the next PSN, with the timer running. -/
theorem State.sendNext_sends (hpsn : c.nextPsn < 2 ^ 48) : ∃ d, (s.sendNext k).conns.get? k = some d ∧
    d.nextPsn = c.nextPsn + 1 ∧ d.waiting = rest ∧ d.out.map (·.psn) = c.out.map (·.psn) ++ [c.nextPsn] ∧
    d.timer = some (c.timer.getD c.rto) := by
  simp only [State.sendNext, hconn, hwaiting, if_neg (Conn.free_to_send hopen hroom), if_neg (Nat.not_le_of_lt hpsn)]
  generalize hu : s.updConn k _ = u
  have hnumbered : u.conn k = _ := hu ▸ (State.conn_updConn_self ..).trans (congrArg (Option.map _) hconn)
  obtain ⟨sent, out, hsent, hpsns⟩ := State.conn_transmitOut hnumbered { psn := c.nextPsn, op := op }
  refine ⟨_, hsent, rfl, rfl, ?_, rfl⟩
  rw [hpsns, List.map_append, List.map_singleton]

end

/-! RETRANSMIT_TIMEOUT and COALESCE_EXPIRY (R232, R254) -/

theorem exec_retransmitTimeout_running {s : State} {k t : Nat} {c : Conn} (hconn : s.conn k = some c)
    (htimer : c.timer = some t) (hstate : c.state ≠ .closing) :
    exec (.retransmitTimeout k) s = .next (((s.retransmit k (sortBy id (c.out.map (·.psn)))).updConn k (fun c =>
      { c with timer := c.timer.map (fun _ => min (2 * t) 2048) })).deliver) := by
  change execRetransmitTimeout k s = _
  simp only [execRetransmitTimeout, hconn, htimer, hstate, false_and, if_false]

theorem exec_retransmitTimeout_stopped {s : State} {k : Nat} {c : Conn} (hconn : s.conn k = some c)
    (htimer : c.timer = none) : exec (.retransmitTimeout k) s = .next s := by
  change execRetransmitTimeout k s = _
  simp only [execRetransmitTimeout, hconn, htimer]

theorem exec_coalesceExpiry_waiting {s : State} {i : Nat} {p : Pack} (hpack : s.packs[i]? = some p) :
    exec (.coalesceExpiry i) s = .next (s.sendPack p).deliver := by
  change execCoalesceExpiry i s = _
  simp only [execCoalesceExpiry, hpack]

theorem exec_coalesceExpiry_absent {s : State} {i : Nat} (hpack : s.packs[i]? = none) :
    exec (.coalesceExpiry i) s = .next s := by
  change execCoalesceExpiry i s = _
  simp only [execCoalesceExpiry, hpack]

/-! Acceptance (R231, R237) -/

/-- Entries kept by their keys. -/
theorem SMap.get?_filter {α : Type} (m : SMap α) (q : Nat → Bool) (i : Nat) :
    SMap.get? (m.filter (fun x => q x.1)) i = if q i then m.get? i else none := by
  induction m with
  | nil => exact (ite_self _).symm
  | cons x m ih =>
    obtain ⟨j, a⟩ := x
    rw [List.filter_cons, SMap.get?]
    by_cases hj : j = i
    · subst hj
      cases hq : q j <;> simp [SMap.get?, ih, hq]
    · cases q j <;> simp [SMap.get?, ih, hj]

/-- E never falls. -/
theorem Conn.le_e_accept (c : Conn) (psn status : Nat) : c.e ≤ (c.accept psn status).e := by
  refine List.foldlRecOn _ _ (Nat.le_refl c.e) fun e he _ _ => ?_
  split <;> omega

/-- An accepted PSN keeps its outcome until E has passed it by the window. -/
theorem Conn.get?_accepted_accept (c : Conn) (psn status : Nat) :
    (c.accept psn status).accepted.get? psn = some status ∨ psn + c.window < (c.accept psn status).e := by
  refine (Nat.lt_or_ge (psn + c.window) (c.accept psn status).e).symm.imp_left fun hwithin => ?_
  refine (SMap.get?_filter _ (fun x => decide ((c.accept psn status).e ≤ x + c.window)) psn).trans ?_
  rw [if_pos (decide_eq_true hwithin), SMap.get?_set_self]

/-- Settles O38: a transmission keeps the PSNs of its connection, so what PACKET_SEND numbers stays numbered; a timer acts
only while it runs; and an acceptance raises E over the record that it adds. -/
theorem sending : Obligations.Sending := by
  refine ⟨fun s k c op rest hconn hwaiting => ⟨State.sendNext_held hconn hwaiting, rfl, fun hopen hroom hspent => ?_,
    State.sendNext_sends hconn hwaiting⟩, fun s k => rfl, fun s k t c => exec_retransmitTimeout_running,
    fun s k c => exec_retransmitTimeout_stopped, fun s i p => exec_coalesceExpiry_waiting,
    fun s i => exec_coalesceExpiry_absent,
    fun c psn status _ _ => ⟨c.le_e_accept psn status, rfl, c.get?_accepted_accept psn status⟩⟩
  rw [← State.sendNext_spent hconn hwaiting hopen hroom hspent]
  rfl

end Sys2Proof.Machine
end

section
/-! Proofs: packets as a port receives them (10_fabric_transport.md R222, R229-R237, Table 10.7;
11_fabric_memory.md R251). -/

namespace Sys2Proof.Machine

open Sys2Proof

/-! Steps 5 and 6 of Table 10.7: the window and the PSNs accepted before -/

/-- A PSN within W of E on either side. -/
def Conn.InWindow (c : Conn) (psn : Nat) : Prop := c.e ≤ psn + c.window ∧ psn < c.e + c.window

theorem Conn.InWindow.not_outside {c : Conn} {psn : Nat} (h : c.InWindow psn) :
    ¬ (psn + c.window < c.e ∨ c.e + c.window ≤ psn) :=
  not_or.mpr ⟨Nat.not_lt_of_le h.1, Nat.not_le_of_lt h.2⟩

section
variable {s u : State} {p k psn type : Nat} {f : FabFrame} {c : Conn} {hd : Header} {text : List Byte}
  (hreceive : s.receive p type f = (u, some (k, c, hd, text))) (hpsn : psn = nearest c.e hd.psn)
include hreceive hpsn

section
variable (run : Nat → Conn → Header → Nat → List Byte → State → State)

theorem State.sequenced_outside (houtside : psn + c.window < c.e ∨ c.e + c.window ≤ psn) :
    s.sequenced p type f run = u.addFld Fld.FAB_OUT_OF_WINDOW_COUNT (p / 8) 0 1 := by
  simp only [State.sequenced, hreceive, ← hpsn, if_pos houtside]

variable (hwindow : c.InWindow psn)
include hwindow

theorem State.sequenced_recorded {st : Nat} (hst : c.accepted.get? psn = some st) :
    s.sequenced p type f run = (u.addFld Fld.FAB_DUPLICATES_COUNT c.stand 0 1).ackNow k [(psn, st)] := by
  simp only [State.sequenced, hreceive, ← hpsn, if_neg hwindow.not_outside, hst]

theorem State.sequenced_passed (hst : c.accepted.get? psn = none) (hbelow : psn < c.e) :
    s.sequenced p type f run = (u.addFld Fld.FAB_DUPLICATES_COUNT c.stand 0 1).ackNow k [(psn, 0)] := by
  simp only [State.sequenced, hreceive, ← hpsn, if_neg hwindow.not_outside, hst, if_pos hbelow]

theorem State.sequenced_new (hst : c.accepted.get? psn = none) (habove : c.e ≤ psn) :
    s.sequenced p type f run = run k c hd psn text u := by
  simp only [State.sequenced, hreceive, ← hpsn, if_neg hwindow.not_outside, hst, if_neg (Nat.not_lt_of_le habove)]

end

/-! What a new packet of each type does -/

section
variable (hwindow : c.InWindow psn) (hst : c.accepted.get? psn = none) (habove : c.e ≤ psn)
include hwindow hst habove

theorem exec_pktWrite_refused {st : Nat} (htype : type = 1) (htext : text ≠ [])
    (hcheck : st = u.regionCheck (k / 65536) c.stand c.keyId hd.region hd.gen hd.offset text.length false true false)
    (hbad : st ≠ 0) : exec (.pktWrite p f) s = .next (u.acceptPsn k psn st).deliver := by
  subst htype
  change execWrite p f s = _
  simp only [execWrite, State.sequenced_new hreceive hpsn _ hwindow hst habove, List.isEmpty_iff, htext, if_false,
    ← hcheck, hbad, ne_eq, not_false_eq_true, if_true]

theorem exec_pktWrite_written {r : Region} {idx : Nat} (htype : type = 1) (htext : text ≠ [])
    (hcheck : u.regionCheck (k / 65536) c.stand c.keyId hd.region hd.gen hd.offset text.length false true false = 0)
    (hidx : idx = 1048576 * (k / 65536) + hd.region % 2 ^ 20) (hregion : u.regions.get? idx = some r)
    (hplain : (u.stand c.stand).kv.partialRegion ≠ some idx) : exec (.pktWrite p f) s =
      .next ((((u.putBytes c.stand (r.base + hd.offset) text).wrote k c idx hd.offset text).acceptPsn k psn 0).deliver) := by
  subst htype
  change execWrite p f s = _
  simp only [execWrite, State.sequenced_new hreceive hpsn _ hwindow hst habove, List.isEmpty_iff, htext, if_false,
    hcheck, ne_eq, not_true_eq_false, ← hidx, hplain, hregion, Option.map_some, Option.getD_some]

section
variable (htype : type = 2) (hsome : 0 < hd.request) (hmax : hd.request ≤ 1048576)
include htype hsome hmax

theorem exec_pktReadReq_refused {st : Nat}
    (hcheck : st = u.regionCheck (k / 65536) c.stand c.keyId hd.region hd.gen hd.offset hd.request true false false)
    (hbad : st ≠ 0) : exec (.pktReadReq p f) s = .next (u.acceptPsn k psn st).deliver := by
  have hrange : ¬ (hd.request = 0 ∨ 1048576 < hd.request) := by omega
  subst htype
  change execReadReq p f s = _
  simp only [execReadReq, State.sequenced_new hreceive hpsn _ hwindow hst habove, if_neg hrange, ← hcheck, hbad, ne_eq,
    not_false_eq_true, if_true]

theorem exec_pktReadReq_admitted
    (hcheck : u.regionCheck (k / 65536) c.stand c.keyId hd.region hd.gen hd.offset hd.request true false false = 0) :
    exec (.pktReadReq p f) s = .next ((((List.range (ceilDiv hd.request c.limit)).foldl (fun s j => s.fabIssue k
      (.readResp psn (c.limit * j) (1048576 * (k / 65536) + hd.region % 2 ^ 20) (hd.offset + c.limit * j)
        (min c.limit (hd.request - c.limit * j)))) u).acceptPsn k psn 0).deliver) := by
  have hrange : ¬ (hd.request = 0 ∨ 1048576 < hd.request) := by omega
  subst htype
  change execReadReq p f s = _
  simp only [execReadReq, State.sequenced_new hreceive hpsn _ hwindow hst habove, if_neg hrange, hcheck, ne_eq,
    not_true_eq_false, if_false]

end

theorem exec_pktReadResp_awaited {r : ReadWait} (htype : type = 3)
    (hread : c.reads.find? (fun r => r.psn % 2 ^ 32 == hd.region / 2 ^ 32) = some r) :
    exec (.pktReadResp p f) s = .next ((u.takeReadResp k c r hd.status hd.offset text).acceptPsn k psn 0).deliver := by
  subst htype
  change execReadResp p f s = _
  simp only [execReadResp, State.sequenced_new hreceive hpsn _ hwindow hst habove, hread]

theorem exec_pktMemReq_applied {o : MemOp} {base : Nat} {v : State × Nat × Nat × List Byte} (htype : type = 5)
    (hops : parseOps 32 text = some [o]) (harrive : o.arrive = false)
    (hcheck : u.memCheck (k / 65536) c.stand c.keyId hd.region hd.gen [o] = 0)
    (hbase : base = ((u.regions.get? (1048576 * (k / 65536) + hd.region % 2 ^ 20)).map (·.base)).getD 0)
    (hv : v = u.applyMem c.stand (base + o.off) o) : exec (.pktMemReq p f) s =
      .next (((if o.opc = 1 then v.1 else v.1.fabIssue k (.memResp psn (memResult v.2.1 v.2.2.1 v.2.2.2))).acceptPsn k
        psn 0).deliver) := by
  have hsingle : ¬ ([o].isEmpty = true ∨ 1 < [o].length ∧ [o].any MemOp.arrive = true) := by simp
  subst htype hv
  change execMemReq p f s = _
  simp only [execMemReq, State.sequenced_new hreceive hpsn _ hwindow hst habove, hops, if_neg hsingle, hcheck, ne_eq,
    not_true_eq_false, if_false, harrive, Bool.false_eq_true, ← hbase]

theorem exec_pktMemResp_awaited {a : Nat × List MemOp} (htype : type = 6)
    (hasked : c.asked.find? (fun a => a.1 % 2 ^ 32 == hd.region / 2 ^ 32) = some a) : exec (.pktMemResp p f) s =
      .next ((((u.updConn k (fun c => { c with asked := c.asked.del a.1 })).outcomes (respDone a.2 text)).acceptPsn k psn
        0).deliver) := by
  subst htype
  change execMemResp p f s = _
  simp only [execMemResp, State.sequenced_new hreceive hpsn _ hwindow hst habove, hasked]

end

end

/-- Each row of a sequenced type is `State.sequenced` of its type, delivered. -/
theorem exec_sequenced_of_mem {s : State} {p type : Nat} {f : FabFrame} {row : Instr}
    (hrow : (row, type) ∈ [(Instr.pktWrite p f, 1), (.pktReadReq p f, 2), (.pktReadResp p f, 3), (.pktMemReq p f, 5),
      (.pktMemResp p f, 6)]) : ∃ run, exec row s = .next (s.sequenced p type f run).deliver := by
  simp only [List.mem_cons, List.not_mem_nil, or_false, Prod.mk.injEq] at hrow
  rcases hrow with ⟨rfl, rfl⟩ | ⟨rfl, rfl⟩ | ⟨rfl, rfl⟩ | ⟨rfl, rfl⟩ | ⟨rfl, rfl⟩ <;> exact ⟨_, rfl⟩

/-! Acknowledgements (R231) -/

theorem exec_pktAck {s u : State} {p k : Nat} {f : FabFrame} {c : Conn} {hd : Header} {text : List Byte}
    (hreceive : s.receive p 4 f = (u, some (k, c, hd, text))) : exec (.pktAck p f) s =
      .next ((List.range (min (be text 0 2) (min 64 ((text.length - 8) / 8)))).foldl (fun s i =>
        s.applyAck k (be text (8 + 8 * i) 4) (be text (12 + 8 * i) 2) (be text (14 + 8 * i) 1)) u).deliver := by
  change execAck p f s = _
  simp only [execAck, hreceive]

/-- An entry ends the PSNs that it names, and the other packets stay outstanding. -/
theorem State.conn_applyAck {s : State} {k : Nat} {c : Conn} (hconn : s.conn k = some c) (hopen : c.state = .open_)
    (first run status : Nat) : ∃ d, (s.applyAck k first run status).conns.get? k = some d ∧
      d.out = c.out.filter (fun o => !acked first run o) ∧ d.waiting = c.waiting ∧ d.nextPsn = c.nextPsn := by
  simp only [State.applyAck, hconn, hopen, reduceCtorEq, false_and, if_false]
  split
  case isTrue hnone =>
    refine ⟨c, hconn, (List.filter_eq_self.mpr fun o ho => ?_).symm, rfl, rfl⟩
    simpa using List.filter_eq_nil_iff.mp (List.isEmpty_iff.mp hnone) o ho
  case isFalse =>
    exact ⟨_, (State.conn_updConn_self s k _).trans (congrArg (Option.map _) hconn), rfl, rfl, rfl⟩

/-! Packets that are not accepted (R222, Table 10.7) -/

theorem State.deliverAll_of_none {s : State} (h : s.fabDone = []) (fuel : Nat) : State.deliverAll fuel s = s := by
  cases fuel with
  | zero => rfl
  | succ fuel => rw [State.deliverAll, h]

theorem State.deliver_of_none {s : State} (h : s.fabDone = []) : s.deliver = s := State.deliverAll_of_none h _

/-- A state that differs from another in its registers alone. -/
def State.RegsOnly (s t : State) : Prop := ∃ r, t = { s with regs := r }

theorem State.RegsOnly.refl (s : State) : s.RegsOnly s := ⟨s.regs, rfl⟩

theorem State.RegsOnly.addFld {s t : State} (h : s.RegsOnly t) (f : Field) (i j n : Nat) :
    s.RegsOnly (t.addFld f i j n) := by
  obtain ⟨r, rfl⟩ := h
  exact ⟨_, rfl⟩

theorem State.RegsOnly.classify {s t : State} (h : s.RegsOnly t) (p : Nat) (f : FabFrame) :
    s.RegsOnly (t.classify p f) := by
  rw [State.classify]
  split
  · split
    · exact (h.addFld ..).addFld ..
    · exact h.addFld ..
  · exact h.addFld ..

/-- Steps 1 to 4 count a packet, whether they accept it or not. -/
theorem State.regsOnly_receive (s : State) (p type : Nat) (f : FabFrame) : s.RegsOnly (s.receive p type f).1 := by
  have hcounted : s.RegsOnly (if f.udp.any (fun u => u.ecn == 3) then (s.addFld Fld.FAB_PORT_RX_FRAMES_COUNT p 0 1).addFld
      Fld.FAB_ECN_CE_COUNT (p / 8) 0 1 else s.addFld Fld.FAB_PORT_RX_FRAMES_COUNT p 0 1) := by
    split
    · exact ((State.RegsOnly.refl s).addFld ..).addFld ..
    · exact (State.RegsOnly.refl s).addFld ..
  rw [State.receive]
  dsimp only
  split
  · exact .refl s
  generalize (if f.udp.any (fun u => u.ecn == 3) then _ else _ : State) = t at hcounted ⊢
  split
  · exact hcounted.addFld ..
  split
  · split
    · exact hcounted.addFld ..
    · exact (hcounted.addFld ..).classify p f
  · split
    · exact hcounted.addFld ..
    · split
      · exact hcounted.addFld ..
      · exact hcounted.addFld ..

/-- A row of a sequenced type ends where steps 1 to 4 drop its packet. -/
theorem exec_sequenced_unreceived {s t : State} {p type : Nat} {f : FabFrame} {row : Instr}
    {run : Nat → Conn → Header → Nat → List Byte → State → State}
    (hexec : exec row s = .next (s.sequenced p type f run).deliver) (hreceive : s.receive p type f = (t, none))
    (hdeliver : t.deliver = t) : exec row s = .next t := by
  have hdropped : s.sequenced p type f run = t := by simp only [State.sequenced, hreceive]
  rw [hexec, hdropped, hdeliver]

/-- A packet that is not accepted changes registers alone. -/
theorem exec_unreceived {s : State} {p type : Nat} {f : FabFrame} {row : Instr}
    (hrow : (row, type) ∈ [(Instr.pktWrite p f, 1), (.pktReadReq p f, 2), (.pktReadResp p f, 3), (.pktAck p f, 4),
      (.pktMemReq p f, 5), (.pktMemResp p f, 6)]) (hnone : (s.receive p type f).2 = none) (hdone : s.fabDone = []) :
    NextWith (exec row s) s.RegsOnly := by
  have honly := s.regsOnly_receive p type f
  rcases hreceive : s.receive p type f with ⟨t, got⟩
  rw [hreceive] at hnone honly
  obtain rfl : got = none := hnone
  have hdeliver : t.deliver = t := by
    obtain ⟨r, rfl⟩ := honly
    exact State.deliver_of_none hdone
  refine ⟨t, ?_, honly⟩
  simp only [List.mem_cons, List.not_mem_nil, or_false, Prod.mk.injEq] at hrow
  rcases hrow with ⟨rfl, rfl⟩ | ⟨rfl, rfl⟩ | ⟨rfl, rfl⟩ | ⟨rfl, rfl⟩ | ⟨rfl, rfl⟩ | ⟨rfl, rfl⟩
  · exact exec_sequenced_unreceived rfl hreceive hdeliver
  · exact exec_sequenced_unreceived rfl hreceive hdeliver
  · exact exec_sequenced_unreceived rfl hreceive hdeliver
  · change execAck p f s = _
    simp only [execAck, hreceive]
  · exact exec_sequenced_unreceived rfl hreceive hdeliver
  · exact exec_sequenced_unreceived rfl hreceive hdeliver

/-- Settles O39: a packet of a sequenced type is outside the window, accepted before or new, and a new one is the run of its
type; one that is not accepted leaves a state that differs in its registers alone. -/
theorem receiving : Obligations.Receiving := by
  refine ⟨fun s u p k psn type f c hd text row hrow hreceive hpsn => ?_, fun s u p k f c hd text => exec_pktAck,
    fun s k first run status c hconn hopen => State.conn_applyAck hconn hopen first run status,
    fun s p f r type hrow hnone hdone => ?_⟩
  · obtain ⟨run, hexec⟩ := exec_sequenced_of_mem (s := s) hrow
    refine ⟨fun houtside => ?_, fun hlow hhigh => ⟨fun st hst => ?_, fun hst hbelow => ?_, fun hst habove st => ?_⟩⟩
    · rw [hexec, State.sequenced_outside hreceive hpsn run houtside]
    · rw [hexec, State.sequenced_recorded hreceive hpsn run ⟨hlow, hhigh⟩ hst]
    · rw [hexec, State.sequenced_passed hreceive hpsn run ⟨hlow, hhigh⟩ hst hbelow]
    · have hwindow : c.InWindow psn := ⟨hlow, hhigh⟩
      simp only [List.mem_cons, List.not_mem_nil, or_false, Prod.mk.injEq] at hrow
      refine ⟨fun htype htext hcheck => ?_, fun htype hsome hmax hcheck => ?_, fun htype r hread => ?_,
        fun htype o base hops harrive hmem hbase v hv => ?_, fun htype a hasked => ?_⟩
      · obtain rfl : row = .pktWrite p f := by simpa [htype] using hrow
        refine ⟨exec_pktWrite_refused hreceive hpsn hwindow hst habove htype htext hcheck, fun hok r idx => ?_⟩
        exact exec_pktWrite_written hreceive hpsn hwindow hst habove htype htext (hcheck.symm.trans hok)
      · obtain rfl : row = .pktReadReq p f := by simpa [htype] using hrow
        refine ⟨exec_pktReadReq_refused hreceive hpsn hwindow hst habove htype hsome hmax hcheck, fun hok => ?_⟩
        exact exec_pktReadReq_admitted hreceive hpsn hwindow hst habove htype hsome hmax (hcheck.symm.trans hok)
      · obtain rfl : row = .pktReadResp p f := by simpa [htype] using hrow
        exact exec_pktReadResp_awaited hreceive hpsn hwindow hst habove htype hread
      · obtain rfl : row = .pktMemReq p f := by simpa [htype] using hrow
        exact exec_pktMemReq_applied hreceive hpsn hwindow hst habove htype hops harrive hmem hbase hv
      · obtain rfl : row = .pktMemResp p f := by simpa [htype] using hrow
        exact exec_pktMemResp_awaited hreceive hpsn hwindow hst habove htype hasked
  · obtain ⟨t, hexec, regs, rfl⟩ := exec_unreceived hrow hnone hdone
    exact ⟨_, hexec, rfl, rfl, rfl, rfl⟩

end Sys2Proof.Machine
end

section
/-! Proofs: the fabric instructions of a task (11_fabric_memory.md R256-R258). -/

namespace Sys2Proof.Machine

open Sys2Proof

/-! FLD, FST and FATOM (R257) -/

/-- The operation that a fabric instruction asks for. -/
def VTask.fabricOp (t : VTask) (v : Nat) (i : VWord) (opc dst : Nat) : MemOp :=
  { ctx := .task v t.serial dst, opc := opc, size := immBits i 0 2, aop := immBits i 4 4, off := 0,
    operand := if opc = 1 ∧ immBits i 0 2 = 2 then 0 else (t.xreg i.src2).toNat, compare := (t.xreg i.src3).toNat,
    data := if opc = 1 ∧ immBits i 0 2 = 2 then vecBytes (t.vreg i.src2) else [], faddr := (t.xreg i.src1).toNat }

/-- The task with one more operation outstanding and its destination locked, at its next instruction. -/
def VTask.fabricIssued (t : VTask) (opc dst : Nat) : VTask :=
  { t with fabOut := t.fabOut + 1, fabStores := if opc = 0 then t.fabStores else t.fabStores + 1,
           locked := if dst < 64 ∧ dst ≠ 0 then dst :: t.locked else t.locked, pc := t.pc + 1 }

section
variable {s : State} {v opc dst : Nat} {i : VWord} {t : VTask} {uses : List Nat} (htype : i.type = 0)
  (hclear : immBits i 2 2 = 0) (hrest : i.imm.toNat / 2 ^ 8 = 0)
  (hknown : memKnown opc (immBits i 0 2) (immBits i 4 4) = true) (h : Issues s v uses t)
include htype hclear hrest hknown h

/-- A fabric instruction of a ready task faults, waits or issues its operation. -/
theorem State.vfabric_ready : s.vfabric v i opc dst uses =
    if (t.xreg i.src1).toNat % memSize (immBits i 0 2) ≠ 0 then s.illegal v t
    else if 32 ≤ t.fabOut then s
    else (s.setTask v (some (t.fabricIssued opc dst))).issueMem (homeHub (v / 864 / 16)) t.stand
      (t.fabricOp v i opc dst) := by
  have hok : (i.type == 0 && memKnown opc (immBits i 0 2) (immBits i 4 4) && immBits i 2 2 == 0 &&
      i.imm.toNat / 2 ^ 8 == 0) = true := by
    simp only [htype, hclear, hrest, hknown, beq_self_eq_true, Bool.and_self]
  rw [State.vfabric, State.vrun_ready h hok]
  rfl

theorem State.vfabric_misaligned (hbad : (t.xreg i.src1).toNat % memSize (immBits i 0 2) ≠ 0) :
    s.vfabric v i opc dst uses = s.illegal v t := by
  rw [State.vfabric_ready htype hclear hrest hknown h, if_pos hbad]

section
variable (haligned : (t.xreg i.src1).toNat % memSize (immBits i 0 2) = 0)
include haligned

theorem State.vfabric_full (hfull : 32 ≤ t.fabOut) : s.vfabric v i opc dst uses = s := by
  rw [State.vfabric_ready htype hclear hrest hknown h, if_neg (not_not_intro haligned), if_pos hfull]

theorem State.vfabric_issued (hroom : t.fabOut < 32) : s.vfabric v i opc dst uses =
    (s.setTask v (some (t.fabricIssued opc dst))).issueMem (homeHub (v / 864 / 16)) t.stand
      (t.fabricOp v i opc dst) := by
  rw [State.vfabric_ready htype hclear hrest hknown h, if_neg (not_not_intro haligned), if_neg (Nat.not_le.2 hroom)]

end
end

/-- FLD, FST and FATOM are `State.vfabric` of their OPC, destination and registers. -/
theorem exec_fabric_of_mem {s : State} {v opc dst : Nat} {i : VWord} {c : Instr} {uses : List Nat}
    (hc : (c, opc, dst, uses) ∈ [
      (Instr.vFld v i, 0, if immBits i 0 2 = 2 then 32 + i.dst.toNat else i.dst.toNat,
        xs [i.src1] ++ if immBits i 0 2 = 2 then vs [i.dst] else xs [i.dst]),
      (Instr.vFst v i, 1, 64, xs [i.src1] ++ if immBits i 0 2 = 2 then vs [i.src2] else xs [i.src2]),
      (Instr.vFatom v i, 2, i.dst.toNat, xs [i.src1, i.src2, i.src3, i.dst])]) :
    exec c s = .next (s.vfabric v i opc dst uses).deliver := by
  simp only [List.mem_cons, List.not_mem_nil, or_false, Prod.mk.injEq] at hc
  obtain ⟨rfl, rfl, rfl, rfl⟩ | ⟨rfl, rfl, rfl, rfl⟩ | ⟨rfl, rfl, rfl, rfl⟩ := hc <;> rfl

/-! FENCE (R256, R258) -/

section
variable {s : State} {v dst : Nat} {t : VTask} (ht : s.task v = some t) (hw : t.wait = .fence dst)
include ht hw

theorem State.settleFence_held (hstores : t.fabStores ≠ 0) : s.settleFence v = s := by
  simp only [State.settleFence, ht, hw, if_neg hstores]

theorem State.settleFence_completes (hstores : t.fabStores = 0) : s.settleFence v =
    (s.setTask v (some { t.setX (BitVec.ofNat 5 dst) (BitVec.ofNat 64 t.fabStatus) with
      fabStatus := 0, wait := .none, pc := t.pc + 1 })).addFld Fld.FMM_FENCES_COUNT t.stand 0 1 := by
  simp only [State.settleFence, ht, hw, if_pos hstores]

end

section
variable {s : State} {v : Nat} {i : VWord} {t : VTask} (htype : i.type = 0) (himm : i.imm = 0)
  (h : Issues s v (xs [i.dst]) t)
include htype himm h

/-- FENCE puts its task into the wait, which ends at once where nothing holds it. -/
theorem exec_vFence : exec (.vFence v i) s =
    .next ((s.setTask v (some { t with wait := .fence i.dst.toNat })).settleFence v) := by
  change Host.Outcome.next (s.vrun v (xs [i.dst]) (i.type == 0 && i.imm == 0) _) = _
  rw [State.vrun_ready h (by simp only [htype, himm, beq_self_eq_true, Bool.and_self])]

theorem exec_vFence_waits (hstores : t.fabStores ≠ 0) :
    exec (.vFence v i) s = .next (s.setTask v (some { t with wait := .fence i.dst.toNat })) :=
  (exec_vFence htype himm h).trans (congrArg Host.Outcome.next
    (State.settleFence_held (State.task_setTask_self ..) rfl hstores))

theorem exec_vFence_completes (hstores : t.fabStores = 0) : exec (.vFence v i) s =
    .next ((s.setTask v (some { t.setX i.dst (BitVec.ofNat 64 t.fabStatus) with
      fabStatus := 0, wait := .none, pc := t.pc + 1 })).addFld Fld.FMM_FENCES_COUNT t.stand 0 1) := by
  refine (exec_vFence htype himm h).trans (congrArg Host.Outcome.next ?_)
  rw [State.settleFence_completes (State.task_setTask_self ..) rfl (by exact hstores), State.setTask_setTask,
    BitVec.ofNat_toNat, BitVec.setWidth_eq]
  unfold VTask.setX
  split <;> rfl

end

/-- Settles O19: a ready task's instruction is `State.vfabric` of its operation, which faults, waits or issues, and FENCE
is the wait that `State.settleFence` ends. -/
theorem chisynFabric : Obligations.ChisynFabric := by
  intro s v i t htype hclear hrest
  refine ⟨fun c opc dst uses hc hknown h => ?_, fun himm h => ?_⟩
  · rw [exec_fabric_of_mem hc]
    refine ⟨fun hbad => ?_, fun haligned hfull hdone => ?_, fun haligned hroom => ?_⟩
    · rw [State.vfabric_misaligned htype hclear hrest hknown h hbad]
    · rw [State.vfabric_full htype hclear hrest hknown h haligned hfull, State.deliver_of_none hdone]
    · rw [State.vfabric_issued htype hclear hrest hknown h haligned hroom]
      rfl
  · exact ⟨exec_vFence_completes htype himm h, exec_vFence_waits htype himm h⟩

end Sys2Proof.Machine
end

section
/-! Proofs: the commands of a stand's fabric memory queue (11_fabric_memory.md R248, R256, R259, R261, R266). -/

namespace Sys2Proof.Machine

open Sys2Proof

/-! Taking a command (R259) -/

section
variable {s t : State} {n i op : Nat} {e : List Byte} {run : List Byte → Nat → State → State × Option Nat}
  (hfence : (s.stand n).fmm.fence = none) (hfront : s.runFront .fmm n = some (i, e)) (hop : le e 0 1 = op)
include hfence hfront hop

theorem State.fmmCommand_completes {x : Nat} (hrun : run e i (s.runTake .fmm n i) = (t, some x)) :
    s.fmmCommand n op run = (t.runDone .fmm n i x).deliver := by
  simp only [State.fmmCommand, State.runCommand, hfence, hfront, hop, hrun, Option.isSome_none, Bool.false_eq_true,
    if_false, if_true]

theorem State.fmmCommand_inProgress (hrun : run e i (s.runTake .fmm n i) = (t, none)) :
    s.fmmCommand n op run = t.deliver := by
  simp only [State.fmmCommand, State.runCommand, hfence, hfront, hop, hrun, Option.isSome_none, Bool.false_eq_true,
    if_false, if_true]

end

/-- Behind a FENCE nothing is taken (R256). -/
theorem State.fmmCommand_fenced {s : State} {n : Nat} (hfence : (s.stand n).fmm.fence.isSome = true) (op : Nat)
    (run : List Byte → Nat → State → State × Option Nat) : s.fmmCommand n op run = s := by
  rw [State.fmmCommand, if_pos hfence]

/-- Each command of the queue is `State.fmmCommand` of its OP. -/
theorem exec_fmmCommand_of_mem {s : State} {n : Nat} {c : Instr}
    (hc : c ∈ [Instr.fmmLoad n, .fmmStore n, .fmmAtomic n, .fmmFence n, .fmmMap n, .fmmUnmap n, .fmmGroupCreate n,
      .fmmGroupDelete n]) : ∃ op run, exec c s = .next (s.fmmCommand n op run) := by
  simp only [List.mem_cons, List.not_mem_nil, or_false] at hc
  rcases hc with rfl | rfl | rfl | rfl | rfl | rfl | rfl | rfl <;> exact ⟨_, _, rfl⟩

/-- LOAD, STORE and ATOMIC are `State.fmmCommand` of their OP with the operation of their OPC. -/
theorem exec_fmmMem_of_mem {s : State} {n op opc : Nat} {c : Instr}
    (hc : (c, op, opc) ∈ [(Instr.fmmLoad n, 1, 0), (.fmmStore n, 2, 1), (.fmmAtomic n, 3, 2)]) :
    exec c s = .next (s.fmmCommand n op (fun e i s => s.fmmMem n opc e i)) := by
  simp only [List.mem_cons, List.not_mem_nil, or_false, Prod.mk.injEq] at hc
  obtain ⟨rfl, rfl, rfl⟩ | ⟨rfl, rfl, rfl⟩ | ⟨rfl, rfl, rfl⟩ := hc <;> rfl

section
variable {s u v : State} {n i a : Nat} {e : List Byte} (hfence : (s.stand n).fmm.fence = none)
  (hfront : s.runFront .fmm n = some (i, e)) (hu : u = s.runTake .fmm n i)
include hfence hfront hu

/-! LOAD, STORE, ATOMIC and FENCE (R250, R256) -/

/-- An operation is in progress until it completes, or has its result at once. -/
theorem exec_fmmMem {op opc : Nat} {c : Instr} {r : State × Option Nat} (hop : le e 0 1 = op)
    (hc : (c, op, opc) ∈ [(Instr.fmmLoad n, 1, 0), (.fmmStore n, 2, 1), (.fmmAtomic n, 3, 2)])
    (hr : r = u.fmmMem n opc e i) :
    (∀ x, r.2 = some x → exec c s = .next (r.1.runDone .fmm n i x).deliver) ∧
      (r.2 = none → exec c s = .next r.1.deliver) := by
  subst hu
  rw [exec_fmmMem_of_mem hc]
  obtain ⟨t, res⟩ := r
  refine ⟨?_, ?_⟩
  · rintro x rfl
    rw [State.fmmCommand_completes hfence hfront hop hr.symm]
  · rintro rfl
    rw [State.fmmCommand_inProgress hfence hfront hop hr.symm]

theorem exec_fmmFence (hop : le e 0 1 = 4) : exec (.fmmFence n) s =
    .next ((u.updStand n (fun st => { st with fmm := { st.fmm with fence := some i } })).settleQueue n).deliver := by
  subst hu
  exact congrArg Host.Outcome.next (State.fmmCommand_inProgress hfence hfront hop rfl)

/-! MAP and UNMAP (R248) -/

section
variable {x : RemoteEntry} (hop : le e 0 1 = 5) (ha : a = le e 16 6) (hv : v = u.noted n a 32)
  (hx : (v.descriptor n a 32).bind readRemote = some x)
include hop ha hv hx

theorem exec_fmmMap_replaces {y : Nat × RemoteEntry}
    (hy : (v.stand n).remoteMap.find? (fun y => y.2.base == x.base && y.2.len == x.len) = some y) :
    exec (.fmmMap n) s = .next ((v.updStand n (fun st => { st with remoteMap := st.remoteMap.set y.1 x })).runDone .fmm n
      i 0).deliver := by
  subst hv hu ha
  refine congrArg Host.Outcome.next (State.fmmCommand_completes hfence hfront hop ?_)
  simp only [hx, hy]

section
variable (hnew : (v.stand n).remoteMap.find? (fun y => y.2.base == x.base && y.2.len == x.len) = none)
include hnew

theorem exec_fmmMap_full (hfull : v.fld Fld.FMM_STATUS_MAP_ALLOTTED n ≤ (v.stand n).remoteMap.length) :
    exec (.fmmMap n) s = .next (v.runDone .fmm n i 0x12).deliver := by
  subst hv hu ha
  refine congrArg Host.Outcome.next (State.fmmCommand_completes hfence hfront hop ?_)
  simp only [hx, hnew, hfull, true_or, if_true]

theorem exec_fmmMap_inserts {idx : Nat} {w : State}
    (hroom : (v.stand n).remoteMap.length < v.fld Fld.FMM_STATUS_MAP_ALLOTTED n) (hhubs : v.mapHubs n ≠ [])
    (hidx : idx = ((v.stand n).remoteMap.firstFree ((v.stand n).remoteMap.length + 1)).getD 0)
    (hw : (v.mapHubs n).foldlM (fun (s : State) h => s.tableInsert (remoteTable h n) (x.search n idx)) v = some w) :
    exec (.fmmMap n) s = .next ((((w.updStand n (fun st => { st with remoteMap := st.remoteMap.set idx x })).countMap
      n).runDone .fmm n i 0).deliver) := by
  subst hidx hv hu ha
  refine congrArg Host.Outcome.next (State.fmmCommand_completes hfence hfront hop ?_)
  simp only [hx, hnew, Nat.not_le_of_lt hroom, List.isEmpty_iff, hhubs, or_self, if_false, hw]

end
end

theorem exec_fmmUnmap_unmapped (hop : le e 0 1 = 6)
    (hnone : (u.stand n).remoteMap.find? (fun y => y.2.base == le e 8 8 && y.2.len == le e 16 1 % 128) = none) :
    exec (.fmmUnmap n) s = .next ((u.flagMemStatus n (le e 8 8) 0x0A).runDone .fmm n i 0x0A).deliver := by
  subst hu
  refine congrArg Host.Outcome.next (State.fmmCommand_completes hfence hfront hop ?_)
  simp only [hnone]

theorem exec_fmmUnmap_removes {y : Nat × RemoteEntry} {w : State} (hop : le e 0 1 = 6)
    (hy : (u.stand n).remoteMap.find? (fun y => y.2.base == le e 8 8 && y.2.len == le e 16 1 % 128) = some y)
    (hw : w = (u.mapHubs n).foldl (fun s h => (s.tableDelete (remoteTable h n) (y.2.search n y.1).data
      (y.2.search n y.1).mask).1) u) :
    exec (.fmmUnmap n) s = .next ((((w.updStand n (fun st => { st with remoteMap := st.remoteMap.del y.1 })).countMap
      n).runDone .fmm n i 0).deliver) := by
  subst hw hu
  refine congrArg Host.Outcome.next (State.fmmCommand_completes hfence hfront hop ?_)
  simp only [hy]

/-! GROUP_CREATE and GROUP_DELETE (R261, R266) -/

theorem exec_fmmGroupCreate_full (hop : le e 0 1 = 7)
    (hfull : 1024 ≤ (u.groups.filter (fun g => g.1 / 1024 == u.hubOf n)).length) :
    exec (.fmmGroupCreate n) s = .next (u.runDone .fmm n i 0x21).deliver := by
  subst hu
  refine congrArg Host.Outcome.next (State.fmmCommand_completes hfence hfront hop ?_)
  simp only [hfull, if_true]

theorem exec_fmmGroupCreate_creates {w x : State} {b : List Byte} {num : Nat} {g : Group} (hop : le e 0 1 = 7)
    (ha : a = le e 16 6) (hroom : (u.groups.filter (fun g => g.1 / 1024 == u.hubOf n)).length < 1024)
    (hw : w = u.noted n a 64) (hfirst : w.descriptor n a 64 = some b)
    (hx : x = w.noted n (le b 24 6) (8 * bits (le b 0 8) 16 10)) (hdescriptor : x.descriptor n a 64 = some b)
    (hgroup : x.readGroup n b = some (num, g)) (hfree : x.groups.get? (1024 * u.hubOf n + num) = none) :
    exec (.fmmGroupCreate n) s = .next (((({ x with
      groups := x.groups.set (1024 * u.hubOf n + num) g } : State).countGroups n).runDone .fmm n i 0).deliver) := by
  subst hw hu ha
  refine congrArg Host.Outcome.next (State.fmmCommand_completes hfence hfront hop ?_)
  simp only [Nat.not_le_of_lt hroom, if_false, hfirst, Option.getD_some, ← hx, hdescriptor, Option.bind_some, hgroup,
    hfree, Option.isSome_none, Bool.false_eq_true]

theorem exec_fmmGroupDelete_ends {g : Group} (hop : le e 0 1 = 8)
    (hg : u.groups.get? (1024 * u.hubOf n + le e 16 2 % 1024) = some g) (hstand : g.stand = n) :
    exec (.fmmGroupDelete n) s = .next ((((({ u with
      groups := u.groups.del (1024 * u.hubOf n + le e 16 2 % 1024) } : State).answerAll 7 0 0 g.arrived).countGroups
        n).runDone .fmm n i 0).deliver) := by
  subst hu
  refine congrArg Host.Outcome.next (State.fmmCommand_completes hfence hfront hop ?_)
  simp only [hg, hstand, ne_eq, not_true_eq_false, if_false]

end

/-- Settles O40: nothing is taken behind a FENCE, and a command that is taken is its run, completed with its result or
left in progress without one. -/
theorem fabricQueue : Obligations.FabricQueue := by
  refine ⟨fun s n c hfenced hc => ?_, ?_⟩
  · obtain ⟨op, run, hexec⟩ := exec_fmmCommand_of_mem (s := s) hc
    rw [hexec, State.fmmCommand_fenced hfenced]
  · intro s u v n i op a e hfence hfront hu hop ha hv
    refine ⟨?_, ?_, ?_, ?_, ?_, ?_, ?_, ?_, ?_, ?_⟩
    · exact fun c opc r => exec_fmmMem hfence hfront hu hop
    · rintro rfl
      exact exec_fmmFence hfence hfront hu hop
    · rintro x y rfl hx
      exact exec_fmmMap_replaces hfence hfront hu hop ha hv hx
    · rintro x rfl hx
      exact exec_fmmMap_full hfence hfront hu hop ha hv hx
    · rintro x idx w rfl hx hnew
      exact exec_fmmMap_inserts hfence hfront hu hop ha hv hx hnew
    · rintro rfl
      exact exec_fmmUnmap_unmapped hfence hfront hu hop
    · rintro y w rfl
      exact exec_fmmUnmap_removes hfence hfront hu hop
    · rintro rfl
      exact exec_fmmGroupCreate_full hfence hfront hu hop
    · rintro w x b num g rfl hroom
      exact exec_fmmGroupCreate_creates hfence hfront hu hop ha hroom
    · rintro g rfl
      exact exec_fmmGroupDelete_ends hfence hfront hu hop

end Sys2Proof.Machine
end

section
/-! Proofs: fabric memory operations issued and refused, and what each atomic leaves (11_fabric_memory.md R249, R250,
Table 11.3). -/

namespace Sys2Proof.Machine

open Sys2Proof

/-! Translation and permission (R249) -/

/-- The permission of a remote map entry that an operation needs. -/
def RemoteEntry.permits (e : RemoteEntry) (opc : Nat) : Bool :=
  match opc with
  | 0 => e.read
  | 1 => e.write
  | _ => e.atomic

/-- An operation at the region offset that a remote map entry gives its fabric address. -/
def RemoteEntry.place (e : RemoteEntry) (o : MemOp) : MemOp := { o with off := e.offset + o.faddr % 2 ^ (64 - e.len) }

/-- An operation goes on the connection of its remote map entry, or completes as the connection's state says. -/
def State.issueRemote (s : State) (n : Nat) (e : RemoteEntry) (o : MemOp) : State :=
  match s.conn (65536 * e.die + e.conn) with
  | some c =>
    if c.stand ≠ n then s.memDone o 8 0 []
    else (match c.state with
      | .open_ => s.coalesce ⟨n, e.die, e.conn, e.key, e.gen, []⟩ o
      | .closing => s.memDone o 9 0 []
      | _ => s.memDone o 8 0 [])
  | none => s.memDone o 8 0 []

theorem RemoteEntry.permits_of_all {e : RemoteEntry} (hread : e.read = true) (hwrite : e.write = true)
    (hatomic : e.atomic = true) (opc : Nat) : e.permits opc = true := by
  unfold RemoteEntry.permits
  split <;> assumption

theorem RemoteEntry.not_permits {e : RemoteEntry} {opc : Nat} (h : (opc = 0 ∧ e.read = false) ∨
    (opc = 1 ∧ e.write = false) ∨ (2 ≤ opc ∧ e.atomic = false)) : e.permits opc = false := by
  unfold RemoteEntry.permits
  split
  case h_1 => simpa using h
  case h_2 => simpa using h
  case h_3 hload hstore => exact ((h.resolve_left (hload ·.1)).resolve_left (hstore ·.1)).2

section
variable {s : State} {n : Nat} {e : RemoteEntry} {o : MemOp}

theorem State.issueRemote_free (hconn : s.conn (65536 * e.die + e.conn) = none) :
    s.issueRemote n e o = s.memDone o 8 0 [] := by
  simp only [State.issueRemote, hconn]

section
variable {c : Conn} (hconn : s.conn (65536 * e.die + e.conn) = some c) (hstand : c.stand = n)
include hconn hstand

theorem State.issueRemote_open (hstate : c.state = .open_) :
    s.issueRemote n e o = s.coalesce ⟨n, e.die, e.conn, e.key, e.gen, []⟩ o := by
  simp only [State.issueRemote, hconn, hstand, hstate, ne_eq, not_true_eq_false, if_false]

theorem State.issueRemote_closing (hstate : c.state = .closing) : s.issueRemote n e o = s.memDone o 9 0 [] := by
  simp only [State.issueRemote, hconn, hstand, hstate, ne_eq, not_true_eq_false, if_false]

theorem State.issueRemote_lost (hstate : c.state = .bound ∨ c.state = .failed) :
    s.issueRemote n e o = s.memDone o 8 0 [] := by
  rcases hstate with hstate | hstate <;>
    simp only [State.issueRemote, hconn, hstand, hstate, ne_eq, not_true_eq_false, if_false]

end
end

section
variable {s v : State} {h n : Nat} {o : MemOp}

theorem State.issueMem_unmapped
    (htranslate : (s.addFld Fld.FMM_OPS_ISSUED_COUNT n 0 1).translate h n o.faddr = (v, none)) :
    s.issueMem h n o = v.memDone o 0x0A 0 [] := by
  simp only [State.issueMem, htranslate]

section
variable {e : RemoteEntry}
  (htranslate : (s.addFld Fld.FMM_OPS_ISSUED_COUNT n 0 1).translate h n o.faddr = (v, some e))
include htranslate

/-- A translated operation is refused, applied in the stand's own region, or issued on the entry's connection. -/
theorem State.issueMem_mapped : s.issueMem h n o =
    if !e.permits o.opc ∨ 2 ^ (64 - e.len) < o.faddr % 2 ^ (64 - e.len) + memSize o.size then
      v.memDone (e.place o) 3 0 []
    else if e.isLocal then v.localMem n e (e.place o)
    else v.issueRemote n e (e.place o) := by
  simp only [State.issueMem, htranslate]
  rfl

theorem State.issueMem_notPermitted (hbad : e.permits o.opc = false) :
    s.issueMem h n o = v.memDone (e.place o) 3 0 [] := by
  rw [State.issueMem_mapped htranslate, hbad, Bool.not_false, if_pos (.inl rfl)]

theorem State.issueMem_outside (hbad : 2 ^ (64 - e.len) < o.faddr % 2 ^ (64 - e.len) + memSize o.size) :
    s.issueMem h n o = v.memDone (e.place o) 3 0 [] := by
  rw [State.issueMem_mapped htranslate, if_pos (.inr hbad)]

section
variable (hpermits : e.permits o.opc = true)
  (hspan : o.faddr % 2 ^ (64 - e.len) + memSize o.size ≤ 2 ^ (64 - e.len))
include hpermits hspan

theorem State.issueMem_local (hlocal : e.isLocal = true) : s.issueMem h n o = v.localMem n e (e.place o) := by
  simp only [State.issueMem_mapped htranslate, hpermits, Nat.not_lt_of_le hspan, hlocal, Bool.not_true,
    Bool.false_eq_true, or_self, if_false, if_true]

theorem State.issueMem_remote (hlocal : e.isLocal = false) : s.issueMem h n o = v.issueRemote n e (e.place o) := by
  simp only [State.issueMem_mapped htranslate, hpermits, Nat.not_lt_of_le hspan, hlocal, Bool.not_true,
    Bool.false_eq_true, or_self, if_false]

end
end
end

/-! Operations of the queue that are refused before they are issued (R250, R259) -/

theorem State.fmmMem_refused {s : State} {n opc i : Nat} {e : List Byte}
    (hbad : memKnown opc (bits (le e 0 8) 20 2) (bits (le e 0 8) 16 4) = false ∨
      le e 8 8 % memSize (bits (le e 0 8) 20 2) ≠ 0) :
    s.fmmMem n opc e i = s.fmmRefuse n (le e 8 8) 0x10 := by
  rw [← Bool.not_eq_true', ← or_false (_ ≠ 0)] at hbad
  exact if_pos (hbad.imp_right (Or.imp_right False.elim))

/-! Atomics (Table 11.3) -/

section
variable {w x y : Nat} (hx : x < 2 ^ w) (old : Nat)
include hx

theorem atomicWord_add : atomicWord 0 w old x y = (old + x) % 2 ^ w := by
  simp only [atomicWord, Nat.mod_eq_of_lt hx]

theorem signed_atomicWord_smin : signed w (atomicWord 1 w old x y) = min (signed w old) (signed w x) := by
  simp only [atomicWord, Nat.mod_eq_of_lt hx]
  split <;> omega

theorem signed_atomicWord_smax : signed w (atomicWord 2 w old x y) = max (signed w old) (signed w x) := by
  simp only [atomicWord, Nat.mod_eq_of_lt hx]
  split <;> omega

theorem atomicWord_umin : atomicWord 3 w old x y = min old x := by
  simp only [atomicWord, Nat.mod_eq_of_lt hx]

theorem atomicWord_umax : atomicWord 4 w old x y = max old x := by
  simp only [atomicWord, Nat.mod_eq_of_lt hx]

theorem atomicWord_cas (hy : y < 2 ^ w) : atomicWord 5 w old x y = if old = y then x else old := by
  simp only [atomicWord, Nat.mod_eq_of_lt hx, Nat.mod_eq_of_lt hy]

end

end Sys2Proof.Machine
end

section
/-! Proofs: barriers (11_fabric_memory.md R261-R264). -/

namespace Sys2Proof.Machine

open Sys2Proof

/-! Operations that leave the groups as they are -/

theorem State.flagError_groups {s : State} {f : Field} {i : Nat} {context : State → State}
    (h : (context s).groups = s.groups) : (s.flagError f i context).groups = s.groups := by
  simp only [State.flagError, State.setFld_groups]
  split
  · exact h
  · rfl

@[simp] theorem State.flagUnmapped_groups (s : State) (n a : Nat) : (s.flagUnmapped n a).groups = s.groups :=
  State.flagError_groups rfl

@[simp] theorem State.flagRemote_groups (s : State) (n a len : Nat) : (s.flagRemote n a len).groups = s.groups := by
  unfold State.flagRemote
  split
  · rfl
  · split
    · rfl
    · exact State.flagError_groups rfl

@[simp] theorem State.putByte_groups (s : State) (n a : Nat) (b : Byte) : (s.putByte n a b).groups = s.groups := by
  unfold State.putByte
  split
  · rfl
  · split
    · rfl
    · simp only []
      split <;> rfl

@[simp] theorem State.putBytes_groups (s : State) (n a : Nat) (bs : List Byte) :
    (s.putBytes n a bs).groups = s.groups := by
  induction bs generalizing s a with
  | nil => rfl
  | cons b bs ih => rw [State.putBytes, ih, State.putByte_groups]

@[simp] theorem State.standWrite_groups (s : State) (n a : Nat) (bs : List Byte) :
    (s.standWrite n a bs).groups = s.groups := by
  unfold State.standWrite
  split <;> simp

@[simp] theorem State.hostWrite_groups (s : State) (f : Fn) (a : Nat) (bs : List Byte) :
    (s.hostWrite f a bs).groups = s.groups := by
  unfold State.hostWrite
  split <;> rfl

@[simp] theorem State.msix_groups (s : State) (f : Fn) (vec : Nat) : (s.msix f vec).groups = s.groups := by
  simp only [State.msix, apply_ite State.groups, ite_self]

@[simp] theorem State.wrapRing_groups (s : State) (ring : Nat) : (s.wrapRing ring).groups = s.groups := rfl

@[simp] theorem State.setFlood_groups (s : State) (x : Flood) : (s.setFlood x).groups = s.groups := rfl

@[simp] theorem State.viewDrop_groups (s : State) (v : Nat) : (s.viewDrop v).groups = s.groups := by
  unfold State.viewDrop
  split <;> rfl

@[simp] theorem State.viewPut_groups (s : State) (v : Nat) (w : View) (unit : Nat) (bs : List Byte) :
    (s.viewPut v w unit bs).groups = s.groups := by
  unfold State.viewPut
  simp only []
  split <;> simp

@[simp] theorem State.viewWrite_groups (s : State) (v : Nat) (mk : Nat → List Byte) :
    (s.viewWrite v mk).1.groups = s.groups := by
  unfold State.viewWrite
  simp only [apply_ite Prod.fst, apply_ite State.groups, State.viewDrop_groups, State.flagUnmapped_groups,
    State.msix_groups, State.setFld_groups, State.wrapRing_groups, State.viewPut_groups, ite_self]

@[simp] theorem State.viewRecord_groups (s : State) (v : Nat) (e : Event) (payload : List Byte) :
    (s.viewRecord v e payload).groups = s.groups := by
  simp only [State.viewRecord, apply_ite State.groups, State.setFlood_groups, State.viewWrite_groups, ite_self]

@[simp] theorem State.snapshot_groups (s : State) (e : Event) : (s.snapshot e).groups = s.groups := by
  unfold State.snapshot
  simp only [apply_ite State.groups, State.satFld_groups, State.viewRecord_groups, ite_self]

/-- The record of an event changes no group. -/
@[simp] theorem State.event_groups (s : State) (e : Event) : (s.event e).groups = s.groups := by
  simp only [State.event, State.snapshot_groups]
  split <;> simp

/-! Arrivals (R262) -/

section
variable {s : State} {h n a operand : Nat} {w : Waiter}

theorem State.arriveAt_noGroup {via : Option (Nat × Nat)}
    (hnone : s.groups.find? (fun g => g.1 / 1024 == h && g.2.stand == n && g.2.block == a) = none) :
    s.arriveAt h n a operand via w = s.answer w 5 0 := by
  simp only [State.arriveAt, hnone]

section
variable {gk c d : Nat} {g : Group}
  (hgroup : s.groups.find? (fun g => g.1 / 1024 == h && g.2.stand == n && g.2.block == a) = some (gk, g))
include hgroup

theorem State.arriveAt_noMember (hmember : g.members[bits operand 0 16]? = none) :
    s.arriveAt h n a operand (some (c, d)) w = s.answer w 5 0 := by
  simp only [State.arriveAt, hgroup, hmember, Bool.not_false, if_true]

section
variable (hmember : g.members[bits operand 0 16]? = some (c, d, false))
include hmember

theorem State.arriveAt_outOfSequence
    (hbad : bits operand 16 32 ≠ g.seq % 2 ^ 32 ∨ g.arrived.any (·.1 == bits operand 0 16) = true) :
    s.arriveAt h n a operand (some (c, d)) w = s.answer w 6 0 := by
  simp only [State.arriveAt, hgroup, hmember, beq_self_eq_true, Bool.and_self, Bool.not_true, Bool.false_eq_true,
    if_false, if_pos hbad]

theorem State.arriveAt_recorded (hseq : bits operand 16 32 = g.seq % 2 ^ 32)
    (hfirst : g.arrived.any (·.1 == bits operand 0 16) = false) {u : State} (hu : u = { s with
      groups := s.groups.set gk { g with arrived := g.arrived ++ [(bits operand 0 16, w)] } }) :
    s.arriveAt h n a operand (some (c, d)) w =
      if g.arrived.length + 1 = g.members.length then u.release gk (bits operand 0 16) false else u := by
  subst hu
  simp only [State.arriveAt, hgroup, hmember, hseq, hfirst, beq_self_eq_true, Bool.and_self, Bool.not_true,
    Bool.false_eq_true, ne_eq, not_true_eq_false, or_self, if_false]

end
end
end

/-! Releases (R263, R264) -/

/-- Bringing a member's SUSPECT bit up to date changes nothing else of its group. -/
theorem State.groups_judge {s : State} {gk : Nat} {g : Group} (hg : s.groups.get? gk = some g) (m : Nat) :
    ∃ x, (s.judge gk m).groups.get? gk = some { g with suspect := x } := by
  simp only [State.judge, hg, apply_ite State.groups, State.msix_groups, State.event_groups, ite_self]
  generalize (if g.threshold < _ then true else _) = now
  split
  · exact ⟨g.suspect, hg⟩
  · exact ⟨_, SMap.get?_set_self ..⟩

/-- The statistics of a release empty the group and move its sequence number on. -/
theorem State.groups_statistics {s : State} {gk : Nat} {g : Group} (hg : s.groups.get? gk = some g) (last : Nat)
    (timeout : Bool) : ∃ x, (s.statistics gk last timeout).groups.get? gk = some { g with
      ring := (last :: g.ring).take 256, seq := g.seq + 1, arrived := [], completed := g.completed + b01 (!timeout),
      timeouts := g.timeouts + b01 timeout, suspect := x } := by
  obtain ⟨x, hx⟩ := State.groups_judge (s := { s with groups := s.groups.set gk { g with
    ring := (last :: g.ring).take 256, seq := g.seq + 1, arrived := [], completed := g.completed + b01 (!timeout),
    timeouts := g.timeouts + b01 timeout } }) (SMap.get?_set_self ..) last
  simp only [State.statistics, hg]
  split
  case h_1 m _ =>
    split
    · exact ⟨x, hx⟩
    · exact State.groups_judge hx m
  case h_2 => exact ⟨x, hx⟩

section
variable {s : State} {gk : Nat} {g : Group} (hg : s.groups.get? gk = some g)
include hg

theorem exec_barrierTimeout_releases {m : Nat} (harrived : g.arrived ≠ [])
    (hm : m = ((List.range g.members.length).find? (fun m => g.arrived.all (fun a => a.1 != m))).getD 0) :
    exec (.barrierTimeout gk) s = .next (s.release gk m true).deliver := by
  subst hm
  change execBarrierTimeout gk s = _
  simp only [execBarrierTimeout, hg, List.isEmpty_iff, harrived, if_false]

theorem exec_barrierTimeout_idle (harrived : g.arrived = []) : exec (.barrierTimeout gk) s = .next s := by
  change execBarrierTimeout gk s = _
  simp only [execBarrierTimeout, hg, harrived, List.isEmpty_nil, if_true]

end

/-- Settles O41: an operation completes at the first check of R249 that it fails and is issued past them; a barrier's
arrivals are answered or recorded, and a release leaves the group empty at its next sequence number. -/
theorem fabricIssue : Obligations.FabricIssue := by
  refine ⟨⟨?_, fun s n opc i e => State.fmmMem_refused, ?_⟩, ?_, ?_, ?_, ?_, ?_⟩
  · rintro s h n o u v r rfl htranslate
    refine ⟨?_, ?_⟩
    · rintro rfl
      exact State.issueMem_unmapped htranslate
    · rintro e rel rfl rfl
      refine ⟨?_, fun hread hwrite hatomic hspan => ?_⟩
      · rintro (hload | hstore | hatomic | hspan)
        · exact State.issueMem_notPermitted htranslate (RemoteEntry.not_permits (.inl hload))
        · exact State.issueMem_notPermitted htranslate (RemoteEntry.not_permits (.inr (.inl hstore)))
        · exact State.issueMem_notPermitted htranslate (RemoteEntry.not_permits (.inr (.inr hatomic)))
        · exact State.issueMem_outside htranslate hspan
      · have hpermits := RemoteEntry.permits_of_all hread hwrite hatomic o.opc
        refine ⟨State.issueMem_local htranslate hpermits hspan, fun c hlocal hconn hstand => ?_,
          fun hlocal hconn => ?_⟩
        · rw [State.issueMem_remote htranslate hpermits hspan hlocal]
          exact ⟨State.issueRemote_open hconn hstand, State.issueRemote_closing hconn hstand,
            State.issueRemote_lost hconn hstand⟩
        · rw [State.issueMem_remote htranslate hpermits hspan hlocal, State.issueRemote_free hconn]
          rfl
  · intro w old x y _ _ hx hy
    exact ⟨atomicWord_add hx old, signed_atomicWord_smin hx old, signed_atomicWord_smax hx old, atomicWord_umin hx old,
      atomicWord_umax hx old, atomicWord_cas hx old hy⟩
  · exact fun s h n a operand via w => State.arriveAt_noGroup
  · intro s h n a operand gk c d g w hgroup
    exact ⟨State.arriveAt_noMember hgroup, fun hmember => ⟨State.arriveAt_outOfSequence hgroup hmember,
      fun hseq hfirst u => State.arriveAt_recorded hgroup hmember hseq hfirst⟩⟩
  · intro s gk last t g hg
    obtain ⟨x, hx⟩ := State.groups_statistics hg last t
    refine ⟨_, hx, rfl, rfl, rfl, rfl, ?_, ?_⟩ <;> cases t <;> rfl
  · exact fun s gk m g hg => exec_barrierTimeout_releases hg
  · exact fun s gk g hg => exec_barrierTimeout_idle hg

end Sys2Proof.Machine
end

section
/-! Proofs: the network clock (12_shaping_arbitration.md R271). -/

namespace Sys2Proof.Machine

open Sys2Proof

/-! PTP_MESSAGE -/

section
variable {s u : State} {p : Nat} {udp : Bool} (hp : p < 16) (hup : s.flag Fld.FAB_PORT_STATUS_LINK_UP p = true)
  (hu : u = s.addFld Fld.FAB_PORT_RX_FRAMES_COUNT p 0 1)
include hp hup hu

/-- A message on another port than TIME_PORT, or under another transport, is counted alone. -/
theorem exec_ptpMessage_elsewhere (helse : u.fld Fld.SHP_TIME_CTRL_TIME_PORT (p / 8) ≠ p % 8 ∨
    u.flag Fld.SHP_TIME_CTRL_TRANSPORT (p / 8) ≠ udp) (m : PtpMessage) : exec (.ptpMessage p udp m) s = .next u := by
  subst hu
  change execPtpMessage p udp m s = _
  simp only [execPtpMessage, if_neg (State.link_live hp hup), if_pos helse]

section
variable (hport : u.fld Fld.SHP_TIME_CTRL_TIME_PORT (p / 8) = p % 8)
  (htransport : u.flag Fld.SHP_TIME_CTRL_TRANSPORT (p / 8) = udp)
include hport htransport

/-- The Sync of a one-step master carries the master's time itself. -/
theorem exec_ptpMessage_sync (t r : Int) :
    exec (.ptpMessage p udp (.sync (some t) r)) s = .next (u.takeSync (p / 8) t r) := by
  subst hu
  change execPtpMessage p udp (.sync (some t) r) s = _
  simp only [execPtpMessage, if_neg (State.link_live hp hup), hport, htransport, ne_eq, not_true_eq_false, or_self, if_false]

/-- The Follow_Up of a two-step master completes the Sync that waits for it. -/
theorem exec_ptpMessage_followUp {r : Int} (hsync : (u.hub (p / 8)).syncAt = some r) (t : Int) :
    exec (.ptpMessage p udp (.followUp t)) s = .next (u.takeSync (p / 8) t r) := by
  subst hu
  change execPtpMessage p udp (.followUp t) s = _
  simp only [execPtpMessage, if_neg (State.link_live hp hup), hport, htransport, ne_eq, not_true_eq_false, or_self, if_false,
    hsync]

end

end

/-! What a Sync makes of the clock -/

/-- The Syncs in a row within ±50 ns, once one at the offset `off` is counted. -/
def Hub.goodAfter (c : Hub) (off : Int) : Nat := if -50 ≤ off ∧ off ≤ 50 then c.good + 1 else 0

theorem Hub.eight_le_goodAfter {c : Hub} {off : Int} : 8 ≤ c.goodAfter off ↔ -50 ≤ off ∧ off ≤ 50 ∧ 7 ≤ c.good := by
  unfold Hub.goodAfter
  split <;> omega

/-- The clock of hub die `h` with the measured offset `off` taken out, before the Sync may lock it. -/
def State.moveClock (s : State) (h : Nat) (origin received off : Int) : State :=
  (s.updHub h (fun c => { c with
    timeOffset := c.timeOffset - off, good := c.goodAfter off, syncAt := none, lastSync := some (origin, received) })).setFld
      Fld.SHP_TIME_STATUS_OFFSET_NS h 0 (wrapInt 32 off)

@[simp] theorem State.hub_setFld (s : State) (f : Field) (i j v h : Nat) : (s.setFld f i j v).hub h = s.hub h := rfl

theorem State.hub_moveClock (s : State) (h : Nat) (t r off : Int) : (s.moveClock h t r off).hub h =
    { s.hub h with
      timeOffset := (s.hub h).timeOffset - off, good := (s.hub h).goodAfter off, syncAt := none, lastSync := some (t, r) } := by
  rw [State.moveClock, State.hub_setFld, State.hub_updHub_self]

/-- The offset and the state of SHP_TIME_STATUS share no bit. -/
theorem State.timeState_moveClock (s : State) (h : Nat) (t r off : Int) :
    (s.moveClock h t r off).timeState h = s.timeState h :=
  State.fld_setFld_apart (by rfl) (by decide) (.inr (by decide)) _ h 0 _

@[simp] theorem State.timeState_updHub (s : State) (h k : Nat) (f : Hub → Hub) :
    (s.updHub h f).timeState k = s.timeState k := rfl

theorem State.timeState_setFld {s : State} {h v : Nat} (hv : v < 4) :
    (s.setFld Fld.SHP_TIME_STATUS_STATE h 0 v).timeState h = v :=
  (State.fld_setFld_self (by decide)).trans (Nat.mod_eq_of_lt hv)

/-- The clock of hub die `h` is LOCKED. -/
def State.lockClock (s : State) (h : Nat) : State :=
  (s.setFld Fld.SHP_TIME_STATUS_STATE h 0 1).updHub h (fun c => { c with wasLocked := true })

theorem State.hub_lockClock (s : State) (h : Nat) : (s.lockClock h).hub h = { s.hub h with wasLocked := true } := by
  rw [State.lockClock, State.hub_updHub_self, State.hub_setFld]

theorem State.timeState_lockClock (s : State) (h : Nat) : (s.lockClock h).timeState h = 1 := by
  rw [State.lockClock, State.timeState_updHub, State.timeState_setFld (by decide)]

section
variable {s : State} {h : Nat} {t r off : Int} (hoff : off = r + (s.hub h).timeOffset - t - (s.hub h).pathDelay)
include hoff

/-- A Sync moves the clock; the eighth in a row locks it, and a lost lock that is regained is recorded. -/
theorem State.takeSync_eq : s.takeSync h t r =
    if (s.hub h).goodAfter off < 8 ∨ s.timeState h = 1 then s.moveClock h t r off
    else if s.timeState h == 0 && (s.hub h).wasLocked then
      ((s.moveClock h t r off).lockClock h).event ⟨0x0407, none, 6 + h, 37, [h]⟩
    else (s.moveClock h t r off).lockClock h := by
  rw [← State.timeState_moveClock s h t r off, hoff]
  rfl

/-- Fewer than eight Syncs in a row, or a clock that is locked: it moves and no more. -/
theorem State.takeSync_moves (hmoves : (s.hub h).goodAfter off < 8 ∨ s.timeState h = 1) :
    s.takeSync h t r = s.moveClock h t r off := by
  rw [State.takeSync_eq hoff, if_pos hmoves]

section
variable (hfresh : ¬((s.hub h).wasLocked = true ∧ s.timeState h = 0))
include hfresh

/-- The eighth Sync in a row locks a clock that regains no lost lock. -/
theorem State.takeSync_locks (height : 8 ≤ (s.hub h).goodAfter off) (hstate : s.timeState h ≠ 1) :
    s.takeSync h t r = (s.moveClock h t r off).lockClock h := by
  have hsilent : ¬(s.timeState h == 0 && (s.hub h).wasLocked) = true := by
    rwa [Bool.and_eq_true, beq_iff_eq, and_comm]
  rw [State.takeSync_eq hoff, if_neg (not_or.2 ⟨Nat.not_lt_of_le height, hstate⟩), if_neg hsilent]

/-- A Sync that regains no lost lock moves the clock by the offset and counts it, whether or not it locks. -/
theorem State.hub_takeSync : ((s.takeSync h t r).hub h).timeOffset = (s.hub h).timeOffset - off ∧
    ((s.takeSync h t r).hub h).good = (s.hub h).goodAfter off := by
  by_cases hmoves : (s.hub h).goodAfter off < 8 ∨ s.timeState h = 1
  · rw [State.takeSync_moves hoff hmoves, State.hub_moveClock]
    exact ⟨rfl, rfl⟩
  · rw [not_or, Nat.not_lt] at hmoves
    obtain ⟨height, hstate⟩ := hmoves
    rw [State.takeSync_locks hoff hfresh height hstate, State.hub_lockClock, State.hub_moveClock]
    exact ⟨rfl, rfl⟩

theorem State.timeState_takeSync_locks (height : 8 ≤ (s.hub h).goodAfter off) (hstate : s.timeState h ≠ 1) :
    (s.takeSync h t r).timeState h = 1 := by
  rw [State.takeSync_locks hoff hfresh height hstate, State.timeState_lockClock]

end

theorem State.timeState_takeSync_moves (hfew : ¬8 ≤ (s.hub h).goodAfter off) :
    (s.takeSync h t r).timeState h = s.timeState h := by
  rw [State.takeSync_moves hoff (.inl (Nat.lt_of_not_le hfew)), State.timeState_moveClock]

end

/-! SYNC_LOSS_TIMEOUT and HOLDOVER_EXPIRY -/

section
variable {s : State} {h : Nat}

theorem exec_syncLossTimeout_locked (hh : h < 2) (hlocked : s.timeState h = 1) : exec (.syncLossTimeout h) s =
    .next ((s.setFld Fld.SHP_TIME_STATUS_STATE h 0 2).updHub h (fun c => { c with good := 0 })) :=
  congrArg Host.Outcome.next (if_pos ⟨hh, hlocked⟩)

theorem exec_syncLossTimeout_unlocked (hstate : s.timeState h ≠ 1) : exec (.syncLossTimeout h) s = .next s :=
  congrArg Host.Outcome.next (if_neg fun hlocked => hstate hlocked.2)

theorem exec_holdoverExpiry_holdover (hh : h < 2) (hholds : s.timeState h = 2) : exec (.holdoverExpiry h) s =
    .next ((s.setFld Fld.SHP_TIME_STATUS_STATE h 0 0).event ⟨0x0406, none, 6 + h, 37, [h]⟩) :=
  congrArg Host.Outcome.next (if_pos ⟨hh, hholds⟩)

theorem exec_holdoverExpiry_other (hstate : s.timeState h ≠ 2) : exec (.holdoverExpiry h) s = .next s :=
  congrArg Host.Outcome.next (if_neg fun hholds => hstate hholds.2)

end

/-- Settles O42: a Sync moves the clock by its offset and the eighth in a row locks it, because the offset and the state
of SHP_TIME_STATUS share no bit; the timeouts lead from LOCKED to HOLDOVER and from there to UNLOCKED. -/
theorem networkTime : Obligations.NetworkTime := by
  refine ⟨fun s u p udp m hp hup hu => ⟨fun helse => exec_ptpMessage_elsewhere hp hup hu helse m,
      fun hport htransport => ⟨?_, ?_⟩⟩, fun s h t r off hfresh hoff => State.hub_takeSync hoff hfresh,
    fun s h t r _ hstate hfresh => ⟨fun height => ?_, fun hfew => ?_⟩, fun s h hh hlocked => ?_,
    fun s h _ => exec_syncLossTimeout_unlocked, fun s h => exec_holdoverExpiry_holdover,
    fun s h _ => exec_holdoverExpiry_other⟩
  · rintro t r rfl
    exact exec_ptpMessage_sync hp hup hu hport htransport t r
  · rintro t r rfl hsync
    exact exec_ptpMessage_followUp hp hup hu hport htransport hsync t
  · exact State.timeState_takeSync_locks rfl hfresh (Hub.eight_le_goodAfter.2 height) hstate
  · exact State.timeState_takeSync_moves rfl (mt Hub.eight_le_goodAfter.1 hfew)
  · refine ⟨_, exec_syncLossTimeout_locked hh hlocked, (State.timeState_updHub ..).trans (State.timeState_setFld (by decide)), ?_, ?_⟩
    · rw [State.hub_updHub_self]
    · rw [State.hub_updHub_self, State.hub_setFld]

end Sys2Proof.Machine
end

section
/-! Proofs: gate lists of ports and hub dies, and queue samples (12_shaping_arbitration.md R272, R273, R275, R277, R279). -/

namespace Sys2Proof.Machine

open Sys2Proof

/-! GCL_CONFIG_CHANGE (R273) -/

/-- A class that is reserved is open alone, or not at all (R274). -/
theorem opensAlone_iff {owned : Bool} {gates c : Nat} : (!(owned && gates.testBit c) || gates == 2 ^ c) = true ↔
    (owned = true → gates.testBit c = true → gates = 2 ^ c) := by
  cases owned <;> cases gates.testBit c <;> simp

theorem State.gateListOk_iff {s : State} {p : Nat} {l : GateList} : s.gateListOk p l = true ↔
    (1 ≤ l.entries.length ∧ l.entries.length ≤ 512 ∧ 1000 ≤ l.cycle ∧ l.cycle ≤ 1000000000 ∧ ∀ e ∈ l.entries,
      32 ≤ bits e 32 32 ∧ (e.testBit 8 = true → bits e 0 8 = 0) ∧
      ∀ c < 8, (s.classOwner p c).isSome = true → (bits e 0 8).testBit c = true → bits e 0 8 = 2 ^ c) := by
  simp only [State.gateListOk, Bool.and_eq_true, decide_eq_true_eq, List.all_eq_true, opensAlone_iff, List.mem_range,
    Bool.not_eq_true', Bool.and_eq_false_imp, bne_eq_false_iff_eq, and_assoc]

section
variable {s t u : State} {f : Fn} {p v : Nat} (hp : p < 16) (hbit : bit v 1 = true)
  (hrow : s.writeRow f .GCL_CTRL p 0 [] v = some t) (hu : u = t.afterWrite s .GCL_CTRL p 0)
include hp hbit hrow hu

theorem exec_gclConfigChange : exec (.gclConfigChange f p v) s = .next (if u.gateListOk p (u.adminList p) then
    (u.updPort p (fun q => { q with pending := some (u.adminList p) })).setFld Fld.GCL_CTRL_PENDING p 0 1
      else u.setFld Fld.GCL_CTRL_CONFIG_ERROR p 0 1) := by
  subst hu
  change execGclConfigChange f p v s = _
  simp only [execGclConfigChange, Nat.not_le_of_lt hp, hbit, Bool.not_true, Bool.false_eq_true, or_self, if_false, hrow]

theorem exec_gclConfigChange_passes (hok : u.gateListOk p (u.adminList p) = true) : exec (.gclConfigChange f p v) s =
    .next ((u.updPort p (fun q => { q with pending := some (u.adminList p) })).setFld Fld.GCL_CTRL_PENDING p 0 1) := by
  rw [exec_gclConfigChange hp hbit hrow hu, if_pos hok]

theorem exec_gclConfigChange_fails (hbad : u.gateListOk p (u.adminList p) = false) : exec (.gclConfigChange f p v) s =
    .next (u.setFld Fld.GCL_CTRL_CONFIG_ERROR p 0 1) := by
  rw [exec_gclConfigChange hp hbit hrow hu, hbad, if_neg Bool.false_ne_true]

end

/-! GATE_CYCLE_START and GATE_ENTRY_EXPIRY (R272) -/

@[simp] theorem State.pending_portTick (s : State) (p : Nat) : ((s.portTick p).port p).pending = (s.port p).pending := by
  obtain ⟨m, h⟩ := s.port_portTick p
  rw [h]

/-- A cycle of the list that port `p` now runs starts at its entry 0. -/
def State.startCycle (s : State) (p : Nat) : State :=
  (s.updPort p (fun q => { q with running := true, cycleStart := s.timeNs, entry := 0 })).calPort p

section
variable {s : State} {p : Nat} (hp : p < 16)
include hp

section
variable (henabled : s.flag Fld.GCL_CTRL_ENABLE p = true)
  (hstarts : (s.port p).running = true ∨ s.timeState (p / 8) = 1)
include henabled hstarts

theorem exec_gateCycleStart_pending {l : GateList} (hpending : (s.port p).pending = some l) :
    exec (.gateCycleStart p) s = .next (((s.portTick p).operate p l).startCycle p) := by
  change execGateCycleStart p s = _
  simp only [execGateCycleStart, if_pos (And.intro hp (And.intro henabled hstarts)), State.pending_portTick, hpending,
    State.startCycle]

theorem exec_gateCycleStart_same (hpending : (s.port p).pending = none) :
    exec (.gateCycleStart p) s = .next ((s.portTick p).startCycle p) := by
  change execGateCycleStart p s = _
  simp only [execGateCycleStart, if_pos (And.intro hp (And.intro henabled hstarts)), State.pending_portTick, hpending,
    State.startCycle]

end

theorem exec_gateEntryExpiry_next (hgated : s.gated p = true)
    (hnext : (s.port p).entry + 1 < s.fld Fld.GCL_CTRL_OPER_LENGTH p) : exec (.gateEntryExpiry p) s =
      .next (((s.portTick p).updPort p (fun q => { q with entry := q.entry + 1 })).calPort p) :=
  congrArg Host.Outcome.next (if_pos ⟨hp, hgated, hnext⟩)

end

theorem exec_gateEntryExpiry_holds {s : State} {p : Nat}
    (hlast : s.fld Fld.GCL_CTRL_OPER_LENGTH p ≤ (s.port p).entry + 1) : exec (.gateEntryExpiry p) s = .next s :=
  congrArg Host.Outcome.next (if_neg fun ⟨_, _, hnext⟩ => Nat.not_lt_of_le hlast hnext)

/-! HUB_ENTRY_EXPIRY (R275, R279) -/

/-- A cycle of hub die `h`'s list has started: masks that fell take effect, a returned unit joins and the calibrations of
entry 0 run. -/
def State.openHubCycle (s : State) (h : Nat) : State :=
  (State.joinAt { s with arbs := s.arbs.map (fun (a : Nat × Arb) =>
    if arbHub a.1 = h then (a.1, { a.2 with unmasked := 0 }) else a) } h false).calEntry h

section
variable {s : State} {h : Nat} (hh : h < 2)
include hh

theorem exec_hubEntryExpiry_next (hnext : s.fld Fld.GCL_HUB_CTRL_ENTRY h + 1 < s.fld Fld.GCL_HUB_CTRL_LENGTH h) :
    exec (.hubEntryExpiry h) s = .next (((s.setFld Fld.GCL_HUB_CTRL_ENTRY h 0 (s.fld Fld.GCL_HUB_CTRL_ENTRY h + 1)).updHub h
      (fun c => { c with entryFrom := s.timeNs })).calEntry h) := by
  have hlive : ¬(2 ≤ h ∨ s.fld Fld.GCL_HUB_CTRL_LENGTH h = 0) := by omega
  change execHubEntryExpiry h s = _
  simp only [execHubEntryExpiry, if_neg hlive, if_pos hnext]

section
variable (hlist : s.fld Fld.GCL_HUB_CTRL_LENGTH h ≠ 0)
  (hlast : s.fld Fld.GCL_HUB_CTRL_LENGTH h ≤ s.fld Fld.GCL_HUB_CTRL_ENTRY h + 1)
include hlist hlast

/-- The list that waits is installed at the cycle start. -/
theorem exec_hubEntryExpiry_installs {l : List Nat} (hwaits : ((s.takeOwners h).hub h).nextList = some l) :
    exec (.hubEntryExpiry h) s = .next (((s.takeOwners h).installHubList h l).openHubCycle h) := by
  have hlive : ¬(2 ≤ h ∨ s.fld Fld.GCL_HUB_CTRL_LENGTH h = 0) := by omega
  change execHubEntryExpiry h s = _
  simp only [execHubEntryExpiry, if_neg hlive, if_neg (Nat.not_lt_of_le hlast), hwaits, State.openHubCycle]

/-- Where no list waits, the running one starts again. -/
theorem exec_hubEntryExpiry_again (hnone : ((s.takeOwners h).hub h).nextList = none) :
    exec (.hubEntryExpiry h) s = .next (State.openHubCycle (((s.takeOwners h).setFld Fld.GCL_HUB_CTRL_ENTRY h 0 0).updHub h
      (fun c => { c with entryFrom := (s.takeOwners h).timeNs })) h) := by
  have hlive : ¬(2 ≤ h ∨ s.fld Fld.GCL_HUB_CTRL_LENGTH h = 0) := by omega
  change execHubEntryExpiry h s = _
  simp only [execHubEntryExpiry, if_neg hlive, if_neg (Nat.not_lt_of_le hlast), hnone, State.openHubCycle]

end

end

/-! QUEUE_SAMPLE (R277) -/

theorem exec_queueSample_enabled {s : State} {h : Nat} (hh : h < 2)
    (henabled : s.flag Fld.SHP_SAMPLE_RING_ENABLE h = true) : exec (.queueSample h) s =
      .next ((bitsOf 64 (s.reg .SHP_SAMPLE_MASK_LO h 0 + s.fld Fld.SHP_SAMPLE_CTRL_QUEUE_MASK h * 2 ^ 32)).foldl (fun s k =>
        ((s.portTick (8 * h + k / 8)).putSample h (k / 8) (k % 8)).updPort (8 * h + k / 8) (fun q =>
          { q with sojourn := q.sojourn.del (k % 8) })) s) := by
  change execQueueSample h s = _
  simp only [execQueueSample, Nat.not_le_of_lt hh, henabled, Bool.not_true, Bool.false_eq_true, or_self, if_false]

theorem exec_queueSample_disabled {s : State} {h : Nat} (hdisabled : s.flag Fld.SHP_SAMPLE_RING_ENABLE h = false) :
    exec (.queueSample h) s = .next s := by
  change execQueueSample h s = _
  simp only [execQueueSample, hdisabled, Bool.not_false, or_true, if_true]

/-- Settles O43: the checks of a list are read off clause by clause; a cycle start and the end of a hub cycle each split on
whether a list waits, which bringing credits up to now leaves as it was. -/
theorem gateLists : Obligations.GateLists := by
  refine ⟨fun s t f p v hp hbit hrow u hu => ⟨exec_gclConfigChange_passes hp hbit hrow hu,
      exec_gclConfigChange_fails hp hbit hrow hu⟩, fun s p l => State.gateListOk_iff,
    fun s p hp henabled hstarts => ⟨fun l => exec_gateCycleStart_pending hp henabled hstarts,
      exec_gateCycleStart_same hp henabled hstarts⟩,
    fun s p hp hgated => ⟨exec_gateEntryExpiry_next hp hgated, exec_gateEntryExpiry_holds⟩,
    fun s h => exec_hubEntryExpiry_next, ?_, fun s h => exec_queueSample_enabled, fun s h => exec_queueSample_disabled⟩
  rintro s u h hh hlist hlast rfl
  cases hnext : ((s.takeOwners h).hub h).nextList with
  | some l => exact exec_hubEntryExpiry_installs hh hlist hlast hnext
  | none => exact exec_hubEntryExpiry_again hh hlist hlast hnext

end Sys2Proof.Machine
end

section
/-! Proofs: no step unburns a fuse (14_trust_attestation.md R299, R301, R303, R320). -/

namespace Sys2Proof.Machine

open Sys2Proof

/-- Every command answers a next state that keeps (`Kept`), by the lemma of its meaning under Sys2Proof/Laws/. -/
theorem exec_kept (c : Instr) (s : State) : NextWith (exec c s) (Kept s) := by
  have h := Kept.refl s
  cases c with dsimp only [exec]
  | registerWrite => exact Kept.execRegisterWrite h
  | rcRegisterRead => exact Kept.execRcRegisterRead h
  | ringRegisterWrite => exact Kept.execRingRegisterWrite h
  | dlinkLaneFault => exact Kept.execDlinkLaneFault h
  | opMatmul => exact Kept.execMatmul h
  | opVtasks => exact Kept.execVtasks h
  | opReduceScatter => exact Kept.execReduceScatter h
  | opAllGather => exact Kept.execAllGather h
  | opLayerMark => exact Kept.execLayerMark h
  | opWait => exact Kept.execWait h
  | opEnd => exact Kept.execOpEnd h
  | operationComplete => exact Kept.execOperationComplete h
  | coreFailure => exact Kept.execCoreFailure h
  | vFma => exact Kept.execFma h
  | vAdd => exact Kept.execAdd h
  | vSub => exact Kept.execSub h
  | vMul => exact Kept.execMul h
  | vMin => exact Kept.execMin h
  | vMax => exact Kept.execMax h
  | vAbs => exact Kept.execAbs h
  | vNeg => exact Kept.execNeg h
  | vCpysgn => exact Kept.execCpysgn h
  | vIadd => exact Kept.execIadd h
  | vIsub => exact Kept.execIsub h
  | vImul => exact Kept.execImul h
  | vAnd => exact Kept.execAnd h
  | vOr => exact Kept.execOr h
  | vXor => exact Kept.execXor h
  | vShl => exact Kept.execShl h
  | vShr => exact Kept.execShr h
  | vSar => exact Kept.execSar h
  | vPopc => exact Kept.execPopc h
  | vFcmp => exact Kept.execFcmp h
  | vIcmp => exact Kept.execIcmp h
  | vSel => exact Kept.execSel h
  | vMand => exact Kept.execMand h
  | vMor => exact Kept.execMor h
  | vMnot => exact Kept.execMnot h
  | vExp => exact Kept.execExp h
  | vLog => exact Kept.execLog h
  | vRcp => exact Kept.execRcp h
  | vRsqrt => exact Kept.execRsqrt h
  | vTanh => exact Kept.execTanh h
  | vCvt => exact Kept.execCvt h
  | vQmx => exact Kept.execQmx h
  | vQf16s => exact Kept.execQf16s h
  | vDq => exact Kept.execDq h
  | vShuf => exact Kept.execShuf h
  | vBcast => exact Kept.execBcast h
  | vRsum => exact Kept.execRsum h
  | vRmax => exact Kept.execRmax h
  | vRmin => exact Kept.execRmin h
  | vPscan => exact Kept.execPscan h
  | vLd => exact Kept.execLd h
  | vSt => exact Kept.execSt h
  | vLds => exact Kept.execLds h
  | vGld => exact Kept.execGld h
  | vSst => exact Kept.execSst h
  | vXin => exact Kept.execXin h
  | vXout => exact Kept.execXout h
  | vXwait => exact Kept.execXwait h
  | transferComplete => exact Kept.execTransferComplete h
  | vAadd => exact Kept.execAadd h
  | vAmax => exact Kept.execAmax h
  | vectorAtomicApply => exact Kept.execVectorAtomicApply h
  | vFld => exact Kept.execFld h
  | vFst => exact Kept.execFst h
  | vFatom => exact Kept.execFatom h
  | vFence => exact Kept.execFence h
  | vRng => exact Kept.execRng h
  | scalarAlu => exact Kept.execScalarAlu h
  | vBr => exact Kept.execBr h
  | vBrz => exact Kept.execBrz h
  | vLoop => exact Kept.execLoop h
  | vSysrd => exact Kept.execSysrd h
  | vFlgrd => exact Kept.execFlgrd h
  | vFlgclr => exact Kept.execFlgclr h
  | chisynEnd => exact Kept.execChisynEnd h
  | taskPlace => exact Kept.execTaskPlace h
  | taskTimeout => exact Kept.execTaskTimeout h
  | lsUncorrectable => exact Kept.execLsUncorrectable h
  | vcoreFault => exact Kept.execVcoreFault h
  | maskRead => exact Kept.execMaskRead h
  | maskWaitExpiry => exact Kept.execMaskWaitExpiry h
  | poolEnable => exact Kept.execPoolEnable h
  | poolDisable => exact Kept.execPoolDisable h
  | poolRebuildDone => exact Kept.execPoolRebuildDone h
  | appendRecord => exact Kept.execAppendRecord h
  | kvCreate => exact Kept.execKvCreate h
  | kvGraft => exact Kept.execKvGraft h
  | kvRelease => exact Kept.execKvRelease h
  | kvTruncate => exact Kept.execKvTruncate h
  | remoteRequestSend => exact Kept.execRemoteRequestSend h
  | remoteRequestArrive => exact Kept.execRemoteRequestArrive h
  | remoteResponse => exact Kept.execRemoteResponse h
  | remoteBudgetExpiry => exact Kept.execRemoteBudgetExpiry h
  | tierCreate => exact Kept.execTierCreate h
  | tierDelete => exact Kept.execTierDelete h
  | tierFlush => exact Kept.execTierFlush h
  | tierSetHint => exact Kept.execSetHint h
  | tierPrefetch => exact Kept.execPrefetch h
  | tierEvict => exact Kept.execEvict h
  | tierLoad => exact Kept.execTierLoad h
  | tierRepair => exact Kept.execRepair h
  | promotion => exact Kept.execPromotion h
  | pageMoveDone => exact Kept.execPageMoveDone h
  | ageSweep => exact Kept.execAgeSweep h
  | memoryUncorrectable => exact Kept.execMemoryUncorrectable h
  | sqNew => exact Kept.execNew h
  | sqCancel => exact Kept.execCancel h
  | stepCompose => exact Kept.execStepCompose h
  | commitPhase => exact Kept.execCommitPhase h
  | doneRecordExpiry => exact Kept.execDoneRecordExpiry h
  | acctSnap => exact Kept.execAcctSnap h
  | energyTick => exact Kept.execEnergyTick h
  | swySuspend => exact Kept.execSuspend h
  | swyResume => exact Kept.execResume h
  | swyDiscard => exact Kept.execDiscard h
  | swyHold => exact Kept.execHold h
  | canopyInsert => exact Kept.execCanopyInsert h
  | canopyDrop => exact Kept.execCanopyDrop h
  | jobRegions => exact Kept.execJobRegions h
  | mapSet => exact Kept.execMapSet h
  | memberState => exact Kept.execMemberState h
  | mapDelete => exact Kept.execMapDelete h
  | swyOffer => exact Kept.execOffer h
  | swyAccept => exact Kept.execAccept h
  | swyRefuse => exact Kept.execRefuse h
  | swyDone => exact Kept.execDone h
  | swyCommitted => exact Kept.execCommitted h
  | swyAbort => exact Kept.execAbort h
  | handoffTimeout => exact Kept.execHandoffTimeout h
  | receiverTimeout => exact Kept.execReceiverTimeout h
  | bundleExpiry => exact Kept.execBundleExpiry h
  | swyEvtHeadWrite => exact Kept.execSwyEvtHeadWrite h
  | portLinkUp => exact Kept.execPortLinkUp h
  | portLinkDown => exact Kept.execPortLinkDown h
  | fabOpen => exact Kept.execOpen h
  | fabConnect => exact Kept.execConnect h
  | fabClose => exact Kept.execClose h
  | fabRegister => exact Kept.execRegister h
  | fabRevoke => exact Kept.execRevoke h
  | revokeDrainEnd => exact Kept.execRevokeDrainEnd h
  | packetSend => exact Kept.execPacketSend h
  | pktWrite => exact Kept.execWrite h
  | pktReadReq => exact Kept.execReadReq h
  | pktReadResp => exact Kept.execReadResp h
  | pktAck => exact Kept.execAck h
  | pktMemReq => exact Kept.execMemReq h
  | pktMemResp => exact Kept.execMemResp h
  | ackDelayExpiry => exact Kept.execAckDelayExpiry h
  | retransmitTimeout => exact Kept.execRetransmitTimeout h
  | frameTransmit => exact Kept.execFrameTransmit h
  | frameUnclassified => exact Kept.execFrameUnclassified h
  | coalesceExpiry => exact Kept.execCoalesceExpiry h
  | fmmLoad => exact Kept.execFmmLoad h
  | fmmStore => exact Kept.execFmmStore h
  | fmmAtomic => exact Kept.execFmmAtomic h
  | fmmFence => exact Kept.execFmmFence h
  | fmmMap => exact Kept.execMap h
  | fmmUnmap => exact Kept.execUnmap h
  | fmmGroupCreate => exact Kept.execGroupCreate h
  | fmmGroupDelete => exact Kept.execGroupDelete h
  | barrierTimeout => exact Kept.execBarrierTimeout h
  | ptpMessage => exact Kept.execPtpMessage h
  | syncLossTimeout => exact Kept.execSyncLossTimeout h
  | holdoverExpiry => exact Kept.execHoldoverExpiry h
  | gateCycleStart => exact Kept.execGateCycleStart h
  | gateEntryExpiry => exact Kept.execGateEntryExpiry h
  | gclConfigChange => exact Kept.execGclConfigChange h
  | hubEntryExpiry => exact Kept.execHubEntryExpiry h
  | queueSample => exact Kept.execQueueSample h
  | arbiterGrant => exact Kept.execArbiterGrant h
  | burstLimitExpiry => exact Kept.execBurstLimitExpiry h
  | requesterMaskRise => exact Kept.execRequesterMaskRise h
  | arbFreeze => exact Kept.execFreeze h
  | arbFreezeClear => exact Kept.execFreezeClear h
  | drainTimeout => exact Kept.execDrainTimeout h
  | asrSearch => exact Kept.execAsrSearch h
  | classifierInsert => exact Kept.execClassifierInsert h
  | classifierDelete => exact Kept.execClassifierDelete h
  | classifierRead => exact Kept.execClassifierRead h
  | asrRespread => exact Kept.execAsrRespread h
  | asrScrubEntry => exact Kept.execAsrScrubEntry h
  | searchThrottle => exact Kept.execSearchThrottle h
  | bankFailure => exact Kept.execBankFailure h
  | getQuote => exact Kept.execGetQuote h
  | getLog => exact Kept.execGetLog h
  | getCert => exact Kept.execGetCert h
  | getKemKey => exact Kept.execGetKemKey h
  | installWeightKey => exact Kept.execInstallWeightKey h
  | removeWeightKey => exact Kept.execRemoveWeightKey h
  | jobTicket => exact Kept.execJobTicket h
  | jobJoin => exact Kept.execJobJoin h
  | jobRemove => exact Kept.execJobRemove h
  | hwdRandom => exact Kept.execHwdRandom h
  | enrolOwner => exact Kept.execEnrolOwner h
  | releaseOwner => exact Kept.execReleaseOwner h
  | stageFw => exact Kept.execStageFw h
  | applyFw => exact Kept.execApplyFw h
  | fwRestart => exact Kept.execFwRestart h
  | commitSvn => exact Kept.execCommitSvn h
  | joinRequest => exact Kept.execJoinRequest h
  | joinResponse => exact Kept.execJoinResponse h
  | joinRetry => exact Kept.execJoinRetry h
  | relayConfirm => exact Kept.execRelayConfirm h
  | imageErase => exact Kept.execImageErase h
  | imageWrite => exact Kept.execImageWrite h
  | imageCommit => exact Kept.execImageCommit h
  | replaceDrainEnd => exact Kept.execReplaceDrainEnd h
  | zeroingDone => exact Kept.execZeroingDone h
  | pwrokRise => exact Kept.execPwrokRise h
  | resetRelease => exact Kept.execResetRelease h
  | pkgReset => exact Kept.execPkgReset h
  | pwrVidApplied => exact Kept.execPwrVidApplied h
  | powerUpGroveTest => exact Kept.execPowerUpGroveTest h
  | standReset => exact Kept.execStandReset h
  | standDrainEnd => exact Kept.execStandDrainEnd h
  | selfTest => exact Kept.execSelfTest h
  | selfTestDone => exact Kept.execSelfTestDone h
  | calibrationDue => exact Kept.execCalibrationDue h
  | ballastTimeout => exact Kept.execBallastTimeout h
  | sealedClusterStart => exact Kept.execSealedClusterStart h
  | thermalSample => exact Kept.execThermalSample h
  | throttleEval => exact Kept.execThrottleEval h
  | stewardFailure => exact Kept.execStewardFailure h
  | sequencerFailure => exact Kept.execSequencerFailure h
  | packageFault => exact Kept.execPackageFault h
  | returnToService => exact Kept.execReturnToService h
  | returnCheckDone => exact Kept.execReturnCheckDone h
  | cxlLinkUp => exact Kept.execCxlLinkUp h
  | vfFlr => exact Kept.execVfFlr h
  | qwDoorbellWrite => exact Kept.execQwDoorbellWrite h
  | apertureWrite => exact Kept.execApertureWrite h
  | apertureRead => exact Kept.execApertureRead h
  | copyIn => exact Kept.execCopyIn h
  | copyOut => exact Kept.execCopyOut h
  | hdmAccess => exact Kept.execHdmAccess h
  | mctpGetQuote => exact Kept.execMctpGetQuote h
  | mctpGetLog => exact Kept.execMctpGetLog h
  | mctpGetKemKey => exact Kept.execMctpGetKemKey h
  | setEndpointId => exact Kept.execSetEndpointId h
  | stateLostEntryWindowEnd => exact Kept.execStateLostEntryWindowEnd h
  | busMasterEnableWrite => exact Kept.execBusMasterEnableWrite h
  | priorityFlowControlFrame => exact Kept.execPriorityFlowControlFrame h
  | relayMessage => exact Kept.execRelayMessage h
  | pllUnlock => exact Kept.execPllUnlock h
  | refclkReturn => exact Kept.execRefclkReturn h
  | ideKm => exact Kept.execIdeKm h
  | getMctpVersionSupport => exact Kept.execGetMctpVersionSupport h
  | getVendorMessageSupport => exact Kept.execGetVendorMessageSupport h
  | entdaa => exact Kept.execEntdaa h
  | setdasa => exact Kept.execSetdasa h
  | samplePreload => exact Kept.execSamplePreload h
  | testLogicReset => exact Kept.execTestLogicReset h
  | hostLinkDegraded => exact Kept.execHostLinkDegraded h
  | ideIntegrityFailure => exact Kept.execIdeIntegrityFailure h
  | pskExchange => exact Kept.execPskExchange h
  | ddrAlertN => exact Kept.execDdrAlertN h
  | lmsTreeBuilt => exact Kept.execLmsTreeBuilt h
  | pwrokFall => exact Kept.execPwrokFall h
  | rstNLow => exact Kept.execRstNLow h
  | perstNLow => exact Kept.execPerstNLow h
  | governorGrant => exact Kept.execGovernorGrant h
  | floodWindowEnd => exact Kept.execFloodWindowEnd h
  | cxlLinkDown => exact Kept.execCxlLinkDown h
  | pfFlr => exact Kept.execPfFlr h
  | health => exact Kept.execHealth h
  | vidApplied => exact Kept.execVidApplied h
  | mctpGetCert => exact Kept.execMctpGetCert h
  | getEndpointId => exact Kept.execGetEndpointId h
  | getMessageTypeSupport => exact Kept.execGetMessageTypeSupport h
  | idcode => exact Kept.execIdcode h
  | extest => exact Kept.execExtest h
  | extestPulse => exact Kept.execExtestPulse h
  | extestTrain => exact Kept.execExtestTrain h
  | clamp => exact Kept.execClamp h
  | highz => exact Kept.execHighz h
  | bypass => exact Kept.execBypass h

/-- A step burns fuses only: on an empty queue a clock period passes, which leaves them, and otherwise the front command
keeps them; that it runs on the rest of the queue does not touch them. -/
theorem step_burnt {s t : State} (h : step s = .next t) : Burnt s.fuses t.fuses := by
  unfold step at h
  split at h
  case h_1 =>
    obtain rfl := Host.Outcome.next.inj h
    exact (Kept.idle (Kept.refl s)).2.2
  case h_2 c rest _ =>
    obtain ⟨u, hu, _, _, hburnt⟩ := exec_kept c { s with pending := rest }
    obtain rfl := Host.Outcome.next.inj (hu.symm.trans h)
    exact hburnt

/-- Settles O4: every command keeps the fuses burnt (`exec_kept`), and a step is a command or a clock period. -/
theorem fusesOnlyBurn : Obligations.FusesOnlyBurn :=
  fun _ _ => step_burnt

end Sys2Proof.Machine
end

section
/-! Proofs: mailbox commands, and those that answer with data (14_trust_attestation.md R296, R308, R310-R315, R323). -/

namespace Sys2Proof.Machine

open Sys2Proof

/-! A write of a mailbox's control register (R323) -/

section
variable {s t w : State} {b : Box} {f : Fn} {v op : Nat} {known : List Nat} {run : Nat → State → State × Option Reply}
  {r : Reply} (hwritten : s.writeRow f b.ctrl b.unit 0 [] v = some t)
include hwritten

theorem State.boxWrite_noGo (hgo : bit v 0 = false) : s.boxWrite b f v op known run = t := by
  simp only [State.boxWrite, hwritten, hgo, Bool.not_false, if_true]

theorem State.boxWrite_busy (hgo : bit v 0 = true) (hbusy : t.flag b.busy b.unit = true) :
    s.boxWrite b f v op known run = t.setFld b.overrun b.unit 0 1 := by
  simp only [State.boxWrite, hwritten, hgo, hbusy, Bool.not_true, Bool.false_eq_true, if_false, if_true]

/-- The command of the row starts where its OP stands in the data area, and completes with the response it answers. -/
theorem State.boxWrite_reply (hgo : bit v 0 = true) (hidle : t.flag b.busy b.unit = false)
    (hop : bits (t.boxWord b) 0 8 = op)
    (hrun : run (bits (t.boxWord b) 16 16) (t.setFld b.busy b.unit 0 1) = (w, some r)) :
    s.boxWrite b f v op known run = w.boxDone b r := by
  simp only [State.boxWrite, hwritten, hgo, hidle, hop, hrun, Bool.not_true, Bool.false_eq_true, if_false, if_true]

/-- The command starts and stays in progress where it answers nothing yet. -/
theorem State.boxWrite_inProgress (hgo : bit v 0 = true) (hidle : t.flag b.busy b.unit = false)
    (hop : bits (t.boxWord b) 0 8 = op)
    (hrun : run (bits (t.boxWord b) 16 16) (t.setFld b.busy b.unit 0 1) = (w, none)) :
    s.boxWrite b f v op known run = w := by
  simp only [State.boxWrite, hwritten, hgo, hidle, hop, hrun, Bool.not_true, Bool.false_eq_true, if_false, if_true]

end

/-! A Heartwood command (Table 14.10) -/

section
variable {s t u : State} {f : Fn} {m v op len : Nat} {use : BoxUse} {run : List Byte → State → State × Option Reply}
  (hbox : m ≤ 24) (hwritten : s.writeRow f .HWD_MB_CTRL m 0 [] v = some t)
include hbox hwritten

theorem State.heartCommand_noGo (hgo : bit v 0 = false) : s.heartCommand f m v op len use run = t := by
  rw [State.heartCommand, if_neg (Nat.not_lt.2 hbox)]
  exact State.boxWrite_noGo hwritten hgo

theorem State.heartCommand_busy (hgo : bit v 0 = true) (hbusy : t.flag Fld.HWD_MB_CTRL_BUSY m = true) :
    s.heartCommand f m v op len use run = t.setFld Fld.HWD_MB_CTRL_OVERRUN m 0 1 := by
  rw [State.heartCommand, if_neg (Nat.not_lt.2 hbox)]
  exact State.boxWrite_busy hwritten hgo hbusy

variable (hgo : bit v 0 = true) (hidle : t.flag Fld.HWD_MB_CTRL_BUSY m = false)
  (hop : bits (t.boxWord (heartBox m)) 0 8 = op) (hu : u = t.setFld Fld.HWD_MB_CTRL_BUSY m 0 1)
include hgo hidle hop hu

theorem State.heartCommand_applying (happlying : u.fld Fld.HWD_STATUS_STATE = 2) :
    s.heartCommand f m v op len use run = u.boxDone (heartBox m) { status := 1 } := by
  subst hu
  rw [State.heartCommand, if_neg (Nat.not_lt.2 hbox)]
  exact State.boxWrite_reply hwritten hgo hidle hop (if_pos happlying)

variable (htaken : u.fld Fld.HWD_STATUS_STATE ≠ 2)
include htaken

theorem State.heartCommand_notPermitted (hmay : use.allows m = false) :
    s.heartCommand f m v op len use run = u.boxDone (heartBox m) { status := 3 } := by
  subst hu
  rw [State.heartCommand, if_neg (Nat.not_lt.2 hbox)]
  refine State.boxWrite_reply hwritten hgo hidle hop ((if_neg htaken).trans ?_)
  rw [hmay]
  rfl

theorem State.heartCommand_short (hmay : use.allows m = true) (hshort : bits (t.boxWord (heartBox m)) 16 16 < len) :
    s.heartCommand f m v op len use run = u.boxDone (heartBox m) { status := 2 } := by
  subst hu
  rw [State.heartCommand, if_neg (Nat.not_lt.2 hbox)]
  refine State.boxWrite_reply hwritten hgo hidle hop ((if_neg htaken).trans ?_)
  rw [hmay]
  exact if_pos hshort

end

/-- A command that meets the checks of every command runs on its arguments, and completes with the response it answers. -/
theorem Commanded.reply {s t u w : State} {f : Fn} {m v op len : Nat} {use : BoxUse}
    {run : List Byte → State → State × Option Reply} {c : Instr} {r : Reply} (h : Commanded s t u f m v op len use)
    (hexec : exec c s = .next (s.heartCommand f m v op len use run))
    (hrun : run (u.boxBytes (heartBox m) 8 len) u = (w, some r)) : exec c s = .next (w.boxDone (heartBox m) r) := by
  obtain ⟨hbox, hwritten, hgo, hidle, hop, rfl, htaken, hmay, hcovered⟩ := h
  rw [hexec, State.heartCommand, if_neg (Nat.not_lt.2 hbox)]
  refine congrArg _ (State.boxWrite_reply hwritten hgo hidle hop ((if_neg htaken).trans ?_))
  rw [hmay]
  exact (if_neg (Nat.not_lt.2 hcovered)).trans hrun

/-- One that answers nothing yet stays in progress. -/
theorem Commanded.inProgress {s t u w : State} {f : Fn} {m v op len : Nat} {use : BoxUse}
    {run : List Byte → State → State × Option Reply} {c : Instr} (h : Commanded s t u f m v op len use)
    (hexec : exec c s = .next (s.heartCommand f m v op len use run))
    (hrun : run (u.boxBytes (heartBox m) 8 len) u = (w, none)) : exec c s = .next w := by
  obtain ⟨hbox, hwritten, hgo, hidle, hop, rfl, htaken, hmay, hcovered⟩ := h
  rw [hexec, State.heartCommand, if_neg (Nat.not_lt.2 hbox)]
  refine congrArg _ (State.boxWrite_inProgress hwritten hgo hidle hop ((if_neg htaken).trans ?_))
  rw [hmay]
  exact (if_neg (Nat.not_lt.2 hcovered)).trans hrun

/-- The rows of Table 14.10: each command with its OP, the bytes of its arguments, and who may issue it. -/
def heartRows (f : Fn) (m v fails : Nat) : List (Instr × Nat × Nat × BoxUse) :=
  [(.getQuote f m v fails, 1, 33, .all), (.getLog f m v, 2, 10, .all), (.getCert f m v, 3, 0, .all),
    (.getKemKey f m v, 4, 1, .all), (.installWeightKey f m v, 5, 1680, .stand), (.removeWeightKey f m v, 6, 2, .stand),
    (.jobTicket f m v, 7, 1680, .stand), (.jobJoin f m v, 8, 40, .stand), (.jobRemove f m v, 9, 2, .stand),
    (.hwdRandom f m v, 10, 4, .all), (.enrolOwner f m v, 0x10, 60, .pf), (.releaseOwner f m v, 0x11, 64, .pf),
    (.stageFw f m v, 0x12, 16, .pf), (.applyFw f m v, 0x13, 0, .pf), (.commitSvn f m v, 0x14, 0, .pf)]

/-- Every row is a `State.heartCommand` of its OP, its arguments and its use. -/
theorem exec_heartCommand_of_mem {s : State} {f : Fn} {m v fails op len : Nat} {use : BoxUse} {c : Instr}
    (hc : (c, op, len, use) ∈ heartRows f m v fails) :
    ∃ run, exec c s = .next (s.heartCommand f m v op len use run) := by
  simp only [heartRows, List.mem_cons, List.not_mem_nil, or_false, Prod.mk.injEq] at hc
  rcases hc with ⟨rfl, rfl, rfl, rfl⟩ | ⟨rfl, rfl, rfl, rfl⟩ | ⟨rfl, rfl, rfl, rfl⟩ | ⟨rfl, rfl, rfl, rfl⟩ |
    ⟨rfl, rfl, rfl, rfl⟩ | ⟨rfl, rfl, rfl, rfl⟩ | ⟨rfl, rfl, rfl, rfl⟩ | ⟨rfl, rfl, rfl, rfl⟩ | ⟨rfl, rfl, rfl, rfl⟩ |
    ⟨rfl, rfl, rfl, rfl⟩ | ⟨rfl, rfl, rfl, rfl⟩ | ⟨rfl, rfl, rfl, rfl⟩ | ⟨rfl, rfl, rfl, rfl⟩ | ⟨rfl, rfl, rfl, rfl⟩ |
    ⟨rfl, rfl, rfl, rfl⟩ <;> exact ⟨_, rfl⟩

/-! Commands that answer with data (R296, R308, R310-R312) -/

/-- GET_LOG changes nothing. -/
@[simp] theorem State.getLog_fst (s : State) (may : Nat → Bool) (args : List Byte) : (s.getLog may args).1 = s := by
  simp only [State.getLog]
  split_ifs <;> rfl

/-- GET_KEM_KEY changes nothing. -/
@[simp] theorem State.getKemKey_fst (s : State) (may : Nat → Bool) (args : List Byte) :
    (s.getKemKey may args).1 = s := by
  simp only [State.getKemKey]
  split_ifs
  · rfl
  · rfl
  · split <;> rfl

/-- `k` random words are 8 × `k` bytes. -/
theorem State.length_randomBytes (k : Nat) (s : State) : (s.randomBytes k).1.length = 8 * k := by
  induction k generalizing s with
  | zero => rfl
  | succ k ih => simp only [State.randomBytes, List.length_append, length_toBytes, ih]; omega

/-- The words that RANDOM draws cover the bytes that it was asked for. -/
theorem State.length_take_randomBytes {s w : State} {k : Nat} {bs : List Byte}
    (hdrawn : s.randomBytes (ceilDiv k 8) = (bs, w)) : (bs.take k).length = k := by
  have hlen : bs.length = 8 * ceilDiv k 8 := by rw [← s.length_randomBytes, hdrawn]
  rw [List.length_take, hlen, ceilDiv]
  omega

theorem Commanded.random {s t u w : State} {f : Fn} {m v k : Nat} {bs : List Byte}
    (h : Commanded s t u f m v 10 4 .all) (hk : k = le (u.boxBytes (heartBox m) 8 4) 0 4) (hlo : 1 ≤ k) (hhi : k ≤ 256)
    (hdrawn : u.randomBytes (ceilDiv k 8) = (bs, w)) :
    exec (.hwdRandom f m v) s = .next (w.boxDone (heartBox m) { data := bs.take k }) := by
  have hin : ¬(k = 0 ∨ 256 < k) := by omega
  refine h.reply rfl ?_
  simp only [← hk, if_neg hin, hdrawn]

theorem Commanded.random_outOfRange {s t u : State} {f : Fn} {m v k : Nat} (h : Commanded s t u f m v 10 4 .all)
    (hk : k = le (u.boxBytes (heartBox m) 8 4) 0 4) (hout : k = 0 ∨ 256 < k) :
    exec (.hwdRandom f m v) s = .next (u.boxDone (heartBox m) { status := 2 }) := by
  refine h.reply rfl ?_
  simp only [← hk, if_pos hout, refusedWith]

/-! Key release (R312-R315) -/

/-- A blob of `kind` for stand `n` passes every check of R313, with KEY_ID `k` and payload `p`. -/
structure Released (s : State) (n kind slots used : Nat) (b : List Byte) (k : Nat) (p : List Byte) : Prop where
  keyId : k = le b 4 2
  version : le b 0 2 = 1
  kind : le b 2 1 = kind
  stand : le b 3 1 = n
  serial : le b 8 8 = Config.serial.toNat
  running : (s.stand n).cond = .running
  nonzero : k ≠ 0
  unused : (s.stand n).hasKey k = false
  room : used < slots
  opens : s.openBlob n b = some p
  log : s.standLogFull n = false

theorem State.releaseKey_badHeader {s : State} {n op kind slots used : Nat} {b : List Byte}
    {put : Nat → List Byte → State → State}
    (hbad : le b 0 2 ≠ 1 ∨ le b 2 1 ≠ kind ∨ le b 3 1 ≠ n ∨ le b 8 8 ≠ Config.serial.toNat) :
    s.releaseKey n op kind slots used b put = refusedWith s 2 := if_pos hbad

/-- A blob that passes is measured and reported, and its payload installed. -/
theorem Released.releaseKey {s : State} {n op kind slots used k : Nat} {b p : List Byte}
    (h : Released s n kind slots used b k p) (put : Nat → List Byte → State → State) :
    s.releaseKey n op kind slots used b put = (put k p
      ((s.measureStand n 3 4 k (sub b 0 16)).heartEvent 0x3001 (some n) [k, kind]), some {}) := by
  obtain ⟨hkeyId, hversion, hkind, hstand, hserial, hrunning, hnonzero, hunused, hroom, hopens, hlog⟩ := h
  simp only [State.releaseKey, ← hkeyId, hversion, hkind, hstand, hserial, ne_eq, not_true_eq_false, or_self, if_false,
    hrunning, StandCond.refusal, hnonzero, hunused, Bool.false_eq_true, Nat.not_le_of_lt hroom, hopens, hlog]

/-- Settles O51: every row of Table 14.10 is a `State.heartCommand`, whose checks are the same for all, and a command that
meets them answers what its own run answers. -/
theorem heartAnswers : Obligations.HeartAnswers := by
  refine ⟨fun s t u f m v fails op len use c hc hbox hwritten hu => ?_, fun s t u f m v => ⟨fun fails h => h.reply rfl rfl,
    fun h => h.reply rfl ?_, fun h => h.reply rfl rfl, fun h => h.reply rfl ?_, fun k h hk => ⟨fun hlo hhi =>
      ⟨_, _, rfl, State.length_take_randomBytes rfl, h.random hk hlo hhi rfl⟩, h.random_outOfRange hk⟩, ?_, ?_, ?_⟩⟩
  · obtain ⟨run, hexec⟩ := exec_heartCommand_of_mem (s := s) hc
    rw [hexec]
    exact ⟨fun hgo => congrArg _ (State.heartCommand_noGo hbox hwritten hgo),
      fun hgo hbusy => congrArg _ (State.heartCommand_busy hbox hwritten hgo hbusy),
      fun hgo hidle hop => ⟨
        fun happlying => congrArg _ (State.heartCommand_applying hbox hwritten hgo hidle hop hu happlying),
        fun htaken hmay => congrArg _ (State.heartCommand_notPermitted hbox hwritten hgo hidle hop hu htaken hmay),
        fun htaken hmay hshort => congrArg _ (State.heartCommand_short hbox hwritten hgo hidle hop hu htaken hmay hshort)⟩⟩
  · rw [replied, State.getLog_fst]
  · rw [replied, State.getKemKey_fst]
  · rintro b p k h rfl hk hversion hkind hstand hserial hrunning hnonzero hunused hroom hopens hlog w rfl
    exact h.reply rfl (Released.releaseKey
      ⟨hk, hversion, hkind, hstand, hserial, hrunning, hnonzero, hunused, hroom, hopens, hlog⟩ _)
  · rintro b h rfl hbad
    exact h.reply rfl (State.releaseKey_badHeader hbad)
  · rintro b p k key w x h rfl hk hversion hkind hstand hserial hrunning hnonzero hunused hroom hopens hlog horiginator rfl
      hdrawn j rfl
    refine h.reply rfl ((Released.releaseKey
      ⟨hk, hversion, hkind, hstand, hserial, hrunning, hnonzero, hunused, hroom, hopens, hlog⟩ _).trans ?_)
    simp only [horiginator, if_true, hdrawn]

end Sys2Proof.Machine
end

section
/-! Proofs: commands about keys, owners and firmware (14_trust_attestation.md R299, R301, R314, R317-R320). -/

namespace Sys2Proof.Machine

open Sys2Proof

/-! Keys (R314, R317) -/

section
variable {s t u : State} {f : Fn} {m v k : Nat}

theorem Commanded.removeWeightKey (h : Commanded s t u f m v 6 2 .stand)
    (hk : k = le (u.boxBytes (heartBox m) 8 2) 0 2) (hrunning : (u.stand m).cond = .running) (hnonzero : k ≠ 0)
    (hinstalled : (u.stand m).weightKeys.get? k ≠ none) (hlog : u.standLogFull m = false) :
    exec (.removeWeightKey f m v) s = .next ((((u.updStand m (fun st =>
      { st with weightKeys := st.weightKeys.del k })).measureStand m 3 5 k (keyEvent 1 m k)).heartEvent 0x3002 (some m)
        [k]).boxDone (heartBox m) {}) := by
  refine h.reply rfl ?_
  simp only [← hk, hrunning, StandCond.refusal, hnonzero, false_or, Option.isNone_iff_eq_none, hinstalled, hlog,
    Bool.false_eq_true, if_false]

theorem Commanded.jobRemove (h : Commanded s t u f m v 9 2 .stand) (hk : k = le (u.boxBytes (heartBox m) 8 2) 0 2)
    (hrunning : (u.stand m).cond = .running) {j : JobKey} (hinstalled : (u.stand m).jobKeys.get? k = some j)
    (hfree : j.key.isSome = true → u.keyInUse m k j = false) (hlog : u.standLogFull m = false) :
    exec (.jobRemove f m v) s = .next (((((((j.inbox.toList ++ j.staging.toList).foldl (fun s i => s.revoke i none)
      u).updStand m (fun st => { st with jobKeys := st.jobKeys.del k })).measureStand m 3 5 k (keyEvent 2 m k)).heartEvent
        0x3002 (some m) [k]).canopyCheck m).boxDone (heartBox m) {}) := by
  have hused : ¬(j.key.isSome = true ∧ u.keyInUse m k j = true) := fun hused => by simp [hfree hused.1] at hused
  refine h.reply rfl ?_
  simp only [← hk, hrunning, StandCond.refusal, hinstalled, if_neg hused, hlog, Bool.false_eq_true, if_false]

/-- JOB_JOIN draws a nonce and a KEM pair, sends its request, and stays in progress. -/
theorem Commanded.jobJoin (h : Commanded s t u f m v 8 40 .stand) {args peer nonce : List Byte} {port : Nat} {kem : Word}
    {w x : State} {j : Join} (hargs : args = u.boxBytes (heartBox m) 8 40) (hk : k = le args 0 2)
    (hport : port = le args 2 1) (hpeer : peer = sub args 8 32) (hrange : port < 16) (hclean : peerClean peer = true)
    (hrunning : (u.stand m).cond = .running)
    (hticket : ((u.stand m).jobKeys.get? k).any (fun j => j.key.isNone) = true) (hlog : u.standLogFull m = false)
    (hnonce : u.randomBytes 4 = (nonce, w)) (hkem : w.draw = (kem, x))
    (hj : j = { keyId := k, port := port, peer := peer, nonce := nonce, kem := kem.toNat }) :
    exec (.jobJoin f m v) s = .next ((x.updStand m (fun st => { st with join := some j })).sendJoin m) := by
  refine h.inProgress rfl ?_
  simp only [← hargs, ← hk, ← hport, ← hpeer, Nat.not_le_of_lt hrange, hclean, hrunning, StandCond.refusal, hticket, hlog,
    hnonce, hkem, hj, Bool.not_true, Bool.false_eq_true, or_self, if_false]

end

/-! Owners (R299, R301) -/

section
variable {s t u : State} {f : Fn} {m v : Nat}

theorem Commanded.enrolOwner (h : Commanded s t u f m v 0x10 60 .pf) (hnone : u.fuses.owner = none)
    (hroom : u.fuses.owners.length < 8) : exec (.enrolOwner f m v) s = .next (((u.updFuses (fun x => { x with
      owners := x.owners ++ [sub (sha256 (sub (u.boxBytes (heartBox m) 8 60) 0 60)) 0 32] })).showFuses).boxDone
        (heartBox m) {}) := by
  refine h.reply rfl ?_
  simp only [hnone, Option.isSome_none, Bool.false_eq_true, Nat.not_le_of_lt hroom, if_false]

theorem Commanded.enrolOwner_owned (h : Commanded s t u f m v 0x10 60 .pf) (howned : u.fuses.owner.isSome = true) :
    exec (.enrolOwner f m v) s = .next (u.boxDone (heartBox m) { status := 0x0B }) :=
  h.reply rfl (if_pos howned)

theorem Commanded.enrolOwner_noSlot (h : Commanded s t u f m v 0x10 60 .pf) (hnone : u.fuses.owner = none)
    (hfull : 8 ≤ u.fuses.owners.length) :
    exec (.enrolOwner f m v) s = .next (u.boxDone (heartBox m) { status := 0x0C }) := by
  refine h.reply rfl ?_
  simp only [hnone, Option.isSome_none, Bool.false_eq_true, if_false, hfull, if_true, refusedWith]

/-- Without an owner no signature verifies. -/
theorem Commanded.releaseOwner_noOwner (h : Commanded s t u f m v 0x11 64 .pf) (hnone : u.fuses.owner = none) :
    exec (.releaseOwner f m v) s = .next ((u.badSignature 0x11 0 m).boxDone (heartBox m) { status := 9 }) := by
  refine h.reply rfl ?_
  simp only [hnone, Bool.not_false, if_true]

/-- A release that the owner signed for this package and slot resets every stand, burns the slot's revoke bit and stops the
outputs. -/
theorem Commanded.releaseOwner (h : Commanded s t u f m v 0x11 64 .pf) {k : Nat} {hash body : List Byte} {w : State}
    (howner : u.fuses.owner = some k) (hhash : u.fuses.ownerHash = some hash)
    (hbody : body = sub (u.boxBytes (heartBox m) 8 64) 0 64)
    (htext : body = toBytes 8 Config.serial.toNat ++ toBytes 8 (1 + k * 2 ^ 16) ++ zeros 48)
    (hsigned : Config.ownerVerify hash body
      (u.boxBytes (heartBox m) 72 (bits (u.boxWord (heartBox m)) 16 16 - 64)) = true)
    (hw : w = ((((List.range 24).foldl State.releaseReset
      { u with image := { u.image with replace := none } }).deliver).updFuses
        (fun x => { x with revoked := x.revoked ||| 2 ^ k })).showFuses) :
    exec (.releaseOwner f m v) s =
      .next ((State.waitForImage { w.stopOutputs with image := {} }).boxDone (heartBox m) {}) := by
  refine h.reply rfl ?_
  have hmatches : (body == toBytes 8 Config.serial.toNat ++ toBytes 8 (1 + k * 2 ^ 16) ++ zeros 48) = true :=
    beq_iff_eq.2 htext
  simp only [howner, hhash, ← hbody, hmatches, hsigned, hw, Bool.and_self, Bool.not_true, Bool.false_eq_true, if_false,
    Option.getD_some]

end

/-! Firmware (R318-R320) -/

section
variable {s t u : State} {f : Fn} {m v : Nat}

/-- STAGE_FW finds package `p` of `len` bytes, from `off` of the staging window on, which fits inactive slot `r`. -/
structure Stages (u : State) (args : List Byte) (off len : Nat) (r : FlashRange) (p : List Byte) : Prop where
  offset : off = le args 0 8
  length : len = le args 8 8
  slot : r = firmwareRange (1 - u.fuses.active)
  running : u.phase = .running
  backed : u.flag Fld.GLB_HDM_STATUS_BACKED = true
  nonempty : len ≠ 0
  fits : len ≤ r.commitAt
  inWindow : off + len ≤ halfStackSize
  package : p = u.mem.bytes ((Space.hm (u.fld Fld.GLB_HDM_STATUS_HALF_STACK)).key off) len

section
variable {off len : Nat} {r : FlashRange} {p : List Byte} (h : Commanded s t u f m v 0x12 16 .pf)
  (hstages : Stages u (u.boxBytes (heartBox m) 8 16) off len r p)
include h hstages

/-- A package that the window holds is judged by its signature, then by its SVN, before it goes into the slot. -/
theorem Commanded.stageFw_judged {w : State} {reply : Reply} (hjudged : (if Config.fwSigned p = false then
      (u.badSignature 0x12 0 m, some { status := 9 })
    else if Config.fwSvn p < u.fuses.svn then refusedWith u 0x0A
    else (((((u.flashForget r 0 r.size).flashWrite r 0 p).commitRange r len (Config.fwSvn p)).updFuses
      (fun x => { x with staged := some (1 - u.fuses.active) })).showFuses, some {})) = (w, some reply)) :
    exec (.stageFw f m v) s = .next (w.boxDone (heartBox m) reply) := by
  obtain ⟨hoff, hlen, hslot, hrunning, hbacked, hnonempty, hfits, hwindow, hpackage⟩ := hstages
  refine h.reply rfl (Eq.trans ?_ hjudged)
  simp only [← hoff, ← hlen, ← hslot, hrunning, hbacked, hnonempty, Nat.not_lt.2 hfits, Nat.not_lt.2 hwindow, ← hpackage,
    ne_eq, not_true_eq_false, Bool.not_true, Bool.not_eq_true', Bool.false_eq_true, or_self, if_false]

theorem Commanded.stageFw_unsigned (hsigned : Config.fwSigned p = false) :
    exec (.stageFw f m v) s = .next ((u.badSignature 0x12 0 m).boxDone (heartBox m) { status := 9 }) :=
  h.stageFw_judged hstages (if_pos hsigned)

theorem Commanded.stageFw_oldSvn (hsigned : Config.fwSigned p = true) (hold : Config.fwSvn p < u.fuses.svn) :
    exec (.stageFw f m v) s = .next (u.boxDone (heartBox m) { status := 0x0A }) :=
  h.stageFw_judged hstages ((if_neg (by simp [hsigned])).trans (if_pos hold))

theorem Commanded.stageFw (hsigned : Config.fwSigned p = true) (hsvn : u.fuses.svn ≤ Config.fwSvn p) :
    exec (.stageFw f m v) s = .next ((((((u.flashForget r 0 r.size).flashWrite r 0 p).commitRange r len
      (Config.fwSvn p)).updFuses (fun x => { x with staged := some (1 - u.fuses.active) })).showFuses).boxDone
        (heartBox m) {}) :=
  h.stageFw_judged hstages ((if_neg (by simp [hsigned])).trans (if_neg (Nat.not_lt.2 hsvn)))

end

theorem Commanded.applyFw_notStaged (h : Commanded s t u f m v 0x13 0 .pf)
    (hstaged : u.fuses.staged ≠ some (1 - u.fuses.active)) :
    exec (.applyFw f m v) s = .next (u.boxDone (heartBox m) { status := 2 }) :=
  h.reply rfl (if_pos hstaged)

theorem Commanded.applyFw (h : Commanded s t u f m v 0x13 0 .pf)
    (hstaged : u.fuses.staged = some (1 - u.fuses.active)) (hlog : u.heart.log.length < 4096) :
    exec (.applyFw f m v) s = .next (((u.setFld Fld.HWD_STATUS_STATE 0 0 2).retryMs true).boxDone (heartBox m) {}) :=
  h.reply rfl ((if_neg (not_not.2 hstaged)).trans (if_neg (Nat.not_le_of_lt hlog)))

theorem Commanded.commitSvn_staged (h : Commanded s t u f m v 0x14 0 .pf) (hstaged : u.fuses.staged.isSome = true) :
    exec (.commitSvn f m v) s = .next (u.boxDone (heartBox m) { status := 2 }) :=
  h.reply rfl (if_pos hstaged)

theorem Commanded.commitSvn (h : Commanded s t u f m v 0x14 0 .pf) (hnone : u.fuses.staged = none) :
    exec (.commitSvn f m v) s = .next (((u.updFuses (fun x => { x with
      svn := max u.fuses.svn (min 64 (u.fld Fld.HWD_SVN_RUNNING_SVN)) })).showFuses).boxDone (heartBox m) {}) := by
  refine h.reply rfl ?_
  simp only [hnone, Option.isSome_none, Bool.false_eq_true, if_false]

end

/-- Settles O52: each command meets the checks of every command (`Commanded.reply`), and its own checks decide the rest. -/
theorem heartState : Obligations.HeartState := by
  refine fun s t u f m v => ⟨fun k h => h.removeWeightKey, fun k j h hk hrunning => h.jobRemove hk hrunning, ?_,
    fun h => ⟨h.enrolOwner, h.enrolOwner_owned, h.enrolOwner_noSlot⟩, fun h => ⟨h.releaseOwner_noOwner, ?_⟩, ?_,
    fun h => ⟨h.applyFw_notStaged, h.applyFw⟩, fun h => ⟨h.commitSvn_staged, h.commitSvn⟩⟩
  · intro k port peer nonce kem w x h hk hport hpeer hrange hclean hrunning hticket hlog hnonce hkem j hj
    exact h.jobJoin rfl hk hport hpeer hrange hclean hrunning hticket hlog hnonce hkem hj
  · intro k hash w howner hhash htext hsigned hw
    exact h.releaseOwner howner hhash rfl htext hsigned hw
  · intro off len r p h hoff hlen hslot hrunning hbacked hnonempty hfits hwindow hpackage
    have hstages : Stages u (u.boxBytes (heartBox m) 8 16) off len r p :=
      ⟨hoff, hlen, hslot, hrunning, hbacked, hnonempty, hfits, hwindow, hpackage⟩
    exact ⟨h.stageFw_unsigned hstages, h.stageFw_oldSvn hstages, h.stageFw hstages⟩

end Sys2Proof.Machine
end

section
/-! Proofs: joins, trees, relay messages and restart (14_trust_attestation.md R297, R305, R316, R319). -/

namespace Sys2Proof.Machine

open Sys2Proof

/-! JOIN_RETRY (R316) -/

section
variable {s : State} {n : Nat} {x : Join}

theorem exec_joinRetry_again (hjoin : (s.stand n).join = some x) (htries : x.tries < 4) : exec (.joinRetry n) s =
    .next ((s.updStand n (fun st => { st with join := some { x with tries := x.tries + 1 } })).sendJoin n) := by
  simp only [exec, execJoinRetry, hjoin, if_pos htries]

theorem exec_joinRetry_failed (hjoin : (s.stand n).join = some x) (htries : 4 ≤ x.tries) : exec (.joinRetry n) s =
    .next (((s.updStand n (fun st => { st with join := none })).flagHwd Fld.HWD_ERROR_JOIN_FAILED 8 n x.keyId
      0x0D).boxDone (heartBox n) { status := 0x0D }) := by
  simp only [exec, execJoinRetry, hjoin, if_neg (Nat.not_lt.2 htries)]

theorem exec_joinRetry_noJoin (hjoin : (s.stand n).join = none) : exec (.joinRetry n) s = .next s := by
  simp only [exec, execJoinRetry, hjoin]

end

/-! JOIN_REQUEST (R316) -/

section
variable {s u w x : State} {p : Nat} {f : FabFrame} {t : List Byte}

theorem exec_joinRequest_dropped (hframe : s.heartReceive p f 1656 = (u, none)) :
    exec (.joinRequest p f) s = .next u := by
  simp only [exec, execJoinRequest, hframe]

/-- The stand, KEY_ID and job key of the originator whose admission secret passes the HMAC of request `t`. -/
def State.originatorOf (u : State) (t : List Byte) : Option (Nat × Nat × JobKey) :=
  (List.range 24).findSome? (fun n => if (u.stand n).cond = .running then
    ((u.stand n).jobKeys.find? (fun e => e.2.originator && e.2.jobId == le t 0 8 &&
      sub (hmac e.2.admission (t.take 1624)) 0 32 == t.drop 1624)).map (fun e => (n, e.1, e.2)) else none)

/-- No stand that does not run answers a request. -/
theorem State.originatorOf_noneRunning (hnone : ∀ n < 24, (u.stand n).cond ≠ .running) : u.originatorOf t = none :=
  List.findSome?_eq_none_iff.2 (fun n hn => if_neg (hnone n (List.mem_range.1 hn)))

theorem exec_joinRequest_discarded (hframe : s.heartReceive p f 1656 = (u, some t)) (hnone : u.originatorOf t = none) :
    exec (.joinRequest p f) s = .next u := by
  unfold State.originatorOf at hnone
  simp only [exec, execJoinRequest, hframe, hnone]

/-- The text of the JOIN_RESPONSE to request `t` under job key `j`: pair `i` in a box under the shared secret `ss`. -/
def joinResponseText (j : JobKey) (t ct ss iv : List Byte) (i : Nat) : List Byte :=
  toBytes 8 (le t 0 8) ++ sub t 24 32 ++ toBytes 8 0 ++ sub ct 0 1568 ++ iv.take 16 ++
    sub (gcmSeal (joinKey ss j.admission (le t 0 8)) (iv.take 12) [] ((j.key.getD []) ++ toBytes 2 i ++
      toBytes 2 (i + 1) ++ zeros 4)) 0 56

/-- The originator gives the joining package a pair, and answers on the port that the request came in on. -/
theorem exec_joinRequest_answered {n keyId i : Nat} {iv ct ss resp : List Byte} {j : JobKey} {kd : Word}
    (hframe : s.heartReceive p f 1656 = (u, some t)) (horiginator : u.originatorOf t = some (n, keyId, j))
    (hkd : u.draw = (kd, w)) (hiv : w.randomBytes 2 = (iv, x)) (hpair : j.pairFor (le t 8 8) = some i)
    (hseal : Config.kemSeal (sub t 56 1568) kd.toNat = (ct, ss)) (hresp : resp = joinResponseText j t ct ss iv i) :
    exec (.joinRequest p f) s = .next ((x.updStand n (fun st => { st with
      jobKeys := st.jobKeys.set keyId { j with pairs := j.pairs.set (le t 8 8) i } })).heartSend p
        ⟨f.src, f.tag.2, f.tags == 1, (f.udp.map (·.src)).getD 0⟩ (resp ++ sub (hmac j.admission resp) 0 32)) := by
  unfold State.originatorOf at horiginator
  simp only [exec, execJoinRequest, hframe, horiginator, hkd, hiv, hpair, hseal, hresp, joinResponseText, Option.isNone_some,
    b01, Bool.false_eq_true, if_false]

end

/-! JOIN_RESPONSE (R316) -/

section
variable {s u : State} {p : Nat} {f : FabFrame} {t : List Byte}

theorem exec_joinResponse_dropped (hframe : s.heartReceive p f 1720 = (u, none)) :
    exec (.joinResponse p f) s = .next u := by
  simp only [exec, execJoinResponse, hframe]

section
variable (hframe : s.heartReceive p f 1720 = (u, some t))
include hframe

theorem exec_joinResponse_unasked (hnone : u.joinOf t = none) : exec (.joinResponse p f) s = .next u := by
  simp only [exec, execJoinResponse, hframe, hnone]

theorem exec_joinResponse_refused {n : Nat} {x : Join} {j : JobKey} (hjoin : u.joinOf t = some (n, x, j))
    (hrefused : le t 40 1 = 1) : exec (.joinResponse p f) s =
      .next ((u.updStand n (fun st => { st with join := none })).boxDone (heartBox n) { status := 0x0E }) := by
  simp only [exec, execJoinResponse, hframe, hjoin, if_pos hrefused]

/-- A response whose box opens installs the job key, and its Sapway regions. -/
theorem exec_joinResponse_installs {n : Nat} {x : Join} {j k : JobKey} {b : List Byte} {w : State}
    (hjoin : u.joinOf t = some (n, x, j)) (haccepted : le t 40 1 ≠ 1)
    (hopens : gcmOpen (joinKey (Config.kemOpen x.kem (sub t 48 1568)) j.admission j.jobId) (sub t 1616 12) []
      (sub t 1632 56) = some b)
    (hk : k = { j with key := some (sub b 0 32), senders := (le b 32 2, le b 34 2) })
    (hw : w = (((u.updStand n (fun st => { st with join := none })).updStand n (fun st => { st with
      jobKeys := st.jobKeys.set x.keyId k })).registerSapway n x.keyId).measureStand n 3 6 x.keyId
        (keyEvent 2 n x.keyId)) :
    exec (.joinResponse p f) s = .next ((w.heartEvent 0x3003 (some n)
      [x.keyId, k.senders.1 + k.senders.2 * 2 ^ 16]).boxDone (heartBox n) {}) := by
  subst hk hw
  simp only [exec, execJoinResponse, hframe, hjoin, if_neg haccepted, hopens]

end

end

/-! LMS_TREE_BUILT and RELAY_MESSAGE (R297, R305) -/

section
variable {s : State}

theorem exec_lmsTreeBuilt_stopped (hstopped : s.heartRuns = false) : exec .lmsTreeBuilt s = .next s := by
  simp only [exec, execLmsTreeBuilt, hstopped, Bool.not_false, if_true]

/-- The trees are built; RETRY_MS goes to 0 unless firmware is being applied, which keeps TRY_LATER up. -/
theorem exec_lmsTreeBuilt_running (hruns : s.heartRuns = true) : NextWith (exec .lmsTreeBuilt s) (fun t =>
    t.heart.trees = true ∧ (s.fld Fld.HWD_STATUS_STATE ≠ 2 → t.fld Fld.HWD_STATUS_RETRY_MS = 0)) := by
  simp only [exec, execLmsTreeBuilt, hruns, Bool.not_true, Bool.false_eq_true, if_false]
  refine ⟨_, rfl, ?_⟩
  split
  next happlying => exact ⟨rfl, fun htaken => absurd happlying htaken⟩
  next => exact ⟨rfl, fun _ => State.fld_setFld_self (by decide)⟩

theorem exec_relayMessage_accepted {c : Nat} (hruns : s.heartRuns = true) (hlast : s.heart.relayLast < c)
    (hsent : c ≤ s.heart.relaySent) : exec (.relayMessage c true) s =
      .next ((s.updHeart (fun h => { h with relayLast := c })).setFld Fld.HWD_STATUS_RELAY_READY 0 0 1) :=
  congrArg _ (if_pos ⟨hruns, rfl, hlast, hsent⟩)

/-- A message that is damaged, was accepted before, or was never sent is dropped. -/
theorem exec_relayMessage_dropped {c : Nat} {intact : Bool}
    (hbad : intact = false ∨ c ≤ s.heart.relayLast ∨ s.heart.relaySent < c) :
    exec (.relayMessage c intact) s = .next s := by
  refine congrArg _ (if_neg ?_)
  rintro ⟨-, rfl, hlast, hsent⟩
  simp only [Bool.true_eq_false, false_or] at hbad
  omega

end

/-! FW_RESTART (R319) -/

section
variable {s u w : State} {fails i : Nat} {p : List Byte}

theorem exec_fwRestart_notApplying (htaken : s.fld Fld.HWD_STATUS_STATE ≠ 2) :
    exec (.fwRestart fails) s = .next s := congrArg _ (if_pos htaken)

/-- Staged firmware that the ROM finds valid runs: the active mark moves, and its PMR starts from zero. -/
theorem exec_fwRestart_staged (happlying : s.fld Fld.HWD_STATUS_STATE = 2) (hstaged : s.fuses.staged = some i)
    (hvalid : s.firmwareOk i = some p)
    (hu : u = ((s.updFuses (fun x => { x with active := i })).updHeart (fun h => { h with
      pmr := h.pmr.set 0 (List.replicate 32 0) })).measurePkg 0 7 0 (Config.fwPart p 0))
    (hw : w = ((((u.setFld Fld.HWD_STATUS_FW_FALLBACK 0 0 0).setFld Fld.HWD_SVN_RUNNING_SVN 0 0
      (Config.fwSvn p)).heartEvent 0x3005 none [Config.fwSvn p, 0]).startLeaves fails)) :
    exec (.fwRestart fails) s = .next (((w.setFld Fld.HWD_STATUS_STATE 0 0 1).showFuses).retryMs (!w.heart.trees)) := by
  have hcond : ¬ s.fld Fld.HWD_STATUS_STATE ≠ 2 := not_not.2 happlying
  simp only [exec, execFwRestart, if_neg hcond, hstaged, Option.getD_some, hvalid, ← hu, b01, Bool.false_eq_true, if_false,
    ← hw]

end

/-- Settles O53: a join's end turns on its tries and on its response, a request is answered by its originator alone, and the
trees, the relay and the restart each on what Heartwood's state says. -/
theorem heartEvents : Obligations.HeartEvents := by
  refine ⟨fun s n x hjoin => ⟨exec_joinRetry_again hjoin, exec_joinRetry_failed hjoin⟩,
    fun s n => exec_joinRetry_noJoin, fun s u p f => ⟨exec_joinRequest_dropped, exec_joinResponse_dropped⟩,
    fun s u p f t hframe => ⟨exec_joinResponse_unasked hframe, fun n x j => exec_joinResponse_refused hframe,
      fun n x j b k w => exec_joinResponse_installs hframe⟩,
    fun s u p f t hframe hnone => exec_joinRequest_discarded hframe (State.originatorOf_noneRunning hnone),
    fun s u w x p n keyId i f t iv ct ss resp j kd => exec_joinRequest_answered,
    fun s => exec_lmsTreeBuilt_running, fun s => exec_lmsTreeBuilt_stopped, fun s c hruns hlast hsent => ?_,
    fun s c intact => exec_relayMessage_dropped, fun s fails => exec_fwRestart_notApplying,
    fun s u w fails i p => exec_fwRestart_staged⟩
  exact ⟨_, exec_relayMessage_accepted hruns hlast hsent, rfl, State.fld_setFld_self (by decide)⟩

end Sys2Proof.Machine
end

section
/-! Proofs: what a flag reads as after a write of its register. -/

namespace Sys2Proof.Machine

open Sys2Proof

-- One theorem after another: the tasks of the whole text together stand near the memory limit of its check.
set_option Elab.async false

/-- The lowest bit that a condition sets in a field says the condition. -/
theorem b01_mod_beq_one {w : Nat} (hw : 0 < w) (b : Bool) : (b01 b % 2 ^ w == 1) = b := by
  have hone : 1 < 2 ^ w := Nat.one_lt_two_pow hw.ne'
  cases b
  · rw [b01, if_neg Bool.false_ne_true, Nat.zero_mod]
    rfl
  · rw [b01, if_pos rfl, Nat.mod_eq_of_lt hone]
    rfl

theorem State.flag_setFld_b01 {f : Field} (h : f.lo + f.w ≤ 64) (hw : 0 < f.w) (s : State) (i j : Nat) (b : Bool) :
    (s.setFld f i j (b01 b)).flag f i j = b := by
  rw [State.flag, State.fld_setFld_self h, b01_mod_beq_one hw]

/-- A flag that is set reads as set, and one that is cleared as cleared. -/
theorem State.flag_setFld_one {f : Field} (h : f.lo + f.w ≤ 64) (hw : 0 < f.w) (s : State) (i j : Nat) :
    (s.setFld f i j 1).flag f i j = true := s.flag_setFld_b01 h hw i j true

theorem State.flag_setFld_zero {f : Field} (h : f.lo + f.w ≤ 64) (hw : 0 < f.w) (s : State) (i j : Nat) :
    (s.setFld f i j 0).flag f i j = false := s.flag_setFld_b01 h hw i j false

/-- A flag keeps its value when another field of its register is set. -/
theorem State.flag_setFld_apart {f g : Field} (hr : f.reg = g.reg) (hg : g.lo + g.w ≤ 64) (h : f.Apart g) (s : State)
    (i j v : Nat) : (s.setFld f i j v).flag g i j = s.flag g i j := by
  rw [State.flag, State.fld_setFld_apart hr hg h, State.flag]

end Sys2Proof.Machine
end

section
/-! Proofs: what every step holds (95_what_each_step_holds.md, 17_startup_reset_test.md R364). -/

namespace Sys2Proof.Machine

open Sys2Proof

-- One theorem after another: the tasks of the whole text together stand near the memory limit of its check.
set_option Elab.async false

/-- A step keeps the byte map's canonical form: a clock period leaves the map, and a command keeps its form whatever else
waits in the queue. -/
theorem step_memInv {s t : State} (hs : MemInv s) (h : step s = .next t) : MemInv t := by
  unfold step at h
  split at h
  case h_1 =>
    obtain rfl := Host.Outcome.next.inj h
    exact (Kept.idle (Kept.refl s)).2.1 hs
  case h_2 c rest _ =>
    obtain ⟨u, hu, _, hmem, _⟩ := exec_kept c { s with pending := rest }
    obtain rfl := Host.Outcome.next.inj (hu.symm.trans h)
    exact hmem hs

/-- Settles O3: the canonical form is one of the things that every command keeps (`exec_kept`). -/
theorem memoryStaysCanonical : Obligations.MemoryStaysCanonical :=
  fun _ _ => step_memInv

/-- Settles O2: the queue is one of the things that every command keeps (`exec_kept`). -/
theorem commandsComplete : Obligations.CommandsComplete := by
  intro c s
  obtain ⟨t, hnext, hpending, _, _⟩ := exec_kept c s
  exact ⟨t, hnext, hpending⟩

theorem step_cons {s : State} {c : Instr} {rest : List Instr} (h : s.pending = c :: rest) :
    step s = exec c { s with pending := rest } := by
  unfold step
  rw [h]

theorem State.idle_eq (s : State) :
    s.idle = { s with timeNs := if s.pins.pwrok && s.pins.refclk then s.timeNs + 10 else s.timeNs } := by
  unfold State.idle
  split <;> rfl

theorem step_nil {s : State} (h : s.pending = []) : step s = .next s.idle := by
  unfold step
  rw [h]

/-- Settles O1: `step` matches on the queue, and on an empty one only the time moves on. -/
theorem stepRunsFront : Obligations.StepRunsFront :=
  ⟨fun _ _ _ => step_cons, fun s h => (step_nil h).trans (congrArg _ s.idle_eq)⟩

/-- Settles O6: the byte map at reset is canonical by evaluation. -/
theorem resetMemoryCanonical : Obligations.ResetMemoryCanonical := by
  unfold Obligations.ResetMemoryCanonical MemInv
  decide

/-- Before power is good no register was written: each reads as its reset value. -/
theorem State.reg_reset (r : Reg) (i j : Nat) : State.reset.reg r i j = r.resetValue i j := rfl

/-- The fields of a stand's layout register reset to 0, whichever the stand. -/
theorem standFields_reset : ∀ f ∈ Reg.GLB_STAND.fields,
    f ≠ Fld.GLB_DLINK_STATUS_MODULES ∧ f ≠ Fld.FAB_CLASS_MAP_PCP ∧ f.reset = 0 := by decide

theorem standReg_resetValue (i j : Nat) : Reg.GLB_STAND.resetValue i j = 0 := by
  refine List.foldlRecOn _ _ (motive := (· = 0)) rfl (fun v hv f hf => ?_)
  obtain ⟨hmodules, hpcp, hreset⟩ := standFields_reset f hf
  rw [hv, Field.resetAt, if_neg hmodules, if_neg hpcp, hreset, Nat.zero_mul]

theorem State.layout_reset {f : Field} (hf : f.reg = .GLB_STAND) (n : Nat) : State.reset.layout f n = 0 := by
  rw [State.layout, State.fld, hf, State.reg_reset, standReg_resetValue, bits, Nat.zero_div, Nat.zero_mod]

/-- No stand is valid at reset: VALID of its layout reads 0. -/
theorem State.standValid_reset (n : Nat) : State.reset.standValid n = false := by
  rw [State.standValid, State.layout_reset rfl, beq_eq_false_iff_ne.2 Nat.zero_ne_one, Bool.and_false]

/-- Settles O5: at reset every component has its initial value, and what registers say is their reset values. -/
theorem resetState : Obligations.ResetState :=
  ⟨rfl, rfl, rfl, rfl, State.standValid_reset, State.reg_reset, rfl, rfl, rfl, rfl, rfl, rfl⟩

end Sys2Proof.Machine
end

section
/-! Proofs: image commands (16_configuration_image.md R356-R360). -/

namespace Sys2Proof.Machine

open Sys2Proof

-- One theorem after another: the tasks of the whole text together stand near the memory limit of its check.
set_option Elab.async false

/-! The configuration mailbox (R356, R357) -/

section
variable {s t u w : State} {f : Fn} {v op k len : Nat} {r : FlashRange} {answer : Reply}
  {run : Nat → FlashRange → Nat → State → State × Option Reply}

/-- A target that no running stand was installed from, and that is not the active slot, is not in use. -/
theorem Configured.notInUse (h : Configured s t u f v op k len r) :
    (u.image.active == some k || u.image.sections.any (fun e => e.2.1 == k && u.standValid e.1)) = false := by
  obtain ⟨hactive, hsections⟩ := h.unused
  rw [Bool.or_eq_false_iff, beq_eq_false_iff_ne, List.any_eq_false]
  refine ⟨hactive, fun e he => ?_⟩
  rw [Bool.and_eq_true, beq_iff_eq, not_and, Bool.not_eq_true]
  exact hsections e he

/-- A command whose target is known and not in use answers what its own run answers. -/
theorem Configured.reply (h : Configured s t u f v op k len r) (hrun : run k r len u = (w, some answer)) :
    s.cfgCommand f v op run = w.boxDone cfgBox answer := by
  have hunused := h.notInUse
  obtain ⟨hwritten, hgo, hidle, hop, hbusy, ⟨hlen, hsome⟩, ⟨htarget, hknown⟩, -⟩ := h
  have hset : t.setFld cfgBox.busy cfgBox.unit 0 1 = u := hbusy.symm
  refine State.boxWrite_reply hwritten hgo hidle hop ?_
  simp only [hset, ← hlen, ← htarget, hknown, hunused, hsome, Bool.false_eq_true, or_self, if_false, hrun]

/-- A target that is unknown completes BAD_COMMAND. -/
theorem State.cfgCommand_unknown (hwritten : s.writeRow f .CFG_MB_CTRL 0 0 [] v = some t)
    (hgo : bit v 0 = true) (hidle : t.flag Fld.CFG_MB_CTRL_BUSY 0 = false)
    (hop : bits (t.boxWord cfgBox) 0 8 = op) (hu : u = t.setFld Fld.CFG_MB_CTRL_BUSY 0 0 1)
    (hnone : targetRange (le (u.boxBytes cfgBox 8 1) 0 1) = none) :
    s.cfgCommand f v op run = u.boxDone cfgBox { status := 2 } := by
  have hset : t.setFld cfgBox.busy cfgBox.unit 0 1 = u := hu.symm
  refine State.boxWrite_reply hwritten hgo hidle hop ?_
  simp only [hset, hnone, refusedWith]

end

/-- The three commands are rows of the configuration mailbox, each with its OP (Table 16.7). -/
theorem exec_cfgCommand_of_mem {s : State} {f : Fn} {v op : Nat} {failed : Bool} {c : Instr}
    (hc : (c, op) ∈ [(Instr.imageErase f v failed, 1), (.imageWrite f v failed, 2), (.imageCommit f v failed, 3)]) :
    ∃ run, exec c s = .next (s.cfgCommand f v op run) := by
  simp only [List.mem_cons, List.not_mem_nil, or_false, Prod.mk.injEq] at hc
  rcases hc with ⟨rfl, rfl⟩ | ⟨rfl, rfl⟩ | ⟨rfl, rfl⟩ <;> exact ⟨_, rfl⟩

/-! IMAGE_ERASE and IMAGE_WRITE (R357) -/

section
variable {s t u : State} {f : Fn} {v k len : Nat} {r : FlashRange} {failed : Bool}

theorem Configured.erase (h : Configured s t u f v 1 k len r) : exec (.imageErase f v failed) s =
    .next ((u.flashForget r 0 r.size).boxDone cfgBox { status := if failed then 0x0C else 0 }) :=
  congrArg _ (h.reply rfl)

section
variable (h : Configured s t u f v 2 k len r)
include h

theorem Configured.write_illFormed (hsource : u.writeSource len = none) :
    exec (.imageWrite f v failed) s = .next (u.boxDone cfgBox { status := 2 }) := by
  refine congrArg _ (h.reply ?_)
  simp only [hsource, refusedWith]

variable {off : Nat} {bs : List Byte} (hsource : u.writeSource len = some (off, bs))
include hsource

theorem Configured.write_beyond (hbeyond : r.commitAt < off + bs.length) :
    exec (.imageWrite f v failed) s = .next (u.boxDone cfgBox { status := 2 }) := by
  refine congrArg _ (h.reply ?_)
  simp only [hsource, if_pos hbeyond, refusedWith]

theorem Configured.write (hwithin : off + bs.length ≤ r.commitAt) : exec (.imageWrite f v failed) s =
    .next (if failed then (u.flashForget r off bs.length).boxDone cfgBox { status := 0x0C }
      else (u.flashWrite r off bs).boxDone cfgBox {}) := by
  cases failed <;> refine congrArg _ (h.reply ?_) <;>
    simp only [hsource, if_neg (Nat.not_lt.2 hwithin), Bool.false_eq_true, if_true, if_false]

end

/-! IMAGE_COMMIT (R358-R360) -/

section
variable (h : Configured s t u f v 3 k len r)
include h

theorem Configured.commit_replacing (hcell : 2 ≤ k) (hreplace : u.image.replace.isSome = true) :
    exec (.imageCommit f v failed) s = .next (u.boxDone cfgBox { status := 1 }) :=
  congrArg _ (h.reply (if_pos ⟨hcell, hreplace⟩))

/-- A package slot that fails a check other than its signature's shows its status and completes with it. -/
theorem Configured.commit_fails (hslot : k < 2) (hfails : u.packageStatus r ≠ 0) (hsigned : u.packageStatus r ≠ 6) :
    exec (.imageCommit f v failed) s =
      .next ((u.showSlot k (u.packageStatus r)).boxDone cfgBox { status := u.packageStatus r }) := by
  have hcell : ¬(2 ≤ k ∧ u.image.replace.isSome = true) := fun hk => absurd hslot (Nat.not_lt.2 hk.1)
  refine congrArg _ (h.reply ((if_neg hcell).trans ?_))
  simp only [if_pos hslot, if_neg hsigned, if_pos hfails]

/-- One that passes is recorded as committed, and starts at once in WAITING. -/
theorem Configured.commit {w : State} (hslot : k < 2) (hpasses : u.packageStatus r = 0)
    (hw : w = (u.commitImage r (u.imageIn r)).showSlot k 0) : exec (.imageCommit f v false) s =
      .next ((if w.phase = .waiting then w.startImage k else w).boxDone cfgBox {}) := by
  have hcell : ¬(2 ≤ k ∧ u.image.replace.isSome = true) := fun hk => absurd hslot (Nat.not_lt.2 hk.1)
  have hsigned : (0 : Nat) ≠ 6 := by decide
  refine congrArg _ (h.reply ((if_neg hcell).trans ?_))
  simp only [if_pos hslot, hpasses, if_neg hsigned, ne_eq, not_true_eq_false, Bool.false_eq_true, if_false, ← hw]

end

end

/-- Settles O54: each command is a row of the configuration mailbox (`State.cfgCommand`), whose checks of the target are
the same for all, and one that passes them answers what its own run answers. -/
theorem imageCommands : Obligations.ImageCommands := by
  refine fun s t u f v k len r => ⟨fun failed h => h.erase, fun failed h => h.write_illFormed,
    fun failed off bs h hsource => ⟨h.write_beyond hsource, h.write hsource⟩, fun failed h => h.commit_replacing,
    fun failed h => h.commit_fails, fun w h => h.commit, fun failed op c hc hwritten => ?_⟩
  obtain ⟨run, hexec⟩ := exec_cfgCommand_of_mem (s := s) hc
  rw [hexec]
  exact ⟨fun hgo => congrArg _ (State.boxWrite_noGo hwritten hgo),
    fun hgo hbusy => congrArg _ (State.boxWrite_busy hwritten hgo hbusy),
    fun hgo hidle hop hu hnone => congrArg _ (State.cfgCommand_unknown hwritten hgo hidle hop hu hnone)⟩

end Sys2Proof.Machine
end

section
/-! Proofs: resets of the package (17_startup_reset_test.md R364, R368; 22_package_pins.md R437, R438, R441). -/

namespace Sys2Proof.Machine

open Sys2Proof

-- One theorem after another: the tasks of the whole text together stand near the memory limit of its check.
set_option Elab.async false

/-! What a package reset leaves (Table 17.3) -/

theorem State.rstCause_packageReset {cause : Nat} (hcause : cause < 8) (s : State) :
    (s.packageReset cause).reg .RST_CAUSE 0 0 = cause :=
  (State.reg_setReg_self _ _ _ _ _).trans (Nat.mod_eq_of_lt (Nat.lt_trans hcause (by decide)))

theorem State.rstCause_holdReset {s : State} {cause : Nat} (hcause : cause < 8) :
    (s.holdReset cause).reg .RST_CAUSE 0 0 = cause := s.rstCause_packageReset hcause

/-! The power lands -/

section
variable {s u : State} {fails : Nat}

theorem exec_pwrokFall (hhigh : s.pins.pwrok = true) : exec .pwrokFall s = .next { s.packageReset 0 with
    phase := .off, pins := { s.pins with pwrok := false, thermtripReleased := true } } := by
  simp only [exec, execPwrokFall, hhigh, Bool.not_true, Bool.false_eq_true, if_false]
  rfl

theorem exec_rstNLow (hhigh : s.pins.rstN = true) (hpower : s.pins.pwrok = true)
    (hu : u = { s with pins := { s.pins with rstN := false } }) : exec .rstNLow s = .next (u.holdReset 1) := by
  subst hu
  simp only [exec, execRstNLow, hhigh, hpower, Bool.not_true, Bool.false_eq_true, if_true, if_false]

theorem exec_perstNLow (hhigh : s.pins.perstN = true) (hreset : s.pins.rstN = true) (hpower : s.pins.pwrok = true)
    (hu : u = { s with pins := { s.pins with perstN := false } }) : exec .perstNLow s = .next (u.holdReset 2) := by
  subst hu
  simp only [exec, execPerstNLow, hhigh, hreset, hpower, Bool.not_true, Bool.false_eq_true, Bool.not_false, and_self,
    if_true, if_false]

/-- A land that is low already changes nothing. -/
theorem exec_pwrokFall_low (hlow : s.pins.pwrok = false) : exec .pwrokFall s = .next s := by
  simp only [exec, execPwrokFall, hlow, Bool.not_false, if_true]

theorem exec_rstNLow_low (hlow : s.pins.rstN = false) : exec .rstNLow s = .next s := by
  simp only [exec, execRstNLow, hlow, Bool.not_false, if_true]

theorem exec_perstNLow_low (hlow : s.pins.perstN = false) : exec .perstNLow s = .next s := by
  simp only [exec, execPerstNLow, hlow, Bool.not_false, if_true]

theorem exec_pwrokRise (hlow : s.pins.pwrok = false) (hu : u = { s with pins := { s.pins with pwrok := true } }) :
    exec (.pwrokRise fails) s = .next (if s.pins.rstN then u.powerUp fails else { u with phase := .held }) := by
  subst hu
  simp only [exec, execPwrokRise, hlow, Bool.false_eq_true, if_false]

theorem exec_resetRelease (hu : u = { s with pins := { s.pins with rstN := true, perstN := true } }) :
    exec (.resetRelease fails) s = .next (if s.phase ≠ .held then u else if s.mgmt.lands ≠ .functional then
      { u with phase := .tapHeld } else u.powerUp fails) := by
  subst hu
  simp only [exec, execResetRelease, State.tapHolds, bne_iff_ne]

/-! A test-mode instruction, the reset register and the clock -/

theorem exec_testLogicReset (hu : u = { s with mgmt := { s.mgmt with
      tapInstr := 1, tapRefused := false, tapData := idcodeValue, lands := .functional } }) :
    exec (.testLogicReset fails) s = .next (if s.phase = .tapHeld then u.powerUp fails else u) := by
  subst hu
  rfl

theorem exec_pkgReset {t : State} {f : Fn} {v : Nat} (hwritten : s.writeRow f .RST_CTRL 0 0 [] v = some t) :
    exec (.pkgReset f v fails) s =
      .next (if bits v 0 8 = 0xA5 ∧ bit v 8 then (t.packageReset 3).powerUp fails else t) := by
  simp only [exec, execPkgReset, hwritten, State.restart]

theorem exec_pllUnlock {lost : Bool} (hu : u = { s with pins := { s.pins with refclk := s.pins.refclk && !lost } }) :
    exec (.pllUnlock lost fails) s =
      .next (if s.flag Fld.CLK_STATUS_LOCKED then (u.packageReset 4).powerUp fails else s) := by
  subst hu
  cases hlocked : s.flag Fld.CLK_STATUS_LOCKED <;> simp only [exec, execPllUnlock, hlocked] <;> rfl

theorem State.powerUp_noClock (hstopped : s.pins.refclk = false) : s.powerUp fails = { s with phase := .noClock } := by
  simp only [State.powerUp, hstopped, Bool.not_false, if_true]

/-- Without firmware in either slot the package stays in the ROM. -/
theorem State.powerUp_noFirmware (hruns : s.pins.refclk = true) (hactive : s.firmwareOk s.fuses.active = none)
    (hother : s.firmwareOk (1 - s.fuses.active) = none) : s.powerUp fails = { s with phase := .rom } := by
  simp only [State.powerUp, hruns, hactive, hother, Bool.not_true, Bool.false_eq_true, if_false]

end

/-- Settles O48: a package reset builds its state anew, and keeps the queue, the lands and the fuses; each event is a
package reset, a start of the power-up sequence, or both, as the lands say. -/
theorem packageResets : Obligations.PackageResets := by
  refine ⟨fun s cause hcause => ⟨s.rstCause_packageReset hcause, rfl, rfl, rfl, rfl, rfl, rfl, rfl⟩,
    fun s hhigh => ⟨_, exec_pwrokFall hhigh, rfl, rfl, rfl, s.rstCause_packageReset (by decide), rfl, rfl⟩,
    fun s => exec_pwrokFall_low, fun s hhigh hpower => ⟨_, exec_rstNLow hhigh hpower rfl, rfl, rfl,
      State.rstCause_holdReset (by decide), rfl⟩, fun s => exec_rstNLow_low, fun s hhigh hreset hpower =>
    ⟨_, exec_perstNLow hhigh hreset hpower rfl, rfl, rfl, State.rstCause_holdReset (by decide), rfl⟩,
    fun s => exec_perstNLow_low, fun s u fails hu hlow => ?_, fun s u fails hu => ?_, fun s fails hfree => ?_,
    fun s u fails hheld hu => ?_, fun s t f v fails hwritten => ?_, fun s u lost fails hu => ?_,
    fun s u fails hu => ?_, fun s fails => ⟨State.powerUp_noClock, State.powerUp_noFirmware⟩⟩
  · have hexec := exec_pwrokRise (fails := fails) hlow hu
    exact ⟨fun hreleased => by rw [hexec, if_pos hreleased],
      fun hheld => by rw [hexec, hheld, if_neg Bool.false_ne_true]⟩
  · have hexec := exec_resetRelease (fails := fails) hu
    refine ⟨fun hfree => by rw [hexec, if_pos hfree], fun hheld hlands => ?_, fun hheld hlands => ?_⟩
    · rw [hexec, if_neg (not_not.2 hheld), if_neg (not_not.2 hlands)]
    · rw [hexec, if_neg (not_not.2 hheld), if_pos hlands]
  · exact ⟨_, (exec_testLogicReset rfl).trans (congrArg _ (if_neg hfree)), rfl, rfl, rfl, rfl, rfl⟩
  · rw [exec_testLogicReset hu, if_pos hheld]
  · have hexec := exec_pkgReset (fails := fails) hwritten
    refine ⟨fun hkey hreset => by rw [hexec, if_pos ⟨hkey, hreset⟩], fun hnone => ?_⟩
    rw [hexec, if_neg]
    rintro ⟨hkey, hreset⟩
    exact hnone.elim (· hkey) (fun h => Bool.false_ne_true (h.symm.trans hreset))
  · have hexec := exec_pllUnlock (fails := fails) hu
    exact ⟨fun hlocked => by rw [hexec, if_pos hlocked], fun hfree => by rw [hexec, hfree, if_neg Bool.false_ne_true]⟩
  · subst hu
    rfl

end Sys2Proof.Machine
end

section
/-! Proofs: the reset of a stand (17_startup_reset_test.md R369, R370; 20_host_interface.md R423). -/

namespace Sys2Proof.Machine

open Sys2Proof

-- One theorem after another: the tasks of the whole text together stand near the memory limit of its check.
set_option Elab.async false

/-! STAND_RESET (R369) -/

section
variable {s t : State} {f : Fn} {v : Nat} (hwritten : s.writeRow f .RST_STAND_CMD 0 0 [] v = some t)
include hwritten

theorem exec_standReset_noGo (hgo : bit v 5 = false) : exec (.standReset f v) s = .next t := by
  simp only [exec, execStandReset, hwritten, hgo, Bool.not_false, if_true]

variable (hgo : bit v 5 = true)
include hgo

/-- A stand that is replaced, or whose reset has begun, is refused with RESULT 1. -/
theorem exec_standReset_busy (hbusy : t.replacing (bits v 0 5) = true ∨
      (t.standValid (bits v 0 5) = true ∧ (t.stand (bits v 0 5)).life.stage ≠ .steady)) :
    exec (.standReset f v) s =
      .next ((t.setFld Fld.RST_STAND_CMD_RESULT 0 0 1).setFld Fld.RST_STAND_CMD_DONE 0 0 1) := by
  simp only [exec, execStandReset, hwritten, hgo, Bool.not_true, Bool.false_eq_true, if_false, if_pos hbusy]

variable (hfree : t.replacing (bits v 0 5) = false)
include hfree

/-- A stand that does not exist is refused with RESULT 2. -/
theorem exec_standReset_absent (habsent : t.standValid (bits v 0 5) = false) : exec (.standReset f v) s =
    .next ((t.setFld Fld.RST_STAND_CMD_RESULT 0 0 2).setFld Fld.RST_STAND_CMD_DONE 0 0 1) := by
  simp only [exec, execStandReset, hwritten, hgo, hfree, habsent, Bool.not_true, Bool.not_false, Bool.false_eq_true,
    false_and, or_self, if_true, if_false]

theorem exec_standReset_starts (hvalid : t.standValid (bits v 0 5) = true)
    (hsteady : (t.stand (bits v 0 5)).life.stage = .steady) : exec (.standReset f v) s =
    .next ((((t.setFld Fld.RST_STAND_CMD_BUSY 0 0 1).setFld Fld.RST_STAND_CMD_RESULT 0 0 0).setFld
      Fld.RST_STAND_CMD_UNREPORTED 0 0 0).startReset (bits v 0 5) .command (bits v 8 16)).deliver := by
  simp only [exec, execStandReset, hwritten, hgo, hfree, hvalid, hsteady, Bool.not_true, Bool.false_eq_true, ne_eq,
    not_true_eq_false, and_false, or_self, if_false]

end

/-! The stages (R369, R370, Table 16.9) -/

section
variable {s : State} {n : Nat}

theorem exec_standDrainEnd (hdraining : (s.stand n).life.stage = .draining) (hreplacing : s.replacing n = false) :
    exec (.standDrainEnd n) s = .next (s.drainEnd n).deliver := by
  simp only [exec, execStandDrainEnd, hdraining, hreplacing, Bool.not_false, and_self, if_true]

theorem exec_replaceDrainEnd (hdraining : (s.stand n).life.stage = .draining) (hreplacing : s.replacing n = true) :
    exec (.replaceDrainEnd n) s = .next (s.drainEnd n).deliver :=
  congrArg _ (if_pos ⟨hdraining, hreplacing⟩)

/-- The end of a reset's drain is another event than that of a replacement's. -/
theorem exec_standDrainEnd_replacing (hreplacing : s.replacing n = true) : exec (.standDrainEnd n) s = .next s := by
  simp only [exec, execStandDrainEnd, hreplacing, Bool.not_true, Bool.false_eq_true, and_false, if_false]

theorem exec_replaceDrainEnd_free (hreplacing : s.replacing n = false) : exec (.replaceDrainEnd n) s = .next s := by
  simp only [exec, execReplaceDrainEnd, hreplacing, Bool.false_eq_true, and_false, if_false]

theorem exec_standDrainEnd_other (hstage : (s.stand n).life.stage ≠ .draining) :
    exec (.standDrainEnd n) s = .next s := congrArg _ (if_neg (fun h => hstage h.1))

theorem exec_replaceDrainEnd_other (hstage : (s.stand n).life.stage ≠ .draining) :
    exec (.replaceDrainEnd n) s = .next s := congrArg _ (if_neg (fun h => hstage h.1))

theorem exec_stateLostEntryWindowEnd (hreporting : (s.stand n).life.stage = .reporting) :
    exec (.stateLostEntryWindowEnd n) s = .next
      (((s.unreported n (s.stand n).entriesWaiting).updStand n (fun st => { st with cqWaiting := [] })).startErase n) :=
  congrArg _ (if_neg (not_not.2 hreporting))

theorem exec_stateLostEntryWindowEnd_other (hstage : (s.stand n).life.stage ≠ .reporting) :
    exec (.stateLostEntryWindowEnd n) s = .next s := congrArg _ (if_pos hstage)

theorem exec_relayConfirm (herasing : (s.stand n).life.stage = .erasing) :
    exec (.relayConfirm n) s = .next (s.eraseConfirmed n) := congrArg _ (if_pos herasing)

theorem exec_relayConfirm_other (hstage : (s.stand n).life.stage ≠ .erasing) :
    exec (.relayConfirm n) s = .next s := congrArg _ (if_neg hstage)

theorem exec_zeroingDone (hn : n < 24) (hzeroing : (s.stand n).life.stage = .zeroing) :
    exec (.zeroingDone n) s = .next (s.finishInstall n) := congrArg _ ((if_pos hn).trans (if_pos hzeroing))

theorem exec_zeroingDone_other (hn : n < 24) (hstage : (s.stand n).life.stage ≠ .zeroing) :
    exec (.zeroingDone n) s = .next s := congrArg _ ((if_pos hn).trans (if_neg hstage))

/-- The staging half-stack, zeroed, backs the window (20_host_interface.md R411). -/
theorem exec_zeroingDone_staging (hzeroing : s.flag Fld.GLB_HDM_STATUS_ZEROING = true) : exec (.zeroingDone 24) s =
    .next (((s.zeroHalf (s.fld Fld.GLB_HDM_STATUS_HALF_STACK)).setFld Fld.GLB_HDM_STATUS_ZEROING 0 0 0).setFld
      Fld.GLB_HDM_STATUS_BACKED 0 0 1) := by
  simp only [exec, execZeroingDone, hzeroing, Nat.lt_irrefl, and_self, if_true, if_false]

end

/-! Function-level reset (R423) -/

/-- Virtual function `n` reset: its configuration, and its window's registers and ring. -/
def State.resetVf (s : State) (n : Nat) : State :=
  let u := State.resetRegs ({ s with host := { s.host with
      busMaster := if s.host.busMaster.testBit n then s.host.busMaster - 2 ^ n else s.host.busMaster,
      ats := if s.host.ats.testBit n then s.host.ats - 2 ^ n else s.host.ats,
      msixPending := s.host.msixPending.filter (fun k => k / 32 != n), copyMsgAt := s.host.copyMsgAt.del n } } : State)
    [.QW_APERTURE_BASE, .QW_COPY_RING, .QW_COPY_TAIL, .QW_COPY_HEAD, .QW_STATUS] n
  { u with laps := u.laps.del (Reg.QW_COPY_RING.addr n 0) }

section
variable {s v : State} {n : Nat}

theorem exec_vfFlr_linkDown (hdown : s.flag Fld.GLB_LINK_STATUS_LINK_UP = false) : exec (.vfFlr n) s = .next s := by
  simp only [exec, execVfFlr, hdown, Bool.not_false, or_true, if_true]

variable (hexists : s.fnExists (.vf n) = true) (hup : s.flag Fld.GLB_LINK_STATUS_LINK_UP = true) (hv : v = s.resetVf n)
include hexists hup hv

theorem exec_vfFlr_noStand (habsent : v.standValid n = false) : exec (.vfFlr n) s = .next v := by
  subst hv
  rw [State.resetVf] at *
  simp only [exec, execVfFlr, hexists, hup, habsent, Bool.not_true, Bool.not_false, Bool.false_eq_true, or_self,
    if_false, if_true]

theorem exec_vfFlr_steady (hvalid : v.standValid n = true) (hsteady : (v.stand n).life.stage = .steady) :
    exec (.vfFlr n) s = .next (v.startReset n .flr 0).deliver := by
  subst hv
  rw [State.resetVf] at *
  simp only [exec, execVfFlr, hexists, hup, hvalid, hsteady, Bool.not_true, Bool.false_eq_true, or_self, if_false]

/-- A replacement that drains the stand goes on without its drain. -/
theorem exec_vfFlr_replaced (hvalid : v.standValid n = true) (hdraining : (v.stand n).life.stage = .draining)
    (hreplacing : v.replacing n = true) : exec (.vfFlr n) s = .next (v.drainEnd n).deliver := by
  subst hv
  rw [State.resetVf] at *
  simp only [exec, execVfFlr, hexists, hup, hvalid, hdraining, hreplacing, Bool.not_true, Bool.false_eq_true, or_self,
    if_false, if_true]

end

/-- Settles O50: a command is judged by the stand's state, each stage's event looks at the stage alone, and a
function-level reset does the rest of its work on the state whose function is reset (`State.resetVf`). -/
theorem standResets : Obligations.StandResets := by
  refine ⟨fun s t f v hwritten => ⟨exec_standReset_noGo hwritten, exec_standReset_busy hwritten,
    exec_standReset_absent hwritten, exec_standReset_starts hwritten⟩, fun s n => ⟨fun hdraining hfree =>
      ⟨exec_standDrainEnd hdraining hfree, exec_replaceDrainEnd_free hfree⟩, fun hdraining hreplacing =>
      ⟨exec_replaceDrainEnd hdraining hreplacing, exec_standDrainEnd_replacing hreplacing⟩,
      fun hstage => ⟨exec_standDrainEnd_other hstage, exec_replaceDrainEnd_other hstage⟩,
      exec_stateLostEntryWindowEnd, exec_stateLostEntryWindowEnd_other, exec_relayConfirm, exec_relayConfirm_other,
      exec_zeroingDone, exec_zeroingDone_other⟩, fun s hzeroing => ⟨_, exec_zeroingDone_staging hzeroing, ?_, ?_⟩,
    fun s u v n hexists hup hu hv => ?_, fun s n => exec_vfFlr_linkDown⟩
  · exact (State.flag_setFld_apart (by rfl) (by decide) (.inl (by decide)) _ 0 0 1).trans
      (State.flag_setFld_zero (by decide) (by decide) _ 0 0)
  · exact State.flag_setFld_one (by decide) (by decide) _ 0 0
  · have hreset : v = s.resetVf n := hv.trans (by rw [hu, State.resetVf])
    exact ⟨exec_vfFlr_noStand hexists hup hreset, exec_vfFlr_steady hexists hup hreset,
      exec_vfFlr_replaced hexists hup hreset⟩

end Sys2Proof.Machine
end

section
/-! Proofs: the power step governor, thermal trips and throttle states (18_power_thermal.md R382-R389). -/

namespace Sys2Proof.Machine

open Sys2Proof

-- One theorem after another: the tasks of the whole text together stand near the memory limit of its check.
set_option Elab.async false

/-! The governor (R382, R384) -/

/-- Both windows have room for a request that is admitted, and a matrix core starts under an applied voltage only. -/
theorem State.admits_room {s : State} {r : PowerReq} (h : s.admits r = true) :
    grantedMw s.timeNs (if r.stop then s.power.stops else s.power.starts) + r.unit.draw.1 ≤ 1000 * s.power.rampW ∧
    grantedMa s.timeNs s.power.slewA r.unit.rail (if r.stop then s.power.stops else s.power.starts) + r.unit.draw.2 ≤
      32000 := by
  simp only [State.admits, Bool.and_eq_true, decide_eq_true_eq] at h
  obtain ⟨⟨⟨-, hpower⟩, hcurrent⟩, -⟩ := h
  exact ⟨Nat.le_of_add_right_le hpower, hcurrent⟩

theorem State.admits_matrix {s : State} {r : PowerReq} {c : Nat} (h : s.admits r = true) (hunit : r.unit = .matrix c)
    (hstart : r.stop = false) : s.flag Fld.PWR_VID_APPLIED = true := by
  simp only [State.admits, Bool.and_eq_true, hunit, hstart, Bool.false_or] at h
  exact h.1.1.1

/-- A unit is clocked where its clock is set, and is not where it is taken away. -/
theorem Power.clocked_setClock (p : Power) (u : PowerUnit) (k : Option Clock) :
    (p.setClock u k).clocked u = k.isSome := by
  cases u <;> cases k <;> simp only [Power.setClock, Power.clocked, SMap.get?_set_self, SMap.get?_del, if_true,
    Option.isSome_some, Option.isSome_none]

/-- The grant of a request at a time. -/
def PowerReq.grant (r : PowerReq) (now : Nat) : Grant := ⟨now, r.unit.draw.1, r.unit.rail, r.unit.draw.2⟩

/-- The governor's state with a request taken from its queue. -/
def Power.taken (p : Power) (r : PowerReq) : Power := { p with waiting := p.waiting.filter (· != r) }

section
variable {s : State} {r : PowerReq}

theorem exec_governorGrant_none (hnone : s.power.considered.find? s.admits = none) :
    exec .governorGrant s = .next s := by
  simp only [exec, execGovernorGrant, hnone]

variable (hfirst : s.power.considered.find? s.admits = some r)
include hfirst

theorem exec_governorGrant_start (hstart : r.stop = false) : exec .governorGrant s = .next (s.updPower (fun p =>
    { (p.taken r).setClock r.unit (some .ballast) with
      starts := liveGrants s.timeNs p.starts ++ [r.grant s.timeNs] })) := by
  simp only [exec, execGovernorGrant, hfirst, hstart, Bool.false_eq_true, if_false]
  rfl

theorem exec_governorGrant_stop (hstop : r.stop = true) : exec .governorGrant s = .next (s.updPower (fun p =>
    { (p.taken r).setClock r.unit none with stops := liveGrants s.timeNs p.stops ++ [r.grant s.timeNs] })) := by
  simp only [exec, execGovernorGrant, hfirst, hstop, if_true]
  rfl

end

/-- Setting a unit's clock leaves the queue and both windows. -/
theorem Power.setClock_frame (p : Power) (u : PowerUnit) (k : Option Clock) : (p.setClock u k).waiting = p.waiting ∧
    (p.setClock u k).stops = p.stops ∧ (p.setClock u k).starts = p.starts := by
  cases u <;> cases k <;> exact ⟨rfl, rfl, rfl⟩

/-! Ballast and the stagger pattern (R383, R384) -/

section
variable {s : State}

theorem exec_ballastTimeout_matrix {c : Nat} (hballast : s.power.matrix.get? c = some .ballast)
    (hopen : s.patterned c = false) :
    exec (.ballastTimeout true c) s = .next (s.updPower (fun p => p.request true (.matrix c) s.timeNs)) := by
  simp only [exec, execBallastTimeout, PowerUnit.cluster, hballast, hopen, Bool.not_false, if_true, and_self]

theorem exec_ballastTimeout_vector {v : Nat} (hballast : s.power.vector.get? v = some .ballast)
    (hopen : s.patterned (v / 864) = false) :
    exec (.ballastTimeout false v) s = .next (s.updPower (fun p => p.request true (.vector v) s.timeNs)) := by
  simp only [exec, execBallastTimeout, PowerUnit.cluster, hballast, hopen, Bool.not_false, Bool.false_eq_true, if_true,
    if_false, and_self]

/-- The cores of a patterned cluster never request a stop. -/
theorem exec_ballastTimeout_patterned {c : Nat} (hpatterned : s.patterned c = true) :
    exec (.ballastTimeout true c) s = .next s := by
  simp only [exec, execBallastTimeout, PowerUnit.cluster, hpatterned, Bool.not_true, Bool.false_eq_true, if_true,
    and_false, if_false]

variable {n c : Nat} {rest : List Nat} {p : Pattern}

theorem exec_sealedClusterStart_none (hnone : s.power.sealed.get? n = none) :
    exec (.sealedClusterStart n) s = .next s := by
  simp only [exec, execSealedClusterStart, hnone]

variable (hpattern : s.power.sealed.get? n = some p)
include hpattern

theorem exec_sealedClusterStart_starts (hstopping : p.stopping = []) (hstarting : p.starting = c :: rest)
    (hvid : s.flag Fld.PWR_VID_APPLIED = true) : exec (.sealedClusterStart n) s = .next (s.updPower (fun q =>
      { q.clockCluster c with
        starts := liveGrants s.timeNs q.starts ++ q.clusterGrants s.timeNs c,
        sealed := q.sealed.set n { p with starting := rest, due := s.timeNs + 912000000 / s.power.rampW } })) := by
  simp only [exec, execSealedClusterStart, hpattern, hstopping, hstarting, hvid, Bool.not_true, Bool.false_eq_true,
    if_false]

theorem exec_sealedClusterStart_stops (hstopping : p.stopping = c :: rest) : exec (.sealedClusterStart n) s =
    .next ((s.stopCluster c).updPower (fun q => { q with
      stops := liveGrants s.timeNs q.stops ++ q.clusterGrants s.timeNs c,
      sealed := q.sealed.set n { p with stopping := rest, due := s.timeNs + 912000000 / s.power.rampW } })) := by
  simp only [exec, execSealedClusterStart, hpattern, hstopping]

end

/-! Temperatures (R386, R389) -/

/-- The sensors of a sample at 112 °C or above, by number. -/
def hotSensors (r : List (List Nat)) : List Nat :=
  r.zipIdx.flatMap (fun x => (x.1.zipIdx.filter (fun y => decide (112 ≤ y.1))).map (fun y => 32 * x.2 + y.2))

section
variable {s u : State} {readings r : List (List Nat)} {fails : Nat}

theorem exec_thermalSample_stopped (hstopped : s.heartRuns = false) :
    exec (.thermalSample readings fails) s = .next s := by
  simp only [exec, execThermalSample, hstopped, Bool.not_false, if_true]

variable (hruns : s.heartRuns = true) (hr : r = (List.range 8).map (fun d => (readings.getD d []).take (sensorsOf d)))
  (hu : u = s.showThermal r)
include hruns hr hu

/-- A sensor that was hot in the sample before trips the package. -/
theorem exec_thermalSample_trips (htwice : ∃ k ∈ hotSensors r, k ∈ u.power.hot) :
    exec (.thermalSample readings fails) s = .next (State.restart ({ u.satFld Fld.THM_STATUS_TRIPS 0 0 1 with
      pins := { (u.satFld Fld.THM_STATUS_TRIPS 0 0 1).pins with thermtripReleased := false } } : State) 5 fails) := by
  have hany : (hotSensors r).any u.power.hot.contains = true := by
    simpa only [List.any_eq_true, List.contains_iff_mem] using htwice
  subst hr hu
  simp only [hotSensors] at hany
  simp only [exec, execThermalSample, hruns, Bool.not_true, Bool.false_eq_true, if_false, hany, if_true]

theorem exec_thermalSample_shown (honce : ∀ k ∈ hotSensors r, k ∉ u.power.hot) :
    exec (.thermalSample readings fails) s = .next (u.updPower (fun p => { p with hot := hotSensors r })) := by
  have hany : (hotSensors r).any u.power.hot.contains = false := by
    simpa only [List.any_eq_false, List.contains_iff_mem] using honce
  subst hr hu
  simp only [hotSensors] at hany ⊢
  simp only [exec, execThermalSample, hruns, Bool.not_true, Bool.false_eq_true, if_false, hany]

end

/-! Throttling (R387, R388) -/

theorem stateLevel_le (x : Nat) : stateLevel x ≤ 3 := by
  unfold stateLevel
  split_ifs <;> decide

theorem stateLevel_eq_zero {x : Nat} : stateLevel x = 0 ↔ x = 0 := by
  unfold stateLevel
  grind

/-- Self-tests are aborted from state 5 on. -/
theorem stateLevel_eq_three {x : Nat} : stateLevel x = 3 ↔ 4 < x := by
  unfold stateLevel
  grind

/-- The state after an evaluation: 7 from 108 °C on; otherwise, once the previous change is applied, one higher over a
limit, one lower after ten good milliseconds, and at least 5 from 106 °C on. -/
def throttleState (hot thr p limit cool low old : Nat) (settled : Bool) : Nat :=
  let new := if thr ≤ hot ∨ limit < p then min (old + 1) 7 else if 10 ≤ cool ∧ 10 ≤ low then old - 1 else old
  if 108 ≤ hot then 7 else if settled then (if 106 ≤ hot then max new 5 else new) else old

/-- The throttle state taken from `old` to `new`: a rise shows its causes, and one to level 3 aborts the self-tests. -/
def State.throttled (s : State) (old new : Nat) (power thermal : Bool) : State :=
  let s := s.setFld Fld.PWR_STATUS_STATE 0 0 new
  let s := if old < new then (s.setFld Fld.PWR_STATUS_POWER_CAUSE 0 0 (b01 power)).setFld
      Fld.PWR_STATUS_THERMAL_CAUSE 0 0 (b01 thermal) else s
  let s := if stateLevel old < 3 ∧ stateLevel new = 3 then s.testsAborted (List.range 24) else s
  s.settleLevel

theorem State.throttled_of_le {s : State} {old new : Nat} (h : new ≤ old) (power thermal : Bool) :
    s.throttled old new power thermal = (s.setFld Fld.PWR_STATUS_STATE 0 0 new).settleLevel := by
  have hlevel : ¬(stateLevel old < 3 ∧ stateLevel new = 3) := by
    rintro ⟨hold, hnew⟩
    have hhigh := stateLevel_eq_three.2 (Nat.lt_of_lt_of_le (stateLevel_eq_three.1 hnew) h)
    omega
  simp only [State.throttled, if_neg (Nat.not_lt.2 h), if_neg hlevel]

/-- A rise by one enters level 3 from state 4 alone. -/
theorem State.throttled_succ {s : State} {old : Nat} (h : old ≠ 4) (power thermal : Bool) :
    s.throttled old (old + 1) power thermal = (((s.setFld Fld.PWR_STATUS_STATE 0 0 (old + 1)).setFld
      Fld.PWR_STATUS_POWER_CAUSE 0 0 (b01 power)).setFld Fld.PWR_STATUS_THERMAL_CAUSE 0 0
        (b01 thermal)).settleLevel := by
  have hlevel : ¬(stateLevel old < 3 ∧ stateLevel (old + 1) = 3) := by
    rintro ⟨hold, hnew⟩
    have hrisen := stateLevel_eq_three.1 hnew
    have hhigh : stateLevel old = 3 := stateLevel_eq_three.2 (by omega)
    omega
  simp only [State.throttled, if_pos (Nat.lt_succ_self old), if_neg hlevel]

section
variable {s u v : State} {rails : List (Nat × Nat)} {settled : Bool} {p limit hot thr old : Nat}

theorem exec_throttleEval (hruns : s.heartRuns = true) (hu : u = (s.showRails rails).countBallast)
    (hrunning : u.phase = .running) (hp : p = ((rails.take 13).map (fun x => x.1 * x.2)).foldl (· + ·) 0)
    (hlimit : limit = u.power.limitW * 10000) (hhot : hot = u.fld Fld.THM_STATUS_MAX_COMPUTE_C)
    (hthr : thr = u.fld Fld.THM_CTRL_THROTTLE_C) (hold : old = u.fld Fld.PWR_STATUS_STATE)
    (hv : v = u.updPower (fun q => { q with
      cool := if hot < thr - 3 then q.cool + 1 else 0, low := if 100 * p ≤ 95 * limit then q.low + 1 else 0 })) :
    exec (.throttleEval rails settled) s = .next (v.throttled old
      (throttleState hot thr p limit v.power.cool v.power.low old settled) (decide (limit < p))
      (decide (thr ≤ hot ∨ 106 ≤ hot))) := by
  subst hv
  simp only [exec, execThrottleEval, hruns, Bool.not_true, Bool.false_eq_true, if_false, ← hu, hrunning, ne_eq,
    not_true_eq_false, ← hp, ← hlimit, ← hhot, ← hthr]
  subst hold
  rfl

end

/-- Settles O46: the governor's windows are what `State.admits` asks of a request, a granted unit's clock is set or taken
away; an evaluation takes the throttle state to `throttleState`. -/
theorem powerGovernor : Obligations.PowerGovernor := by
  refine ⟨⟨fun s r hadmits => ⟨(State.admits_room hadmits).1, (State.admits_room hadmits).2, fun c =>
      State.admits_matrix hadmits⟩, fun s => exec_governorGrant_none, fun s r hfirst => ?_,
    fun s c => exec_ballastTimeout_matrix, fun s v => exec_ballastTimeout_vector,
    fun s c => exec_ballastTimeout_patterned,
    fun s n c rest p hpattern hstopping hstarting hvid =>
      ⟨_, exec_sealedClusterStart_starts hpattern hstopping hstarting hvid, ?_, ?_, rfl⟩,
    fun s n c rest p hpattern hstopping => ⟨_, exec_sealedClusterStart_stops hpattern hstopping, ?_, ?_⟩,
    fun s n => exec_sealedClusterStart_none⟩, ⟨fun s u readings fails r hot hruns hr hu hhot => ?_,
    fun s readings fails => exec_thermalSample_stopped,
    fun s u v rails settled p limit hot thr old hruns hu hrunning hp hlimit hhot hthr hold hv => ?_,
    fun x => ⟨stateLevel_le x, stateLevel_eq_zero⟩⟩⟩
  · obtain hstart | hstop := (Bool.eq_false_or_eq_true r.stop).symm
    · obtain ⟨hwaiting, hstops, -⟩ := (s.power.taken r).setClock_frame r.unit (some .ballast)
      refine ⟨_, exec_governorGrant_start hfirst hstart, hwaiting, ?_, fun _ => ⟨hstops, rfl⟩,
        fun hstop => absurd (hstart.symm.trans hstop) Bool.false_ne_true⟩
      rw [hstart]
      exact (s.power.taken r).clocked_setClock r.unit (some .ballast)
    · obtain ⟨hwaiting, -, hstarts⟩ := (s.power.taken r).setClock_frame r.unit none
      refine ⟨_, exec_governorGrant_stop hfirst hstop, hwaiting, ?_,
        fun hstart => absurd (hstart.symm.trans hstop) Bool.false_ne_true, fun _ => ⟨hstarts, rfl⟩⟩
      rw [hstop]
      exact (s.power.taken r).clocked_setClock r.unit none
  · exact SMap.get?_set_self _ _ _
  · exact congrArg Option.isSome (SMap.get?_set_self s.power.matrix c .ballast)
  · exact SMap.get?_set_self _ _ _
  · exact congrArg Option.isSome ((SMap.get?_del s.power.matrix c c).trans (if_pos rfl))
  · subst hhot
    exact ⟨exec_thermalSample_trips hruns hr hu, exec_thermalSample_shown hruns hr hu⟩
  · have hexec := exec_throttleEval (settled := settled) hruns hu hrunning hp hlimit hhot hthr hold hv
    refine ⟨fun hcool hunsettled => ?_, fun hcool hsettled hover hlow hfour => ?_,
      fun hcool hsettled hbelow hwithin htenCool htenLow => ?_, fun hhigh hmax => ?_⟩
    · have hstate : throttleState hot thr p limit v.power.cool v.power.low old settled = old := by
        simp only [throttleState, if_neg (Nat.not_le.2 hcool), hunsettled, Bool.false_eq_true, if_false]
      rw [hexec, hstate, State.throttled_of_le le_rfl]
    · have hstate : throttleState hot thr p limit v.power.cool v.power.low old settled = old + 1 := by
        have hmax : ¬108 ≤ hot := by omega
        have hrest : ¬106 ≤ hot := by omega
        simp only [throttleState, if_pos hover, hsettled, if_true, if_neg hmax, if_neg hrest]
        exact Nat.min_eq_left hlow
      have hthermal : (thr ≤ hot ∨ 106 ≤ hot) ↔ thr ≤ hot := by omega
      rw [hexec, hstate, State.throttled_succ hfour, decide_eq_decide.2 hthermal]
    · have hstate : throttleState hot thr p limit v.power.cool v.power.low old settled = old - 1 := by
        have hmax : ¬108 ≤ hot := by omega
        have hrest : ¬106 ≤ hot := by omega
        have hunder : ¬(thr ≤ hot ∨ limit < p) := by omega
        simp only [throttleState, if_neg hunder, if_pos (And.intro htenCool htenLow), hsettled, if_true, if_neg hmax,
          if_neg hrest]
      rw [hexec, hstate, State.throttled_of_le (Nat.sub_le _ _)]
    · have hstate : throttleState hot thr p limit v.power.cool v.power.low old settled = 7 := if_pos hhigh
      rw [hexec, hstate, State.throttled_of_le (Nat.le_of_eq hmax.symm)]

end Sys2Proof.Machine
end

section
/-! Proofs: units that fail, leave service and return (19_faults_events.md R394, R397-R399, R403; 01_organisation.md R14,
R15; 13_associative_search.md R294). -/

namespace Sys2Proof.Machine

open Sys2Proof

-- One theorem after another: the tasks of the whole text together stand near the memory limit of its check.
set_option Elab.async false

/-! Steward cores and sequencers (R394, R397) -/

section
variable {s u : State}

theorem exec_stewardFailure {core handlers : Nat} (hruns : s.heartRuns = true) (hcore : core < 64)
    (hother : s.recorder.returning ≠ some (2, core)) (hin : (s.fld Fld.EVR_STEWARD_OUT_OUT).testBit core = false)
    (hu : u = ((s.setFld Fld.EVR_STEWARD_OUT_OUT 0 0 (s.fld Fld.EVR_STEWARD_OUT_OUT ||| 2 ^ core)).event
      ⟨0x0504, none, 6 + core / 32, 37, [core, handlers]⟩)) (t : State)
    (ht : t = u.sharedFault (u.allStands.filter (fun n => u.hubOf n == core / 32)) (6 + core / 32) 37 2 core) :
    exec (.stewardFailure core handlers) s = .next (if (List.range 32).all (fun k =>
      (t.fld Fld.EVR_STEWARD_OUT_OUT).testBit (32 * (core / 32) + k)) then t.failPackage (9 + core / 32) else t) := by
  subst ht hu
  simp only [exec, execStewardFailure, hruns, Nat.not_le.2 hcore, Bool.not_true, Bool.false_eq_true, or_self, if_false,
    if_neg hother, hin]

theorem exec_stewardFailure_returning {core handlers : Nat} (hruns : s.heartRuns = true) (hcore : core < 64)
    (hreturning : s.recorder.returning = some (2, core)) :
    exec (.stewardFailure core handlers) s = .next (s.returnEnd 3) := by
  simp only [exec, execStewardFailure, hruns, Nat.not_le.2 hcore, Bool.not_true, Bool.false_eq_true, or_self, if_false,
    if_pos hreturning]

theorem exec_sequencerFailure {q n : Nat} (hruns : s.heartRuns = true) (hq : q < 24)
    (hother : s.recorder.returning ≠ some (6, q)) (hin : s.sequencersOut.testBit q = false)
    (hstand : s.allStands.find? (fun n => s.layout Fld.GLB_STAND_SEQUENCER n == q) = some n) :
    exec (.sequencerFailure q) s = .next (((State.event ({ s with sequencersOut := s.sequencersOut ||| 2 ^ q } : State)
      ⟨0x0305, some n, 6 + q / 12, 38, [q]⟩).stopStand n 0x39).deliver) := by
  simp only [exec, execSequencerFailure, hruns, Nat.not_le.2 hq, Bool.not_true, Bool.false_eq_true, or_self, if_false,
    if_neg hother, hin]
  split
  next m hserved => obtain rfl := Option.some.inj (hserved.symm.trans hstand); rfl
  next hnone => exact absurd (hnone.symm.trans hstand) nofun

/-- A sequencer that is out of service already changes nothing. -/
theorem exec_sequencerFailure_out {q : Nat} (hout : s.sequencersOut.testBit q = true)
    (hother : s.recorder.returning ≠ some (6, q)) : exec (.sequencerFailure q) s = .next s := by
  simp only [exec, execSequencerFailure, if_neg hother, hout, if_true, ite_self]

/-! The package (R398) -/

theorem exec_packageFault {block : Nat} (hruns : s.heartRuns = true) (hblock : block ≤ 10) :
    exec (.packageFault block) s = .next (s.failPackage block) := congrArg _ (if_pos ⟨hruns, hblock⟩)

/-- A package that failed fails no further. -/
theorem exec_packageFault_failed {block : Nat} (hfailed : s.phase = .packageFault) :
    exec (.packageFault block) s = .next s := by
  simp only [exec, execPackageFault, State.failPackage, if_pos hfailed, ite_self]

/-! Return to service (R399) -/

section
variable {t : State} {f : Fn} {v : Nat} (hwritten : s.writeRow f .EVR_RETURN_CMD 0 0 [] v = some t)
include hwritten

theorem exec_returnToService_noGo (hgo : bit v 16 = false) : exec (.returnToService f v) s = .next t := by
  simp only [exec, execReturnToService, hwritten, hgo, Bool.not_false, if_true]

variable (hgo : bit v 16 = true)
include hgo

/-- One unit returns at a time: another is refused with RESULT 1. -/
theorem exec_returnToService_busy (hbusy : t.recorder.returning.isSome = true) : exec (.returnToService f v) s =
    .next (t.setFld Fld.EVR_RETURN_CMD_RESULT 0 0 1) := by
  simp only [exec, execReturnToService, hwritten, hgo, hbusy, Bool.not_true, Bool.false_eq_true, if_true, if_false]

variable (hidle : t.recorder.returning = none)
include hidle

/-- A unit that is not known, or in service, is refused with RESULT 2. -/
theorem exec_returnToService_notOut (hin : t.unitOut (bits v 0 4) (bits v 4 12) = false) :
    exec (.returnToService f v) s =
      .next ((t.setFld Fld.EVR_RETURN_CMD_RESULT 0 0 2).setFld Fld.EVR_RETURN_CMD_DONE 0 0 1) := by
  simp only [exec, execReturnToService, hwritten, hgo, hidle, hin, Option.isSome_none, Bool.not_true, Bool.not_false,
    Bool.false_eq_true, if_true, if_false]

theorem exec_returnToService_starts (hout : t.unitOut (bits v 0 4) (bits v 4 12) = true) :
    exec (.returnToService f v) s = .next (State.setFld { t with recorder := { t.recorder with
      returning := some (bits v 0 4, bits v 4 12), returnPassed := false } } Fld.EVR_RETURN_CMD_BUSY 0 0 1) := by
  simp only [exec, execReturnToService, hwritten, hgo, hidle, hout, Option.isSome_none, Bool.not_true,
    Bool.false_eq_true, if_false]

end

section
variable {kind idx : Nat} (hreturning : s.recorder.returning = some (kind, idx))
  (hchecking : s.recorder.returnPassed = false)
include hreturning hchecking

theorem exec_returnCheckDone_failed : exec (.returnCheckDone false) s = .next (s.returnEnd 3) := by
  simp only [exec, execReturnCheckDone, hreturning, hchecking, Bool.not_false, Bool.false_eq_true, if_true, if_false]

/-- A sequencer that passed joins at once. -/
theorem exec_returnCheckDone_sequencer (hkind : kind = 6) :
    exec (.returnCheckDone true) s = .next ((s.bringBack 6 idx).returnEnd 0) := by
  subst hkind
  simp only [exec, execReturnCheckDone, State.joinUnit, hreturning, hchecking, Bool.not_true, Bool.false_eq_true,
    if_true, if_false]

theorem exec_returnCheckDone_waits (hkind : kind ≠ 6) : exec (.returnCheckDone true) s =
    .next { s with recorder := { s.recorder with returnPassed := true } } := by
  simp only [exec, execReturnCheckDone, hreturning, hchecking, Bool.not_true, Bool.false_eq_true, if_false, if_neg hkind]

end

/-- The complement of one bit, as the model writes it, clears that bit. -/
theorem testBit_and_complement {x w i : Nat} (hi : i < w) : (x &&& (2 ^ w - 1 - 2 ^ i)).testBit i = false := by
  rw [Nat.sub_sub, Nat.add_comm 1, Nat.testBit_and, Nat.testBit_two_pow_sub_succ (Nat.pow_lt_pow_right (by decide) hi),
    Nat.testBit_two_pow_self, Bool.not_true, Bool.and_false, Bool.and_false]

/-- A steward core or a sequencer that is brought back is no longer out. -/
theorem State.unitOut_bringBack {kind idx : Nat} (hkind : kind = 2 ∨ kind = 6) (hidx : idx < 64) :
    (s.bringBack kind idx).unitOut kind idx = false := by
  obtain rfl | rfl := hkind
  · simp only [State.bringBack, State.unitOut]
    rw [State.fld_setFld_self (by decide), Nat.testBit_mod_two_pow, testBit_and_complement hidx, Bool.and_false,
      Bool.and_false]
  · simp only [State.bringBack, State.unitOut]
    by_cases hin : idx < 24
    · rw [testBit_and_complement hin, Bool.and_false]
    · rw [decide_eq_false hin, Bool.false_and]

/-! The level of DDRk_ALERT_N (R394) -/

/-- The levels are bits of a mask, and the event sets the bit of its channel. -/
theorem exec_ddrAlertN {k : Nat} {low : Bool} (hk : k < 16) : exec (.ddrAlertN k low) s =
    .next { s with pins := { s.pins with ddrAlert := setBits s.pins.ddrAlert k 1 (b01 low) } } := by
  have hlevel : bits s.pins.ddrAlert k 1 = b01 (s.pins.ddrAlert.testBit k) := by
    rw [bits, Nat.pow_one, ← Nat.toNat_testBit]
    cases s.pins.ddrAlert.testBit k <;> rfl
  simp only [exec, execDdrAlertN, if_neg (Nat.not_le.2 hk), setBits, hlevel]
  cases s.pins.ddrAlert.testBit k <;> cases low <;>
    simp only [b01, Bool.false_eq_true, if_true, if_false, Nat.pow_one, Nat.mod_succ, Nat.zero_mod, Nat.zero_mul,
      Nat.one_mul, Nat.sub_zero, Nat.add_zero]

end

/-! Die links (R14, R15) -/

/-- Module `module` of a link with another lane fault in its upper or its lower half, and the link as it then shows. -/
def State.laneFault (s : State) (link module : Nat) (upper : Bool) : State :=
  let faults := if upper then ((s.moduleFaults link module).1, true) else (true, (s.moduleFaults link module).2)
  State.showLink { s with modules := s.modules.set (16 * link + module) faults } link

section
variable {s u : State} {link module key : Nat} {upper : Bool} (hruns : s.heartRuns = true) (hlink : link < 11)
  (hmodule : module < linkModules link) (hkey : key = 16 * link + module) (hother : s.recorder.returning ≠ some (1, key))
include hruns hlink hmodule hkey hother

/-- The same fault again changes nothing. -/
theorem exec_dlinkLaneFault_again
    (hknown : (if upper then (s.moduleFaults link module).2 else (s.moduleFaults link module).1) = true) :
    exec (.dlinkLaneFault link module upper) s = .next s := by
  subst hkey
  have hsame : (if upper then ((s.moduleFaults link module).1, true) else (true, (s.moduleFaults link module).2)) =
      s.moduleFaults link module := by
    cases upper
    · exact Prod.ext hknown.symm rfl
    · exact Prod.ext rfl hknown.symm
  simp only [exec, execDlinkLaneFault, hruns, Nat.not_le.2 hlink, Nat.not_le.2 hmodule, Bool.not_true,
    Bool.false_eq_true, or_self, if_false, State.returnFault, if_neg hother, hsame, if_true]

variable (hnew : (if upper then (s.moduleFaults link module).2 else (s.moduleFaults link module).1) = false)
  (hu : u = s.laneFault link module upper)
include hnew hu

theorem exec_dlinkLaneFault_new : exec (.dlinkLaneFault link module upper) s = .next (if u.linkWorks link then
    (u.event ⟨0x0402, none, 6 + linkHub link, 43, [1 + link * 2 ^ 8, module]⟩).sharedFault (u.linkStands link)
      (6 + linkHub link) 43 1 key
    else ((u.event ⟨0x0401, none, 6 + linkHub link, 43, [1 + link * 2 ^ 8]⟩).sharedFault (u.linkStands link)
      (6 + linkHub link) 43 8 link).stopCutOff.deliver) := by
  subst hkey
  have hchanged : (if upper then ((s.moduleFaults link module).1, true) else (true, (s.moduleFaults link module).2)) ≠
      s.moduleFaults link module := by
    intro hsame
    rw [← hsame] at hnew
    cases upper <;> exact Bool.false_ne_true hnew.symm
  subst hu
  simp only [exec, execDlinkLaneFault, hruns, Nat.not_le.2 hlink, Nat.not_le.2 hmodule, Bool.not_true,
    Bool.false_eq_true, or_self, if_false, State.returnFault, if_neg hother, if_neg hchanged]
  rfl

end

/-! Bank failure (R294) -/

section
variable {s : State} {b : Nat}

theorem exec_bankFailure_returning (hreturning : s.recorder.returning = some (3, b)) :
    exec (.bankFailure b) s = .next (s.returnEnd 3) := congrArg _ (if_pos hreturning)

variable (hother : s.recorder.returning ≠ some (3, b))
include hother

theorem exec_bankFailure_out (hout : s.bank Fld.ASR_BANK_CFG_IN_SERVICE b ≠ 1) :
    exec (.bankFailure b) s = .next s := congrArg _ ((if_neg hother).trans (if_pos (.inr hout)))

/-- What a failed bank leaves: out of service, its error recorded, its entries gone from the table. -/
def State.bankFailed (s : State) (b : Nat) : State :=
  let u := (s.setFld Fld.ASR_BANK_CFG_IN_SERVICE (b / 32) (b % 32) 0).flagAsr Fld.ASR_ERROR_BANK_FAILED b 0
  (State.countBank { u with search := u.search.filter (fun e => e.1 / 4096 != b) } b).event
    ⟨0x0503, none, 6 + b / 32, 34, [b]⟩

/-- Its entries, in the order of their priorities, go to the holes of its table's other banks. -/
theorem exec_bankFailure_fails {t : Table} {v : State} (hb : b < 64) (hin : s.bank Fld.ASR_BANK_CFG_IN_SERVICE b = 1)
    (ht : t = s.tableOf b) (hv : v = s.bankFailed b) :
    exec (.bankFailure b) s = .next ((if t.kind = kindComposition ∨ t.kind = kindClassifier then
      v.sharedFault (List.range 24) (6 + b / 32) 34 3 b else v).reload t b
        ((s.bankEntries b).foldl (fun acc e => insertBy (fun x => 2 ^ 16 - x.2.priority) e acc) [])) := by
  subst ht hv
  have hserving : ¬(64 ≤ b ∨ s.bank Fld.ASR_BANK_CFG_IN_SERVICE b ≠ 1) :=
    not_or.2 ⟨Nat.not_le.2 hb, not_not.2 hin⟩
  exact congrArg _ ((if_neg hother).trans (if_neg hserving))

end

/-- Settles O47: each event is judged by what the recorder says is returning and by whether the unit is out already; a
new fault of a lane leaves `State.laneFault`, a failed bank `State.bankFailed`. -/
theorem unitFaults : Obligations.UnitFaults := by
  refine ⟨⟨fun s u core handlers => exec_stewardFailure, fun s core handlers => exec_stewardFailure_returning,
    fun s q n => exec_sequencerFailure, fun s q => exec_sequencerFailure_out, fun s block => exec_packageFault,
    fun s block => exec_packageFault_failed, fun s t f v hwritten => ⟨exec_returnToService_noGo hwritten,
      exec_returnToService_busy hwritten, exec_returnToService_notOut hwritten, fun hgo hidle hout =>
        ⟨_, exec_returnToService_starts hwritten hgo hidle hout, rfl, rfl, State.fld_setFld_self (by decide)⟩⟩,
    fun s kind idx hreturning hchecking => ⟨exec_returnCheckDone_failed hreturning hchecking,
      exec_returnCheckDone_sequencer hreturning hchecking, exec_returnCheckDone_waits hreturning hchecking⟩,
    fun s kind idx _ => State.unitOut_bringBack, fun s => rfl, fun s k i low hk => ⟨_, exec_ddrAlertN hk, ?_⟩⟩,
    fun s u link module key upper hruns hlink hmodule hkey hother hu =>
      ⟨exec_dlinkLaneFault_again hruns hlink hmodule hkey hother, fun hnew => ?_⟩,
    fun s u v b t hother hb hin ht hu hv => ?_, fun s b => exec_bankFailure_out, fun s b => exec_bankFailure_returning⟩
  · exact testBit_setBits_one _ _ _ _
  · subst hkey
    have hexec := exec_dlinkLaneFault_new hruns hlink hmodule rfl hother hnew hu
    exact ⟨fun hworks => by rw [hexec, if_pos hworks], fun hdown => by rw [hexec, hdown, if_neg Bool.false_ne_true]⟩
  · exact exec_bankFailure_fails hother hb hin ht (hv.trans (by rw [hu, State.bankFailed]))

end Sys2Proof.Machine
end

section
/-! Proofs: the host link (20_host_interface.md R408, R419, R422, R423). -/

namespace Sys2Proof.Machine

open Sys2Proof

-- One theorem after another: the tasks of the whole text together stand near the memory limit of its check.
set_option Elab.async false

/-! The link trains, narrows and goes down (R408, R423) -/

/-- A field of a field, counted from the lowest bit of the number. -/
theorem bits_bits {a v w : Nat} (h : a + v ≤ w) (x lo : Nat) : bits (bits x lo w) a v = bits x (lo + a) v := by
  apply Nat.eq_of_testBit_eq
  intro k
  simp only [bits, Nat.testBit_mod_two_pow, Nat.testBit_div_two_pow, Nat.add_assoc]
  by_cases hk : k < v
  · rw [decide_eq_true (show k + a < w by omega), Bool.true_and, Nat.add_comm a lo]
  · rw [decide_eq_false hk, Bool.false_and, Bool.false_and]

/-- The phases in which the link trains: from step 5 of Table 17.2 on (R408). -/
def Trains (s : State) : Prop := s.phase = .running ∨ s.phase = .waiting ∨ s.phase = .packageFault ∨
  ∃ k, s.phase = .starting k ∧ 4 ≤ k

/-- The link up at a width and a rate. -/
def State.linkTrained (s : State) (w r : Nat) : State :=
  ((s.setFld Fld.GLB_LINK_STATUS_WIDTH 0 0 w).setFld Fld.GLB_LINK_STATUS_RATE_GTS 0 0 r).setFld
    Fld.GLB_LINK_STATUS_LINK_UP 0 0 1

section
variable {s : State} {w r : Nat}

theorem exec_cxlLinkUp_trains (htrains : Trains s) (hperst : s.pins.perstN = true) (hw : w ∈ [4, 8, 16])
    (hr : r ∈ [8, 16, 32]) : exec (.cxlLinkUp w r) s = .next (s.linkTrained w r) := by
  have hwidth := List.contains_iff_mem.2 hw
  have hrate := List.contains_iff_mem.2 hr
  obtain hphase | hphase | hphase | ⟨k, hphase, hk⟩ := htrains
  case inr.inr.inr =>
    simp only [exec, execCxlLinkUp, hphase, decide_eq_true hk, hperst, hwidth, hrate, Bool.and_self, if_true]
    rfl
  all_goals
    simp only [exec, execCxlLinkUp, hphase, hperst, hwidth, hrate, Bool.and_self, if_true]
    rfl

theorem exec_cxlLinkUp_reset (hperst : s.pins.perstN = false) : exec (.cxlLinkUp w r) s = .next s := by
  simp only [exec, execCxlLinkUp, hperst, Bool.and_false, Bool.false_and, Bool.false_eq_true, if_false]

theorem State.status_linkTrained (hw : w < 2 ^ 5) (hr : r < 2 ^ 6) :
    (s.linkTrained w r).flag Fld.GLB_LINK_STATUS_LINK_UP = true ∧
    (s.linkTrained w r).fld Fld.GLB_LINK_STATUS_WIDTH = w ∧ (s.linkTrained w r).fld Fld.GLB_LINK_STATUS_RATE_GTS = r := by
  rw [State.linkTrained]
  refine ⟨State.flag_setFld_one (by decide) (by decide) _ 0 0, ?_, ?_⟩
  · rw [State.fld_setFld_apart (by rfl) (by decide) (.inr (by decide)), State.fld_setFld_apart (by rfl) (by decide)
      (.inr (by decide)), State.fld_setFld_self (by decide)]
    exact Nat.mod_eq_of_lt hw
  · rw [State.fld_setFld_apart (by rfl) (by decide) (.inr (by decide)), State.fld_setFld_self (by decide)]
    exact Nat.mod_eq_of_lt hr

/-- The low 12 bits of the status are cleared as the link goes down, and LINK_UP is one of them. -/
theorem State.linkUp_linkDown (s : State) : s.linkDown.flag Fld.GLB_LINK_STATUS_LINK_UP = false := by
  have hlow : ∀ x : Nat, bits (setBits x 0 12 0 % 2 ^ 64) (0 + 11) 1 = 0 := fun x => by
    rw [bits_mod_word (by decide), ← bits_bits (w := 12) (by decide), bits_setBits_self]
    rfl
  have hread : s.linkDown.fld Fld.GLB_LINK_STATUS_LINK_UP = 0 :=
    (congrArg (bits · 11 1) (State.reg_setReg_self s .GLB_LINK_STATUS 0 0 _)).trans (hlow _)
  rw [State.flag, hread]
  rfl

variable (hup : s.flag Fld.GLB_LINK_STATUS_LINK_UP = true)

section
include hup

theorem exec_cxlLinkDown : exec .cxlLinkDown s = .next s.linkDown := congrArg _ (if_pos hup)

theorem exec_pfFlr : exec .pfFlr s = .next { s with host := s.host.resetConfig } := congrArg _ (if_pos hup)

theorem exec_hostLinkDegraded (hw : w = 8 ∨ w = 4) (hnarrower : w < s.fld Fld.GLB_LINK_STATUS_WIDTH) :
    exec (.hostLinkDegraded w) s =
      .next ((s.setFld Fld.GLB_LINK_STATUS_WIDTH 0 0 w).event ⟨0x0402, none, 6, 43, [2, w]⟩) := by
  refine congrArg _ (if_pos ?_)
  simpa only [hup, Bool.true_and, Bool.and_eq_true, Bool.or_eq_true, beq_iff_eq, decide_eq_true_eq] using ⟨hw, hnarrower⟩

/-! Configuration writes (R419, R420) -/

theorem exec_busMaster {f : Fn} {on : Bool} (hexists : s.fnExists f = true) :
    exec (.busMasterEnableWrite (.busMaster f on)) s = .next (State.msixFlush { s with
      host := { s.host with busMaster := if on then s.host.busMaster ||| 2 ^ fnNum f else
        s.host.busMaster &&& (2 ^ 25 - 1 - 2 ^ fnNum f) } }) := by
  simp only [exec, execBusMasterEnableWrite, hup, hexists, if_true]

theorem exec_vfDisable : exec (.busMasterEnableWrite (.vfEnable false)) s = .next (State.msixFlush { s with
    host := { s.host with vfEnable := false, busMaster := s.host.busMaster &&& 2 ^ 24, ats := 0 } }) := by
  simp only [exec, execBusMasterEnableWrite, hup, if_true]

theorem exec_numVfs {k : Nat} (hoff : s.host.vfEnable = false) (hk : k ≤ 24) :
    exec (.busMasterEnableWrite (.numVfs k)) s =
      .next (State.msixFlush { s with host := { s.host with numVfs := k } }) := by
  simp only [exec, execBusMasterEnableWrite, hup, hoff, decide_eq_false (Nat.not_lt.2 hk), Bool.or_self,
    Bool.false_eq_true, if_true, if_false]

/-- NumVFs holds while VF Enable is 1, and is at most 24. -/
theorem exec_numVfs_kept {k : Nat} (hbad : s.host.vfEnable = true ∨ 24 < k) :
    exec (.busMasterEnableWrite (.numVfs k)) s = .next s.msixFlush := by
  have hcond : (s.host.vfEnable || decide (24 < k)) = true := by
    rwa [Bool.or_eq_true, decide_eq_true_eq]
  simp only [exec, execBusMasterEnableWrite, hup, hcond, if_true]

/-! The secured session and its keys (R422) -/

theorem exec_pskExchange_accepted (hclosed : s.host.session = false) :
    exec (.pskExchange true) s = .next { s with host := { s.host with session := true } } := by
  simp only [exec, execPskExchange, hup, hclosed, Bool.not_false, Bool.and_self, if_true]

theorem exec_ideKm {keys : List Byte} {io cm : Bool} (hopen : s.host.session = true) : exec (.ideKm keys io cm) s =
    .next ((State.setFld { s with host := { s.host with ideKeys := some keys } } Fld.GLB_LINK_STATUS_IDE_IO 0 0
      (b01 io)).setFld Fld.GLB_LINK_STATUS_IDE_CM 0 0 (b01 cm)) := by
  simp only [exec, execIdeKm, hup, hopen, Bool.and_self, if_true]

end

theorem exec_ideKm_closed {keys : List Byte} {io cm : Bool} (hclosed : s.host.session = false) :
    exec (.ideKm keys io cm) s = .next s := by
  simp only [exec, execIdeKm, hclosed, Bool.false_and, Bool.false_eq_true, if_false]

theorem exec_ideIntegrityFailure {io : Bool}
    (hsecure : s.flag (if io then Fld.GLB_LINK_STATUS_IDE_IO else Fld.GLB_LINK_STATUS_IDE_CM) = true) :
    exec (.ideIntegrityFailure io) s = .next ((s.setFld
      (if io then Fld.GLB_LINK_STATUS_IDE_IO else Fld.GLB_LINK_STATUS_IDE_CM) 0 0 0).event ⟨0x0401, none, 6, 43, [2]⟩) :=
  congrArg _ (if_pos hsecure)

end

/-- Settles O55: each event asks whether the link is up, and a link that is down has no configuration state, no session
and no keys. -/
theorem hostLink : Obligations.HostLink := by
  refine ⟨fun s w r htrains hperst hw hr => ?_, fun s w r => exec_cxlLinkUp_reset,
    fun s hup => ⟨_, exec_cxlLinkDown hup, s.linkUp_linkDown, rfl, rfl, rfl, rfl, rfl, rfl, rfl⟩, fun s hdown => ?_,
    fun s hup => ⟨_, exec_pfFlr hup, rfl, rfl, rfl, rfl, rfl, rfl⟩, fun s w hup hw => ⟨exec_hostLinkDegraded hup hw,
      fun hnarrow => ?_⟩, fun s f on k hup => ⟨exec_busMaster hup, exec_vfDisable hup, exec_numVfs hup,
      exec_numVfs_kept hup⟩, fun s hup hclosed => ⟨exec_pskExchange_accepted hup hclosed, rfl⟩,
    fun s keys io cm hopen hup => ⟨_, exec_ideKm hup hopen, rfl, ?_,
      State.flag_setFld_b01 (by decide) (by decide) _ 0 0 cm⟩,
    fun s keys io cm => exec_ideKm_closed, fun s => exec_ideIntegrityFailure (io := true),
    fun s => exec_ideIntegrityFailure (io := false)⟩
  · have hwidth : w < 2 ^ 5 := by
      simp only [List.mem_cons, List.not_mem_nil, or_false] at hw
      omega
    have hrate : r < 2 ^ 6 := by
      simp only [List.mem_cons, List.not_mem_nil, or_false] at hr
      omega
    obtain ⟨hflag, hfldWidth, hfldRate⟩ := State.status_linkTrained (s := s) hwidth hrate
    exact ⟨_, exec_cxlLinkUp_trains htrains hperst hw hr, hflag, hfldWidth, hfldRate, rfl⟩
  · have hoff : ¬s.flag Fld.GLB_LINK_STATUS_LINK_UP = true := by rw [hdown]; exact Bool.false_ne_true
    exact ⟨congrArg _ (if_neg hoff), congrArg _ (if_neg hoff)⟩
  · refine congrArg _ (if_neg ?_)
    rw [decide_eq_false (Nat.not_lt.2 hnarrow), Bool.and_false]
    exact Bool.false_ne_true
  · exact (State.flag_setFld_apart (by rfl) (by decide) (.inr (by decide)) _ 0 0 _).trans
      (State.flag_setFld_b01 (by decide) (by decide) _ 0 0 io)

end Sys2Proof.Machine
end

section
/-! Proofs: the queue windows, the aperture, the copy ring and the staging window (20_host_interface.md R411,
R414-R417). -/

namespace Sys2Proof.Machine

open Sys2Proof

-- One theorem after another: the tasks of the whole text together stand near the memory limit of its check.
set_option Elab.async false

/-! Doorbells (R414) -/

section
variable {s : State} {n off v : Nat}

theorem exec_qwDoorbellWrite_closed (hclosed : s.windowOpen n = false) :
    exec (.qwDoorbellWrite n off v) s = .next s := by
  simp only [exec, execQwDoorbellWrite, hclosed, Bool.not_false, if_true]

variable (hopen : s.windowOpen n = true) {q : Nat} (hq : q < 16)
include hopen hq

/-- The doorbell of queue `q`'s tail stands at 0x1000 + 16 × q. -/
theorem exec_qwDoorbellWrite_tail : exec (.qwDoorbellWrite n (0x1000 + 16 * q) v) s = .next (
    if !s.flag Fld.SCH_SQ_BASE_ENABLE n q || s.flag Fld.SCH_SQ_BASE_TAIL_SOURCE n q ||
      decide (2 ^ s.fld Fld.SCH_SQ_BASE_SIZE_LOG2 n q ≤ v % 2 ^ 16) then s.badDoorbell n
    else s.setFld Fld.SCH_SQ_TAIL_INDEX n q (v % 2 ^ 16)) := by
  have hplace : 0x1000 ≤ 0x1000 + 16 * q ∧ 0x1000 + 16 * q < 0x1100 ∧ (0x1000 + 16 * q) % 16 = 0 := by omega
  have hqueue : (0x1000 + 16 * q - 0x1000) / 16 = q := by omega
  simp only [exec, execQwDoorbellWrite, hopen, Bool.not_true, Bool.false_eq_true, if_false, if_pos hplace, hqueue]

/-- The doorbell of its head stands 8 bytes above. -/
theorem exec_qwDoorbellWrite_head : exec (.qwDoorbellWrite n (0x1008 + 16 * q) v) s = .next (
    if 2 ^ s.fld Fld.SCH_CQ_BASE_SIZE_LOG2 n q ≤ v % 2 ^ 20 then s.badDoorbell n
    else (s.setFld Fld.SCH_CQ_HEAD_INDEX n q (v % 2 ^ 20)).cqFlush n q) := by
  have hother : ¬(0x1000 ≤ 0x1008 + 16 * q ∧ 0x1008 + 16 * q < 0x1100 ∧ (0x1008 + 16 * q) % 16 = 0) := by omega
  have hplace : 0x1000 ≤ 0x1008 + 16 * q ∧ 0x1008 + 16 * q < 0x1100 ∧ (0x1008 + 16 * q) % 16 = 8 := by omega
  have hqueue : (0x1008 + 16 * q - 0x1000) / 16 = q := by omega
  simp only [exec, execQwDoorbellWrite, hopen, Bool.not_true, Bool.false_eq_true, if_false, if_neg hother, if_pos hplace,
    hqueue]

end

/-! The aperture (R415) -/

section
variable {s : State} {n off : Nat} {bs : List Byte}

theorem exec_apertureWrite (hopen : s.windowOpen n = true) (haccess : apertureAccess off bs.length = true) :
    exec (.apertureWrite n off bs) s = .next (s.standWrite n (s.apertureAddr n off) bs) := by
  simp only [exec, execApertureWrite, hopen, haccess, Bool.and_self, if_true]

theorem exec_apertureWrite_dropped (hbad : s.windowOpen n = false ∨ apertureAccess off bs.length = false) :
    exec (.apertureWrite n off bs) s = .next s := by
  have hcond : (s.windowOpen n && apertureAccess off bs.length) = false := Bool.and_eq_false_iff.2 hbad
  simp only [exec, execApertureWrite, hcond, Bool.false_eq_true, if_false]

variable {len : Nat} {late : Bool}

theorem exec_apertureRead_closed (hclosed : s.windowOpen n = false) :
    exec (.apertureRead n off len late) s = .next (s.complete 0 false) := by
  simp only [exec, execApertureRead, hclosed, Bool.not_false, if_true]

variable (hopen : s.windowOpen n = true)
include hopen

/-- An access of another form, or one that comes too late, reads all ones. -/
theorem exec_apertureRead_ones (hbad : apertureAccess off len = false ∨ late = true) :
    exec (.apertureRead n off len late) s = .next (s.complete (2 ^ (8 * len) - 1) false) := by
  obtain haccess | hlate := hbad
  · simp only [exec, execApertureRead, hopen, haccess, Bool.not_true, Bool.not_false, Bool.false_eq_true, if_false,
      if_true]
  · simp only [exec, execApertureRead, hopen, hlate, Bool.not_true, Bool.false_eq_true, if_false, if_true, ite_self]

variable (haccess : apertureAccess off len = true) (hlate : late = false)
include haccess hlate

theorem exec_apertureRead_unmapped (hunmapped : s.writableRange n (s.apertureAddr n off) len = false) :
    exec (.apertureRead n off len late) s = .next ((s.flagUnmapped n (s.apertureAddr n off)).complete 0 false) := by
  simp only [exec, execApertureRead, hopen, haccess, hlate, hunmapped, Bool.not_true, Bool.not_false, Bool.false_eq_true,
    if_false, if_true]

variable {t : State} (hmapped : s.writableRange n (s.apertureAddr n off) len = true)
include hmapped

theorem exec_apertureRead_data (hread : s.standRead n (s.apertureAddr n off) len = (.ok bs, t)) :
    exec (.apertureRead n off len late) s = .next (t.complete (ofBytes bs) false) := by
  simp only [exec, execApertureRead, hopen, haccess, hlate, hmapped, hread, Bool.not_true, Bool.false_eq_true, if_false]

theorem exec_apertureRead_poisoned (hread : s.standRead n (s.apertureAddr n off) len = (.poisoned, t)) :
    exec (.apertureRead n off len late) s = .next (t.complete 0 true) := by
  simp only [exec, execApertureRead, hopen, haccess, hlate, hmapped, hread, Bool.not_true, Bool.false_eq_true, if_false]

end

/-! The copy ring (R417) -/

section
variable {s : State} {n op : Nat} {e : List Byte} {run : State → State × Nat}

theorem State.copyCommand_notReady (hnone : s.copyReady n = false) : s.copyCommand n op e run = s := by
  simp only [State.copyCommand, hnone, Bool.not_false, Bool.true_or, if_true]

/-- A command of the row's own OP is checked whole before it moves a unit. -/
theorem State.copyCommand_ready (hready : s.copyReady n = true) (hop : le e 0 1 = op) : s.copyCommand n op e run =
    if s.copyBad n e then s.copyResult n 1 else (run s).1.copyResult n (run s).2 := by
  simp only [State.copyCommand, hready, hop, ne_eq, not_true_eq_false, decide_false, Bool.not_true, Bool.false_and,
    Bool.or_self, Bool.false_eq_true, if_false]

end

section
variable {s : State} {n a : Nat} {bs : List Byte} {rest : List HostRead} {unit : HostRead}

/-- A unit that cannot be written, or that the host did not return, ends the copy. -/
theorem State.copyInUnits_unmapped (hunmapped : s.writableRange n a 64 = false) :
    s.copyInUnits n a (unit :: rest) = (s.flagUnmapped n a, 2) := by
  simp only [State.copyInUnits, hunmapped, Bool.not_false, if_true]

variable (hmapped : s.writableRange n a 64 = true)
include hmapped

theorem State.copyInUnits_error : s.copyInUnits n a (.error :: rest) = (s, 4) := by
  simp only [State.copyInUnits, hmapped, Bool.not_true, Bool.false_eq_true, if_false]

theorem State.copyInUnits_data :
    s.copyInUnits n a (.data bs :: rest) = (s.putBytes n a (sub bs 0 64)).copyInUnits n (a + 64) rest := by
  simp only [State.copyInUnits, hmapped, Bool.not_true, Bool.false_eq_true, if_false]

end

/-! The staging window (R411) -/

section
variable {s : State} {off len k : Nat} {bs : List Byte} {write : Bool}

theorem exec_hdmAccess_notRunning (hphase : s.phase ≠ .running) : exec (.hdmAccess off len bs write) s = .next s :=
  congrArg _ (if_pos (.inl hphase))

variable (hrunning : s.phase = .running) (hup : s.flag Fld.GLB_LINK_STATUS_LINK_UP = true)
include hrunning hup

theorem exec_hdmAccess_backed (hkey : s.hdmKey off = some k) : exec (.hdmAccess off len bs write) s =
    .next (if write then { s with mem := s.mem.putList k bs } else s.complete (ofBytes (s.mem.bytes k len)) false) := by
  simp only [exec, execHdmAccess, hrunning, hup, hkey, ne_eq, not_true_eq_false, or_self, if_false]

/-- Without backing a write is discarded and a read is poisoned. -/
theorem exec_hdmAccess_unbacked (hnone : s.hdmKey off = none) : exec (.hdmAccess off len bs write) s =
    .next (if write then s else s.complete 0 true) := by
  simp only [exec, execHdmAccess, hrunning, hup, hnone, ne_eq, not_true_eq_false, or_self, if_false]

end

/-- Settles O56: a doorbell's address names its queue and side, and each access is judged before it moves a byte. -/
theorem hostWindows : Obligations.HostWindows := by
  refine ⟨fun s n q v hopen hq => ?_, fun s n off v => exec_qwDoorbellWrite_closed, fun s n off bs => exec_apertureWrite,
    fun s n off bs => exec_apertureWrite_dropped, fun s n off len late =>
    ⟨exec_apertureRead_closed, exec_apertureRead_ones, fun hopen haccess hlate =>
      ⟨exec_apertureRead_unmapped hopen haccess hlate, fun bs t => exec_apertureRead_data hopen haccess hlate,
        fun t => exec_apertureRead_poisoned hopen haccess hlate⟩⟩,
    fun s n op e units c r hready hop hc => ?_, fun s n e units hnone => ⟨congrArg _ (State.copyCommand_notReady hnone),
      congrArg _ (State.copyCommand_notReady hnone)⟩, fun s n a bs rest => ⟨State.copyInUnits_unmapped,
      State.copyInUnits_error, State.copyInUnits_data⟩, fun s off len k bs hrunning hup =>
      ⟨fun hkey => ⟨exec_hdmAccess_backed hrunning hup hkey, exec_hdmAccess_backed hrunning hup hkey⟩,
        fun hnone => ⟨exec_hdmAccess_unbacked hrunning hup hnone, exec_hdmAccess_unbacked hrunning hup hnone⟩⟩,
    fun s off len bs w => exec_hdmAccess_notRunning⟩
  · have htail := exec_qwDoorbellWrite_tail (v := v) hopen hq
    have hhead := exec_qwDoorbellWrite_head (v := v) hopen hq
    refine ⟨fun henabled hhost hin => ?_, fun hbad => ?_, fun hin => ?_, fun hout => ?_⟩
    · rw [htail, henabled, hhost, decide_eq_false (Nat.not_le.2 hin)]
      rfl
    · rw [htail, if_pos]
      simpa only [Bool.or_eq_true, Bool.not_eq_true', decide_eq_true_eq, or_assoc] using hbad
    · rw [hhead, if_neg (Nat.not_le.2 hin)]
    · rw [hhead, if_pos hout]
  · have hexec : exec c s = .next (if s.copyBad n e then s.copyResult n 1 else r.1.copyResult n r.2) := by
      simp only [List.mem_cons, List.not_mem_nil, or_false, Prod.mk.injEq] at hc
      obtain ⟨rfl, rfl, rfl⟩ | ⟨rfl, rfl, rfl⟩ := hc <;> exact congrArg _ (State.copyCommand_ready hready hop)
    exact ⟨fun hbad => by rw [hexec, if_pos hbad], fun hgood => by rw [hexec, hgood, if_neg Bool.false_ne_true]⟩

end Sys2Proof.Machine
end

section
/-! Proofs: the management endpoint (21_address_map.md R427-R429, Table 21.3). -/

namespace Sys2Proof.Machine

open Sys2Proof

-- One theorem after another: the tasks of the whole text together stand near the memory limit of its check.
set_option Elab.async false

/-! I3C addresses (R427) -/

section
variable {s : State} {x a : Nat}

theorem exec_entdaa (hnone : s.mgmt.i3cAddr = none) (ha : a < 128) : exec (.entdaa a) s =
    .next { s with mgmt := { s.mgmt with i3cAddr := some a, sentId := provisionalId } } := by
  simp only [exec, execEntdaa, hnone, Option.isNone_none, decide_eq_true ha, Bool.and_self, if_true]

theorem exec_setdasa (hnone : s.mgmt.i3cAddr = none) (ha : a < 128) :
    exec (.setdasa 0x3A a) s = .next { s with mgmt := { s.mgmt with i3cAddr := some a } } :=
  congrArg _ (if_pos ⟨rfl, hnone, ha⟩)

/-- A target with an address keeps it. -/
theorem exec_entdaa_addressed (hsome : s.mgmt.i3cAddr.isSome = true) : exec (.entdaa a) s = .next s := by
  simp only [exec, execEntdaa, Option.isNone_eq_false_iff.2 hsome, Bool.false_and, Bool.false_eq_true, if_false]

theorem exec_setdasa_addressed (hsome : s.mgmt.i3cAddr.isSome = true) : exec (.setdasa x a) s = .next s :=
  congrArg _ (if_neg (fun h => Option.isSome_iff_ne_none.1 hsome h.2.1))

theorem exec_setdasa_elsewhere (hother : x ≠ 0x3A) : exec (.setdasa x a) s = .next s :=
  congrArg _ (if_neg (fun h => hother h.1))

end

/-! The endpoint (R428, R429) -/

theorem State.mctpRespond_present {s : State} (h : s.endpoint = true) (r : List Byte) :
    s.mctpRespond r = { s with mgmt := { s.mgmt with response := r } } := if_pos h

theorem State.mctpRespond_absent {s : State} (h : s.endpoint = false) (r : List Byte) : s.mctpRespond r = s := by
  rw [State.mctpRespond, h, if_neg Bool.false_ne_true]

section
variable {s : State} (hpresent : s.endpoint = true)
include hpresent

/-- A message that only answers. -/
theorem exec_responds {c : Instr} {r : List Byte} (h : exec c s = .next (s.mctpRespond r)) :
    exec c s = .next { s with mgmt := { s.mgmt with response := r } } := by
  rw [h, State.mctpRespond_present hpresent]

theorem exec_health : exec .health s = .next { s with mgmt := { s.mgmt with
    response := mctpReply (if s.phase = .rom then 0x20 else 0) 0
      (healthRegs.flatMap (fun x => toBytes 8 (s.regRead x.1 x.2.1 x.2.2))) } } :=
  exec_responds hpresent rfl

theorem exec_setEndpointId_set {op eid : Nat} (hop : op < 2) (hlo : 8 ≤ eid) (hhi : eid ≤ 254) :
    exec (.setEndpointId op eid) s = .next { s with mgmt := { s.mgmt with
      eid := eid, response := toBytes 1 0 ++ toBytes 1 0 ++ toBytes 1 eid ++ toBytes 1 0 } } := by
  have hok : (decide (op < 2) && decide (8 ≤ eid) && decide (eid ≤ 254)) = true := by
    rw [decide_eq_true hop, decide_eq_true hlo, decide_eq_true hhi]
    rfl
  have hthere : State.endpoint { s with mgmt := { s.mgmt with eid := eid } } = true := hpresent
  simp only [exec, execSetEndpointId, hok, hpresent, Bool.and_self, if_true, State.mctpRespond_present hthere]

/-- Another operation, or an EID out of range, is refused with completion code 2. -/
theorem exec_setEndpointId_refused {op eid : Nat} (hbad : 2 ≤ op ∨ eid < 8 ∨ 254 < eid) :
    exec (.setEndpointId op eid) s = .next { s with mgmt := { s.mgmt with
      response := toBytes 1 2 ++ toBytes 1 0 ++ toBytes 1 s.mgmt.eid ++ toBytes 1 0 } } := by
  have hok : (decide (op < 2) && decide (8 ≤ eid) && decide (eid ≤ 254)) = false := by
    simp only [Bool.and_eq_false_iff, decide_eq_false_iff_not]
    omega
  simp only [exec, execSetEndpointId, hok, Bool.false_and, Bool.false_eq_true, if_false,
    State.mctpRespond_present hpresent]

theorem exec_getMctpVersionSupport {k : Nat} : exec (.getMctpVersionSupport k) s = .next { s with mgmt := { s.mgmt with
    response := if k = 0xFF ∨ k = 0x00 ∨ k = 0x7E then [0x00, 0x01, 0xF1, 0xF3, 0xF1, 0x00] else [0x80] } } := by
  have hlisted : [0xFF, 0x00, 0x7E].contains k = true ↔ k = 0xFF ∨ k = 0x00 ∨ k = 0x7E := by
    simp only [List.contains_iff_mem, List.mem_cons, List.not_mem_nil, or_false]
  simp only [exec, execGetMctpVersionSupport, State.mctpRespond_present hpresent, hlisted]

theorem exec_vidApplied_rom (hrom : s.phase = .rom) :
    exec .vidApplied s = .next { s with mgmt := { s.mgmt with response := mctpReply 0x20 0 [] } } := by
  simp only [exec, execVidApplied, hrom, State.mctpRespond_present hpresent]

theorem exec_vidApplied (hrom : s.phase ≠ .rom) (hfault : s.phase ≠ .packageFault) :
    exec .vidApplied s = .next { s.applyVid with mgmt := { s.mgmt with response := mctpReply 0 0 [] } } := by
  have hthere : s.applyVid.endpoint = true := hpresent
  simp only [exec, execVidApplied, hpresent, if_true]
  exact congrArg _ (State.mctpRespond_present hthere _)

end

/-! Heartwood's commands (R429) -/

section
variable {s u v : State} {w : Word} {ofStand : Bool} {args : List Byte} {len : Nat} {run : State → State × Reply}
  {r : Reply}

/-- The retry time of a response: an open estimate with TRY_LATER, otherwise 0. -/
def retryTime (w : Word) (r : Reply) : Nat := if r.status = 1 then 1 + w.toNat % 65535 else 0

theorem State.mctpHeart_running (hpresent : s.endpoint = true) (hrunning : s.phase = .running)
    (htaken : s.fld Fld.HWD_STATUS_STATE ≠ 2) (hdrawn : s.draw = (w, u)) (hlen : len ≤ args.length) :
    s.mctpHeart ofStand args len run =
      (run u).1.mctpRespond (mctpReply (run u).2.status (retryTime w (run u).2) (run u).2.data) := by
  have hu : s.draw.2 = u := congrArg Prod.snd hdrawn
  have hphase : u.phase = .running := hu ▸ hrunning
  have hstate : ¬u.fld Fld.HWD_STATUS_STATE = 2 := hu ▸ htaken
  simp only [State.mctpHeart, hdrawn, hpresent, hphase, hstate, Nat.not_lt.2 hlen, Bool.not_true, Bool.false_eq_true,
    reduceCtorEq, ne_eq, not_true_eq_false, and_false, if_false, retryTime]

theorem State.mctpHeart_absent (habsent : s.endpoint = false) : s.mctpHeart ofStand args len run = s := by
  simp only [State.mctpHeart, habsent, Bool.not_false, if_true]

end

/-! An endpoint that is absent (Table 21.3) -/

section
variable {s : State} (habsent : s.endpoint = false)
include habsent

/-- The endpoint is absent in none of the phases that VID_APPLIED answers by name. -/
theorem exec_vidApplied_absent : exec .vidApplied s = .next s := by
  simp only [exec, execVidApplied, State.mctpRespond_absent habsent, habsent, Bool.false_eq_true, if_false]
  split <;> rfl

theorem exec_setEndpointId_absent {op eid : Nat} : exec (.setEndpointId op eid) s = .next s := by
  simp only [exec, execSetEndpointId, habsent, Bool.and_false, Bool.false_eq_true, if_false,
    State.mctpRespond_absent habsent]

theorem exec_management_absent {args : List Byte} {fails op eid k : Nat} {c : Instr}
    (hc : c ∈ [Instr.health, .vidApplied, .getEndpointId, .getMessageTypeSupport, .setEndpointId op eid,
      .getMctpVersionSupport k, .getVendorMessageSupport k, .mctpGetQuote args fails, .mctpGetLog args, .mctpGetCert,
      .mctpGetKemKey args]) : exec c s = .next s := by
  have hrespond := State.mctpRespond_absent habsent
  simp only [List.mem_cons, List.not_mem_nil, or_false] at hc
  obtain rfl | rfl | rfl | rfl | rfl | rfl | rfl | rfl | rfl | rfl | rfl := hc
  · exact congrArg _ (hrespond _)
  · exact exec_vidApplied_absent habsent
  · exact congrArg _ (hrespond _)
  · exact congrArg _ (hrespond _)
  · exact exec_setEndpointId_absent habsent
  · exact congrArg _ (hrespond _)
  · exact congrArg _ (hrespond _)
  all_goals exact congrArg _ (State.mctpHeart_absent habsent)

end

/-- Settles O57: the endpoint's answer is its response register and nothing else (`State.mctpRespond`), and a Heartwood
command answers what its mailbox would (`State.mctpHeart`). -/
theorem management : Obligations.Management := by
  refine ⟨fun s a hnone ha => ⟨exec_entdaa hnone ha, exec_setdasa hnone ha⟩,
    fun s x a hsome => ⟨exec_entdaa_addressed hsome, exec_setdasa_addressed hsome⟩,
    fun s x a => exec_setdasa_elsewhere, fun s hpresent => ?_, fun s args fails op eid k habsent c hc =>
      ⟨_, exec_management_absent habsent hc, rfl, rfl, rfl⟩⟩
  refine ⟨⟨_, exec_health hpresent, rfl, rfl⟩, ⟨_, exec_responds hpresent rfl, rfl⟩,
    fun op eid hop hlo hhi => ⟨_, exec_setEndpointId_set hpresent hop hlo hhi, rfl, rfl⟩,
    fun op eid hbad => ⟨_, exec_setEndpointId_refused hpresent hbad, rfl, rfl⟩,
    ⟨_, exec_responds hpresent rfl, rfl⟩, fun k => ⟨_, exec_getMctpVersionSupport hpresent, rfl⟩,
    fun k => ⟨_, exec_responds hpresent rfl, rfl⟩, fun hrom hfault =>
      ⟨_, exec_vidApplied hpresent hrom hfault, s.flag_applyVid, rfl⟩, fun hrom =>
      ⟨_, exec_vidApplied_rom hpresent hrom, rfl, rfl⟩, fun hrunning htaken w u hdrawn => ?_⟩
  have hanswers : ∀ {ofStand : Bool} {args : List Byte} {len : Nat} {run : State → State × Reply}, len ≤ args.length →
      s.mctpHeart ofStand args len run = (run u).1.mctpRespond (mctpReply (run u).2.status (retryTime w (run u).2)
        (run u).2.data) := State.mctpHeart_running hpresent hrunning htaken hdrawn
  refine ⟨fun args fails hlen => congrArg _ (hanswers hlen), fun args hlen => congrArg _ ((hanswers hlen).trans ?_),
    fun args hlen => congrArg _ ((hanswers hlen).trans ?_), congrArg _ (hanswers (Nat.zero_le _))⟩
  · rw [State.getLog_fst]
    rfl
  · rw [State.getKemKey_fst]
    rfl

end Sys2Proof.Machine
end
